-- ==== Sys2Proof/Word.lean ====
section
/-! DEFINITION. The word types of the machine and their plainest arithmetic (00 R6, R9). -/

namespace Sys2Proof

/-- A 64-bit register, word or generic address (01 R16). -/
abbrev Word := BitVec 64

/-- One byte of memory (01 R17). -/
abbrev Byte := BitVec 8

/-- A scalar or vector register number (02 R43). -/
abbrev Reg := BitVec 5

/-- A mask or tile register number (02 R46). -/
abbrev MReg := BitVec 3

/-- A strand context number, TID[12:0] (01 R21). -/
abbrev Tid := BitVec 13

/-- A package cluster number, TID[12:6] (01 R21). -/
abbrev ClusterNo := BitVec 7

/-- A compute die number, TID[12:11] (01 R21). -/
abbrev DieNo := BitVec 2

/-- A tenant number (01 R21). -/
abbrev TenantNo := BitVec 5

/-- The package core number TID[12:2] (01 R21). -/
def Tid.core (t : Tid) : Nat := t.toNat / 4

/-- The package cluster number TID[12:6] (01 R21). -/
def Tid.cluster (t : Tid) : Nat := t.toNat / 64

/-- The die number TID[12:11] (01 R21). -/
def Tid.die (t : Tid) : Nat := t.toNat / 2048

/-- The context number TID[1:0] within the core (01 R21). -/
def Tid.ctx (t : Tid) : Nat := t.toNat % 4

/-- One bit as a word. -/
def boolWord (b : Bool) : Word := if b then 1 else 0

end Sys2Proof
end

