-- ==== Sys2Proof/Syntax.lean ====
section
/-! DEFINITION. The instructions and events of the opcode table: one constructor of `Instr` per row (02 R39 to R67,
95_what_each_step_holds.md), with the operand codes as types of their own. -/

namespace Sys2Proof

/-- A scope (02 R45). -/
inductive Scope | st | co | cl | di | pk | sy
  deriving DecidableEq, Repr

/-- A memory order (02 R45). -/
inductive Order | rlx | acq | rel | ar | sc
  deriving DecidableEq, Repr

/-- A scalar floating-point format (01 R18, 02 R61). -/
inductive FFmt | fp16 | bf16 | fp32 | fp64
  deriving DecidableEq, Repr

/-- The rounding field of a scalar floating-point instruction (02 R61); `dyn` selects FRM.MODE. -/
inductive Rm | rne | rtz | rdn | rup | rmm | dyn
  deriving DecidableEq, Repr

/-- The type codes of FCVT (02 R61). -/
inductive NumTy | fp16 | bf16 | fp32 | fp64 | sint64 | uint64 | sint32 | uint32
  deriving DecidableEq, Repr

/-- An element kind, VT.KIND (01 R21, 07 R213). -/
inductive VKind | sint | uint | fp | bf16 | e4m3 | e5m2 | fp4 | cb8 | rns
  deriving DecidableEq, Repr

/-- An element width, VT.SEW (01 R21). -/
inductive Sew | w8 | w16 | w32 | w64
  deriving DecidableEq, Repr

/-- The instructions with an I-format immediate that ADDI_IMM32 covers (02 R51). -/
inductive ImmOp | addi | andi | ori | xori | slti
  deriving DecidableEq, Repr

/-- The scalar loads (03 R83). -/
inductive LoadOp | ldb | ldbu | ldh | ldhu | ldw | ldwu | ldd
  deriving DecidableEq, Repr

/-- The scalar stores (03 R83). -/
inductive StoreOp | stb | sth | stw | std
  deriving DecidableEq, Repr

/-- The vector load forms (02 R63); `vld` with a non-zero `b` is the scaled transfer (08 R245). -/
inductive VLoadOp | vld | vlds | vldx | vldxO | vldff
  deriving DecidableEq, Repr

/-- The vector store forms (02 R63). -/
inductive VStoreOp | vst | vsts | vstx | vstxO | vstN
  deriving DecidableEq, Repr

/-- The atomic operations (02 R58, R63). -/
inductive VAmoOp | add | and | or | xor | min | max | minu | maxu | swap
  deriving DecidableEq, Repr

/-- How the host completes a device request (15 R433). -/
inductive HostStatus | success | poisoned | unsupported | aborted
  deriving DecidableEq, Repr

/-- What a Brulos flit asks for or answers (16 R444): the header's CLASS and OP, with the payload. The spec does not number
the values of OP, so the model keeps the meaning of each (log 22). -/
inductive FlitBody
  /-- A read of `len` bytes at a virtual address of the tenant on the target node. -/
  | load (va : Word) (len : Nat)
  /-- A posted write. -/
  | store (va : Word) (data : List Byte)
  /-- An atomic on `len` bytes: operation, operand, and the compare value of a CAS. -/
  | atomic (va : Word) (len : Nat) (op : Option VAmoOp) (x cmp : Word)
  /-- A reply with data. -/
  | reply (data : List Byte)
  /-- A reply that reports a fault by its cause code. -/
  | replyFault (cause : Nat)
  /-- A flit of a collective (16 R444); what it carries the spec does not say (log 57). -/
  | collective (data : List Byte)
  /-- A link-control NAK (16 R445). -/
  | nak
  /-- A link-control flit that carries only an acknowledgement. -/
  | idle
  deriving DecidableEq, Repr

/-- A Brulos flit (16 R444). -/
structure Flit where
  /-- Destination node. -/
  dst : BitVec 8
  /-- Source node. -/
  src : BitVec 8
  /-- Tenant of the request. -/
  tenant : TenantNo
  /-- Congestion mark. -/
  mark : Bool
  /-- Request tag, matched by the reply. -/
  tag : BitVec 12
  /-- Link sequence number. -/
  seq : BitVec 12
  /-- Last SEQ received in order. -/
  ack : BitVec 12
  /-- Class, operation and payload. -/
  body : FlitBody
  deriving DecidableEq, Repr

/-- What another member of a collective brings to it (16 R453): its OP word, its SEQ and its source elements, or the
index of its lowest faulting element. -/
structure Member where
  /-- The member's rank. -/
  rank : Nat
  /-- Descriptor word 0x00. -/
  opWord : Word
  /-- Descriptor word 0x18. -/
  seq : Word
  /-- Its elements, in order. -/
  elems : List Word
  /-- Its lowest faulting element, and whether the fault is poisoned data. -/
  stop : Option (Nat × Bool)
  deriving DecidableEq, Repr

/-- An instruction or an event: one constructor per row of the opcode table. -/
inductive Instr
  /-- Compact add of a 5-bit signed immediate to the implicit source L held in the last destination register (R48). -/
  | cAddi (d : Reg) (i : BitVec 5)
  /-- Compact add of register x to the implicit source L (R48). -/
  | cAdd (d : Reg) (x : BitVec 5)
  /-- Compact subtract of register x from the implicit source L (R48). -/
  | cSub (d : Reg) (x : BitVec 5)
  /-- Compact bitwise and of L with register x (R48). -/
  | cAnd (d : Reg) (x : BitVec 5)
  /-- Compact bitwise or of L with register x (R48). -/
  | cOr (d : Reg) (x : BitVec 5)
  /-- Compact bitwise xor of L with register x (R48). -/
  | cXor (d : Reg) (x : BitVec 5)
  /-- Compact left shift of L by an immediate from 0 to 31 (R48). -/
  | cShli (d : Reg) (k : BitVec 5)
  /-- Compact logical right shift of L by an immediate (R48). -/
  | cShri (d : Reg) (k : BitVec 5)
  /-- Compact arithmetic right shift of L by an immediate (R48). -/
  | cSrai (d : Reg) (k : BitVec 5)
  /-- Compact copy of L to register d (R48). -/
  | cMv (d : Reg)
  /-- Compact 64-bit load from L plus 8 times k (R48). -/
  | cLdd (d : Reg) (k : BitVec 5)
  /-- Compact 64-bit store of register d to L plus 8 times k (R48). -/
  | cStd (d : Reg) (k : BitVec 5)
  /-- Compact sign-extending 32-bit load from L plus 4 times k (R48). -/
  | cLdw (d : Reg) (k : BitVec 5)
  /-- Compact branch by a 10-bit parcel offset when L is zero (R48). -/
  | cBeqz (o : BitVec 10)
  /-- Compact branch by a 10-bit parcel offset when L is not zero (R48). -/
  | cBnez (o : BitVec 10)
  /-- Compact jump to L with bit 0 cleared, linking the next address into register d (R48). -/
  | cJalr (d : Reg)
  /-- Adds two scalar registers modulo 2^64 (R75). -/
  | add (d : Reg) (a : Reg) (b : Reg)
  /-- Subtracts one scalar register from another (R75). -/
  | sub (d : Reg) (a : Reg) (b : Reg)
  /-- Bitwise and of two registers (R75). -/
  | and (d : Reg) (a : Reg) (b : Reg)
  /-- Bitwise or of two registers (R75). -/
  | or (d : Reg) (a : Reg) (b : Reg)
  /-- Bitwise xor of two registers (R75). -/
  | xor (d : Reg) (a : Reg) (b : Reg)
  /-- Left shift by s[b][5:0] (R75). -/
  | shl (d : Reg) (a : Reg) (b : Reg)
  /-- Logical right shift by s[b][5:0] (R75). -/
  | shr (d : Reg) (a : Reg) (b : Reg)
  /-- Arithmetic right shift by s[b][5:0] (R75). -/
  | sra (d : Reg) (a : Reg) (b : Reg)
  /-- Signed minimum of two registers (R75). -/
  | min (d : Reg) (a : Reg) (b : Reg)
  /-- Signed maximum of two registers (R75). -/
  | max (d : Reg) (a : Reg) (b : Reg)
  /-- Unsigned minimum of two registers (R75). -/
  | minu (d : Reg) (a : Reg) (b : Reg)
  /-- Unsigned maximum of two registers (R75). -/
  | maxu (d : Reg) (a : Reg) (b : Reg)
  /-- Writes 1 when s[a] is signed-less than s[b], else 0 (R75). -/
  | slt (d : Reg) (a : Reg) (b : Reg)
  /-- Writes 1 when s[a] is unsigned-less than s[b], else 0 (R75). -/
  | sltu (d : Reg) (a : Reg) (b : Reg)
  /-- Rotates left by s[b][5:0] (R75). -/
  | rotl (d : Reg) (a : Reg) (b : Reg)
  /-- Rotates right by s[b][5:0] (R75). -/
  | rotr (d : Reg) (a : Reg) (b : Reg)
  /-- Adds s[b] shifted left by k from 0 to 4 to s[a] (R75). -/
  | addsc (d : Reg) (a : Reg) (b : Reg) (k : BitVec 3)
  /-- Low 64 bits of the product (R76). -/
  | mul (d : Reg) (a : Reg) (b : Reg)
  /-- High 64 bits of the signed product (R76). -/
  | mulh (d : Reg) (a : Reg) (b : Reg)
  /-- High 64 bits of the unsigned product (R76). -/
  | mulhu (d : Reg) (a : Reg) (b : Reg)
  /-- Signed division on the shared divider; division by zero sets IFLAGS.DZ (R76). -/
  | div (d : Reg) (a : Reg) (b : Reg)
  /-- Unsigned division on the shared divider (R76). -/
  | divu (d : Reg) (a : Reg) (b : Reg)
  /-- Signed remainder with the sign of the dividend (R76). -/
  | rem (d : Reg) (a : Reg) (b : Reg)
  /-- Unsigned remainder (R76). -/
  | remu (d : Reg) (a : Reg) (b : Reg)
  /-- Low half of the carry-less product (R76). -/
  | clmul (d : Reg) (a : Reg) (b : Reg)
  /-- High half of the carry-less product (R76). -/
  | clmulh (d : Reg) (a : Reg) (b : Reg)
  /-- Counts leading zero bits (R78). -/
  | clz (d : Reg) (a : Reg)
  /-- Counts trailing zero bits (R78). -/
  | ctz (d : Reg) (a : Reg)
  /-- Counts one bits (R78). -/
  | popc (d : Reg) (a : Reg)
  /-- Reverses the bit order (R78). -/
  | brev (d : Reg) (a : Reg)
  /-- Reverses the byte order (R78). -/
  | bswap (d : Reg) (a : Reg)
  /-- Adds a sign-extended 14-bit immediate (R75). -/
  | addi (d : Reg) (a : Reg) (i : BitVec 14)
  /-- Bitwise and with a sign-extended immediate (R75). -/
  | andi (d : Reg) (a : Reg) (i : BitVec 14)
  /-- Bitwise or with a sign-extended immediate (R75). -/
  | ori (d : Reg) (a : Reg) (i : BitVec 14)
  /-- Bitwise xor with a sign-extended immediate (R75). -/
  | xori (d : Reg) (a : Reg) (i : BitVec 14)
  /-- Signed compare with an immediate, writing 1 or 0 (R75). -/
  | slti (d : Reg) (a : Reg) (i : BitVec 14)
  /-- Left shift by an immediate from 0 to 63 (R75). -/
  | shli (d : Reg) (a : Reg) (k : BitVec 6)
  /-- Logical right shift by an immediate (R75). -/
  | shri (d : Reg) (a : Reg) (k : BitVec 6)
  /-- Arithmetic right shift by an immediate (R75). -/
  | srai (d : Reg) (a : Reg) (k : BitVec 6)
  /-- Writes the sign-extended 19-bit immediate shifted left by 13 (R79). -/
  | lih (d : Reg) (i : BitVec 19)
  /-- Writes PC plus the immediate shifted left by 13 (R79). -/
  | addpc (d : Reg) (i : BitVec 19)
  /-- Branches when the two registers are equal (R80). -/
  | beq (a : Reg) (b : Reg) (i : BitVec 14)
  /-- Branches when the two registers differ (R80). -/
  | bne (a : Reg) (b : Reg) (i : BitVec 14)
  /-- Branches on signed less-than (R80). -/
  | blt (a : Reg) (b : Reg) (i : BitVec 14)
  /-- Branches on signed greater-or-equal (R80). -/
  | bge (a : Reg) (b : Reg) (i : BitVec 14)
  /-- Branches on unsigned less-than (R80). -/
  | bltu (a : Reg) (b : Reg) (i : BitVec 14)
  /-- Branches on unsigned greater-or-equal (R80). -/
  | bgeu (a : Reg) (b : Reg) (i : BitVec 14)
  /-- Jumps by a 19-bit parcel offset and links PC plus length (R81). -/
  | jal (d : Reg) (i : BitVec 19)
  /-- Jumps to register plus immediate with bit 0 cleared and links (R81). -/
  | jalr (d : Reg) (a : Reg) (i : BitVec 14)
  /-- Sign-extending byte load (R83). -/
  | ldb (d : Reg) (a : Reg) (i : BitVec 14)
  /-- Zero-extending byte load (R83). -/
  | ldbu (d : Reg) (a : Reg) (i : BitVec 14)
  /-- Sign-extending half load (R83). -/
  | ldh (d : Reg) (a : Reg) (i : BitVec 14)
  /-- Zero-extending half load (R83). -/
  | ldhu (d : Reg) (a : Reg) (i : BitVec 14)
  /-- Sign-extending word load (R83). -/
  | ldw (d : Reg) (a : Reg) (i : BitVec 14)
  /-- Zero-extending word load (R83). -/
  | ldwu (d : Reg) (a : Reg) (i : BitVec 14)
  /-- Doubleword load (R83). -/
  | ldd (d : Reg) (a : Reg) (i : BitVec 14)
  /-- Byte store entering the write queue (R83). -/
  | stb (d : Reg) (a : Reg) (i : BitVec 14)
  /-- Half store entering the write queue (R83). -/
  | sth (d : Reg) (a : Reg) (i : BitVec 14)
  /-- Word store entering the write queue (R83). -/
  | stw (d : Reg) (a : Reg) (i : BitVec 14)
  /-- Doubleword store entering the write queue (R83). -/
  | std (d : Reg) (a : Reg) (i : BitVec 14)
  /-- IMM-prefixed form of ADDI, ANDI, ORI, XORI or SLTI with a 32-bit immediate (R52). -/
  | addiImm32 (op : ImmOp) (d : Reg) (a : Reg) (i : BitVec 32)
  /-- IMM-prefixed LIH writing sext(imm32) shifted left by 32 (R52). -/
  | lihImm32 (d : Reg) (i : BitVec 32)
  /-- IMM-prefixed ADDPC adding sext(imm32) shifted left by 32 to the prefix address (R52). -/
  | addpcImm32 (d : Reg) (i : BitVec 32)
  /-- IMM-prefixed JALR linking PC plus 8 (R81). -/
  | jalrImm32 (d : Reg) (a : Reg) (i : BitVec 32)
  /-- IMM-prefixed scalar load of any width with a 32-bit offset (R83). -/
  | loadImm32 (op : LoadOp) (d : Reg) (a : Reg) (i : BitVec 32)
  /-- IMM-prefixed scalar store of any width with a 32-bit offset (R83). -/
  | storeImm32 (op : StoreOp) (d : Reg) (a : Reg) (i : BitVec 32)
  /-- 64-bit atomic add with scope and order (R89). -/
  | amoAddD (d : Reg) (a : Reg) (b : Reg) (o : Order) (s : Scope)
  /-- 64-bit atomic and (R89). -/
  | amoAndD (d : Reg) (a : Reg) (b : Reg) (o : Order) (s : Scope)
  /-- 64-bit atomic or, also the atomic read form with s0 (R89). -/
  | amoOrD (d : Reg) (a : Reg) (b : Reg) (o : Order) (s : Scope)
  /-- 64-bit atomic xor (R89). -/
  | amoXorD (d : Reg) (a : Reg) (b : Reg) (o : Order) (s : Scope)
  /-- 64-bit atomic signed minimum (R89). -/
  | amoMinD (d : Reg) (a : Reg) (b : Reg) (o : Order) (s : Scope)
  /-- 64-bit atomic signed maximum (R89). -/
  | amoMaxD (d : Reg) (a : Reg) (b : Reg) (o : Order) (s : Scope)
  /-- 64-bit atomic unsigned minimum (R89). -/
  | amoMinuD (d : Reg) (a : Reg) (b : Reg) (o : Order) (s : Scope)
  /-- 64-bit atomic unsigned maximum (R89). -/
  | amoMaxuD (d : Reg) (a : Reg) (b : Reg) (o : Order) (s : Scope)
  /-- 64-bit atomic swap (R89). -/
  | amoSwapD (d : Reg) (a : Reg) (b : Reg) (o : Order) (s : Scope)
  /-- 64-bit compare-and-swap against s[d] (R89). -/
  | casD (d : Reg) (a : Reg) (b : Reg) (o : Order) (s : Scope)
  /-- 32-bit atomic add (R89). -/
  | amoAddW (d : Reg) (a : Reg) (b : Reg) (o : Order) (s : Scope)
  /-- 32-bit atomic and (R89). -/
  | amoAndW (d : Reg) (a : Reg) (b : Reg) (o : Order) (s : Scope)
  /-- 32-bit atomic or (R89). -/
  | amoOrW (d : Reg) (a : Reg) (b : Reg) (o : Order) (s : Scope)
  /-- 32-bit atomic xor (R89). -/
  | amoXorW (d : Reg) (a : Reg) (b : Reg) (o : Order) (s : Scope)
  /-- 32-bit atomic signed minimum (R89). -/
  | amoMinW (d : Reg) (a : Reg) (b : Reg) (o : Order) (s : Scope)
  /-- 32-bit atomic signed maximum (R89). -/
  | amoMaxW (d : Reg) (a : Reg) (b : Reg) (o : Order) (s : Scope)
  /-- 32-bit atomic unsigned minimum (R89). -/
  | amoMinuW (d : Reg) (a : Reg) (b : Reg) (o : Order) (s : Scope)
  /-- 32-bit atomic unsigned maximum (R89). -/
  | amoMaxuW (d : Reg) (a : Reg) (b : Reg) (o : Order) (s : Scope)
  /-- 32-bit atomic swap (R89). -/
  | amoSwapW (d : Reg) (a : Reg) (b : Reg) (o : Order) (s : Scope)
  /-- 32-bit compare-and-swap (R89). -/
  | casW (d : Reg) (a : Reg) (b : Reg) (o : Order) (s : Scope)
  /-- Classifies a generic address by window without accessing it (R93). -/
  | space (d : Reg) (a : Reg)
  /-- Builds a generic address from a window offset (R94). -/
  | castg (d : Reg) (a : Reg) (w : BitVec 3)
  /-- Recovers the window offset of a generic address, checking tag and core (R95). -/
  | casts (d : Reg) (a : Reg) (w : BitVec 3)
  /-- Scalar floating add rounded once (R97). -/
  | fadd (d : Reg) (a : Reg) (b : Reg) (t : FFmt) (r : Rm)
  /-- Scalar floating subtract (R97). -/
  | fsub (d : Reg) (a : Reg) (b : Reg) (t : FFmt) (r : Rm)
  /-- Scalar floating multiply (R97). -/
  | fmul (d : Reg) (a : Reg) (b : Reg) (t : FFmt) (r : Rm)
  /-- Scalar floating divide on the core divider (R97). -/
  | fdiv (d : Reg) (a : Reg) (b : Reg) (t : FFmt) (r : Rm)
  /-- Scalar floating square root on the core divider (R97). -/
  | fsqrt (d : Reg) (a : Reg) (t : FFmt) (r : Rm)
  /-- Floating minimum with -0 below +0 (R98). -/
  | fmin (d : Reg) (a : Reg) (b : Reg) (t : FFmt)
  /-- Floating maximum (R98). -/
  | fmax (d : Reg) (a : Reg) (b : Reg) (t : FFmt)
  /-- Magnitude of a with the sign of b (R99). -/
  | fsgnCopy (d : Reg) (a : Reg) (b : Reg) (t : FFmt)
  /-- Magnitude of a with the inverted sign of b (R99). -/
  | fsgnNeg (d : Reg) (a : Reg) (b : Reg) (t : FFmt)
  /-- Magnitude of a with the xor of both signs (R99). -/
  | fsgnXor (d : Reg) (a : Reg) (b : Reg) (t : FFmt)
  /-- Floating equality compare writing 1 or 0 (R100). -/
  | fcmpEq (d : Reg) (a : Reg) (b : Reg) (t : FFmt)
  /-- Floating less-than compare (R100). -/
  | fcmpLt (d : Reg) (a : Reg) (b : Reg) (t : FFmt)
  /-- Floating less-or-equal compare (R100). -/
  | fcmpLe (d : Reg) (a : Reg) (b : Reg) (t : FFmt)
  /-- Writes a one-hot classification of the operand (R101). -/
  | fclass (d : Reg) (a : Reg) (t : FFmt)
  /-- Converts from the source type in b to the floating format of f[1:0] (R102). -/
  | fcvtToFloat (d : Reg) (a : Reg) (c : NumTy) (t : FFmt) (r : Rm)
  /-- Converts a floating value to the integer type in b with saturation (R103). -/
  | fcvtToInt (d : Reg) (a : Reg) (c : NumTy) (t : FFmt) (r : Rm)
  /-- Fused a times b plus d (R97). -/
  | fma (d : Reg) (a : Reg) (b : Reg) (t : FFmt) (r : Rm)
  /-- Fused a times b minus d (R97). -/
  | fms (d : Reg) (a : Reg) (b : Reg) (t : FFmt) (r : Rm)
  /-- Fused minus a times b plus d (R97). -/
  | fnma (d : Reg) (a : Reg) (b : Reg) (t : FFmt) (r : Rm)
  /-- Reads a control register, waiting for the vector queue for FFLAGS and IFLAGS (R105). -/
  | rdc (d : Reg) (n : BitVec 12)
  /-- Writes a control register after the access and value checks (R105). -/
  | wrc (a : Reg) (n : BitVec 12)
  /-- Sets bits of a control register (R105). -/
  | setc (a : Reg) (n : BitVec 12)
  /-- Clears bits of a control register (R105). -/
  | clrc (a : Reg) (n : BitVec 12)
  /-- Reserves a mailbox entry and sends a message, writing a status (R166). -/
  | send (d : Reg) (a : Reg) (b : Reg)
  /-- Removes the oldest waiting message, writing payload and header (R168). -/
  | recv (d : Reg) (a : Reg)
  /-- Parks until a message waits, delivering a continuation to s[CREG] (R170). -/
  | waitmsg
  /-- Reports the message count and the oldest message's kind without removing it (R169). -/
  | pollmsg (d : Reg)
  /-- Returns lull calendar information selected by s[a] (R422). -/
  | lullq (d : Reg) (a : Reg)
  /-- Parks the strand until the current or next lull span ends (R423). -/
  | lullw
  /-- Traps with the system-call cause, or makes a firmware call at supervisor (R111). -/
  | svc (k : BitVec 10)
  /-- Returns from a trap to EPC, restoring level and last destination and resuming the held queue (R113). -/
  | eret
  /-- Traps with the breakpoint cause, or halts under an attached debugger (R112). -/
  | brk (k : BitVec 10)
  /-- Waits for earlier stores at cluster scope and invalidates the instruction cache (R110). -/
  | ifence
  /-- Marks the strand instance as triggered for its launch (R115). -/
  | trigger
  /-- Begins ending the strand: waits for slots, queue and accesses (R116). -/
  | exit
  /-- The hint with every field zero; changes only LDV (R57). -/
  | nop
  /-- Row-activate hint for the DRAM bank of an address (R382). -/
  | ract (a : Reg)
  /-- Any other hint encoding, executed as NOP (R57). -/
  | hint (a : Reg) (b : Reg) (f : BitVec 6) (m : MReg)
  /-- Requests lane groups and a vector length, parking if none are available (R191). -/
  | vgrant (d : Reg) (a : Reg) (h : BitVec 5)
  /-- Non-blocking grant that returns 0 when no lane group is available (R191). -/
  | vgrantNb (d : Reg) (a : Reg) (h : BitVec 5)
  /-- Grant that discards and zeroes the vector context (R191). -/
  | vgrantZ (d : Reg) (a : Reg) (h : BitVec 5)
  /-- Sets the vector type, trapping if VL would exceed the new VLMAX (R195). -/
  | vtype (d : Reg) (a : Reg)
  /-- Unit-stride vector load (R244). -/
  | vld (d : Reg) (a : Reg) (m : MReg)
  /-- Unit-stride vector load that also loads scale bytes from the plane at s[b] (R245). -/
  | vldScaled (d : Reg) (a : Reg) (b : Reg) (m : MReg)
  /-- Strided vector load (R244). -/
  | vlds (d : Reg) (a : Reg) (b : Reg) (m : MReg)
  /-- Unordered indexed vector load (R244). -/
  | vldx (d : Reg) (a : Reg) (b : Reg) (m : MReg)
  /-- Indexed vector load performed in ascending index order (R124). -/
  | vldxO (d : Reg) (a : Reg) (b : Reg) (m : MReg)
  /-- Fault-first unit-stride load that truncates the mask at a later fault (R246). -/
  | vldff (d : Reg) (a : Reg) (m : MReg)
  /-- Unit-stride vector store (R244). -/
  | vst (d : Reg) (a : Reg) (m : MReg)
  /-- Unit-stride vector store that also stores scale bytes to the plane (R245). -/
  | vstScaled (d : Reg) (a : Reg) (b : Reg) (m : MReg)
  /-- Strided vector store (R244). -/
  | vsts (d : Reg) (a : Reg) (b : Reg) (m : MReg)
  /-- Unordered indexed vector store (R244). -/
  | vstx (d : Reg) (a : Reg) (b : Reg) (m : MReg)
  /-- Indexed vector store in ascending index order (R124). -/
  | vstxO (d : Reg) (a : Reg) (b : Reg) (m : MReg)
  /-- Vector store followed by a release progress write of the end address (R247). -/
  | vstN (d : Reg) (a : Reg) (b : Reg) (m : MReg)
  /-- Per-element atomic add returning old values (R248). -/
  | vamoAdd (d : Reg) (a : Reg) (b : Reg) (m : MReg)
  /-- Per-element atomic and (R248). -/
  | vamoAnd (d : Reg) (a : Reg) (b : Reg) (m : MReg)
  /-- Per-element atomic or (R248). -/
  | vamoOr (d : Reg) (a : Reg) (b : Reg) (m : MReg)
  /-- Per-element atomic xor (R248). -/
  | vamoXor (d : Reg) (a : Reg) (b : Reg) (m : MReg)
  /-- Per-element atomic signed minimum (R248). -/
  | vamoMin (d : Reg) (a : Reg) (b : Reg) (m : MReg)
  /-- Per-element atomic signed maximum (R248). -/
  | vamoMax (d : Reg) (a : Reg) (b : Reg) (m : MReg)
  /-- Per-element atomic unsigned minimum (R248). -/
  | vamoMinu (d : Reg) (a : Reg) (b : Reg) (m : MReg)
  /-- Per-element atomic unsigned maximum (R248). -/
  | vamoMaxu (d : Reg) (a : Reg) (b : Reg) (m : MReg)
  /-- Per-element atomic swap (R248). -/
  | vamoSwap (d : Reg) (a : Reg) (b : Reg) (m : MReg)
  /-- ORD-prefixed vector load form taking its scope and order from the prefix (R127). -/
  | vloadOrd (op : VLoadOp) (d : Reg) (a : Reg) (b : Reg) (m : MReg) (s : Scope) (o : Order)
  /-- ORD-prefixed vector store form, including VST.N, with prefix scope and order (R127). -/
  | vstoreOrd (op : VStoreOp) (d : Reg) (a : Reg) (b : Reg) (m : MReg) (s : Scope) (o : Order)
  /-- ORD-prefixed vector atomic with prefix scope and order (R127). -/
  | vamoOrd (op : VAmoOp) (d : Reg) (a : Reg) (b : Reg) (m : MReg) (s : Scope) (o : Order)
  /-- Element-wise add of two vectors (R250). -/
  | vaddVv (d : Reg) (a : Reg) (b : Reg) (m : MReg)
  /-- Element-wise subtract of two vectors (R250). -/
  | vsubVv (d : Reg) (a : Reg) (b : Reg) (m : MReg)
  /-- Element-wise multiply of two vectors (R250). -/
  | vmulVv (d : Reg) (a : Reg) (b : Reg) (m : MReg)
  /-- Element-wise high half of integer products (R251). -/
  | vmulhVv (d : Reg) (a : Reg) (b : Reg) (m : MReg)
  /-- Element-wise divide on the cluster divider (R251). -/
  | vdivVv (d : Reg) (a : Reg) (b : Reg) (m : MReg)
  /-- Element-wise integer remainder (R251). -/
  | vremVv (d : Reg) (a : Reg) (b : Reg) (m : MReg)
  /-- Element-wise minimum (R250). -/
  | vminVv (d : Reg) (a : Reg) (b : Reg) (m : MReg)
  /-- Element-wise maximum (R250). -/
  | vmaxVv (d : Reg) (a : Reg) (b : Reg) (m : MReg)
  /-- Element-wise bitwise and (R250). -/
  | vandVv (d : Reg) (a : Reg) (b : Reg) (m : MReg)
  /-- Element-wise bitwise or (R250). -/
  | vorVv (d : Reg) (a : Reg) (b : Reg) (m : MReg)
  /-- Element-wise bitwise xor (R250). -/
  | vxorVv (d : Reg) (a : Reg) (b : Reg) (m : MReg)
  /-- Element-wise left shift (R250). -/
  | vshlVv (d : Reg) (a : Reg) (b : Reg) (m : MReg)
  /-- Element-wise logical right shift (R250). -/
  | vshrVv (d : Reg) (a : Reg) (b : Reg) (m : MReg)
  /-- Element-wise arithmetic right shift (R250). -/
  | vsraVv (d : Reg) (a : Reg) (b : Reg) (m : MReg)
  /-- Element-wise fused multiply-add with vd as addend (R250). -/
  | vfmaVv (d : Reg) (a : Reg) (b : Reg) (m : MReg)
  /-- Element-wise fused multiply-subtract (R250). -/
  | vfmsVv (d : Reg) (a : Reg) (b : Reg) (m : MReg)
  /-- Element-wise negated fused multiply-add (R250). -/
  | vfnmaVv (d : Reg) (a : Reg) (b : Reg) (m : MReg)
  /-- Element-wise absolute value (R250). -/
  | vabs (d : Reg) (a : Reg) (m : MReg)
  /-- Element-wise negation (R250). -/
  | vneg (d : Reg) (a : Reg) (m : MReg)
  /-- Widening add into a double group (R254). -/
  | vwaddVv (d : Reg) (a : Reg) (b : Reg) (m : MReg)
  /-- Widening multiply into a double group (R254). -/
  | vwmulVv (d : Reg) (a : Reg) (b : Reg) (m : MReg)
  /-- Narrowing right shift from a double group (R255). -/
  | vnshrVv (d : Reg) (a : Reg) (b : Reg) (m : MReg)
  /-- Element-wise add of a scalar (R250). -/
  | vaddVx (d : Reg) (a : Reg) (b : Reg) (m : MReg)
  /-- Element-wise subtract of a scalar (R250). -/
  | vsubVx (d : Reg) (a : Reg) (b : Reg) (m : MReg)
  /-- Element-wise multiply by a scalar (R250). -/
  | vmulVx (d : Reg) (a : Reg) (b : Reg) (m : MReg)
  /-- High half of products with a scalar (R251). -/
  | vmulhVx (d : Reg) (a : Reg) (b : Reg) (m : MReg)
  /-- Element-wise divide by a scalar (R251). -/
  | vdivVx (d : Reg) (a : Reg) (b : Reg) (m : MReg)
  /-- Element-wise remainder by a scalar (R251). -/
  | vremVx (d : Reg) (a : Reg) (b : Reg) (m : MReg)
  /-- Element-wise minimum with a scalar (R250). -/
  | vminVx (d : Reg) (a : Reg) (b : Reg) (m : MReg)
  /-- Element-wise maximum with a scalar (R250). -/
  | vmaxVx (d : Reg) (a : Reg) (b : Reg) (m : MReg)
  /-- Element-wise and with a scalar (R250). -/
  | vandVx (d : Reg) (a : Reg) (b : Reg) (m : MReg)
  /-- Element-wise or with a scalar (R250). -/
  | vorVx (d : Reg) (a : Reg) (b : Reg) (m : MReg)
  /-- Element-wise xor with a scalar (R250). -/
  | vxorVx (d : Reg) (a : Reg) (b : Reg) (m : MReg)
  /-- Element-wise left shift by a scalar (R250). -/
  | vshlVx (d : Reg) (a : Reg) (b : Reg) (m : MReg)
  /-- Element-wise logical right shift by a scalar (R250). -/
  | vshrVx (d : Reg) (a : Reg) (b : Reg) (m : MReg)
  /-- Element-wise arithmetic right shift by a scalar (R250). -/
  | vsraVx (d : Reg) (a : Reg) (b : Reg) (m : MReg)
  /-- Fused multiply-add with a scalar multiplier (R250). -/
  | vfmaVx (d : Reg) (a : Reg) (b : Reg) (m : MReg)
  /-- Fused multiply-subtract with a scalar multiplier (R250). -/
  | vfmsVx (d : Reg) (a : Reg) (b : Reg) (m : MReg)
  /-- Negated fused multiply-add with a scalar multiplier (R250). -/
  | vfnmaVx (d : Reg) (a : Reg) (b : Reg) (m : MReg)
  /-- Widening add of a scalar (R254). -/
  | vwaddVx (d : Reg) (a : Reg) (b : Reg) (m : MReg)
  /-- Widening multiply by a scalar (R254). -/
  | vwmulVx (d : Reg) (a : Reg) (b : Reg) (m : MReg)
  /-- Narrowing right shift by a scalar (R255). -/
  | vnshrVx (d : Reg) (a : Reg) (b : Reg) (m : MReg)
  /-- Element-wise add of a signed 5-bit immediate (R250). -/
  | vaddVi (d : Reg) (a : Reg) (i : BitVec 5) (m : MReg)
  /-- Element-wise subtract of an immediate (R250). -/
  | vsubVi (d : Reg) (a : Reg) (i : BitVec 5) (m : MReg)
  /-- Element-wise minimum with an immediate (R250). -/
  | vminVi (d : Reg) (a : Reg) (i : BitVec 5) (m : MReg)
  /-- Element-wise maximum with an immediate (R250). -/
  | vmaxVi (d : Reg) (a : Reg) (i : BitVec 5) (m : MReg)
  /-- Element-wise and with an immediate (R250). -/
  | vandVi (d : Reg) (a : Reg) (i : BitVec 5) (m : MReg)
  /-- Element-wise or with an immediate (R250). -/
  | vorVi (d : Reg) (a : Reg) (i : BitVec 5) (m : MReg)
  /-- Element-wise xor with an immediate (R250). -/
  | vxorVi (d : Reg) (a : Reg) (i : BitVec 5) (m : MReg)
  /-- Element-wise left shift by an unsigned immediate (R250). -/
  | vshlVi (d : Reg) (a : Reg) (k : BitVec 5) (m : MReg)
  /-- Element-wise logical right shift by an immediate (R250). -/
  | vshrVi (d : Reg) (a : Reg) (k : BitVec 5) (m : MReg)
  /-- Element-wise arithmetic right shift by an immediate (R250). -/
  | vsraVi (d : Reg) (a : Reg) (k : BitVec 5) (m : MReg)
  /-- Narrowing right shift by an immediate (R255). -/
  | vnshrVi (d : Reg) (a : Reg) (k : BitVec 5) (m : MReg)
  /-- Vector equality compare into a mask (R257). -/
  | vcmpEqVv (d : MReg) (a : Reg) (b : Reg) (m : MReg)
  /-- Vector inequality compare into a mask (R257). -/
  | vcmpNeVv (d : MReg) (a : Reg) (b : Reg) (m : MReg)
  /-- Vector less-than compare into a mask (R257). -/
  | vcmpLtVv (d : MReg) (a : Reg) (b : Reg) (m : MReg)
  /-- Vector less-or-equal compare into a mask (R257). -/
  | vcmpLeVv (d : MReg) (a : Reg) (b : Reg) (m : MReg)
  /-- Equality compare against a scalar (R257). -/
  | vcmpEqVx (d : MReg) (a : Reg) (b : Reg) (m : MReg)
  /-- Inequality compare against a scalar (R257). -/
  | vcmpNeVx (d : MReg) (a : Reg) (b : Reg) (m : MReg)
  /-- Less-than compare against a scalar (R257). -/
  | vcmpLtVx (d : MReg) (a : Reg) (b : Reg) (m : MReg)
  /-- Less-or-equal compare against a scalar (R257). -/
  | vcmpLeVx (d : MReg) (a : Reg) (b : Reg) (m : MReg)
  /-- Equality compare against an immediate (R257). -/
  | vcmpEqVi (d : MReg) (a : Reg) (i : BitVec 5) (m : MReg)
  /-- Inequality compare against an immediate (R257). -/
  | vcmpNeVi (d : MReg) (a : Reg) (i : BitVec 5) (m : MReg)
  /-- Less-than compare against an immediate (R257). -/
  | vcmpLtVi (d : MReg) (a : Reg) (i : BitVec 5) (m : MReg)
  /-- Less-or-equal compare against an immediate (R257). -/
  | vcmpLeVi (d : MReg) (a : Reg) (i : BitVec 5) (m : MReg)
  /-- Mask and (R258). -/
  | mand (d : MReg) (a : MReg) (b : MReg)
  /-- Mask or (R258). -/
  | mor (d : MReg) (a : MReg) (b : MReg)
  /-- Mask xor (R258). -/
  | mxor (d : MReg) (a : MReg) (b : MReg)
  /-- Mask not (R258). -/
  | mnot (d : MReg) (a : MReg)
  /-- Counts set mask bits below VL into a scalar at completion (R258). -/
  | mpop (d : Reg) (a : MReg)
  /-- Writes the index of the lowest set mask bit at completion (R258). -/
  | mfirst (d : Reg) (a : MReg)
  /-- Sets mask bits below a scalar count (R258). -/
  | mset (d : MReg) (a : Reg)
  /-- Selects elements of va or vb by a mask (R259). -/
  | vsel (d : Reg) (a : Reg) (b : Reg) (m : MReg)
  /-- Broadcasts a scalar to every active element (R259). -/
  | vbcast (d : Reg) (a : Reg) (m : MReg)
  /-- Reads one element into a scalar register at completion (R260). -/
  | vget (d : Reg) (a : Reg) (b : Reg)
  /-- Writes each element's index (R259). -/
  | vidx (d : Reg) (m : MReg)
  /-- Gathers elements of va by index vector vb (R267). -/
  | vgather (d : Reg) (a : Reg) (b : Reg) (m : MReg)
  /-- Slides elements up by a scalar amount (R268). -/
  | vslideup (d : Reg) (a : Reg) (b : Reg) (m : MReg)
  /-- Slides elements down by a scalar amount (R268). -/
  | vslidedn (d : Reg) (a : Reg) (b : Reg) (m : MReg)
  /-- Packs mask-selected elements to the front (R269). -/
  | vcompress (d : Reg) (a : Reg) (m : MReg)
  /-- Spreads consecutive elements to mask-selected positions (R269). -/
  | vexpand (d : Reg) (a : Reg) (m : MReg)
  /-- Exchanges neighbouring element pairs (R270). -/
  | vswappr (d : Reg) (a : Reg) (m : MReg)
  /-- Interleaves two registers (R271). -/
  | vzip (d : Reg) (a : Reg) (b : Reg) (m : MReg)
  /-- Gathers even elements of the concatenation of two registers (R271). -/
  | vunzip (d : Reg) (a : Reg) (b : Reg) (m : MReg)
  /-- Ordered sum reduction (R273). -/
  | vredsumO (d : Reg) (a : Reg) (b : Reg) (m : MReg)
  /-- Tree sum reduction (R273). -/
  | vredsumT (d : Reg) (a : Reg) (b : Reg) (m : MReg)
  /-- Maximum reduction (R273). -/
  | vredmax (d : Reg) (a : Reg) (b : Reg) (m : MReg)
  /-- Minimum reduction (R273). -/
  | vredmin (d : Reg) (a : Reg) (b : Reg) (m : MReg)
  /-- Bitwise and reduction (R273). -/
  | vredand (d : Reg) (a : Reg) (b : Reg) (m : MReg)
  /-- Bitwise or reduction (R273). -/
  | vredor (d : Reg) (a : Reg) (b : Reg) (m : MReg)
  /-- Converts values to a target kind and width, writing scale bytes for scaled targets (R276). -/
  | vcvt (d : Reg) (a : Reg) (k : VKind) (s : Sew) (m : MReg)
  /-- Conversion with stochastic rounding (R277). -/
  | vcvtSr (d : Reg) (a : Reg) (k : VKind) (s : Sew) (m : MReg)
  /-- Approximate reciprocal (R278). -/
  | vrcp (d : Reg) (a : Reg) (m : MReg)
  /-- Approximate reciprocal square root (R278). -/
  | vrsq (d : Reg) (a : Reg) (m : MReg)
  /-- Sine of an angle in turns (R279). -/
  | vsint (d : Reg) (a : Reg) (m : MReg)
  /-- Cosine of an angle in turns (R279). -/
  | vcost (d : Reg) (a : Reg) (m : MReg)
  /-- Correctly rounded power of two (R280). -/
  | vexp2 (d : Reg) (a : Reg) (m : MReg)
  /-- Correctly rounded base-2 logarithm (R280). -/
  | vlog2 (d : Reg) (a : Reg) (m : MReg)
  /-- Element-wise low half of carry-less products (R281). -/
  | vclmul (d : Reg) (a : Reg) (b : Reg) (m : MReg)
  /-- Element-wise high half of carry-less products (R281). -/
  | vclmulh (d : Reg) (a : Reg) (b : Reg) (m : MReg)
  /-- Decodes CB8 codewords into eight BF16 registers (R282). -/
  | vcbdec (d : Reg) (a : Reg) (m : MReg)
  /-- Loads a 512-byte codebook table into the cluster's loaded table (R284). -/
  | cbload (a : Reg)
  /-- Converts integers to residue vectors (R285). -/
  | vrnsf (d : Reg) (a : Reg) (m : MReg)
  /-- Converts residue vectors to SINT64 by the decision rule (R286). -/
  | vrnsr (d : Reg) (a : Reg) (m : MReg)
  /-- Marks residue elements that would not decode unchanged as exact (R287). -/
  | vrnschk (d : MReg) (a : Reg) (m : MReg)
  /-- Stream copy from memory into a vector register (R326). -/
  | vstreamLdv (d : Reg) (a : Reg) (b : Reg) (q : BitVec 2)
  /-- Stream copy from a vector register to memory (R326). -/
  | vstreamStv (d : Reg) (a : Reg) (b : Reg) (q : BitVec 2)
  /-- Stream copy from memory into the tenant's scratchpad share (R328). -/
  | vstreamLds (d : Reg) (a : Reg) (b : Reg) (q : BitVec 2)
  /-- Stream copy from the share to memory, or a collective when aimed at the collective page (R328). -/
  | vstreamSts (d : Reg) (a : Reg) (b : Reg) (q : BitVec 2)
  /-- Box copy from a tensor into the share (R331). -/
  | vstreamLdb (d : Reg) (a : Reg) (b : Reg) (q : BitVec 2)
  /-- Box copy from the share into a tensor (R331). -/
  | vstreamStb (d : Reg) (a : Reg) (b : Reg) (q : BitVec 2)
  /-- EXT-prefixed register load copy that arrives at a barrier when done (R344). -/
  | vstreamLdvA (q : BitVec 2) (d : Reg) (a : Reg) (b : Reg) (x : BitVec 5)
  /-- EXT-prefixed register store copy with barrier arrival (R344). -/
  | vstreamStvA (q : BitVec 2) (d : Reg) (a : Reg) (b : Reg) (x : BitVec 5)
  /-- EXT-prefixed SRAM load copy with barrier arrival (R344). -/
  | vstreamLdsA (q : BitVec 2) (d : Reg) (a : Reg) (b : Reg) (x : BitVec 5)
  /-- EXT-prefixed SRAM store copy with barrier arrival (R344). -/
  | vstreamStsA (q : BitVec 2) (d : Reg) (a : Reg) (b : Reg) (x : BitVec 5)
  /-- EXT-prefixed box load copy with barrier arrival (R344). -/
  | vstreamLdbA (q : BitVec 2) (d : Reg) (a : Reg) (b : Reg) (x : BitVec 5)
  /-- EXT-prefixed box store copy with barrier arrival (R344). -/
  | vstreamStbA (q : BitVec 2) (d : Reg) (a : Reg) (b : Reg) (x : BitVec 5)
  /-- Waits for a stream slot and consumes its completion (R336). -/
  | swait (q : BitVec 2)
  /-- Reports a slot's state, consuming a DONE completion (R336). -/
  | squery (d : Reg) (q : BitVec 2)
  /-- Orders earlier scalar accesses before later scalar ones at a scope (R108). -/
  | fenceSs (s : Scope)
  /-- Queued fence ordering earlier scalar accesses before later vector ones (R108). -/
  | fenceSv (s : Scope)
  /-- Holds scalar issue until earlier vector accesses have performed (R108). -/
  | fenceVs (s : Scope)
  /-- Queued fence ordering vector memory instructions (R108). -/
  | fenceVv (s : Scope)
  /-- Initialises or reconfigures a cluster barrier (R341). -/
  | barinit (a : Reg) (k : BitVec 5)
  /-- Queued barrier arrival that releases the vector stream (R342). -/
  | barv (k : BitVec 5) (s : Scope)
  /-- Waits for the barrier phase by the context's marks (R343). -/
  | barw (k : BitVec 5)
  /-- Enters matrix mode with a gang of one or four, relocating or evicting as needed (R293). -/
  | mtenter (g : Bool)
  /-- Leaves matrix mode, discarding tiles (R294). -/
  | mtexit
  /-- Zeroes a tile and its guard weight (R304). -/
  | tzero (d : MReg)
  /-- Sets TROWS and TCOLS at issue (R297). -/
  | tedge (a : Reg) (b : Reg)
  /-- Floating outer-product accumulate over K-steps (R302). -/
  | topa (d : MReg) (a : Reg) (b : Reg) (c : Reg) (e : Reg) (m : MReg) (n : MReg)
  /-- Floating outer-product subtract over K-steps (R302). -/
  | tops (d : MReg) (a : Reg) (b : Reg) (c : Reg) (e : Reg) (m : MReg) (n : MReg)
  /-- Integer outer product accumulated in residue form (R303). -/
  | topr (d : MReg) (a : Reg) (b : Reg) (c : Reg) (m : MReg) (n : MReg)
  /-- Loads tile rows from memory (R315). -/
  | tldrow (d : MReg) (x : BitVec 6) (a : Reg) (b : Reg)
  /-- Stores tile rows to memory (R315). -/
  | tstrow (d : MReg) (x : BitVec 6) (a : Reg) (b : Reg)
  /-- Moves a run of tile slices into a vector register (R316). -/
  | tslv (d : Reg) (a : MReg) (x : BitVec 6) (o : Bool)
  /-- Moves vector elements into tile slices (R316). -/
  | tvsl (d : MReg) (a : Reg) (x : BitVec 6) (o : Bool)
  /-- Converts tile cells in place by a conversion code (R313). -/
  | tcvt (d : MReg) (k : BitVec 5)
  /-- Checks residue cells and corrects located channel errors in place (R314). -/
  | tchk (d : MReg)
  /-- A queue entry reaches the chaining sequencer two clocks after issue (R196). -/
  | sequencerHandoff (t : Tid)
  /-- The sequencer starts a slot step once chaining, unit and ordering conditions hold (R197). -/
  | slotStepStart (t : Tid) (n : Nat)
  /-- A slot step's results are written or its elements performed, committing it (R199). -/
  | slotStepCommit (t : Tid) (n : Nat)
  /-- A failing queue entry at the head of the queue takes its trap at element k (R143). -/
  | queuedTrap (t : Tid)
  /-- The oldest unsent write-queue entry is sent to its destination (R87). -/
  | writeQueueSend (t : Tid)
  /-- A store's acknowledgement returns and its entry leaves the write queue (R375). -/
  | storeAcknowledgement (t : Tid) (n : Nat)
  /-- Load or atomic data returns and is written to its destination (R86). -/
  | memoryReply (t : Tid) (n : Nat)
  /-- An instruction-cache fill arrives and the waiting context becomes fetchable (R154). -/
  | fetchFill (t : Tid)
  /-- A fetch at TVEC fails at supervisor level and the strand is passed to firmware (R148). -/
  | handlerFault (t : Tid)
  /-- A SEND held for its release is sent once earlier accesses have performed (R172). -/
  | sendDepart (t : Tid)
  /-- A message reaches its destination core and is accepted or bounced (R167). -/
  | mailboxArrival (n : Nat)
  /-- An acknowledgement returns and frees the sender's reservation (R167). -/
  | messageAcknowledgement (n : Nat)
  /-- A bounce returns and turns the reservation into a KIND 2 message (R167). -/
  | bounceArrival (n : Nat)
  /-- Firmware requests a halt of a context before its next issue (R178). -/
  | dbgctlHaltreq (t : Tid) (v : Word)
  /-- A context halts at an instruction boundary for BRK, a request or a completed step (R179). -/
  | debugHalt (t : Tid)
  /-- Writing 1 to HALTED resumes a halted context from the state as written (R178). -/
  | dbgctlResume (t : Tid) (v : Word)
  /-- Firmware reads or writes a halted context's state through the debug window (R441). -/
  | debugWindowAccess (c : ClusterNo) (off : BitVec 10) (w : Option Word)
  /-- Firmware requests or cancels the fencing of a core (R182). -/
  | cfenceRequest (c : ClusterNo) (v : Word)
  /-- Firmware marks a strand for shrink or squall with a target, or the write is rejected (R203). -/
  | lamark (c : ClusterNo) (v : Word)
  /-- After 64 clocks of waiting the allocator marks a holder for the request (R204). -/
  | allocatorMark (t : Tid)
  /-- A marked strand's deadline counter reaches D and the strand is squalled (R205). -/
  | deadlineExpiry (t : Tid)
  /-- A parked or halted lane holder reaches D clocks while a request waits and is squalled (R205). -/
  | parkExpiry (t : Tid)
  /-- A strand's save finishes and its lane groups are freed (R209). -/
  | saveComplete (t : Tid)
  /-- A grant's scalar result becomes ready after migration or eviction time (R194). -/
  | grantComplete (t : Tid)
  /-- A resumed strand's context is restored and it becomes ready (R211). -/
  | restoreComplete (t : Tid)
  /-- MTENTER moves the grant onto a square once one is available (R293). -/
  | relocate (t : Tid)
  /-- A rechecked step's second execution starts at an idle clock or at c1 + 16 (R348). -/
  | recheckSecondExecution (t : Tid) (n : Nat)
  /-- Both executions are compared per lane and the step commits on agreement (R349). -/
  | recheckCompare (t : Tid) (n : Nat) (bad : List Nat)
  /-- A third execution decides each lane by majority (R350). -/
  | recheckVote (t : Tid) (n : Nat) (bad : List Nat) (nomaj : List Nat)
  /-- A lane without majority re-executes twice; a second failure abandons the step (R351). -/
  | recheckRollback (t : Tid) (n : Nat) (nomaj : List Nat) (agree : Bool)
  /-- Firmware consumes records; TAIL is clamped to HEAD and LOST cleared (R356). -/
  | elogtailWrite (c : ClusterNo) (v : Word)
  /-- Firmware marks a lane failed (R360). -/
  | lgstatMark (c : ClusterNo) (p : BitVec 3) (v : Word)
  /-- Firmware requests that the lane group be fenced at the next lull (R360). -/
  | lgstatFenreq (c : ClusterNo) (p : BitVec 3) (v : Word)
  /-- The spare's copy completes and it takes the failed lane's place (R361). -/
  | substitutionDone (c : ClusterNo) (p : BitVec 3)
  /-- Firmware requests a diagnostic store of data with verbatim check bits (R362). -/
  | dschkGo (c : ClusterNo) (v : Word)
  /-- Computes Check(DATA) into CHK without storing (R362). -/
  | dschkCalc (c : ClusterNo) (v : Word)
  /-- The diagnostic store is performed at its target's next opportunity (R362). -/
  | diagnosticStore (c : ClusterNo)
  /-- Firmware arms a detector injection in report or corrupt mode (R363). -/
  | dinjArm (c : ClusterNo) (v : Word)
  /-- Firmware assigns the loaded codebook table and resets it to the default table (R283). -/
  | cbownWrite (c : ClusterNo) (v : Word)
  /-- A written SRAM split takes effect once the cluster holds no bound strand (R319). -/
  | csplitApply (c : ClusterNo)
  /-- The stream engine moves one unit of a BUSY slot in round-robin order (R338). -/
  | streamUnit (c : ClusterNo)
  /-- A copy ends complete or stopped and its slot becomes DONE (R324). -/
  | streamCopyDone (t : Tid) (q : BitVec 2)
  /-- A completion message enters the issuer's share once the mailbox has room (R334). -/
  | completionMessage (t : Tid) (q : BitVec 2)
  /-- A BARV's arrival counts once earlier vector memory has performed at its scope (R342). -/
  | barvArrival (t : Tid) (n : Nat)
  /-- An L2 home slice serves a read, store, atomic or fill request (R371). -/
  | homeRequest (t : Tid) (n : Nat)
  /-- A DRAM controller serves an access, opening or hitting a row (R380). -/
  | dramAccess (pa : Word)
  /-- A bank closes its row after 512 clocks without an access (R380). -/
  | rowIdleClose (pa : Word)
  /-- A row-activate hint reaches its bank controller and may activate a row (R382). -/
  | ractArrival (n : Nat)
  /-- An invalidation reaches a replica die and drops the replica (R373). -/
  | replicaInvalidation (pa : Word) (die : DieNo)
  /-- Invalidation acknowledgements return and the pending write performs (R373). -/
  | invalidationAck (t : Tid) (n : Nat)
  /-- A page walk ends, filling TLBs or reporting a fault (R390). -/
  | walkComplete (t : Tid) (va : Word)
  /-- Firmware starts a package-wide TLB invalidation (R391). -/
  | tlbinvGo (die : DieNo) (v : Word)
  /-- Entries are dropped and dependent accesses performed; BUSY clears (R391). -/
  | tlbinvDone (die : DieNo)
  /-- Firmware starts a page migration on a channel, or it is refused (R392). -/
  | migctlGo (die : DieNo) (q : BitVec 2) (v : Word)
  /-- A locked line's transfer ends and waiting accesses are redirected (R394). -/
  | migrationLineDone (die : DieNo) (q : BitVec 2)
  /-- Clearing DONE ends the channel's redirection (R392). -/
  | migctlDoneClear (die : DieNo) (q : BitVec 2) (v : Word)
  /-- Firmware changes the memory-side scratchpad ways, starting a conversion (R384). -/
  | mscspWrite (die : DieNo) (v : Word)
  /-- The write-back of changing ways ends and PEND clears (R384). -/
  | mscspConversionDone (die : DieNo)
  /-- Firmware performs a diagnostic DRAM store bypassing the caches (R398). -/
  | drchkGo (die : DieNo) (v : Word)
  /-- Computes check bits for DRAM injection without storing (R398). -/
  | drchkCalc (die : DieNo) (v : Word)
  /-- Firmware consumes die error records (R399). -/
  | dlogtailWrite (die : DieNo) (v : Word)
  /-- A die-to-die flit fails its CRC and is replayed from the sender (R400). -/
  | linkFlitReplay (die : DieNo) (q : BitVec 2)
  /-- Firmware starts installing a key into a slot, or it is refused (R405). -/
  | keycmdGo (v : Word)
  /-- Lines of the key ID are flushed, the key installed and BUSY cleared (R405). -/
  | keyInstallDone
  /-- A store of a new write index publishes packets as a release at sy (R407). -/
  | qnotifyWrite (q : BitVec 8) (v : Word)
  /-- Writing 1 to STOP restarts a stopped queue at RIDX (R407). -/
  | qstatRestart (q : BitVec 8) (v : Word)
  /-- The command processor reads, checks and starts the next packet of a queue (R409). -/
  | cpServePacket (q : BitVec 8)
  /-- The acknowledgement of the valid clear returns and RIDX advances (R409). -/
  | packetClearAck (q : BitVec 8)
  /-- A cluster group is placed once contexts and quota permit (R413). -/
  | groupPlacement (n : Nat)
  /-- A TRIGGER mark counts once earlier accesses have performed at sy (R115). -/
  | triggerMarkCount (t : Tid)
  /-- After its waits the strand releases its lanes and frees its context (R116). -/
  | exitFinish (t : Tid)
  /-- The command processor decrements the completion signal as a release at sy (R410). -/
  | signalDecrement (n : Nat)
  /-- An MSI-X vector is sent after a launch signal decrement performs or FNEVT becomes non-zero (R432). -/
  | msixSend (f : BitVec 5) (n : Nat)
  /-- Scheduler operation 0 pre-empts a strand (R417). -/
  | schcmdPreempt (v : Word)
  /-- Scheduler operation 1 moves a movable strand to another cluster (R417). -/
  | schcmdMove (v : Word)
  /-- Scheduler operation 2 releases a held or pre-empted strand to resume (R417). -/
  | schcmdRelease (v : Word)
  /-- Scheduler operation 3 switches a tenant off a cluster (R418). -/
  | schcmdSwitchCluster (v : Word)
  /-- Scheduler operation 4 switches a tenant off the whole package (R419). -/
  | schcmdSwitchPackage (v : Word)
  /-- Scheduler operation 5 ends a launch without EXIT's waits (R456). -/
  | schcmdEndLaunch (v : Word)
  /-- Scheduler operations 6 and 7 are always refused (R417). -/
  | schcmdReserved (v : Word)
  /-- A scheduler operation ends, BUSY clears and an event is posted (R417). -/
  | schcmdComplete
  /-- 256 ticks before a span, DRAM requests are held and counters pause (R421). -/
  | lullDrainStart
  /-- A lull begins, with temperature reads, refresh, scrub and sweeps (R420). -/
  | lullStart (hot : Bool) (tj : Nat)
  /-- A span ends; held requests are served, parked LULLW strands wake and lull actions take effect (R421). -/
  | lullEnd (links : List Nat) (ports : List Nat)
  /-- Unfinished housekeeping extends the lull past its scheduled end (R424). -/
  | lullOverrun (late : Nat)
  /-- The clock restarts at the new step and stopped work resumes (R437). -/
  | relockDone
  /-- A junction reaches 115 C and THERMTRIP# is asserted (R438). -/
  | thermtrip
  /-- A host read through BAR4 is translated and served as global loads (R430). -/
  | hostBar4Read (f : BitVec 5) (off : Word) (n : Nat)
  /-- A host write through BAR4 is translated and performed as global stores, or dropped (R430). -/
  | hostBar4Write (f : BitVec 5) (off : Word) (data : List Byte)
  /-- A received AtomicOp request completes with Unsupported Request (R430). -/
  | hostAtomicopRequest (f : BitVec 5) (off : Word)
  /-- A host completion for a strand's read or atomic returns to the device (R433). -/
  | hostCompletion (t : Tid) (n : Nat) (st : HostStatus) (v : Word)
  /-- The host starts a firmware image load (R435). -/
  | fwcmdGo (v : Word)
  /-- The read image is checked and firmware started, or a failure status set (R435). -/
  | fwImageCheck (img : Option (List Byte))
  /-- PERST# deassertion, Hot Reset, Link Disabled or a PF FLR resets the package (R434). -/
  | packageReset
  /-- An FLR of a VF serving a tenant stops its queues and switches the tenant off (R434). -/
  | vfFlr (f : BitVec 5)
  /-- An FLR of a VF serving no tenant clears its MSI-X state (R434). -/
  | vfFlrIdle (f : BitVec 5)
  /-- Removal of VSD loses all device state (R439). -/
  | powerLoss
  /-- A PLDM type 0 discovery request is answered (R440). -/
  | pldmBase (n : Nat)
  /-- A PLDM type 2 monitoring or control request is served by firmware (R440). -/
  | pldmPlatform (n : Nat) (cap : Option Nat)
  /-- A PLDM type 5 request stages a signed image for the next reset (R440). -/
  | pldmFirmwareUpdate (img : List Byte)
  /-- A vendor-defined debug message is served by firmware (R441). -/
  | mctpDebugRequest (c : ClusterNo) (off : BitVec 16) (w : Option Word)
  /-- A Brulos flit is received, checked, forwarded or delivered, or NAKed (R445). -/
  | brulosFlitReceive (p : BitVec 3) (good : Bool) (x : Flit)
  /-- A NAK makes the sender resend from the oldest unacknowledged flit (R445). -/
  | linkNak (p : BitVec 3) (ack : BitVec 12)
  /-- 800 clocks without a new ACK trigger a resend (R445). -/
  | retransmitTimeout (p : BitVec 3)
  /-- A request from another node is checked, translated and served at its home (R448). -/
  | remoteRequest (n : Nat)
  /-- A collective completes at every member once all have issued and results performed (R454). -/
  | collectiveComplete (t : Tid) (q : BitVec 2) (members : List Member)
  /-- A write to a register with no row of its own, with its clamping and reserved-bit rules (R7). -/
  | registerWrite (pa : Word) (v : Word)
  /-- MTENTER completes 12 clocks after its queue wait, plus any relocation and eviction time, setting STATUS.MT and zeroing the tiles (R293). -/
  | mtenterComplete (t : Tid)
  /-- An uncorrectable error arises in the system die's command processor, scheduler, key store or lull sequencer, and the package enters the fatal state (R426). -/
  | systemDieError
  /-- A strand's read or atomic to host memory gets no completion in time and raises permission fault, or a store records a die error (R433). -/
  | hostCompletionTimeout (t : Tid) (n : Nat)
  /-- Firmware finishes a firmware call and resumes the strand at EPC + 4 with a0 and a1 written (R140). -/
  | firmwareCallReturn (t : Tid) (r0 : Word) (r1 : Word)
  /-- The peer package's long-lull retraining takes the Brulos link down, and this port holds its flits (R446). -/
  | brulosLinkDown (p : BitVec 3)
  /-- The Brulos link comes back after the peer's retraining, and the port resends its unacknowledged flits (R446). -/
  | brulosLinkUp (p : BitVec 3)
  /-- The package scheduler gives a core or cluster back to a switched-off tenant and restores its core scratchpad and saved strands (R160). -/
  | tenantSwitchIn (c : ClusterNo) (ten : TenantNo)
  /-- The I3C bus owner assigns the system die its MCTP endpoint ID (R440). -/
  | mctpEndpointIdAssignment (eid : BitVec 8)
  deriving DecidableEq, Repr

/-- The events of the table again, as the model's agenda holds them (log 8): one constructor per row without an encoding. -/
inductive Event
  /-- A queue entry reaches the chaining sequencer two clocks after issue (R196). -/
  | sequencerHandoff (t : Tid)
  /-- The sequencer starts a slot step once chaining, unit and ordering conditions hold (R197). -/
  | slotStepStart (t : Tid) (n : Nat)
  /-- A slot step's results are written or its elements performed, committing it (R199). -/
  | slotStepCommit (t : Tid) (n : Nat)
  /-- A failing queue entry at the head of the queue takes its trap at element k (R143). -/
  | queuedTrap (t : Tid)
  /-- The oldest unsent write-queue entry is sent to its destination (R87). -/
  | writeQueueSend (t : Tid)
  /-- A store's acknowledgement returns and its entry leaves the write queue (R375). -/
  | storeAcknowledgement (t : Tid) (n : Nat)
  /-- Load or atomic data returns and is written to its destination (R86). -/
  | memoryReply (t : Tid) (n : Nat)
  /-- An instruction-cache fill arrives and the waiting context becomes fetchable (R154). -/
  | fetchFill (t : Tid)
  /-- A fetch at TVEC fails at supervisor level and the strand is passed to firmware (R148). -/
  | handlerFault (t : Tid)
  /-- A SEND held for its release is sent once earlier accesses have performed (R172). -/
  | sendDepart (t : Tid)
  /-- A message reaches its destination core and is accepted or bounced (R167). -/
  | mailboxArrival (n : Nat)
  /-- An acknowledgement returns and frees the sender's reservation (R167). -/
  | messageAcknowledgement (n : Nat)
  /-- A bounce returns and turns the reservation into a KIND 2 message (R167). -/
  | bounceArrival (n : Nat)
  /-- Firmware requests a halt of a context before its next issue (R178). -/
  | dbgctlHaltreq (t : Tid) (v : Word)
  /-- A context halts at an instruction boundary for BRK, a request or a completed step (R179). -/
  | debugHalt (t : Tid)
  /-- Writing 1 to HALTED resumes a halted context from the state as written (R178). -/
  | dbgctlResume (t : Tid) (v : Word)
  /-- Firmware reads or writes a halted context's state through the debug window (R441). -/
  | debugWindowAccess (c : ClusterNo) (off : BitVec 10) (w : Option Word)
  /-- Firmware requests or cancels the fencing of a core (R182). -/
  | cfenceRequest (c : ClusterNo) (v : Word)
  /-- Firmware marks a strand for shrink or squall with a target, or the write is rejected (R203). -/
  | lamark (c : ClusterNo) (v : Word)
  /-- After 64 clocks of waiting the allocator marks a holder for the request (R204). -/
  | allocatorMark (t : Tid)
  /-- A marked strand's deadline counter reaches D and the strand is squalled (R205). -/
  | deadlineExpiry (t : Tid)
  /-- A parked or halted lane holder reaches D clocks while a request waits and is squalled (R205). -/
  | parkExpiry (t : Tid)
  /-- A strand's save finishes and its lane groups are freed (R209). -/
  | saveComplete (t : Tid)
  /-- A grant's scalar result becomes ready after migration or eviction time (R194). -/
  | grantComplete (t : Tid)
  /-- A resumed strand's context is restored and it becomes ready (R211). -/
  | restoreComplete (t : Tid)
  /-- MTENTER moves the grant onto a square once one is available (R293). -/
  | relocate (t : Tid)
  /-- A rechecked step's second execution starts at an idle clock or at c1 + 16 (R348). -/
  | recheckSecondExecution (t : Tid) (n : Nat)
  /-- Both executions are compared per lane and the step commits on agreement (R349). -/
  | recheckCompare (t : Tid) (n : Nat) (bad : List Nat)
  /-- A third execution decides each lane by majority (R350). -/
  | recheckVote (t : Tid) (n : Nat) (bad : List Nat) (nomaj : List Nat)
  /-- A lane without majority re-executes twice; a second failure abandons the step (R351). -/
  | recheckRollback (t : Tid) (n : Nat) (nomaj : List Nat) (agree : Bool)
  /-- Firmware consumes records; TAIL is clamped to HEAD and LOST cleared (R356). -/
  | elogtailWrite (c : ClusterNo) (v : Word)
  /-- Firmware marks a lane failed (R360). -/
  | lgstatMark (c : ClusterNo) (p : BitVec 3) (v : Word)
  /-- Firmware requests that the lane group be fenced at the next lull (R360). -/
  | lgstatFenreq (c : ClusterNo) (p : BitVec 3) (v : Word)
  /-- The spare's copy completes and it takes the failed lane's place (R361). -/
  | substitutionDone (c : ClusterNo) (p : BitVec 3)
  /-- Firmware requests a diagnostic store of data with verbatim check bits (R362). -/
  | dschkGo (c : ClusterNo) (v : Word)
  /-- Computes Check(DATA) into CHK without storing (R362). -/
  | dschkCalc (c : ClusterNo) (v : Word)
  /-- The diagnostic store is performed at its target's next opportunity (R362). -/
  | diagnosticStore (c : ClusterNo)
  /-- Firmware arms a detector injection in report or corrupt mode (R363). -/
  | dinjArm (c : ClusterNo) (v : Word)
  /-- Firmware assigns the loaded codebook table and resets it to the default table (R283). -/
  | cbownWrite (c : ClusterNo) (v : Word)
  /-- A written SRAM split takes effect once the cluster holds no bound strand (R319). -/
  | csplitApply (c : ClusterNo)
  /-- The stream engine moves one unit of a BUSY slot in round-robin order (R338). -/
  | streamUnit (c : ClusterNo)
  /-- A copy ends complete or stopped and its slot becomes DONE (R324). -/
  | streamCopyDone (t : Tid) (q : BitVec 2)
  /-- A completion message enters the issuer's share once the mailbox has room (R334). -/
  | completionMessage (t : Tid) (q : BitVec 2)
  /-- A BARV's arrival counts once earlier vector memory has performed at its scope (R342). -/
  | barvArrival (t : Tid) (n : Nat)
  /-- An L2 home slice serves a read, store, atomic or fill request (R371). -/
  | homeRequest (t : Tid) (n : Nat)
  /-- A DRAM controller serves an access, opening or hitting a row (R380). -/
  | dramAccess (pa : Word)
  /-- A bank closes its row after 512 clocks without an access (R380). -/
  | rowIdleClose (pa : Word)
  /-- A row-activate hint reaches its bank controller and may activate a row (R382). -/
  | ractArrival (n : Nat)
  /-- An invalidation reaches a replica die and drops the replica (R373). -/
  | replicaInvalidation (pa : Word) (die : DieNo)
  /-- Invalidation acknowledgements return and the pending write performs (R373). -/
  | invalidationAck (t : Tid) (n : Nat)
  /-- A page walk ends, filling TLBs or reporting a fault (R390). -/
  | walkComplete (t : Tid) (va : Word)
  /-- Firmware starts a package-wide TLB invalidation (R391). -/
  | tlbinvGo (die : DieNo) (v : Word)
  /-- Entries are dropped and dependent accesses performed; BUSY clears (R391). -/
  | tlbinvDone (die : DieNo)
  /-- Firmware starts a page migration on a channel, or it is refused (R392). -/
  | migctlGo (die : DieNo) (q : BitVec 2) (v : Word)
  /-- A locked line's transfer ends and waiting accesses are redirected (R394). -/
  | migrationLineDone (die : DieNo) (q : BitVec 2)
  /-- Clearing DONE ends the channel's redirection (R392). -/
  | migctlDoneClear (die : DieNo) (q : BitVec 2) (v : Word)
  /-- Firmware changes the memory-side scratchpad ways, starting a conversion (R384). -/
  | mscspWrite (die : DieNo) (v : Word)
  /-- The write-back of changing ways ends and PEND clears (R384). -/
  | mscspConversionDone (die : DieNo)
  /-- Firmware performs a diagnostic DRAM store bypassing the caches (R398). -/
  | drchkGo (die : DieNo) (v : Word)
  /-- Computes check bits for DRAM injection without storing (R398). -/
  | drchkCalc (die : DieNo) (v : Word)
  /-- Firmware consumes die error records (R399). -/
  | dlogtailWrite (die : DieNo) (v : Word)
  /-- A die-to-die flit fails its CRC and is replayed from the sender (R400). -/
  | linkFlitReplay (die : DieNo) (q : BitVec 2)
  /-- Firmware starts installing a key into a slot, or it is refused (R405). -/
  | keycmdGo (v : Word)
  /-- Lines of the key ID are flushed, the key installed and BUSY cleared (R405). -/
  | keyInstallDone
  /-- A store of a new write index publishes packets as a release at sy (R407). -/
  | qnotifyWrite (q : BitVec 8) (v : Word)
  /-- Writing 1 to STOP restarts a stopped queue at RIDX (R407). -/
  | qstatRestart (q : BitVec 8) (v : Word)
  /-- The command processor reads, checks and starts the next packet of a queue (R409). -/
  | cpServePacket (q : BitVec 8)
  /-- The acknowledgement of the valid clear returns and RIDX advances (R409). -/
  | packetClearAck (q : BitVec 8)
  /-- A cluster group is placed once contexts and quota permit (R413). -/
  | groupPlacement (n : Nat)
  /-- A TRIGGER mark counts once earlier accesses have performed at sy (R115). -/
  | triggerMarkCount (t : Tid)
  /-- After its waits the strand releases its lanes and frees its context (R116). -/
  | exitFinish (t : Tid)
  /-- The command processor decrements the completion signal as a release at sy (R410). -/
  | signalDecrement (n : Nat)
  /-- An MSI-X vector is sent after a launch signal decrement performs or FNEVT becomes non-zero (R432). -/
  | msixSend (f : BitVec 5) (n : Nat)
  /-- Scheduler operation 0 pre-empts a strand (R417). -/
  | schcmdPreempt (v : Word)
  /-- Scheduler operation 1 moves a movable strand to another cluster (R417). -/
  | schcmdMove (v : Word)
  /-- Scheduler operation 2 releases a held or pre-empted strand to resume (R417). -/
  | schcmdRelease (v : Word)
  /-- Scheduler operation 3 switches a tenant off a cluster (R418). -/
  | schcmdSwitchCluster (v : Word)
  /-- Scheduler operation 4 switches a tenant off the whole package (R419). -/
  | schcmdSwitchPackage (v : Word)
  /-- Scheduler operation 5 ends a launch without EXIT's waits (R456). -/
  | schcmdEndLaunch (v : Word)
  /-- Scheduler operations 6 and 7 are always refused (R417). -/
  | schcmdReserved (v : Word)
  /-- A scheduler operation ends, BUSY clears and an event is posted (R417). -/
  | schcmdComplete
  /-- 256 ticks before a span, DRAM requests are held and counters pause (R421). -/
  | lullDrainStart
  /-- A lull begins, with temperature reads, refresh, scrub and sweeps (R420). -/
  | lullStart (hot : Bool) (tj : Nat)
  /-- A span ends; held requests are served, parked LULLW strands wake and lull actions take effect (R421). -/
  | lullEnd (links : List Nat) (ports : List Nat)
  /-- Unfinished housekeeping extends the lull past its scheduled end (R424). -/
  | lullOverrun (late : Nat)
  /-- The clock restarts at the new step and stopped work resumes (R437). -/
  | relockDone
  /-- A junction reaches 115 C and THERMTRIP# is asserted (R438). -/
  | thermtrip
  /-- A host read through BAR4 is translated and served as global loads (R430). -/
  | hostBar4Read (f : BitVec 5) (off : Word) (n : Nat)
  /-- A host write through BAR4 is translated and performed as global stores, or dropped (R430). -/
  | hostBar4Write (f : BitVec 5) (off : Word) (data : List Byte)
  /-- A received AtomicOp request completes with Unsupported Request (R430). -/
  | hostAtomicopRequest (f : BitVec 5) (off : Word)
  /-- A host completion for a strand's read or atomic returns to the device (R433). -/
  | hostCompletion (t : Tid) (n : Nat) (st : HostStatus) (v : Word)
  /-- The host starts a firmware image load (R435). -/
  | fwcmdGo (v : Word)
  /-- The read image is checked and firmware started, or a failure status set (R435). -/
  | fwImageCheck (img : Option (List Byte))
  /-- PERST# deassertion, Hot Reset, Link Disabled or a PF FLR resets the package (R434). -/
  | packageReset
  /-- An FLR of a VF serving a tenant stops its queues and switches the tenant off (R434). -/
  | vfFlr (f : BitVec 5)
  /-- An FLR of a VF serving no tenant clears its MSI-X state (R434). -/
  | vfFlrIdle (f : BitVec 5)
  /-- Removal of VSD loses all device state (R439). -/
  | powerLoss
  /-- A PLDM type 0 discovery request is answered (R440). -/
  | pldmBase (n : Nat)
  /-- A PLDM type 2 monitoring or control request is served by firmware (R440). -/
  | pldmPlatform (n : Nat) (cap : Option Nat)
  /-- A PLDM type 5 request stages a signed image for the next reset (R440). -/
  | pldmFirmwareUpdate (img : List Byte)
  /-- A vendor-defined debug message is served by firmware (R441). -/
  | mctpDebugRequest (c : ClusterNo) (off : BitVec 16) (w : Option Word)
  /-- A Brulos flit is received, checked, forwarded or delivered, or NAKed (R445). -/
  | brulosFlitReceive (p : BitVec 3) (good : Bool) (x : Flit)
  /-- A NAK makes the sender resend from the oldest unacknowledged flit (R445). -/
  | linkNak (p : BitVec 3) (ack : BitVec 12)
  /-- 800 clocks without a new ACK trigger a resend (R445). -/
  | retransmitTimeout (p : BitVec 3)
  /-- A request from another node is checked, translated and served at its home (R448). -/
  | remoteRequest (n : Nat)
  /-- A collective completes at every member once all have issued and results performed (R454). -/
  | collectiveComplete (t : Tid) (q : BitVec 2) (members : List Member)
  /-- A write to a register with no row of its own, with its clamping and reserved-bit rules (R7). -/
  | registerWrite (pa : Word) (v : Word)
  /-- MTENTER completes 12 clocks after its queue wait, plus any relocation and eviction time, setting STATUS.MT and zeroing the tiles (R293). -/
  | mtenterComplete (t : Tid)
  /-- An uncorrectable error arises in the system die's command processor, scheduler, key store or lull sequencer, and the package enters the fatal state (R426). -/
  | systemDieError
  /-- A strand's read or atomic to host memory gets no completion in time and raises permission fault, or a store records a die error (R433). -/
  | hostCompletionTimeout (t : Tid) (n : Nat)
  /-- Firmware finishes a firmware call and resumes the strand at EPC + 4 with a0 and a1 written (R140). -/
  | firmwareCallReturn (t : Tid) (r0 : Word) (r1 : Word)
  /-- The peer package's long-lull retraining takes the Brulos link down, and this port holds its flits (R446). -/
  | brulosLinkDown (p : BitVec 3)
  /-- The Brulos link comes back after the peer's retraining, and the port resends its unacknowledged flits (R446). -/
  | brulosLinkUp (p : BitVec 3)
  /-- The package scheduler gives a core or cluster back to a switched-off tenant and restores its core scratchpad and saved strands (R160). -/
  | tenantSwitchIn (c : ClusterNo) (ten : TenantNo)
  /-- The I3C bus owner assigns the system die its MCTP endpoint ID (R440). -/
  | mctpEndpointIdAssignment (eid : BitVec 8)
  deriving DecidableEq, Repr

/-- The rows whose constructors the compiler cannot build, once more (log 23); `Late.instr` in Decode.lean gives each its instruction. -/
inductive Late
  /-- Broadcasts a scalar to every active element (R259). -/
  | vbcast (d : Reg) (a : Reg) (m : MReg)
  /-- Reads one element into a scalar register at completion (R260). -/
  | vget (d : Reg) (a : Reg) (b : Reg)
  /-- Writes each element's index (R259). -/
  | vidx (d : Reg) (m : MReg)
  /-- Gathers elements of va by index vector vb (R267). -/
  | vgather (d : Reg) (a : Reg) (b : Reg) (m : MReg)
  /-- Slides elements up by a scalar amount (R268). -/
  | vslideup (d : Reg) (a : Reg) (b : Reg) (m : MReg)
  /-- Slides elements down by a scalar amount (R268). -/
  | vslidedn (d : Reg) (a : Reg) (b : Reg) (m : MReg)
  /-- Packs mask-selected elements to the front (R269). -/
  | vcompress (d : Reg) (a : Reg) (m : MReg)
  /-- Spreads consecutive elements to mask-selected positions (R269). -/
  | vexpand (d : Reg) (a : Reg) (m : MReg)
  /-- Exchanges neighbouring element pairs (R270). -/
  | vswappr (d : Reg) (a : Reg) (m : MReg)
  /-- Interleaves two registers (R271). -/
  | vzip (d : Reg) (a : Reg) (b : Reg) (m : MReg)
  /-- Gathers even elements of the concatenation of two registers (R271). -/
  | vunzip (d : Reg) (a : Reg) (b : Reg) (m : MReg)
  /-- Ordered sum reduction (R273). -/
  | vredsumO (d : Reg) (a : Reg) (b : Reg) (m : MReg)
  /-- Tree sum reduction (R273). -/
  | vredsumT (d : Reg) (a : Reg) (b : Reg) (m : MReg)
  /-- Maximum reduction (R273). -/
  | vredmax (d : Reg) (a : Reg) (b : Reg) (m : MReg)
  /-- Minimum reduction (R273). -/
  | vredmin (d : Reg) (a : Reg) (b : Reg) (m : MReg)
  /-- Bitwise and reduction (R273). -/
  | vredand (d : Reg) (a : Reg) (b : Reg) (m : MReg)
  /-- Bitwise or reduction (R273). -/
  | vredor (d : Reg) (a : Reg) (b : Reg) (m : MReg)
  /-- Converts values to a target kind and width, writing scale bytes for scaled targets (R276). -/
  | vcvt (d : Reg) (a : Reg) (k : VKind) (s : Sew) (m : MReg)
  /-- Conversion with stochastic rounding (R277). -/
  | vcvtSr (d : Reg) (a : Reg) (k : VKind) (s : Sew) (m : MReg)
  /-- Approximate reciprocal (R278). -/
  | vrcp (d : Reg) (a : Reg) (m : MReg)
  /-- Approximate reciprocal square root (R278). -/
  | vrsq (d : Reg) (a : Reg) (m : MReg)
  /-- Sine of an angle in turns (R279). -/
  | vsint (d : Reg) (a : Reg) (m : MReg)
  /-- Cosine of an angle in turns (R279). -/
  | vcost (d : Reg) (a : Reg) (m : MReg)
  /-- Correctly rounded power of two (R280). -/
  | vexp2 (d : Reg) (a : Reg) (m : MReg)
  /-- Correctly rounded base-2 logarithm (R280). -/
  | vlog2 (d : Reg) (a : Reg) (m : MReg)
  /-- Element-wise low half of carry-less products (R281). -/
  | vclmul (d : Reg) (a : Reg) (b : Reg) (m : MReg)
  /-- Element-wise high half of carry-less products (R281). -/
  | vclmulh (d : Reg) (a : Reg) (b : Reg) (m : MReg)
  /-- Decodes CB8 codewords into eight BF16 registers (R282). -/
  | vcbdec (d : Reg) (a : Reg) (m : MReg)
  /-- Loads a 512-byte codebook table into the cluster's loaded table (R284). -/
  | cbload (a : Reg)
  /-- Converts integers to residue vectors (R285). -/
  | vrnsf (d : Reg) (a : Reg) (m : MReg)
  /-- Converts residue vectors to SINT64 by the decision rule (R286). -/
  | vrnsr (d : Reg) (a : Reg) (m : MReg)
  /-- Marks residue elements that would not decode unchanged as exact (R287). -/
  | vrnschk (d : MReg) (a : Reg) (m : MReg)
  /-- Stream copy from memory into a vector register (R326). -/
  | vstreamLdv (d : Reg) (a : Reg) (b : Reg) (q : BitVec 2)
  /-- Stream copy from a vector register to memory (R326). -/
  | vstreamStv (d : Reg) (a : Reg) (b : Reg) (q : BitVec 2)
  /-- Stream copy from memory into the tenant's scratchpad share (R328). -/
  | vstreamLds (d : Reg) (a : Reg) (b : Reg) (q : BitVec 2)
  /-- Stream copy from the share to memory, or a collective when aimed at the collective page (R328). -/
  | vstreamSts (d : Reg) (a : Reg) (b : Reg) (q : BitVec 2)
  /-- Box copy from a tensor into the share (R331). -/
  | vstreamLdb (d : Reg) (a : Reg) (b : Reg) (q : BitVec 2)
  /-- Box copy from the share into a tensor (R331). -/
  | vstreamStb (d : Reg) (a : Reg) (b : Reg) (q : BitVec 2)
  /-- EXT-prefixed register load copy that arrives at a barrier when done (R344). -/
  | vstreamLdvA (q : BitVec 2) (d : Reg) (a : Reg) (b : Reg) (x : BitVec 5)
  /-- EXT-prefixed register store copy with barrier arrival (R344). -/
  | vstreamStvA (q : BitVec 2) (d : Reg) (a : Reg) (b : Reg) (x : BitVec 5)
  /-- EXT-prefixed SRAM load copy with barrier arrival (R344). -/
  | vstreamLdsA (q : BitVec 2) (d : Reg) (a : Reg) (b : Reg) (x : BitVec 5)
  /-- EXT-prefixed SRAM store copy with barrier arrival (R344). -/
  | vstreamStsA (q : BitVec 2) (d : Reg) (a : Reg) (b : Reg) (x : BitVec 5)
  /-- EXT-prefixed box load copy with barrier arrival (R344). -/
  | vstreamLdbA (q : BitVec 2) (d : Reg) (a : Reg) (b : Reg) (x : BitVec 5)
  /-- EXT-prefixed box store copy with barrier arrival (R344). -/
  | vstreamStbA (q : BitVec 2) (d : Reg) (a : Reg) (b : Reg) (x : BitVec 5)
  /-- Waits for a stream slot and consumes its completion (R336). -/
  | swait (q : BitVec 2)
  /-- Reports a slot's state, consuming a DONE completion (R336). -/
  | squery (d : Reg) (q : BitVec 2)
  /-- Orders earlier scalar accesses before later scalar ones at a scope (R108). -/
  | fenceSs (s : Scope)
  /-- Queued fence ordering earlier scalar accesses before later vector ones (R108). -/
  | fenceSv (s : Scope)
  /-- Holds scalar issue until earlier vector accesses have performed (R108). -/
  | fenceVs (s : Scope)
  /-- Queued fence ordering vector memory instructions (R108). -/
  | fenceVv (s : Scope)
  /-- Initialises or reconfigures a cluster barrier (R341). -/
  | barinit (a : Reg) (k : BitVec 5)
  /-- Queued barrier arrival that releases the vector stream (R342). -/
  | barv (k : BitVec 5) (s : Scope)
  /-- Waits for the barrier phase by the context's marks (R343). -/
  | barw (k : BitVec 5)
  /-- Enters matrix mode with a gang of one or four, relocating or evicting as needed (R293). -/
  | mtenter (g : Bool)
  /-- Leaves matrix mode, discarding tiles (R294). -/
  | mtexit
  /-- Zeroes a tile and its guard weight (R304). -/
  | tzero (d : MReg)
  /-- Sets TROWS and TCOLS at issue (R297). -/
  | tedge (a : Reg) (b : Reg)
  /-- Floating outer-product accumulate over K-steps (R302). -/
  | topa (d : MReg) (a : Reg) (b : Reg) (c : Reg) (e : Reg) (m : MReg) (n : MReg)
  /-- Floating outer-product subtract over K-steps (R302). -/
  | tops (d : MReg) (a : Reg) (b : Reg) (c : Reg) (e : Reg) (m : MReg) (n : MReg)
  /-- Integer outer product accumulated in residue form (R303). -/
  | topr (d : MReg) (a : Reg) (b : Reg) (c : Reg) (m : MReg) (n : MReg)
  /-- Loads tile rows from memory (R315). -/
  | tldrow (d : MReg) (x : BitVec 6) (a : Reg) (b : Reg)
  /-- Stores tile rows to memory (R315). -/
  | tstrow (d : MReg) (x : BitVec 6) (a : Reg) (b : Reg)
  /-- Moves a run of tile slices into a vector register (R316). -/
  | tslv (d : Reg) (a : MReg) (x : BitVec 6) (o : Bool)
  /-- Moves vector elements into tile slices (R316). -/
  | tvsl (d : MReg) (a : Reg) (x : BitVec 6) (o : Bool)
  /-- Converts tile cells in place by a conversion code (R313). -/
  | tcvt (d : MReg) (k : BitVec 5)
  /-- Checks residue cells and corrects located channel errors in place (R314). -/
  | tchk (d : MReg)
  deriving DecidableEq, Repr

/-- What the decoder answers: an instruction, in a form that compiled code can hold (log 23). -/
inductive Decoded
  | early (i : Instr)
  | late (l : Late)
  deriving DecidableEq, Repr

/-- The words of an instruction (02 R39). -/
inductive Words
  /-- A compact parcel. -/
  | w16 (w : BitVec 16)
  /-- A 32-bit instruction. -/
  | w32 (w : BitVec 32)
  /-- A prefix and its body. -/
  | w64 (p w : BitVec 32)
  /-- An event of the table has no encoding. -/
  | event
  deriving DecidableEq, Repr

/-- Element-wise arithmetic operations (02 R64). -/
inductive ArithOp
  | add | sub | mul | mulh | div | rem | min | max | and | or | xor | shl | shr | sra | fma | fms | fnma | abs | neg
  | wadd | wmul | nshr
  deriving DecidableEq, Repr

/-- The form of the last operand (02 R64): vector, scalar, signed or unsigned immediate by the operation. -/
inductive OpForm | vv | vx | vi
  deriving DecidableEq, Repr

/-- Compare predicates (02 R65). -/
inductive Pred | eq | ne | lt | le
  deriving DecidableEq, Repr

/-- Mask logic (02 R65). -/
inductive MaskOp | and | or | xor | not
  deriving DecidableEq, Repr

/-- Permutations (02 R65). -/
inductive PermOp | gather | slideup | slidedn | compress | expand | swappr | zip | unzip
  deriving DecidableEq, Repr

/-- Reductions (02 R65). -/
inductive RedOp | sumO | sumT | max | min | and | or
  deriving DecidableEq, Repr

/-- Special functions (02 R65). -/
inductive SpecOp | rcp | rsq | sint | cost | exp2 | log2
  deriving DecidableEq, Repr

/-- Outer products (02 R67). -/
inductive TopOp | topa | tops | topr
  deriving DecidableEq, Repr

/-- What a vector queue entry does: the operation of a queued class V instruction with its operand numbers (05 R156). -/
inductive VOp
  | load (f : VLoadOp) (d a b : Reg) (m : MReg) (s : Scope) (o : Order)
  | store (f : VStoreOp) (d a b : Reg) (m : MReg) (s : Scope) (o : Order)
  | amo (op : VAmoOp) (d a b : Reg) (m : MReg) (s : Scope) (o : Order)
  | arith (op : ArithOp) (form : OpForm) (d a b : Reg) (m : MReg)
  | cmp (p : Pred) (form : OpForm) (d : MReg) (a b : Reg) (m : MReg)
  | mlog (op : MaskOp) (d a b : MReg)
  | mpop (d : Reg) (a : MReg)
  | mfirst (d : Reg) (a : MReg)
  | mset (d : MReg)
  | sel (d a b : Reg) (m : MReg)
  | bcast (d : Reg) (m : MReg)
  | get (d a : Reg)
  | idx (d : Reg) (m : MReg)
  | perm (op : PermOp) (d a b : Reg) (m : MReg)
  | red (op : RedOp) (d a b : Reg) (m : MReg)
  | cvt (sr : Bool) (d a : Reg) (k : VKind) (w : Sew) (m : MReg)
  | spec (op : SpecOp) (d a : Reg) (m : MReg)
  | clmul (hi : Bool) (d a b : Reg) (m : MReg)
  | cbdec (d a : Reg) (m : MReg)
  | cbload
  | rnsf (d a : Reg) (m : MReg)
  | rnsr (d a : Reg) (m : MReg)
  | rnschk (d : MReg) (a : Reg) (m : MReg)
  | fence (vv : Bool) (s : Scope)
  | barv (k : BitVec 5) (s : Scope)
  | tzero (d : MReg)
  | top (op : TopOp) (d : MReg) (a b e : Reg) (m n : MReg)
  | tldrow (d : MReg) (x : BitVec 6)
  | tstrow (d : MReg) (x : BitVec 6)
  | tslv (d : Reg) (a : MReg) (x : BitVec 6) (o : Bool)
  | tvsl (d : MReg) (a : Reg) (x : BitVec 6) (o : Bool)
  | tcvt (d : MReg) (k : BitVec 5)
  | tchk (d : MReg)
  deriving DecidableEq, Repr

end Sys2Proof
end

