-- ==== Sys2Proof/WellFormed.lean ====
section
/-! DEFINITION. What an operand may be beyond what its type says: the reserved codes and out-of-range numbers that raise
illegal instruction at decode (02 R45, R46, R55 step 2). -/

namespace Sys2Proof

/-- The type code of a floating format (02 R61). -/
def FFmt.numTy : FFmt → NumTy
  | .fp16 => .fp16
  | .bf16 => .bf16
  | .fp32 => .fp32
  | .fp64 => .fp64

/-- The integer type codes 4 to 7 (02 R61). -/
def NumTy.isInt : NumTy → Bool
  | .fp16 | .bf16 | .fp32 | .fp64 => false
  | .sint64 | .uint64 | .sint32 | .uint32 => true

/-- An instruction that some encoding of the spec stands for; events have no encoding and are well formed. -/
def wellFormed (i : Instr) : Bool :=
  match i with

  | .cAddi d i => decide (¬ (d = 0#5 ∧ i = 0#5))
  | .cAdd _ _ => true
  | .cSub _ _ => true
  | .cAnd _ _ => true
  | .cOr _ _ => true
  | .cXor _ _ => true
  | .cShli _ _ => true
  | .cShri _ _ => true
  | .cSrai _ _ => true
  | .cMv _ => true
  | .cLdd _ _ => true
  | .cStd _ _ => true
  | .cLdw _ _ => true
  | .cBeqz _ => true
  | .cBnez _ => true
  | .cJalr _ => true
  | .add _ _ _ => true
  | .sub _ _ _ => true
  | .and _ _ _ => true
  | .or _ _ _ => true
  | .xor _ _ _ => true
  | .shl _ _ _ => true
  | .shr _ _ _ => true
  | .sra _ _ _ => true
  | .min _ _ _ => true
  | .max _ _ _ => true
  | .minu _ _ _ => true
  | .maxu _ _ _ => true
  | .slt _ _ _ => true
  | .sltu _ _ _ => true
  | .rotl _ _ _ => true
  | .rotr _ _ _ => true
  | .addsc _ _ _ k => decide (k.toNat ≤ 4)
  | .mul _ _ _ => true
  | .mulh _ _ _ => true
  | .mulhu _ _ _ => true
  | .div _ _ _ => true
  | .divu _ _ _ => true
  | .rem _ _ _ => true
  | .remu _ _ _ => true
  | .clmul _ _ _ => true
  | .clmulh _ _ _ => true
  | .clz _ _ => true
  | .ctz _ _ => true
  | .popc _ _ => true
  | .brev _ _ => true
  | .bswap _ _ => true
  | .addi _ _ _ => true
  | .andi _ _ _ => true
  | .ori _ _ _ => true
  | .xori _ _ _ => true
  | .slti _ _ _ => true
  | .shli _ _ _ => true
  | .shri _ _ _ => true
  | .srai _ _ _ => true
  | .lih _ _ => true
  | .addpc _ _ => true
  | .beq _ _ _ => true
  | .bne _ _ _ => true
  | .blt _ _ _ => true
  | .bge _ _ _ => true
  | .bltu _ _ _ => true
  | .bgeu _ _ _ => true
  | .jal _ _ => true
  | .jalr _ _ _ => true
  | .ldb _ _ _ => true
  | .ldbu _ _ _ => true
  | .ldh _ _ _ => true
  | .ldhu _ _ _ => true
  | .ldw _ _ _ => true
  | .ldwu _ _ _ => true
  | .ldd _ _ _ => true
  | .stb _ _ _ => true
  | .sth _ _ _ => true
  | .stw _ _ _ => true
  | .std _ _ _ => true
  | .addiImm32 _ _ _ _ => true
  | .lihImm32 _ _ => true
  | .addpcImm32 _ _ => true
  | .jalrImm32 _ _ _ => true
  | .loadImm32 _ _ _ _ => true
  | .storeImm32 _ _ _ _ => true
  | .amoAddD _ _ _ _ _ => true
  | .amoAndD _ _ _ _ _ => true
  | .amoOrD _ _ _ _ _ => true
  | .amoXorD _ _ _ _ _ => true
  | .amoMinD _ _ _ _ _ => true
  | .amoMaxD _ _ _ _ _ => true
  | .amoMinuD _ _ _ _ _ => true
  | .amoMaxuD _ _ _ _ _ => true
  | .amoSwapD _ _ _ _ _ => true
  | .casD _ _ _ _ _ => true
  | .amoAddW _ _ _ _ _ => true
  | .amoAndW _ _ _ _ _ => true
  | .amoOrW _ _ _ _ _ => true
  | .amoXorW _ _ _ _ _ => true
  | .amoMinW _ _ _ _ _ => true
  | .amoMaxW _ _ _ _ _ => true
  | .amoMinuW _ _ _ _ _ => true
  | .amoMaxuW _ _ _ _ _ => true
  | .amoSwapW _ _ _ _ _ => true
  | .casW _ _ _ _ _ => true
  | .space _ _ => true
  | .castg _ _ w => decide (1 ≤ w.toNat) && decide (w.toNat ≤ 3)
  | .casts _ _ w => decide (w.toNat ≤ 3)
  | .fadd _ _ _ _ _ => true
  | .fsub _ _ _ _ _ => true
  | .fmul _ _ _ _ _ => true
  | .fdiv _ _ _ _ _ => true
  | .fsqrt _ _ _ _ => true
  | .fmin _ _ _ _ => true
  | .fmax _ _ _ _ => true
  | .fsgnCopy _ _ _ _ => true
  | .fsgnNeg _ _ _ _ => true
  | .fsgnXor _ _ _ _ => true
  | .fcmpEq _ _ _ _ => true
  | .fcmpLt _ _ _ _ => true
  | .fcmpLe _ _ _ _ => true
  | .fclass _ _ _ => true
  | .fcvtToFloat _ _ c t _ => decide (c ≠ t.numTy)
  | .fcvtToInt _ _ c _ _ => c.isInt
  | .fma _ _ _ _ _ => true
  | .fms _ _ _ _ _ => true
  | .fnma _ _ _ _ _ => true
  | .rdc _ _ => true
  | .wrc _ _ => true
  | .setc _ _ => true
  | .clrc _ _ => true
  | .send _ _ _ => true
  | .recv d a => decide (a ≠ d) || decide (a = 0#5)
  | .waitmsg => true
  | .pollmsg _ => true
  | .lullq _ _ => true
  | .lullw => true
  | .svc _ => true
  | .eret => true
  | .brk _ => true
  | .ifence => true
  | .trigger => true
  | .exit => true
  | .nop => true
  | .ract _ => true
  | .hint a b f m => decide (¬ (b = 0#5 ∧ a = 0#5 ∧ f = 0#6 ∧ m = 0#3)) && decide (¬ (f = 1#6 ∧ b = 0#5 ∧ m = 0#3))
  | .vgrant _ _ h => decide (h.extractLsb' 3 2 ≠ 3#2)
  | .vgrantNb _ _ h => decide (h.extractLsb' 3 2 ≠ 3#2)
  | .vgrantZ _ _ h => decide (h.extractLsb' 3 2 ≠ 3#2)
  | .vtype _ _ => true
  | .vld _ _ _ => true
  | .vldScaled _ _ b _ => decide (b ≠ 0#5)
  | .vlds _ _ _ _ => true
  | .vldx _ _ _ _ => true
  | .vldxO _ _ _ _ => true
  | .vldff _ _ _ => true
  | .vst _ _ _ => true
  | .vstScaled _ _ b _ => decide (b ≠ 0#5)
  | .vsts _ _ _ _ => true
  | .vstx _ _ _ _ => true
  | .vstxO _ _ _ _ => true
  | .vstN _ _ _ _ => true
  | .vamoAdd _ _ _ _ => true
  | .vamoAnd _ _ _ _ => true
  | .vamoOr _ _ _ _ => true
  | .vamoXor _ _ _ _ => true
  | .vamoMin _ _ _ _ => true
  | .vamoMax _ _ _ _ => true
  | .vamoMinu _ _ _ _ => true
  | .vamoMaxu _ _ _ _ => true
  | .vamoSwap _ _ _ _ => true
  | .vloadOrd op _ _ b _ _ o => (decide (o = .rlx) || decide (o = .acq) || decide (o = .sc)) && (decide (op ≠ .vldff) || decide (b = 0#5))
  | .vstoreOrd _ _ _ _ _ _ o => decide (o = .rlx) || decide (o = .rel) || decide (o = .sc)
  | .vamoOrd _ _ _ _ _ _ _ => true
  | .vaddVv _ _ _ _ => true
  | .vsubVv _ _ _ _ => true
  | .vmulVv _ _ _ _ => true
  | .vmulhVv _ _ _ _ => true
  | .vdivVv _ _ _ _ => true
  | .vremVv _ _ _ _ => true
  | .vminVv _ _ _ _ => true
  | .vmaxVv _ _ _ _ => true
  | .vandVv _ _ _ _ => true
  | .vorVv _ _ _ _ => true
  | .vxorVv _ _ _ _ => true
  | .vshlVv _ _ _ _ => true
  | .vshrVv _ _ _ _ => true
  | .vsraVv _ _ _ _ => true
  | .vfmaVv _ _ _ _ => true
  | .vfmsVv _ _ _ _ => true
  | .vfnmaVv _ _ _ _ => true
  | .vabs _ _ _ => true
  | .vneg _ _ _ => true
  | .vwaddVv _ _ _ _ => true
  | .vwmulVv _ _ _ _ => true
  | .vnshrVv _ _ _ _ => true
  | .vaddVx _ _ _ _ => true
  | .vsubVx _ _ _ _ => true
  | .vmulVx _ _ _ _ => true
  | .vmulhVx _ _ _ _ => true
  | .vdivVx _ _ _ _ => true
  | .vremVx _ _ _ _ => true
  | .vminVx _ _ _ _ => true
  | .vmaxVx _ _ _ _ => true
  | .vandVx _ _ _ _ => true
  | .vorVx _ _ _ _ => true
  | .vxorVx _ _ _ _ => true
  | .vshlVx _ _ _ _ => true
  | .vshrVx _ _ _ _ => true
  | .vsraVx _ _ _ _ => true
  | .vfmaVx _ _ _ _ => true
  | .vfmsVx _ _ _ _ => true
  | .vfnmaVx _ _ _ _ => true
  | .vwaddVx _ _ _ _ => true
  | .vwmulVx _ _ _ _ => true
  | .vnshrVx _ _ _ _ => true
  | .vaddVi _ _ _ _ => true
  | .vsubVi _ _ _ _ => true
  | .vminVi _ _ _ _ => true
  | .vmaxVi _ _ _ _ => true
  | .vandVi _ _ _ _ => true
  | .vorVi _ _ _ _ => true
  | .vxorVi _ _ _ _ => true
  | .vshlVi _ _ _ _ => true
  | .vshrVi _ _ _ _ => true
  | .vsraVi _ _ _ _ => true
  | .vnshrVi _ _ _ _ => true
  | .vcmpEqVv _ _ _ _ => true
  | .vcmpNeVv _ _ _ _ => true
  | .vcmpLtVv _ _ _ _ => true
  | .vcmpLeVv _ _ _ _ => true
  | .vcmpEqVx _ _ _ _ => true
  | .vcmpNeVx _ _ _ _ => true
  | .vcmpLtVx _ _ _ _ => true
  | .vcmpLeVx _ _ _ _ => true
  | .vcmpEqVi _ _ _ _ => true
  | .vcmpNeVi _ _ _ _ => true
  | .vcmpLtVi _ _ _ _ => true
  | .vcmpLeVi _ _ _ _ => true
  | .mand _ a b => decide (a ≠ 0#3) && decide (b ≠ 0#3)
  | .mor _ a b => decide (a ≠ 0#3) && decide (b ≠ 0#3)
  | .mxor _ a b => decide (a ≠ 0#3) && decide (b ≠ 0#3)
  | .mnot _ a => decide (a ≠ 0#3)
  | .mpop _ a => decide (a ≠ 0#3)
  | .mfirst _ a => decide (a ≠ 0#3)
  | .mset _ _ => true
  | .vsel _ _ _ m => decide (m ≠ 0#3)
  | .vbcast _ _ _ => true
  | .vget _ _ _ => true
  | .vidx _ _ => true
  | .vgather _ _ _ _ => true
  | .vslideup _ _ _ _ => true
  | .vslidedn _ _ _ _ => true
  | .vcompress _ _ m => decide (m ≠ 0#3)
  | .vexpand _ _ m => decide (m ≠ 0#3)
  | .vswappr _ _ _ => true
  | .vzip _ _ _ _ => true
  | .vunzip _ _ _ _ => true
  | .vredsumO _ _ _ _ => true
  | .vredsumT _ _ _ _ => true
  | .vredmax _ _ _ _ => true
  | .vredmin _ _ _ _ => true
  | .vredand _ _ _ _ => true
  | .vredor _ _ _ _ => true
  | .vcvt _ _ _ _ _ => true
  | .vcvtSr _ _ _ _ _ => true
  | .vrcp _ _ _ => true
  | .vrsq _ _ _ => true
  | .vsint _ _ _ => true
  | .vcost _ _ _ => true
  | .vexp2 _ _ _ => true
  | .vlog2 _ _ _ => true
  | .vclmul _ _ _ _ => true
  | .vclmulh _ _ _ _ => true
  | .vcbdec _ _ _ => true
  | .cbload _ => true
  | .vrnsf _ _ _ => true
  | .vrnsr _ _ _ => true
  | .vrnschk _ _ _ => true
  | .vstreamLdv _ _ _ _ => true
  | .vstreamStv _ _ _ _ => true
  | .vstreamLds _ _ _ _ => true
  | .vstreamSts _ _ _ _ => true
  | .vstreamLdb _ _ _ _ => true
  | .vstreamStb _ _ _ _ => true
  | .vstreamLdvA _ _ _ _ _ => true
  | .vstreamStvA _ _ _ _ _ => true
  | .vstreamLdsA _ _ _ _ _ => true
  | .vstreamStsA _ _ _ _ _ => true
  | .vstreamLdbA _ _ _ _ _ => true
  | .vstreamStbA _ _ _ _ _ => true
  | .swait _ => true
  | .squery _ _ => true
  | .fenceSs _ => true
  | .fenceSv _ => true
  | .fenceVs _ => true
  | .fenceVv _ => true
  | .barinit _ _ => true
  | .barv _ s => decide (s ≠ .st) && decide (s ≠ .co)
  | .barw _ => true
  | .mtenter _ => true
  | .mtexit => true
  | .tzero _ => true
  | .tedge _ _ => true
  | .topa _ _ _ _ _ _ _ => true
  | .tops _ _ _ _ _ _ _ => true
  | .topr _ _ _ _ _ _ => true
  | .tldrow _ _ _ _ => true
  | .tstrow _ _ _ _ => true
  | .tslv _ _ _ _ => true
  | .tvsl _ _ _ _ => true
  | .tcvt _ k => decide (k.toNat ≤ 4)
  | .tchk _ => true
  | .sequencerHandoff _ => true
  | .slotStepStart _ _ => true
  | .slotStepCommit _ _ => true
  | .queuedTrap _ => true
  | .writeQueueSend _ => true
  | .storeAcknowledgement _ _ => true
  | .memoryReply _ _ => true
  | .fetchFill _ => true
  | .handlerFault _ => true
  | .sendDepart _ => true
  | .mailboxArrival _ => true
  | .messageAcknowledgement _ => true
  | .bounceArrival _ => true
  | .dbgctlHaltreq _ _ => true
  | .debugHalt _ => true
  | .dbgctlResume _ _ => true
  | .debugWindowAccess _ _ _ => true
  | .cfenceRequest _ _ => true
  | .lamark _ _ => true
  | .allocatorMark _ => true
  | .deadlineExpiry _ => true
  | .parkExpiry _ => true
  | .saveComplete _ => true
  | .grantComplete _ => true
  | .restoreComplete _ => true
  | .relocate _ => true
  | .recheckSecondExecution _ _ => true
  | .recheckCompare _ _ _ => true
  | .recheckVote _ _ _ _ => true
  | .recheckRollback _ _ _ _ => true
  | .elogtailWrite _ _ => true
  | .lgstatMark _ _ _ => true
  | .lgstatFenreq _ _ _ => true
  | .substitutionDone _ _ => true
  | .dschkGo _ _ => true
  | .dschkCalc _ _ => true
  | .diagnosticStore _ => true
  | .dinjArm _ _ => true
  | .cbownWrite _ _ => true
  | .csplitApply _ => true
  | .streamUnit _ => true
  | .streamCopyDone _ _ => true
  | .completionMessage _ _ => true
  | .barvArrival _ _ => true
  | .homeRequest _ _ => true
  | .dramAccess _ => true
  | .rowIdleClose _ => true
  | .ractArrival _ => true
  | .replicaInvalidation _ _ => true
  | .invalidationAck _ _ => true
  | .walkComplete _ _ => true
  | .tlbinvGo _ _ => true
  | .tlbinvDone _ => true
  | .migctlGo _ _ _ => true
  | .migrationLineDone _ _ => true
  | .migctlDoneClear _ _ _ => true
  | .mscspWrite _ _ => true
  | .mscspConversionDone _ => true
  | .drchkGo _ _ => true
  | .drchkCalc _ _ => true
  | .dlogtailWrite _ _ => true
  | .linkFlitReplay _ _ => true
  | .keycmdGo _ => true
  | .keyInstallDone => true
  | .qnotifyWrite _ _ => true
  | .qstatRestart _ _ => true
  | .cpServePacket _ => true
  | .packetClearAck _ => true
  | .groupPlacement _ => true
  | .triggerMarkCount _ => true
  | .exitFinish _ => true
  | .signalDecrement _ => true
  | .msixSend _ _ => true
  | .schcmdPreempt _ => true
  | .schcmdMove _ => true
  | .schcmdRelease _ => true
  | .schcmdSwitchCluster _ => true
  | .schcmdSwitchPackage _ => true
  | .schcmdEndLaunch _ => true
  | .schcmdReserved _ => true
  | .schcmdComplete => true
  | .lullDrainStart => true
  | .lullStart _ _ => true
  | .lullEnd _ _ => true
  | .lullOverrun _ => true
  | .relockDone => true
  | .thermtrip => true
  | .hostBar4Read _ _ _ => true
  | .hostBar4Write _ _ _ => true
  | .hostAtomicopRequest _ _ => true
  | .hostCompletion _ _ _ _ => true
  | .fwcmdGo _ => true
  | .fwImageCheck _ => true
  | .packageReset => true
  | .vfFlr _ => true
  | .vfFlrIdle _ => true
  | .powerLoss => true
  | .pldmBase _ => true
  | .pldmPlatform _ _ => true
  | .pldmFirmwareUpdate _ => true
  | .mctpDebugRequest _ _ _ => true
  | .brulosFlitReceive _ _ _ => true
  | .linkNak _ _ => true
  | .retransmitTimeout _ => true
  | .remoteRequest _ => true
  | .collectiveComplete _ _ _ => true
  | .registerWrite _ _ => true
  | .mtenterComplete _ => true
  | .systemDieError => true
  | .hostCompletionTimeout _ _ => true
  | .firmwareCallReturn _ _ _ => true
  | .brulosLinkDown _ => true
  | .brulosLinkUp _ => true
  | .tenantSwitchIn _ _ => true
  | .mctpEndpointIdAssignment _ => true

/-- `wellFormed` of a late row (log 23). -/
def Late.wellFormed : Late → Bool
  | .vbcast _ _ _ => true
  | .vget _ _ _ => true
  | .vidx _ _ => true
  | .vgather _ _ _ _ => true
  | .vslideup _ _ _ _ => true
  | .vslidedn _ _ _ _ => true
  | .vcompress _ _ m => decide (m ≠ 0#3)
  | .vexpand _ _ m => decide (m ≠ 0#3)
  | .vswappr _ _ _ => true
  | .vzip _ _ _ _ => true
  | .vunzip _ _ _ _ => true
  | .vredsumO _ _ _ _ => true
  | .vredsumT _ _ _ _ => true
  | .vredmax _ _ _ _ => true
  | .vredmin _ _ _ _ => true
  | .vredand _ _ _ _ => true
  | .vredor _ _ _ _ => true
  | .vcvt _ _ _ _ _ => true
  | .vcvtSr _ _ _ _ _ => true
  | .vrcp _ _ _ => true
  | .vrsq _ _ _ => true
  | .vsint _ _ _ => true
  | .vcost _ _ _ => true
  | .vexp2 _ _ _ => true
  | .vlog2 _ _ _ => true
  | .vclmul _ _ _ _ => true
  | .vclmulh _ _ _ _ => true
  | .vcbdec _ _ _ => true
  | .cbload _ => true
  | .vrnsf _ _ _ => true
  | .vrnsr _ _ _ => true
  | .vrnschk _ _ _ => true
  | .vstreamLdv _ _ _ _ => true
  | .vstreamStv _ _ _ _ => true
  | .vstreamLds _ _ _ _ => true
  | .vstreamSts _ _ _ _ => true
  | .vstreamLdb _ _ _ _ => true
  | .vstreamStb _ _ _ _ => true
  | .vstreamLdvA _ _ _ _ _ => true
  | .vstreamStvA _ _ _ _ _ => true
  | .vstreamLdsA _ _ _ _ _ => true
  | .vstreamStsA _ _ _ _ _ => true
  | .vstreamLdbA _ _ _ _ _ => true
  | .vstreamStbA _ _ _ _ _ => true
  | .swait _ => true
  | .squery _ _ => true
  | .fenceSs _ => true
  | .fenceSv _ => true
  | .fenceVs _ => true
  | .fenceVv _ => true
  | .barinit _ _ => true
  | .barv _ s => decide (s ≠ .st) && decide (s ≠ .co)
  | .barw _ => true
  | .mtenter _ => true
  | .mtexit => true
  | .tzero _ => true
  | .tedge _ _ => true
  | .topa _ _ _ _ _ _ _ => true
  | .tops _ _ _ _ _ _ _ => true
  | .topr _ _ _ _ _ _ => true
  | .tldrow _ _ _ _ => true
  | .tstrow _ _ _ _ => true
  | .tslv _ _ _ _ => true
  | .tvsl _ _ _ _ => true
  | .tcvt _ k => decide (k.toNat ≤ 4)
  | .tchk _ => true

/-- `wellFormed` of what the decoder answers. -/
def Decoded.wellFormed : Decoded → Bool
  | .early i => Sys2Proof.wellFormed i
  | .late l => l.wellFormed

end Sys2Proof
end

