-- ==== Sys2Proof/Decode.lean ====
section
/-! DEFINITION. Decoding, total on any bytes and rejecting by name (02 R39 to R67), and the encoder beside it. -/

namespace Sys2Proof

-- Lean compiles no constructor beyond the 244th of a type (log 23), so the decoder has no compiled code;
-- the kernel evaluates it as it evaluates every definition.
noncomputable section

/-- Why bytes are no instruction. Each raises illegal instruction (02 R55), but for `truncated`, which is a fetch fault. -/
inductive DecodeError
  /-- A parcel is missing (02 R41). -/
  | truncated
  /-- The parcel 0x0000 (02 R49). -/
  | zeroParcel
  /-- A compact form with a non-zero x field (02 R49). -/
  | compactField
  /-- A reserved prefix kind, a body that does not accept it, or a payload bit that must be zero (02 R54). -/
  | badPrefix
  /-- A body that needs a prefix arrived without one (02 R42, R54). -/
  | needsPrefix
  /-- An unassigned op or f, a reserved code, or a non-zero field that must be zero (02 R55 step 2). -/
  | unassigned
  /-- An operand outside its range (02 R46, R55 step 2). -/
  | badOperand
  deriving DecidableEq, Repr

/-- The fields of a 32-bit word put together (02 R43). -/
def mk32 (b a : BitVec 5) (f : BitVec 6) (cls : BitVec 2) (op : BitVec 6) (d : BitVec 5) (m : BitVec 3) : BitVec 32 :=
  b ++ a ++ f ++ cls ++ op ++ d ++ m

/-- The fields of a compact parcel put together (02 R47). -/
def mk16 (cop : BitVec 4) (d x : BitVec 5) : BitVec 16 := 0#2 ++ cop ++ d ++ x

/-- Scope codes (02 R45). -/
def Scope.code : Scope → BitVec 3
  | .st => 0#3 | .co => 1#3 | .cl => 2#3 | .di => 3#3 | .pk => 4#3 | .sy => 5#3

/-- A scope by its code; 6 and 7 are reserved (02 R45). -/
def Scope.ofCode (c : BitVec 3) : Option Scope :=
  match c.toNat with
  | 0 => some .st | 1 => some .co | 2 => some .cl | 3 => some .di | 4 => some .pk | 5 => some .sy | _ => none

/-- Order codes (02 R45). -/
def Order.code : Order → BitVec 3
  | .rlx => 0#3 | .acq => 1#3 | .rel => 2#3 | .ar => 3#3 | .sc => 4#3

/-- An order by its code; 5 to 7 are reserved (02 R45). -/
def Order.ofCode (c : BitVec 3) : Option Order :=
  match c.toNat with
  | 0 => some .rlx | 1 => some .acq | 2 => some .rel | 3 => some .ar | 4 => some .sc | _ => none

/-- Format codes (02 R61). -/
def FFmt.code : FFmt → BitVec 2
  | .fp16 => 0#2 | .bf16 => 1#2 | .fp32 => 2#2 | .fp64 => 3#2

/-- A format by its code (02 R61). -/
def FFmt.ofCode (c : BitVec 2) : Option FFmt :=
  match c.toNat with
  | 0 => some .fp16 | 1 => some .bf16 | 2 => some .fp32 | 3 => some .fp64 | _ => none

/-- Rounding codes (02 R61). -/
def Rm.code : Rm → BitVec 3
  | .rne => 0#3 | .rtz => 1#3 | .rdn => 2#3 | .rup => 3#3 | .rmm => 4#3 | .dyn => 7#3

/-- A rounding by its code; 5 and 6 are illegal (02 R61). -/
def Rm.ofCode (c : BitVec 3) : Option Rm :=
  match c.toNat with
  | 0 => some .rne | 1 => some .rtz | 2 => some .rdn | 3 => some .rup | 4 => some .rmm | 7 => some .dyn | _ => none

/-- Type codes (02 R61). -/
def NumTy.code : NumTy → BitVec 5
  | .fp16 => 0#5 | .bf16 => 1#5 | .fp32 => 2#5 | .fp64 => 3#5
  | .sint64 => 4#5 | .uint64 => 5#5 | .sint32 => 6#5 | .uint32 => 7#5

/-- A type by its code (02 R61). -/
def NumTy.ofCode (c : BitVec 5) : Option NumTy :=
  match c.toNat with
  | 0 => some .fp16 | 1 => some .bf16 | 2 => some .fp32 | 3 => some .fp64
  | 4 => some .sint64 | 5 => some .uint64 | 6 => some .sint32 | 7 => some .uint32 | _ => none

/-- KIND codes (01 R21). -/
def VKind.code : VKind → BitVec 4
  | .sint => 0#4 | .uint => 1#4 | .fp => 2#4 | .bf16 => 3#4 | .e4m3 => 4#4 | .e5m2 => 5#4 | .fp4 => 6#4 | .cb8 => 7#4
  | .rns => 8#4

/-- A kind by its code; 9 to 15 are reserved (01 R21). -/
def VKind.ofCode (c : BitVec 4) : Option VKind :=
  match c.toNat with
  | 0 => some .sint | 1 => some .uint | 2 => some .fp | 3 => some .bf16 | 4 => some .e4m3 | 5 => some .e5m2
  | 6 => some .fp4 | 7 => some .cb8 | 8 => some .rns | _ => none

/-- SEW codes in two bits (09 R264). -/
def Sew.code : Sew → BitVec 2
  | .w8 => 0#2 | .w16 => 1#2 | .w32 => 2#2 | .w64 => 3#2

/-- A width by its code (09 R264). -/
def Sew.ofCode (c : BitVec 2) : Option Sew :=
  match c.toNat with
  | 0 => some .w8 | 1 => some .w16 | 2 => some .w32 | 3 => some .w64 | _ => none

/-- The op of an instruction that ADDI_IMM32 covers (02 R58). -/
def ImmOp.op : ImmOp → BitVec 6
  | .addi => 8#6 | .andi => 9#6 | .ori => 10#6 | .xori => 11#6 | .slti => 12#6

/-- The op of a load (02 R58). -/
def LoadOp.op : LoadOp → BitVec 6
  | .ldb => 24#6 | .ldbu => 25#6 | .ldh => 26#6 | .ldhu => 27#6 | .ldw => 28#6 | .ldwu => 29#6 | .ldd => 30#6

/-- The op of a store (02 R58). -/
def StoreOp.op : StoreOp → BitVec 6
  | .stb => 32#6 | .sth => 33#6 | .stw => 34#6 | .std => 35#6

/-- The selector of a vector load (02 R63). -/
def VLoadOp.code : VLoadOp → BitVec 6
  | .vld => 0#6 | .vlds => 1#6 | .vldx => 2#6 | .vldxO => 3#6 | .vldff => 4#6

/-- The selector of a vector store (02 R63). -/
def VStoreOp.code : VStoreOp → BitVec 6
  | .vst => 0#6 | .vsts => 1#6 | .vstx => 2#6 | .vstxO => 3#6 | .vstN => 4#6

/-- The selector of a vector atomic (02 R63). -/
def VAmoOp.code : VAmoOp → BitVec 6
  | .add => 0#6 | .and => 1#6 | .or => 2#6 | .xor => 3#6 | .min => 4#6 | .max => 5#6 | .minu => 6#6 | .maxu => 7#6
  | .swap => 8#6


/-- Class S op 0x00 (02 R58 to R67). -/
def decS00 (b a : BitVec 5) (f : BitVec 6) (d : BitVec 5) (m : BitVec 3) : Option Decoded :=
  if f = 0#6 ∧ m = 0#3 then some (.early (.add d a b)) else
  if f = 1#6 ∧ m = 0#3 then some (.early (.sub d a b)) else
  if f = 2#6 ∧ m = 0#3 then some (.early (.and d a b)) else
  if f = 3#6 ∧ m = 0#3 then some (.early (.or d a b)) else
  if f = 4#6 ∧ m = 0#3 then some (.early (.xor d a b)) else
  if f = 5#6 ∧ m = 0#3 then some (.early (.shl d a b)) else
  if f = 6#6 ∧ m = 0#3 then some (.early (.shr d a b)) else
  if f = 7#6 ∧ m = 0#3 then some (.early (.sra d a b)) else
  if f = 8#6 ∧ m = 0#3 then some (.early (.min d a b)) else
  if f = 9#6 ∧ m = 0#3 then some (.early (.max d a b)) else
  if f = 10#6 ∧ m = 0#3 then some (.early (.minu d a b)) else
  if f = 11#6 ∧ m = 0#3 then some (.early (.maxu d a b)) else
  if f = 12#6 ∧ m = 0#3 then some (.early (.slt d a b)) else
  if f = 13#6 ∧ m = 0#3 then some (.early (.sltu d a b)) else
  if f = 14#6 ∧ m = 0#3 then some (.early (.rotl d a b)) else
  if f = 15#6 ∧ m = 0#3 then some (.early (.rotr d a b)) else
  if f = 16#6 then some (.early (.addsc d a b m)) else
  none

/-- Class S op 0x01 (02 R58 to R67). -/
def decS01 (b a : BitVec 5) (f : BitVec 6) (d : BitVec 5) (m : BitVec 3) : Option Decoded :=
  if f = 0#6 ∧ m = 0#3 then some (.early (.mul d a b)) else
  if f = 1#6 ∧ m = 0#3 then some (.early (.mulh d a b)) else
  if f = 2#6 ∧ m = 0#3 then some (.early (.mulhu d a b)) else
  if f = 3#6 ∧ m = 0#3 then some (.early (.div d a b)) else
  if f = 4#6 ∧ m = 0#3 then some (.early (.divu d a b)) else
  if f = 5#6 ∧ m = 0#3 then some (.early (.rem d a b)) else
  if f = 6#6 ∧ m = 0#3 then some (.early (.remu d a b)) else
  if f = 7#6 ∧ m = 0#3 then some (.early (.clmul d a b)) else
  if f = 8#6 ∧ m = 0#3 then some (.early (.clmulh d a b)) else
  none

/-- Class S op 0x02 (02 R58 to R67). -/
def decS02 (b a : BitVec 5) (f : BitVec 6) (d : BitVec 5) (m : BitVec 3) : Option Decoded :=
  if b = 0#5 ∧ f = 0#6 ∧ m = 0#3 then some (.early (.clz d a)) else
  if b = 0#5 ∧ f = 1#6 ∧ m = 0#3 then some (.early (.ctz d a)) else
  if b = 0#5 ∧ f = 2#6 ∧ m = 0#3 then some (.early (.popc d a)) else
  if b = 0#5 ∧ f = 3#6 ∧ m = 0#3 then some (.early (.brev d a)) else
  if b = 0#5 ∧ f = 4#6 ∧ m = 0#3 then some (.early (.bswap d a)) else
  none

/-- Class S op 0x08 (02 R58 to R67). -/
def decS08 (b a : BitVec 5) (f : BitVec 6) (d : BitVec 5) (m : BitVec 3) : Option Decoded :=
  some (.early (.addi d a (b ++ f ++ m)))

/-- Class S op 0x09 (02 R58 to R67). -/
def decS09 (b a : BitVec 5) (f : BitVec 6) (d : BitVec 5) (m : BitVec 3) : Option Decoded :=
  some (.early (.andi d a (b ++ f ++ m)))

/-- Class S op 0x0A (02 R58 to R67). -/
def decS0A (b a : BitVec 5) (f : BitVec 6) (d : BitVec 5) (m : BitVec 3) : Option Decoded :=
  some (.early (.ori d a (b ++ f ++ m)))

/-- Class S op 0x0B (02 R58 to R67). -/
def decS0B (b a : BitVec 5) (f : BitVec 6) (d : BitVec 5) (m : BitVec 3) : Option Decoded :=
  some (.early (.xori d a (b ++ f ++ m)))

/-- Class S op 0x0C (02 R58 to R67). -/
def decS0C (b a : BitVec 5) (f : BitVec 6) (d : BitVec 5) (m : BitVec 3) : Option Decoded :=
  some (.early (.slti d a (b ++ f ++ m)))

/-- Class S op 0x0D (02 R58 to R67). -/
def decS0D (b a : BitVec 5) (f : BitVec 6) (d : BitVec 5) (m : BitVec 3) : Option Decoded :=
  if b = 0#5 ∧ m = 0#3 then some (.early (.shli d a f)) else
  if b = 0#5 ∧ m = 1#3 then some (.early (.shri d a f)) else
  if b = 0#5 ∧ m = 2#3 then some (.early (.srai d a f)) else
  none

/-- Class S op 0x0E (02 R58 to R67). -/
def decS0E (b a : BitVec 5) (f : BitVec 6) (d : BitVec 5) (m : BitVec 3) : Option Decoded :=
  some (.early (.lih d (b ++ a ++ f ++ m)))

/-- Class S op 0x0F (02 R58 to R67). -/
def decS0F (b a : BitVec 5) (f : BitVec 6) (d : BitVec 5) (m : BitVec 3) : Option Decoded :=
  some (.early (.addpc d (b ++ a ++ f ++ m)))

/-- Class S op 0x10 (02 R58 to R67). -/
def decS10 (b a : BitVec 5) (f : BitVec 6) (d : BitVec 5) (m : BitVec 3) : Option Decoded :=
  some (.early (.beq a b (f ++ d ++ m)))

/-- Class S op 0x11 (02 R58 to R67). -/
def decS11 (b a : BitVec 5) (f : BitVec 6) (d : BitVec 5) (m : BitVec 3) : Option Decoded :=
  some (.early (.bne a b (f ++ d ++ m)))

/-- Class S op 0x12 (02 R58 to R67). -/
def decS12 (b a : BitVec 5) (f : BitVec 6) (d : BitVec 5) (m : BitVec 3) : Option Decoded :=
  some (.early (.blt a b (f ++ d ++ m)))

/-- Class S op 0x13 (02 R58 to R67). -/
def decS13 (b a : BitVec 5) (f : BitVec 6) (d : BitVec 5) (m : BitVec 3) : Option Decoded :=
  some (.early (.bge a b (f ++ d ++ m)))

/-- Class S op 0x14 (02 R58 to R67). -/
def decS14 (b a : BitVec 5) (f : BitVec 6) (d : BitVec 5) (m : BitVec 3) : Option Decoded :=
  some (.early (.bltu a b (f ++ d ++ m)))

/-- Class S op 0x15 (02 R58 to R67). -/
def decS15 (b a : BitVec 5) (f : BitVec 6) (d : BitVec 5) (m : BitVec 3) : Option Decoded :=
  some (.early (.bgeu a b (f ++ d ++ m)))

/-- Class S op 0x16 (02 R58 to R67). -/
def decS16 (b a : BitVec 5) (f : BitVec 6) (d : BitVec 5) (m : BitVec 3) : Option Decoded :=
  some (.early (.jal d (b ++ a ++ f ++ m)))

/-- Class S op 0x17 (02 R58 to R67). -/
def decS17 (b a : BitVec 5) (f : BitVec 6) (d : BitVec 5) (m : BitVec 3) : Option Decoded :=
  some (.early (.jalr d a (b ++ f ++ m)))

/-- Class S op 0x18 (02 R58 to R67). -/
def decS18 (b a : BitVec 5) (f : BitVec 6) (d : BitVec 5) (m : BitVec 3) : Option Decoded :=
  some (.early (.ldb d a (b ++ f ++ m)))

/-- Class S op 0x19 (02 R58 to R67). -/
def decS19 (b a : BitVec 5) (f : BitVec 6) (d : BitVec 5) (m : BitVec 3) : Option Decoded :=
  some (.early (.ldbu d a (b ++ f ++ m)))

/-- Class S op 0x1A (02 R58 to R67). -/
def decS1A (b a : BitVec 5) (f : BitVec 6) (d : BitVec 5) (m : BitVec 3) : Option Decoded :=
  some (.early (.ldh d a (b ++ f ++ m)))

/-- Class S op 0x1B (02 R58 to R67). -/
def decS1B (b a : BitVec 5) (f : BitVec 6) (d : BitVec 5) (m : BitVec 3) : Option Decoded :=
  some (.early (.ldhu d a (b ++ f ++ m)))

/-- Class S op 0x1C (02 R58 to R67). -/
def decS1C (b a : BitVec 5) (f : BitVec 6) (d : BitVec 5) (m : BitVec 3) : Option Decoded :=
  some (.early (.ldw d a (b ++ f ++ m)))

/-- Class S op 0x1D (02 R58 to R67). -/
def decS1D (b a : BitVec 5) (f : BitVec 6) (d : BitVec 5) (m : BitVec 3) : Option Decoded :=
  some (.early (.ldwu d a (b ++ f ++ m)))

/-- Class S op 0x1E (02 R58 to R67). -/
def decS1E (b a : BitVec 5) (f : BitVec 6) (d : BitVec 5) (m : BitVec 3) : Option Decoded :=
  some (.early (.ldd d a (b ++ f ++ m)))

/-- Class S op 0x20 (02 R58 to R67). -/
def decS20 (b a : BitVec 5) (f : BitVec 6) (d : BitVec 5) (m : BitVec 3) : Option Decoded :=
  some (.early (.stb d a (b ++ f ++ m)))

/-- Class S op 0x21 (02 R58 to R67). -/
def decS21 (b a : BitVec 5) (f : BitVec 6) (d : BitVec 5) (m : BitVec 3) : Option Decoded :=
  some (.early (.sth d a (b ++ f ++ m)))

/-- Class S op 0x22 (02 R58 to R67). -/
def decS22 (b a : BitVec 5) (f : BitVec 6) (d : BitVec 5) (m : BitVec 3) : Option Decoded :=
  some (.early (.stw d a (b ++ f ++ m)))

/-- Class S op 0x23 (02 R58 to R67). -/
def decS23 (b a : BitVec 5) (f : BitVec 6) (d : BitVec 5) (m : BitVec 3) : Option Decoded :=
  some (.early (.std d a (b ++ f ++ m)))

/-- Class S op 0x24 (02 R58 to R67). -/
def decS24 (b a : BitVec 5) (f : BitVec 6) (d : BitVec 5) (m : BitVec 3) : Option Decoded :=
  if m = 0#3 then (do let o0 ← Order.ofCode (f.extractLsb' 0 3); let s0 ← Scope.ofCode (f.extractLsb' 3 3); some (.early (.amoAddD d a b o0 s0))) else
  if m = 1#3 then (do let o0 ← Order.ofCode (f.extractLsb' 0 3); let s0 ← Scope.ofCode (f.extractLsb' 3 3); some (.early (.amoAndD d a b o0 s0))) else
  if m = 2#3 then (do let o0 ← Order.ofCode (f.extractLsb' 0 3); let s0 ← Scope.ofCode (f.extractLsb' 3 3); some (.early (.amoOrD d a b o0 s0))) else
  if m = 3#3 then (do let o0 ← Order.ofCode (f.extractLsb' 0 3); let s0 ← Scope.ofCode (f.extractLsb' 3 3); some (.early (.amoXorD d a b o0 s0))) else
  if m = 4#3 then (do let o0 ← Order.ofCode (f.extractLsb' 0 3); let s0 ← Scope.ofCode (f.extractLsb' 3 3); some (.early (.amoMinD d a b o0 s0))) else
  if m = 5#3 then (do let o0 ← Order.ofCode (f.extractLsb' 0 3); let s0 ← Scope.ofCode (f.extractLsb' 3 3); some (.early (.amoMaxD d a b o0 s0))) else
  if m = 6#3 then (do let o0 ← Order.ofCode (f.extractLsb' 0 3); let s0 ← Scope.ofCode (f.extractLsb' 3 3); some (.early (.amoMinuD d a b o0 s0))) else
  if m = 7#3 then (do let o0 ← Order.ofCode (f.extractLsb' 0 3); let s0 ← Scope.ofCode (f.extractLsb' 3 3); some (.early (.amoMaxuD d a b o0 s0))) else
  none

/-- Class S op 0x25 (02 R58 to R67). -/
def decS25 (b a : BitVec 5) (f : BitVec 6) (d : BitVec 5) (m : BitVec 3) : Option Decoded :=
  if m = 0#3 then (do let o0 ← Order.ofCode (f.extractLsb' 0 3); let s0 ← Scope.ofCode (f.extractLsb' 3 3); some (.early (.amoSwapD d a b o0 s0))) else
  if m = 1#3 then (do let o0 ← Order.ofCode (f.extractLsb' 0 3); let s0 ← Scope.ofCode (f.extractLsb' 3 3); some (.early (.casD d a b o0 s0))) else
  none

/-- Class S op 0x26 (02 R58 to R67). -/
def decS26 (b a : BitVec 5) (f : BitVec 6) (d : BitVec 5) (m : BitVec 3) : Option Decoded :=
  if m = 0#3 then (do let o0 ← Order.ofCode (f.extractLsb' 0 3); let s0 ← Scope.ofCode (f.extractLsb' 3 3); some (.early (.amoAddW d a b o0 s0))) else
  if m = 1#3 then (do let o0 ← Order.ofCode (f.extractLsb' 0 3); let s0 ← Scope.ofCode (f.extractLsb' 3 3); some (.early (.amoAndW d a b o0 s0))) else
  if m = 2#3 then (do let o0 ← Order.ofCode (f.extractLsb' 0 3); let s0 ← Scope.ofCode (f.extractLsb' 3 3); some (.early (.amoOrW d a b o0 s0))) else
  if m = 3#3 then (do let o0 ← Order.ofCode (f.extractLsb' 0 3); let s0 ← Scope.ofCode (f.extractLsb' 3 3); some (.early (.amoXorW d a b o0 s0))) else
  if m = 4#3 then (do let o0 ← Order.ofCode (f.extractLsb' 0 3); let s0 ← Scope.ofCode (f.extractLsb' 3 3); some (.early (.amoMinW d a b o0 s0))) else
  if m = 5#3 then (do let o0 ← Order.ofCode (f.extractLsb' 0 3); let s0 ← Scope.ofCode (f.extractLsb' 3 3); some (.early (.amoMaxW d a b o0 s0))) else
  if m = 6#3 then (do let o0 ← Order.ofCode (f.extractLsb' 0 3); let s0 ← Scope.ofCode (f.extractLsb' 3 3); some (.early (.amoMinuW d a b o0 s0))) else
  if m = 7#3 then (do let o0 ← Order.ofCode (f.extractLsb' 0 3); let s0 ← Scope.ofCode (f.extractLsb' 3 3); some (.early (.amoMaxuW d a b o0 s0))) else
  none

/-- Class S op 0x27 (02 R58 to R67). -/
def decS27 (b a : BitVec 5) (f : BitVec 6) (d : BitVec 5) (m : BitVec 3) : Option Decoded :=
  if m = 0#3 then (do let o0 ← Order.ofCode (f.extractLsb' 0 3); let s0 ← Scope.ofCode (f.extractLsb' 3 3); some (.early (.amoSwapW d a b o0 s0))) else
  if m = 1#3 then (do let o0 ← Order.ofCode (f.extractLsb' 0 3); let s0 ← Scope.ofCode (f.extractLsb' 3 3); some (.early (.casW d a b o0 s0))) else
  none

/-- Class S op 0x28 (02 R58 to R67). -/
def decS28 (b a : BitVec 5) (f : BitVec 6) (d : BitVec 5) (m : BitVec 3) : Option Decoded :=
  if b = 0#5 ∧ f = 0#6 ∧ m = 0#3 then some (.early (.space d a)) else
  if b = 0#5 ∧ f = 1#6 then some (.early (.castg d a m)) else
  if b = 0#5 ∧ f = 2#6 then some (.early (.casts d a m)) else
  none

/-- Class S op 0x30 (02 R58 to R67). -/
def decS30 (b a : BitVec 5) (f : BitVec 6) (d : BitVec 5) (m : BitVec 3) : Option Decoded :=
  if f.extractLsb' 2 4 = 0#4 then (do let t0 ← FFmt.ofCode (f.extractLsb' 0 2); let r0 ← Rm.ofCode m; some (.early (.fadd d a b t0 r0))) else
  if f.extractLsb' 2 4 = 1#4 then (do let t0 ← FFmt.ofCode (f.extractLsb' 0 2); let r0 ← Rm.ofCode m; some (.early (.fsub d a b t0 r0))) else
  if f.extractLsb' 2 4 = 2#4 then (do let t0 ← FFmt.ofCode (f.extractLsb' 0 2); let r0 ← Rm.ofCode m; some (.early (.fmul d a b t0 r0))) else
  if f.extractLsb' 2 4 = 3#4 then (do let t0 ← FFmt.ofCode (f.extractLsb' 0 2); let r0 ← Rm.ofCode m; some (.early (.fdiv d a b t0 r0))) else
  if b = 0#5 ∧ f.extractLsb' 2 4 = 4#4 then (do let t0 ← FFmt.ofCode (f.extractLsb' 0 2); let r0 ← Rm.ofCode m; some (.early (.fsqrt d a t0 r0))) else
  if f.extractLsb' 2 4 = 5#4 ∧ m = 0#3 then (do let t0 ← FFmt.ofCode (f.extractLsb' 0 2); some (.early (.fmin d a b t0))) else
  if f.extractLsb' 2 4 = 6#4 ∧ m = 0#3 then (do let t0 ← FFmt.ofCode (f.extractLsb' 0 2); some (.early (.fmax d a b t0))) else
  if f.extractLsb' 2 4 = 7#4 ∧ m = 0#3 then (do let t0 ← FFmt.ofCode (f.extractLsb' 0 2); some (.early (.fsgnCopy d a b t0))) else
  if f.extractLsb' 2 4 = 7#4 ∧ m = 1#3 then (do let t0 ← FFmt.ofCode (f.extractLsb' 0 2); some (.early (.fsgnNeg d a b t0))) else
  if f.extractLsb' 2 4 = 7#4 ∧ m = 2#3 then (do let t0 ← FFmt.ofCode (f.extractLsb' 0 2); some (.early (.fsgnXor d a b t0))) else
  if f.extractLsb' 2 4 = 8#4 ∧ m = 0#3 then (do let t0 ← FFmt.ofCode (f.extractLsb' 0 2); some (.early (.fcmpEq d a b t0))) else
  if f.extractLsb' 2 4 = 8#4 ∧ m = 1#3 then (do let t0 ← FFmt.ofCode (f.extractLsb' 0 2); some (.early (.fcmpLt d a b t0))) else
  if f.extractLsb' 2 4 = 8#4 ∧ m = 2#3 then (do let t0 ← FFmt.ofCode (f.extractLsb' 0 2); some (.early (.fcmpLe d a b t0))) else
  if b = 0#5 ∧ f.extractLsb' 2 4 = 9#4 ∧ m = 0#3 then (do let t0 ← FFmt.ofCode (f.extractLsb' 0 2); some (.early (.fclass d a t0))) else
  if f.extractLsb' 2 4 = 10#4 then (do let c0 ← NumTy.ofCode b; let t0 ← FFmt.ofCode (f.extractLsb' 0 2); let r0 ← Rm.ofCode m; some (.early (.fcvtToFloat d a c0 t0 r0))) else
  if f.extractLsb' 2 4 = 11#4 then (do let c0 ← NumTy.ofCode b; let t0 ← FFmt.ofCode (f.extractLsb' 0 2); let r0 ← Rm.ofCode m; some (.early (.fcvtToInt d a c0 t0 r0))) else
  none

/-- Class S op 0x31 (02 R58 to R67). -/
def decS31 (b a : BitVec 5) (f : BitVec 6) (d : BitVec 5) (m : BitVec 3) : Option Decoded :=
  if f.extractLsb' 2 4 = 0#4 then (do let t0 ← FFmt.ofCode (f.extractLsb' 0 2); let r0 ← Rm.ofCode m; some (.early (.fma d a b t0 r0))) else
  if f.extractLsb' 2 4 = 1#4 then (do let t0 ← FFmt.ofCode (f.extractLsb' 0 2); let r0 ← Rm.ofCode m; some (.early (.fms d a b t0 r0))) else
  if f.extractLsb' 2 4 = 2#4 then (do let t0 ← FFmt.ofCode (f.extractLsb' 0 2); let r0 ← Rm.ofCode m; some (.early (.fnma d a b t0 r0))) else
  none

/-- Class S op 0x38 (02 R58 to R67). -/
def decS38 (b a : BitVec 5) (f : BitVec 6) (d : BitVec 5) (m : BitVec 3) (lo : BitVec 1) : Option Decoded :=
  if a = 0#5 ∧ m = 0#3 then some (.early (.rdc d (lo ++ f ++ b))) else
  if d = 0#5 ∧ m = 1#3 then some (.early (.wrc a (lo ++ f ++ b))) else
  if d = 0#5 ∧ m = 2#3 then some (.early (.setc a (lo ++ f ++ b))) else
  if d = 0#5 ∧ m = 3#3 then some (.early (.clrc a (lo ++ f ++ b))) else
  none

/-- Class S op 0x3A (02 R58 to R67). -/
def decS3A (b a : BitVec 5) (f : BitVec 6) (d : BitVec 5) (m : BitVec 3) : Option Decoded :=
  if f = 0#6 ∧ m = 0#3 then some (.early (.send d a b)) else
  if b = 0#5 ∧ f = 1#6 ∧ m = 0#3 then some (.early (.recv d a)) else
  if b = 0#5 ∧ a = 0#5 ∧ f = 2#6 ∧ d = 0#5 ∧ m = 0#3 then some (.early (.waitmsg)) else
  if b = 0#5 ∧ a = 0#5 ∧ f = 3#6 ∧ m = 0#3 then some (.early (.pollmsg d)) else
  none

/-- Class S op 0x3B (02 R58 to R67). -/
def decS3B (b a : BitVec 5) (f : BitVec 6) (d : BitVec 5) (m : BitVec 3) : Option Decoded :=
  if b = 0#5 ∧ f = 0#6 ∧ m = 0#3 then some (.early (.lullq d a)) else
  if b = 0#5 ∧ a = 0#5 ∧ f = 1#6 ∧ d = 0#5 ∧ m = 0#3 then some (.early (.lullw)) else
  none

/-- Class S op 0x3C (02 R58 to R67). -/
def decS3C (b a : BitVec 5) (f : BitVec 6) (d : BitVec 5) (m : BitVec 3) : Option Decoded :=
  if f = 0#6 ∧ d = 0#5 ∧ m = 0#3 then some (.early (.svc (b ++ a))) else
  if b = 0#5 ∧ a = 0#5 ∧ f = 1#6 ∧ d = 0#5 ∧ m = 0#3 then some (.early (.eret)) else
  if f = 2#6 ∧ d = 0#5 ∧ m = 0#3 then some (.early (.brk (b ++ a))) else
  if b = 0#5 ∧ a = 0#5 ∧ f = 3#6 ∧ d = 0#5 ∧ m = 0#3 then some (.early (.ifence)) else
  if b = 0#5 ∧ a = 0#5 ∧ f = 4#6 ∧ d = 0#5 ∧ m = 0#3 then some (.early (.trigger)) else
  if b = 0#5 ∧ a = 0#5 ∧ f = 5#6 ∧ d = 0#5 ∧ m = 0#3 then some (.early (.exit)) else
  none

/-- Class S op 0x3F (02 R58 to R67). -/
def decS3F (b a : BitVec 5) (f : BitVec 6) (d : BitVec 5) (m : BitVec 3) : Option Decoded :=
  if b = 0#5 ∧ a = 0#5 ∧ f = 0#6 ∧ d = 0#5 ∧ m = 0#3 then some (.early (.nop)) else
  if b = 0#5 ∧ f = 1#6 ∧ d = 0#5 ∧ m = 0#3 then some (.early (.ract a)) else
  if d = 0#5 then some (.early (.hint a b f m)) else
  none

/-- Class V op 0x00 (02 R58 to R67). -/
def decV00 (b a : BitVec 5) (f : BitVec 6) (d : BitVec 5) (m : BitVec 3) : Option Decoded :=
  if f = 0#6 ∧ m = 0#3 then some (.early (.vgrant d a b)) else
  if f = 1#6 ∧ m = 0#3 then some (.early (.vgrantNb d a b)) else
  if f = 2#6 ∧ m = 0#3 then some (.early (.vgrantZ d a b)) else
  if b = 0#5 ∧ f = 3#6 ∧ m = 0#3 then some (.early (.vtype d a)) else
  none

/-- Class V op 0x08 (02 R58 to R67). -/
def decV08 (b a : BitVec 5) (f : BitVec 6) (d : BitVec 5) (m : BitVec 3) : Option Decoded :=
  if b = 0#5 ∧ f = 0#6 then some (.early (.vld d a m)) else
  if f = 0#6 then some (.early (.vldScaled d a b m)) else
  if f = 1#6 then some (.early (.vlds d a b m)) else
  if f = 2#6 then some (.early (.vldx d a b m)) else
  if f = 3#6 then some (.early (.vldxO d a b m)) else
  if b = 0#5 ∧ f = 4#6 then some (.early (.vldff d a m)) else
  none

/-- Class V op 0x09 (02 R58 to R67). -/
def decV09 (b a : BitVec 5) (f : BitVec 6) (d : BitVec 5) (m : BitVec 3) : Option Decoded :=
  if b = 0#5 ∧ f = 0#6 then some (.early (.vst d a m)) else
  if f = 0#6 then some (.early (.vstScaled d a b m)) else
  if f = 1#6 then some (.early (.vsts d a b m)) else
  if f = 2#6 then some (.early (.vstx d a b m)) else
  if f = 3#6 then some (.early (.vstxO d a b m)) else
  if f = 4#6 then some (.early (.vstN d a b m)) else
  none

/-- Class V op 0x0A (02 R58 to R67). -/
def decV0A (b a : BitVec 5) (f : BitVec 6) (d : BitVec 5) (m : BitVec 3) : Option Decoded :=
  if f = 0#6 then some (.early (.vamoAdd d a b m)) else
  if f = 1#6 then some (.early (.vamoAnd d a b m)) else
  if f = 2#6 then some (.early (.vamoOr d a b m)) else
  if f = 3#6 then some (.early (.vamoXor d a b m)) else
  if f = 4#6 then some (.early (.vamoMin d a b m)) else
  if f = 5#6 then some (.early (.vamoMax d a b m)) else
  if f = 6#6 then some (.early (.vamoMinu d a b m)) else
  if f = 7#6 then some (.early (.vamoMaxu d a b m)) else
  if f = 8#6 then some (.early (.vamoSwap d a b m)) else
  none

/-- Class V op 0x10 (02 R58 to R67). -/
def decV10 (b a : BitVec 5) (f : BitVec 6) (d : BitVec 5) (m : BitVec 3) : Option Decoded :=
  if f = 0#6 then some (.early (.vaddVv d a b m)) else
  if f = 1#6 then some (.early (.vsubVv d a b m)) else
  if f = 2#6 then some (.early (.vmulVv d a b m)) else
  if f = 3#6 then some (.early (.vmulhVv d a b m)) else
  if f = 4#6 then some (.early (.vdivVv d a b m)) else
  if f = 5#6 then some (.early (.vremVv d a b m)) else
  if f = 6#6 then some (.early (.vminVv d a b m)) else
  if f = 7#6 then some (.early (.vmaxVv d a b m)) else
  if f = 8#6 then some (.early (.vandVv d a b m)) else
  if f = 9#6 then some (.early (.vorVv d a b m)) else
  if f = 10#6 then some (.early (.vxorVv d a b m)) else
  if f = 11#6 then some (.early (.vshlVv d a b m)) else
  if f = 12#6 then some (.early (.vshrVv d a b m)) else
  if f = 13#6 then some (.early (.vsraVv d a b m)) else
  if f = 14#6 then some (.early (.vfmaVv d a b m)) else
  if f = 15#6 then some (.early (.vfmsVv d a b m)) else
  if f = 16#6 then some (.early (.vfnmaVv d a b m)) else
  if b = 0#5 ∧ f = 17#6 then some (.early (.vabs d a m)) else
  if b = 0#5 ∧ f = 18#6 then some (.early (.vneg d a m)) else
  if f = 19#6 then some (.early (.vwaddVv d a b m)) else
  if f = 20#6 then some (.early (.vwmulVv d a b m)) else
  if f = 21#6 then some (.early (.vnshrVv d a b m)) else
  none

/-- Class V op 0x11 (02 R58 to R67). -/
def decV11 (b a : BitVec 5) (f : BitVec 6) (d : BitVec 5) (m : BitVec 3) : Option Decoded :=
  if f = 0#6 then some (.early (.vaddVx d a b m)) else
  if f = 1#6 then some (.early (.vsubVx d a b m)) else
  if f = 2#6 then some (.early (.vmulVx d a b m)) else
  if f = 3#6 then some (.early (.vmulhVx d a b m)) else
  if f = 4#6 then some (.early (.vdivVx d a b m)) else
  if f = 5#6 then some (.early (.vremVx d a b m)) else
  if f = 6#6 then some (.early (.vminVx d a b m)) else
  if f = 7#6 then some (.early (.vmaxVx d a b m)) else
  if f = 8#6 then some (.early (.vandVx d a b m)) else
  if f = 9#6 then some (.early (.vorVx d a b m)) else
  if f = 10#6 then some (.early (.vxorVx d a b m)) else
  if f = 11#6 then some (.early (.vshlVx d a b m)) else
  if f = 12#6 then some (.early (.vshrVx d a b m)) else
  if f = 13#6 then some (.early (.vsraVx d a b m)) else
  if f = 14#6 then some (.early (.vfmaVx d a b m)) else
  if f = 15#6 then some (.early (.vfmsVx d a b m)) else
  if f = 16#6 then some (.early (.vfnmaVx d a b m)) else
  if f = 19#6 then some (.early (.vwaddVx d a b m)) else
  if f = 20#6 then some (.early (.vwmulVx d a b m)) else
  if f = 21#6 then some (.early (.vnshrVx d a b m)) else
  none

/-- Class V op 0x12 (02 R58 to R67). -/
def decV12 (b a : BitVec 5) (f : BitVec 6) (d : BitVec 5) (m : BitVec 3) : Option Decoded :=
  if f = 0#6 then some (.early (.vaddVi d a b m)) else
  if f = 1#6 then some (.early (.vsubVi d a b m)) else
  if f = 6#6 then some (.early (.vminVi d a b m)) else
  if f = 7#6 then some (.early (.vmaxVi d a b m)) else
  if f = 8#6 then some (.early (.vandVi d a b m)) else
  if f = 9#6 then some (.early (.vorVi d a b m)) else
  if f = 10#6 then some (.early (.vxorVi d a b m)) else
  if f = 11#6 then some (.early (.vshlVi d a b m)) else
  if f = 12#6 then some (.early (.vshrVi d a b m)) else
  if f = 13#6 then some (.early (.vsraVi d a b m)) else
  if f = 21#6 then some (.early (.vnshrVi d a b m)) else
  none

/-- Class V op 0x14 (02 R58 to R67). -/
def decV14 (b a : BitVec 5) (f : BitVec 6) (d : BitVec 5) (m : BitVec 3) : Option Decoded :=
  if f = 0#6 ∧ d.extractLsb' 3 2 = 0#2 then some (.early (.vcmpEqVv (d.extractLsb' 0 3) a b m)) else
  if f = 1#6 ∧ d.extractLsb' 3 2 = 0#2 then some (.early (.vcmpNeVv (d.extractLsb' 0 3) a b m)) else
  if f = 2#6 ∧ d.extractLsb' 3 2 = 0#2 then some (.early (.vcmpLtVv (d.extractLsb' 0 3) a b m)) else
  if f = 3#6 ∧ d.extractLsb' 3 2 = 0#2 then some (.early (.vcmpLeVv (d.extractLsb' 0 3) a b m)) else
  if f = 16#6 ∧ d.extractLsb' 3 2 = 0#2 then some (.early (.vcmpEqVx (d.extractLsb' 0 3) a b m)) else
  if f = 17#6 ∧ d.extractLsb' 3 2 = 0#2 then some (.early (.vcmpNeVx (d.extractLsb' 0 3) a b m)) else
  if f = 18#6 ∧ d.extractLsb' 3 2 = 0#2 then some (.early (.vcmpLtVx (d.extractLsb' 0 3) a b m)) else
  if f = 19#6 ∧ d.extractLsb' 3 2 = 0#2 then some (.early (.vcmpLeVx (d.extractLsb' 0 3) a b m)) else
  if f = 32#6 ∧ d.extractLsb' 3 2 = 0#2 then some (.early (.vcmpEqVi (d.extractLsb' 0 3) a b m)) else
  if f = 33#6 ∧ d.extractLsb' 3 2 = 0#2 then some (.early (.vcmpNeVi (d.extractLsb' 0 3) a b m)) else
  if f = 34#6 ∧ d.extractLsb' 3 2 = 0#2 then some (.early (.vcmpLtVi (d.extractLsb' 0 3) a b m)) else
  if f = 35#6 ∧ d.extractLsb' 3 2 = 0#2 then some (.early (.vcmpLeVi (d.extractLsb' 0 3) a b m)) else
  none

/-- Class V op 0x15 (02 R58 to R67). -/
def decV15 (b a : BitVec 5) (f : BitVec 6) (d : BitVec 5) (m : BitVec 3) : Option Decoded :=
  if b.extractLsb' 3 2 = 0#2 ∧ a.extractLsb' 3 2 = 0#2 ∧ f = 0#6 ∧ d.extractLsb' 3 2 = 0#2 ∧ m = 0#3 then some (.early (.mand (d.extractLsb' 0 3) (a.extractLsb' 0 3) (b.extractLsb' 0 3))) else
  if b.extractLsb' 3 2 = 0#2 ∧ a.extractLsb' 3 2 = 0#2 ∧ f = 1#6 ∧ d.extractLsb' 3 2 = 0#2 ∧ m = 0#3 then some (.early (.mor (d.extractLsb' 0 3) (a.extractLsb' 0 3) (b.extractLsb' 0 3))) else
  if b.extractLsb' 3 2 = 0#2 ∧ a.extractLsb' 3 2 = 0#2 ∧ f = 2#6 ∧ d.extractLsb' 3 2 = 0#2 ∧ m = 0#3 then some (.early (.mxor (d.extractLsb' 0 3) (a.extractLsb' 0 3) (b.extractLsb' 0 3))) else
  if b = 0#5 ∧ a.extractLsb' 3 2 = 0#2 ∧ f = 3#6 ∧ d.extractLsb' 3 2 = 0#2 ∧ m = 0#3 then some (.early (.mnot (d.extractLsb' 0 3) (a.extractLsb' 0 3))) else
  if b = 0#5 ∧ a.extractLsb' 3 2 = 0#2 ∧ f = 4#6 ∧ m = 0#3 then some (.early (.mpop d (a.extractLsb' 0 3))) else
  if b = 0#5 ∧ a.extractLsb' 3 2 = 0#2 ∧ f = 5#6 ∧ m = 0#3 then some (.early (.mfirst d (a.extractLsb' 0 3))) else
  if b = 0#5 ∧ f = 6#6 ∧ d.extractLsb' 3 2 = 0#2 ∧ m = 0#3 then some (.early (.mset (d.extractLsb' 0 3) a)) else
  none

/-- Class V op 0x16 (02 R58 to R67). -/
def decV16 (b a : BitVec 5) (f : BitVec 6) (d : BitVec 5) (m : BitVec 3) : Option Decoded :=
  if f = 0#6 then some (.early (.vsel d a b m)) else
  if b = 0#5 ∧ f = 1#6 then some (.late (.vbcast d a m)) else
  if f = 2#6 ∧ m = 0#3 then some (.late (.vget d a b)) else
  if b = 0#5 ∧ a = 0#5 ∧ f = 3#6 then some (.late (.vidx d m)) else
  none

/-- Class V op 0x18 (02 R58 to R67). -/
def decV18 (b a : BitVec 5) (f : BitVec 6) (d : BitVec 5) (m : BitVec 3) : Option Decoded :=
  if f = 0#6 then some (.late (.vgather d a b m)) else
  if f = 1#6 then some (.late (.vslideup d a b m)) else
  if f = 2#6 then some (.late (.vslidedn d a b m)) else
  if b = 0#5 ∧ f = 3#6 then some (.late (.vcompress d a m)) else
  if b = 0#5 ∧ f = 4#6 then some (.late (.vexpand d a m)) else
  if b = 0#5 ∧ f = 5#6 then some (.late (.vswappr d a m)) else
  if f = 6#6 then some (.late (.vzip d a b m)) else
  if f = 7#6 then some (.late (.vunzip d a b m)) else
  none

/-- Class V op 0x19 (02 R58 to R67). -/
def decV19 (b a : BitVec 5) (f : BitVec 6) (d : BitVec 5) (m : BitVec 3) : Option Decoded :=
  if f = 0#6 then some (.late (.vredsumO d a b m)) else
  if f = 1#6 then some (.late (.vredsumT d a b m)) else
  if f = 2#6 then some (.late (.vredmax d a b m)) else
  if f = 3#6 then some (.late (.vredmin d a b m)) else
  if f = 4#6 then some (.late (.vredand d a b m)) else
  if f = 5#6 then some (.late (.vredor d a b m)) else
  none

/-- Class V op 0x1A (02 R58 to R67). -/
def decV1A (b a : BitVec 5) (f : BitVec 6) (d : BitVec 5) (m : BitVec 3) : Option Decoded :=
  if b.extractLsb' 4 1 = 0#1 ∧ f.extractLsb' 2 4 = 0#4 then (do let k0 ← VKind.ofCode (b.extractLsb' 0 4); let s0 ← Sew.ofCode (f.extractLsb' 0 2); some (.late (.vcvt d a k0 s0 m))) else
  if b.extractLsb' 4 1 = 0#1 ∧ f.extractLsb' 2 4 = 1#4 then (do let k0 ← VKind.ofCode (b.extractLsb' 0 4); let s0 ← Sew.ofCode (f.extractLsb' 0 2); some (.late (.vcvtSr d a k0 s0 m))) else
  none

/-- Class V op 0x1B (02 R58 to R67). -/
def decV1B (b a : BitVec 5) (f : BitVec 6) (d : BitVec 5) (m : BitVec 3) : Option Decoded :=
  if b = 0#5 ∧ f = 0#6 then some (.late (.vrcp d a m)) else
  if b = 0#5 ∧ f = 1#6 then some (.late (.vrsq d a m)) else
  if b = 0#5 ∧ f = 2#6 then some (.late (.vsint d a m)) else
  if b = 0#5 ∧ f = 3#6 then some (.late (.vcost d a m)) else
  if b = 0#5 ∧ f = 4#6 then some (.late (.vexp2 d a m)) else
  if b = 0#5 ∧ f = 5#6 then some (.late (.vlog2 d a m)) else
  if f = 6#6 then some (.late (.vclmul d a b m)) else
  if f = 7#6 then some (.late (.vclmulh d a b m)) else
  if b = 0#5 ∧ f = 8#6 then some (.late (.vcbdec d a m)) else
  if b = 0#5 ∧ f = 9#6 ∧ d = 0#5 ∧ m = 0#3 then some (.late (.cbload a)) else
  none

/-- Class V op 0x1C (02 R58 to R67). -/
def decV1C (b a : BitVec 5) (f : BitVec 6) (d : BitVec 5) (m : BitVec 3) : Option Decoded :=
  if b = 0#5 ∧ f = 0#6 then some (.late (.vrnsf d a m)) else
  if b = 0#5 ∧ f = 1#6 then some (.late (.vrnsr d a m)) else
  if b = 0#5 ∧ f = 2#6 ∧ d.extractLsb' 3 2 = 0#2 then some (.late (.vrnschk (d.extractLsb' 0 3) a m)) else
  none

/-- Class V op 0x20 (02 R58 to R67). -/
def decV20 (b a : BitVec 5) (f : BitVec 6) (d : BitVec 5) (m : BitVec 3) : Option Decoded :=
  if f.extractLsb' 3 3 = 0#3 ∧ f.extractLsb' 0 1 = 0#1 ∧ m = 0#3 then some (.late (.vstreamLdv d a b (f.extractLsb' 1 2))) else
  if f.extractLsb' 3 3 = 1#3 ∧ f.extractLsb' 0 1 = 0#1 ∧ m = 0#3 then some (.late (.vstreamStv d a b (f.extractLsb' 1 2))) else
  if f.extractLsb' 3 3 = 2#3 ∧ f.extractLsb' 0 1 = 0#1 ∧ m = 0#3 then some (.late (.vstreamLds d a b (f.extractLsb' 1 2))) else
  if f.extractLsb' 3 3 = 3#3 ∧ f.extractLsb' 0 1 = 0#1 ∧ m = 0#3 then some (.late (.vstreamSts d a b (f.extractLsb' 1 2))) else
  if f.extractLsb' 3 3 = 4#3 ∧ f.extractLsb' 0 1 = 0#1 ∧ m = 0#3 then some (.late (.vstreamLdb d a b (f.extractLsb' 1 2))) else
  if f.extractLsb' 3 3 = 5#3 ∧ f.extractLsb' 0 1 = 0#1 ∧ m = 0#3 then some (.late (.vstreamStb d a b (f.extractLsb' 1 2))) else
  none

/-- Class V op 0x21 (02 R58 to R67). -/
def decV21 (b a : BitVec 5) (f : BitVec 6) (d : BitVec 5) (m : BitVec 3) : Option Decoded :=
  if b.extractLsb' 2 3 = 0#3 ∧ a = 0#5 ∧ f = 0#6 ∧ d = 0#5 ∧ m = 0#3 then some (.late (.swait (b.extractLsb' 0 2))) else
  if b.extractLsb' 2 3 = 0#3 ∧ a = 0#5 ∧ f = 1#6 ∧ m = 0#3 then some (.late (.squery d (b.extractLsb' 0 2))) else
  none

/-- Class V op 0x22 (02 R58 to R67). -/
def decV22 (b a : BitVec 5) (f : BitVec 6) (d : BitVec 5) (m : BitVec 3) : Option Decoded :=
  if b = 0#5 ∧ a = 0#5 ∧ f.extractLsb' 3 3 = 0#3 ∧ d = 0#5 ∧ m = 0#3 then (do let s0 ← Scope.ofCode (f.extractLsb' 0 3); some (.late (.fenceSs s0))) else
  if b = 1#5 ∧ a = 0#5 ∧ f.extractLsb' 3 3 = 0#3 ∧ d = 0#5 ∧ m = 0#3 then (do let s0 ← Scope.ofCode (f.extractLsb' 0 3); some (.late (.fenceSv s0))) else
  if b = 2#5 ∧ a = 0#5 ∧ f.extractLsb' 3 3 = 0#3 ∧ d = 0#5 ∧ m = 0#3 then (do let s0 ← Scope.ofCode (f.extractLsb' 0 3); some (.late (.fenceVs s0))) else
  if b = 3#5 ∧ a = 0#5 ∧ f.extractLsb' 3 3 = 0#3 ∧ d = 0#5 ∧ m = 0#3 then (do let s0 ← Scope.ofCode (f.extractLsb' 0 3); some (.late (.fenceVv s0))) else
  if f = 8#6 ∧ d = 0#5 ∧ m = 0#3 then some (.late (.barinit a b)) else
  if a = 0#5 ∧ f.extractLsb' 3 3 = 2#3 ∧ d = 0#5 ∧ m = 0#3 then (do let s0 ← Scope.ofCode (f.extractLsb' 0 3); some (.late (.barv b s0))) else
  if a = 0#5 ∧ f = 24#6 ∧ d = 0#5 ∧ m = 0#3 then some (.late (.barw b)) else
  none

/-- Class V op 0x30 (02 R58 to R67). -/
def decV30 (b a : BitVec 5) (f : BitVec 6) (d : BitVec 5) (m : BitVec 3) : Option Decoded :=
  if b.extractLsb' 1 4 = 0#4 ∧ a = 0#5 ∧ f = 0#6 ∧ d = 0#5 ∧ m = 0#3 then some (.late (.mtenter ((b.extractLsb' 0 1) == 1#1))) else
  if b = 0#5 ∧ a = 0#5 ∧ f = 1#6 ∧ d = 0#5 ∧ m = 0#3 then some (.late (.mtexit)) else
  if b = 0#5 ∧ a = 0#5 ∧ f = 2#6 ∧ d.extractLsb' 3 2 = 0#2 ∧ m = 0#3 then some (.late (.tzero (d.extractLsb' 0 3))) else
  if f = 3#6 ∧ d = 0#5 ∧ m = 0#3 then some (.late (.tedge a b)) else
  if a = 0#5 ∧ f = 12#6 ∧ d.extractLsb' 3 2 = 0#2 ∧ m = 0#3 then some (.late (.tcvt (d.extractLsb' 0 3) b)) else
  if b = 0#5 ∧ a = 0#5 ∧ f = 13#6 ∧ d.extractLsb' 3 2 = 0#2 ∧ m = 0#3 then some (.late (.tchk (d.extractLsb' 0 3))) else
  none

/-- A class S word by its op (02 R58). -/
def decS (op : BitVec 6) (b a : BitVec 5) (f : BitVec 6) (d : BitVec 5) (m : BitVec 3) : Option Decoded :=
  match op.toNat with
  | 0 => decS00 b a f d m
  | 1 => decS01 b a f d m
  | 2 => decS02 b a f d m
  | 8 => decS08 b a f d m
  | 9 => decS09 b a f d m
  | 10 => decS0A b a f d m
  | 11 => decS0B b a f d m
  | 12 => decS0C b a f d m
  | 13 => decS0D b a f d m
  | 14 => decS0E b a f d m
  | 15 => decS0F b a f d m
  | 16 => decS10 b a f d m
  | 17 => decS11 b a f d m
  | 18 => decS12 b a f d m
  | 19 => decS13 b a f d m
  | 20 => decS14 b a f d m
  | 21 => decS15 b a f d m
  | 22 => decS16 b a f d m
  | 23 => decS17 b a f d m
  | 24 => decS18 b a f d m
  | 25 => decS19 b a f d m
  | 26 => decS1A b a f d m
  | 27 => decS1B b a f d m
  | 28 => decS1C b a f d m
  | 29 => decS1D b a f d m
  | 30 => decS1E b a f d m
  | 32 => decS20 b a f d m
  | 33 => decS21 b a f d m
  | 34 => decS22 b a f d m
  | 35 => decS23 b a f d m
  | 36 => decS24 b a f d m
  | 37 => decS25 b a f d m
  | 38 => decS26 b a f d m
  | 39 => decS27 b a f d m
  | 40 => decS28 b a f d m
  | 48 => decS30 b a f d m
  | 49 => decS31 b a f d m
  | 58 => decS3A b a f d m
  | 59 => decS3B b a f d m
  | 60 => decS3C b a f d m
  | 63 => decS3F b a f d m
  | 56 => decS38 b a f d m 0#1
  | 57 => decS38 b a f d m 1#1
  | _ => none

/-- A class V word by its op (02 R62). -/
def decV (op : BitVec 6) (b a : BitVec 5) (f : BitVec 6) (d : BitVec 5) (m : BitVec 3) : Option Decoded :=
  match op.toNat with
  | 0 => decV00 b a f d m
  | 8 => decV08 b a f d m
  | 9 => decV09 b a f d m
  | 10 => decV0A b a f d m
  | 16 => decV10 b a f d m
  | 17 => decV11 b a f d m
  | 18 => decV12 b a f d m
  | 20 => decV14 b a f d m
  | 21 => decV15 b a f d m
  | 22 => decV16 b a f d m
  | 24 => decV18 b a f d m
  | 25 => decV19 b a f d m
  | 26 => decV1A b a f d m
  | 27 => decV1B b a f d m
  | 28 => decV1C b a f d m
  | 32 => decV20 b a f d m
  | 33 => decV21 b a f d m
  | 34 => decV22 b a f d m
  | 48 => decV30 b a f d m
  | _ => none

/-- A compact word by its cop (02 R47, R48). The zero parcel is refused before this (R49). -/
def decC (cop : BitVec 4) (d x : BitVec 5) : Option Decoded :=
  match cop.toNat with
  | 0 => some (.early (.cAddi d x))
  | 1 => some (.early (.cAdd d x))
  | 2 => some (.early (.cSub d x))
  | 3 => some (.early (.cAnd d x))
  | 4 => some (.early (.cOr d x))
  | 5 => some (.early (.cXor d x))
  | 6 => some (.early (.cShli d x))
  | 7 => some (.early (.cShri d x))
  | 8 => some (.early (.cSrai d x))
  | 9 => if x = 0#5 then some (.early (.cMv d)) else none
  | 10 => some (.early (.cLdd d x))
  | 11 => some (.early (.cStd d x))
  | 12 => some (.early (.cLdw d x))
  | 13 => some (.early (.cBeqz (d ++ x)))
  | 14 => some (.early (.cBnez (d ++ x)))
  | 15 => if x = 0#5 then some (.early (.cJalr d)) else none
  | _ => none

/-- The IMM prefix of a 32-bit immediate: P[23:0] = imm[31:8] (02 R50, R51). -/
def pfxImm (i : BitVec 32) : BitVec 32 := i.extractLsb' 16 16 ++ 3#2 ++ 1#6 ++ i.extractLsb' 8 8

/-- The ORD prefix (02 R51). -/
def pfxOrd (s : Scope) (o : Order) : BitVec 32 := s.code ++ o.code ++ 0#10 ++ 3#2 ++ 3#6 ++ 0#8

/-- The EXT prefix (02 R51). -/
def pfxExt (c e : BitVec 5) (n : BitVec 3) (x : BitVec 6) (o : BitVec 1) : BitVec 32 :=
  c ++ e ++ n ++ x.extractLsb' 3 3 ++ 3#2 ++ 2#6 ++ x.extractLsb' 0 3 ++ o ++ 0#4

/-- A body of format I with the low byte of a 32-bit immediate (02 R52). -/
def mk32i (op : BitVec 6) (i : BitVec 32) (d a : BitVec 5) : BitVec 32 :=
  mk32 0#5 a (0#1 ++ i.extractLsb' 3 5) 1#2 op d (i.extractLsb' 0 3)

/-- A body of format U with the low byte of a 32-bit immediate (02 R52). -/
def mk32u (op : BitVec 6) (i : BitVec 32) (d : BitVec 5) : BitVec 32 :=
  mk32 0#5 0#5 (0#1 ++ i.extractLsb' 3 5) 1#2 op d (i.extractLsb' 0 3)

/-- An IMM-prefixed instruction: `p` is the payload, the rest the fields of the body (02 R51, R52). -/
def decImm (p : BitVec 24) (op : BitVec 6) (b a : BitVec 5) (f : BitVec 6) (d : BitVec 5) (m : BitVec 3) : Option Decoded :=
  let i : BitVec 32 := p ++ (f.extractLsb' 0 5 ++ m)
  if b = 0#5 ∧ f.extractLsb' 5 1 = 0#1 then
    match op.toNat with
    | 8 => some (.early (.addiImm32 .addi d a i))
    | 9 => some (.early (.addiImm32 .andi d a i))
    | 10 => some (.early (.addiImm32 .ori d a i))
    | 11 => some (.early (.addiImm32 .xori d a i))
    | 12 => some (.early (.addiImm32 .slti d a i))
    | 14 => if a = 0#5 then some (.early (.lihImm32 d i)) else none
    | 15 => if a = 0#5 then some (.early (.addpcImm32 d i)) else none
    | 23 => some (.early (.jalrImm32 d a i))
    | 24 => some (.early (.loadImm32 .ldb d a i))
    | 25 => some (.early (.loadImm32 .ldbu d a i))
    | 26 => some (.early (.loadImm32 .ldh d a i))
    | 27 => some (.early (.loadImm32 .ldhu d a i))
    | 28 => some (.early (.loadImm32 .ldw d a i))
    | 29 => some (.early (.loadImm32 .ldwu d a i))
    | 30 => some (.early (.loadImm32 .ldd d a i))
    | 32 => some (.early (.storeImm32 .stb d a i))
    | 33 => some (.early (.storeImm32 .sth d a i))
    | 34 => some (.early (.storeImm32 .stw d a i))
    | 35 => some (.early (.storeImm32 .std d a i))
    | _ => none
  else none

/-- An ORD-prefixed instruction (02 R51, 04 R127). -/
def decOrd (p : BitVec 24) (op : BitVec 6) (b a : BitVec 5) (f : BitVec 6) (d : BitVec 5) (m : BitVec 3) : Option Decoded :=
  match Scope.ofCode (p.extractLsb' 21 3), Order.ofCode (p.extractLsb' 18 3) with
  | some s, some o =>
    if p.extractLsb' 0 18 = 0#18 then
      match op.toNat, f.toNat with
      | 8, 0 => some (.early (.vloadOrd .vld d a b m s o))
      | 8, 1 => some (.early (.vloadOrd .vlds d a b m s o))
      | 8, 2 => some (.early (.vloadOrd .vldx d a b m s o))
      | 8, 3 => some (.early (.vloadOrd .vldxO d a b m s o))
      | 8, 4 => some (.early (.vloadOrd .vldff d a b m s o))
      | 9, 0 => some (.early (.vstoreOrd .vst d a b m s o))
      | 9, 1 => some (.early (.vstoreOrd .vsts d a b m s o))
      | 9, 2 => some (.early (.vstoreOrd .vstx d a b m s o))
      | 9, 3 => some (.early (.vstoreOrd .vstxO d a b m s o))
      | 9, 4 => some (.early (.vstoreOrd .vstN d a b m s o))
      | 10, 0 => some (.early (.vamoOrd .add d a b m s o))
      | 10, 1 => some (.early (.vamoOrd .and d a b m s o))
      | 10, 2 => some (.early (.vamoOrd .or d a b m s o))
      | 10, 3 => some (.early (.vamoOrd .xor d a b m s o))
      | 10, 4 => some (.early (.vamoOrd .min d a b m s o))
      | 10, 5 => some (.early (.vamoOrd .max d a b m s o))
      | 10, 6 => some (.early (.vamoOrd .minu d a b m s o))
      | 10, 7 => some (.early (.vamoOrd .maxu d a b m s o))
      | 10, 8 => some (.early (.vamoOrd .swap d a b m s o))
      | _, _ => none
    else none
  | _, _ => none

/-- An EXT-prefixed instruction: the fields of the prefix, `z` its bits that must be zero, and the fields of the body (02 R53,
R66, R67). -/
def decExtFields (c e : BitVec 5) (n : BitVec 3) (x : BitVec 6) (o : BitVec 1) (z : BitVec 4) (op : BitVec 6) (b a : BitVec 5)
    (f : BitVec 6) (d : BitVec 5) (m : BitVec 3) : Option Decoded :=
  let td : BitVec 3 := d.extractLsb' 0 3
  let bare : Bool := decide (c = 0#5 ∧ e = 0#5 ∧ n = 0#3)
  let tile : Bool := decide (d.extractLsb' 3 2 = 0#2)
  if z = 0#4 then
    match op.toNat, f.toNat with
    | 48, 4 => if tile ∧ x = 0#6 ∧ o = 0#1 then some (.late (.topa td a b c e m n)) else none
    | 48, 5 => if tile ∧ x = 0#6 ∧ o = 0#1 then some (.late (.tops td a b c e m n)) else none
    | 48, 6 => if tile ∧ x = 0#6 ∧ o = 0#1 ∧ e = 0#5 then some (.late (.topr td a b c m n)) else none
    | 48, 8 => if tile ∧ bare ∧ o = 0#1 ∧ m = 0#3 then some (.late (.tldrow td x a b)) else none
    | 48, 9 => if tile ∧ bare ∧ o = 0#1 ∧ m = 0#3 then some (.late (.tstrow td x a b)) else none
    | 48, 10 =>
      if bare ∧ b = 0#5 ∧ m = 0#3 ∧ a.extractLsb' 3 2 = 0#2 then some (.late (.tslv d (a.extractLsb' 0 3) x (o == 1#1))) else none
    | 48, 11 => if tile ∧ bare ∧ b = 0#5 ∧ m = 0#3 then some (.late (.tvsl td a x (o == 1#1))) else none
    | 32, _ =>
      if bare ∧ o = 0#1 ∧ m = 0#3 ∧ f.extractLsb' 0 1 = 1#1 ∧ x.extractLsb' 5 1 = 0#1 then
        let q : BitVec 2 := f.extractLsb' 1 2
        let k : BitVec 5 := x.extractLsb' 0 5
        match (f.extractLsb' 3 3).toNat with
        | 0 => some (.late (.vstreamLdvA q d a b k))
        | 1 => some (.late (.vstreamStvA q d a b k))
        | 2 => some (.late (.vstreamLdsA q d a b k))
        | 3 => some (.late (.vstreamStsA q d a b k))
        | 4 => some (.late (.vstreamLdbA q d a b k))
        | 5 => some (.late (.vstreamStbA q d a b k))
        | _ => none
      else none
    | _, _ => none
  else none

/-- An EXT-prefixed instruction from its payload (02 R51). -/
def decExt (p : BitVec 24) (op : BitVec 6) (b a : BitVec 5) (f : BitVec 6) (d : BitVec 5) (m : BitVec 3) : Option Decoded :=
  decExtFields (p.extractLsb' 19 5) (p.extractLsb' 14 5) (p.extractLsb' 11 3) (p.extractLsb' 5 6) (p.extractLsb' 4 1)
    (p.extractLsb' 0 4) op b a f d m

/-- The instruction of a late row (log 23). -/
def Late.instr : Late → Instr
  | .vbcast d a m => .vbcast d a m
  | .vget d a b => .vget d a b
  | .vidx d m => .vidx d m
  | .vgather d a b m => .vgather d a b m
  | .vslideup d a b m => .vslideup d a b m
  | .vslidedn d a b m => .vslidedn d a b m
  | .vcompress d a m => .vcompress d a m
  | .vexpand d a m => .vexpand d a m
  | .vswappr d a m => .vswappr d a m
  | .vzip d a b m => .vzip d a b m
  | .vunzip d a b m => .vunzip d a b m
  | .vredsumO d a b m => .vredsumO d a b m
  | .vredsumT d a b m => .vredsumT d a b m
  | .vredmax d a b m => .vredmax d a b m
  | .vredmin d a b m => .vredmin d a b m
  | .vredand d a b m => .vredand d a b m
  | .vredor d a b m => .vredor d a b m
  | .vcvt d a k s m => .vcvt d a k s m
  | .vcvtSr d a k s m => .vcvtSr d a k s m
  | .vrcp d a m => .vrcp d a m
  | .vrsq d a m => .vrsq d a m
  | .vsint d a m => .vsint d a m
  | .vcost d a m => .vcost d a m
  | .vexp2 d a m => .vexp2 d a m
  | .vlog2 d a m => .vlog2 d a m
  | .vclmul d a b m => .vclmul d a b m
  | .vclmulh d a b m => .vclmulh d a b m
  | .vcbdec d a m => .vcbdec d a m
  | .cbload a => .cbload a
  | .vrnsf d a m => .vrnsf d a m
  | .vrnsr d a m => .vrnsr d a m
  | .vrnschk d a m => .vrnschk d a m
  | .vstreamLdv d a b q => .vstreamLdv d a b q
  | .vstreamStv d a b q => .vstreamStv d a b q
  | .vstreamLds d a b q => .vstreamLds d a b q
  | .vstreamSts d a b q => .vstreamSts d a b q
  | .vstreamLdb d a b q => .vstreamLdb d a b q
  | .vstreamStb d a b q => .vstreamStb d a b q
  | .vstreamLdvA q d a b x => .vstreamLdvA q d a b x
  | .vstreamStvA q d a b x => .vstreamStvA q d a b x
  | .vstreamLdsA q d a b x => .vstreamLdsA q d a b x
  | .vstreamStsA q d a b x => .vstreamStsA q d a b x
  | .vstreamLdbA q d a b x => .vstreamLdbA q d a b x
  | .vstreamStbA q d a b x => .vstreamStbA q d a b x
  | .swait q => .swait q
  | .squery d q => .squery d q
  | .fenceSs s => .fenceSs s
  | .fenceSv s => .fenceSv s
  | .fenceVs s => .fenceVs s
  | .fenceVv s => .fenceVv s
  | .barinit a k => .barinit a k
  | .barv k s => .barv k s
  | .barw k => .barw k
  | .mtenter g => .mtenter g
  | .mtexit => .mtexit
  | .tzero d => .tzero d
  | .tedge a b => .tedge a b
  | .topa d a b c e m n => .topa d a b c e m n
  | .tops d a b c e m n => .tops d a b c e m n
  | .topr d a b c m n => .topr d a b c m n
  | .tldrow d x a b => .tldrow d x a b
  | .tstrow d x a b => .tstrow d x a b
  | .tslv d a x o => .tslv d a x o
  | .tvsl d a x o => .tvsl d a x o
  | .tcvt d k => .tcvt d k
  | .tchk d => .tchk d

/-- The instruction that the decoder answered. -/
def Decoded.instr : Decoded → Instr
  | .early i => i
  | .late l => l.instr

/-- Keep an instruction only if its operands are in range. -/
def checked (e : DecodeError) (o : Option Decoded) : Except DecodeError Decoded :=
  match o with
  | some i => if i.wellFormed then .ok i else .error .badOperand
  | none => .error e

/-- Whether a class V body needs an EXT prefix (02 R51): the matrix forms and an arriving VSTREAM. -/
def bodyNeedsPrefix (op f : BitVec 6) : Bool :=
  (decide (op = 48#6) && (decide (f = 4#6) || decide (f = 5#6) || decide (f = 6#6) || decide (f = 8#6) ||
    decide (f = 9#6) || decide (f = 10#6) || decide (f = 11#6))) ||
  (decide (op = 32#6) && decide (f.extractLsb' 0 1 = 1#1))

/-- The fields of a 32-bit word, decoded. -/
def decFields (cls : BitVec 2) (op : BitVec 6) (b a : BitVec 5) (f : BitVec 6) (d : BitVec 5) (m : BitVec 3) :
    Except DecodeError Decoded :=
  if cls = 1#2 then checked .unassigned (decS op b a f d m)
  else if cls = 2#2 then
    if bodyNeedsPrefix op f then .error .needsPrefix else checked .unassigned (decV op b a f d m)
  else .error .badPrefix

/-- A 32-bit instruction. -/
def decode32 (w : BitVec 32) : Except DecodeError Decoded :=
  decFields (w.extractLsb' 14 2) (w.extractLsb' 8 6) (w.extractLsb' 27 5) (w.extractLsb' 22 5) (w.extractLsb' 16 6)
    (w.extractLsb' 3 5) (w.extractLsb' 0 3)

/-- A compact instruction (02 R47 to R49). -/
def decode16 (w : BitVec 16) : Except DecodeError Decoded :=
  if w = 0#16 then .error .zeroParcel
  else checked .compactField (decC (w.extractLsb' 10 4) (w.extractLsb' 5 5) (w.extractLsb' 0 5))

/-- The fields of a prefixed form, decoded (02 R50 to R54). -/
def decPrefixed (kind : BitVec 6) (p : BitVec 24) (cls : BitVec 2) (op : BitVec 6) (b a : BitVec 5) (f : BitVec 6)
    (d : BitVec 5) (m : BitVec 3) : Except DecodeError Decoded :=
  if kind = 1#6 ∧ cls = 1#2 then checked .badPrefix (decImm p op b a f d m)
  else if kind = 2#6 ∧ cls = 2#2 then checked .badPrefix (decExt p op b a f d m)
  else if kind = 3#6 ∧ cls = 2#2 then checked .badPrefix (decOrd p op b a f d m)
  else .error .badPrefix

/-- A 64-bit form (02 R50 to R54). -/
def decode64 (p w : BitVec 32) : Except DecodeError Decoded :=
  decPrefixed (p.extractLsb' 8 6) (p.extractLsb' 16 16 ++ p.extractLsb' 0 8) (w.extractLsb' 14 2) (w.extractLsb' 8 6)
    (w.extractLsb' 27 5) (w.extractLsb' 22 5) (w.extractLsb' 16 6) (w.extractLsb' 3 5) (w.extractLsb' 0 3)

/-- The words of an instruction, decoded; an event has none. -/
def decodeOp (w : Words) : Except DecodeError Decoded :=
  match w with
  | .w16 w => decode16 w
  | .w32 w => decode32 w
  | .w64 p w => decode64 p w
  | .event => .error .truncated

/-- The instruction that the words stand for. -/
def decodeWords (w : Words) : Except DecodeError Instr := (decodeOp w).map Decoded.instr

/-- The first instruction of a list of bytes, and the words it was read from (02 R39). -/
def decodeBytes (bs : List Byte) : Except DecodeError (Instr × Words) :=
  match bs with
  | b0 :: b1 :: t =>
    if b1.extractLsb' 6 2 = 0#2 then
      let w : Words := .w16 (b1 ++ b0)
      (decodeWords w).map (fun i => (i, w))
    else
      match t with
      | b2 :: b3 :: t =>
        if b1.extractLsb' 6 2 = 3#2 then
          match t with
          | b4 :: b5 :: b6 :: b7 :: _ =>
            let w : Words := .w64 (b3 ++ b2 ++ b1 ++ b0) (b7 ++ b6 ++ b5 ++ b4)
            (decodeWords w).map (fun i => (i, w))
          | _ => .error .truncated
        else
          let w : Words := .w32 (b3 ++ b2 ++ b1 ++ b0)
          (decodeWords w).map (fun i => (i, w))
      | _ => .error .truncated
  | _ => .error .truncated


/-- The words of an instruction, from the same tables of the spec (02 R43 to R67). -/
def encode (i : Instr) : Words :=
  match i with
  | .cAddi d i => .w16 (mk16 0#4 d i)
  | .cAdd d x => .w16 (mk16 1#4 d x)
  | .cSub d x => .w16 (mk16 2#4 d x)
  | .cAnd d x => .w16 (mk16 3#4 d x)
  | .cOr d x => .w16 (mk16 4#4 d x)
  | .cXor d x => .w16 (mk16 5#4 d x)
  | .cShli d k => .w16 (mk16 6#4 d k)
  | .cShri d k => .w16 (mk16 7#4 d k)
  | .cSrai d k => .w16 (mk16 8#4 d k)
  | .cMv d => .w16 (mk16 9#4 d 0#5)
  | .cLdd d k => .w16 (mk16 10#4 d k)
  | .cStd d k => .w16 (mk16 11#4 d k)
  | .cLdw d k => .w16 (mk16 12#4 d k)
  | .cBeqz o => .w16 (mk16 13#4 (o.extractLsb' 5 5) (o.extractLsb' 0 5))
  | .cBnez o => .w16 (mk16 14#4 (o.extractLsb' 5 5) (o.extractLsb' 0 5))
  | .cJalr d => .w16 (mk16 15#4 d 0#5)
  | .add d a b => .w32 (mk32 b a 0#6 1#2 0#6 d 0#3)
  | .sub d a b => .w32 (mk32 b a 1#6 1#2 0#6 d 0#3)
  | .and d a b => .w32 (mk32 b a 2#6 1#2 0#6 d 0#3)
  | .or d a b => .w32 (mk32 b a 3#6 1#2 0#6 d 0#3)
  | .xor d a b => .w32 (mk32 b a 4#6 1#2 0#6 d 0#3)
  | .shl d a b => .w32 (mk32 b a 5#6 1#2 0#6 d 0#3)
  | .shr d a b => .w32 (mk32 b a 6#6 1#2 0#6 d 0#3)
  | .sra d a b => .w32 (mk32 b a 7#6 1#2 0#6 d 0#3)
  | .min d a b => .w32 (mk32 b a 8#6 1#2 0#6 d 0#3)
  | .max d a b => .w32 (mk32 b a 9#6 1#2 0#6 d 0#3)
  | .minu d a b => .w32 (mk32 b a 10#6 1#2 0#6 d 0#3)
  | .maxu d a b => .w32 (mk32 b a 11#6 1#2 0#6 d 0#3)
  | .slt d a b => .w32 (mk32 b a 12#6 1#2 0#6 d 0#3)
  | .sltu d a b => .w32 (mk32 b a 13#6 1#2 0#6 d 0#3)
  | .rotl d a b => .w32 (mk32 b a 14#6 1#2 0#6 d 0#3)
  | .rotr d a b => .w32 (mk32 b a 15#6 1#2 0#6 d 0#3)
  | .addsc d a b k => .w32 (mk32 b a 16#6 1#2 0#6 d k)
  | .mul d a b => .w32 (mk32 b a 0#6 1#2 1#6 d 0#3)
  | .mulh d a b => .w32 (mk32 b a 1#6 1#2 1#6 d 0#3)
  | .mulhu d a b => .w32 (mk32 b a 2#6 1#2 1#6 d 0#3)
  | .div d a b => .w32 (mk32 b a 3#6 1#2 1#6 d 0#3)
  | .divu d a b => .w32 (mk32 b a 4#6 1#2 1#6 d 0#3)
  | .rem d a b => .w32 (mk32 b a 5#6 1#2 1#6 d 0#3)
  | .remu d a b => .w32 (mk32 b a 6#6 1#2 1#6 d 0#3)
  | .clmul d a b => .w32 (mk32 b a 7#6 1#2 1#6 d 0#3)
  | .clmulh d a b => .w32 (mk32 b a 8#6 1#2 1#6 d 0#3)
  | .clz d a => .w32 (mk32 0#5 a 0#6 1#2 2#6 d 0#3)
  | .ctz d a => .w32 (mk32 0#5 a 1#6 1#2 2#6 d 0#3)
  | .popc d a => .w32 (mk32 0#5 a 2#6 1#2 2#6 d 0#3)
  | .brev d a => .w32 (mk32 0#5 a 3#6 1#2 2#6 d 0#3)
  | .bswap d a => .w32 (mk32 0#5 a 4#6 1#2 2#6 d 0#3)
  | .addi d a i => .w32 (mk32 (i.extractLsb' 9 5) a (i.extractLsb' 3 6) 1#2 8#6 d (i.extractLsb' 0 3))
  | .andi d a i => .w32 (mk32 (i.extractLsb' 9 5) a (i.extractLsb' 3 6) 1#2 9#6 d (i.extractLsb' 0 3))
  | .ori d a i => .w32 (mk32 (i.extractLsb' 9 5) a (i.extractLsb' 3 6) 1#2 10#6 d (i.extractLsb' 0 3))
  | .xori d a i => .w32 (mk32 (i.extractLsb' 9 5) a (i.extractLsb' 3 6) 1#2 11#6 d (i.extractLsb' 0 3))
  | .slti d a i => .w32 (mk32 (i.extractLsb' 9 5) a (i.extractLsb' 3 6) 1#2 12#6 d (i.extractLsb' 0 3))
  | .shli d a k => .w32 (mk32 0#5 a k 1#2 13#6 d 0#3)
  | .shri d a k => .w32 (mk32 0#5 a k 1#2 13#6 d 1#3)
  | .srai d a k => .w32 (mk32 0#5 a k 1#2 13#6 d 2#3)
  | .lih d i => .w32 (mk32 (i.extractLsb' 14 5) (i.extractLsb' 9 5) (i.extractLsb' 3 6) 1#2 14#6 d (i.extractLsb' 0 3))
  | .addpc d i => .w32 (mk32 (i.extractLsb' 14 5) (i.extractLsb' 9 5) (i.extractLsb' 3 6) 1#2 15#6 d (i.extractLsb' 0 3))
  | .beq a b i => .w32 (mk32 b a (i.extractLsb' 8 6) 1#2 16#6 (i.extractLsb' 3 5) (i.extractLsb' 0 3))
  | .bne a b i => .w32 (mk32 b a (i.extractLsb' 8 6) 1#2 17#6 (i.extractLsb' 3 5) (i.extractLsb' 0 3))
  | .blt a b i => .w32 (mk32 b a (i.extractLsb' 8 6) 1#2 18#6 (i.extractLsb' 3 5) (i.extractLsb' 0 3))
  | .bge a b i => .w32 (mk32 b a (i.extractLsb' 8 6) 1#2 19#6 (i.extractLsb' 3 5) (i.extractLsb' 0 3))
  | .bltu a b i => .w32 (mk32 b a (i.extractLsb' 8 6) 1#2 20#6 (i.extractLsb' 3 5) (i.extractLsb' 0 3))
  | .bgeu a b i => .w32 (mk32 b a (i.extractLsb' 8 6) 1#2 21#6 (i.extractLsb' 3 5) (i.extractLsb' 0 3))
  | .jal d i => .w32 (mk32 (i.extractLsb' 14 5) (i.extractLsb' 9 5) (i.extractLsb' 3 6) 1#2 22#6 d (i.extractLsb' 0 3))
  | .jalr d a i => .w32 (mk32 (i.extractLsb' 9 5) a (i.extractLsb' 3 6) 1#2 23#6 d (i.extractLsb' 0 3))
  | .ldb d a i => .w32 (mk32 (i.extractLsb' 9 5) a (i.extractLsb' 3 6) 1#2 24#6 d (i.extractLsb' 0 3))
  | .ldbu d a i => .w32 (mk32 (i.extractLsb' 9 5) a (i.extractLsb' 3 6) 1#2 25#6 d (i.extractLsb' 0 3))
  | .ldh d a i => .w32 (mk32 (i.extractLsb' 9 5) a (i.extractLsb' 3 6) 1#2 26#6 d (i.extractLsb' 0 3))
  | .ldhu d a i => .w32 (mk32 (i.extractLsb' 9 5) a (i.extractLsb' 3 6) 1#2 27#6 d (i.extractLsb' 0 3))
  | .ldw d a i => .w32 (mk32 (i.extractLsb' 9 5) a (i.extractLsb' 3 6) 1#2 28#6 d (i.extractLsb' 0 3))
  | .ldwu d a i => .w32 (mk32 (i.extractLsb' 9 5) a (i.extractLsb' 3 6) 1#2 29#6 d (i.extractLsb' 0 3))
  | .ldd d a i => .w32 (mk32 (i.extractLsb' 9 5) a (i.extractLsb' 3 6) 1#2 30#6 d (i.extractLsb' 0 3))
  | .stb d a i => .w32 (mk32 (i.extractLsb' 9 5) a (i.extractLsb' 3 6) 1#2 32#6 d (i.extractLsb' 0 3))
  | .sth d a i => .w32 (mk32 (i.extractLsb' 9 5) a (i.extractLsb' 3 6) 1#2 33#6 d (i.extractLsb' 0 3))
  | .stw d a i => .w32 (mk32 (i.extractLsb' 9 5) a (i.extractLsb' 3 6) 1#2 34#6 d (i.extractLsb' 0 3))
  | .std d a i => .w32 (mk32 (i.extractLsb' 9 5) a (i.extractLsb' 3 6) 1#2 35#6 d (i.extractLsb' 0 3))
  | .addiImm32 op d a i => .w64 (pfxImm i) (mk32i op.op i d a)
  | .lihImm32 d i => .w64 (pfxImm i) (mk32u 14#6 i d)
  | .addpcImm32 d i => .w64 (pfxImm i) (mk32u 15#6 i d)
  | .jalrImm32 d a i => .w64 (pfxImm i) (mk32i 23#6 i d a)
  | .loadImm32 op d a i => .w64 (pfxImm i) (mk32i op.op i d a)
  | .storeImm32 op d a i => .w64 (pfxImm i) (mk32i op.op i d a)
  | .amoAddD d a b o s => .w32 (mk32 b a (s.code ++ o.code) 1#2 36#6 d 0#3)
  | .amoAndD d a b o s => .w32 (mk32 b a (s.code ++ o.code) 1#2 36#6 d 1#3)
  | .amoOrD d a b o s => .w32 (mk32 b a (s.code ++ o.code) 1#2 36#6 d 2#3)
  | .amoXorD d a b o s => .w32 (mk32 b a (s.code ++ o.code) 1#2 36#6 d 3#3)
  | .amoMinD d a b o s => .w32 (mk32 b a (s.code ++ o.code) 1#2 36#6 d 4#3)
  | .amoMaxD d a b o s => .w32 (mk32 b a (s.code ++ o.code) 1#2 36#6 d 5#3)
  | .amoMinuD d a b o s => .w32 (mk32 b a (s.code ++ o.code) 1#2 36#6 d 6#3)
  | .amoMaxuD d a b o s => .w32 (mk32 b a (s.code ++ o.code) 1#2 36#6 d 7#3)
  | .amoSwapD d a b o s => .w32 (mk32 b a (s.code ++ o.code) 1#2 37#6 d 0#3)
  | .casD d a b o s => .w32 (mk32 b a (s.code ++ o.code) 1#2 37#6 d 1#3)
  | .amoAddW d a b o s => .w32 (mk32 b a (s.code ++ o.code) 1#2 38#6 d 0#3)
  | .amoAndW d a b o s => .w32 (mk32 b a (s.code ++ o.code) 1#2 38#6 d 1#3)
  | .amoOrW d a b o s => .w32 (mk32 b a (s.code ++ o.code) 1#2 38#6 d 2#3)
  | .amoXorW d a b o s => .w32 (mk32 b a (s.code ++ o.code) 1#2 38#6 d 3#3)
  | .amoMinW d a b o s => .w32 (mk32 b a (s.code ++ o.code) 1#2 38#6 d 4#3)
  | .amoMaxW d a b o s => .w32 (mk32 b a (s.code ++ o.code) 1#2 38#6 d 5#3)
  | .amoMinuW d a b o s => .w32 (mk32 b a (s.code ++ o.code) 1#2 38#6 d 6#3)
  | .amoMaxuW d a b o s => .w32 (mk32 b a (s.code ++ o.code) 1#2 38#6 d 7#3)
  | .amoSwapW d a b o s => .w32 (mk32 b a (s.code ++ o.code) 1#2 39#6 d 0#3)
  | .casW d a b o s => .w32 (mk32 b a (s.code ++ o.code) 1#2 39#6 d 1#3)
  | .space d a => .w32 (mk32 0#5 a 0#6 1#2 40#6 d 0#3)
  | .castg d a w => .w32 (mk32 0#5 a 1#6 1#2 40#6 d w)
  | .casts d a w => .w32 (mk32 0#5 a 2#6 1#2 40#6 d w)
  | .fadd d a b t r => .w32 (mk32 b a (0#4 ++ t.code) 1#2 48#6 d r.code)
  | .fsub d a b t r => .w32 (mk32 b a (1#4 ++ t.code) 1#2 48#6 d r.code)
  | .fmul d a b t r => .w32 (mk32 b a (2#4 ++ t.code) 1#2 48#6 d r.code)
  | .fdiv d a b t r => .w32 (mk32 b a (3#4 ++ t.code) 1#2 48#6 d r.code)
  | .fsqrt d a t r => .w32 (mk32 0#5 a (4#4 ++ t.code) 1#2 48#6 d r.code)
  | .fmin d a b t => .w32 (mk32 b a (5#4 ++ t.code) 1#2 48#6 d 0#3)
  | .fmax d a b t => .w32 (mk32 b a (6#4 ++ t.code) 1#2 48#6 d 0#3)
  | .fsgnCopy d a b t => .w32 (mk32 b a (7#4 ++ t.code) 1#2 48#6 d 0#3)
  | .fsgnNeg d a b t => .w32 (mk32 b a (7#4 ++ t.code) 1#2 48#6 d 1#3)
  | .fsgnXor d a b t => .w32 (mk32 b a (7#4 ++ t.code) 1#2 48#6 d 2#3)
  | .fcmpEq d a b t => .w32 (mk32 b a (8#4 ++ t.code) 1#2 48#6 d 0#3)
  | .fcmpLt d a b t => .w32 (mk32 b a (8#4 ++ t.code) 1#2 48#6 d 1#3)
  | .fcmpLe d a b t => .w32 (mk32 b a (8#4 ++ t.code) 1#2 48#6 d 2#3)
  | .fclass d a t => .w32 (mk32 0#5 a (9#4 ++ t.code) 1#2 48#6 d 0#3)
  | .fcvtToFloat d a c t r => .w32 (mk32 c.code a (10#4 ++ t.code) 1#2 48#6 d r.code)
  | .fcvtToInt d a c t r => .w32 (mk32 c.code a (11#4 ++ t.code) 1#2 48#6 d r.code)
  | .fma d a b t r => .w32 (mk32 b a (0#4 ++ t.code) 1#2 49#6 d r.code)
  | .fms d a b t r => .w32 (mk32 b a (1#4 ++ t.code) 1#2 49#6 d r.code)
  | .fnma d a b t r => .w32 (mk32 b a (2#4 ++ t.code) 1#2 49#6 d r.code)
  | .rdc d n => .w32 (mk32 (n.extractLsb' 0 5) 0#5 (n.extractLsb' 5 6) 1#2 (28#5 ++ n.extractLsb' 11 1) d 0#3)
  | .wrc a n => .w32 (mk32 (n.extractLsb' 0 5) a (n.extractLsb' 5 6) 1#2 (28#5 ++ n.extractLsb' 11 1) 0#5 1#3)
  | .setc a n => .w32 (mk32 (n.extractLsb' 0 5) a (n.extractLsb' 5 6) 1#2 (28#5 ++ n.extractLsb' 11 1) 0#5 2#3)
  | .clrc a n => .w32 (mk32 (n.extractLsb' 0 5) a (n.extractLsb' 5 6) 1#2 (28#5 ++ n.extractLsb' 11 1) 0#5 3#3)
  | .send d a b => .w32 (mk32 b a 0#6 1#2 58#6 d 0#3)
  | .recv d a => .w32 (mk32 0#5 a 1#6 1#2 58#6 d 0#3)
  | .waitmsg => .w32 (mk32 0#5 0#5 2#6 1#2 58#6 0#5 0#3)
  | .pollmsg d => .w32 (mk32 0#5 0#5 3#6 1#2 58#6 d 0#3)
  | .lullq d a => .w32 (mk32 0#5 a 0#6 1#2 59#6 d 0#3)
  | .lullw => .w32 (mk32 0#5 0#5 1#6 1#2 59#6 0#5 0#3)
  | .svc k => .w32 (mk32 (k.extractLsb' 5 5) (k.extractLsb' 0 5) 0#6 1#2 60#6 0#5 0#3)
  | .eret => .w32 (mk32 0#5 0#5 1#6 1#2 60#6 0#5 0#3)
  | .brk k => .w32 (mk32 (k.extractLsb' 5 5) (k.extractLsb' 0 5) 2#6 1#2 60#6 0#5 0#3)
  | .ifence => .w32 (mk32 0#5 0#5 3#6 1#2 60#6 0#5 0#3)
  | .trigger => .w32 (mk32 0#5 0#5 4#6 1#2 60#6 0#5 0#3)
  | .exit => .w32 (mk32 0#5 0#5 5#6 1#2 60#6 0#5 0#3)
  | .nop => .w32 (mk32 0#5 0#5 0#6 1#2 63#6 0#5 0#3)
  | .ract a => .w32 (mk32 0#5 a 1#6 1#2 63#6 0#5 0#3)
  | .hint a b f m => .w32 (mk32 b a f 1#2 63#6 0#5 m)
  | .vgrant d a h => .w32 (mk32 h a 0#6 2#2 0#6 d 0#3)
  | .vgrantNb d a h => .w32 (mk32 h a 1#6 2#2 0#6 d 0#3)
  | .vgrantZ d a h => .w32 (mk32 h a 2#6 2#2 0#6 d 0#3)
  | .vtype d a => .w32 (mk32 0#5 a 3#6 2#2 0#6 d 0#3)
  | .vld d a m => .w32 (mk32 0#5 a 0#6 2#2 8#6 d m)
  | .vldScaled d a b m => .w32 (mk32 b a 0#6 2#2 8#6 d m)
  | .vlds d a b m => .w32 (mk32 b a 1#6 2#2 8#6 d m)
  | .vldx d a b m => .w32 (mk32 b a 2#6 2#2 8#6 d m)
  | .vldxO d a b m => .w32 (mk32 b a 3#6 2#2 8#6 d m)
  | .vldff d a m => .w32 (mk32 0#5 a 4#6 2#2 8#6 d m)
  | .vst d a m => .w32 (mk32 0#5 a 0#6 2#2 9#6 d m)
  | .vstScaled d a b m => .w32 (mk32 b a 0#6 2#2 9#6 d m)
  | .vsts d a b m => .w32 (mk32 b a 1#6 2#2 9#6 d m)
  | .vstx d a b m => .w32 (mk32 b a 2#6 2#2 9#6 d m)
  | .vstxO d a b m => .w32 (mk32 b a 3#6 2#2 9#6 d m)
  | .vstN d a b m => .w32 (mk32 b a 4#6 2#2 9#6 d m)
  | .vamoAdd d a b m => .w32 (mk32 b a 0#6 2#2 10#6 d m)
  | .vamoAnd d a b m => .w32 (mk32 b a 1#6 2#2 10#6 d m)
  | .vamoOr d a b m => .w32 (mk32 b a 2#6 2#2 10#6 d m)
  | .vamoXor d a b m => .w32 (mk32 b a 3#6 2#2 10#6 d m)
  | .vamoMin d a b m => .w32 (mk32 b a 4#6 2#2 10#6 d m)
  | .vamoMax d a b m => .w32 (mk32 b a 5#6 2#2 10#6 d m)
  | .vamoMinu d a b m => .w32 (mk32 b a 6#6 2#2 10#6 d m)
  | .vamoMaxu d a b m => .w32 (mk32 b a 7#6 2#2 10#6 d m)
  | .vamoSwap d a b m => .w32 (mk32 b a 8#6 2#2 10#6 d m)
  | .vloadOrd op d a b m s o => .w64 (pfxOrd s o) (mk32 b a op.code 2#2 8#6 d m)
  | .vstoreOrd op d a b m s o => .w64 (pfxOrd s o) (mk32 b a op.code 2#2 9#6 d m)
  | .vamoOrd op d a b m s o => .w64 (pfxOrd s o) (mk32 b a op.code 2#2 10#6 d m)
  | .vaddVv d a b m => .w32 (mk32 b a 0#6 2#2 16#6 d m)
  | .vsubVv d a b m => .w32 (mk32 b a 1#6 2#2 16#6 d m)
  | .vmulVv d a b m => .w32 (mk32 b a 2#6 2#2 16#6 d m)
  | .vmulhVv d a b m => .w32 (mk32 b a 3#6 2#2 16#6 d m)
  | .vdivVv d a b m => .w32 (mk32 b a 4#6 2#2 16#6 d m)
  | .vremVv d a b m => .w32 (mk32 b a 5#6 2#2 16#6 d m)
  | .vminVv d a b m => .w32 (mk32 b a 6#6 2#2 16#6 d m)
  | .vmaxVv d a b m => .w32 (mk32 b a 7#6 2#2 16#6 d m)
  | .vandVv d a b m => .w32 (mk32 b a 8#6 2#2 16#6 d m)
  | .vorVv d a b m => .w32 (mk32 b a 9#6 2#2 16#6 d m)
  | .vxorVv d a b m => .w32 (mk32 b a 10#6 2#2 16#6 d m)
  | .vshlVv d a b m => .w32 (mk32 b a 11#6 2#2 16#6 d m)
  | .vshrVv d a b m => .w32 (mk32 b a 12#6 2#2 16#6 d m)
  | .vsraVv d a b m => .w32 (mk32 b a 13#6 2#2 16#6 d m)
  | .vfmaVv d a b m => .w32 (mk32 b a 14#6 2#2 16#6 d m)
  | .vfmsVv d a b m => .w32 (mk32 b a 15#6 2#2 16#6 d m)
  | .vfnmaVv d a b m => .w32 (mk32 b a 16#6 2#2 16#6 d m)
  | .vabs d a m => .w32 (mk32 0#5 a 17#6 2#2 16#6 d m)
  | .vneg d a m => .w32 (mk32 0#5 a 18#6 2#2 16#6 d m)
  | .vwaddVv d a b m => .w32 (mk32 b a 19#6 2#2 16#6 d m)
  | .vwmulVv d a b m => .w32 (mk32 b a 20#6 2#2 16#6 d m)
  | .vnshrVv d a b m => .w32 (mk32 b a 21#6 2#2 16#6 d m)
  | .vaddVx d a b m => .w32 (mk32 b a 0#6 2#2 17#6 d m)
  | .vsubVx d a b m => .w32 (mk32 b a 1#6 2#2 17#6 d m)
  | .vmulVx d a b m => .w32 (mk32 b a 2#6 2#2 17#6 d m)
  | .vmulhVx d a b m => .w32 (mk32 b a 3#6 2#2 17#6 d m)
  | .vdivVx d a b m => .w32 (mk32 b a 4#6 2#2 17#6 d m)
  | .vremVx d a b m => .w32 (mk32 b a 5#6 2#2 17#6 d m)
  | .vminVx d a b m => .w32 (mk32 b a 6#6 2#2 17#6 d m)
  | .vmaxVx d a b m => .w32 (mk32 b a 7#6 2#2 17#6 d m)
  | .vandVx d a b m => .w32 (mk32 b a 8#6 2#2 17#6 d m)
  | .vorVx d a b m => .w32 (mk32 b a 9#6 2#2 17#6 d m)
  | .vxorVx d a b m => .w32 (mk32 b a 10#6 2#2 17#6 d m)
  | .vshlVx d a b m => .w32 (mk32 b a 11#6 2#2 17#6 d m)
  | .vshrVx d a b m => .w32 (mk32 b a 12#6 2#2 17#6 d m)
  | .vsraVx d a b m => .w32 (mk32 b a 13#6 2#2 17#6 d m)
  | .vfmaVx d a b m => .w32 (mk32 b a 14#6 2#2 17#6 d m)
  | .vfmsVx d a b m => .w32 (mk32 b a 15#6 2#2 17#6 d m)
  | .vfnmaVx d a b m => .w32 (mk32 b a 16#6 2#2 17#6 d m)
  | .vwaddVx d a b m => .w32 (mk32 b a 19#6 2#2 17#6 d m)
  | .vwmulVx d a b m => .w32 (mk32 b a 20#6 2#2 17#6 d m)
  | .vnshrVx d a b m => .w32 (mk32 b a 21#6 2#2 17#6 d m)
  | .vaddVi d a i m => .w32 (mk32 i a 0#6 2#2 18#6 d m)
  | .vsubVi d a i m => .w32 (mk32 i a 1#6 2#2 18#6 d m)
  | .vminVi d a i m => .w32 (mk32 i a 6#6 2#2 18#6 d m)
  | .vmaxVi d a i m => .w32 (mk32 i a 7#6 2#2 18#6 d m)
  | .vandVi d a i m => .w32 (mk32 i a 8#6 2#2 18#6 d m)
  | .vorVi d a i m => .w32 (mk32 i a 9#6 2#2 18#6 d m)
  | .vxorVi d a i m => .w32 (mk32 i a 10#6 2#2 18#6 d m)
  | .vshlVi d a k m => .w32 (mk32 k a 11#6 2#2 18#6 d m)
  | .vshrVi d a k m => .w32 (mk32 k a 12#6 2#2 18#6 d m)
  | .vsraVi d a k m => .w32 (mk32 k a 13#6 2#2 18#6 d m)
  | .vnshrVi d a k m => .w32 (mk32 k a 21#6 2#2 18#6 d m)
  | .vcmpEqVv d a b m => .w32 (mk32 b a 0#6 2#2 20#6 (0#2 ++ d) m)
  | .vcmpNeVv d a b m => .w32 (mk32 b a 1#6 2#2 20#6 (0#2 ++ d) m)
  | .vcmpLtVv d a b m => .w32 (mk32 b a 2#6 2#2 20#6 (0#2 ++ d) m)
  | .vcmpLeVv d a b m => .w32 (mk32 b a 3#6 2#2 20#6 (0#2 ++ d) m)
  | .vcmpEqVx d a b m => .w32 (mk32 b a 16#6 2#2 20#6 (0#2 ++ d) m)
  | .vcmpNeVx d a b m => .w32 (mk32 b a 17#6 2#2 20#6 (0#2 ++ d) m)
  | .vcmpLtVx d a b m => .w32 (mk32 b a 18#6 2#2 20#6 (0#2 ++ d) m)
  | .vcmpLeVx d a b m => .w32 (mk32 b a 19#6 2#2 20#6 (0#2 ++ d) m)
  | .vcmpEqVi d a i m => .w32 (mk32 i a 32#6 2#2 20#6 (0#2 ++ d) m)
  | .vcmpNeVi d a i m => .w32 (mk32 i a 33#6 2#2 20#6 (0#2 ++ d) m)
  | .vcmpLtVi d a i m => .w32 (mk32 i a 34#6 2#2 20#6 (0#2 ++ d) m)
  | .vcmpLeVi d a i m => .w32 (mk32 i a 35#6 2#2 20#6 (0#2 ++ d) m)
  | .mand d a b => .w32 (mk32 (0#2 ++ b) (0#2 ++ a) 0#6 2#2 21#6 (0#2 ++ d) 0#3)
  | .mor d a b => .w32 (mk32 (0#2 ++ b) (0#2 ++ a) 1#6 2#2 21#6 (0#2 ++ d) 0#3)
  | .mxor d a b => .w32 (mk32 (0#2 ++ b) (0#2 ++ a) 2#6 2#2 21#6 (0#2 ++ d) 0#3)
  | .mnot d a => .w32 (mk32 0#5 (0#2 ++ a) 3#6 2#2 21#6 (0#2 ++ d) 0#3)
  | .mpop d a => .w32 (mk32 0#5 (0#2 ++ a) 4#6 2#2 21#6 d 0#3)
  | .mfirst d a => .w32 (mk32 0#5 (0#2 ++ a) 5#6 2#2 21#6 d 0#3)
  | .mset d a => .w32 (mk32 0#5 a 6#6 2#2 21#6 (0#2 ++ d) 0#3)
  | .vsel d a b m => .w32 (mk32 b a 0#6 2#2 22#6 d m)
  | .vbcast d a m => .w32 (mk32 0#5 a 1#6 2#2 22#6 d m)
  | .vget d a b => .w32 (mk32 b a 2#6 2#2 22#6 d 0#3)
  | .vidx d m => .w32 (mk32 0#5 0#5 3#6 2#2 22#6 d m)
  | .vgather d a b m => .w32 (mk32 b a 0#6 2#2 24#6 d m)
  | .vslideup d a b m => .w32 (mk32 b a 1#6 2#2 24#6 d m)
  | .vslidedn d a b m => .w32 (mk32 b a 2#6 2#2 24#6 d m)
  | .vcompress d a m => .w32 (mk32 0#5 a 3#6 2#2 24#6 d m)
  | .vexpand d a m => .w32 (mk32 0#5 a 4#6 2#2 24#6 d m)
  | .vswappr d a m => .w32 (mk32 0#5 a 5#6 2#2 24#6 d m)
  | .vzip d a b m => .w32 (mk32 b a 6#6 2#2 24#6 d m)
  | .vunzip d a b m => .w32 (mk32 b a 7#6 2#2 24#6 d m)
  | .vredsumO d a b m => .w32 (mk32 b a 0#6 2#2 25#6 d m)
  | .vredsumT d a b m => .w32 (mk32 b a 1#6 2#2 25#6 d m)
  | .vredmax d a b m => .w32 (mk32 b a 2#6 2#2 25#6 d m)
  | .vredmin d a b m => .w32 (mk32 b a 3#6 2#2 25#6 d m)
  | .vredand d a b m => .w32 (mk32 b a 4#6 2#2 25#6 d m)
  | .vredor d a b m => .w32 (mk32 b a 5#6 2#2 25#6 d m)
  | .vcvt d a k s m => .w32 (mk32 (0#1 ++ k.code) a (0#4 ++ s.code) 2#2 26#6 d m)
  | .vcvtSr d a k s m => .w32 (mk32 (0#1 ++ k.code) a (1#4 ++ s.code) 2#2 26#6 d m)
  | .vrcp d a m => .w32 (mk32 0#5 a 0#6 2#2 27#6 d m)
  | .vrsq d a m => .w32 (mk32 0#5 a 1#6 2#2 27#6 d m)
  | .vsint d a m => .w32 (mk32 0#5 a 2#6 2#2 27#6 d m)
  | .vcost d a m => .w32 (mk32 0#5 a 3#6 2#2 27#6 d m)
  | .vexp2 d a m => .w32 (mk32 0#5 a 4#6 2#2 27#6 d m)
  | .vlog2 d a m => .w32 (mk32 0#5 a 5#6 2#2 27#6 d m)
  | .vclmul d a b m => .w32 (mk32 b a 6#6 2#2 27#6 d m)
  | .vclmulh d a b m => .w32 (mk32 b a 7#6 2#2 27#6 d m)
  | .vcbdec d a m => .w32 (mk32 0#5 a 8#6 2#2 27#6 d m)
  | .cbload a => .w32 (mk32 0#5 a 9#6 2#2 27#6 0#5 0#3)
  | .vrnsf d a m => .w32 (mk32 0#5 a 0#6 2#2 28#6 d m)
  | .vrnsr d a m => .w32 (mk32 0#5 a 1#6 2#2 28#6 d m)
  | .vrnschk d a m => .w32 (mk32 0#5 a 2#6 2#2 28#6 (0#2 ++ d) m)
  | .vstreamLdv d a b q => .w32 (mk32 b a (0#3 ++ q ++ 0#1) 2#2 32#6 d 0#3)
  | .vstreamStv d a b q => .w32 (mk32 b a (1#3 ++ q ++ 0#1) 2#2 32#6 d 0#3)
  | .vstreamLds d a b q => .w32 (mk32 b a (2#3 ++ q ++ 0#1) 2#2 32#6 d 0#3)
  | .vstreamSts d a b q => .w32 (mk32 b a (3#3 ++ q ++ 0#1) 2#2 32#6 d 0#3)
  | .vstreamLdb d a b q => .w32 (mk32 b a (4#3 ++ q ++ 0#1) 2#2 32#6 d 0#3)
  | .vstreamStb d a b q => .w32 (mk32 b a (5#3 ++ q ++ 0#1) 2#2 32#6 d 0#3)
  | .vstreamLdvA q d a b x => .w64 (pfxExt 0#5 0#5 0#3 (0#1 ++ x) 0#1) (mk32 b a (0#3 ++ q ++ 1#1) 2#2 32#6 d 0#3)
  | .vstreamStvA q d a b x => .w64 (pfxExt 0#5 0#5 0#3 (0#1 ++ x) 0#1) (mk32 b a (1#3 ++ q ++ 1#1) 2#2 32#6 d 0#3)
  | .vstreamLdsA q d a b x => .w64 (pfxExt 0#5 0#5 0#3 (0#1 ++ x) 0#1) (mk32 b a (2#3 ++ q ++ 1#1) 2#2 32#6 d 0#3)
  | .vstreamStsA q d a b x => .w64 (pfxExt 0#5 0#5 0#3 (0#1 ++ x) 0#1) (mk32 b a (3#3 ++ q ++ 1#1) 2#2 32#6 d 0#3)
  | .vstreamLdbA q d a b x => .w64 (pfxExt 0#5 0#5 0#3 (0#1 ++ x) 0#1) (mk32 b a (4#3 ++ q ++ 1#1) 2#2 32#6 d 0#3)
  | .vstreamStbA q d a b x => .w64 (pfxExt 0#5 0#5 0#3 (0#1 ++ x) 0#1) (mk32 b a (5#3 ++ q ++ 1#1) 2#2 32#6 d 0#3)
  | .swait q => .w32 (mk32 (0#3 ++ q) 0#5 0#6 2#2 33#6 0#5 0#3)
  | .squery d q => .w32 (mk32 (0#3 ++ q) 0#5 1#6 2#2 33#6 d 0#3)
  | .fenceSs s => .w32 (mk32 0#5 0#5 (0#3 ++ s.code) 2#2 34#6 0#5 0#3)
  | .fenceSv s => .w32 (mk32 1#5 0#5 (0#3 ++ s.code) 2#2 34#6 0#5 0#3)
  | .fenceVs s => .w32 (mk32 2#5 0#5 (0#3 ++ s.code) 2#2 34#6 0#5 0#3)
  | .fenceVv s => .w32 (mk32 3#5 0#5 (0#3 ++ s.code) 2#2 34#6 0#5 0#3)
  | .barinit a k => .w32 (mk32 k a 8#6 2#2 34#6 0#5 0#3)
  | .barv k s => .w32 (mk32 k 0#5 (2#3 ++ s.code) 2#2 34#6 0#5 0#3)
  | .barw k => .w32 (mk32 k 0#5 24#6 2#2 34#6 0#5 0#3)
  | .mtenter g => .w32 (mk32 (0#4 ++ (BitVec.ofBool g)) 0#5 0#6 2#2 48#6 0#5 0#3)
  | .mtexit => .w32 (mk32 0#5 0#5 1#6 2#2 48#6 0#5 0#3)
  | .tzero d => .w32 (mk32 0#5 0#5 2#6 2#2 48#6 (0#2 ++ d) 0#3)
  | .tedge a b => .w32 (mk32 b a 3#6 2#2 48#6 0#5 0#3)
  | .topa d a b c e m n => .w64 (pfxExt c e n 0#6 0#1) (mk32 b a 4#6 2#2 48#6 (0#2 ++ d) m)
  | .tops d a b c e m n => .w64 (pfxExt c e n 0#6 0#1) (mk32 b a 5#6 2#2 48#6 (0#2 ++ d) m)
  | .topr d a b c m n => .w64 (pfxExt c 0#5 n 0#6 0#1) (mk32 b a 6#6 2#2 48#6 (0#2 ++ d) m)
  | .tldrow d x a b => .w64 (pfxExt 0#5 0#5 0#3 x 0#1) (mk32 b a 8#6 2#2 48#6 (0#2 ++ d) 0#3)
  | .tstrow d x a b => .w64 (pfxExt 0#5 0#5 0#3 x 0#1) (mk32 b a 9#6 2#2 48#6 (0#2 ++ d) 0#3)
  | .tslv d a x o => .w64 (pfxExt 0#5 0#5 0#3 x (BitVec.ofBool o)) (mk32 0#5 (0#2 ++ a) 10#6 2#2 48#6 d 0#3)
  | .tvsl d a x o => .w64 (pfxExt 0#5 0#5 0#3 x (BitVec.ofBool o)) (mk32 0#5 a 11#6 2#2 48#6 (0#2 ++ d) 0#3)
  | .tcvt d k => .w32 (mk32 k 0#5 12#6 2#2 48#6 (0#2 ++ d) 0#3)
  | .tchk d => .w32 (mk32 0#5 0#5 13#6 2#2 48#6 (0#2 ++ d) 0#3)
  | .sequencerHandoff _ => .event
  | .slotStepStart _ _ => .event
  | .slotStepCommit _ _ => .event
  | .queuedTrap _ => .event
  | .writeQueueSend _ => .event
  | .storeAcknowledgement _ _ => .event
  | .memoryReply _ _ => .event
  | .fetchFill _ => .event
  | .handlerFault _ => .event
  | .sendDepart _ => .event
  | .mailboxArrival _ => .event
  | .messageAcknowledgement _ => .event
  | .bounceArrival _ => .event
  | .dbgctlHaltreq _ _ => .event
  | .debugHalt _ => .event
  | .dbgctlResume _ _ => .event
  | .debugWindowAccess _ _ _ => .event
  | .cfenceRequest _ _ => .event
  | .lamark _ _ => .event
  | .allocatorMark _ => .event
  | .deadlineExpiry _ => .event
  | .parkExpiry _ => .event
  | .saveComplete _ => .event
  | .grantComplete _ => .event
  | .restoreComplete _ => .event
  | .relocate _ => .event
  | .recheckSecondExecution _ _ => .event
  | .recheckCompare _ _ _ => .event
  | .recheckVote _ _ _ _ => .event
  | .recheckRollback _ _ _ _ => .event
  | .elogtailWrite _ _ => .event
  | .lgstatMark _ _ _ => .event
  | .lgstatFenreq _ _ _ => .event
  | .substitutionDone _ _ => .event
  | .dschkGo _ _ => .event
  | .dschkCalc _ _ => .event
  | .diagnosticStore _ => .event
  | .dinjArm _ _ => .event
  | .cbownWrite _ _ => .event
  | .csplitApply _ => .event
  | .streamUnit _ => .event
  | .streamCopyDone _ _ => .event
  | .completionMessage _ _ => .event
  | .barvArrival _ _ => .event
  | .homeRequest _ _ => .event
  | .dramAccess _ => .event
  | .rowIdleClose _ => .event
  | .ractArrival _ => .event
  | .replicaInvalidation _ _ => .event
  | .invalidationAck _ _ => .event
  | .walkComplete _ _ => .event
  | .tlbinvGo _ _ => .event
  | .tlbinvDone _ => .event
  | .migctlGo _ _ _ => .event
  | .migrationLineDone _ _ => .event
  | .migctlDoneClear _ _ _ => .event
  | .mscspWrite _ _ => .event
  | .mscspConversionDone _ => .event
  | .drchkGo _ _ => .event
  | .drchkCalc _ _ => .event
  | .dlogtailWrite _ _ => .event
  | .linkFlitReplay _ _ => .event
  | .keycmdGo _ => .event
  | .keyInstallDone => .event
  | .qnotifyWrite _ _ => .event
  | .qstatRestart _ _ => .event
  | .cpServePacket _ => .event
  | .packetClearAck _ => .event
  | .groupPlacement _ => .event
  | .triggerMarkCount _ => .event
  | .exitFinish _ => .event
  | .signalDecrement _ => .event
  | .msixSend _ _ => .event
  | .schcmdPreempt _ => .event
  | .schcmdMove _ => .event
  | .schcmdRelease _ => .event
  | .schcmdSwitchCluster _ => .event
  | .schcmdSwitchPackage _ => .event
  | .schcmdEndLaunch _ => .event
  | .schcmdReserved _ => .event
  | .schcmdComplete => .event
  | .lullDrainStart => .event
  | .lullStart _ _ => .event
  | .lullEnd _ _ => .event
  | .lullOverrun _ => .event
  | .relockDone => .event
  | .thermtrip => .event
  | .hostBar4Read _ _ _ => .event
  | .hostBar4Write _ _ _ => .event
  | .hostAtomicopRequest _ _ => .event
  | .hostCompletion _ _ _ _ => .event
  | .fwcmdGo _ => .event
  | .fwImageCheck _ => .event
  | .packageReset => .event
  | .vfFlr _ => .event
  | .vfFlrIdle _ => .event
  | .powerLoss => .event
  | .pldmBase _ => .event
  | .pldmPlatform _ _ => .event
  | .pldmFirmwareUpdate _ => .event
  | .mctpDebugRequest _ _ _ => .event
  | .brulosFlitReceive _ _ _ => .event
  | .linkNak _ _ => .event
  | .retransmitTimeout _ => .event
  | .remoteRequest _ => .event
  | .collectiveComplete _ _ _ => .event
  | .registerWrite _ _ => .event
  | .mtenterComplete _ => .event
  | .systemDieError => .event
  | .hostCompletionTimeout _ _ => .event
  | .firmwareCallReturn _ _ _ => .event
  | .brulosLinkDown _ => .event
  | .brulosLinkUp _ => .event
  | .tenantSwitchIn _ _ => .event
  | .mctpEndpointIdAssignment _ => .event

/-- Length in bytes (02 R39). -/
def Words.len : Words → Nat
  | .w16 _ => 2
  | .w32 _ => 4
  | .w64 _ _ => 8
  | .event => 0

/-- The encoding as TVAL holds it (02 R56): the prefix in [31:0] and the body in [63:32] of a 64-bit form. -/
def Words.tval : Words → Word
  | .w16 w => w.zeroExtend 64
  | .w32 w => w.zeroExtend 64
  | .w64 p w => w ++ p
  | .event => 0

/-- The body encoding (12 R357). -/
def Words.body : Words → BitVec 32
  | .w16 w => w.zeroExtend 32
  | .w32 w => w
  | .w64 _ w => w
  | .event => 0

/-- Length of an instruction in bytes. -/
def Instr.len (i : Instr) : Nat := (encode i).len

/-- The bytes of a number, least significant first (00 R6). -/
def bytesOf (n : Nat) (x : Nat) : List Byte :=
  match n with
  | 0 => []
  | n + 1 => BitVec.ofNat 8 x :: bytesOf n (x / 256)

/-- The longest instruction, in bytes. -/
def maxInstrBytes : Nat := 8

/-- The instruction read from bits numbered as the opcode table numbers them, the bits above `nbits` zero. -/
def decodeTableWord (nbits w : Nat) : Option Instr :=
  match decodeBytes (bytesOf maxInstrBytes (w % 2 ^ nbits)) with
  | .ok (i, _) => some i
  | .error _ => none

end

end Sys2Proof
end

