-- ==== Sys2Proof/Config.lean ====
section
/-! DEFINITION. What the spec leaves open and an implementation fixes. Every constant here is opaque: it has no body, so
no proof can use a value of it. Each is named in the assumption log. -/

namespace Sys2Proof.Config

open Sys2Proof

/-- Clocks that pass in a step beyond the first (log 3). -/
opaque stepClocks : Nat → Nat

/-- Ticks of the timebase that pass in a step (log 3). -/
opaque stepTicks : Nat → Nat

/-- The order in which elements of an unordered vector store or atomic that touch a common byte perform (04 R123,
08 R248): the sort key of element `i` in the access numbered by the free counter (log 11). -/
opaque elementKey : Nat → Nat → Nat

/-- A destination word of a load that trapped, at or above the trapping element (04 R145; log 12). -/
opaque undefinedWord : Nat → Nat → Word

/-- A byte read under a key other than the one it was written with (13 R381; log 13): the key material it was written
with, the material it is read with, its address and the stored plaintext. -/
opaque crossKeyByte : Nat → Nat → Nat → Byte → Byte

/-- The choice of column `b` of the SEC-DED code among those that are left (12 R354; log 14). -/
opaque checkChoice : Nat → Nat

/-- The check-bit patterns that can be columns of data bits: all but zero, those of a single bit, and 0xFF, the syndrome of a
poisoned word in DRAM (12 R354, 13 R397). -/
def checkPatterns : List Byte :=
  ((List.range 255).map fun n => BitVec.ofNat 8 n).filter fun c =>
    !decide (c = 0) && !((List.range 8).any fun k => decide (c = BitVec.ofNat 8 (2 ^ k)))

/-- The first `n` columns, newest first, and the patterns that are left. -/
def checkColumns : Nat → List Byte × List Byte
  | 0 => ([], checkPatterns)
  | n + 1 =>
    let r := checkColumns n
    let c := r.2.getD (checkChoice n % r.2.length) 0
    (c :: r.1, r.2.erase c)

/-- Column `b` of the SEC-DED code: the check bits of the word with only bit `b` set. The columns of different bits differ, and
none is zero or has a single bit (12 R354; log 14). -/
def checkColumn (b : Nat) : Byte := (checkColumns (b + 1)).1.headD 0

/-- The fused minimum security version (15 R435; log 19). -/
opaque fusedVersion : Nat

/-- SHA-384 of a byte string (15 R435), as a number; the spec names the function and does not give it (log 19). -/
opaque sha384 : List Byte → Nat

/-- The fused hash of the firmware signing key (15 R435; log 19). -/
opaque fusedKeyHash : Nat

/-- Whether an ECDSA P-384 signature over the signed bytes verifies under a public key (15 R435; log 19). -/
opaque ecdsaValid : List Byte → List Byte → List Byte → Bool

/-- Whether a staged image asks for the minimum security version to be raised (15 R440); the spec gives no bit for it
(log 19). -/
opaque raiseAsked : List Byte → Bool

/-- A special-function value whose rounding the bounded search did not decide (09 R279, R280; log 20). -/
opaque specialValue : Nat → Nat → Word

/-- Firmware's answer to a management request (15 R440; log 21). -/
opaque pldmAnswer : Nat → Word

/-- Which reading a request for a sensor asks for: 0 CLKSTEP, from 1 the error-log counts of the 128 clusters, from 129 those of the four dies,
133 the power cap, above them one that the model does not hold (15 R440; log 21). -/
opaque pldmSensor : Nat → Nat

/-- The value of OP of a flit, by a number of its kind (16 R444; log 22). -/
opaque flitOp : Nat → BitVec 4

/-- Byte `i` of the payload of a flit of a kind, by what it carries: an address, a length and data (16 R444; log 22). -/
opaque flitByte : Nat → Nat → Nat → List Byte → Nat → Byte

/-- Whether a DRAM device reports a high temperature in the lull that starts at a tick (14 R420; log 24). -/
opaque hotReport : Nat → Bool

/-- The hottest junction in degrees Celsius in the sweep of the lull that starts at a tick (15 R438; log 24). -/
opaque junction : Nat → Nat

/-- Ticks by which the housekeeping of the lull that should end at a tick runs over (14 R424; log 24). -/
opaque overrunTicks : Nat → Nat

/-- Die-to-die links, as 8·d + e, whose retraining failed in the long lull that ends at a tick (14 R402; log 24). -/
opaque failedLinks : Nat → List Nat

/-- Brulos ports whose retraining failed in the long lull that ends at a tick (16 R446; log 24). -/
opaque failedPorts : Nat → List Nat

/-- Whether the reply that the free counter numbers comes back marked by a full router (13 R369; log 79). -/
opaque replyMarked : Nat → Bool

/-- A value that the spec calls undefined and names nowhere else, by the free counter (log 7). -/
opaque freeWord : Nat → Word

end Sys2Proof.Config
end

