-- ==== Sys2Proof/Machine/State.lean ====
section
/-! DEFINITION. The state of the package as plain data, the reasons a step can stop, and the state after a package reset.
The model keeps one strand in focus (`me`, the context whose turn it is) and every other context that differs from an
unbound one in `others` (log 1). Registers that firmware or the host reaches by address live in `fw`, keyed by address. -/

namespace Sys2Proof.Machine

open Sys2Proof

/-- A sparse table: key and value pairs with rising keys, none holding the table's default value. -/
abbrev NMap (α : Type) := List (Nat × α)

/-- The bytes of every memory of the package (log 5): a physical address below 2^52; the TCM of package core `c` at
2^52 + 2^17·c; the SRAM of package cluster `c` at 2^53 + 2^21·c. -/
abbrev Memory := List Host.Cell

/-- Privilege levels (01 R19). -/
inductive Priv | app | sup | fw
  deriving DecidableEq, Repr

/-- What a parked strand waits for (05 R170, 06 R192, 10 R293, 11 R343, 14 R423). -/
inductive Park | waitmsg | barw (k : Nat) | lullw (since : Nat) | grant (z : Bool) (d : Reg) (req : Word) (sh : BitVec 5)
  | relocate
  /-- A firmware call that a save interrupted (03 R111). -/
  | firmwareCall
  /-- A stop on an uncorrectable register error, kept through a save (05 R181). -/
  | stopped
  deriving DecidableEq, Repr

/-- Why a context was saved, RECINFO.WHY (01 R36). -/
inductive Why | preempt | squall | move | tenantSwitch | handlerFault
  deriving DecidableEq, Repr

/-- Where a context stands (05 R151, R178 to R182, 06 R205, 04 R140, R148, 03 R116). -/
inductive Run
  /-- No strand is bound. -/
  | unbound
  /-- Bound and running. -/
  | running
  /-- Parked. -/
  | parked (p : Park)
  /-- A save has begun and SAVE_COMPLETE is due. -/
  | saving (w : Why)
  /-- Saved; waits to be resumed. -/
  | suspended (w : Why)
  /-- Lane groups are assigned and RESTORE_COMPLETE is due. -/
  | restoring (w : Why)
  /-- Halted for a debugger. -/
  | halted
  /-- A firmware call is with firmware (03 R111). -/
  | firmwareCall
  /-- EXIT has issued and its waits run (03 R116). -/
  | exiting
  /-- A grant has its lane groups and waits for its result (06 R194). -/
  | granting (z : Bool) (d : Reg) (req : Word) (sh : BitVec 5) (g : Nat)
  /-- MTENTER waits to complete (10 R293). -/
  | entering (gang : Nat)
  /-- Stopped by an uncorrectable register error (05 R181). -/
  | stopped
  deriving DecidableEq, Repr

/-- The control registers of a strand (01 R21). STATUS, VT, SHAPE, VQSTAT and RNSCFG words are computed from the fields. -/
structure Ctl where
  /-- ES 0x001. -/
  es : BitVec 32
  /-- SEED 0x002. -/
  seed : Word
  /-- SBASE 0x003. -/
  sbase : Word
  /-- FFLAGS 0x004: NV DZ OF UF NX. -/
  fflags : BitVec 5
  /-- FRM 0x005. -/
  frm : BitVec 3
  /-- IFLAGS 0x006: DZ RC RG OV. -/
  iflags : BitVec 4
  /-- RNSCFG 0x007: OVTRAP RCTRAP EN. -/
  rnscfg : BitVec 10
  /-- TROWS 0x008. -/
  trows : BitVec 7
  /-- TCOLS 0x009. -/
  tcols : BitVec 7
  /-- VL 0x400. -/
  vl : BitVec 32
  /-- VT 0x401. -/
  vt : BitVec 12
  /-- LG 0x402. -/
  lg : BitVec 4
  /-- SHAPE 0x403: SCALED VRF NREG. -/
  shape : BitVec 6
  /-- VQSTAT.SQL. -/
  sql : Bool
  /-- TENANT 0x411. -/
  tenant : TenantNo
  /-- PART 0x412. -/
  part : BitVec 4
  /-- IDX0 0x430. -/
  idx0 : Word
  /-- IDX1 0x431. -/
  idx1 : Word
  /-- IDX2 0x432. -/
  idx2 : Word
  /-- IDX3 0x433. -/
  idx3 : Word
  /-- STATUS.PLD. -/
  pld : Reg
  /-- STATUS.PLDV. -/
  pldv : Bool
  /-- STATUS.LD, the last destination (01 R27). -/
  ld : Reg
  /-- STATUS.LDV. -/
  ldv : Bool
  /-- STATUS.RCHK. -/
  rchk : Bool
  /-- STATUS.MT. -/
  mt : Bool
  /-- STATUS.MOVE. -/
  move : Bool
  /-- STATUS.PPRIV. -/
  ppriv : Priv
  /-- STATUS.PRIV. -/
  priv : Priv
  /-- TVEC 0x801. -/
  tvec : Word
  /-- EPC 0x802. -/
  epc : Word
  /-- CAUSE 0x803. -/
  cause : BitVec 7
  /-- TVAL 0x804. -/
  tval : Word
  /-- TVAL2 0x805. -/
  tval2 : Word
  deriving DecidableEq, Repr

/-- The vector context of a strand (01 R15, R28 to R30; 10 R291), keyed by word, bit and cell. -/
structure Vec where
  /-- Word `w` of `vn` at key 65536·n + w. -/
  regs : NMap Word
  /-- Bit `i` of `mn` at key 2^20·n + i. -/
  masks : NMap Bool
  /-- Cell (i, j) of `tn` at key 4096·n + 64·i + j. -/
  tiles : NMap Word
  /-- The guard weight of `tn` at key n. -/
  weights : NMap Nat
  /-- Uncorrectable words of the vector registers (12 R355). -/
  regPoison : NMap Bool
  /-- Syndromes of register words planted by a diagnostic store (12 R362). -/
  regSynd : NMap Byte
  /-- Uncorrectable tile cells. -/
  tilePoison : NMap Bool
  /-- The physical lane groups of grant numbers 0, 1, … (06 R185). -/
  lanes : List Nat
  deriving DecidableEq, Repr

/-- A fault found by a queued instruction at an element, waiting to be taken as a trap (04 R143). -/
structure QFault where
  /-- The element or step index written to ES. -/
  at_ : Nat
  /-- The cause code before 0x40 is added. -/
  cause : Nat
  /-- TVAL. -/
  tval : Word
  /-- TVAL2. -/
  tval2 : Word
  deriving DecidableEq, Repr

/-- A rechecked slot step that has not committed (12 R348): its element range, how many executions are done, and its operand
buffer. -/
structure RStep where
  /-- First element of the step. -/
  lo : Nat
  /-- First element above it. -/
  hi : Nat
  /-- When its first execution started: the counter of free values then (12 R348). -/
  at_ : Nat
  /-- Executions made. -/
  runs : Nat
  /-- Logical lanes whose first two executions disagreed. -/
  bad : List Nat
  /-- Those of them in which no two of three executions agreed. -/
  split : List Nat
  /-- The step's source words, as stored word and value. -/
  src : List (Nat × Word)
  /-- The first result: the destination's words, as stored word and value. -/
  res : List (Nat × Word)
  deriving DecidableEq, Repr

/-- A vector queue entry: the instruction with everything it captured at issue (01 R22, R36, R37; 10 R299). -/
structure QEntry where
  /-- The model's own: its number, by which outstanding element accesses name it. -/
  id : Nat
  /-- The operation. -/
  op : VOp
  /-- The encoding. -/
  raw : Words
  /-- The first captured scalar operand. -/
  x : Word
  /-- The second captured scalar operand. -/
  y : Word
  /-- First element at issue (01 R23). -/
  first : Nat
  /-- First element or step not yet committed. -/
  next : Nat
  /-- First element or step not yet started (06 R196). -/
  started : Nat
  /-- VL at issue. -/
  vl : Nat
  /-- VT at issue. -/
  vt : BitVec 12
  /-- FRM at issue. -/
  frm : BitVec 3
  /-- SEED at issue. -/
  seed : Word
  /-- SBASE at issue. -/
  sbase : Word
  /-- RNSCFG at issue. -/
  rns : BitVec 10
  /-- TROWS at issue. -/
  trows : Nat
  /-- TCOLS at issue. -/
  tcols : Nat
  /-- STATUS.RCHK at issue. -/
  rchk : Bool
  /-- PART at issue (03 R106). -/
  part : BitVec 4
  /-- Codebook tables that indices below a bound still read: steps started before a CBLOAD replaced them (09 R284). -/
  oldTables : List (Nat × NMap (BitVec 16))
  /-- The chaining sequencer has the entry (06 R196). -/
  handed : Bool
  /-- A BARV arrival that has counted, or a fence or progress write that has been made. -/
  done : Bool
  /-- A fault found at its element. -/
  fault : Option QFault
  /-- Rechecked steps waiting for their further executions. -/
  recheck : List RStep
  /-- The L1 generation at which the accesses of its next step left the cluster, when DRAM holds them (04 R122, 14 R421). -/
  left : Option (BitVec 16) := none
  deriving DecidableEq, Repr

/-- The kinds of place an access can reach (01 R31, 14 R403). -/
inductive PlaceKind | tcm | sram | dram | msc | dieBar | doorbell | coll | save | host | remote
  deriving DecidableEq, Repr

/-- A resolved location: where an access performs, its memory key, and what the leaf gave it (13 R387). -/
structure Place where
  /-- The kind of place. -/
  kind : PlaceKind
  /-- The memory key or physical address. -/
  key : Nat
  /-- The leaf's key ID. -/
  keyId : Nat
  /-- The access may use the cluster L1. -/
  cached : Bool
  /-- The access may allocate in caches (13 R385) and leave a replica (13 R372). -/
  alloc : Bool
  /-- The leaf permits replicas: W = 0, MIG = 0, class 0 to 2 (13 R372). -/
  replica : Bool
  /-- The class lets L2 slices and the memory-side cache allocate the line (13 R385). -/
  fills : Bool
  deriving DecidableEq, Repr

/-- A write-queue entry (03 R87). -/
structure WEntry where
  /-- The model's own: its number, by which strands that have read it name it (04 R120). -/
  id : Nat
  /-- The generic address stored to. -/
  addr : Word
  /-- Its parts: a place and the bytes for it (03 R84). -/
  parts : List (Place × List Byte)
  /-- 0 queued, 1 sent and accepted, 2 waiting for replica invalidations, 3 performed at every place, 4 performed at the places of
  this package while another node's acknowledgement is out. -/
  stage : Nat
  /-- The body encoding, for the error log (13 R399). -/
  raw : Nat
  /-- PART at issue (03 R106). -/
  part : BitVec 4
  /-- Its writes to other nodes that have not been acknowledged: tag and physical address (16 R449, R450). -/
  tags : List (Nat × Nat)
  /-- The model's own: when it was sent, in the order in which the L1 accepted stores (03 R87). -/
  sent : Nat
  deriving DecidableEq, Repr

/-- What an outstanding scalar access does. -/
inductive Access
  /-- A load of `len` bytes, sign-extended or not. -/
  | load (len : Nat) (signed : Bool)
  /-- An AMO or SWAP of `len` bytes. -/
  | amo (len : Nat) (op : VAmoOp) (x : Word)
  /-- A CAS of `len` bytes. -/
  | cas (len : Nat) (cmp x : Word)
  deriving DecidableEq, Repr

/-- What an outstanding access belongs to. -/
inductive Owner
  /-- The scalar instruction at the program counter. -/
  | scalar
  /-- Element `i` of the queue entry numbered `e`. -/
  | elem (e i : Nat)
  /-- Element `i` of the copy in stream slot `q`. -/
  | slot (q i : Nat)
  deriving DecidableEq, Repr

/-- What a fault of a scalar access whose data is still out takes back, since it is precise (03 R88, R92). -/
structure Back where
  /-- The program counter of the access. -/
  pc : Word
  /-- The control registers as the access issued, with the flags that earlier work has raised since. -/
  ctl : Ctl
  /-- TRIGGER had issued (03 R115). -/
  trigIssued : Bool
  /-- Registers that later instructions have written, with what they held, newest first. -/
  undo : List (Reg × Word)
  deriving DecidableEq, Repr

/-- A load or atomic that waits for its data (03 R87, R91, R92, 15 R433, 16 R448). -/
structure Pend where
  /-- The model's own: the counter of free values as it issued; what has issued later has a higher number. -/
  id : Nat
  /-- The L1 generation as it issued, by which its fill is tagged (04 R122, 11 R323). -/
  gen : BitVec 16
  /-- Whose it is. -/
  owner : Owner
  /-- Destination register of a scalar access. -/
  d : Reg
  /-- Generic address. -/
  addr : Word
  /-- Its parts not yet read, with their lengths. -/
  parts : List (Place × Nat)
  /-- The bytes read so far. -/
  got : List Byte
  /-- What it does. -/
  acc : Access
  /-- Its order. -/
  order : Order
  /-- Its scope. -/
  scope : Scope
  /-- The tag of the request sent to the host or to another node; none while none is out. -/
  tag : Option Nat
  /-- The cause code with which it failed. -/
  fail : Option Nat
  /-- PART at issue (03 R106). -/
  part : BitVec 4
  /-- The body encoding, for the error log (13 R399). -/
  raw : Nat
  /-- What a fault of a scalar access takes back; none for the other accesses. -/
  back : Option Back
  deriving DecidableEq, Repr

/-- A stream slot's state (11 R324). -/
inductive SlotPhase | free | busy | done
  deriving DecidableEq, Repr

/-- The forms of VSTREAM (11 R325). -/
inductive StreamForm | ldv | stv | lds | sts | ldb | stb
  deriving DecidableEq, Repr

/-- A stream slot (11 R324 to R339). -/
structure Slot where
  /-- FREE, BUSY or DONE. -/
  phase : SlotPhase
  /-- The form of the copy. -/
  form : StreamForm
  /-- The body encoding. -/
  body : BitVec 32
  /-- The vector register or the register that named the SRAM address. -/
  d : Reg
  /-- s[a] as captured. -/
  a : Word
  /-- s[b] as captured. -/
  b : Word
  /-- s[d] as captured. -/
  sd : Word
  /-- VL as captured. -/
  vl : Nat
  /-- VT as captured. -/
  vt : BitVec 12
  /-- The barrier of an arriving slot. -/
  arrive : Option (BitVec 5)
  /-- COUNT: elements or bytes done. -/
  count : Nat
  /-- STATUS of the completion (11 R333). -/
  status : Nat
  /-- Clipped elements. -/
  clip : Nat
  /-- FFLAGS raised (11 R332). -/
  ffl : BitVec 5
  /-- Of those, the flags not yet merged into the strand's FFLAGS (11 R335, R339). -/
  unmerged : BitVec 5
  /-- PART at issue (03 R106). -/
  part : BitVec 4
  /-- The completion message has still to enter the share. -/
  msgDue : Bool
  /-- It is a copy to a collective page, and so an arriving slot from its issue on (16 R452, R454): the collective has started once `box`
  holds its descriptor. -/
  coll : Bool
  /-- Vector queue entries older than the copy that have not completed (11 R327, 04 R132). -/
  ahead : Nat
  /-- The handle entry and the box descriptor as read (11 R331), or a collective's descriptor (16 R452). -/
  box : List Byte
  /-- Bytes of the element group in progress: read so far by a load, still to be written by a box store (11 R337). -/
  buf : List Byte
  /-- A collective's members once all have come, its own with the elements read so far (16 R453). -/
  members : List Member
  /-- The copy has ended; it becomes DONE at STREAM_COPY_DONE (11 R324). -/
  ended : Bool
  deriving DecidableEq, Repr

/-- A message waiting in a share (05 R164). -/
structure Msg where
  /-- The header as RECV delivers it. -/
  header : Word
  /-- The payload. -/
  payload : Word
  /-- The scope at which its delivery acquires (05 R174). -/
  scope : Scope
  deriving DecidableEq, Repr

/-- Whose write to another node it is. -/
inductive Poster
  /-- That of the vector queue entry numbered `e`. -/
  | vector (e : Nat)
  /-- The stream engine's, for slot `q`. -/
  | engine (q : Nat)
  deriving DecidableEq, Repr

/-- A write to another node that has not been acknowledged (16 R449). -/
structure Posted where
  /-- The tag of its request. -/
  tag : Nat
  /-- The physical address written to. -/
  addr : Nat
  /-- Whose it is. -/
  own : Poster
  deriving DecidableEq, Repr

/-- A store of the cluster that the strand read before it had reached its home (04 R120): a cluster mate's, or its own that one of its
vector instructions read. -/
structure Seen where
  /-- The number of the store. -/
  store : Nat
  /-- Its vector stream read it. -/
  vec : Bool
  /-- When: the counter of free values at the read, or the number of the queue entry that read it. -/
  at_ : Nat
  deriving DecidableEq, Repr

/-- A grant form that has passed Allocate and waits (06 R191, R205). -/
structure GrantHold where
  /-- The lane groups that Allocate gave it; none for a release. -/
  lanes : List Nat
  /-- The request to which the mark that it consumed was attached. -/
  first : Option Tid
  deriving DecidableEq, Repr

/-- A mark of the allocator (06 R203). -/
structure Mark where
  /-- Lane groups to keep. -/
  target : Nat
  /-- The allocator's clock when it was set (06 R205). -/
  since : Nat
  /-- The waiting request it is attached to. -/
  attached : Option Tid
  deriving DecidableEq, Repr

/-- A strand context: the strand bound to it and what its core and cluster hold for it (01 R15). -/
structure Strand where
  /-- Where the context stands. -/
  run : Run
  /-- The park kept through a save, RECINFO.PARK (01 R36, R38). -/
  park : Option Park
  /-- Program counter. -/
  pc : Word
  /-- s0 to s31; s0 is never read or written (01 R16). -/
  regs : Vector Word 32
  /-- Control registers. -/
  ctl : Ctl
  /-- Vector context. -/
  vec : Vec
  /-- Vector queue, oldest first. -/
  queue : List QEntry
  /-- Stream slots q0 to q3. -/
  slots : Vector Slot 4
  /-- Write queue, oldest first (03 R87). -/
  writes : List WEntry
  /-- Outstanding scalar accesses, oldest first. -/
  pend : List Pend
  /-- SENDs that wait for their release (05 R172): header and payload. -/
  sends : List (Word × Word)
  /-- Vector and engine writes to other nodes that have not been acknowledged (16 R449). -/
  posted : List Posted
  /-- Stores of the cluster that the strand has read in the L1 and that have not reached their home (04 R120). -/
  seen : List Seen
  /-- Messages waiting in the share, oldest first (05 R165). -/
  msgs : List Msg
  /-- Messages of the message block of a strand that was saved away, which enter the share as it resumes (05 R176). -/
  block : List Msg
  /-- Mailbox reservations held (05 R165). -/
  resv : Nat
  /-- The store at this program counter has found the write queue full: the number of the entry that was the oldest, for which it
  waits (03 R87). -/
  fullAt : Option (Word × Nat)
  /-- The allocator's mark. -/
  mark : Option Mark
  /-- The launch the instance belongs to (14 R408). -/
  launch : Option Nat
  /-- TRIGGER has issued (03 R115). -/
  trigIssued : Bool
  /-- The counter of free values when it issued: accesses with a lower number are earlier ones. -/
  trigAt : Nat
  /-- The trigger mark has counted. -/
  trigCounted : Bool
  /-- Held until firmware releases it (12 R351, R355). -/
  held : Bool
  /-- DBGCTL.HALTED is `run = halted`; HCAUSE (05 R178). -/
  hcause : BitVec 3
  /-- DBGCTL.STEP. -/
  step : Bool
  /-- DBGCTL.HALTREQ. -/
  haltreq : Bool
  /-- DBGCTL.BRKEN. -/
  brken : Bool
  /-- DBGCTL.ATTACH. -/
  attach : Bool
  /-- Lane groups held when it was saved (01 R36). -/
  savedLg : Nat
  /-- A grant form that has passed Allocate and waits at issue (06 R191, R205). -/
  grant : Option GrantHold
  /-- The fetch buffer: a physical address div 32 and its 32 bytes (05 R154). -/
  fbuf : Option (Nat × List Byte)
  /-- The allocator's clock from which its park or halt counts: when it began, when the save that it went through ended, or, in Relocate,
  when another began to wait (06 R205, log 55). -/
  parkedAt : Nat
  /-- The allocator's clock when its request or resume began to wait (06 R204). -/
  waitAt : Nat
  deriving DecidableEq, Repr

/-- A barrier of a cluster (11 R340). -/
structure Barrier where
  /-- ACTIVE. -/
  active : Bool
  /-- Owning tenant. -/
  owner : TenantNo
  /-- Participants. -/
  count : Nat
  /-- Arrivals of the phase. -/
  arrived : Nat
  /-- Wait marks by context of the cluster. -/
  wait : BitVec 64
  /-- Done marks by context of the cluster. -/
  done : BitVec 64
  deriving DecidableEq, Repr

/-- A line of a cache that is not kept coherent: the cluster L1 (11 R321) or an instruction cache (05 R152). -/
structure Line where
  /-- The way. -/
  way : Nat
  /-- The line number, address div 64. -/
  tag : Nat
  /-- The generation it was filled in (04 R122); zero in an instruction cache. -/
  gen : Nat
  /-- Its 64 bytes. -/
  data : List Byte
  /-- Syndromes of its words whose check bits disagree with their data, by word (12 R354, R362). -/
  synd : NMap Byte
  deriving DecidableEq, Repr

/-- A line of an L2 slice (13 R371) or of the memory-side cache (13 R383). Its bytes are those of memory (log 68). -/
structure CacheLine where
  /-- The way. -/
  way : Nat
  /-- The line number, address div 64. -/
  tag : Nat
  /-- It has writes that its memory does not have. -/
  dirty : Bool
  /-- PART of the access that allocated it. -/
  part : Nat
  /-- The key ID it is tagged with (13 R381). -/
  keyId : Nat
  /-- The syndrome of its tag, zero when the tag and its check bits agree (13 R397). -/
  tagSynd : Byte := 0
  deriving DecidableEq, Repr

/-- A TLB entry: the leaf of one page of one tenant (13 R389). -/
structure TlbEntry where
  /-- Tenant. -/
  tenant : Nat
  /-- VA[47:16], or VA[47:29] for a 512 MiB leaf. -/
  vpn : Nat
  /-- A 512 MiB leaf. -/
  big : Bool
  /-- The whole leaf. -/
  leaf : Word
  deriving DecidableEq, Repr

/-- A reply that came back to a cluster, by where its mark comes from: the MARK bit of another node's flit (16 R444), or the routers of
this package, by the free counter (13 R369; log 79). -/
inductive Reply where
  | flit (marked : Bool)
  | own (n : Nat)
  deriving DecidableEq, Repr

/-- The state of a cluster beyond its registers. -/
structure Cluster where
  /-- Barriers by number. -/
  barriers : NMap Barrier
  /-- The loaded codebook table, as the difference from the default table by entry (07 R222, 09 R283). -/
  codebook : NMap (BitVec 16)
  /-- L1 generation GEN (11 R323). -/
  gen : BitVec 16
  /-- L1 lines by set, most recently used first (11 R321). -/
  l1 : NMap (List Line)
  /-- Cluster TLB by set, 128 sets of base pages and 128 of 512 MiB leaves, most recent first (13 R389). -/
  tlb : NMap (List TlbEntry)
  /-- Lane-group TLBs by physical lane group, most recent first (13 R389). -/
  laneTlb : NMap (List TlbEntry)
  /-- Suspended strands, in the order in which they were suspended (06 R201). -/
  suspended : List Tid
  /-- Waiting VGRANTs and MTENTERs, in the order in which they began to wait (06 R201). -/
  waiting : List Tid
  /-- The allocator's clock when requests or resumes began to wait after none did (06 R205). -/
  reqAt : Nat
  /-- SRAM ways in use as L1 (11 R319). -/
  l1Ways : Nat
  /-- Groups to be fenced at the end of the lull for a second mark or a marked spare (12 R361). -/
  fenceNext : BitVec 8
  /-- Groups whose spare is being copied (12 R361). -/
  copying : BitVec 8
  /-- Groups that are fenced once their holder has been saved (12 R361). -/
  fencing : BitVec 8
  /-- The slot the stream engine served last, 4·context + slot (11 R338). -/
  engine : Nat
  /-- A diagnostic store is due (12 R362). -/
  diagDue : Bool
  /-- Words of lane storage that no strand's context lies in and whose check bits disagree with their data: the data and the syndrome,
  keyed by `strayKey` (12 R355, R362). -/
  stray : NMap (Word × Byte)
  /-- Replies since package reset, the last first: CWIN follows from them (13 R369). -/
  replies : List Reply
  deriving DecidableEq, Repr

/-- The state of a core beyond its contexts. -/
structure Core where
  /-- The context that issued last (05 R150). -/
  pointer : Nat
  /-- Instruction-cache lines by set, most recent first (05 R152). -/
  icache : NMap (List Line)
  /-- The tenant whose scratchpad the core holds (05 R160). -/
  owner : Option TenantNo
  /-- The largest TCMSIZE of that tenant's launches on the core (14 R414). -/
  tcmSize : Nat
  deriving DecidableEq, Repr

/-- A launch (14 R408 to R414). -/
structure Launch where
  /-- Its number. -/
  id : Nat
  /-- The queue it came from. -/
  queue : Nat
  /-- QCTL.TENANT as it started. -/
  tenant : TenantNo
  /-- QCTL.PART as it started. -/
  part : BitVec 4
  /-- Packet index. -/
  index : Nat
  /-- Packet words 0 to 15. -/
  words : List Word
  /-- The argument bytes. -/
  args : List Byte
  /-- Effective priority (06 R201). -/
  prio : Nat
  /-- The package cluster of each cluster group, in linear order. -/
  groups : List Nat
  /-- Instances per cluster group. -/
  perGroup : Nat
  /-- Groups placed. -/
  placed : Nat
  /-- Instances that have exited. -/
  exited : Nat
  /-- Instances that count as triggered. -/
  triggered : Nat
  /-- It has ended, by completion or by SCHCMD OP 5. -/
  ended : Bool
  deriving DecidableEq, Repr

/-- How far the command processor stands with a queue (14 R409). -/
inductive CpState
  /-- Nothing to do, or waiting for QNOTIFY. -/
  | idle
  /-- The packet's VALID bit was clear: the queue waits for a store to QNOTIFY. -/
  | waiting
  /-- The packet and its arguments have been read and checked: the queue waits for the launch before it. -/
  | held (words : List Word) (args : List Byte)
  /-- The clear of the packet's VALID bit has been sent. -/
  | clearing
  deriving DecidableEq, Repr

/-- What travels between cores (05 R166, R167). -/
inductive NetKind | message | ack | bounce (reason : Nat)
  deriving DecidableEq, Repr

/-- A message, acknowledgement or bounce in flight. -/
structure Net where
  /-- What it is. -/
  kind : NetKind
  /-- The header as sent. -/
  header : Word
  /-- The payload as sent. -/
  payload : Word
  /-- The sending context. -/
  src : Tid
  /-- The sender's tenant. -/
  tenant : TenantNo
  deriving DecidableEq, Repr

/-- Where the lull sequencer stands (14 R421). -/
inductive LullPhase | clear | drain | lull
  deriving DecidableEq, Repr

/-- What a lull has to do at its end (14 R420, R424). -/
structure Chores where
  /-- It is a long lull: links and ports that failed to retrain go out of service (14 R402, 16 R446). -/
  long : Bool
  /-- The clock runs long enough in it for a pending mark to be dealt with (12 R361). -/
  qual : Bool
  /-- It is a hot lull outside the high-temperature calendar, which takes effect after its end. -/
  hotSeen : Bool
  /-- It is a long lull that found no device hot: the high-temperature calendar ends with it. -/
  cool : Bool
  /-- The hottest junction of its sweep (15 R438). -/
  sweep : Option Nat
  /-- A change of clock step is due: CLKSTEP.REQ as its drain began (15 R437). -/
  relock : Option (BitVec 2)
  deriving DecidableEq, Repr

/-- The lull sequencer (14 R420 to R424). -/
structure Lull where
  /-- Outside a drain, in one, or in a lull. -/
  phase : LullPhase
  /-- Start of the next lull not yet begun. -/
  start : Nat
  /-- Scheduled end of the span in progress, or of the next one. -/
  stop : Nat
  /-- Scheduled end of the lull in progress. -/
  ends : Nat
  /-- The tick at which the overrun in progress ends; zero when none is. -/
  late : Nat
  /-- The lull in progress has had an overrun. -/
  overrun : Bool
  /-- The high-temperature calendar is in force. -/
  hot : Bool
  /-- The tick at which the high-temperature calendar takes effect. -/
  hotFrom : Option Nat
  /-- Overruns since package reset. -/
  overruns : Nat
  /-- TIME at which the most recent span, or overrun, ended. -/
  lastEnd : Nat
  /-- Spans that have ended. -/
  spans : Nat
  /-- The span in progress, or in its drain, holds a long lull: the links are held (14 R421). -/
  spanLong : Bool
  /-- What the lull in progress, or in its drain, has to do at its end. -/
  work : Chores
  /-- What lulls have to do at the end of their overrun, in which a later lull has started, oldest first (14 R424). -/
  lateWork : List Chores
  /-- The drain of the next lull has begun in the lull in progress or its overrun, with which it forms one span. -/
  joined : Bool
  /-- CLKSTEP.REQ as that drain began, when a change of clock step is due in the next lull (15 R437). -/
  nextRelock : Option (BitVec 2)
  deriving DecidableEq, Repr

/-- A change of clock step is due in the lull in progress, or in its drain (15 R437). -/
def Lull.stepDue (l : Lull) : Bool := l.work.relock.isSome

/-- A Brulos port (16 R445). -/
structure Port where
  /-- Flits kept until they are acknowledged, oldest first. -/
  unacked : List Flit
  /-- Flits that wait for the link. -/
  waiting : List Flit
  /-- SEQ of the next flit to send. -/
  nextSeq : BitVec 12
  /-- SEQ expected next. -/
  expect : BitVec 12
  /-- The link is not trained, or the peer's retraining holds it down (15 R436, 16 R442, R446). -/
  down : Bool
  /-- Link-control flits sent, oldest first (16 R445). -/
  control : List Flit
  deriving DecidableEq, Repr

/-- What has left through the host port: posted writes, each with the strand whose it is, the tenant and the body encoding for the
error log (13 R399), requests and MSI-X messages. `fn` is the requesting function (15 R433). -/
inductive HostOut
  | write (fn addr : Nat) (data : List Byte) (who : Option Tid) (tenant raw : Nat)
  | read (fn tag addr len : Nat)
  | atomic (fn tag addr len : Nat) (op : Option VAmoOp) (x cmp : Word)
  | msix (fn vector : Nat)
  | thermtrip
  | pldm (answer : Word)
  deriving DecidableEq, Repr

/-- A store that an L2 slice has accepted and whose line only DRAM holds, in a drain or a lull: the slice fetches the line, merges the
store and allocates it once DRAM serves again (13 R371, 14 R421). -/
structure Merge where
  /-- PART of the store. -/
  part : Nat
  /-- Its physical address. -/
  addr : Nat
  /-- Its key ID. -/
  keyId : Nat
  /-- The class lets the slice allocate the line (13 R385). -/
  fills : Bool
  /-- The strand that issued it, for the error log (13 R399). -/
  who : Option Tid
  /-- Its body encoding, for the error log. -/
  raw : Nat
  deriving DecidableEq, Repr

/-- Whose request a doubleword in the host's memory or on another node is. -/
inductive FarOwner
  /-- A step of the command processor or of the host port, which is looked at again when everything it asked for has come. -/
  | step (e : Event)
  /-- A posted write of the host through a function that serves this tenant (15 R430, R431). -/
  | posted (f tenant : Nat)
  deriving DecidableEq, Repr

/-- Up to eight bytes that the command processor or a request of the host has asked of the host or of another node (14 R409,
15 R430). -/
structure FarWord where
  /-- Whose request it is. -/
  owner : FarOwner
  /-- Its generic address. -/
  addr : Word
  /-- It is written. -/
  write : Bool
  /-- The tag of its request, doubled, and one more for another node. -/
  tag : Nat
  /-- Its answer once it has come: what was read, or none for a failure. -/
  answer : Option (Option (List Byte))
  deriving DecidableEq, Repr

/-- The state of the system die and the package beyond its registers. -/
structure Sys where
  /-- The allocators' clock: clocks outside lull drains and lulls (06 R205). -/
  pool : Nat
  /-- Launches that have not ended and been reported, oldest first. -/
  launches : List Launch
  /-- The number of the next launch. -/
  nextLaunch : Nat
  /-- The command processor's standing with each queue. -/
  cp : NMap CpState
  /-- Tenants switched off the package: nothing of theirs is placed (14 R417, R419). -/
  closed : List Nat
  /-- Clusters that tenants have been switched off, as cluster and tenant: nothing of theirs is placed there (14 R417). -/
  closedAt : List (Nat × Nat)
  /-- Functions whose function-level reset waits for their tenant's switch (15 R434). -/
  flr : List Nat
  /-- Strands saved away from their context, with the TID they had (05 R176). -/
  saved : List (Tid × Strand)
  /-- Core scratchpads of tenants switched off, key 32·core + tenant (05 R160). -/
  savedTcm : NMap (List Byte)
  /-- Poisoned words of the scratchpads and windows in `savedTcm`, as word numbers, with the same keys. -/
  savedPoison : NMap (List Nat)
  /-- Barriers of tenants switched off: cluster, barrier and its state (11 R345). -/
  savedBarriers : List (Nat × Nat × Barrier)
  /-- Lull sequencer. -/
  lull : Lull
  /-- Key material of slots 1 to 127, zero when empty (14 R405). -/
  keys : NMap Nat
  /-- KEYDATA0 to KEYDATA7 as written. -/
  keyData : NMap Word
  /-- The slot of the key installation in progress, or of the last one (14 R405). -/
  keySlot : Nat
  /-- The system die's TLB, most recent first (13 R390). -/
  tlb : List TlbEntry
  /-- A scheduler operation in progress (14 R417). -/
  schOp : Option Word
  /-- Decrements of completion signals sent to the host or to another node: the request's tag, doubled, and one more for another
  node; and the launch (14 R410). -/
  signals : List (Nat × Nat)
  /-- Requests of the host, of other nodes and of the command processor that a key installation, a conversion, a drain or a lull
  holds, each with the counter of free values as it arrived (13 R384, 14 R405, R421). -/
  kept : List (Nat × Event)
  /-- What the command processor and requests of the host have asked of the host and of other nodes, oldest first. -/
  far : List FarWord
  /-- The firmware event queue of control core 0, oldest first (14 R425). -/
  events : List (Word × Word)
  /-- The package is in the fatal state (14 R426). -/
  fatal : Bool
  /-- The package has power (15 R438, R439). -/
  power : Bool
  /-- The strand with a vector instruction of order sc some of whose elements have performed (04 R130). -/
  scRun : Option Tid
  /-- Die-to-die links out of service, as 8·d + e (14 R402). -/
  linksDown : List Nat
  /-- Link replays of the current short-lull period, key 4·die + port (13 R400). -/
  replays : NMap Nat
  /-- Links and ports to retrain at the next long lull: key as in `replays`, or 16 + p. -/
  retrain : List Nat
  /-- TLB invalidations in progress, by die (13 R391). -/
  tlbinv : NMap Bool
  /-- Migration channels whose redirection is active, 4·die + n (13 R392). -/
  migrating : List Nat
  /-- Row-activate hints on their way: the physical addresses (13 R382). -/
  racts : List Nat
  /-- Lines whose DRAM requests the controllers hold over a drain and a lull, oldest first (14 R421). -/
  dramHeld : List Nat
  /-- Stores in the merge buffers of L2 slices whose lines DRAM holds, oldest first (13 R371, 14 R421). -/
  merges : List Merge
  /-- Open rows by bank number, as row + 1 (13 R380). -/
  rows : NMap Nat
  /-- Replica vectors by line (13 R372). -/
  replicas : NMap (BitVec 4)
  /-- Lines and replicas of the L2 slices, most recently used first, by set over the package (13 R370 to R372). -/
  l2 : NMap (List CacheLine)
  /-- Lines of the memory-side caches, most recently used first, by set over the package (13 R383). -/
  msc : NMap (List CacheLine)
  /-- L2RSV.WAYS in force, by die, as the difference from 2 (13 R371). -/
  l2Reserved : NMap (BitVec 2)
  /-- L2WOFF in force, by die (13 R400). -/
  l2Off : NMap (BitVec 12)
  /-- What left through the host port, oldest first. -/
  hostOut : List HostOut
  /-- The bytes that the last read by the host or by firmware returned, and whether it failed. -/
  reply : List Byte
  /-- The last host request completed with an error: 1 Completer Abort, 2 Unsupported Request. -/
  replyError : Nat
  /-- Brulos ports. -/
  ports : NMap Port
  /-- Requests delivered to this node, oldest first. -/
  inbound : List Flit
  /-- The loaded firmware's body and ENTRY (15 R435). -/
  firmware : List Byte × Nat
  /-- An image staged by PLDM (15 R440). -/
  staged : List Byte
  /-- The fused minimum security version as raised by PLDM above the fuse of Config. -/
  raised : Nat
  /-- MCTP endpoint ID. -/
  eid : BitVec 8
  /-- Power cap in watts (15 R440). -/
  cap : Nat
  deriving DecidableEq, Repr

/-- The package. -/
structure State where
  /-- The context whose turn it is. -/
  tid : Tid
  /-- The strand context in focus. -/
  me : Strand
  /-- Every other context that differs from an unbound one, by TID. -/
  others : NMap Strand
  /-- Bytes. -/
  mem : Memory
  /-- Poisoned words, by memory key div 8 (13 R397). -/
  poison : NMap Bool
  /-- Syndromes of words whose check bits disagree with their data (12 R354). -/
  synd : NMap Byte
  /-- Key material under which each DRAM line was last written, zero for plaintext (13 R381). -/
  lineKey : NMap Nat
  /-- Registers reached by address, as the difference from their reset value, by address div 8. -/
  fw : NMap Word
  /-- Clusters by package number. -/
  clusters : NMap Cluster
  /-- Cores by package number. -/
  cores : NMap Core
  /-- System die and package. -/
  sys : Sys
  /-- Messages in flight, oldest first. -/
  net : List Net
  /-- TIME. -/
  time : Nat
  /-- CYCLE. -/
  cycle : Nat
  /-- The model's own: steps due and inputs from outside, first to happen first (log 8). -/
  agenda : List Event
  /-- The words of the instruction in execution, as fetched (02 R56). -/
  ir : Words
  /-- The model's own: issued work completes in its issue step (log 10). -/
  eager : Bool
  /-- The model's own: the counter that free values are drawn at (log 7). -/
  fresh : Nat
  deriving DecidableEq, Repr

/-- Why a run stops with a fault. Every trap of the spec is a next state; these are the stops of the model. -/
inductive Fault
  /-- An event or instruction ran while the package has no power (15 R439: it keeps no state). Raised by POWER_LOSS
  aftermath; safe. -/
  | noPower
  deriving DecidableEq, Repr

/-- Why the model has no meaning for a step. -/
inductive Refusal
  /-- No meaning has been written for the instruction. Raised by an arm of `exec`; safe. -/
  | notModelled (mnemonic : String)
  deriving DecidableEq, Repr

/-- Control registers at reset (01 R21); the values of 'launch' and of contexts with no strand are zero (log 6). -/
def Ctl.reset : Ctl :=
  { es := 0, seed := 0, sbase := 0, fflags := 0, frm := 0, iflags := 0, rnscfg := 0x0FF, trows := 64, tcols := 64,
    vl := 0, vt := 0, lg := 0, shape := 0, sql := false, tenant := 0, part := 0, idx0 := 0, idx1 := 0, idx2 := 0,
    idx3 := 0, pld := 0, pldv := false, ld := 0, ldv := false, rchk := false, mt := false, move := false,
    ppriv := .app, priv := .app, tvec := 0, epc := 0, cause := 0, tval := 0, tval2 := 0 }

/-- No vector context (01 R28). -/
def Vec.empty : Vec :=
  { regs := [], masks := [], tiles := [], weights := [], regPoison := [], regSynd := [], tilePoison := [], lanes := [] }

/-- A FREE slot whose STATUS and COUNT read zero (11 R324). -/
def Slot.empty : Slot :=
  { phase := .free, form := .ldv, body := 0, d := 0, a := 0, b := 0, sd := 0, vl := 0, vt := 0, arrive := none,
    count := 0, status := 0, clip := 0, ffl := 0, unmerged := 0, part := 0, msgDue := false, coll := false, ahead := 0, box := [], buf := []
    members := [], ended := false }

/-- A context with no strand. -/
def Strand.unbound : Strand :=
  { run := .unbound, park := none, pc := 0, regs := Vector.replicate 32 0, ctl := Ctl.reset, vec := Vec.empty,
    queue := [], slots := Vector.replicate 4 Slot.empty, writes := [], pend := [], sends := [], posted := [], msgs := [], block := [], resv := 0,
    seen := [], fullAt := none, mark := none, launch := none, trigIssued := false, trigAt := 0, trigCounted := false, held := false, hcause := 0, step := false,
    haltreq := false, brken := false, attach := false, savedLg := 0, grant := none, fbuf := none, parkedAt := 0, waitAt := 0 }

/-- A barrier at reset (11 R340). -/
def Barrier.reset : Barrier := { active := false, owner := 0, count := 0, arrived := 0, wait := 0, done := 0 }

/-- A cluster at reset. -/
def Cluster.reset : Cluster :=
  { barriers := [], codebook := [], gen := 0, l1 := [], tlb := [], laneTlb := [], suspended := [], waiting := [], reqAt := 0,
    l1Ways := 8, fenceNext := 0, copying := 0, fencing := 0, engine := 255, diagDue := false, stray := [], replies := [] }

/-- A core at reset: the pointer is 3 (05 R150). -/
def Core.reset : Core := { pointer := 3, icache := [], owner := none, tcmSize := 0 }

/-- A lull that has nothing to do at its end. -/
def Chores.none : Chores := { long := false, qual := false, hotSeen := false, cool := false, sweep := Option.none, relock := Option.none }

/-- The lull sequencer at TIME 0: the long lull that starts at 0 is due, and with the short lull at 7,680 it forms one span
that ends at 8,640 (14 R420). -/
def Lull.reset : Lull :=
  { phase := .drain, start := 0, stop := 8640, ends := 0, late := 0, overrun := false, hot := false, hotFrom := none, overruns := 0
    lastEnd := 0, spans := 0, spanLong := true, work := Chores.none, lateWork := [], joined := false, nextRelock := none }

/-- A Brulos port at reset: not trained, so that it carries no flits (15 R436, 16 R442). -/
def Port.reset : Port := { unacked := [], waiting := [], nextSeq := 0, expect := 0, down := true, control := [] }

/-- The system die at reset (15 R434). -/
def Sys.reset : Sys :=
  { pool := 0, launches := [], nextLaunch := 0, cp := [], closed := [], closedAt := [], flr := [], saved := [], savedTcm := [], savedPoison := [], savedBarriers := [], lull := Lull.reset,
    keys := [], keyData := [], keySlot := 0, tlb := [], schOp := none, signals := [], kept := [], far := [], events := [], fatal := false, power := true, scRun := none, linksDown := [],
    replays := [], retrain := [], tlbinv := [], migrating := [], racts := [], dramHeld := [], merges := [], rows := [], replicas := [], l2 := [], msc := [],
    l2Reserved := [], l2Off := [], hostOut := [], reply := [], replyError := 0, ports := [], inbound := [],
    firmware := ([], 0), staged := [], raised := 0, eid := 0, cap := 1800 }

/-- The package right after a package reset (15 R434). -/
def State.reset : State :=
  { tid := 0, me := Strand.unbound, others := [], mem := [], poison := [], synd := [], lineKey := [], fw := [],
    clusters := [], cores := [], sys := Sys.reset, net := [], time := 0, cycle := 0, agenda := [], ir := .event, eager := true,
    fresh := 0 }

end Sys2Proof.Machine
end

