-- ==== Sys2Proof/Machine/NMap.lean ====
section
/-! DEFINITION. Reading and writing the sparse tables and the byte memory: entries with rising keys, none equal to the
value that an unlisted key reads as. -/

namespace Sys2Proof.Machine

open Sys2Proof

/-- The value at key `k`, `d` when it is not listed. -/
def NMap.get {α : Type} (d : α) : NMap α → Nat → α
  | [], _ => d
  | (j, v) :: r, k => if k < j then d else if k = j then v else NMap.get d r k

/-- The table with `v` at key `k`; a default value is not listed. -/
def NMap.set {α : Type} [DecidableEq α] (d : α) : NMap α → Nat → α → NMap α
  | [], k, v => if v = d then [] else [(k, v)]
  | (j, w) :: r, k, v =>
    if k < j then (if v = d then (j, w) :: r else (k, v) :: (j, w) :: r)
    else if k = j then (if v = d then r else (j, v) :: r)
    else (j, w) :: NMap.set d r k v

/-- Every key is at least `n`, keys rise and no value is the default. -/
def NMap.wfFrom {α : Type} [DecidableEq α] (d : α) : Nat → NMap α → Bool
  | _, [] => true
  | n, (j, v) :: r => decide (n ≤ j) && !decide (v = d) && NMap.wfFrom d (j + 1) r

/-- The canonical form of a table. -/
def NMap.wf {α : Type} [DecidableEq α] (d : α) (m : NMap α) : Bool := NMap.wfFrom d 0 m

/-- The table without the keys that satisfy `p`. -/
def NMap.dropWhere {α : Type} (p : Nat → Bool) (m : NMap α) : NMap α := m.filter fun e => !p e.1

/-- What an unlisted byte of memory reads as (log 4). -/
def unlistedByte : Byte := 0

/-- The byte at key `k`. -/
def Memory.byte (m : Memory) (k : Nat) : Byte := NMap.get unlistedByte m k

/-- The memory with byte `v` at key `k`. -/
def Memory.setByte (m : Memory) (k : Nat) (v : Byte) : Memory := NMap.set unlistedByte m k v

/-- The canonical form of memory: keys rise and no listed byte equals an unlisted one. -/
def Memory.wf (m : Memory) : Bool := NMap.wf unlistedByte m

/-- `n` bytes from key `k` upward. -/
def Memory.bytes (m : Memory) (k : Nat) : Nat → List Byte
  | 0 => []
  | n + 1 => m.byte k :: Memory.bytes m (k + 1) n

/-- The memory with the bytes `bs` from key `k` upward. -/
def Memory.setBytes (m : Memory) (k : Nat) : List Byte → Memory
  | [] => m
  | b :: bs => Memory.setBytes (m.setByte k b) (k + 1) bs

/-- Every byte of `n` from key `k` upward at its unlisted value. -/
def Memory.clear (m : Memory) (k n : Nat) : Memory := m.filter fun c => !(decide (k ≤ c.1) && decide (c.1 < k + n))

/-- A little-endian number (01 R17). -/
def leNat : List Byte → Nat
  | [] => 0
  | b :: bs => b.toNat + 256 * leNat bs

/-- The `n` low bytes of a number, least significant first. -/
def natLe : Nat → Nat → List Byte
  | _, 0 => []
  | v, n + 1 => BitVec.ofNat 8 v :: natLe (v / 256) n

end Sys2Proof.Machine
end

