-- ==== Sys2Proof/Machine/Ops.lean ====
section
/-! DEFINITION. The named operations over strands, registers and control: reading and writing the state's parts, moving past
an instruction, taking an exception and returning from one. -/

namespace Sys2Proof.Machine

open Sys2Proof

/-- What a meaning answers. -/
abbrev Result := Host.Outcome State Fault Refusal

/-- The `len` bits of `w` from bit `lo` upward, as a number. -/
def fld (w : Word) (lo len : Nat) : Nat := (w.toNat >>> lo) % 2 ^ len

/-- Bit `k` of `w`. -/
def bitOf (w : Word) (k : Nat) : Bool := w.getLsbD k

/-- `w` with the `len` bits from `lo` upward replaced by those of `v`. -/
def setFld (w : Word) (lo len v : Nat) : Word :=
  let m : Word := BitVec.ofNat 64 ((2 ^ len - 1) <<< lo)
  (w &&& ~~~m) ||| (BitVec.ofNat 64 (v <<< lo) &&& m)

/-- `w` with bit `k` set to `b`. -/
def setBit (w : Word) (k : Nat) (b : Bool) : Word := setFld w k 1 b.toNat

/-- The word of a number, modulo 2^64. -/
abbrev word (n : Nat) : Word := BitVec.ofNat 64 n

/-! ### Strands, clusters and cores -/

/-- Some strand is bound to the context. -/
def Strand.bound (x : Strand) : Bool := !decide (x.run = .unbound)

/-- The context with number `t`. -/
def State.strand (s : State) (t : Tid) : Strand :=
  if t = s.tid then s.me else NMap.get Strand.unbound s.others t.toNat

/-- The state with context `t` replaced. -/
def State.setStrand (s : State) (t : Tid) (x : Strand) : State :=
  if t = s.tid then { s with me := x } else { s with others := NMap.set Strand.unbound s.others t.toNat x }

/-- The state with context `t` in focus. -/
def State.focus (s : State) (t : Tid) : State :=
  if t = s.tid then s
  else
    { s with
      tid := t
      me := NMap.get Strand.unbound s.others t.toNat
      others := NMap.set Strand.unbound (NMap.set Strand.unbound s.others t.toNat Strand.unbound) s.tid.toNat s.me }

/-- Context `t` changed by `f`. -/
def State.onStrand (s : State) (t : Tid) (f : Strand → Strand) : State := s.setStrand t (f (s.strand t))

/-- The focused context changed by `f`. -/
def State.onMe (s : State) (f : Strand → Strand) : State := { s with me := f s.me }

/-- The contexts that hold a strand, in ascending order. -/
def State.boundTids (s : State) : List Tid :=
  let os := (s.others.filter fun e => e.2.bound).map fun e => BitVec.ofNat 13 e.1
  let lo := os.filter fun t => decide (t.toNat < s.tid.toNat)
  let hi := os.filter fun t => decide (s.tid.toNat < t.toNat)
  if s.me.bound then lo ++ s.tid :: hi else lo ++ hi

/-- The contexts of cluster `c` that hold a strand. -/
def State.clusterTids (s : State) (c : Nat) : List Tid := s.boundTids.filter fun t => decide (t.cluster = c)

/-- Cluster `c`. -/
def State.cluster (s : State) (c : Nat) : Cluster := NMap.get Cluster.reset s.clusters c

/-- Cluster `c` changed by `f`. -/
def State.onCluster (s : State) (c : Nat) (f : Cluster → Cluster) : State :=
  { s with clusters := NMap.set Cluster.reset s.clusters c (f (s.cluster c)) }

/-- Core `c`. -/
def State.core (s : State) (c : Nat) : Core := NMap.get Core.reset s.cores c

/-- Core `c` changed by `f`. -/
def State.onCore (s : State) (c : Nat) (f : Core → Core) : State :=
  { s with cores := NMap.set Core.reset s.cores c (f (s.core c)) }

/-- The system die changed by `f`. -/
def State.onSys (s : State) (f : Sys → Sys) : State := { s with sys := f s.sys }

/-- A follow-up step added to the agenda (log 8). -/
def State.push (s : State) (e : Event) : State := { s with agenda := s.agenda ++ [e] }

/-- Follow-up steps that come before everything else on the agenda. -/
def State.pushFront (s : State) (es : List Event) : State := { s with agenda := es ++ s.agenda }

/-- A list ordered by a number of its members; those with one number keep their order. -/
def sortBy {α : Type} (key : α → Nat) (l : List α) : List α := l.foldr (fun x r => insert x r) []
where
  /-- A member put before the first with its number or a higher one. -/
  insert (x : α) : List α → List α
    | [] => [x]
    | y :: r => if key x ≤ key y then x :: y :: r else y :: insert x r

/-- Follow-up steps added to the agenda. -/
def State.pushAll (s : State) (es : List Event) : State := { s with agenda := s.agenda ++ es }

/-- A value that the spec leaves undefined (log 7). -/
def State.free (s : State) : Word × State := (Config.freeWord s.fresh, { s with fresh := s.fresh + 1 })

/-! ### Scalar and control registers -/

/-- A scalar register as an instruction reads it: s0 reads zero (01 R16). -/
def Strand.reg (x : Strand) (r : Reg) : Word := if r = 0 then 0 else x.regs[r.toNat]

/-- A scalar register written: a write to s0 is discarded (01 R16). -/
def Strand.setReg (x : Strand) (r : Reg) (v : Word) : Strand :=
  if r = 0 then x else { x with regs := x.regs.set r.toNat v }

/-- A scalar register of the strand in focus. -/
def State.reg (s : State) (r : Reg) : Word := s.me.reg r

/-- A scalar register of the strand in focus written. -/
def State.setReg (s : State) (r : Reg) (v : Word) : State := s.onMe fun x => x.setReg r v

/-- The control registers of the strand in focus changed. -/
def State.onCtl (s : State) (f : Ctl → Ctl) : State := s.onMe fun x => { x with ctl := f x.ctl }

/-- The vector context of the strand in focus changed. -/
def State.onVec (s : State) (f : Vec → Vec) : State := s.onMe fun x => { x with vec := f x.vec }

/-- The last destination after an instruction that writes `d` or, for `none`, no scalar register (01 R27). -/
def Ctl.noteDest (c : Ctl) (d : Option Reg) : Ctl :=
  match d with
  | some r => if r = 0 then { c with ldv := false } else { c with ld := r, ldv := true }
  | none => { c with ldv := false }

/-- The program counter with bit 0 clear (02 R40). -/
def evenPc (w : Word) : Word := w &&& ~~~1

/-- Past an instruction of `len` bytes that wrote `d` (01 R27). -/
def State.retire (s : State) (len : Nat) (d : Option Reg) : State :=
  s.onMe fun x => { x with pc := x.pc + word len, ctl := x.ctl.noteDest d }

/-- `d` written and the instruction of `len` bytes left behind. -/
def State.writeReg (s : State) (len : Nat) (d : Reg) (v : Word) : State := (s.setReg d v).retire len (some d)

/-- `d` written by a class V instruction of the scalar stream, which leaves no last destination valid (01 R27). -/
def State.writeRegV (s : State) (len : Nat) (d : Reg) (v : Word) : State := (s.setReg d v).retire len none

/-- A jump that wrote `d`. -/
def State.jump (s : State) (target : Word) (d : Option Reg) : State :=
  s.onMe fun x => { x with pc := evenPc target, ctl := x.ctl.noteDest d }

/-- Flags ORed into FFLAGS and IFLAGS. -/
def Ctl.raise (c : Ctl) (f : BitVec 5) (g : BitVec 4) : Ctl := { c with fflags := c.fflags ||| f, iflags := c.iflags ||| g }

/-- Flags ORed into FFLAGS and IFLAGS of a strand (01 R24), and into what a fault of an access in progress gives back: the
instructions that issued after it take their part of that away again (`Strand.noteUndo`). -/
def Strand.raise (x : Strand) (f : BitVec 5) (g : BitVec 4) : Strand :=
  { x with
    ctl := x.ctl.raise f g
    pend := x.pend.map fun p => { p with back := p.back.map fun b => { b with ctl := b.ctl.raise f g } } }

/-- Flags ORed into FFLAGS (01 R24). -/
def State.raiseF (s : State) (f : BitVec 5) : State := s.onMe fun x => x.raise f 0

/-- Flags ORed into IFLAGS. -/
def State.raiseI (s : State) (f : BitVec 4) : State := s.onMe fun x => x.raise 0 f

/-- IFLAGS.DZ. -/
def iflagDZ : BitVec 4 := 8
/-- IFLAGS.RC. -/
def iflagRC : BitVec 4 := 4
/-- IFLAGS.RG. -/
def iflagRG : BitVec 4 := 2
/-- IFLAGS.OV. -/
def iflagOV : BitVec 4 := 1

/-- The code of a privilege level (01 R19). -/
def Priv.code : Priv → Nat
  | .app => 0 | .sup => 1 | .fw => 3

/-- The level with a code; the reserved code stands for none. -/
def Priv.ofCode : Nat → Option Priv
  | 0 => some .app | 1 => some .sup | 3 => some .fw | _ => none

/-- The strand in focus runs at application level. -/
def State.isApp (s : State) : Bool := decide (s.me.ctl.priv = .app)

/-! ### The single order of sc accesses (04 R130) -/

/-- A vector memory instruction of order sc (04 R130). -/
def opIsSc : VOp → Bool
  | .load _ _ _ _ _ _ o | .store _ _ _ _ _ _ o | .amo _ _ _ _ _ _ o => decide (o = .sc)
  | _ => false

/-- No element of a vector instruction of order sc of context `t` follows the last that has performed: accesses of order sc that waited
for it go on. -/
def State.scDone (s : State) (t : Tid) : State :=
  if s.sys.scRun = some t then
    let s1 := s.onSys fun y => { y with scRun := none }
    s1.pushAll ((s1.boundTids.filter fun u => ((s1.strand u).queue.any fun q => opIsSc q.op)
      || (s1.strand u).pend.any fun p => decide (p.order = .sc)).map fun u => .sequencerHandoff u)
  else s

/-! ### Exceptions -/

/-- A trap: cause code, TVAL and TVAL2 (04 R138). -/
structure Trap where
  /-- Cause code. -/
  cause : Nat
  /-- TVAL. -/
  tval : Word
  /-- TVAL2. -/
  tval2 : Word
  deriving DecidableEq, Repr

/-- TVAL of a trap that reports the encoding (02 R56): the words as fetched. -/
def Words.enc : Words → Word
  | .w16 w => w.setWidth 64
  | .w32 w => w.setWidth 64
  | .w64 p w => (w ++ p : BitVec 64)
  | .event => 0

/-- A trap whose TVAL is the encoding of the instruction in execution. -/
def State.encTrap (s : State) (cause : Nat) : Trap := ⟨cause, Words.enc s.ir, 0⟩

/-- Illegal instruction (04 R138). -/
def State.illegal (s : State) : Trap := s.encTrap 0x02
/-- Privilege violation. -/
def State.privViolation (s : State) : Trap := s.encTrap 0x03
/-- Illegal vector configuration. -/
def State.badVec (s : State) : Trap := s.encTrap 0x04

/-- Trap entry: steps 3 to 5 of 04 R142, with the last destination saved by 01 R27. -/
def Strand.enterTrap (x : Strand) (epc : Word) (t : Trap) : Strand :=
  { x with
    fullAt := none
    pc := x.ctl.tvec
    ctl := { x.ctl with
      epc := epc, cause := BitVec.ofNat 7 t.cause, tval := t.tval, tval2 := t.tval2
      ppriv := x.ctl.priv, priv := .sup
      pld := x.ctl.ld, pldv := x.ctl.ldv, ldv := false } }

/-- The instruction at the program counter of the strand in focus traps (04 R142): its held queue goes no further. -/
def State.takeTrap (s : State) (t : Trap) : State := (s.scDone s.tid).onMe fun x => x.enterTrap x.pc t

/-- The answer of an instruction that traps. -/
def State.trap (s : State) (t : Trap) : Result := .next (s.takeTrap t)

/-- A queued instruction of context `t` traps: steps 5 and 6 of 04 R143. A parked strand issues its instruction afresh. -/
def State.takeQueuedTrap (s : State) (t : Tid) (f : QFault) : State :=
  s.onStrand t fun x =>
    let x := { x with
      run := (match x.run with
        | .parked _ => .running
        | .exiting => .running
        | .granting .. => .running
        | .entering _ => .running
        | r => r)
      park := none
      grant := none
      ctl := { x.ctl with es := BitVec.ofNat 32 f.at_ } }
    x.enterTrap x.pc ⟨f.cause + 0x40, f.tval, f.tval2⟩

/-- Return from a trap: 03 R113, 01 R27. -/
def Strand.eret (x : Strand) : Strand :=
  { x with
    pc := evenPc x.ctl.epc
    ctl := { x.ctl with priv := x.ctl.ppriv, ppriv := .app, ld := x.ctl.pld, ldv := x.ctl.pldv } }

end Sys2Proof.Machine
end

