-- ==== Sys2Proof/Machine/Regs.lean ====
section
/-! DEFINITION. The physical address map (14 R403) and the registers that firmware and the host reach by address: their
addresses, their reset values, reading and writing them as plain words. -/

namespace Sys2Proof.Machine

open Sys2Proof

/-- A region of the physical address map, with the offset in it (14 R403). -/
inductive Region
  | hbm (d o : Nat) | cap (d o : Nat) | mscsp (d o : Nat) | dieBar (d o : Nat) | doorbell (q o : Nat) | coll (o : Nat)
  | save (o : Nat) | remote (n va : Nat) | host (h : Nat) | alloc (c o : Nat) | dieCtl (d o : Nat) | sysCtl (o : Nat)
  | bar0 (f o : Nat) | bar2 (f o : Nat) | msixCtl (f : Nat) | unassigned
  deriving DecidableEq, Repr

/-- The region of a physical address. The host's windows BAR0 and BAR2 of the functions, and the MSI-X Message Control words of their
configuration spaces, stand at model addresses of their own (log 5). -/
def region (pa : Nat) : Region :=
  if pa < 0x8000000000 then .hbm (pa / 0x2000000000) (pa % 0x2000000000)
  else if 0x100000000000 ≤ pa ∧ pa < 0x120000000000 then
    .cap ((pa - 0x100000000000) / 0x8000000000) ((pa - 0x100000000000) % 0x8000000000)
  else if 0x200000000000 ≤ pa ∧ pa < 0x200008000000 then
    .mscsp ((pa - 0x200000000000) / 0x2000000) ((pa - 0x200000000000) % 0x2000000)
  else if 0x210000000000 ≤ pa ∧ pa < 0x210000040000 then
    .dieBar ((pa - 0x210000000000) / 0x10000) (pa % 0x10000)
  else if 0x220000000000 ≤ pa ∧ pa < 0x220001000000 then
    .doorbell ((pa - 0x220000000000) / 0x10000) (pa % 0x10000)
  else if 0x220001000000 ≤ pa ∧ pa < 0x220001010000 then .coll (pa % 0x10000)
  else if 0x300000000000 ≤ pa ∧ pa < 0x300020000000 then .save (pa - 0x300000000000)
  else if 0x4000000000000 ≤ pa ∧ pa < 0x8000000000000 then
    .remote ((pa - 0x4000000000000) / 2 ^ 42) ((pa - 0x4000000000000) % 2 ^ 42)
  else if 0x8000000000000 ≤ pa ∧ pa < 0xF000000000000 then .host (pa - 0x8000000000000)
  else if 0xF000000000000 ≤ pa ∧ pa < 0xF000000800000 then
    .alloc ((pa - 0xF000000000000) / 0x10000) (pa % 0x10000)
  else if 0xF000100000000 ≤ pa ∧ pa < 0xF000100040000 then
    .dieCtl ((pa - 0xF000100000000) / 0x10000) (pa % 0x10000)
  else if 0xF000200000000 ≤ pa ∧ pa < 0xF000200010000 then .sysCtl (pa % 0x10000)
  else if 0xF000300000000 ≤ pa ∧ pa < 0xF000300200000 then
    .bar0 ((pa - 0xF000300000000) / 0x10000) (pa % 0x10000)
  else if 0xF000400000000 ≤ pa ∧ pa < 0xF000402000000 then
    .bar2 ((pa - 0xF000400000000) / 0x100000) (pa % 0x100000)
  else if 0xF000500000000 ≤ pa ∧ pa < 0xF000500000100 then .msixCtl ((pa - 0xF000500000000) / 8)
  else .unassigned

/-- The allocator block of package cluster `c`. -/
def allocBlock (c : Nat) : Nat := 0xF000000000000 + 0x10000 * c
/-- The die control block of die `d`. -/
def dieBlock (d : Nat) : Nat := 0xF000100000000 + 0x10000 * d
/-- The system control block. -/
def sysBlock : Nat := 0xF000200000000
/-- The function registers of function `f` (15 R429). -/
def bar0Block (f : Nat) : Nat := 0xF000300000000 + 0x10000 * f
/-- The doorbell slots of function `f` (15 R429). -/
def bar2Block (f : Nat) : Nat := 0xF000400000000 + 0x100000 * f
/-- The doorbell page of queue `q` (14 R407). -/
def doorbellPage (q : Nat) : Nat := 0x220000000000 + 0x10000 * q
/-- The line of die barrier `b` of die `d` (13 R395). -/
def dieBarLine (d b : Nat) : Nat := 0x210000000000 + 0x10000 * d + 64 * b

/-- LADL (06 R202). -/
def rLadl (c : Nat) : Nat := allocBlock c
/-- LAQT0 or LAQT1 (06 R202). -/
def rLaqt (c i : Nat) : Nat := allocBlock c + 0x008 + 8 * i
/-- LASTAT; its REJ bit is held (06 R202). -/
def rLastat (c : Nat) : Nat := allocBlock c + 0x020
/-- CBOWN (09 R283). -/
def rCbown (c : Nat) : Nat := allocBlock c + 0x040
/-- RNSOFF (10 R312). -/
def rRnsoff (c : Nat) : Nat := allocBlock c + 0x048
/-- CSPLIT (11 R319). -/
def rCsplit (c : Nat) : Nat := allocBlock c + 0x050
/-- CFENCE (05 R182). -/
def rCfence (c : Nat) : Nat := allocBlock c + 0x058
/-- HTBASEt (11 R329). -/
def rHtbase (c t : Nat) : Nat := allocBlock c + 0x100 + 8 * t
/-- CL1PMp (11 R321). -/
def rCl1pm (c p : Nat) : Nat := allocBlock c + 0x200 + 8 * p
/-- LGSTATp (12 R360). -/
def rLgstat (c p : Nat) : Nat := allocBlock c + 0x300 + 8 * p
/-- ERRCFG (12 R359). -/
def rErrcfg (c : Nat) : Nat := allocBlock c + 0x340
/-- ELOGHEAD (12 R356). -/
def rEloghead (c : Nat) : Nat := allocBlock c + 0x348
/-- ELOGTAIL (12 R356). -/
def rElogtail (c : Nat) : Nat := allocBlock c + 0x350
/-- DINJ (12 R363). -/
def rDinj (c : Nat) : Nat := allocBlock c + 0x358
/-- DSADDR (12 R362). -/
def rDsaddr (c : Nat) : Nat := allocBlock c + 0x360
/-- DSDATA (12 R362). -/
def rDsdata (c : Nat) : Nat := allocBlock c + 0x368
/-- DSCHK (12 R362). -/
def rDschk (c : Nat) : Nat := allocBlock c + 0x370
/-- RCNTp (12 R365). -/
def rRcnt (c p : Nat) : Nat := allocBlock c + 0x380 + 8 * p
/-- LECNTp (12 R358). -/
def rLecnt (c p : Nat) : Nat := allocBlock c + 0x3C0 + 8 * p
/-- DBGSEL (15 R441). -/
def rDbgsel (c : Nat) : Nat := allocBlock c + 0x600
/-- CSWINt (11 R320). -/
def rCswin (c t : Nat) : Nat := allocBlock c + 0x1400 + 8 * t
/-- L2PMp (13 R371). -/
def rL2pm (d p : Nat) : Nat := dieBlock d + 8 * p
/-- L2RSV (13 R371). -/
def rL2rsv (d : Nat) : Nat := dieBlock d + 0x080
/-- L2WOFF (13 R400). -/
def rL2woff (d : Nat) : Nat := dieBlock d + 0x088
/-- MSCPMp (13 R384). -/
def rMscpm (d p : Nat) : Nat := dieBlock d + 0x100 + 8 * p
/-- MSCSP (13 R384). -/
def rMscsp (d : Nat) : Nat := dieBlock d + 0x180
/-- PTROOTt (13 R386). -/
def rPtroot (d t : Nat) : Nat := dieBlock d + 0x200 + 8 * t
/-- TLBINV (13 R391). -/
def rTlbinv (d : Nat) : Nat := dieBlock d + 0x300
/-- MIGSRCn (13 R392). -/
def rMigsrc (d n : Nat) : Nat := dieBlock d + 0x400 + 32 * n
/-- MIGDSTn (13 R392). -/
def rMigdst (d n : Nat) : Nat := dieBlock d + 0x408 + 32 * n
/-- MIGCTLn (13 R392). -/
def rMigctl (d n : Nat) : Nat := dieBlock d + 0x410 + 32 * n
/-- DERRCFG (13 R398). -/
def rDerrcfg (d : Nat) : Nat := dieBlock d + 0x500
/-- DLOGHEAD (13 R399). -/
def rDloghead (d : Nat) : Nat := dieBlock d + 0x508
/-- DLOGTAIL (13 R399). -/
def rDlogtail (d : Nat) : Nat := dieBlock d + 0x510
/-- DRADDR (13 R398). -/
def rDraddr (d : Nat) : Nat := dieBlock d + 0x520
/-- DRDATA (13 R398). -/
def rDrdata (d : Nat) : Nat := dieBlock d + 0x528
/-- DRCHK (13 R398). -/
def rDrchk (d : Nat) : Nat := dieBlock d + 0x530
/-- CWINc (13 R369). -/
def rCwin (d c : Nat) : Nat := dieBlock d + 0x600 + 8 * c
/-- KEYCMD (14 R406). -/
def rKeycmd : Nat := sysBlock + 0x40
/-- KEYOWNk (14 R406). -/
def rKeyown (k : Nat) : Nat := sysBlock + 0x80 + 8 * k
/-- QBASEq (14 R406). -/
def rQbase (q : Nat) : Nat := sysBlock + 0x800 + 16 * q
/-- QCTLq (14 R406). -/
def rQctl (q : Nat) : Nat := sysBlock + 0x808 + 16 * q
/-- TVECt (14 R406). -/
def rTvec (t : Nat) : Nat := sysBlock + 0x1800 + 8 * t
/-- SCHQt (14 R406). -/
def rSchq (t : Nat) : Nat := sysBlock + 0x1900 + 8 * t
/-- SCHCMD (14 R406). -/
def rSchcmd : Nat := sysBlock + 0x1A00
/-- LULLCFG (14 R406). -/
def rLullcfg : Nat := sysBlock + 0x1A08
/-- QFNq (15 R428). -/
def rQfn (q : Nat) : Nat := sysBlock + 0x2000 + 8 * q
/-- FNTENf (15 R428). -/
def rFnten (f : Nat) : Nat := sysBlock + 0x2800 + 8 * f
/-- CLKSTEP (15 R437). -/
def rClkstep : Nat := sysBlock + 0x2900
/-- FNODE (16 R442). -/
def rFnode : Nat := sysBlock + 0x2A00
/-- FRTn (16 R442). -/
def rFrt (n : Nat) : Nat := sysBlock + 0x3000 + 8 * n
/-- FPSTATp (16 R442). -/
def rFpstat (p : Nat) : Nat := sysBlock + 0x3800 + 8 * p
/-- FGRPCg (16 R451). -/
def rFgrpc (g : Nat) : Nat := sysBlock + 0x3900 + 8 * g
/-- FGRPNg, its lower or upper word (16 R451). -/
def rFgrpn (g i : Nat) : Nat := sysBlock + 0x3C00 + 16 * g + 8 * i
/-- QNOTIFY of queue `q` (14 R407). -/
def rQnotify (q : Nat) : Nat := doorbellPage q
/-- QRD (14 R407). -/
def rQrd (q : Nat) : Nat := doorbellPage q + 8
/-- QSTAT (14 R407). -/
def rQstat (q : Nat) : Nat := doorbellPage q + 0x10
/-- FNEVT of function `f` (15 R429). -/
def rFnevt (f : Nat) : Nat := bar0Block f + 8
/-- FWADDR (15 R429). -/
def rFwaddr : Nat := bar0Block 0 + 0x40
/-- FWLEN (15 R429). -/
def rFwlen : Nat := bar0Block 0 + 0x48
/-- FWCMD (15 R429). -/
def rFwcmd : Nat := bar0Block 0 + 0x50
/-- A word of an MSI-X table entry: its address or its data and vector control (15 R429, log 18). -/
def rMsix (f k i : Nat) : Nat := bar0Block f + 0x2000 + 16 * k + 8 * i
/-- The MSI-X pending bits (15 R429). -/
def rPba (f : Nat) : Nat := bar0Block f + 0x3000

/-- The MSI-X Message Control word of function `f`: MSI-X Enable in bit 15, Function Mask in bit 14 (15 R432, log 18). -/
def rMsixCtl (f : Nat) : Nat := 0xF000500000000 + 8 * f

/-- IDENT (00 R13). -/
def identValue : Word := 0x00000100A0402100

/-- The reset value of the register at an address: zero but for those the spec gives another. -/
def fwReset (pa : Nat) : Word :=
  match region pa with
  | .alloc _ o =>
    if o = 0 then 2048
    else if o = 0x050 then 8
    else if 0x200 ≤ o ∧ o < 0x280 then 0xFFFF
    else if o = 0x340 then 0x800
    else 0
  | .dieCtl _ o =>
    if o < 0x080 then 0xFFF
    else if o = 0x080 then 2
    else if 0x100 ≤ o ∧ o < 0x180 then 0xFFFF
    else if 0x600 ≤ o ∧ o < 0x700 then 64
    else 0
  | .sysCtl o => if 0x800 ≤ o ∧ o < 0x1800 ∧ o % 16 = 8 then 4 else 0
  | .bar0 _ o => if o = 0 then identValue else if 0x2000 ≤ o ∧ o < 0x2110 ∧ o % 16 = 8 then 0x100000000 else 0
  | _ => 0

/-- The stored word of a register. -/
def State.rd (s : State) (pa : Nat) : Word := NMap.get 0 s.fw (pa / 8) ^^^ fwReset pa

/-- A register's stored word replaced. -/
def State.wr (s : State) (pa : Nat) (v : Word) : State :=
  { s with fw := NMap.set 0 s.fw (pa / 8) (v ^^^ fwReset pa) }

/-- FWCMD.STATUS. -/
def State.fwStatus (s : State) : Nat := fld (s.rd rFwcmd) 0 3

/-- Firmware runs and may answer management requests (15 R436, R440). -/
def State.managed (s : State) : Bool := decide (s.fwStatus = 2) && !s.sys.fatal

/-- A register's stored word changed by `f`. -/
def State.upd (s : State) (pa : Nat) (f : Word → Word) : State := s.wr pa (f (s.rd pa))

/-! ### Firmware events and interrupts -/

/-- A firmware event posted to control core 0 (14 R425). -/
def State.post (s : State) (code source : Nat) (value : Word) : State :=
  s.onSys fun y => { y with events := y.events ++ [(word (code + source * 256), value)] }

/-- A bit of FNEVT set; vector 16 is sent when the register leaves zero (15 R432). -/
def State.setFnevt (s : State) (f : Nat) (k : Nat) : State :=
  let old := s.rd (rFnevt f)
  let s := s.wr (rFnevt f) (setBit old k true)
  if old = 0 then s.push (.msixSend (BitVec.ofNat 5 f) 16) else s

/-- The function that serves tenant `t`, the lowest (15 R433). -/
def State.fnOf (s : State) (t : Nat) : Option Nat :=
  (List.range 32).find? fun f => bitOf (s.rd (rFnten f)) 7 && decide (fld (s.rd (rFnten f)) 0 5 = t)

/-- The function whose requester ID a request of tenant `t` to the host carries (15 R433). -/
def State.hostFn (s : State) (t : Nat) : Nat := (s.fnOf t).getD 0

/-! ### Error logs -/

/-- What a cluster or die error record says (12 R357, 13 R399). -/
structure ErrRec where
  /-- INJ. -/
  inj : Bool
  /-- The strand whose work met the error. -/
  strand : Option Tid
  /-- SEV. -/
  sev : Nat
  /-- UNIT. -/
  unit : Nat
  /-- LGRP, 0xF when none. -/
  lgrp : Nat
  /-- LANE. -/
  lane : Nat
  /-- CHAN. -/
  chan : Nat
  /-- ROLL. -/
  roll : Bool
  /-- SYN. -/
  syn : Nat
  /-- W2. -/
  w2 : Word
  /-- W3. -/
  w3 : Word
  deriving DecidableEq, Repr

/-- W1 of a record (12 R357). -/
def ErrRec.w1 (r : ErrRec) : Word :=
  word (2 ^ 63 + r.inj.toNat * 2 ^ 62 + r.strand.isSome.toNat * 2 ^ 61 + r.sev % 8 * 2 ^ 58 + r.unit % 64 * 2 ^ 52
    + r.lgrp % 16 * 2 ^ 48 + r.lane % 16 * 2 ^ 44 + r.chan % 8 * 2 ^ 41 + r.roll.toNat * 2 ^ 40 + r.syn % 256 * 2 ^ 32
    + (match r.strand with | some t => t.toNat | none => 0))

/-- A record written into the ring at `ring` with the given HEAD and TAIL registers, or counted as lost (12 R356). The
flag says whether it was written. -/
def State.ringRecord (s : State) (ring head tail : Nat) (r : ErrRec) : State × Bool :=
  let h := fld (s.rd head) 0 32
  let t := fld (s.rd tail) 0 32
  if (h + 2 ^ 32 - t) % 2 ^ 32 < 64 then
    let a := ring + 32 * (h % 64)
    let s := (((s.wr a (word s.time)).wr (a + 8) r.w1).wr (a + 16) r.w2).wr (a + 24) r.w3
    (s.upd head fun w => setFld w 0 32 (h + 1), true)
  else
    (s.upd head fun w => setFld w 32 8 (min 255 (fld w 32 8 + 1)), false)

/-- An error record of cluster `c`, with its event (12 R356, 14 R425). -/
def State.logCluster (s : State) (c : Nat) (r : ErrRec) : State :=
  let p := s.ringRecord (allocBlock c + 0x800) (rEloghead c) (rElogtail c) r
  if p.2 then p.1.post 0x01 c (word (fld (p.1.rd (rEloghead c)) 0 32)) else p.1

/-- An error record of die `d`, with its event (13 R399, 14 R425). -/
def State.logDie (s : State) (d : Nat) (r : ErrRec) : State :=
  let p := s.ringRecord (dieBlock d + 0x1000) (rDloghead d) (rDlogtail d) r
  if p.2 then p.1.post 0x02 d (word (fld (p.1.rd (rDloghead d)) 0 32)) else p.1

/-- An access failure that no trap reports: UNIT 0x26, SEV 6 (13 R399). `pa` says that `where_` is a physical address. -/
def accessFailure (tenant : Nat) (pa : Bool) (where_ : Nat) : ErrRec :=
  { inj := false, strand := none, sev := 6, unit := 0x26, lgrp := 15, lane := 0, chan := 0, roll := false, syn := 0
    w2 := if pa then word (2 ^ 63 + where_ % 2 ^ 52) else word (where_ % 2 ^ 48), w3 := word (tenant * 2 ^ 32) }

end Sys2Proof.Machine
end

