-- ==== Sys2Proof/Machine/Caches.lean ====
section
/-! DEFINITION. Which lines the L2 slices and the memory-side caches hold, and what they ask of DRAM (13 R370 to R373, R378, R379,
R381, R383 to R385, R400). The bytes of a line are those of memory (log 68). -/

namespace Sys2Proof.Machine

open Sys2Proof

/-- The home die of a physical address (14 R403); the system die counts as die 0. -/
def homeDie (pa : Nat) : Nat :=
  match region pa with
  | .hbm d _ => d
  | .cap d _ => d
  | .mscsp d _ => d
  | .dieBar d _ => d
  | .save o => o / 2048 % 8192 / 2048
  | _ => 0

/-- The bank of a DRAM address, numbered over the package, and its row (13 R378, R379). -/
def dramRow (pa : Nat) : Option (Nat × Nat) :=
  match region pa with
  | .hbm d o =>
    let pc := (o / 2 ^ 7 % 64) ^^^ (o / 2 ^ 13 % 64)
    some (((d * 2 + o / 64 % 2) * 64 + pc) * 16 + o / 2 ^ 19 % 16, o / 2 ^ 23)
  | .cap d o =>
    let ch := (o / 2 ^ 6 % 32) ^^^ (o / 2 ^ 11 % 32)
    some (2 ^ 20 + (d * 32 + ch) * 16 + o / 2 ^ 16 % 16, o / 2 ^ 20)
  | _ => none

/-! ### Links in a long lull (14 R421) -/

/-- The die-to-die links and the Brulos ports hold a flit until the end of a span with a long lull: requests from its drain, every flit
from its start (14 R421). -/
def State.linksHeld (s : State) (request : Bool) : Bool :=
  s.sys.lull.spanLong && match s.sys.lull.phase with
    | .clear => false
    | .drain => request
    | .lull => true

/-- A request between these dies crosses a link that holds it; none is the system die (14 R401, R421). -/
def State.cutOff (s : State) (from_ to_ : Option Nat) : Bool := s.linksHeld true && !decide (from_ = to_)

/-! ### Sets and ways -/

/-- The L2 slice of an address among the 32 of a die (13 R370). -/
def l2Slice (pa : Nat) : Nat := (pa / 2 ^ 6 % 32) ^^^ (pa / 2 ^ 11 % 32) ^^^ (pa / 2 ^ 16 % 32)

/-- The set of an address in the slices of die `d`, numbered over the package (13 R370). -/
def l2Set (d pa : Nat) : Nat := (d * 32 + l2Slice pa) * 2048 + pa / 2 ^ 11 % 2048

/-- The set of an address in the memory-side cache of die `d`, numbered over the package (13 R383). -/
def mscSet (d pa : Nat) : Nat := d * 32768 + pa / 2 ^ 6 % 32768

/-- The ways of die `d`'s slices that partition `p` may allocate into: those of its mask that are in service and not reserved
for saves (13 R371, R400). -/
def State.l2Ways (s : State) (d p : Nat) : Nat :=
  fld (s.rd (rL2pm d p)) 0 12 % 2 ^ (12 - (NMap.get 0 s.sys.l2Reserved d + 2).toNat) &&& (4095 - (NMap.get 0 s.sys.l2Off d).toNat)

/-- The ways of die `d`'s memory-side cache that partition `p` may allocate into: those of its mask that are not scratchpad
(13 R383, R384). -/
def State.mscWays (s : State) (d p : Nat) : Nat := fld (s.rd (rMscpm d p)) 0 16 % 2 ^ (16 - fld (s.rd (rMscsp d)) 0 5)

/-- The way that a new line takes among `n` ways allowed by `mask`: a free one, else the least recently used. `used` are the
ways in use, most recent first. -/
def wayFor (used : List Nat) (n mask : Nat) : Option Nat :=
  let ok := (List.range n).filter fun k => mask.testBit k
  match ok.find? fun k => !(used.elem k) with
  | some k => some k
  | none => used.reverse.find? fun k => ok.elem k

/-- A set with line `l` most recently used, alone in its way and under its tag. -/
def cachePut (set : List CacheLine) (l : CacheLine) : List CacheLine :=
  l :: set.filter fun (x : CacheLine) => !decide (x.way = l.way) && !decide (x.tag = l.tag)

/-- The line of a set that serves an access to `pa` with this key ID (13 R381). -/
def cacheFind (set : List CacheLine) (pa keyId : Nat) : Option CacheLine :=
  set.find? fun (l : CacheLine) => decide (l.tag = pa / 64) && decide (l.keyId = keyId)

/-- The request that a DRAM controller gets for a line of its memory. -/
def dramAsk (pa : Nat) : List Event := if (dramRow pa).isSome then [.dramAccess (word pa)] else []

/-- The memory side of L2 after the read of a line, or after its write-back when `write` (13 R383, R385): a capacity-tier line
goes through the memory-side cache of its die, where `fills` lets it allocate; a line held under another key is written back
and invalidated first (13 R381). -/
def State.mscAccess (s : State) (part pa keyId : Nat) (fills write : Bool) : State :=
  match region pa with
  | .cap d _ =>
    let k := mscSet d pa
    let set := NMap.get [] s.sys.msc k
    let put := fun (s : State) (x : List CacheLine) => s.onSys fun y => { y with msc := NMap.set [] y.msc k x }
    (match cacheFind set pa keyId with
     | some l => put s (cachePut set { l with dirty := l.dirty || write })
     | none =>
       let old := set.find? fun (l : CacheLine) => decide (l.tag = pa / 64)
       let s1 := match old with
         | some l => if l.dirty then s.pushAll (dramAsk pa) else s
         | none => s
       let rest := set.filter fun (l : CacheLine) => !decide (l.tag = pa / 64)
       match if fills then wayFor (rest.map CacheLine.way) 16 (s.mscWays d part) else none with
       | none => (put s1 rest).pushAll (dramAsk pa)
       | some w =>
         let s2 := if write then s1 else s1.pushAll (dramAsk pa)
         let s3 := match rest.find? fun (l : CacheLine) => decide (l.way = w) with
           | some l => if l.dirty then s2.pushAll (dramAsk (64 * l.tag)) else s2
           | none => s2
         put s3 (cachePut rest { way := w, tag := pa / 64, dirty := write, part := part, keyId := keyId }))
  | _ => s.pushAll (dramAsk pa)

/-- A line of a set of die `d` that gives way: a dirty one is written back by the partition that it carries (13 R371). -/
def State.evict (s : State) (l : CacheLine) : State :=
  if l.dirty then s.mscAccess l.part (64 * l.tag) l.keyId true true else s

/-- Die `d`'s slice allocates a line where its partition's mask permits, and writes the line that gives way back; with no way a
dirty line goes to memory at once. The answer says whether the slice holds the line (13 R371). -/
def State.l2Fill (s : State) (d part pa keyId : Nat) (dirty : Bool) : State × Bool :=
  let k := l2Set d pa
  let rest := (NMap.get [] s.sys.l2 k).filter fun (l : CacheLine) => !decide (l.tag = pa / 64)
  match wayFor (rest.map CacheLine.way) 12 (s.l2Ways d part) with
  | none => (if dirty then s.mscAccess part pa keyId true true else s, false)
  | some w =>
    let s1 := match rest.find? fun (l : CacheLine) => decide (l.way = w) with
      | some l => s.evict l
      | none => s
    (s1.onSys fun y =>
      { y with l2 := NMap.set [] y.l2 k (cachePut rest { way := w, tag := pa / 64, dirty := dirty, part := part, keyId := keyId }) },
     true)

/-- The home slice of `pa` after an access (13 R371): a hit is served whatever the class; a miss reads the line from memory and
allocates it unless the class forbids it; a store that may not allocate is merged and written back at once (13 R385). A line
under another key is written back and invalidated first (13 R381). -/
def State.l2Home (s : State) (part pa keyId : Nat) (fills write : Bool) : State :=
  let d := homeDie pa
  let k := l2Set d pa
  let set := NMap.get [] s.sys.l2 k
  match cacheFind set pa keyId with
  | some l => s.onSys fun y => { y with l2 := NMap.set [] y.l2 k (cachePut set { l with dirty := l.dirty || write }) }
  | none =>
    let s1 := match set.find? fun (l : CacheLine) => decide (l.tag = pa / 64) with
      | some l =>
        (s.evict l).onSys fun y =>
          { y with l2 := NMap.set [] y.l2 k (set.filter fun (x : CacheLine) => !decide (x.tag = pa / 64)) }
      | none => s
    let s2 := s1.mscAccess part pa keyId fills false
    if fills then (s2.l2Fill d part pa keyId write).1
    else if write then s2.mscAccess part pa keyId false true
    else s2

/-- A read of the line of `pa` from die `die`, or from the system die: a replica on that die serves it, else the home, whose
line is at `home` (another address while the page migrates). `copies` says that the reply may leave a replica, which the
reader's slice then allocates and the home's vector names (13 R372); a replica under another key is invalidated first (13 R381). -/
def State.cacheRead (s : State) (die : Option Nat) (part pa home keyId : Nat) (fills copies : Bool) : State :=
  match die with
  | none => s.l2Home part home keyId fills false
  | some d =>
    if d = homeDie pa then s.l2Home part home keyId fills false
    else
      let k := l2Set d pa
      let set := NMap.get [] s.sys.l2 k
      match cacheFind set pa keyId with
      | some l => s.onSys fun y => { y with l2 := NMap.set [] y.l2 k (cachePut set l) }
      | none =>
        let s0 := if set.any fun (l : CacheLine) => decide (l.tag = pa / 64) then
            s.onSys fun y => { y with l2 := NMap.set [] y.l2 k (set.filter fun (l : CacheLine) => !decide (l.tag = pa / 64)) }
          else s
        let s1 := s0.l2Home part home keyId fills false
        if !copies then s1
        else
          match s1.l2Fill d part pa keyId false with
          | (s2, true) =>
            s2.onSys fun y =>
              { y with
                replicas := NMap.set 0 y.replicas (pa / 64) (NMap.get 0 y.replicas (pa / 64) ||| BitVec.ofNat 4 (2 ^ d)) }
          | (s2, false) => s2

/-- An L2 slice serves a read of the line of `pa`: its home's, or a replica on the reader's die. -/
def State.l2Has (s : State) (die : Option Nat) (pa keyId : Nat) : Bool :=
  (cacheFind (NMap.get [] s.sys.l2 (l2Set (homeDie pa) pa)) pa keyId).isSome
    || match die with
      | some d => (cacheFind (NMap.get [] s.sys.l2 (l2Set d pa)) pa keyId).isSome
      | none => false

/-- An L2 slice of the reader's own die serves a read of the line of `pa`. -/
def State.l2Near (s : State) (die : Option Nat) (pa keyId : Nat) : Bool :=
  match die with
  | some d => (cacheFind (NMap.get [] s.sys.l2 (l2Set d pa)) pa keyId).isSome
  | none => false

/-- The line of `pa` is in DRAM alone, whose controllers hold a request for it in a drain or a lull (14 R421). -/
def State.dramHolds (s : State) (die : Option Nat) (pa keyId : Nat) : Bool :=
  !decide (s.sys.lull.phase = .clear) && (dramRow pa).isSome && !s.l2Has die pa keyId
    && match region pa with
      | .cap d _ => (cacheFind (NMap.get [] s.sys.msc (mscSet d pa)) pa keyId).isNone
      | _ => true

/-- A read of the line of `pa` from a die must wait: for DRAM, or for a link to its home (14 R421). -/
def State.lineHeld (s : State) (die : Option Nat) (pa keyId : Nat) : Bool :=
  s.dramHolds die pa keyId || (s.cutOff die (some (homeDie pa)) && !s.l2Near die pa keyId)

/-- A write to the line of `pa` at its home (13 R371). -/
def State.cacheWrite (s : State) (part pa keyId : Nat) (fills : Bool) : State := s.l2Home part pa keyId fills true

/-- The replica of line `l` on die `d` is gone (13 R373). -/
def Sys.dropReplica (y : Sys) (l d : Nat) : Sys :=
  let k := l2Set d (64 * l)
  { y with l2 := NMap.set [] y.l2 k ((NMap.get [] y.l2 k).filter fun (x : CacheLine) => !decide (x.tag = l)) }

/-- Every replica of line `l` is gone and its vector is clear (13 R373). -/
def State.dropReplicas (s : State) (l : Nat) : State :=
  let v := NMap.get 0 s.sys.replicas l
  s.onSys fun y =>
    let y1 := (List.range 4).foldl (fun (y : Sys) d => if v.getLsbD d then y.dropReplica l d else y) y
    { y1 with replicas := NMap.set 0 y1.replicas l 0 }

/-- A table of cache sets without the lines that `gone` names. -/
def cacheDrop (m : NMap (List CacheLine)) (gone : Nat → CacheLine → Bool) : NMap (List CacheLine) :=
  (m.map fun (e : Nat × List CacheLine) => (e.1, e.2.filter fun l => !gone e.1 l)).filter fun e => !e.2.isEmpty

/-- The dirty ones of the lines that `gone` names. -/
def cacheDirty (m : NMap (List CacheLine)) (gone : Nat → CacheLine → Bool) : List CacheLine :=
  m.flatMap fun (e : Nat × List CacheLine) => e.2.filter fun l => l.dirty && gone e.1 l

/-- The lines that `gone` names written back to DRAM and invalidated in every L2 slice and memory-side cache (14 R405,
13 R398). -/
def State.flushLines (s : State) (gone : CacheLine → Bool) : State :=
  let ds := cacheDirty s.sys.l2 (fun _ => gone) ++ cacheDirty s.sys.msc fun _ => gone
  (s.pushAll (ds.flatMap fun l => dramAsk (64 * l.tag))).onSys fun y =>
    { y with l2 := cacheDrop y.l2 fun _ => gone, msc := cacheDrop y.msc fun _ => gone }

/-- The ways of die `d`'s memory-side cache from `w` upward written back and invalidated (13 R384). -/
def State.flushMscWays (s : State) (d w : Nat) : State :=
  let gone := fun (k : Nat) (l : CacheLine) => decide (k / 32768 = d) && decide (w ≤ l.way)
  (s.pushAll ((cacheDirty s.sys.msc gone).flatMap fun l => dramAsk (64 * l.tag))).onSys fun y =>
    { y with msc := cacheDrop y.msc gone }

/-- The L2 ways that are out of service, by die, written back and invalidated (13 R400). -/
def State.flushL2Off (s : State) : State :=
  let gone := fun (k : Nat) (l : CacheLine) => (NMap.get 0 s.sys.l2Off (k / 65536)).getLsbD l.way
  ((cacheDirty s.sys.l2 gone).foldl State.evict s).onSys fun y => { y with l2 := cacheDrop y.l2 gone }

/-- The caches after a channel has moved line `fr` to line `to_` (13 R393): its value comes from the old home's L2, from the
memory-side cache or from DRAM, and goes to the new frame, of which no cache keeps a line (log 68). -/
def State.moveLine (s : State) (fr to_ : Nat) : State :=
  let held := ((NMap.get [] s.sys.l2 (l2Set (homeDie (64 * fr)) (64 * fr))) ++ (match region (64 * fr) with
      | .cap d _ => NMap.get [] s.sys.msc (mscSet d (64 * fr))
      | _ => [])).any fun (l : CacheLine) => decide (l.tag = fr)
  let gone := fun (_ : Nat) (l : CacheLine) => decide (l.tag = to_)
  (s.pushAll ((if held then [] else dramAsk (64 * fr)) ++ dramAsk (64 * to_))).onSys fun y =>
    { y with l2 := cacheDrop y.l2 gone, msc := cacheDrop y.msc gone, replicas := NMap.set 0 y.replicas to_ 0 }

/-- The memory-side cache of its die holds the line of a capacity-tier address (13 R382). -/
def State.inMsc (s : State) (pa : Nat) : Bool :=
  match region pa with
  | .cap d _ => (NMap.get [] s.sys.msc (mscSet d pa)).any fun (l : CacheLine) => decide (l.tag = pa / 64)
  | _ => false

end Sys2Proof.Machine
end

