-- ==== Sys2Proof/Machine/Ecc.lean ====
section
/-! DEFINITION. Stored words and their check bits: the SEC-DED code (12 R354), what a read of a stored word finds, and the record of
an error (12 R357, 13 R397, R399). -/

namespace Sys2Proof.Machine

open Sys2Proof

/-- The body encoding of the instruction in execution, for an error record (12 R357). -/
def State.bodyEnc (s : State) : Nat :=
  match s.ir with
  | .w32 w => w.toNat
  | .w64 _ w => w.toNat
  | .w16 w => w.toNat
  | .event => 0

/-! ### SEC-DED -/

/-- What a syndrome says (12 R354). -/
inductive Syn | check (k : Nat) | data (b : Nat) | bad
  deriving DecidableEq, Repr

/-- Decoding of a non-zero syndrome (12 R354); the columns of the code are open (log 14). -/
def decodeSyn (y : Byte) : Syn :=
  match (List.range 8).find? fun k => decide (y = BitVec.ofNat 8 (2 ^ k)) with
  | some k => .check k
  | none =>
    match (List.range 64).find? fun b => decide (y = Config.checkColumn b) with
    | some b => .data b
    | none => .bad

/-- A stored word as a read finds it: corrected when its syndrome names a single bit, none when it is uncorrectable (12 R354,
13 R397). -/
def State.wordSeen (s : State) (k : Nat) (d : Word) : Option Word :=
  if NMap.get false s.poison (k / 8) then none
  else
    let y := NMap.get 0 s.synd (k / 8)
    if y = 0 then some d
    else match decodeSyn y with
      | .check _ => some d
      | .data b => some (d ^^^ BitVec.ofNat 64 (2 ^ b))
      | .bad => none

/-- Check(d): the code is linear, so it is the exclusive or of the columns of the bits of `d` (12 R354). -/
def checkBits (d : Word) : Byte :=
  (List.range 64).foldl (fun c b => if d.getLsbD b then c ^^^ Config.checkColumn b else c) 0

/-- Where a stored word is, for its error record: the UNIT, W2, and the cluster whose log takes it, or the die. A line in its home L2
slice or in the memory-side cache has its error there (13 R399, log 68). -/
def State.wordSource (s : State) (k : Nat) : Nat × Nat × Bool × Nat :=
  if 2 ^ 53 ≤ k then (0x07, (k - 2 ^ 53) % 2 ^ 21, true, (k - 2 ^ 53) / 2 ^ 21)
  else if 2 ^ 52 ≤ k then (0x11, (k - 2 ^ 52) % 2 ^ 17, true, (k - 2 ^ 52) / 2 ^ 17 / 16)
  else
    let holds := fun (set : List CacheLine) => set.any fun (l : CacheLine) => decide (l.tag = k / 64)
    let d := homeDie k
    if holds (NMap.get [] s.sys.l2 (l2Set d k)) then (0x20, k, false, d)
    else
      (match region k with
       | .hbm .. => (0x22, k, false, d)
       | .cap .. => (if holds (NMap.get [] s.sys.msc (mscSet d k)) then 0x24 else 0x23, k, false, d)
       | .mscsp .. => (0x24, k, false, d)
       | _ => (0x23, k, false, d))

/-- The record of a stored-word error. -/
def State.logWord (s : State) (t : Option Tid) (sev syn k enc : Nat) : State :=
  match s.wordSource k with
  | (u, w2, cl, n) =>
    let r : ErrRec :=
      { inj := false, strand := t, sev := sev, unit := u, lgrp := 15, lane := 0, chan := 0, roll := false, syn := syn
        w2 := word w2, w3 := word (if t.isSome then enc else 0) }
    if cl then s.logCluster n r else s.logDie n r

/-- The stored word `k / 8` checked as it is read: a single-bit error is corrected and logged, any other syndrome poisons
the word (12 R354, 13 R397). -/
def State.eccWord (s : State) (t : Option Tid) (k : Nat) : State :=
  let w := k / 8
  let y := NMap.get 0 s.synd w
  if y = 0 then s
  else
    let s1 := { s with synd := NMap.set 0 s.synd w 0 }
    match decodeSyn y with
    | .check _ => s1.logWord t 0 y.toNat (8 * w) s.bodyEnc
    | .data b =>
      let m := s1.mem.setByte (8 * w + b / 8) (s1.mem.byte (8 * w + b / 8) ^^^ BitVec.ofNat 8 (2 ^ (b % 8)))
      State.logWord { s1 with mem := m } t 0 y.toNat (8 * w) s.bodyEnc
    | .bad =>
      State.logWord { s1 with poison := NMap.set false s1.poison w true } t 2 y.toNat (8 * w) s.bodyEnc

/-! ### Tags of the L2 slices (13 R397) -/

/-- The record of an error in the L2 tag of the line of `pa` on die `d` (13 R399). -/
def State.logTag (s : State) (t : Option Tid) (d sev : Nat) (syn : Byte) (pa : Nat) : State :=
  s.logDie d
    { inj := false, strand := t, sev := sev, unit := 0x21, lgrp := 15, lane := 0, chan := 0, roll := false, syn := syn.toNat
      w2 := word (pa / 64 * 64), w3 := word (if t.isSome then s.bodyEnc else 0) }

/-- The L2 slice of die `d` looks at the tag of the line of `pa`: a single-bit error is corrected; an uncorrectable one invalidates a clean
line and poisons all eight words of a dirty one (13 R397). -/
def State.tagCheck (s : State) (t : Option Tid) (d pa : Nat) : State :=
  let k := l2Set d pa
  match (NMap.get [] s.sys.l2 k).find? fun (l : CacheLine) => decide (l.tag = pa / 64) && !decide (l.tagSynd = 0) with
  | none => s
  | some l =>
    let put := fun (s : State) (r : List CacheLine) => s.onSys fun y =>
      { y with l2 := NMap.set [] y.l2 k ((NMap.get [] y.l2 k).flatMap fun (x : CacheLine) => if x = l then r else [x]) }
    let good := { l with tagSynd := 0 }
    match decodeSyn l.tagSynd with
    | .bad =>
      if l.dirty then
        (put { s with poison := (List.range 8).foldl (fun m i => NMap.set false m (8 * l.tag + i) true) s.poison } [good]).logTag t d 2
          l.tagSynd pa
      else (put s []).logTag t d 2 l.tagSynd pa
    | _ => (put s [good]).logTag t d 0 l.tagSynd pa

/-! ### Reads -/

/-- Every word of `n` bytes from `k` checked. -/
def State.ecc (s : State) (t : Option Tid) (k n : Nat) : State :=
  if s.synd = [] then s
  else (List.range ((k + n - 1) / 8 - k / 8 + 1)).foldl (fun s i => s.eccWord t (8 * (k / 8 + i))) s

/-- The slices that a request to the line at `k` looks in, that of the reader's die and the home's, look at its tag (13 R397). -/
def State.tagChecks (s : State) (t : Option Tid) (k : Nat) : State :=
  let home := s.tagCheck t (homeDie k) k
  match t with
  | some u => if u.die = homeDie k then home else home.tagCheck t u.die k
  | none => home

/-- The check of `n` bytes of memory from `k` as a read through L2 takes them: the tag of their line, and the words read; where no slice
holds the line, the whole of it is read, and checked, for the fill (13 R371, R397). -/
def State.lineCheck (s : State) (t : Option Tid) (k n : Nat) : State :=
  let s1 := s.tagChecks t k
  let held := (NMap.get [] s1.sys.l2 (l2Set (homeDie k) k)).any fun (l : CacheLine) => decide (l.tag = k / 64)
  if held then s1.ecc t k n else s1.ecc t (k / 64 * 64) 64

end Sys2Proof.Machine
end

