-- ==== Sys2Proof/Machine/Translate.lean ====
section
/-! DEFINITION. Resolving a generic address: the windows and their checks (01 R31, R32), the page tables and their faults
(13 R386 to R388, 14 R404, R405), the TLBs (13 R389, R390). -/

namespace Sys2Proof.Machine

open Sys2Proof

/-- What an access belongs to. -/
inductive Source
  /-- The scalar stream. -/
  | scalar
  /-- The vector queue entry numbered `e`. -/
  | entry (e : Nat)
  /-- The copy in stream slot `q`. -/
  | slot (q : Nat)
  /-- No strand of this package. -/
  | outside
  deriving DecidableEq, Repr

/-- Who makes an access. -/
structure Agent where
  /-- The strand that makes it, or for which an engine makes it. -/
  tid : Tid
  /-- Its tenant. -/
  tenant : Nat
  /-- Its cache partition. -/
  part : Nat
  /-- It runs at application level. -/
  app : Bool
  /-- The physical lane group whose TLB it uses, for vector elements and register slots (13 R389). -/
  lane : Option Nat
  /-- It translates on the system die (13 R390): the command processor and the host port. -/
  sysDie : Bool
  /-- What it belongs to. -/
  src : Source
  /-- For an access that issued before: its number, and the L1 generation at its issue (04 R122). -/
  at_ : Option (Nat × BitVec 16) := none
  deriving DecidableEq, Repr

/-- The die from which its requests leave; none is the system die. -/
def Agent.die (a : Agent) : Option Nat := if a.sysDie then none else some a.tid.die

/-- The strand that an error record of the access names (13 R399). -/
def Agent.who (a : Agent) : Option Tid := if a.sysDie then none else some a.tid

/-- The strand of context `t` as the agent of its scalar accesses. -/
def State.agentOf (s : State) (t : Tid) : Agent :=
  let x := s.strand t
  { tid := t, tenant := x.ctl.tenant.toNat, part := x.ctl.part.toNat, app := decide (x.ctl.priv = .app), lane := none
    sysDie := false, src := .scalar }

/-- The strand in focus as the agent of its scalar accesses. -/
def State.agent (s : State) : Agent :=
  { tid := s.tid, tenant := s.me.ctl.tenant.toNat, part := s.me.ctl.part.toNat, app := s.isApp, lane := none
    sysDie := false, src := .scalar }

/-- A generic address by its window (01 R31). -/
inductive Window
  | global (va : Nat) | priv (o : Nat) | core (c o : Nat) | shared (c o : Nat)
  deriving DecidableEq, Repr

/-- The window of an address whose tag and must-be-zero bits are right (01 R31). -/
def windowOf (a : Word) : Option Window :=
  match fld a 56 8 with
  | 0x00 => if fld a 48 8 = 0 then some (.global (fld a 0 48)) else none
  | 0xE0 => if fld a 13 43 = 0 then some (.priv (fld a 0 13)) else none
  | 0xE1 => if fld a 43 13 = 0 ∧ fld a 16 16 = 0 then some (.core (fld a 32 11) (fld a 0 16)) else none
  | 0xE2 => if fld a 39 17 = 0 ∧ fld a 21 11 = 0 then some (.shared (fld a 32 7) (fld a 0 21)) else none
  | _ => none

/-- The offset is below the window's size (01 R31, 11 R320). -/
def State.inLimit (s : State) (tenant : Nat) : Window → Bool
  | .shared c o => decide (o < 0x10000 * fld (s.rd (rCswin c tenant)) 0 8)
  | _ => true

/-- Same window, and same core or cluster of it. -/
def Window.same : Window → Window → Bool
  | .global _, .global _ => true
  | .priv _, .priv _ => true
  | .core c _, .core d _ => decide (c = d)
  | .shared c _, .shared d _ => decide (c = d)
  | _, _ => false

/-- A core-scratchpad address of another core (step 2 of 01 R32). -/
def Window.wrongCore (t : Tid) : Window → Bool
  | .core c _ => !decide (c = t.core)
  | _ => false

/-- The checks of 01 R32 on the first and the last byte: the window of the first byte, or the cause. -/
def State.checkWindow (s : State) (a : Agent) (addr : Word) (len : Nat) : Except Nat Window :=
  match windowOf addr, windowOf (addr + word (len - 1)) with
  | some w, some v =>
    if !(s.inLimit a.tenant w && s.inLimit a.tenant v) then .error 0x08
    else if w.wrongCore a.tid || v.wrongCore a.tid then .error 0x09
    else if !w.same v then .error 0x08
    else .ok w
  | _, _ => .error 0x08

/-- The memory key of an offset in the TCM of package core `c`. -/
def tcmKey (c o : Nat) : Nat := 2 ^ 52 + 2 ^ 17 * c + o
/-- The memory key of an offset in the SRAM of package cluster `c`. -/
def sramKey (c o : Nat) : Nat := 2 ^ 53 + 2 ^ 21 * c + o % 2 ^ 21

/-! ### Page tables -/

/-- Why an address does not resolve. -/
inductive Bad
  /-- A fault with this cause. -/
  | trap (cause : Nat)
  /-- A poisoned page-table entry at this physical address (13 R388). -/
  | entry (die pa : Nat)
  /-- The access waits (13 R384, 14 R405). -/
  | hold
  deriving DecidableEq, Repr

/-- The key material under which a line is stored and read: zero for plaintext (13 R381). -/
def State.material (s : State) (keyId : Nat) : Nat := if keyId = 0 then 0 else 1 + NMap.get 0 s.sys.keys keyId

/-- The byte at a memory key as an access with `keyId` reads it (13 R381). Only DRAM is encrypted. -/
def State.plainByte (s : State) (keyId k : Nat) : Byte :=
  let b := s.mem.byte k
  if k < 0x120000000000 then
    (let old := NMap.get 0 s.lineKey (k / 64)
     if old = s.material keyId then b else Config.crossKeyByte old (s.material keyId) k b)
  else b

/-- `n` bytes read with `keyId`. -/
def State.plainBytes (s : State) (keyId k : Nat) : Nat → List Byte
  | 0 => []
  | n + 1 => s.plainByte keyId k :: State.plainBytes s keyId (k + 1) n

/-- A word holds an uncorrectable error (12 R354, 13 R397). -/
def State.poisoned (s : State) (k : Nat) : Bool := NMap.get false s.poison (k / 8)

/-- Some word of `n` bytes from `k` is poisoned. -/
def State.poisonedIn (s : State) (k n : Nat) : Bool :=
  (List.range ((k + n - 1) / 8 - k / 8 + 1)).any fun i => NMap.get false s.poison (k / 8 + i)

/-! ### Page-table entries -/

/-- The bits of a page-table entry that must be zero (13 R387). -/
def pteReserved (e : Word) : Bool := bitOf e 52 || !decide (fld e 7 9 = 0) || !decide (fld e 0 2 = 0)

/-- The residency class matches the tier of the frame (13 R385, 14 R404, 16 R447). -/
def State.classOk (s : State) (res pa : Nat) : Bool :=
  match region pa with
  | .hbm .. => decide (res ≠ 2)
  | .cap .. => decide (res ≠ 1)
  | .mscsp .. | .dieBar .. | .doorbell .. | .coll .. | .save .. | .host .. => decide (res = 1 ∨ res = 3)
  | .remote n _ => decide (res = 1 ∨ res = 3) && !decide (n = fld (s.rd rFnode) 0 8)
  | _ => false

/-- The physical address that a leaf gives a virtual address (13 R386, R387). -/
def leafPa (leaf : Word) (big : Bool) (va : Nat) : Nat :=
  if big then fld leaf 29 23 * 2 ^ 29 + va % 2 ^ 29 else fld leaf 16 36 * 2 ^ 16 + va % 2 ^ 16

/-- The tenant may use the key of the leaf (14 R405); the remote aperture takes key 0 only (16 R447). -/
def State.keyOk (s : State) (tenant : Nat) (leaf : Word) (pa : Nat) : Bool :=
  let k := fld leaf 53 7
  if k = 0 then true
  else bitOf (s.rd (rKeyown k)) 7 && decide (fld (s.rd (rKeyown k)) 0 5 = tenant)
    && (match region pa with | .remote .. => false | _ => true)

/-- Where the line of a physical address is now: in the new frame, when a channel that still redirects has moved it (13 R393). -/
def State.redirect (s : State) (pa : Nat) : Nat :=
  if s.sys.migrating = [] then pa
  else
    match s.sys.migrating.find? fun i =>
        decide (fld (s.rd (rMigsrc (i / 4) (i % 4))) 16 36 = pa / 2 ^ 16)
          && decide (pa % 2 ^ 16 / 64 < fld (s.rd (rMigctl (i / 4) (i % 4))) 0 11) with
    | some i => fld (s.rd (rMigdst (i / 4) (i % 4))) 16 36 * 2 ^ 16 + pa % 2 ^ 16
    | none => pa

/-- The entry at `level` is valid in itself: V, no reserved bit, a leaf where one may stand, and a pointer with its other fields zero
(13 R388). -/
def pteValid (level : Nat) (e : Word) : Bool :=
  bitOf e 63 && !pteReserved e &&
    if bitOf e 6 then !decide (level = 0) else !decide (level = 2) && decide (fld e 53 10 = 0) && decide (fld e 2 4 = 0)

/-- The address of the entry that a walk reads at a level (13 R386). -/
def entryAt (table level va : Nat) : Nat :=
  table + 8 * (if level = 0 then va / 2 ^ 42 % 64 else if level = 1 then va / 2 ^ 29 % 8192 else va / 2 ^ 16 % 8192)

/-- The entry at an address as a walker reads it; none when it is poisoned (13 R388, R390, R393). -/
def State.entrySeen (s : State) (pa : Nat) : Option Word :=
  s.wordSeen (s.redirect pa) (word (leNat (s.plainBytes 0 (s.redirect pa) 8)))

/-- The table that the root register or a pointer entry names. -/
def tableOf (e : Word) : Nat := fld e 16 36 * 2 ^ 16

/-- A walk for `tenant` of the walker on die `from_`, or of the system die's, through the tables of `die`, level by level (13 R386, R388,
R390); an entry that only DRAM holds, or that lies behind a link that holds requests, is not read in a drain or a lull (14 R421). -/
def State.walkLevel (s : State) (from_ : Option Nat) (die tenant va : Nat) : Nat → Nat → Except Bad (Word × Bool)
  | table, fuel + 1 =>
    let level := 2 - fuel
    let pa := entryAt table level va
    if s.lineHeld from_ (s.redirect pa) 0 then .error .hold
    else match s.entrySeen pa with
    | none => .error (.entry die pa)
    | some e =>
      if !pteValid level e then .error (.trap 0x0B)
      else if bitOf e 6 then
        (let big := decide (level = 1)
         if (big && !decide (fld e 16 13 = 0)) || !s.classOk (fld e 60 2) (leafPa e big va) then .error (.trap 0x0B)
         else if !s.keyOk tenant e (leafPa e big va) then .error (.trap 0x0C)
         else .ok (e, big))
      else State.walkLevel s from_ die tenant va (tableOf e) fuel
  | _, 0 => .error (.trap 0x0B)

/-- The walk of a virtual address (13 R386). -/
def State.walk (s : State) (from_ : Option Nat) (die tenant va : Nat) : Except Bad (Word × Bool) :=
  let root := s.rd (rPtroot die tenant)
  if bitOf root 0 then s.walkLevel from_ die tenant va (fld root 9 43 * 512) 3 else .error (.trap 0x0B)

/-- The addresses of the entries that a walk reads, root first: it stops at a leaf and at an entry that fails (13 R386, R388). -/
def State.walkReads (s : State) (va : Nat) : Nat → Nat → List Nat
  | table, fuel + 1 =>
    let pa := entryAt table (2 - fuel) va
    match s.entrySeen pa with
    | none => [pa]
    | some e => if pteValid (2 - fuel) e && !bitOf e 6 then pa :: State.walkReads s va (tableOf e) fuel else [pa]
  | _, 0 => []

/-! ### TLBs -/

/-- An entry serves a virtual address of a tenant. -/
def TlbEntry.serves (e : TlbEntry) (tenant va : Nat) : Bool :=
  decide (e.tenant = tenant) && (if e.big then decide (e.vpn = va / 2 ^ 29) else decide (e.vpn = va / 2 ^ 16))

/-- The cluster-TLB set of a base page, or of a 512 MiB leaf, among the 128 that both share (13 R389). -/
def tlbSet (big : Bool) (va : Nat) : Nat := if big then va / 2 ^ 29 % 128 else va / 2 ^ 16 % 128

/-- The entry of cluster `c` that serves an address. -/
def Cluster.tlbFind (c : Cluster) (tenant va : Nat) : Option TlbEntry :=
  ((NMap.get [] c.tlb (tlbSet false va)).find? fun (e : TlbEntry) => e.serves tenant va).or
    ((NMap.get [] c.tlb (tlbSet true va)).find? fun (e : TlbEntry) => e.serves tenant va)

/-- A list of entries with `e` most recently used, cut to `n`. -/
def tlbPut (l : List TlbEntry) (e : TlbEntry) (n : Nat) : List TlbEntry := (e :: l.filter fun x => !decide (x = e)).take n

/-- The die whose walker serves an agent. -/
def Agent.walkDie (a : Agent) : Nat := if a.sysDie then 0 else a.tid.die

/-- The entry of an agent's TLBs that serves an address (13 R389, R390). -/
def State.tlbHit (s : State) (a : Agent) (va : Nat) : Option TlbEntry :=
  if a.sysDie then s.sys.tlb.find? fun (e : TlbEntry) => e.serves a.tenant va
  else
    let c := s.cluster a.tid.cluster
    (match a.lane with
     | some g => (NMap.get [] c.laneTlb g).find? fun (e : TlbEntry) => e.serves a.tenant va
     | none => none).or (c.tlbFind a.tenant va)

/-- The leaf that an agent's access uses: from its TLBs, or from a walk (13 R389, R390). -/
def State.leafFor (s : State) (a : Agent) (va : Nat) : Except Bad (Word × Bool) :=
  match s.tlbHit a va with
  | some e => .ok (e.leaf, e.big)
  | none => s.walk a.die a.walkDie a.tenant va

/-- The TLBs after an access used a leaf (13 R389). -/
def State.noteLeaf (s : State) (a : Agent) (va : Nat) (leaf : Word) (big : Bool) : State :=
  let e : TlbEntry := { tenant := a.tenant, vpn := if big then va / 2 ^ 29 else va / 2 ^ 16, big := big, leaf := leaf }
  if a.sysDie then s.onSys fun y => { y with tlb := tlbPut y.tlb e 256 }
  else
    s.onCluster a.tid.cluster fun c =>
      let inLane := match a.lane with
        | some g => (NMap.get [] c.laneTlb g).any fun x => decide (x = e)
        | none => false
      let c1 := match a.lane with
        | some g => { c with laneTlb := NMap.set [] c.laneTlb g (tlbPut (NMap.get [] c.laneTlb g) e 32) }
        | none => c
      if inLane then c1
      else
        let k := tlbSet big va
        { c1 with tlb := NMap.set [] c1.tlb k (tlbPut (NMap.get [] c1.tlb k) e 8) }

/-! ### Permissions -/

/-- What an access does, with what the checks of special regions need (13 R396, 14 R407, 15 R433, 16 R448). -/
inductive Form
  /-- A scalar load. -/
  | load
  /-- A scalar store of this value. -/
  | store (v : Word)
  /-- A scalar AMO or SWAP. -/
  | amo (op : VAmoOp) (x : Word)
  /-- A scalar CAS. -/
  | cas
  /-- A vector load element. -/
  | vload
  /-- A vector store element. -/
  | vstore
  /-- A VAMO element. -/
  | vamo
  /-- An engine's read. -/
  | eread
  /-- An engine's write. -/
  | ewrite
  /-- An instruction fetch. -/
  | fetch
  deriving DecidableEq, Repr

/-- The access reads. -/
def Form.reads : Form → Bool
  | .load | .vload | .eread | .amo .. | .cas | .vamo => true
  | _ => false

/-- The access writes. -/
def Form.writes : Form → Bool
  | .store _ | .vstore | .ewrite | .amo .. | .cas | .vamo => true
  | _ => false

/-- The leaf permits the access (13 R388): an atomic, a VAMO and any access to a die barrier need both R and W. -/
def leafPermits (a : Agent) (f : Form) (leaf : Word) (pa : Nat) : Bool :=
  let bar := match region pa with | .dieBar .. => true | _ => false
  !(bitOf leaf 2 && a.app) && (!(f.reads || bar) || bitOf leaf 3) && (!(f.writes || bar) || bitOf leaf 4)
    && (match f with | .fetch => bitOf leaf 5 | _ => true)

/-- The accesses to a die's 64 barrier lines that are permitted (13 R395, R396). -/
def State.dieBarOk (s : State) (f : Form) (pa len : Nat) : Bool :=
  let o := pa % 64
  let st := s.rd (pa / 64 * 64)
  let count := fld (s.rd (pa / 64 * 64 + 8)) 0 32
  match f with
  | .amo .add x => decide (len = 8 ∧ o = 0 ∧ x = 1 ∧ count ≠ 0)
  | .amo .or x => decide (len = 8 ∧ o = 0 ∧ x = 0)
  | .load => decide (len = 8 ∧ (o = 0 ∨ o = 8))
  | .store v => decide (len = 8 ∧ o = 8 ∧ fld st 0 32 = 0 ∧ v.toNat ≤ 4096)
  | _ => false

/-- The port that the route to node `n` uses now (16 R442, R446). -/
def State.portFor (s : State) (n : Nat) : Option Nat :=
  let r := s.rd (rFrt n)
  let p := fld r 32 3
  let q := fld r 36 3
  if !bitOf r 35 then none
  else if !bitOf (s.rd (rFpstat p)) 1 then some p
  else if bitOf r 39 && !bitOf (s.rd (rFpstat q)) 1 then some q
  else none

/-- The rules of the special regions; the answer is a fault or a wait. -/
def State.special (s : State) (a : Agent) (f : Form) (leaf : Word) (pa len : Nat) : Option Bad :=
  match region pa with
  | .dieBar _ o => if decide (o < 4096) && s.dieBarOk f pa len then none else some (.trap 0x0C)
  | .doorbell _ o =>
    (match f with
     | .load | .store _ => if len = 8 ∧ (o = 0 ∨ o = 8 ∨ o = 16) then none else some (.trap 0x0C)
     | _ => some (.trap 0x0C))
  | .coll _ => some (.trap 0x0C)
  | .save o =>
    if bitOf leaf 2 && !bitOf leaf 4 && decide (fld leaf 60 2 = 1) && decide (o / 2048 / 8192 = a.tenant) then none
    else some (.trap 0x0C)
  | .mscsp d o =>
    if bitOf (s.rd (rMscsp d)) 8 then some .hold
    else if 15 - o / 2 ^ 21 < 16 - fld (s.rd (rMscsp d)) 0 5 then some (.trap 0x0B)
    else none
  | .host _ =>
    (match s.fnOf a.tenant with
     | none => some (.trap 0x0C)
     | some _ =>
       (match f with
        | .amo .add _ | .amo .swap _ | .cas => none
        | .amo .or x => if x = 0 then none else some (.trap 0x0C)
        | .amo .. | .vamo => some (.trap 0x0C)
        | _ => none))
  | .remote n _ =>
    if (s.portFor n).isSome && bitOf (s.rd (rFrt n)) a.tenant then none else some (.trap 0x0C)
  | _ => none

/-- The kind of place of a physical address. -/
def placeKind (pa : Nat) : PlaceKind :=
  match region pa with
  | .mscsp .. => .msc
  | .dieBar .. => .dieBar
  | .doorbell .. => .doorbell
  | .coll .. => .coll
  | .save .. => .save
  | .remote .. => .remote
  | .host .. => .host
  | _ => .dram

/-- A key installation is in progress for this key (14 R405). -/
def State.keyBusy (s : State) (keyId : Nat) : Bool :=
  bitOf (s.rd rKeycmd) 62 && decide (s.sys.keySlot = keyId) && decide (keyId ≠ 0)

/-- The place that a leaf gives an access (13 R372, R385, 14 R404). -/
def placeOf (leaf : Word) (pa : Nat) : Place :=
  let res := fld leaf 60 2
  let k := placeKind pa
  let normal := decide (k = .dram ∨ k = .msc ∨ k = .save)
  { kind := k, key := pa, keyId := fld leaf 53 7, cached := normal
    alloc := normal && !decide (res = 3) && !bitOf leaf 62
    replica := normal && !decide (res = 3) && !bitOf leaf 62 && !bitOf leaf 4
    fills := normal && !decide (res = 3) }

/-- The place of `len` bytes at a global address that lie in one page (13 R388, 04 R141). The address itself must lie in a region
that the leaf's class matches: a 512 MiB leaf can reach others (14 R404, log 69). -/
def State.resolveGlobal (s : State) (a : Agent) (f : Form) (va len : Nat) : Except Bad Place :=
  match s.leafFor a va with
  | .error e => .error e
  | .ok (leaf, big) =>
    let pa := leafPa leaf big va
    if !s.classOk (fld leaf 60 2) pa then .error (.trap 0x0B)
    else match s.special a f leaf pa len with
    | some (.trap 0x0B) => .error (.trap 0x0B)
    | sp =>
      if !leafPermits a f leaf pa then .error (.trap 0x0C)
      else match sp with
        | some e => .error e
        | none => if s.keyBusy (fld leaf 53 7) then .error .hold else .ok (placeOf leaf pa)

/-- The place of `len` bytes of a window. -/
def State.resolveIn (s : State) (a : Agent) (f : Form) (w : Window) (len : Nat) : Except Bad Place :=
  match w with
  | .global va => s.resolveGlobal a f va len
  | .priv o =>
    .ok { kind := .tcm, key := tcmKey a.tid.core (0x10000 + 0x2000 * a.tid.ctx + o), keyId := 0, cached := false
          alloc := false, replica := false, fills := false }
  | .core c o => .ok { kind := .tcm, key := tcmKey c o, keyId := 0, cached := false, alloc := false, replica := false, fills := false }
  | .shared c o =>
    .ok { kind := .sram, key := sramKey c (0x10000 * fld (s.rd (rCswin c a.tenant)) 8 8 + o), keyId := 0
          cached := false, alloc := false, replica := false, fills := false }

/-- The window `n` bytes further on. -/
def Window.add (n : Nat) : Window → Window
  | .global va => .global (va + n)
  | .priv o => .priv (o + n)
  | .core c o => .core c (o + n)
  | .shared c o => .shared c (o + n)

/-- The lengths of the parts of an access, one for each naturally aligned 8-byte block (03 R84). -/
def partLens (addr : Word) (len : Nat) : List Nat :=
  let r := 8 - addr.toNat % 8
  if len ≤ r then [len] else [r, len - r]

/-- A fault with the address it reports. -/
structure Failure where
  /-- Why. -/
  why : Bad
  /-- TVAL. -/
  at_ : Word
  deriving DecidableEq, Repr

/-- The places of an access with their lengths, or its failure: the checks of 01 R32, then each part, lowest first
(03 R84). -/
def State.resolve (s : State) (a : Agent) (f : Form) (addr : Word) (len : Nat) :
    Except Failure (List (Place × Nat)) :=
  match s.checkWindow a addr len with
  | .error c => .error ⟨.trap c, addr⟩
  | .ok w =>
    match partLens addr len with
    | [n] =>
      (match s.resolveIn a f w n with
       | .error e => .error ⟨e, addr⟩
       | .ok p => .ok [(p, n)])
    | n :: m :: _ =>
      (match s.resolveIn a f w n, s.resolveIn a f (w.add n) m with
       | .ok p, .ok q => .ok [(p, n), (q, m)]
       | .error e, _ => .error ⟨e, addr⟩
       | .ok _, .error e => .error ⟨e, addr + word n⟩)
    | [] => .ok []

/-- The L2 slices and memory-side caches after the reads of a walk for an agent, which use key 0 and its partition and may
leave replicas (13 R372, R390). Each entry is checked as it is read (13 R397). -/
def State.walkTouch (s : State) (a : Agent) (va : Nat) : State :=
  let root := s.rd (rPtroot a.walkDie a.tenant)
  if bitOf root 0 then
    (s.walkReads va (fld root 9 43 * 512) 3).foldl (fun (s : State) pa =>
      let k := s.redirect pa
      let s := s.lineCheck a.who k 8
      s.cacheRead a.die a.part pa k 0 true (!s.poisonedIn (k / 64 * 64) 64)) s
  else s

/-- The TLBs and caches after an access whose translation ended with a leaf: a miss has walked (13 R389, R390). -/
def State.noteWalk (s : State) (a : Agent) (va : Nat) (leaf : Word) (big : Bool) : State :=
  (if (s.tlbHit a va).isSome then s else s.walkTouch a va).noteLeaf a va leaf big

/-- The TLBs and caches after the translations of an access: a walk that completes fills, whatever the access then meets, and one
that fails has read its entries (13 R390). -/
def State.noteAccess (s : State) (a : Agent) (addr : Word) : List Nat → State
  | [] => s
  | n :: ns =>
    let s1 := match windowOf addr with
      | some (.global va) =>
        (match s.leafFor a va with
         | .ok (leaf, big) => s.noteWalk a va leaf big
         | .error _ => s.walkTouch a va)
      | _ => s
    State.noteAccess s1 a (addr + word n) ns

/-- The record of a poisoned page-table entry (13 R388, R399). -/
def State.logEntry (s : State) (a : Agent) (die pa : Nat) : State :=
  let strand := if a.sysDie then none else some a.tid
  s.logDie die
    { inj := false, strand := strand, sev := 2, unit := 0x26, lgrp := 15, lane := 0, chan := 0, roll := false, syn := 0
      w2 := word (2 ^ 63 + pa % 2 ^ 52)
      w3 := word (a.tenant * 2 ^ 32 + (if a.sysDie then 0 else
        (match s.ir with | .w32 w => w.toNat | .w64 _ w => w.toNat | .w16 w => w.toNat | .event => 0))) }

/-- The translations that an access of `len` bytes made before it failed: none when a check of its window failed (01 R32). -/
def State.noteFailed (s : State) (a : Agent) (addr : Word) (len : Nat) : Bad → State
  | .trap c => if c = 0x08 ∨ c = 0x09 then s else s.noteAccess a addr (partLens addr len)
  | _ => s.noteAccess a addr (partLens addr len)

/-- The state and the cause with which the failure of an access of `len` bytes at `addr` ends; none when the access waits. -/
def State.failure (s : State) (a : Agent) (addr : Word) (len : Nat) (b : Bad) : Option (State × Nat) :=
  match b with
  | .trap c => some (s.noteFailed a addr len b, c)
  | .entry die pa => some ((s.noteFailed a addr len b).logEntry a die pa, 0x0D)
  | .hold => none

/-- A scalar instruction whose access of `len` bytes at `addr` fails: it traps, or waits at issue. -/
def State.failScalar (s : State) (addr : Word) (len : Nat) (f : Failure) : Result :=
  match s.failure s.agent addr len f.why with
  | some (s1, c) => s1.trap ⟨c, f.at_, 0⟩
  | none => .next s

end Sys2Proof.Machine
end

