-- ==== Sys2Proof/Machine/Access.lean ====
section
/-! DEFINITION. Performing an access at a place: stored errors (12 R354, 13 R397), keys (13 R381), the cluster L1 (11 R321 to
R323), the home (13 R371 to R373), the write queue (03 R87), and the registers reached by ordinary accesses (13 R396,
14 R407). -/

namespace Sys2Proof.Machine

open Sys2Proof

/-! ### Stored errors -/

/-- A report-mode injection aimed at this SRAM or TCM fires on the read of a word (12 R364): the state after its record,
and whether the read takes an uncorrectable error. -/
def State.injected (s : State) (t : Option Tid) (k : Nat) : State × Bool :=
  match s.wordSource k with
  | (u, w2, true, c) =>
    let d := s.rd (rDinj c)
    if bitOf d 63 && !bitOf d 61 && decide (fld d 52 6 = u) then
      (let unc := bitOf d 60
       let r : ErrRec :=
         { inj := true, strand := t, sev := if unc then 2 else 0, unit := u, lgrp := 15, lane := 0, chan := 0
           roll := false, syn := 0, w2 := word w2, w3 := word (if t.isSome then s.bodyEnc else 0) }
       ((s.wr (rDinj c) (setFld d 62 2 1)).logCluster c r, unc))
    else (s, false)
  | _ => (s, false)

/-! ### The home -/

/-- Poison of the words that `n` bytes stored from `k` cover: a store of a whole word clears it (12 R354, 13 R397). -/
def clearPoison (m : NMap Bool) (k n : Nat) : NMap Bool :=
  if m = [] then m
  else m.filter fun e => !(decide (k ≤ 8 * e.1) && decide (8 * e.1 + 8 ≤ k + n))

/-- The stored words that `n` bytes written from `k` cover in part are read, and so checked; those that they cover whole are not, and
their check bits are written with them (12 R354, 13 R397). -/
def State.eccEdges (s : State) (who : Option Tid) (k n : Nat) : State :=
  let whole := fun (w : Nat) => decide (k ≤ 8 * w) && decide (8 * w + 8 ≤ k + n)
  let s1 := ([k / 8, (k + n - 1) / 8].eraseDups.filter fun w => !whole w).foldl (fun (s : State) w => s.eccWord who (8 * w)) s
  { s1 with synd := s1.synd.filter fun (e : Nat × Byte) => !whole e.1 }

/-- The line of `k` held under the key material `mat`: a store through another key writes back unrelated bytes around its
own (13 R381). -/
def State.rekey (s : State) (mat k : Nat) : State :=
  let l := k / 64
  let old := NMap.get 0 s.lineKey l
  if old = mat then s
  else
    { s with
      mem := s.mem.setBytes (64 * l) ((List.range 64).map fun i =>
        Config.crossKeyByte old mat (64 * l + i) (s.mem.byte (64 * l + i)))
      lineKey := NMap.set 0 s.lineKey l mat }

/-- Bytes written at a memory key, with the key of its line: the store performs at its home, TCM or SRAM bank. Every
replica of the line has been invalidated by then (13 R373). `who` is the strand that an error record of the access names. -/
def State.homeWrite (s : State) (who : Option Tid) (keyId k : Nat) (bs : List Byte) : State :=
  let s0 := if k < 2 ^ 52 then s.tagChecks who k else s
  let s1 := if s0.synd = [] then s0 else s0.eccEdges who k bs.length
  let s2 := if k < 0x120000000000 then s1.rekey (s1.material keyId) k else s1
  let s3 := { s2 with mem := s2.mem.setBytes k bs, poison := clearPoison s2.poison k bs.length }
  if s3.sys.replicas = [] then s3 else s3.dropReplicas (k / 64)

/-! ### The cluster L1 (11 R321 to R323) -/

/-- The current-generation line of cluster `c` that holds a physical address. -/
def Cluster.l1Find (c : Cluster) (pa : Nat) : Option Line :=
  (NMap.get [] c.l1 (pa / 64 % 2048)).find? fun (l : Line) => decide (l.tag = pa / 64) && decide (l.gen = c.gen.toNat)

/-- A set with line `l` most recently used in its way. -/
def setPut (set : List Line) (l : Line) : List Line :=
  l :: set.filter fun (x : Line) => !decide (x.way = l.way) && !(decide (x.tag = l.tag) && decide (x.gen = l.gen))

/-- The way that a new line takes among `n` ways allowed by `mask` (11 R321). -/
def victim (set : List Line) (n mask : Nat) : Option Nat := wayFor (set.map Line.way) n mask

/-- The L1 after a load by `a` of a place: a hit becomes most recently used, a miss allocates where R321 permits, in the least recently
used of the ways that its mask allows. The whole line is read for the fill, so each of its words is checked (13 R397). A fill is tagged
with the generation that was current as its access issued; one of an older generation is written as invalid (11 R323). -/
def State.l1Load (s : State) (a : Agent) (p : Place) : State :=
  let cn := a.tid.cluster
  let c := s.cluster cn
  let k := p.key / 64 % 2048
  let set := NMap.get [] c.l1 k
  match c.l1Find p.key with
  | some l => s.onCluster cn fun c => { c with l1 := NMap.set [] c.l1 k (setPut set l) }
  | none =>
    let s := if p.alloc then s.ecc a.who (s.redirect (p.key / 64 * 64)) 64 else s
    if !p.alloc || s.poisonedIn (s.redirect (p.key / 64 * 64)) 64 then s
    else
      match victim set c.l1Ways (s.rd (rCl1pm cn a.part)).toNat with
      | none => s
      | some w =>
        let l : Line :=
          { way := w, tag := p.key / 64, gen := c.gen.toNat
            data := s.plainBytes p.keyId (s.redirect (p.key / 64 * 64)) 64, synd := [] }
        let old := match a.at_ with | some g => !decide (g.2 = c.gen) | none => false
        s.onCluster cn fun c =>
          { c with l1 := NMap.set [] c.l1 k (if old then set.filter fun (x : Line) => !decide (x.way = w) else setPut set l) }

/-- `bs` placed in `data` from index `i`. -/
def patch (data : List Byte) (i : Nat) (bs : List Byte) : List Byte :=
  data.take i ++ bs ++ data.drop (i + bs.length)

/-- `n` bytes from byte `i` of a line cover its word `w`. -/
def coversWord (i n w : Nat) : Bool := decide (i ≤ 8 * w) && decide (8 * w + 8 ≤ i + n)

/-- The SRAM offset of word `w` of an L1 line of a set (11 R319, 12 R357). -/
def State.l1Offset (s : State) (cn pa : Nat) (l : Line) : Nat :=
  (16 - (s.cluster cn).l1Ways + l.way) * 0x20000 + pa / 64 % 2048 * 64 + pa % 64 / 8 * 8

/-- The record of an error in an L1 way, which always has severity 0 (12 R354). -/
def State.logL1 (s : State) (a : Agent) (inj : Bool) (pa : Nat) (l : Line) (syn : Byte) : State :=
  s.logCluster a.tid.cluster
    { inj := inj, strand := a.who, sev := 0, unit := 8, lgrp := 15, lane := 0, chan := 0, roll := false, syn := syn.toNat
      w2 := word (s.l1Offset a.tid.cluster pa l), w3 := word s.bodyEnc }

/-- The L1 of cluster `cn` after a store: a current line is updated (11 R321). It is no use of the line for the replacement order
(DESIGN CHOICE, log 83). -/
def State.l1Store (s : State) (cn pa : Nat) (bs : List Byte) : State :=
  match (s.cluster cn).l1Find pa with
  | none => s
  | some l =>
    s.onCluster cn fun c =>
      { c with
        l1 := NMap.set [] c.l1 (pa / 64 % 2048)
          ((NMap.get [] c.l1 (pa / 64 % 2048)).map fun (x : Line) =>
            if x = l then { l with data := patch l.data (pa % 64) bs, synd := l.synd.filter fun e => !coversWord (pa % 64) bs.length e.1 }
            else x) }

/-- The L1 of cluster `cn` without the line of an atomic (03 R90). -/
def State.l1Drop (s : State) (cn pa : Nat) : State :=
  if (s.cluster cn).l1 = [] then s
  else
    s.onCluster cn fun c =>
      { c with
        l1 := NMap.set [] c.l1 (pa / 64 % 2048)
          ((NMap.get [] c.l1 (pa / 64 % 2048)).filter fun (x : Line) => !decide (x.tag = pa / 64)) }

/-- The word at `pa` of the current L1 line is checked as a read hits it: a single-bit error is corrected, any other syndrome
invalidates the line, so that the read is served as a miss (12 R354). -/
def State.l1EccWord (s : State) (a : Agent) (pa : Nat) : State :=
  let cn := a.tid.cluster
  match (s.cluster cn).l1Find pa with
  | none => s
  | some l =>
    let w := pa % 64 / 8
    let y := NMap.get 0 l.synd w
    let put := fun (s : State) (m : Line) => s.onCluster cn fun c =>
      { c with
        l1 := NMap.set [] c.l1 (pa / 64 % 2048)
          ((NMap.get [] c.l1 (pa / 64 % 2048)).map fun (x : Line) => if x = l then m else x) }
    if y = 0 then s
    else match decodeSyn y with
      | .check _ => (put s { l with synd := NMap.set 0 l.synd w 0 }).logL1 a false pa l y
      | .data b =>
        (put s { l with
          synd := NMap.set 0 l.synd w 0
          data := l.data.modify (8 * w + b / 8) fun x => x ^^^ BitVec.ofNat 8 (2 ^ (b % 8)) }).logL1 a false pa l y
      | .bad => (s.logL1 a false pa l y).l1Drop cn pa

/-- The words of `n` bytes at a place that a read through the L1 touches are checked. -/
def State.l1Ecc (s : State) (a : Agent) (l1 : Bool) (p : Place) (n : Nat) : State :=
  if l1 && p.cached then
    (List.range ((p.key % 8 + n + 7) / 8)).foldl (fun (s : State) i => s.l1EccWord a (p.key / 8 * 8 + 8 * i)) s
  else s

/-- The L1 generation of a cluster advances (11 R323). -/
def State.advanceGen (s : State) (cn : Nat) : State :=
  s.onCluster cn fun c =>
    if c.gen + 1 = 0 then { c with gen := 0, l1 := [] } else { c with gen := c.gen + 1 }

/-- A scope is cl or wider (04 R122). -/
def wideScope : Scope → Bool
  | .st | .co => false
  | _ => true

/-- An acquire of this scope by a strand of the cluster completes (04 R122). -/
def State.acquire (s : State) (cn : Nat) (sc : Scope) : State := if wideScope sc then s.advanceGen cn else s

/-! ### Replies and the congestion window (13 R369) -/

/-- Whether a reply is marked (13 R369). -/
def Reply.marked : Reply → Bool
  | .flit m => m
  | .own n => Config.replyMarked n

/-- The congestion window of a cluster: replies of the round so far, WIN and MARKS. -/
structure CongWindow where
  round : Nat
  win : Nat
  marks : Nat
  deriving DecidableEq, Repr

/-- A window after one more reply: it changes once in a round of WIN replies. At the first marked one it halves, and without one it grows
by one (13 R369). -/
def CongWindow.after (r : Reply) (w : CongWindow) : CongWindow :=
  if r.marked then ⟨0, max 4 (w.win / 2), min 65535 (w.marks + 1)⟩
  else if w.round + 1 < w.win then { w with round := w.round + 1 }
  else { w with round := 0, win := min 64 (w.win + 1) }

/-- The congestion window of a cluster: 64 and no mark at package reset, then as its replies leave it (13 R369). -/
def State.congestion (s : State) (c : Nat) : CongWindow := (s.cluster c).replies.foldr CongWindow.after ⟨0, 64, 0⟩

/-- A reply returns to a cluster (13 R369). -/
def State.replyBack (s : State) (c : Nat) (r : Reply) : State := s.onCluster c fun x => { x with replies := r :: x.replies }

/-- A reply from a home of this package: whether it is marked depends on the routers' buffers (log 79). -/
def State.noteReply (s : State) (c : Nat) : State := State.replyBack { s with fresh := s.fresh + 1 } c (.own s.fresh)

/-- A request for the place leaves the agent's cluster on subnetwork 0: to an L2 slice, to another cluster's SRAM or to an edge unit
(13 R367). Those to another node are answered by its flit. -/
def Place.leaves (p : Place) (a : Agent) : Bool :=
  !a.sysDie && match p.kind with
    | .tcm | .remote | .coll => false
    | .sram => !decide ((p.key - 2 ^ 53) / 2 ^ 21 = a.tid.cluster)
    | _ => true

/-- The reply to a request of an agent for a place comes back to its cluster. -/
def State.replied (s : State) (a : Agent) (p : Place) : State := if p.leaves a then s.noteReply a.tid.cluster else s

/-! ### Reading and writing at a place -/

/-- The L2 slices and memory-side caches after a read at a place, which may leave a replica on the reader's die (13 R371, R372,
R397). -/
def State.noteReplica (s : State) (a : Agent) (p : Place) : State :=
  let k := s.redirect p.key
  let s := if p.replica then s.ecc a.who (k / 64 * 64) 64 else s
  s.cacheRead a.die a.part p.key k p.keyId p.fills (p.replica && !s.poisonedIn (k / 64 * 64) 64)

/-- The bytes that a read of `n` bytes returns, and whether a word of them is poisoned. `l1` says that the read may hit
the cluster L1. -/
def State.readPlace (s : State) (a : Agent) (l1 : Bool) (p : Place) (n : Nat) : List Byte × Bool :=
  let hit := if l1 && p.cached then (s.cluster a.tid.cluster).l1Find p.key else none
  match hit with
  | some l => ((l.data.drop (p.key % 64)).take n, false)
  | none =>
    let k := s.redirect p.key
    (s.plainBytes p.keyId k n, s.poisonedIn k n)

/-- The state after that read: a hit in the L1 ends there; a miss goes to L2. -/
def State.afterRead (s : State) (a : Agent) (l1 : Bool) (p : Place) : State :=
  if p.cached then
    (if l1 then
      (if ((s.cluster a.tid.cluster).l1Find p.key).isSome then s else State.noteReplica s a p).l1Load a p
     else State.noteReplica s a p)
  else s

/-- The value of a register reached by an ordinary load: a die barrier or a doorbell (13 R396, 14 R407). -/
def State.readReg (s : State) (p : Place) : List Byte := natLe (s.rd p.key).toNat 8

/-- The line of a store at its home (13 R371): an absent line is fetched and each of its words checked (13 R397); one that DRAM holds
stays in the slice's merge buffer (14 R421). -/
def State.storeLine (s : State) (a : Agent) (p : Place) : State :=
  let k := s.redirect p.key
  if s.dramHolds none k p.keyId then
    s.onSys fun y =>
      { y with merges := y.merges ++ [{ part := a.part, addr := k, keyId := p.keyId, fills := p.fills, who := a.who, raw := s.bodyEnc }] }
  else ((if s.l2Has none k p.keyId then s else s.ecc a.who (k / 64 * 64) 64).cacheWrite a.part k p.keyId p.fills)

/-- The stores in the merge buffers are merged with their lines, in the order in which they came (13 R371, 14 R421). -/
def State.mergeAll (s : State) : State :=
  s.sys.merges.foldl (fun (s : State) m =>
    let c := State.ecc { s with ir := .w32 (BitVec.ofNat 32 m.raw) } m.who (m.addr / 64 * 64) 64
    State.cacheWrite { c with ir := s.ir } m.part m.addr m.keyId m.fills) (s.onSys fun y => { y with merges := [] })

/-- A store performs at a place: at the bank, at the home with the issuing cluster's L1 updated, at a register, or as a
posted write of the host port or a flit (03 R87, 13 R396, 14 R407, 15 R433). -/
def State.writePlace (s : State) (a : Agent) (l1 : Bool) (p : Place) (bs : List Byte) : State :=
  match p.kind with
  | .dieBar => s.wr p.key (word (leNat bs))
  | .doorbell =>
    (match region p.key with
     | .doorbell q 0 => s.pushFront [.qnotifyWrite (BitVec.ofNat 8 q) (word (leNat bs))]
     | .doorbell q 16 => s.pushFront [.qstatRestart (BitVec.ofNat 8 q) (word (leNat bs))]
     | _ => s)
  | .host => s.onSys fun y => { y with hostOut := y.hostOut ++ [
      .write (s.hostFn a.tenant) (p.key - 0x8000000000000) bs a.who a.tenant s.bodyEnc] }
  | .tcm | .sram => s.homeWrite a.who p.keyId p.key bs
  | .remote | .coll => s
  | .dram | .msc | .save =>
    ((if l1 && p.cached then s.l1Store a.tid.cluster p.key bs else s).homeWrite a.who p.keyId (s.redirect p.key) bs).storeLine a p

end Sys2Proof.Machine
end

