-- ==== Sys2Proof/Machine/Barrier.lean ====
section
/-! DEFINITION. The barriers of a cluster (11 R340 to R344) and waking a parked strand. -/

namespace Sys2Proof.Machine

open Sys2Proof

/-- The context number within its cluster (01 R21). -/
def Tid.inCluster (t : Tid) : Nat := t.toNat % 64

/-- Barrier `k` of cluster `c`. -/
def State.barrier (s : State) (c k : Nat) : Barrier := NMap.get Barrier.reset (s.cluster c).barriers k

/-- Barrier `k` of cluster `c` replaced. -/
def State.setBarrier (s : State) (c k : Nat) (b : Barrier) : State :=
  s.onCluster c fun x => { x with barriers := NMap.set Barrier.reset x.barriers k b }

/-- Bit `i` of a set of marks, set or cleared. -/
def markBit (m : BitVec 64) (i : Nat) (b : Bool) : BitVec 64 := setBit m i b

/-- The barrier is ACTIVE for a tenant. -/
def Barrier.usable (b : Barrier) (t : TenantNo) : Bool := b.active && decide (b.owner = t)

/-- A parked strand's instruction completes and it is ready again (05 R170, 11 R343, 14 R423). -/
def Strand.wake (x : Strand) (d : Option Reg) : Strand :=
  { x with run := .running, park := none, pc := x.pc + 4, ctl := x.ctl.noteDest d }

/-- BARW returns for context `t`: its done mark is cleared, and the return is an acquire at cl or wider (04 R134). -/
def State.barwReturn (s : State) (t : Tid) (k : Nat) : State :=
  let c := t.cluster
  let b := s.barrier c k
  ((s.setBarrier c k { b with done := markBit b.done (Tid.inCluster t) false }).advanceGen c).onStrand t fun x => x.wake none

/-- The strands parked at barrier `k` whose phase has completed wake. -/
def State.wakeBarw (s : State) (k : Nat) : List Tid → State
  | [] => s
  | t :: ts =>
    let s1 := if (s.strand t).run = .parked (.barw k) ∧ (s.barrier t.cluster k).done.getLsbD (Tid.inCluster t) = true
      then s.barwReturn t k else s
    State.wakeBarw s1 k ts

/-- An arrival at barrier `k` of cluster `c` counts (11 R340). -/
def State.barrierArrive (s : State) (c k : Nat) : State :=
  let b := s.barrier c k
  if b.arrived + 1 < b.count then s.setBarrier c k { b with arrived := b.arrived + 1 }
  else
    (s.setBarrier c k { b with arrived := 0, done := b.done ||| b.wait, wait := 0 }).wakeBarw k (s.clusterTids c)

/-- The wait mark of a context set and its done mark cleared (11 R342). -/
def State.barrierMark (s : State) (t : Tid) (k : Nat) : State :=
  let b := s.barrier t.cluster k
  s.setBarrier t.cluster k
    { b with wait := markBit b.wait (Tid.inCluster t) true, done := markBit b.done (Tid.inCluster t) false }

/-- A strand of the tenant has been switched off this context: its marks stay with the barriers of its tenant (11 R345). -/
def State.leftHere (s : State) (t : Tid) (tenant : TenantNo) : Bool :=
  s.sys.saved.any fun (e : Tid × Strand) => decide (e.1 = t) && decide (e.2.ctl.tenant = tenant)

/-- The marks of a context cleared in every barrier of its cluster (11 R340), but for those of a strand that has been switched off it. -/
def State.clearMarks (s : State) (t : Tid) : State :=
  s.onCluster t.cluster fun x =>
    { x with
      barriers := x.barriers.foldl (fun m (e : Nat × Barrier) =>
        NMap.set Barrier.reset m e.1 (if s.leftHere t e.2.owner then e.2 else
          { e.2 with wait := markBit e.2.wait (Tid.inCluster t) false, done := markBit e.2.done (Tid.inCluster t) false })) [] }

/-- A tenant's strand on the context has a mark on some barrier. -/
def State.marked (s : State) (t : Tid) (tenant : TenantNo) : Bool :=
  (s.cluster t.cluster).barriers.any fun (e : Nat × Barrier) =>
    decide (e.2.owner = tenant) && (e.2.wait.getLsbD (Tid.inCluster t) || e.2.done.getLsbD (Tid.inCluster t))

/-- The strand of the context has a mark on some barrier (11 R345). -/
def State.hasMark (s : State) (t : Tid) : Bool := s.marked t (s.strand t).ctl.tenant

end Sys2Proof.Machine
end

