-- ==== Sys2Proof/Machine/Fetch.lean ====
section
/-! DEFINITION. Fetching an instruction: translation (05 R153), the instruction cache (05 R152, R154) and the framing of its
parcels (02 R39 to R41). -/

namespace Sys2Proof.Machine

open Sys2Proof

/-- Why a parcel is not delivered. -/
inductive FetchBad
  /-- It cannot be fetched; TVAL is its address (02 R41, 05 R153). -/
  | fault (addr : Word)
  /-- The access waits. -/
  | hold
  deriving DecidableEq, Repr

/-- The instruction-cache set of a physical address: 64 sets (05 R152, log 15). -/
def icacheSet (pa : Nat) : Nat := pa / 64 % 64

/-- The instruction-cache line of a core that holds a physical address. -/
def Core.icacheFind (c : Core) (pa : Nat) : Option Line :=
  (NMap.get [] c.icache (icacheSet pa)).find? fun (l : Line) => decide (l.tag = pa / 64)

/-- The instruction cache after a fetch of `line` (05 R152). -/
def Core.icachePut (c : Core) (pa : Nat) (data : List Byte) : Core :=
  let k := icacheSet pa
  let set := (NMap.get [] c.icache k).filter fun (l : Line) => !decide (l.tag = pa / 64)
  { c with icache := NMap.set [] c.icache k (({ way := 0, tag := pa / 64, gen := 0, data := data, synd := [] } :: set).take 4) }

/-- The place of a parcel, through the cluster's TLB with fetch permission (05 R153). An executable page that maps the host, another node, a
doorbell or a collective page gives a fetch fault too: the spec lists no fetch among the accesses that these answer (15 R433, 16 R448), and
R153 has no such case (DESIGN CHOICE, log 90). -/
def State.fetchPlace (s : State) (pc : Word) : Except Bad Place :=
  if fld pc 48 16 = 0 then
    match s.resolveGlobal s.agent .fetch (fld pc 0 48) 2 with
    | .ok p => if p.kind = .host ∨ p.kind = .remote ∨ p.kind = .doorbell ∨ p.kind = .coll then .error (.trap 0x01) else .ok p
    | .error e => .error e
  else .error (.trap 0x01)

/-- The 64 bytes of the line that holds a parcel: from the instruction cache, or from the home, each of whose words is checked as
it is read (05 R152, 13 R397). A line with a poisoned word cannot be fetched (log 15). -/
def State.fetchLine (s : State) (p : Place) : State × Option (List Byte) :=
  match (s.core s.tid.core).icacheFind p.key with
  | some l => (s, some l.data)
  | none =>
    let k := s.redirect (p.key / 64 * 64)
    let s1 := (s.lineCheck (some s.tid) k 64).replied s.agent p
    (s1, if s1.poisonedIn k 64 then none else some (s1.plainBytes p.keyId k 64))

/-- The fetch buffer of the strand in focus holds the bytes of this place (05 R154). -/
def State.fetchBuffered (s : State) (p : Place) : Option (List Byte) :=
  match s.me.fbuf with
  | some b => if b.1 = p.key / 32 then some b.2 else none
  | none => none

/-- A parcel at `pc`, with the state after its fetch: TLB, fetch buffer, instruction cache and replica. One whose line only DRAM holds
waits for the end of a drain or a lull (14 R421). -/
def State.fetchParcel (s : State) (pc : Word) : State × Except FetchBad (BitVec 16) :=
  match s.fetchPlace pc with
  | .error .hold => (s, .error .hold)
  | .error (.entry die pa) => (((s.noteAccess s.agent pc [2]).logEntry s.agent die pa), .error (.fault pc))
  | .error (.trap _) => (if fld pc 48 16 = 0 then s.noteAccess s.agent pc [2] else s, .error (.fault pc))
  | .ok p =>
    let s0 := s.noteAccess s.agent pc [2]
    let parcel := fun (bs : List Byte) (i : Nat) => (BitVec.ofNat 16 (leNat ((bs.drop i).take 2)) : BitVec 16)
    match s0.fetchBuffered p with
    | some bs => (s0, .ok (parcel bs (p.key % 32)))
    | none =>
      if ((s0.core s0.tid.core).icacheFind p.key).isNone && s0.lineHeld (some s0.tid.die) (s0.redirect p.key) p.keyId then
        (s0, .error .hold)
      else match s0.fetchLine p with
      | (s1, none) => (s1, .error (.fault pc))
      | (s1, some d) =>
        let s2 := if ((s1.core s1.tid.core).icacheFind p.key).isSome then s1 else s1.noteReplica s1.agent p
        let s3 := (s2.onCore s2.tid.core fun c => c.icachePut p.key d).onMe fun x =>
          { x with fbuf := some (p.key / 32, (d.drop (p.key % 64 / 32 * 32)).take 32) }
        (s3, .ok (parcel d (p.key % 64)))

/-- `n` parcels from `pc` upward; the first that cannot be fetched decides (02 R41). -/
def State.fetchParcels (s : State) (pc : Word) : Nat → State × Except FetchBad (List (BitVec 16))
  | 0 => (s, .ok [])
  | n + 1 =>
    match s.fetchParcel pc with
    | (s1, .error e) => (s1, .error e)
    | (s1, .ok w) =>
      match State.fetchParcels s1 (pc + 2) n with
      | (s2, .error e) => (s2, .error e)
      | (s2, .ok ws) => (s2, .ok (w :: ws))

/-- Parcels of the instruction whose first parcel is `w` (02 R39, R50). -/
def parcels (w : BitVec 16) : Nat :=
  match (w.extractLsb' 14 2).toNat with
  | 0 => 1
  | 3 => 4
  | _ => 2

/-- The words of an instruction from its parcels. -/
def wordsOf : List (BitVec 16) → Words
  | [a] => .w16 a
  | [a, b] => .w32 (b ++ a)
  | [a, b, c, d] => .w64 (b ++ a) (d ++ c)
  | _ => .event

/-- The instruction at the program counter of the strand in focus. -/
def State.fetch (s : State) : State × Except FetchBad Words :=
  match s.fetchParcel s.me.pc with
  | (s1, .error e) => (s1, .error e)
  | (s1, .ok w) =>
    match s1.fetchParcels (s.me.pc + 2) (parcels w - 1) with
    | (s2, .error e) => (s2, .error e)
    | (s2, .ok ws) => (s2, .ok (wordsOf (w :: ws)))

/-- A fetch fault: it traps, but at the address in TVEC at supervisor level it is a handler fault (04 R148). -/
def State.fetchFault (s : State) (addr : Word) : State :=
  if s.me.ctl.priv = .sup ∧ s.me.pc = evenPc s.me.ctl.tvec then s.push (.handlerFault s.tid)
  else s.takeTrap ⟨0x01, addr, 0⟩

end Sys2Proof.Machine
end

