-- ==== Sys2Proof/Machine/Sched.lean ====
section
/-! DEFINITION. Which step happens next: the choice of a context (05 R150, R151), the passing of clocks and ticks (log 3) and
the calendar's next event (14 R420, R421). -/

namespace Sys2Proof.Machine

open Sys2Proof

/-- The context may issue (05 R151). -/
def Strand.ready (x : Strand) : Bool := decide (x.run = .running) && !x.held

/-- The contexts of core `c` that may issue, in the order in which it examines them: from the one after its pointer (05 R150). -/
def State.examined (s : State) (c : Nat) : List Tid :=
  let p := (s.core c).pointer
  ([p + 1, p + 2, p + 3, p + 4].map fun i => (BitVec.ofNat 13 (4 * c + i % 4) : Tid)).filter fun t => (s.strand t).ready

/-- The next tick at which the calendar does something (14 R420, R421, R424): a drain or a lull starts, the lull in progress or its
overrun ends. -/
def Lull.boundary (l : Lull) : Nat :=
  match l.phase with
  | .clear => l.start - 256
  | .drain => l.start
  | .lull => min (if l.joined then l.start else l.start - 256) (if l.late = 0 then l.ends else l.late)

/-- What the lulls whose end has come have to do: those of an overrun, and the lull in progress (14 R424). -/
def Lull.ended (l : Lull) (time : Nat) : List Chores :=
  if l.late = 0 then (if l.ends ≤ time then [l.work] else [])
  else if l.late ≤ time then l.lateWork ++ (if l.ends ≤ time then [l.work] else [])
  else []

/-- A change of clock step takes effect now: at the actual end of its lull (15 R437). -/
def Lull.relocks (l : Lull) (time : Nat) : Bool := decide (l.phase = .lull) && (l.ended time).any fun c => c.relock.isSome

/-- The clock is stopped for a change of its step: the last 400 ticks before the lull's scheduled end (15 R437, log 25). -/
def Lull.stopped (l : Lull) (time : Nat) : Bool :=
  l.stepDue && decide (l.phase = .lull) && decide (l.ends ≤ time + 400) && decide (time < l.ends)

/-- The latest tick that a step may pass to. -/
def Lull.limit (l : Lull) (time : Nat) : Nat :=
  max time (if l.stepDue && decide (l.phase = .lull) then
      min l.boundary (if time + 400 < l.ends then l.ends - 400 else if time < l.ends then l.ends else l.boundary)
    else l.boundary)

/-- The calendar's event that is due, with what the environment reports at it (log 24). -/
def State.due (s : State) : Option Event :=
  let l := s.sys.lull
  let begins : Event := .lullStart (Config.hotReport l.start) (Config.junction l.start)
  let ends : Event := .lullEnd (Config.failedLinks s.time) (Config.failedPorts s.time)
  if l.boundary ≤ s.time then
    some (match l.phase with
      | .clear => .lullDrainStart
      | .drain => begins
      | .lull =>
        if !l.joined && decide (l.start ≤ s.time + 256) then .lullDrainStart
        else if decide (0 < l.late) then
          (if s.time < l.late then begins else if l.relocks s.time then .relockDone else ends)
        else if !l.overrun && decide (0 < Config.overrunTicks l.ends) then .lullOverrun (Config.overrunTicks l.ends)
        else if l.relocks s.time then .relockDone
        else if l.start ≤ s.time then begins
        else ends)
  else none

/-- Clocks and ticks pass (log 3); no step passes over a calendar boundary. -/
def State.tick (s : State) : State :=
  let l := s.sys.lull
  let n := if l.stopped s.time then 0 else 1 + Config.stepClocks s.fresh
  { s with
    cycle := s.cycle + n
    sys := { s.sys with pool := if l.phase = .clear then s.sys.pool + n else s.sys.pool }
    time := min (s.time + Config.stepTicks s.fresh) (l.limit s.time)
    fresh := s.fresh + 1 }

/-- The core whose turn it is: the next in cyclic order with a context that may issue (log 1). -/
def State.pick (s : State) : Option Nat :=
  if s.sys.fatal || s.sys.lull.stopped s.time then none
  else
    let ready := (s.boundTids.filter fun t => (s.strand t).ready).map Tid.core
    (ready.find? fun c => decide (s.tid.core < c)).or ready.head?

end Sys2Proof.Machine
end

