-- ==== Sys2Proof/Machine/Control.lean ====
section
/-! DEFINITION. Control registers: RDC, WRC, SETC and CLRC (01 R20 to R26, 03 R105 to R107), and the lull queries LULLQ and
LULLW (14 R422, R423). -/

namespace Sys2Proof.Machine

open Sys2Proof

/-! ### Values -/

/-- Bits of an element (01 R21). -/
def sewBits (code : Nat) : Nat := 8 * 2 ^ code

/-- The element width of a VT word, in bits. -/
def vtSew (vt : BitVec 12) : Nat := sewBits (vt.toNat % 8)

/-- The number of registers of a SHAPE (01 R21). -/
def shapeRegs (sh : BitVec 6) : Nat := 8 * 2 ^ (sh.toNat % 4)

/-- The banks of a SHAPE for vector registers. -/
def shapeVrf (sh : BitVec 6) : Nat := sh.toNat / 4 % 8

/-- 64-bit words that a register holds in a grant of `g` lane groups (06 R184, R190). -/
def wordsPerReg (g : Nat) (sh : BitVec 6) : Nat := 16 * g * (512 * shapeVrf sh / shapeRegs sh)

/-- VLMAX at an element width (06 R190). -/
def vlmaxAt (g : Nat) (sh : BitVec 6) (sew : Nat) : Nat := wordsPerReg g sh * (64 / sew)

/-- VLMAX of a strand at the current element width. -/
def Strand.vlmax (x : Strand) : Nat := vlmaxAt x.ctl.lg.toNat x.ctl.shape (vtSew x.ctl.vt)

/-- STATUS as a word (01 R21). -/
def Ctl.status (c : Ctl) : Word :=
  word (c.pld.toNat * 2 ^ 19 + c.pldv.toNat * 2 ^ 18 + c.ld.toNat * 2 ^ 13 + c.ldv.toNat * 2 ^ 12 + c.rchk.toNat * 2 ^ 11
    + c.mt.toNat * 2 ^ 10 + (decide (c.lg ≠ 0)).toNat * 2 ^ 9 + c.move.toNat * 2 ^ 8 + c.ppriv.code * 4 + c.priv.code)

/-- VQSTAT as a word (01 R21). -/
def Strand.vqstat (x : Strand) : Word :=
  let busy := fun (i : Nat) => decide ((x.slots[i]?.map Slot.phase).getD .free ≠ .free)
  word (x.ctl.sql.toNat * 2 ^ 8 + (busy 3).toNat * 2 ^ 7 + (busy 2).toNat * 2 ^ 6 + (busy 1).toNat * 2 ^ 5
    + (busy 0).toNat * 2 ^ 4 + x.queue.length)

/-- The first multiple of 7,680 at or after `n`. -/
def calendarFrom (n : Nat) : Nat := (n + 7679) / 7680 * 7680

/-- The calendar that governs the next lull is the high-temperature one (14 R420): as far as the lulls in progress say, it takes effect
after them, or ends with them. -/
def Lull.nextHot (l : Lull) : Bool :=
  (l.hot && !(l.work :: l.lateWork).any Chores.cool) || (match l.hotFrom with | some h => decide (h ≤ l.start) | none => false)
    || (l.work.hotSeen && decide (calendarFrom (max l.ends l.late) ≤ l.start))
    || (l.lateWork.any Chores.hotSeen && decide (calendarFrom l.late ≤ l.start))

/-- LULLKIND of the next lull (01 R21). -/
def Lull.kind (l : Lull) : Word :=
  word (l.nextHot.toNat * 4 + (if l.start % 983040 = 0 then 1 else 0))

/-- The value of an assigned control register; none for an unassigned number (01 R20, R21). -/
def State.ctlValue (s : State) (n : Nat) : Option Word :=
  let c := s.me.ctl
  match n with
  | 0x001 => some (c.es.setWidth 64)
  | 0x002 => some c.seed
  | 0x003 => some c.sbase
  | 0x004 => some (c.fflags.setWidth 64)
  | 0x005 => some (c.frm.setWidth 64)
  | 0x006 => some (c.iflags.setWidth 64)
  | 0x007 => some (c.rnscfg.setWidth 64)
  | 0x008 => some (c.trows.setWidth 64)
  | 0x009 => some (c.tcols.setWidth 64)
  | 0x400 => some (c.vl.setWidth 64)
  | 0x401 => some (c.vt.setWidth 64)
  | 0x402 => some (c.lg.setWidth 64)
  | 0x403 => some (c.shape.setWidth 64)
  | 0x404 => some (word s.me.vlmax)
  | 0x405 => some s.me.vqstat
  | 0x410 => some (s.tid.setWidth 64)
  | 0x411 => some (c.tenant.setWidth 64)
  | 0x412 => some (c.part.setWidth 64)
  | 0x420 => some (word s.time)
  | 0x421 => some (word s.cycle)
  | 0x430 => some c.idx0
  | 0x431 => some c.idx1
  | 0x432 => some c.idx2
  | 0x433 => some c.idx3
  | 0x440 => some (word s.me.msgs.length)
  | 0x450 => some (word s.sys.lull.start)
  | 0x451 => some s.sys.lull.kind
  | 0x800 => some c.status
  | 0x801 => some c.tvec
  | 0x802 => some c.epc
  | 0x803 => some (c.cause.setWidth 64)
  | 0x804 => some c.tval
  | 0x805 => some c.tval2
  | _ => none

/-! ### Checks -/

/-- The values of RNSCFG.EN that form published sets (10 R310). -/
def legalEn (en : Nat) : Bool := [0xFF, 0xBF, 0x7F, 0xFE, 0xFD, 0xFB, 0xF7, 0xEF, 0xDF].any fun k => decide (k = en)

/-- The fields of a register that are not reserved, as a mask (00 R7, 01 R21). -/
def ctlMask (n : Nat) : Word :=
  match n with
  | 0x001 => 0xFFFFFFFF
  | 0x004 => 0x1F
  | 0x005 => 0x7
  | 0x006 => 0xF
  | 0x007 => 0x3FF
  | 0x008 | 0x009 => 0x7F
  | 0x412 => 0xF
  | 0x800 => 0xFFFF0F
  | 0x801 => 0xFFFFFFFFFFFFFFFC
  | 0x803 => 0x7F
  | _ => BitVec.allOnes 64

/-- A write of the value `v` is allowed by 00 R7 and 01 R24 to R26. -/
def Ctl.accepts (c : Ctl) (n : Nat) (v : Word) : Bool :=
  decide (v &&& ~~~ctlMask n = 0) &&
    match n with
    | 0x005 => decide (v.toNat ≤ 4)
    | 0x007 =>
      if c.priv = .app then decide (fld v 0 8 = c.rnscfg.toNat % 256) else legalEn (fld v 0 8)
    | 0x008 | 0x009 => decide (1 ≤ v.toNat ∧ v.toNat ≤ 64)
    | 0x800 => decide (fld v 2 2 ≠ 2) && decide (fld v 2 2 ≤ c.priv.code)
    | _ => true

/-- The register with the value `v` in its writable fields (03 R105). -/
def Ctl.put (c : Ctl) (n : Nat) (v : Word) : Ctl :=
  match n with
  | 0x001 => { c with es := v.setWidth 32 }
  | 0x002 => { c with seed := v }
  | 0x003 => { c with sbase := v }
  | 0x004 => { c with fflags := v.setWidth 5 }
  | 0x005 => { c with frm := v.setWidth 3 }
  | 0x006 => { c with iflags := v.setWidth 4 }
  | 0x007 => { c with rnscfg := v.setWidth 10 }
  | 0x008 => { c with trows := v.setWidth 7 }
  | 0x009 => { c with tcols := v.setWidth 7 }
  | 0x412 => { c with part := v.setWidth 4 }
  | 0x800 =>
    { c with
      pld := BitVec.ofNat 5 (fld v 19 5)
      pldv := bitOf v 18
      rchk := bitOf v 11
      ppriv := (Priv.ofCode (fld v 2 2)).getD c.ppriv }
  | 0x801 => { c with tvec := v }
  | 0x802 => { c with epc := v }
  | 0x803 => { c with cause := v.setWidth 7 }
  | 0x804 => { c with tval := v }
  | 0x805 => { c with tval2 := v }
  | _ => c

/-- The vector queue makes a control-register access wait (01 R22, 03 R106, 04 R144). -/
def Strand.queueBusy (x : Strand) : Bool := decide (x.ctl.priv = .app) && !x.queue.isEmpty

/-- A write of `v` to this register waits for the vector queue (03 R106). -/
def Ctl.writeWaits (c : Ctl) (n : Nat) (v : Word) : Bool :=
  (decide (1 ≤ n) && decide (n ≤ 9)) || (decide (n = 0x800) && !decide (bitOf v 11 = c.rchk))

/-- The trap that the access rules raise (01 R20), if any. -/
def State.ctlAccess (s : State) (n : Nat) (writes : Bool) : Option Trap :=
  match s.ctlValue n with
  | none => some s.illegal
  | some _ =>
    if n / 1024 = 2 ∧ s.isApp then some s.privViolation
    else if writes ∧ n / 1024 = 1 ∧ (n ≠ 0x412 ∨ s.isApp) then some s.illegal
    else none

/-- WRC, SETC or CLRC with `f` giving the value that would result (03 R105). -/
def State.ctlWrite (s : State) (n : Nat) (f : Word → Word) : Result :=
  match s.ctlAccess n true with
  | some t => s.trap t
  | none =>
    let v := f ((s.ctlValue n).getD 0)
    if s.me.ctl.writeWaits n v && s.me.queueBusy then .next s
    else if s.me.ctl.accepts n v then .next ((s.onCtl fun c => c.put n v).retire 4 none)
    else s.trap s.illegal

/-- RDC (03 R105). -/
def execRdc (d : Reg) (n : BitVec 12) (s : State) : Result :=
  match s.ctlAccess n.toNat false with
  | some t => s.trap t
  | none =>
    if (n = 0x004 ∨ n = 0x006) ∧ s.me.queueBusy then .next s
    else .next (s.writeReg 4 d ((s.ctlValue n.toNat).getD 0))

/-- WRC (03 R105). -/
def execWrc (a : Reg) (n : BitVec 12) (s : State) : Result := s.ctlWrite n.toNat fun _ => s.reg a

/-- SETC (03 R105). -/
def execSetc (a : Reg) (n : BitVec 12) (s : State) : Result := s.ctlWrite n.toNat fun c => c ||| s.reg a

/-- CLRC (03 R105). -/
def execClrc (a : Reg) (n : BitVec 12) (s : State) : Result := s.ctlWrite n.toNat fun c => c &&& ~~~s.reg a

/-! ### Lull queries -/

/-- LULLQ (14 R422). -/
def execLullq (d a : Reg) (s : State) : Result :=
  let l := s.sys.lull
  .next (s.writeReg 4 d (match (s.reg a).toNat with
    | 0 => word l.start
    | 1 => l.kind
    | 2 => word l.stop
    | 3 => (match l.phase with
      | .clear => 0
      | .drain => 1
      | .lull => if l.late = 0 then 2 else 3)
    | 4 => word l.overruns
    | 5 => word l.lastEnd
    | _ => BitVec.allOnes 64))

/-- LULLW: the strand parks until the span in progress, or the next one, has ended (14 R423). -/
def execLullw (s : State) : Result :=
  .next (s.onMe fun x => { x with run := .parked (.lullw s.sys.lull.spans), parkedAt := s.sys.pool })

end Sys2Proof.Machine
end

