-- ==== Sys2Proof/Machine/Flags.lean ====
section
/-! DEFINITION. Floating-point values, RoundTo with its flags, and the IEEE operations (01 R18, 03 R96 to R103, 07 R215, R216,
R226, R229, R231). Values are exact dyadic numbers; every operation rounds once. -/

namespace Sys2Proof.Machine

open Sys2Proof

/-- FFLAGS.NV (01 R24). -/
def flagNV : BitVec 5 := 16
/-- FFLAGS.DZ. -/
def flagDZ : BitVec 5 := 8
/-- FFLAGS.OF. -/
def flagOF : BitVec 5 := 4
/-- FFLAGS.UF. -/
def flagUF : BitVec 5 := 2
/-- FFLAGS.NX. -/
def flagNX : BitVec 5 := 1

/-- A rounding mode in force (07 R226). -/
inductive RMode | rne | rtz | rdn | rup | rmm
  deriving DecidableEq, Repr

/-- The mode of FRM.MODE; FRM never holds 5 to 7 (01 R25). -/
def RMode.ofFrm (m : BitVec 3) : RMode :=
  match m.toNat with
  | 0 => .rne | 1 => .rtz | 2 => .rdn | 3 => .rup | _ => .rmm

/-- The mode of an instruction's rounding field (02 R61). -/
def RMode.of (r : Rm) (frm : BitVec 3) : RMode :=
  match r with
  | .rne => .rne | .rtz => .rtz | .rdn => .rdn | .rup => .rup | .rmm => .rmm | .dyn => RMode.ofFrm frm

/-- The floating formats (07 R215). -/
inductive FF | fp16 | bf16 | fp32 | fp64 | e4m3 | e5m2 | e2m1
  deriving DecidableEq, Repr

/-- Bits of a value. -/
def FF.width : FF → Nat
  | .fp16 | .bf16 => 16 | .fp32 => 32 | .fp64 => 64 | .e4m3 | .e5m2 => 8 | .e2m1 => 4

/-- Bits of the fraction field. -/
def FF.frac : FF → Nat
  | .fp16 => 10 | .bf16 => 7 | .fp32 => 23 | .fp64 => 52 | .e4m3 => 3 | .e5m2 => 2 | .e2m1 => 1

/-- The exponent bias. -/
def FF.bias : FF → Nat
  | .fp16 => 15 | .bf16 => 127 | .fp32 => 127 | .fp64 => 1023 | .e4m3 => 7 | .e5m2 => 15 | .e2m1 => 1

/-- The largest exponent field. -/
def FF.expMax (f : FF) : Nat := 2 ^ (f.width - 1 - f.frac) - 1

/-- The encoding of the largest finite magnitude. -/
def FF.maxFinite : FF → Nat
  | .e4m3 => 0x7E
  | .e2m1 => 7
  | f => f.expMax * 2 ^ f.frac - 1

/-- The encoding of +infinity, where the format has one. -/
def FF.infBits (f : FF) : Nat := f.expMax * 2 ^ f.frac

/-- The format saturates on overflow (07 R229). -/
def FF.saturates : FF → Bool
  | .e4m3 | .e2m1 => true
  | _ => false

/-- The canonical quiet NaN; a NaN written as E2M1 becomes +0 (07 R229). -/
def FF.canon : FF → Nat
  | .e4m3 => 0x7F
  | .e2m1 => 0
  | f => f.infBits + 2 ^ (f.frac - 1)

/-- The sign bit. -/
def FF.signBit (f : FF) : Nat := 2 ^ (f.width - 1)

/-- Emin (01 R18). -/
def FF.emin (f : FF) : Int := 1 - (f.bias : Int)

/-- The format of a scalar instruction (02 R61). -/
def FF.ofFFmt : FFmt → FF
  | .fp16 => .fp16 | .bf16 => .bf16 | .fp32 => .fp32 | .fp64 => .fp64

/-- An exact value: a NaN, an infinity, or (−1)^neg · m · 2^e, with the sign of a zero kept. -/
inductive FVal
  | nan (signalling : Bool)
  | inf (neg : Bool)
  | fin (neg : Bool) (m : Nat) (e : Int)
  deriving DecidableEq, Repr

/-- The value that an encoding holds (07 R215, R216); bits above the format are ignored (01 R18). -/
def FF.value (f : FF) (w : Nat) : FVal :=
  let x := w % 2 ^ f.width
  let neg := decide (f.signBit ≤ x)
  let fr := x % 2 ^ f.frac
  let ex := x / 2 ^ f.frac % (f.expMax + 1)
  let special := match f with
    | .e2m1 => false
    | .e4m3 => decide (ex = 15 ∧ fr = 7)
    | _ => decide (ex = f.expMax)
  if special then
    (if f = .e4m3 then .nan false
     else if fr = 0 then .inf neg
     else .nan (decide (fr < 2 ^ (f.frac - 1))))
  else if ex = 0 then .fin neg fr (f.emin - f.frac)
  else .fin neg (2 ^ f.frac + fr) ((ex : Int) - f.bias - f.frac)

/-- A result with its flags. -/
abbrev FRes := Nat × BitVec 5

/-- A sign put on a magnitude's encoding. -/
def FF.signed (f : FF) (neg : Bool) (x : Nat) : Nat := if neg then f.signBit + x else x

/-- Number of significant bits. -/
def bits (n : Nat) : Nat := if n = 0 then 0 else n.log2 + 1

/-- How a magnitude stands to the multiples of a quantum: the multiple below it, and the rest against half a quantum. -/
structure Cut where
  /-- The multiple. -/
  n : Nat
  /-- The rest is zero. -/
  exact : Bool
  /-- The rest compared with half a quantum. -/
  half : Ordering
  deriving DecidableEq, Repr

/-- The magnitude m · 2^e, or one strictly above it and below (m + 1) · 2^e for `sticky`, cut at the quantum 2^u. -/
def cut (m : Nat) (e : Int) (sticky : Bool) (u : Int) : Cut :=
  if u ≤ e then { n := m * 2 ^ (e - u).toNat, exact := !sticky, half := .lt }
  else
    let d := (u - e).toNat
    if bits m + 1 < d then { n := 0, exact := decide (m = 0) && !sticky, half := .lt }
    else
      let r := m % 2 ^ d
      { n := m / 2 ^ d, exact := decide (r = 0) && !sticky
        half := if 2 * r < 2 ^ d then .lt else if 2 * r = 2 ^ d then (if sticky then .gt else .eq) else .gt }

/-- The cut rounds away from zero (07 R226). -/
def Cut.up (c : Cut) (mode : RMode) (neg : Bool) : Bool :=
  !c.exact &&
    match mode with
    | .rne => decide (c.half = .gt) || (decide (c.half = .eq) && decide (c.n % 2 = 1))
    | .rtz => false
    | .rdn => neg
    | .rup => !neg
    | .rmm => !decide (c.half = .lt)

/-- The encoding of the magnitude n · 2^u, with n below 2^(frac+1) or equal to it, at a quantum of the format. -/
def FF.pack (f : FF) (n : Nat) (u : Int) : Nat :=
  if n < 2 ^ f.frac then n else (u + f.frac + f.bias - 1).toNat * 2 ^ f.frac + n

/-- An overflow (07 R229). -/
def FF.overflow (f : FF) (mode : RMode) (neg : Bool) : FRes :=
  let toInf := match mode with
    | .rne | .rmm => true
    | .rtz => false
    | .rdn => neg
    | .rup => !neg
  (f.signed neg (if toInf && !f.saturates then f.infBits else f.maxFinite), flagOF ||| flagNX)

/-- RoundTo of a magnitude with a sign (07 R226); tininess is detected after rounding. -/
def FF.round (f : FF) (mode : RMode) (neg : Bool) (m : Nat) (e : Int) (sticky : Bool) : FRes :=
  if m = 0 ∧ !sticky then (f.signed neg 0, 0)
  else
    let top := e + bits m - 1
    let u := max (top - f.frac) (f.emin - f.frac)
    let c := cut m e sticky u
    let n := if c.up mode neg then c.n + 1 else c.n
    let x := f.pack n u
    if f.maxFinite < x then f.overflow mode neg
    else
      let w := cut m e sticky (top - f.frac)
      let full := (if w.up mode neg then w.n + 1 else w.n)
      let tiny := decide (top + (if full = 2 ^ (f.frac + 1) then 1 else 0) < f.emin)
      (f.signed neg x, if c.exact then 0 else if tiny then flagUF ||| flagNX else flagNX)

/-- The zero of a sign. -/
def FF.zero (f : FF) (neg : Bool) : FRes := (f.signed neg 0, 0)

/-- An infinity; a format without one saturates with NV (07 R229). -/
def FF.inf (f : FF) (neg : Bool) : FRes :=
  if f.saturates then (f.signed neg f.maxFinite, flagNV) else (f.signed neg f.infBits, 0)

/-- The canonical NaN, with NV when an operand was signalling. -/
def FF.nan (f : FF) (nv : Bool) : FRes := (f.canon, if nv then flagNV else 0)

/-- A NaN. -/
def FVal.isNan : FVal → Bool
  | .nan _ => true
  | _ => false

/-- A signalling NaN. -/
def FVal.isSig : FVal → Bool
  | .nan s => s
  | _ => false

/-- The value with its sign inverted; a NaN stays as it is. -/
def FVal.negate : FVal → FVal
  | .nan s => .nan s
  | .inf n => .inf !n
  | .fin n m e => .fin (!n) m e

/-- The value multiplied by 2^k. -/
def FVal.scale (k : Int) : FVal → FVal
  | .fin n m e => .fin n m (e + k)
  | v => v

/-- The exact product, and whether it is 0 × ∞. NaN operands are the caller's. -/
def FVal.mul : FVal → FVal → FVal × Bool
  | .fin n m e, .fin k q g => (.fin (n ^^ k) (m * q) (e + g), false)
  | .inf n, .inf k => (.inf (n ^^ k), false)
  | .inf n, .fin k q _ => if q = 0 then (.nan false, true) else (.inf (n ^^ k), false)
  | .fin n m _, .inf k => if m = 0 then (.nan false, true) else (.inf (n ^^ k), false)
  | _, _ => (.nan false, false)

/-- A signed mantissa. -/
def signedMant (neg : Bool) (m : Nat) : Int := if neg then -(m : Int) else m

/-- The exact sum of two finite values, as a signed mantissa and an exponent. -/
def dyAdd (a : Int) (e : Int) (b : Int) (g : Int) : Int × Int :=
  let u := min e g
  (a * 2 ^ (e - u).toNat + b * 2 ^ (g - u).toNat, u)

/-- RoundTo of a sum of two values that are not NaNs (03 R97). -/
def FF.sum (f : FF) (mode : RMode) : FVal → FVal → FRes
  | .inf n, .inf k => if n = k then f.inf n else f.nan true
  | .inf n, _ => f.inf n
  | _, .inf k => f.inf k
  | .fin n m e, .fin k q g =>
    let z := dyAdd (signedMant n m) e (signedMant k q) g
    if z.1 = 0 then f.zero (if m = 0 ∧ q = 0 ∧ n = k then n else decide (mode = .rdn))
    else f.round mode (decide (z.1 < 0)) z.1.natAbs z.2 false
  | _, _ => f.nan false

/-- FADD (03 R97). -/
def FF.add (f : FF) (mode : RMode) (a b : FVal) : FRes :=
  if a.isNan || b.isNan then f.nan (a.isSig || b.isSig) else f.sum mode a b

/-- FMA on values: a × b + d (03 R97). -/
def FF.fma (f : FF) (mode : RMode) (negProd : Bool) (a b d : FVal) : FRes :=
  let p := a.mul b
  if p.2 then f.nan true
  else if a.isNan || b.isNan || d.isNan then f.nan (a.isSig || b.isSig || d.isSig)
  else f.sum mode (if negProd then p.1.negate else p.1) d

/-- RoundTo of a single exact value. -/
def FF.ofVal (f : FF) (mode : RMode) : FVal → FRes
  | .nan s => if f = .e2m1 then f.nan true else f.nan s
  | .inf n => f.inf n
  | .fin n m e => f.round mode n m e false

/-- FMUL (03 R97). -/
def FF.mul (f : FF) (mode : RMode) (a b : FVal) : FRes :=
  let p := a.mul b
  if p.2 then f.nan true
  else if a.isNan || b.isNan then f.nan (a.isSig || b.isSig)
  else f.ofVal mode p.1

/-- RoundTo of the exact quotient of two positive magnitudes. -/
def FF.quot (f : FF) (mode : RMode) (neg : Bool) (m : Nat) (e : Int) (q : Nat) (g : Int) : FRes :=
  let k := f.frac + 4 + bits q
  let n := m * 2 ^ k
  f.round mode neg (n / q) (e - g - k) (!decide (n % q = 0))

/-- FDIV (03 R97). -/
def FF.div (f : FF) (mode : RMode) (a b : FVal) : FRes :=
  if a.isNan || b.isNan then f.nan (a.isSig || b.isSig)
  else
    match a, b with
    | .inf _, .inf _ => f.nan true
    | .inf n, .fin k _ _ => f.inf (n ^^ k)
    | .fin n _ _, .inf k => f.zero (n ^^ k)
    | .fin n m e, .fin k q g =>
      if q = 0 then (if m = 0 then f.nan true else ((f.inf (n ^^ k)).1, flagDZ))
      else if m = 0 then f.zero (n ^^ k)
      else f.quot mode (n ^^ k) m e q g
    | _, _ => f.nan false

/-- The integer square root, bit by bit from bit `k` downward. -/
def isqrtBits (n : Nat) : Nat → Nat → Nat
  | 0, r => r
  | k + 1, r => isqrtBits n k (if (r + 2 ^ k) * (r + 2 ^ k) ≤ n then r + 2 ^ k else r)

/-- The integer square root. -/
def isqrt (n : Nat) : Nat := isqrtBits n (bits n / 2 + 1) 0

/-- The square root of m · 2^e with at least `p` bits: mantissa, exponent and whether it is inexact. -/
def sqrtParts (p m : Nat) (e : Int) : Nat × Int × Bool :=
  let k := 2 * p + (if (e % 2) = 0 then 0 else 1)
  let n := m * 2 ^ k
  let r := isqrt n
  (r, (e - k) / 2, !decide (r * r = n))

/-- FSQRT (03 R97). -/
def FF.sqrt (f : FF) (mode : RMode) (a : FVal) : FRes :=
  match a with
  | .nan s => f.nan s
  | .inf n => if n then f.nan true else f.inf false
  | .fin n m e =>
    if m = 0 then f.zero n
    else if n then f.nan true
    else
      match sqrtParts (f.frac + 4) m e with
      | (r, g, sticky) => f.round mode false r g sticky

/-- Order of two values that are not NaNs, zeros equal. -/
def FVal.cmp : FVal → FVal → Ordering
  | .inf n, .inf k => if n = k then .eq else if n then .lt else .gt
  | .inf n, _ => if n then .lt else .gt
  | _, .inf k => if k then .gt else .lt
  | .fin n m e, .fin k q g =>
    let u := min e g
    compare (signedMant n m * 2 ^ (e - u).toNat) (signedMant k q * 2 ^ (g - u).toNat)
  | _, _ => .eq

/-- The sign of a value. -/
def FVal.neg : FVal → Bool
  | .nan _ => false
  | .inf n => n
  | .fin n _ _ => n

/-- FMIN and FMAX of two encodings (03 R98). -/
def FF.minmax (f : FF) (isMax : Bool) (x y : Nat) : FRes :=
  let a := f.value x
  let b := f.value y
  let nv := if a.isSig || b.isSig then flagNV else 0
  let xs := x % 2 ^ f.width
  let ys := y % 2 ^ f.width
  if a.isNan && b.isNan then (f.canon, nv)
  else if a.isNan then (ys, nv)
  else if b.isNan then (xs, nv)
  else
    let less := match a.cmp b with
      | .lt => true
      | .gt => false
      | .eq => a.neg && !b.neg
    (if less = isMax then ys else xs, nv)

/-- FCMP by predicate: eq, ne, lt or le (03 R100, 08 R257). -/
def fcmp (p : Pred) (a b : FVal) : Bool × BitVec 5 :=
  let nan := a.isNan || b.isNan
  let sig := if a.isSig || b.isSig then flagNV else 0
  let any := if nan then flagNV else 0
  match p with
  | .eq => (!nan && decide (a.cmp b = .eq), sig)
  | .ne => (nan || !decide (a.cmp b = .eq), sig)
  | .lt => (!nan && decide (a.cmp b = .lt), any)
  | .le => (!nan && !decide (a.cmp b = .gt), any)

/-- FCLASS (03 R101). -/
def FF.classify (f : FF) (x : Nat) : Nat :=
  match f.value x with
  | .nan s => if s then 2 ^ 8 else 2 ^ 9
  | .inf n => if n then 1 else 2 ^ 7
  | .fin n m _ =>
    if m = 0 then (if n then 2 ^ 3 else 2 ^ 4)
    else if m < 2 ^ f.frac then (if n then 2 ^ 2 else 2 ^ 5)
    else (if n then 2 else 2 ^ 6)

/-- An integer in a floating format; a zero gives +0 (07 R229). -/
def FF.ofInt (f : FF) (mode : RMode) (z : Int) : FRes := f.round mode (decide (z < 0)) z.natAbs 0 false

/-- A value converted to an integer of the range lo to hi (03 R103). -/
def toInteger (mode : RMode) (lo hi : Int) (v : FVal) : Int × BitVec 5 :=
  match v with
  | .nan _ => (0, flagNV)
  | .inf n => (if n then lo else hi, flagNV)
  | .fin n m e =>
    if m = 0 then (0, 0)
    else if 70 < e + bits m then (if n then lo else hi, flagNV)
    else
      let c := cut m e false 0
      let k := if c.up mode n then c.n + 1 else c.n
      let z := signedMant n k
      if z < lo then (lo, flagNV) else if hi < z then (hi, flagNV) else (z, if c.exact then 0 else flagNX)

/-- Stochastic rounding of an exact value with the draw `r` (07 R231). -/
def FF.stochastic (f : FF) (r : Word) (v : FVal) : FRes :=
  match v with
  | .fin n m e =>
    if m = 0 then f.zero n
    else
      let u := max (e + bits m - 1 - f.frac) (f.emin - f.frac)
      let c := cut m e false u
      if c.exact ∧ f.pack c.n u ≤ f.maxFinite then (f.signed n (f.pack c.n u), 0)
      else if f.maxFinite < f.pack c.n u ∨ (f.pack c.n u = f.maxFinite ∧ !c.exact) then f.round .rne n m e false
      else
        let d := (u - e).toNat
        let t := if bits m + 33 < d then 0 else m % 2 ^ d * 2 ^ 32 / 2 ^ d
        let k := if r.toNat / 2 ^ 32 < t then c.n + 1 else c.n
        let x := f.pack k u
        (f.signed n x, if x < 2 ^ f.frac then flagUF ||| flagNX else flagNX)
  | v => f.ofVal .rne v

end Sys2Proof.Machine
end

