-- ==== Sys2Proof/Machine/Float.lean ====
section
/-! DEFINITION. Scalar floating point (03 R96 to R103). -/

namespace Sys2Proof.Machine

open Sys2Proof

/-- The value that a scalar register holds in a format (01 R18). -/
def State.fval (s : State) (t : FFmt) (r : Reg) : FVal := (FF.ofFFmt t).value (s.reg r).toNat

/-- The rounding mode of an instruction (02 R61). -/
def State.rmode (s : State) (r : Rm) : RMode := RMode.of r s.me.ctl.frm

/-- A floating result written with its flags (03 R96). -/
def State.writeF (s : State) (d : Reg) (r : FRes) : Result := .next ((s.writeReg 4 d (word r.1)).raiseF r.2)

/-- FADD (03 R97). -/
def execFadd (d a b : Reg) (t : FFmt) (r : Rm) (s : State) : Result :=
  s.writeF d ((FF.ofFFmt t).add (s.rmode r) (s.fval t a) (s.fval t b))
/-- FSUB (03 R97). -/
def execFsub (d a b : Reg) (t : FFmt) (r : Rm) (s : State) : Result :=
  s.writeF d ((FF.ofFFmt t).add (s.rmode r) (s.fval t a) (s.fval t b).negate)
/-- FMUL (03 R97). -/
def execFmul (d a b : Reg) (t : FFmt) (r : Rm) (s : State) : Result :=
  s.writeF d ((FF.ofFFmt t).mul (s.rmode r) (s.fval t a) (s.fval t b))
/-- FDIV (03 R97). -/
def execFdiv (d a b : Reg) (t : FFmt) (r : Rm) (s : State) : Result :=
  s.writeF d ((FF.ofFFmt t).div (s.rmode r) (s.fval t a) (s.fval t b))
/-- FSQRT (03 R97). -/
def execFsqrt (d a : Reg) (t : FFmt) (r : Rm) (s : State) : Result :=
  s.writeF d ((FF.ofFFmt t).sqrt (s.rmode r) (s.fval t a))
/-- FMIN (03 R98). -/
def execFmin (d a b : Reg) (t : FFmt) (s : State) : Result :=
  s.writeF d ((FF.ofFFmt t).minmax false (s.reg a).toNat (s.reg b).toNat)
/-- FMAX (03 R98). -/
def execFmax (d a b : Reg) (t : FFmt) (s : State) : Result :=
  s.writeF d ((FF.ofFFmt t).minmax true (s.reg a).toNat (s.reg b).toNat)

/-- The magnitude of `x` with sign `neg` (03 R99). -/
def FF.withSign (f : FF) (x : Nat) (neg : Bool) : Nat := f.signed neg (x % f.signBit)

/-- The sign bit of an encoding. -/
def FF.signOf (f : FF) (x : Nat) : Bool := x.testBit (f.width - 1)

/-- FSGN, copy (03 R99). -/
def execFsgnCopy (d a b : Reg) (t : FFmt) (s : State) : Result :=
  let f := FF.ofFFmt t
  s.writeF d (f.withSign (s.reg a).toNat (f.signOf (s.reg b).toNat), 0)
/-- FSGN, inverted (03 R99). -/
def execFsgnNeg (d a b : Reg) (t : FFmt) (s : State) : Result :=
  let f := FF.ofFFmt t
  s.writeF d (f.withSign (s.reg a).toNat (!f.signOf (s.reg b).toNat), 0)
/-- FSGN, exclusive or (03 R99). -/
def execFsgnXor (d a b : Reg) (t : FFmt) (s : State) : Result :=
  let f := FF.ofFFmt t
  s.writeF d (f.withSign (s.reg a).toNat (f.signOf (s.reg a).toNat ^^ f.signOf (s.reg b).toNat), 0)

/-- A comparison's 1 or 0 with its flags. -/
def State.fcmpOp (s : State) (p : Pred) (d a b : Reg) (t : FFmt) : Result :=
  let r := fcmp p (s.fval t a) (s.fval t b)
  s.writeF d (r.1.toNat, r.2)

/-- FCMP.EQ (03 R100). -/
def execFcmpEq (d a b : Reg) (t : FFmt) (s : State) : Result := s.fcmpOp .eq d a b t
/-- FCMP.LT (03 R100). -/
def execFcmpLt (d a b : Reg) (t : FFmt) (s : State) : Result := s.fcmpOp .lt d a b t
/-- FCMP.LE (03 R100). -/
def execFcmpLe (d a b : Reg) (t : FFmt) (s : State) : Result := s.fcmpOp .le d a b t

/-- FCLASS (03 R101). -/
def execFclass (d a : Reg) (t : FFmt) (s : State) : Result :=
  s.writeF d ((FF.ofFFmt t).classify (s.reg a).toNat, 0)

/-- A number of one of the types of FCVT. -/
inductive NumTy.Kind | flt (f : FF) | int (signed : Bool) (bits : Nat)
  deriving DecidableEq, Repr

/-- What a type code of FCVT stands for (02 R61). -/
def numKind (c : NumTy) : NumTy.Kind :=
  match c with
  | .fp16 => .flt .fp16 | .bf16 => .flt .bf16 | .fp32 => .flt .fp32 | .fp64 => .flt .fp64
  | .sint64 => .int true 64 | .uint64 => .int false 64 | .sint32 => .int true 32 | .uint32 => .int false 32

/-- The integer that the low bits of a word hold. -/
def intOf (signed : Bool) (n : Nat) (w : Word) : Int :=
  let v := w.toNat % 2 ^ n
  if signed && v.testBit (n - 1) then (v : Int) - 2 ^ n else v

/-- FCVT to a floating format (03 R102). -/
def execFcvtToFloat (d a : Reg) (c : NumTy) (t : FFmt) (r : Rm) (s : State) : Result :=
  let f := FF.ofFFmt t
  s.writeF d (match numKind c with
    | .flt g => f.ofVal (s.rmode r) (g.value (s.reg a).toNat)
    | .int sg n => f.ofInt (s.rmode r) (intOf sg n (s.reg a)))

/-- FCVT to an integer (03 R103). -/
def execFcvtToInt (d a : Reg) (c : NumTy) (t : FFmt) (r : Rm) (s : State) : Result :=
  match numKind c with
  | .int sg n =>
    let lo : Int := if sg then -(2 ^ (n - 1)) else 0
    let hi : Int := if sg then 2 ^ (n - 1) - 1 else 2 ^ n - 1
    let q := toInteger (s.rmode r) lo hi (s.fval t a)
    .next ((s.writeReg 4 d (BitVec.ofInt 64 q.1)).raiseF q.2)
  | .flt _ => s.trap s.illegal

/-- FMA (03 R97). -/
def execFma (d a b : Reg) (t : FFmt) (r : Rm) (s : State) : Result :=
  s.writeF d ((FF.ofFFmt t).fma (s.rmode r) false (s.fval t a) (s.fval t b) (s.fval t d))
/-- FMS (03 R97). -/
def execFms (d a b : Reg) (t : FFmt) (r : Rm) (s : State) : Result :=
  s.writeF d ((FF.ofFFmt t).fma (s.rmode r) false (s.fval t a) (s.fval t b) (s.fval t d).negate)
/-- FNMA (03 R97). -/
def execFnma (d a b : Reg) (t : FFmt) (r : Rm) (s : State) : Result :=
  s.writeF d ((FF.ofFFmt t).fma (s.rmode r) true (s.fval t a) (s.fval t b) (s.fval t d))

end Sys2Proof.Machine
end

