-- ==== Sys2Proof/Machine/Operands.lean ====
section
/-! DEFINITION. Operand forms of the vector instructions: VT (01 R21), registers and groups (01 R29, 08 R239), the placement of
elements (06 R187), the kinds an instruction accepts (08 R238, 09 R263, 10 R298), the register and overlap rules (08 R240),
elements, masks and scale bytes (07 R217 to R220). -/

namespace Sys2Proof.Machine

open Sys2Proof

/-! ### VT -/

/-- VT.KIND (01 R21). -/
def vtKind (vt : BitVec 12) : Nat := vt.toNat / 8 % 16
/-- Registers per operand, 2^VT.GROUP (08 R239). -/
def vtGroup (vt : BitVec 12) : Nat := 2 ^ (vt.toNat / 128 % 4)
/-- VT.TAIL. -/
def vtTail (vt : BitVec 12) : Bool := vt.getLsbD 9
/-- VT.MPOL. -/
def vtMpol (vt : BitVec 12) : Bool := vt.getLsbD 10
/-- VT.SCALED. -/
def vtScaled (vt : BitVec 12) : Bool := vt.getLsbD 11

/-- The class I of 08 R238. -/
def kindI (k : Nat) : Bool := decide (k ≤ 1)
/-- The class F. -/
def kindF (k : Nat) : Bool := decide (k = 2 ∨ k = 3)
/-- The class St. -/
def kindSt (k : Nat) : Bool := decide (4 ≤ k ∧ k ≤ 7)
/-- The class Rn. -/
def kindRn (k : Nat) : Bool := decide (k = 8)

/-- Legal pairs of KIND and SEW (08 R237). -/
def legalPair (kind sew : Nat) : Bool :=
  match kind with
  | 0 | 1 => decide (sew = 8 ∨ sew = 16 ∨ sew = 32 ∨ sew = 64)
  | 2 => decide (sew = 16 ∨ sew = 32 ∨ sew = 64)
  | 3 | 7 => decide (sew = 16)
  | 4 | 5 | 6 => decide (sew = 8)
  | 8 => decide (sew = 64)
  | _ => false

/-- The code of a KIND word (01 R21). -/
def kindCode : VKind → Nat
  | .sint => 0 | .uint => 1 | .fp => 2 | .bf16 => 3 | .e4m3 => 4 | .e5m2 => 5 | .fp4 => 6 | .cb8 => 7 | .rns => 8

/-- Bits of a SEW code. -/
def sewOf : Sew → Nat
  | .w8 => 8 | .w16 => 16 | .w32 => 32 | .w64 => 64

/-- The floating format of a kind and width (07 R213). -/
def ffOf (kind sew : Nat) : FF :=
  match kind with
  | 3 => .bf16
  | 4 => .e4m3
  | 5 => .e5m2
  | 6 => .e2m1
  | _ => if sew = 16 then .fp16 else if sew = 32 then .fp32 else .fp64

/-- Values in a 64-bit word (09 R275). -/
def valuesPerWord (kind sew : Nat) : Nat := if kind = 6 then 16 else 64 / sew

/-! ### Elements -/

/-- Word `w` of register `n`. -/
def Vec.word (v : Vec) (n w : Nat) : Word := NMap.get 0 v.regs (65536 * n + w)

/-- Word `w` of register `n` written. -/
def Vec.setWord (v : Vec) (n w : Nat) (x : Word) : Vec := { v with regs := NMap.set 0 v.regs (65536 * n + w) x }

/-- Element `i` of register `n` at width `sew` (06 R187). -/
def Vec.elem (v : Vec) (sew n i : Nat) : Nat :=
  let p := 64 / sew
  fld (v.word n (i / p)) (sew * (i % p)) sew

/-- Element `i` of register `n` written. -/
def Vec.setElem (v : Vec) (sew n i x : Nat) : Vec :=
  let p := 64 / sew
  v.setWord n (i / p) (setFld (v.word n (i / p)) (sew * (i % p)) sew (x % 2 ^ sew))

/-- Mask bit `i` of m`n`. -/
def Vec.mask (v : Vec) (n i : Nat) : Bool := NMap.get false v.masks (2 ^ 20 * n + i)

/-- Mask bit `i` written; a write of m0 is discarded (08 R241). -/
def Vec.setMask (v : Vec) (n i : Nat) (b : Bool) : Vec :=
  if n = 0 then v else { v with masks := NMap.set false v.masks (2 ^ 20 * n + i) b }

/-- Cell (i, j) of tile `n` (10 R291). -/
def Vec.cell (v : Vec) (n i j : Nat) : Word := NMap.get 0 v.tiles (4096 * n + 64 * i + j)

/-- Cell (i, j) written. -/
def Vec.setCell (v : Vec) (n i j : Nat) (x : Word) : Vec :=
  { v with tiles := NMap.set 0 v.tiles (4096 * n + 64 * i + j) x }

/-- The guard weight of tile `n` (10 R291). -/
def Vec.weight (v : Vec) (n : Nat) : Nat := NMap.get 0 v.weights n

/-- A guard weight written, saturated. -/
def Vec.setWeight (v : Vec) (n w : Nat) : Vec := { v with weights := NMap.set 0 v.weights n (min w (2 ^ 64 - 1)) }

/-- Scale byte `q` of word `w` of register `n` (06 R189). -/
def Vec.scale (v : Vec) (n w q : Nat) : Nat := fld (v.word (28 + n / 4) w) (8 * (2 * (n % 4) + q)) 8

/-- A scale byte written. -/
def Vec.setScale (v : Vec) (n w q x : Nat) : Vec :=
  v.setWord (28 + n / 4) w (setFld (v.word (28 + n / 4) w) (8 * (2 * (n % 4) + q)) 8 x)

/-- Value `i` of register `n`: an FP4 value is a nibble, every other value an element (07 R217). -/
def Vec.val (v : Vec) (kind sew n i : Nat) : Nat :=
  if kind = 6 then v.elem 8 n (i / 2) / 16 ^ (i % 2) % 16 else v.elem sew n i

/-- Value `i` of register `n` written. -/
def Vec.setVal (v : Vec) (kind sew n i x : Nat) : Vec :=
  if kind = 6 then
    (let b := v.elem 8 n (i / 2)
     v.setElem 8 n (i / 2) (if i % 2 = 0 then b / 16 * 16 + x % 16 else b % 16 + x % 16 * 16))
  else v.setElem sew n i x

/-- A floating value under scale byte `e` (07 R220). -/
def scaleVal (e : Nat) (x : FVal) : FVal := if e = 255 then .nan false else x.scale ((e : Int) - 127)

/-- Which scale byte governs value `i` of a word of storage values (07 R219). -/
def scaleIndex (kind i : Nat) : Nat :=
  if kind = 6 then i % 16 / 8 else if kind = 7 then i % 4 / 2 else 0

/-- Value `i` of register `n` of a floating or storage kind other than CB8, with its scale (07 R219, R220); the flag says
that the scale is a NaN. -/
def Vec.fvalue (v : Vec) (scaled : Bool) (kind sew n i : Nat) : FVal × Bool :=
  let x := (ffOf kind sew).value (v.val kind sew n i)
  if scaled && kindSt kind then
    (let e := v.scale n (i / valuesPerWord kind sew) (scaleIndex kind i)
     (scaleVal e x, decide (e = 255)))
  else (x, false)

/-- A two's-complement reading of an element. -/
def sintOf (sew x : Nat) : Int := if x.testBit (sew - 1) then (x : Int) - 2 ^ sew else x

/-- An element of kind SINT or UINT as an integer. -/
def intElem (kind sew x : Nat) : Int := if kind = 0 then sintOf sew x else x

/-- The low `sew` bits of an integer. -/
def wrapInt (sew : Nat) (z : Int) : Nat := (z % 2 ^ sew).toNat

/-! ### Codebooks (07 R221, R222) -/

/-- Entry `e` of the default table (07 R222). -/
def defaultCodebook (e : Nat) : Nat :=
  let c0 := e % 4
  let c1 := e / 4 % 4
  let c2 := e / 16 % 4
  let c3 := e / 64 % 4
  let c4 := (c0 + c1) % 4
  let c5 := (c1 + c2) % 4
  let c6 := (c2 + c3) % 4
  let c7 := (c3 + c0) % 4
  let c7' := if (c0 + c1 + c2 + c3 + c4 + c5 + c6 + c7) % 2 = 1 then c7 ^^^ 1 else c7
  c0 + 4 * c1 + 16 * c2 + 64 * c3 + 256 * c4 + 1024 * c5 + 4096 * c6 + 16384 * c7'

/-- Entry `e` of the table in force for a strand, when `table` is the loaded one: it belongs to one tenant, and every other reads the
default (09 R283). -/
def State.codebookIn (s : State) (table : NMap (BitVec 16)) (e : Nat) : Nat :=
  let own := s.rd (rCbown s.tid.cluster)
  if bitOf own 5 && decide (fld own 0 5 = s.me.ctl.tenant.toNat) then defaultCodebook e ^^^ (NMap.get 0 table e).toNat
  else defaultCodebook e

/-- The table in force for a strand now. -/
def State.codebookEntry (s : State) (e : Nat) : Nat := s.codebookIn (s.cluster s.tid.cluster).codebook e

/-- Weight `j` of a codeword under the entry `pat` of its table, in halves: a sign and a magnitude (07 R221). -/
def cb8Weight (pat w j : Nat) : Bool × Nat :=
  let neg := (List.range 7).foldl (fun n k => n + (w.testBit (k + 1)).toNat) 0
  let sg := if j = 7 then decide (neg % 2 = 1) else w.testBit (j + 1)
  (sg, 2 * (pat / 4 ^ j % 4) + w % 2)

/-- Weight `j` of a codeword as a value. -/
def cb8Val (pat w j : Nat) : FVal :=
  match cb8Weight pat w j with
  | (n, m) => .fin n m (-1)

/-! ### Registers of the shape (01 R29) -/

/-- Registers `n` to `n + k - 1` may be named: they exist, are aligned, and stay out of the scale planes. -/
def Ctl.regsOk (c : Ctl) (n k : Nat) : Bool :=
  decide (n % k = 0 ∧ n + k ≤ shapeRegs c.shape) && (!c.shape.getLsbD 5 || decide (n + k ≤ 28))

/-- The registers of an instruction: its destination group and its source groups. -/
structure Regs where
  /-- Destination: first register and count; none without one. -/
  dst : Option (Nat × Nat)
  /-- Sources. -/
  srcs : List (Nat × Nat)
  /-- A source may be the destination group exactly (08 R240). -/
  same : Bool
  deriving DecidableEq, Repr

/-- Two register ranges share a register. -/
def rangesMeet (a b : Nat × Nat) : Bool := decide (a.1 < b.1 + b.2 ∧ b.1 < a.1 + a.2)

/-- The overlap rule (08 R240). -/
def Regs.overlapOk (r : Regs) : Bool :=
  match r.dst with
  | none => true
  | some d => r.srcs.all fun x => !rangesMeet d x || (r.same && decide (d = x))

/-- The ratio by which a conversion's target group or source group grows (09 R275): source and target counts. -/
def cvtCounts (ps pt g : Nat) : Nat × Nat :=
  if ps = pt then (g, g) else if pt < ps then (g, ps / pt * g) else (pt / ps * g, g)

/-- The vector registers that an operation names (08 R239, R240; 09 R275, R282; 10 R302, R316). -/
def opRegs (op : VOp) (vt : BitVec 12) : Regs :=
  let g := vtGroup vt
  let sew := vtSew vt
  let r := fun (n : Reg) => (n.toNat, g)
  match op with
  | .load .vldx d _ b .. | .load .vldxO d _ b .. => ⟨some (r d), [r b], false⟩
  | .load _ d .. => ⟨some (r d), [], false⟩
  | .store .vstx d _ b .. | .store .vstxO d _ b .. => ⟨none, [r d, r b], false⟩
  | .store _ d .. => ⟨none, [r d], false⟩
  | .amo _ d _ b .. => ⟨some (r d), [r b], false⟩
  | .arith .wadd .vv d a b _ | .arith .wmul .vv d a b _ => ⟨some (d.toNat, 2 * g), [r a, r b], false⟩
  | .arith .wadd _ d a .. | .arith .wmul _ d a .. => ⟨some (d.toNat, 2 * g), [r a], false⟩
  | .arith .nshr .vv d a b _ => ⟨some (r d), [(a.toNat, 2 * g), r b], false⟩
  | .arith .nshr _ d a .. => ⟨some (r d), [(a.toNat, 2 * g)], false⟩
  | .arith .abs _ d a .. | .arith .neg _ d a .. => ⟨some (r d), [r a], true⟩
  | .arith _ .vv d a b _ => ⟨some (r d), [r a, r b], true⟩
  | .arith _ _ d a .. => ⟨some (r d), [r a], true⟩
  | .cmp _ .vv _ a b _ => ⟨none, [r a, r b], false⟩
  | .cmp _ _ _ a .. => ⟨none, [r a], false⟩
  | .sel d a b _ => ⟨some (r d), [r a, r b], true⟩
  | .bcast d _ => ⟨some (r d), [], false⟩
  | .get _ a => ⟨none, [r a], false⟩
  | .idx d _ => ⟨some (r d), [], false⟩
  | .perm .gather d a b _ | .perm .zip d a b _ | .perm .unzip d a b _ => ⟨some (r d), [r a, r b], false⟩
  | .perm _ d a .. => ⟨some (r d), [r a], false⟩
  | .red _ d a b _ => ⟨some (r d), [r a, r b], false⟩
  | .cvt _ d a k w _ =>
    let ps := valuesPerWord (vtKind vt) sew
    let pt := valuesPerWord (kindCode k) (sewOf w)
    let c := cvtCounts ps pt g
    ⟨some (d.toNat, c.2), [(a.toNat, c.1)], decide (ps = pt)⟩
  | .spec _ d a _ => ⟨some (r d), [r a], true⟩
  | .clmul _ d a b _ => ⟨some (r d), [r a, r b], true⟩
  | .cbdec d a _ => ⟨some (d.toNat, 8), [r a], false⟩
  | .rnsf d a _ => ⟨some (d.toNat, 64 / sew * g), [r a], decide (sew = 64)⟩
  | .rnsr d a _ => ⟨some (r d), [r a], true⟩
  | .rnschk _ a _ => ⟨none, [r a], false⟩
  | .top _ _ a b e .. => ⟨none, [r a, r b] ++ (if e = 0 then [] else [(e.toNat, 1)]), false⟩
  | .tslv d .. => ⟨some (d.toNat, 1), [], false⟩
  | .tvsl _ a .. => ⟨none, [(a.toNat, 1)], false⟩
  | _ => ⟨none, [], false⟩

/-- The one exception of 01 R29: plane bytes as raw data of VLD and VST with b = 0, VLDS and VSTS, with GROUP 1. -/
def opRawPlane (op : VOp) (vt : BitVec 12) : Bool :=
  decide (vtGroup vt = 1) &&
    match op with
    | .load .vld _ _ b .. => decide (b = 0)
    | .load .vlds .. => true
    | .store .vst _ _ b .. => decide (b = 0)
    | .store .vsts .. => true
    | _ => false

/-- Step 5 of 02 R55: existence, grouping and scaled placement, and the overlap rule. -/
def Ctl.regsLegal (c : Ctl) (op : VOp) : Bool :=
  let r := opRegs op c.vt
  let all := r.dst.toList ++ r.srcs
  (all.all fun x => c.regsOk x.1 x.2 || (opRawPlane op c.vt && decide (x.1 + x.2 ≤ shapeRegs c.shape))) && r.overlapOk

/-! ### Kinds (08 R238, 09 R263, R266, R219, 10 R298) -/

/-- Every register named lies in v0 to v15. -/
def Regs.low (r : Regs) : Bool := (r.dst.toList ++ r.srcs).all fun x => decide (x.1 + x.2 ≤ 16)

/-- Block mode (09 R266). -/
def blockMode (vt : BitVec 12) : Bool := vtScaled vt && kindSt (vtKind vt)

/-- The operation is accepted at this VT and VL. -/
def Ctl.kindOk (c : Ctl) (op : VOp) : Bool :=
  let k := vtKind c.vt
  let sew := vtSew c.vt
  let one := decide (vtGroup c.vt = 1)
  let narrow := decide (sew ≤ 32)
  let notVi := fun (f : OpForm) => !(decide (f = .vi) && kindF k)
  let regs := opRegs op c.vt
  let block := one && regs.low && decide (c.vl.toNat % (64 / sew) = 0)
  let scaledOk := !vtScaled c.vt || !kindSt k || (regs.srcs.take 2).all fun x => decide (x.1 + x.2 ≤ 16)
  match op with
  | .load .vld d _ b .. | .store .vst d _ b .. =>
    decide (b = 0) || (kindSt k && vtScaled c.vt && one && decide (d.toNat ≤ 15))
  | .load .vldff .. => one
  | .load .. | .store .. => true
  | .amo .. => kindI k && decide (32 ≤ sew)
  | .arith o f .. =>
    (match o with
     | .add | .sub | .mul => (kindI k || kindF k || kindRn k) && notVi f
     | .mulh | .rem => kindI k
     | .div => kindI k || kindF k
     | .min | .max | .abs | .neg | .fma | .fms | .fnma => (kindI k || kindF k) && notVi f
     | .and | .or | .xor | .shl | .shr | .sra => kindI k
     | .wadd | .wmul => (kindI k || kindF k) && narrow
     | .nshr => kindI k && narrow)
  | .cmp p f .. => one && notVi f && (kindI k || kindF k || (kindRn k && (decide (p = .eq) || decide (p = .ne))))
  | .idx .. => kindI k
  | .perm .. => !blockMode c.vt || block
  | .red o .. =>
    one &&
      (match o with
       | .sumO | .sumT => kindI k || kindF k || kindRn k
       | .max | .min => kindI k || kindF k
       | .and | .or => kindI k)
  | .cvt sr _ _ t w _ =>
    let tk := kindCode t
    let store := vtScaled c.vt && kindSt tk
    (kindI k || kindF k || decide (4 ≤ k ∧ k ≤ 6)) && legalPair tk (sewOf w) && !decide (tk = 7 ∨ tk = 8)
      && (!sr || kindF tk || decide (4 ≤ tk)) && scaledOk && (!store || (one && regs.dst.all fun x => decide (x.1 + x.2 ≤ 16)))
  | .spec .. => kindF k
  | .clmul .. => kindI k
  | .cbdec .. => decide (k = 7) && one && scaledOk
  | .rnsf .. => kindI k
  | .rnsr .. | .rnschk .. => kindRn k
  | .top .topr .. => one && ((kindI k && decide (sew ≤ 16)) || kindRn k)
  | .top .. => one && (decide (k = 3) || (decide (k = 2) && decide (32 ≤ sew)) || kindSt k) && scaledOk
  | .tldrow .. | .tstrow .. => decide (32 ≤ sew)
  | .tslv .. | .tvsl .. => decide (32 ≤ sew) && one
  | _ => true

/-! ### Masks and activity -/

/-- The governing mask of an operation, zero for none. -/
def opGovern : VOp → Nat
  | .load _ _ _ _ m _ _ | .store _ _ _ _ m _ _ | .amo _ _ _ _ m _ _ | .arith _ _ _ _ _ m | .cmp _ _ _ _ _ m | .sel _ _ _ m
  | .bcast _ m | .idx _ m | .perm _ _ _ _ m | .red _ _ _ _ m | .cvt _ _ _ _ _ m | .spec _ _ _ m | .clmul _ _ _ _ m
  | .cbdec _ _ m | .rnsf _ _ m | .rnsr _ _ m | .rnschk _ _ m => m.toNat
  | _ => 0

/-- Element `i` is active (08 R241). -/
def Vec.active (v : Vec) (m i : Nat) : Bool := decide (m = 0) || v.mask m i

/-- Registers that hold one word of every lane: 16·g (06 R187). -/
def Strand.lanesWide (x : Strand) : Nat := 16 * x.ctl.lg.toNat

/-- The logical lane of element `i` (06 R187). -/
def Strand.laneOf (x : Strand) (sew i : Nat) : Nat := if x.ctl.lg = 0 then 0 else i / (64 / sew) % x.lanesWide

/-- The elements of a slot step (06 R188). -/
def Strand.stepSize (x : Strand) (sew : Nat) : Nat := x.lanesWide * (64 / sew)

/-- The physical lane group behind a grant number. -/
def Strand.physical (x : Strand) (k : Nat) : Option Nat := x.vec.lanes[k]?

end Sys2Proof.Machine
end

