-- ==== Sys2Proof/Machine/Assign.lean ====
section
/-! DEFINITION. The lane allocator of a cluster (06 R183, R186, R200 to R205): lane groups, squares (10 R290, R293), and the
assignment of free lane groups to requests and suspended strands (06 R201). -/

namespace Sys2Proof.Machine

open Sys2Proof

/-! ### Lane groups -/

/-- A lane group is fenced (12 R360). -/
def State.fenced (s : State) (c p : Nat) : Bool := bitOf (s.rd (rLgstat c p)) 16

/-- The lane groups that a strand holds, with those that a waiting grant form has been given (06 R191). -/
def Strand.heldLanes (x : Strand) : List Nat :=
  x.vec.lanes ++ match x.grant with
    | some h => h.lanes.filter fun p => !x.vec.lanes.elem p
    | none => []

/-- A strand holds a lane group. -/
def State.inUse (s : State) (c p : Nat) : Bool := (s.clusterTids c).any fun t => (s.strand t).heldLanes.elem p

/-- The free unfenced lane groups of a cluster, lowest first. -/
def State.freeGroups (s : State) (c : Nat) : List Nat :=
  (List.range 8).filter fun p => !s.fenced c p && !s.inUse c p

/-- The quota of a tenant (06 R200, R202). -/
def State.quota (s : State) (c tenant : Nat) : Nat := fld (s.rd (rLaqt c (tenant / 16))) (4 * (tenant % 16)) 4

/-- The strand waits in MTENTER's Relocate (10 R293). -/
def Strand.relocates (x : Strand) : Bool := decide (x.run = .parked .relocate)

/-- How many lane groups a strand holds: one that moves to a square keeps its number. -/
def Strand.holding (x : Strand) : Nat := if x.relocates then x.vec.lanes.length else x.heldLanes.length

/-- A suspended strand's lane groups count against its tenant (06 R200). -/
def Strand.countedLg (x : Strand) : Nat := if x.heldLanes.isEmpty then x.savedLg else x.holding

/-- The lane groups that a tenant's strands hold in a cluster, suspended ones included. -/
def State.tenantLg (s : State) (c tenant : Nat) : Nat :=
  (s.clusterTids c).foldl (fun n t =>
    let x := s.strand t
    if x.ctl.tenant.toNat = tenant then n + x.countedLg else n) 0

/-- The lane groups that a tenant's strands hold in a cluster now. -/
def State.activeLg (s : State) (c tenant : Nat) : Nat :=
  (s.clusterTids c).foldl (fun n t =>
    let x := s.strand t
    if x.ctl.tenant.toNat = tenant then n + x.holding else n) 0

/-- Free room of a tenant (06 R192). -/
def State.room (s : State) (c tenant : Nat) : Nat := s.quota c tenant - s.tenantLg c tenant

/-- The squares of lane groups (10 R290). -/
def squareOf (b : Nat) : List Nat := [b, b + 1, b + 4, b + 5]

/-- A square without a fenced lane group. -/
def State.squareWhole (s : State) (c b : Nat) : Bool := (squareOf b).all fun p => !s.fenced c p

/-- The square whose lane groups are each free or held by the strand, base 0 before base 2 (06 R186, 10 R293). -/
def State.squareFor (s : State) (c : Nat) (own : List Nat) : Option Nat :=
  [0, 2].find? fun b => (squareOf b).all fun p => !s.fenced c p && (own.elem p || !s.inUse c p)

/-- The physical lane groups of a grant of `g` for a strand that keeps some (06 R186). -/
def State.chooseLanes (s : State) (c : Nat) (keep : List Nat) (g : Nat) : List Nat :=
  let k := keep.take g
  let free := s.freeGroups c
  let square := if g = 4 then
      [0, 2].find? fun b => (k.all fun p => (squareOf b).elem p) && (squareOf b).all fun p => k.elem p || free.elem p
    else none
  match square with
  | some b => squareOf b
  | none => k ++ (free.filter fun p => !k.elem p).take (g - k.length)

/-- The grant stands on a square. -/
def onSquare (lanes : List Nat) : Bool := decide (lanes = squareOf 0) || decide (lanes = squareOf 2)

/-! ### Candidates (06 R201) -/

/-- A suspended strand that waits to resume: firmware does not hold it. -/
def Strand.awaitsResume (x : Strand) : Bool :=
  !x.held && match x.run with | .suspended _ => true | _ => false

/-- The suspended strands of a cluster that wait to resume, in the order in which they were suspended. -/
def State.resumable (s : State) (c : Nat) : List Tid := (s.cluster c).suspended.filter fun t => (s.strand t).awaitsResume

/-- The effective priority of a strand's launch (06 R201). -/
def State.prioOf (s : State) (t : Tid) : Nat :=
  match (s.strand t).launch with
  | some n => ((s.sys.launches.find? fun (l : Launch) => decide (l.id = n)).map Launch.prio).getD 0
  | none => 0

/-- A context put into a list that is in descending order of priority, after those of its own. -/
def State.insertPrio (s : State) (t : Tid) : List Tid → List Tid
  | [] => [t]
  | u :: r => if s.prioOf u < s.prioOf t then t :: u :: r else u :: s.insertPrio t r

/-- The waiting requests in the order of R201. -/
def State.requests (s : State) (c : Nat) : List Tid := (s.cluster c).waiting.foldl (fun l t => s.insertPrio t l) []

/-- A suspended strand of the tenant waits to resume: its later requests are held back behind it (06 R201). -/
def State.heldBack (s : State) (c tenant : Nat) : Bool :=
  (s.resumable c).any fun t => decide ((s.strand t).ctl.tenant.toNat = tenant)

/-- Context `t` is the first of its tenant's suspended strands that wait to resume; the later ones are held back behind it
(06 R201). -/
def State.firstOfTenant (s : State) (t : Tid) : Bool :=
  decide (((s.resumable t.cluster).find? fun u => decide ((s.strand u).ctl.tenant = (s.strand t).ctl.tenant)) = some t)

/-- The requested shape code of a grant form as a SHAPE (06 R191). -/
def shapeOf (h : BitVec 5) : BitVec 6 :=
  BitVec.ofNat 6 (h.toNat % 2 * 32 + (4 + h.toNat / 2 % 4) * 4 + h.toNat / 8)

/-- VLMAX for one lane group of a shape (06 R191). -/
def perGroup (h : BitVec 5) (vt : BitVec 12) : Nat := vlmaxAt 1 (shapeOf h) (vtSew vt)

/-- The lane groups that a request asks for (06 R191). -/
def wantOf (h : BitVec 5) (vt : BitVec 12) (req : Word) : Nat :=
  min 8 ((req.toNat + perGroup h vt - 1) / perGroup h vt)

/-- The lane groups that serve a suspended strand, if its former number is free (06 R201, R206, 10 R291). -/
def State.resumeLanes (s : State) (t : Tid) : Option (List Nat) :=
  let c := t.cluster
  let x := s.strand t
  let g := x.savedLg
  let active := s.activeLg c x.ctl.tenant.toNat
  if g = 0 then none
  else if s.quota c x.ctl.tenant.toNat < active + g then none
  else if x.ctl.mt ∧ g = 4 then (s.squareFor c []).map squareOf
  else if (s.freeGroups c).length < g then none
  else some (s.chooseLanes c [] g)

/-- What serves a waiting request: the lane groups of a grant, or those of a square for an MTENTER, which like a VGRANT is held back
behind its tenant's suspended strands (10 R293). `first` says that a mark freed lane groups for it, which serve it before them
(06 R201). -/
def State.requestLanes (s : State) (t : Tid) (first : Bool) : Option (List Nat) :=
  let c := t.cluster
  let x := s.strand t
  match x.run with
  | .parked (.grant _ _ req h) =>
    let q := s.room c x.ctl.tenant.toNat
    let n := (s.freeGroups c).length
    if q = 0 ∨ n = 0 ∨ (!first && s.heldBack c x.ctl.tenant.toNat) = true then none
    else some (s.chooseLanes c [] (min (wantOf h x.ctl.vt req) (min q n)))
  | .parked .relocate =>
    if x.grant.isSome ∨ (!first && s.heldBack c x.ctl.tenant.toNat) = true then none
    else (s.squareFor c x.vec.lanes).map squareOf
  | _ => none

/-- Context `t` is no longer among the suspended. -/
def State.leaveSuspended (s : State) (t : Tid) : State :=
  s.onCluster t.cluster fun c => { c with suspended := c.suspended.filter fun u => !decide (u = t) }

/-- A mark that served context `t`, consumed by a grant form that waits or not, is attached to it no longer. -/
def State.detach (s : State) (t : Tid) : State :=
  (s.clusterTids t.cluster).foldl (fun s u => s.onStrand u fun x =>
    { x with
      mark := x.mark.map fun (m : Mark) => if m.attached = some t then { m with attached := none } else m
      grant := x.grant.map fun (h : GrantHold) => if h.first = some t then { h with first := none } else h }) s

/-- Context `t` waits no more. -/
def State.leaveWaiting (s : State) (t : Tid) : State :=
  s.onCluster t.cluster fun c => { c with waiting := c.waiting.filter fun u => !decide (u = t) }

/-- Context `t`, which waits in Relocate, has a square: its lane groups are reserved, and it moves at RELOCATE (10 R293). -/
def State.reserve (s : State) (t : Tid) (ls : List Nat) : State :=
  (s.onStrand t fun x => { x with grant := some ⟨ls, none⟩ }).push (.relocate t)

/-- Free lane groups given to candidate `t`, if they can serve it: the follow-up step completes its grant, restore or
relocation. -/
def State.serve (s : State) (t : Tid) (first : Bool) : State :=
  let x := s.strand t
  match x.run with
  | .suspended w =>
    if !x.awaitsResume || !(first || s.firstOfTenant t) then s
    else
      (match s.resumeLanes t with
       | some ls =>
         (((s.onStrand t fun x => { x with run := .restoring w, vec := { x.vec with lanes := ls } }).leaveSuspended
           t).detach t).push (.restoreComplete t)
       | none => s)
  | .parked (.grant z d req h) =>
    (match s.requestLanes t first with
     | some ls =>
       (((s.onStrand t fun x => { x with run := .granting z d req h ls.length, vec := { x.vec with lanes := ls } }).leaveWaiting
         t).detach t).push (.grantComplete t)
     | none => s)
  | .parked .relocate =>
    (match s.requestLanes t first with
     | some ls => ((s.reserve t ls).leaveWaiting t).detach t
     | none => s)
  | _ => s

/-- Free lane groups assigned in the order of R201, the request that a mark was attached to first. -/
def State.assignLanes (s : State) (c : Nat) (first : Option Tid) : State :=
  let s1 := match first with | some t => s.serve t true | none => s
  let s2 := (s1.resumable c).foldl (fun s t => s.serve t false) s1
  (s2.requests c).foldl (fun s t => s.serve t false) s2

/-! ### Grants (06 R191 to R193) -/

/-- A register-bound copy is in use (06 R191, 11 R327). -/
def Strand.regSlotBusy (x : Strand) : Bool :=
  x.slots.toList.any fun (sl : Slot) => decide (sl.phase = .busy) && (decide (sl.form = .ldv) || decide (sl.form = .stv))

/-- A request or a resume waits in the cluster. -/
def State.contended (s : State) (c : Nat) : Bool := !(s.cluster c).waiting.isEmpty || !(s.resumable c).isEmpty

/-- A request or a resume other than that of context `t` waits in its cluster. -/
def State.othersWait (s : State) (t : Tid) : Bool :=
  !(s.resumable t.cluster).isEmpty || (s.cluster t.cluster).waiting.any fun u => !decide (u = t)

/-- A request or a resume begins to wait in the cluster: the clocks that parked holders count start when none waited before
(06 R205). A strand in Relocate does not wait for itself: DESIGN CHOICE, its own wait is none that its count runs against (10 R293,
log 55). -/
def State.noteWait (s : State) (c : Nat) : State :=
  let n := s.sys.pool
  let s1 := ((s.clusterTids c).filter fun t => (s.strand t).relocates && !s.othersWait t).foldl
    (fun (s : State) t => s.onStrand t fun x => { x with parkedAt := n }) s
  if s.contended c then s1 else s1.onCluster c fun k => { k with reqAt := n }

/-- A request waits or a strand is suspended in the cluster (06 R192). -/
def State.crowded (s : State) (c : Nat) : Bool := !(s.cluster c).waiting.isEmpty || !(s.cluster c).suspended.isEmpty

/-- The request to which the mark of the strand in focus is attached. -/
def Strand.marksFor (x : Strand) : Option Tid := match x.mark with | some m => m.attached | none => none

end Sys2Proof.Machine
end

