-- ==== Sys2Proof/Machine/LoadStore.lean ====
section
/-! DEFINITION. Scalar loads and stores (03 R83 to R88, 02 R48) and the accesses that wait for the host or another node
(15 R433, 16 R448). -/

namespace Sys2Proof.Machine

open Sys2Proof

/-! ### Links to other nodes (16 R443 to R445) -/

/-- Brulos port `p`. -/
def State.port (s : State) (p : Nat) : Port := NMap.get Port.reset s.sys.ports p

/-- Brulos port `p` changed by `f`. -/
def State.onPort (s : State) (p : Nat) (f : Port → Port) : State :=
  s.onSys fun y => { y with ports := NMap.set Port.reset y.ports p (f (NMap.get Port.reset y.ports p)) }

/-- A flit given its link numbers and kept until it is acknowledged; it waits while the link is down or 256 are held
(16 R445). -/
def Port.send (p : Port) (x : Flit) : Port :=
  if p.down || decide (256 ≤ p.unacked.length) then { p with waiting := p.waiting ++ [x] }
  else
    { p with unacked := p.unacked ++ [{ x with seq := p.nextSeq, ack := p.expect - 1 }], nextSeq := p.nextSeq + 1 }

/-- The flits that waited for the link, sent as far as there is room. -/
def Port.flush (p : Port) : Port :=
  p.waiting.foldl (fun q x => q.send x) { p with waiting := [] }

/-- The flit asks for something: no such flit is accepted from the drain of a span with a long lull onward (14 R421). -/
def FlitBody.isRequest : Sys2Proof.FlitBody → Bool
  | .load .. | .store .. | .atomic .. => true
  | _ => false

/-- A flit sent toward its destination on the port of its route; with no usable port it is dropped. -/
def State.sendFlit (s : State) (x : Flit) : State :=
  match s.portFor x.dst.toNat with
  | some p => s.onPort p fun q => if s.linksHeld (FlitBody.isRequest x.body) then { q with waiting := q.waiting ++ [x] } else q.send x
  | none => s

/-- A request of this node to node `n`. -/
def State.request (s : State) (n tenant tag : Nat) (b : FlitBody) : State :=
  s.sendFlit { dst := BitVec.ofNat 8 n, src := BitVec.ofNat 8 (fld (s.rd rFnode) 0 8), tenant := BitVec.ofNat 5 tenant
               mark := false, tag := BitVec.ofNat 12 tag, seq := 0, ack := 0, body := b }

/-! ### Parts of an access -/

/-- The place answers only after a reply from outside the package. -/
def Place.far (p : Place) : Bool := decide (p.kind = .host) || decide (p.kind = .remote)

/-- The place is a register (13 R396, 14 R407). -/
def Place.isReg (p : Place) : Bool := decide (p.kind = .dieBar) || decide (p.kind = .doorbell)

/-- The bytes of a near part and whether one of its words is poisoned. -/
def State.readPart (s : State) (a : Agent) (l1 : Bool) (p : Place) (n : Nat) : List Byte × Bool :=
  if p.isReg then ((s.readReg p).take n, false) else s.readPlace a l1 p n

/-- A report-mode injection aimed at the L1 ways fires on a load that hits the L1 (12 R354, R364): an uncorrectable one
invalidates the line, so that the load is served as a miss; its record has severity 0. -/
def State.l1Injected (s : State) (a : Agent) (l1 : Bool) (p : Place) : State :=
  let c := a.tid.cluster
  let d := s.rd (rDinj c)
  if !(bitOf d 63 && !bitOf d 61 && decide (fld d 52 6 = 8) && l1 && p.cached) then s
  else
    match (s.cluster c).l1Find p.key with
    | none => s
    | some l =>
      let s1 := (s.wr (rDinj c) (setFld d 62 2 1)).logL1 a true p.key l 0
      if bitOf d 60 then s1.l1Drop c p.key else s1

/-! ### Stores of the cluster on their way home (04 R120, 11 R322) -/

/-- The store has been accepted by the cluster's L1 and has not reached its home. -/
def WEntry.onWay (e : WEntry) : Bool := decide (e.stage = 1 ∨ e.stage = 2)

/-- Some store of a strand of the cluster to the line of a global place is on its way home: a later request to that line follows it
(11 R322). -/
def State.lineBusy (s : State) (cn : Nat) (p : Place) : Bool :=
  p.cached && (s.clusterTids cn).any fun t => (s.strand t).writes.any fun e =>
    e.onWay && e.parts.any fun (q : Place × List Byte) => q.1.cached && decide (q.1.key / 64 = p.key / 64)

/-- The die on which a request for a place is served; none is the system die. -/
def State.dieOf (s : State) (p : Place) : Option Nat :=
  match p.kind with
  | .sram => some ((p.key - 2 ^ 53) / 2 ^ 21 / 32)
  | .tcm => some ((p.key - 2 ^ 52) / 2 ^ 17 / 512)
  | .doorbell | .host | .coll => none
  | _ => some (homeDie (s.redirect p.key))

/-- A long lull holds a request of an agent for the place at a link between dies (14 R421). A Brulos port holds its own flits. -/
def State.linkHeld (s : State) (a : Agent) (p : Place) : Bool := !decide (p.kind = .remote) && s.cutOff a.die (s.dieOf p)

/-- A read of the place by an agent waits in a drain or a lull: for DRAM, or for a link that no replica spares it (14 R421). -/
def State.readHeld (s : State) (a : Agent) (p : Place) : Bool :=
  if p.cached then s.lineHeld a.die (s.redirect p.key) p.keyId else s.linkHeld a p

/-- An atomic of an agent at the place waits there; no replica serves it (13 R372). -/
def State.atomicHeld (s : State) (a : Agent) (p : Place) : Bool :=
  s.linkHeld a p || (p.cached && s.dramHolds none (s.redirect p.key) p.keyId)

/-- A load of these near parts must wait for a line that it does not find in the L1: behind stores of its cluster (11 R322), or for the
end of a drain or a lull (14 R421). -/
def State.behindStores (s : State) (a : Agent) (l1 : Bool) (parts : List (Place × Nat)) : Bool :=
  parts.any fun p => !(l1 && p.1.cached && ((s.cluster a.tid.cluster).l1Find p.1.key).isSome) &&
    (s.lineBusy a.tid.cluster p.1 || s.readHeld a p.1)

/-- An atomic at the place must wait: behind stores of its cluster, or for the end of a drain or a lull. -/
def State.atomicWaits (s : State) (a : Agent) (p : Place) : Bool := s.lineBusy a.tid.cluster p || s.atomicHeld a p

/-- A store to the place by an agent other than the write queue must wait: behind stores of its cluster, or for a link. -/
def State.storeWaits (s : State) (a : Agent) (p : Place) : Bool := s.lineBusy a.tid.cluster p || s.linkHeld a p

/-- The byte that a write-queue entry holds for a memory key. -/
def WEntry.byteAt (e : WEntry) (k : Nat) : Option Byte :=
  e.parts.findSome? fun (p : Place × List Byte) => if p.1.key ≤ k ∧ k < p.1.key + p.2.length then p.2[k - p.1.key]? else none

/-- A read of `n` bytes that hits the L1 may read stores of the cluster that are on their way home: they join what the reading strand
has seen (04 R120). Of its own scalar stores its vector instructions read too, whose stream they are not. -/
def State.noteSeen (s : State) (a : Agent) (l1 : Bool) (p : Place) (n : Nat) : State :=
  if !(l1 && p.cached && ((s.cluster a.tid.cluster).l1Find p.key).isSome) then s
  else
    let vec := match a.src with | .entry _ => true | _ => false
    let es := ((s.clusterTids a.tid.cluster).filter fun t => vec || !decide (t = a.tid)).flatMap fun t =>
      ((s.strand t).writes.filter fun e => e.onWay && (List.range n).any fun i => (e.byteAt (p.key + i)).isSome).map WEntry.id
    if es.isEmpty then s
    else
      let at_ := match a.src with | .entry e => e | _ => (a.at_.map Prod.fst).getD s.fresh
      s.onStrand a.tid fun x => { x with seen := x.seen ++ es.map fun k => ⟨k, vec, at_⟩ }

/-! ### Parts in order -/

/-- The bytes of near parts from `addr` upward with the state after the reads, or the address of the lowest poisoned part
(03 R84, R88). -/
def State.readParts (s : State) (a : Agent) (l1 : Bool) (addr : Word) :
    List (Place × Nat) → State × Except Word (List Byte)
  | [] => (s, .ok [])
  | (p, n) :: r =>
    let i := (((s.l1Injected a l1 p).l1Ecc a l1 p n).noteSeen a l1 p n).injected a.who p.key
    let s1 := if p.isReg then s.replied a p
      else if l1 && p.cached && ((i.1.cluster a.tid.cluster).l1Find p.key).isSome then i.1
      else if p.cached then (i.1.lineCheck a.who (s.redirect p.key) n).replied a p
      else (i.1.ecc a.who p.key n).replied a p
    let q := s1.readPart a l1 p n
    if q.2 || i.2 then (s1, .error addr)
    else
      match State.readParts (s1.afterRead a l1 p) a l1 (addr + word n) r with
      | (s2, .ok bs) => (s2, .ok (q.1 ++ bs))
      | (s2, .error e) => (s2, .error e)

/-- A store to another node leaves through the port of its route (16 R448): the state and the tag of the request. -/
def State.sendStore (s : State) (a : Agent) (node va : Nat) (bs : List Byte) : State × Nat :=
  let t := s.fresh
  ({ s.request node a.tenant t (.store (word va) bs) with fresh := t + 1 }, t % 4096)

/-- A write to another node, noted until its acknowledgement by whose it is. -/
def State.notePosted (s : State) (a : Agent) (tag pa : Nat) : State :=
  match a.src with
  | .entry e => s.onStrand a.tid fun x => { x with posted := x.posted ++ [⟨tag, pa, .vector e⟩] }
  | .slot q => s.onStrand a.tid fun x => { x with posted := x.posted ++ [⟨tag, pa, .engine q⟩] }
  | _ => s

/-- A store's parts performed in order, each with its share of the bytes. -/
def State.writeParts (s : State) (a : Agent) (l1 : Bool) : List (Place × Nat) → List Byte → State
  | [], _ => s
  | (p, n) :: r, bs =>
    let s1 :=
      match region p.key, p.kind with
      | .remote node va, .remote =>
        let q := s.sendStore a node va (bs.take n)
        q.1.notePosted a q.2 p.key
      | _, _ => (s.writePlace a l1 p (bs.take n)).replied a p
    State.writeParts s1 a l1 r (bs.drop n)

/-- The value of a load of `n` bytes (01 R17). -/
def extend (n : Nat) (signed : Bool) (bs : List Byte) : Word :=
  let v := leNat bs
  if signed && v.testBit (8 * n - 1) then word (v + 2 ^ 64 - 2 ^ (8 * n)) else word v

/-! ### The write queue (03 R87) -/

/-- The memory keys that an access touches. -/
def keysOf (parts : List (Place × Nat)) : List Nat :=
  parts.flatMap fun (p : Place × Nat) => (List.range p.2).map fun i => p.1.key + i

/-- What the queue does with a load. -/
inductive Forward
  /-- No queued store overlaps it. -/
  | none
  /-- The youngest overlapping store covers it wholly and gives these bytes. -/
  | hit (bs : List Byte)
  /-- It waits until every overlapping store has been acknowledged. -/
  | wait
  deriving DecidableEq, Repr

/-- The youngest queued store that overlaps the keys decides (03 R87). -/
def forward (ks : List Nat) : List WEntry → Forward
  | [] => .none
  | e :: older =>
    let bs := ks.map e.byteAt
    if bs.all Option.isNone then forward ks older
    else if bs.all Option.isSome then .hit (bs.filterMap id)
    else .wait

/-- Some queued store overlaps the parts. -/
def Strand.overlaps (x : Strand) (parts : List (Place × Nat)) : Bool :=
  x.writes.any fun e => (keysOf parts).any fun k => (e.byteAt k).isSome

/-- Scopes st, co and cl. -/
def nearScope (sc : Scope) : Bool := decide (sc = .st ∨ sc = .co ∨ sc = .cl)

/-- A part of a store that has been sent has reached the scope's point of performance (04 R120, 16 R449). -/
def Place.sentPerforms (p : Place) (sc : Scope) : Bool :=
  match p.kind with
  | .dram | .msc | .save => nearScope sc
  | .remote => !decide (sc = .sy)
  | _ => false

/-- The scope's point of performance is reached by a queued store (04 R120, 16 R449). -/
def WEntry.performed (e : WEntry) (sc : Scope) : Bool :=
  decide (e.stage = 3) || (decide (e.stage = 4) && !decide (sc = .sy))
    || (decide (1 ≤ e.stage) && e.parts.all fun (p : Place × List Byte) => p.1.sentPerforms sc)

/-- The scalar stream has read a store that has not reached its home. -/
def Strand.sawScalar (x : Strand) : Bool := x.seen.any fun e => !e.vec

/-- The vector stream has read a store that has not reached its home. -/
def Strand.sawVector (x : Strand) : Bool := x.seen.any fun e => e.vec

/-- A vector write to another node has not been acknowledged. -/
def Strand.vectorOut (x : Strand) : Bool := x.posted.any fun p => match p.own with | .vector _ => true | .engine _ => false

/-- A write of slot `q` to another node has not been acknowledged. -/
def Strand.engineOut (x : Strand) (q : Nat) : Bool := x.posted.any fun p => decide (p.own = .engine q)

/-- An element of the entry numbered `e` has not performed at every scope: its write to another node is out, or it has read a store
that has not reached its home. -/
def Strand.entryOut (x : Strand) (e : Nat) : Bool :=
  (x.posted.any fun p => decide (p.own = .vector e)) || x.seen.any fun r => r.vec && decide (r.at_ = e)

/-- The scope's point of performance is reached by every scalar access of the strand that issued before number `n`: its stores, and
the stores that its loads read (04 R120, 16 R449). -/
def Strand.performedBefore (x : Strand) (sc : Scope) (n : Nat) : Bool :=
  (x.writes.all fun e => decide (n ≤ e.id) || e.performed sc)
    && (nearScope sc || !x.seen.any fun e => !e.vec && decide (e.at_ < n))

/-- The scope's point of performance is reached by every element of a vector instruction before number `n` that has left the queue. -/
def Strand.vectorPerformedBefore (x : Strand) (sc : Scope) (n : Nat) : Bool :=
  (!decide (sc = .sy) || !x.posted.any fun p => match p.own with | .vector e => decide (e < n) | .engine _ => false)
    && (nearScope sc || !x.seen.any fun e => e.vec && decide (e.at_ < n))

/-- The scope's point of performance is reached by every scalar access of the strand that has issued: its stores, and the stores that
its loads read (04 R120, 16 R449). -/
def Strand.performedAt (x : Strand) (sc : Scope) : Bool :=
  (x.writes.all fun e => e.performed sc) && (nearScope sc || !x.sawScalar)

/-- The scope's point of performance is reached by every vector access of the strand that has left the queue (04 R120, 16 R449). -/
def Strand.vectorPerformedAt (x : Strand) (sc : Scope) : Bool :=
  (!decide (sc = .sy) || !x.vectorOut) && (nearScope sc || !x.sawVector)

/-! ### Accesses that wait -/

/-- The scalar instruction at the program counter waits for data. -/
def Strand.waits (x : Strand) : Bool := x.pend.any fun p => decide (p.owner = .scalar)

/-- The request for the first part still to be read, when that part is far (15 R433, 16 R448). An `amo.or` of zero leaves as the FetchAdd
of 0 that reads the host's word. One that a link holds is sent when it moves (14 R421). -/
def State.sendPend (s : State) (a : Agent) (p : Pend) : State × Pend :=
  match p.parts with
  | (q, n) :: _ =>
    let tag := s.fresh
    let s1 := { s with fresh := s.fresh + 1 }
    (match region q.key with
     | .host h =>
       if s.linkHeld a q then (s, p)
       else
       let o : HostOut := match p.acc with
         | .load .. => .read (s.hostFn a.tenant) tag h n
         | .amo _ op x => .atomic (s.hostFn a.tenant) tag h n (some (if op = .or then .add else op)) x 0
         | .cas _ c x => .atomic (s.hostFn a.tenant) tag h n none x c
       (s1.onSys fun y => { y with hostOut := y.hostOut ++ [o] }, { p with tag := some tag })
     | .remote node va =>
       let b : FlitBody := match p.acc with
         | .load .. => .load (word va) n
         | .amo _ op x => .atomic (word va) n (some op) x 0
         | .cas _ c x => .atomic (word va) n none x c
       (s1.request node a.tenant tag b, { p with tag := some (tag % 4096) })
     | _ => (s, p))
  | [] => (s, p)

/-- A far access begins to wait. -/
def State.beginWait (s : State) (a : Agent) (p : Pend) : State :=
  let q := s.sendPend a p
  q.1.onStrand a.tid fun x => { x with pend := x.pend ++ [q.2] }

/-- The value that a completed access writes to its register. -/
def Pend.value (p : Pend) : Word :=
  match p.acc with
  | .load n sg => extend n sg p.got
  | .amo n .. => extend n (decide (n = 4)) p.got
  | .cas n .. => extend n (decide (n = 4)) p.got

/-- An order includes an acquire (03 R91). -/
def Order.acquires : Order → Bool
  | .acq | .ar | .sc => true
  | _ => false

/-- An order includes a release (03 R91). -/
def Order.releases : Order → Bool
  | .rel | .ar | .sc => true
  | _ => false

/-! ### Loads and stores -/

/-- What a fault of the access at the program counter would take back. -/
def Strand.backOf (x : Strand) : Back := { pc := x.pc, ctl := x.ctl, trigIssued := x.trigIssued, undo := [] }

/-- The strand taken back to its access (03 R88): what has issued behind it, number `n`, has not issued. -/
def Strand.takeBack (x : Strand) (n : Nat) (b : Back) : Strand :=
  { b.undo.foldl (fun (x : Strand) (u : Reg × Word) => x.setReg u.1 u.2) x with
    pc := b.pc, ctl := b.ctl, trigIssued := b.trigIssued, queue := x.queue.filter fun q => decide (q.id < n) }

/-- The record of a scalar access at the program counter whose data comes later. -/
def State.pendOf (s : State) (d : Reg) (addr : Word) (parts : List (Place × Nat)) (acc : Access) (o : Order) (sc : Scope) : Pend :=
  { id := s.fresh, gen := (s.cluster s.tid.cluster).gen, owner := .scalar, d := d, addr := addr, parts := parts, got := [], acc := acc
    order := o, scope := sc, tag := none, fail := none, part := s.me.ctl.part, raw := s.bodyEnc, back := some s.me.backOf }

/-- A scalar access whose data comes later has issued: the instructions behind it that need no memory go on (03 R86, R92). -/
def State.issued (s0 : State) (len : Nat) (p : Pend) : State :=
  let s := { s0 with fresh := s0.fresh + 1 }
  (if p.parts.any fun q => q.1.far then s.beginWait s.agent p
   else (s.onMe fun x => { x with pend := x.pend ++ [p] }).push (.homeRequest s.tid 0)).retire len (some p.d)

/-- A scalar load of `n` bytes at `addr` by an instruction of `len` bytes (03 R83). -/
def State.loadOp (s : State) (len : Nat) (d : Reg) (addr : Word) (n : Nat) (signed : Bool) : Result :=
  if s.me.waits then .next s
  else
    match s.resolve s.agent .load addr n with
    | .error f => s.failScalar addr n f
    | .ok parts =>
      let s1 := s.noteAccess s.agent addr (parts.map Prod.snd)
      match forward (keysOf parts) s.me.writes.reverse with
      | .wait => .next s
      | .hit bs => .next (s1.writeReg len d (extend n signed bs))
      | .none =>
        let here := (s.eager && !s1.behindStores s.agent true parts) || parts.all fun q => decide (q.1.kind = .tcm)
        if here && !(parts.any fun q => q.1.far) then
          match s1.readParts s.agent true addr parts with
          | (s2, .ok bs) => .next (s2.writeReg len d (extend n signed bs))
          | (s2, .error a) => s2.trap ⟨0x0D, a, 0⟩
        else
          .next (s1.issued len (s1.pendOf d addr parts (.load n signed) .rlx .st))

/-- The write-queue entry of a store. -/
def wentry (s : State) (addr : Word) (parts : List (Place × Nat)) (bs : List Byte) : WEntry :=
  { id := s.fresh, addr := addr, stage := 0, raw := s.bodyEnc, part := s.me.ctl.part, tags := [], sent := 0
    parts := (match parts with
      | [(p, n)] => [(p, bs.take n)]
      | (p, n) :: (q, _) :: _ => [(p, bs.take n), (q, bs.drop n)]
      | [] => []) }

/-! ### Sending the write queue (03 R87) -/

/-- A part performs where it is sent: in the TCM or in a bank of the issuing cluster. -/
def Place.atOnce (p : Place) (t : Tid) : Bool :=
  match p.kind with
  | .tcm => true
  | .sram => decide ((p.key - 2 ^ 53) / 2 ^ 21 = t.cluster)
  | _ => false

/-- The parts of an entry that perform at a home. -/
def WEntry.homeParts (e : WEntry) (t : Tid) : List (Place × List Byte) :=
  e.parts.filter fun (p : Place × List Byte) => !p.1.atOnce t && !decide (p.1.kind = .remote)

/-- The parts that perform as the entry is sent, the L1's copy of those that a home performs, and the requests to another node,
with their tags and addresses. -/
def State.sendParts (s : State) (a : Agent) : List (Place × List Byte) → State × List (Nat × Nat)
  | [] => (s, [])
  | (p, bs) :: r =>
    if p.atOnce a.tid then State.sendParts (s.writeParts a false [(p, bs.length)] bs) a r
    else
      match region p.key, p.kind with
      | .remote node va, .remote =>
        let q := s.sendStore a node va bs
        let q2 := State.sendParts q.1 a r
        (q2.1, (q.2, p.key) :: q2.2)
      | _, _ => State.sendParts (if p.cached then s.l1Store a.tid.cluster p.key bs else s) a r

/-- The stage of an entry whose parts in this package have performed. -/
def doneStage (tags : List (Nat × Nat)) : Nat := if tags.isEmpty then 3 else 4

/-- The agent of a write-queue entry of context `t`. -/
def State.entryAgent (s : State) (t : Tid) (e : WEntry) : Agent := { s.agentOf t with part := e.part.toNat }

/-- Entry `i` of the write queue of context `t` is sent (03 R87). -/
def State.sendEntry (s : State) (t : Tid) (i : Nat) (e : WEntry) : State :=
  let r := s.sendParts (s.entryAgent t e) e.parts
  let here := (e.homeParts t).isEmpty
  let s1 := r.1.onStrand t fun x =>
    { x with writes := x.writes.set i { e with stage := if here then doneStage r.2 else 1, tags := r.2, sent := r.1.fresh } }
  let s2 := { s1 with fresh := s1.fresh + 1 }
  if !here then s2.push (.homeRequest t 0) else if r.2.isEmpty then s2.push (.storeAcknowledgement t 0) else s2

/-- The store at the program counter waits at issue: it has found the write queue full, and the entry that was the oldest then has not
left it (03 R87). -/
def Strand.storeHeld (x : Strand) : Bool :=
  match x.fullAt with
  | some (pc, n) => decide (pc = x.pc) && x.writes.any fun e => decide (e.id = n)
  | none => false

/-- The store at the program counter finds the write queue full. -/
def Strand.noteFull (x : Strand) : Strand :=
  { x with fullAt := x.writes.head?.map fun e => (x.pc, e.id) }

/-- A scalar store of the low `n` bytes of `v` (03 R83, R87): it enters the write queue, and is sent at once in a state that
completes issued work in its issue step, where it performs at once when no home or other node must answer for it first (log 10). One to
the COUNT of a die barrier performs as it issues: its permission, a precise fault, depends on ARRIVED (13 R396, log 87). -/
def State.storeOp (s : State) (len : Nat) (addr : Word) (n : Nat) (v : Word) : Result :=
  if s.me.waits then .next s
  else
    match s.resolve s.agent (.store v) addr n with
    | .error f => s.failScalar addr n f
    | .ok parts =>
      let s1 := s.noteAccess s.agent addr (parts.map Prod.snd)
      let bs := natLe v.toNat n
      let bell := parts.any fun q => decide (q.1.kind = .doorbell)
      let count := parts.any fun q => decide (q.1.kind = .dieBar)
      if (bell && !s.me.performedAt .sy) || (count && parts.any fun q => s.linkHeld s.agent q.1) then .next s
      else
        let here := s.eager && s.me.writes.isEmpty
        if count || (here && !(parts.any fun q => decide (q.1.kind = .remote) || s.storeWaits s.agent q.1)) then
          .next ((s1.writeParts s.agent true parts bs).retire len none)
        else if s.me.storeHeld then .next s
        else if 8 ≤ s.me.writes.length then .next (s.onMe Strand.noteFull)
        else
          let e := wentry s1 addr parts bs
          let s2 := (State.onMe { s1 with fresh := s1.fresh + 1 } fun x =>
            { x with writes := x.writes ++ [e], fullAt := none }).retire len none
          .next (if here then s2.sendEntry s.tid 0 e else s2.push (.writeQueueSend s.tid))

/-- Width in bytes and signedness of a load (03 R83). -/
def LoadOp.form : LoadOp → Nat × Bool
  | .ldb => (1, true) | .ldbu => (1, false) | .ldh => (2, true) | .ldhu => (2, false)
  | .ldw => (4, true) | .ldwu => (4, false) | .ldd => (8, false)

/-- Width in bytes of a store (03 R83). -/
def StoreOp.width : StoreOp → Nat
  | .stb => 1 | .sth => 2 | .stw => 4 | .std => 8

/-- The effective address of a load or store (03 R83). -/
def State.ea (s : State) (a : Reg) (i : Word) : Word := s.reg a + i

/-- LDB (03 R83). -/
def execLdb (d a : Reg) (i : BitVec 14) (s : State) : Result := s.loadOp 4 d (s.ea a (i.signExtend 64)) 1 true
/-- LDBU (03 R83). -/
def execLdbu (d a : Reg) (i : BitVec 14) (s : State) : Result := s.loadOp 4 d (s.ea a (i.signExtend 64)) 1 false
/-- LDH (03 R83). -/
def execLdh (d a : Reg) (i : BitVec 14) (s : State) : Result := s.loadOp 4 d (s.ea a (i.signExtend 64)) 2 true
/-- LDHU (03 R83). -/
def execLdhu (d a : Reg) (i : BitVec 14) (s : State) : Result := s.loadOp 4 d (s.ea a (i.signExtend 64)) 2 false
/-- LDW (03 R83). -/
def execLdw (d a : Reg) (i : BitVec 14) (s : State) : Result := s.loadOp 4 d (s.ea a (i.signExtend 64)) 4 true
/-- LDWU (03 R83). -/
def execLdwu (d a : Reg) (i : BitVec 14) (s : State) : Result := s.loadOp 4 d (s.ea a (i.signExtend 64)) 4 false
/-- LDD (03 R83). -/
def execLdd (d a : Reg) (i : BitVec 14) (s : State) : Result := s.loadOp 4 d (s.ea a (i.signExtend 64)) 8 false
/-- STB (03 R83). -/
def execStb (d a : Reg) (i : BitVec 14) (s : State) : Result := s.storeOp 4 (s.ea a (i.signExtend 64)) 1 (s.reg d)
/-- STH (03 R83). -/
def execSth (d a : Reg) (i : BitVec 14) (s : State) : Result := s.storeOp 4 (s.ea a (i.signExtend 64)) 2 (s.reg d)
/-- STW (03 R83). -/
def execStw (d a : Reg) (i : BitVec 14) (s : State) : Result := s.storeOp 4 (s.ea a (i.signExtend 64)) 4 (s.reg d)
/-- STD (03 R83). -/
def execStd (d a : Reg) (i : BitVec 14) (s : State) : Result := s.storeOp 4 (s.ea a (i.signExtend 64)) 8 (s.reg d)
/-- A load with an IMM prefix (02 R52, 03 R83). -/
def execLoadImm32 (op : LoadOp) (d a : Reg) (i : BitVec 32) (s : State) : Result :=
  s.loadOp 8 d (s.ea a (i.signExtend 64)) (LoadOp.form op).1 (LoadOp.form op).2
/-- A store with an IMM prefix (02 R52, 03 R83). -/
def execStoreImm32 (op : StoreOp) (d a : Reg) (i : BitVec 32) (s : State) : Result :=
  s.storeOp 8 (s.ea a (i.signExtend 64)) (StoreOp.width op) (s.reg d)
/-- c.ldd (02 R48). -/
def execCLdd (d : Reg) (k : BitVec 5) (s : State) : Result :=
  if s.me.ctl.ldv then s.loadOp 2 d (s.reg s.me.ctl.ld + word (8 * k.toNat)) 8 false else s.trap s.illegal
/-- c.ldw (02 R48). -/
def execCLdw (d : Reg) (k : BitVec 5) (s : State) : Result :=
  if s.me.ctl.ldv then s.loadOp 2 d (s.reg s.me.ctl.ld + word (4 * k.toNat)) 4 true else s.trap s.illegal
/-- c.std (02 R48). -/
def execCStd (d : Reg) (k : BitVec 5) (s : State) : Result :=
  if s.me.ctl.ldv then s.storeOp 2 (s.reg s.me.ctl.ld + word (8 * k.toNat)) 8 (s.reg d) else s.trap s.illegal

end Sys2Proof.Machine
end

