-- ==== Sys2Proof/Machine/Atomic.lean ====
section
/-! DEFINITION. Scalar atomics: AMO, SWAP and CAS (03 R89 to R92, 13 R396). -/

namespace Sys2Proof.Machine

open Sys2Proof

/-- The new value of an AMO or SWAP on `n` bytes (03 R89). -/
def amoNew (op : VAmoOp) (n : Nat) (old x : Nat) : Nat :=
  let m := 2 ^ (8 * n)
  let o := old % m
  let y := x % m
  let neg := fun (v : Nat) => v.testBit (8 * n - 1)
  let lt := if neg o = neg y then decide (o < y) else neg o
  match op with
  | .add => (o + y) % m
  | .and => o &&& y
  | .or => o ||| y
  | .xor => o ^^^ y
  | .min => if lt then o else y
  | .max => if lt then y else o
  | .minu => Nat.min o y
  | .maxu => Nat.max o y
  | .swap => y

/-- The bytes that an atomic writes after reading `old`; none when a CAS fails (03 R89). -/
def Access.writes (acc : Access) (old : List Byte) : Option (List Byte) :=
  match acc with
  | .load .. => none
  | .amo n op x => some (natLe (amoNew op n (leNat old) x.toNat) n)
  | .cas n cmp x => if leNat old = cmp.toNat % 2 ^ (8 * n) then some (natLe x.toNat n) else none

/-- The bytes that an access moves. -/
def Access.size : Access → Nat
  | .load n _ => n
  | .amo n _ _ => n
  | .cas n _ _ => n

/-- An atomic at the STATE of a die barrier: an arrival, or a poll that leaves it unchanged (13 R396). -/
def State.dieBarAtomic (s : State) (p : Place) (acc : Access) : State × List Byte :=
  let st := s.rd p.key
  let count := fld (s.rd (p.key + 8)) 0 32
  let s1 := match acc with
    | .amo _ .add _ =>
      if count ≤ fld st 0 32 + 1 then s.wr p.key (setFld (setFld st 32 32 (fld st 32 32 + 1)) 0 32 0)
      else s.wr p.key (setFld st 0 32 (fld st 0 32 + 1))
    | _ => s
  (s1, natLe st.toNat 8)

/-- The form of an atomic. -/
def Access.form : Access → Form
  | .load .. => .load
  | .amo _ op x => .amo op x
  | .cas .. => .cas

/-- A near atomic performs at its place (03 R89, R90): the bytes read, or the cause with which it fails: it reads poisoned data (03 R88),
or the COUNT of a die barrier, which its arrival needs, has become zero since it issued (13 R396). -/
def State.atomicAt (s0 : State) (a : Agent) (p : Place) (acc : Access) : State × Except Nat (List Byte) :=
  let s := s0.replied a p
  if p.kind = .dieBar then
    (if s.dieBarOk acc.form p.key acc.size then (let r := s.dieBarAtomic p acc; (r.1, .ok r.2)) else (s, .error 0x0C))
  else
    let i := s.injected a.who p.key
    let s1 := if p.cached then i.1.lineCheck a.who (s.redirect p.key) acc.size else i.1.ecc a.who p.key acc.size
    let s2 := if p.cached then s1.l1Drop a.tid.cluster p.key else s1
    match s2.readPlace a false p acc.size with
    | (_, true) => (s2, .error 0x0D)
    | (old, false) =>
      if i.2 then (s2, .error 0x0D)
      else (match acc.writes old with
       | some bs => s2.writePlace a false p bs
       | none => if p.cached then s2.cacheRead none a.part p.key (s2.redirect p.key) p.keyId p.fills false else s2, .ok old)

/-- A completed scalar atomic or load writes its register and advances the L1 generation if it acquires (03 R89, R91). -/
def State.completeAccess (s : State) (p : Pend) : State :=
  (if Order.acquires p.order then s.acquire s.tid.cluster p.scope else s).setReg p.d p.value

/-- A scalar atomic on `n` bytes at s[a] (03 R89 to R91). One of order sc does not perform between the elements of a vector
instruction of that order (04 R130). -/
def State.atomicOp (s : State) (d a : Reg) (n : Nat) (f : Form) (acc : Access) (o : Order) (sc : Scope) : Result :=
  let addr := s.reg a
  if s.me.waits then .next s
  else if addr.toNat % n ≠ 0 then s.trap ⟨0x0A, addr, 0⟩
  else
    match s.resolve s.agent f addr n with
    | .error e => s.failScalar addr n e
    | .ok parts =>
      if (Order.releases o && !s.me.performedAt sc) || s.me.overlaps parts || (decide (o = .sc) && s.sys.scRun.isSome) then .next s
      else
        let s1 := s.noteAccess s.agent addr (parts.map Prod.snd)
        let p := s1.pendOf d addr parts acc o sc
        match parts with
        | (q, _) :: _ =>
          if (s.eager || decide (q.kind = .tcm)) && !q.far && !s1.atomicWaits s.agent q then
            match s1.atomicAt s.agent q acc with
            | (s2, .ok bs) => .next ((s2.completeAccess { p with got := bs }).retire 4 (some d))
            | (s2, .error c) => s2.trap ⟨c, addr, 0⟩
          else .next (s1.issued 4 p)
        | [] => .next s1

/-- An AMO or SWAP of `n` bytes. -/
def State.amoOp (s : State) (d a b : Reg) (n : Nat) (op : VAmoOp) (o : Order) (sc : Scope) : Result :=
  s.atomicOp d a n (.amo op (s.reg b)) (.amo n op (s.reg b)) o sc

/-- A CAS of `n` bytes against s[d]. -/
def State.casOp (s : State) (d a b : Reg) (n : Nat) (o : Order) (sc : Scope) : Result :=
  s.atomicOp d a n .cas (.cas n (s.reg d) (s.reg b)) o sc

/-- AMO.ADD on 64 bits (03 R89). -/
def execAmoAddD (d a b : Reg) (o : Order) (sc : Scope) (s : State) : Result := s.amoOp d a b 8 .add o sc

/-- AMO.AND on 64 bits (03 R89). -/
def execAmoAndD (d a b : Reg) (o : Order) (sc : Scope) (s : State) : Result := s.amoOp d a b 8 .and o sc

/-- AMO.OR on 64 bits (03 R89). -/
def execAmoOrD (d a b : Reg) (o : Order) (sc : Scope) (s : State) : Result := s.amoOp d a b 8 .or o sc

/-- AMO.XOR on 64 bits (03 R89). -/
def execAmoXorD (d a b : Reg) (o : Order) (sc : Scope) (s : State) : Result := s.amoOp d a b 8 .xor o sc

/-- AMO.MIN on 64 bits (03 R89). -/
def execAmoMinD (d a b : Reg) (o : Order) (sc : Scope) (s : State) : Result := s.amoOp d a b 8 .min o sc

/-- AMO.MAX on 64 bits (03 R89). -/
def execAmoMaxD (d a b : Reg) (o : Order) (sc : Scope) (s : State) : Result := s.amoOp d a b 8 .max o sc

/-- AMO.MINU on 64 bits (03 R89). -/
def execAmoMinuD (d a b : Reg) (o : Order) (sc : Scope) (s : State) : Result := s.amoOp d a b 8 .minu o sc

/-- AMO.MAXU on 64 bits (03 R89). -/
def execAmoMaxuD (d a b : Reg) (o : Order) (sc : Scope) (s : State) : Result := s.amoOp d a b 8 .maxu o sc

/-- SWAP on 64 bits (03 R89). -/
def execAmoSwapD (d a b : Reg) (o : Order) (sc : Scope) (s : State) : Result := s.amoOp d a b 8 .swap o sc

/-- CAS on 64 bits (03 R89). -/
def execCasD (d a b : Reg) (o : Order) (sc : Scope) (s : State) : Result := s.casOp d a b 8 o sc

/-- AMO.ADD on 32 bits (03 R89). -/
def execAmoAddW (d a b : Reg) (o : Order) (sc : Scope) (s : State) : Result := s.amoOp d a b 4 .add o sc

/-- AMO.AND on 32 bits (03 R89). -/
def execAmoAndW (d a b : Reg) (o : Order) (sc : Scope) (s : State) : Result := s.amoOp d a b 4 .and o sc

/-- AMO.OR on 32 bits (03 R89). -/
def execAmoOrW (d a b : Reg) (o : Order) (sc : Scope) (s : State) : Result := s.amoOp d a b 4 .or o sc

/-- AMO.XOR on 32 bits (03 R89). -/
def execAmoXorW (d a b : Reg) (o : Order) (sc : Scope) (s : State) : Result := s.amoOp d a b 4 .xor o sc

/-- AMO.MIN on 32 bits (03 R89). -/
def execAmoMinW (d a b : Reg) (o : Order) (sc : Scope) (s : State) : Result := s.amoOp d a b 4 .min o sc

/-- AMO.MAX on 32 bits (03 R89). -/
def execAmoMaxW (d a b : Reg) (o : Order) (sc : Scope) (s : State) : Result := s.amoOp d a b 4 .max o sc

/-- AMO.MINU on 32 bits (03 R89). -/
def execAmoMinuW (d a b : Reg) (o : Order) (sc : Scope) (s : State) : Result := s.amoOp d a b 4 .minu o sc

/-- AMO.MAXU on 32 bits (03 R89). -/
def execAmoMaxuW (d a b : Reg) (o : Order) (sc : Scope) (s : State) : Result := s.amoOp d a b 4 .maxu o sc

/-- SWAP on 32 bits (03 R89). -/
def execAmoSwapW (d a b : Reg) (o : Order) (sc : Scope) (s : State) : Result := s.amoOp d a b 4 .swap o sc

/-- CAS on 32 bits (03 R89). -/
def execCasW (d a b : Reg) (o : Order) (sc : Scope) (s : State) : Result := s.casOp d a b 4 o sc

end Sys2Proof.Machine
end

