-- ==== Sys2Proof/Machine/Special.lean ====
section
/-! DEFINITION. The special functions (09 R278 to R280): reciprocals by exact division, and sine, cosine, power of two and
logarithm by enclosures whose precision grows until both ends round alike (log 20). -/

namespace Sys2Proof.Machine

open Sys2Proof

/-! ### Reciprocals (09 R278) -/

/-- A magnitude with `q` significant bits at most, packed by R278: overflow to infinity, flush below the smallest normal. -/
def FF.shortRound (f : FF) (neg : Bool) (m : Nat) (e : Int) (sticky : Bool) : FRes :=
  let q := min 11 (f.frac + 1)
  let top := e + bits m - 1
  let c := cut m e sticky (top - q + 1)
  let n := if c.up .rne neg then c.n + 1 else c.n
  let carry := decide (n = 2 ^ q)
  let ex := if carry then top + 1 else top
  let mant := if carry then 2 ^ (q - 1) else n
  let nx := if c.exact then 0 else flagNX
  if (f.expMax : Int) - 1 - f.bias < ex then (f.signed neg f.infBits, flagOF ||| flagNX)
  else if ex < f.emin then (f.signed neg 0, flagUF ||| flagNX)
  else (f.signed neg (f.pack (mant * 2 ^ (f.frac + 1 - q)) (ex - f.frac)), nx)

/-- VRCP of one value (09 R278). -/
def FF.rcp (f : FF) (a : FVal) : FRes :=
  match a with
  | .nan s => f.nan s
  | .inf n => f.zero n
  | .fin n m e =>
    if m = 0 then (f.signed n f.infBits, flagDZ)
    else
      let k := 16 + bits m
      f.shortRound n (2 ^ k / m) (-e - k) (!decide (2 ^ k % m = 0))

/-- VRSQ of one value (09 R278). -/
def FF.rsq (f : FF) (a : FVal) : FRes :=
  match a with
  | .nan s => f.nan s
  | .inf n => if n then f.nan true else f.zero false
  | .fin n m e =>
    if m = 0 then (f.signed n f.infBits, flagDZ)
    else if n then f.nan true
    else
      let k := 2 * (16 + bits m) + (if e % 2 = 0 then 0 else 1)
      let v := 2 ^ k / m
      let r := isqrt v
      f.shortRound false r ((-e - k) / 2) (!decide (r * r * m = 2 ^ k))

/-! ### Enclosures in fixed point -/

/-- An approximation `a` of a real number times 2^k, off by less than `enclosureError`. -/
def enclosureError : Nat := 2 ^ 24

/-- The sum x + x³/3 ∓ …: the series of atan (`alt`) or atanh of 1/d times 2^k. -/
def atanSeries (alt : Bool) (d2 : Nat) : Nat → Nat → Nat → Int → Int
  | 0, _, _, s => s
  | fuel + 1, n, p, s =>
    if p = 0 then s
    else
      let t : Int := (p / n : Nat)
      atanSeries alt d2 fuel (n + 2) (p / d2) (if alt && decide (n % 4 = 3) then s - t else s + t)

/-- atan(1/d) · 2^k. -/
def atanInv (k d : Nat) : Int := atanSeries true (d * d) (k + 8) 1 (2 ^ k / d) 0

/-- atanh(1/d) · 2^k. -/
def atanhInv (k d : Nat) : Int := atanSeries false (d * d) (k + 8) 1 (2 ^ k / d) 0

/-- π · 2^k, by Machin's formula. -/
def piFix (k : Nat) : Nat := (16 * atanInv k 5 - 4 * atanInv k 239).toNat

/-- ln 2 · 2^k. -/
def ln2Fix (k : Nat) : Nat := (18 * atanhInv k 26 - 2 * atanhInv k 4801 + 8 * atanhInv k 8749).toNat

/-- The alternating series of sine and cosine in the square `y2` of the angle, both times 2^k: `t` is the next term and `n`
the number after which its divisors follow. -/
def trigSeries (k y2 : Nat) : Nat → Nat → Nat → Bool → Int → Int
  | 0, _, _, _, s => s
  | fuel + 1, n, t, minus, s =>
    if t = 0 then s
    else trigSeries k y2 fuel (n + 2) (t * y2 / 2 ^ k / ((n + 1) * (n + 2))) (!minus) (if minus then s - t else s + t)

/-- The exponential series at y, times 2^k. -/
def expSeries (k y : Nat) : Nat → Nat → Nat → Nat → Nat
  | 0, _, _, s => s
  | fuel + 1, n, t, s => if t = 0 then s else expSeries k y fuel (n + 1) (t * y / 2 ^ k / (n + 1)) (s + t)

/-- The series of atanh at z, times 2^k. -/
def atanhSeries (k : Nat) (z2 : Nat) : Nat → Nat → Nat → Nat → Nat
  | 0, _, _, s => s
  | fuel + 1, n, p, s => if p = 0 then s else atanhSeries k z2 fuel (n + 2) (p * z2 / 2 ^ k) (s + p / n)

/-- An enclosure of an irrational magnitude: it lies strictly between lo · 2^e and hi · 2^e. -/
structure Encl where
  /-- Lower end. -/
  lo : Nat
  /-- Upper end. -/
  hi : Nat
  /-- Exponent. -/
  e : Int
  deriving DecidableEq, Repr

/-- Both ends round alike: the correctly rounded result. -/
def FF.decideRound (f : FF) (mode : RMode) (neg : Bool) (c : Encl) : Option FRes :=
  if c.lo = 0 ∨ c.hi ≤ c.lo then none
  else
    let a := f.round mode neg c.lo c.e true
    let b := f.round mode neg (c.hi - 1) c.e true
    if a = b ∧ bits c.lo > f.frac + 3 then some a else none

/-- The precisions tried, in bits. -/
def precisions : List Nat := [192, 384, 768, 1536]

/-- The correctly rounded result at the first precision that decides it; a value of Config when none does (log 20). -/
def FF.search (f : FF) (mode : RMode) (neg : Bool) (enc : Nat → Encl) (which w : Nat) : FRes :=
  match precisions.findSome? fun k => f.decideRound mode neg (enc k) with
  | some r => r
  | none => ((Config.specialValue which w).toNat % 2 ^ f.width, flagNX)

/-! ### Sine and cosine of turns (09 R279) -/

/-- An angle of m / 2^j turns with 0 < m < 2^j / 8 or equal to an eighth: an enclosure of its sine or cosine. -/
def trigEncl (cosine : Bool) (m j k : Nat) : Encl :=
  let g := k + (j - bits m) + 32
  let y := 2 * piFix g * m / 2 ^ j
  let y2 := y * y / 2 ^ g
  if cosine then
    let c := (trigSeries g y2 g 0 (2 ^ g) false 0).toNat
    { lo := c - enclosureError, hi := min (2 ^ g) (c + enclosureError), e := -(g : Int) }
  else
    let s := (trigSeries g y2 g 1 y false 0).toNat
    { lo := s - enclosureError, hi := s + enclosureError, e := -(g : Int) }

/-- The sine (quarter 0) or cosine (quarter 1) of an angle of m / 2^j turns, 0 ≤ m < 2^j: its sign, and the octant's angle
with the function to take there, or none where the result is 0, 1 or −1. -/
def trigOctant (m j : Nat) (shift : Nat) : Bool × Option (Bool × Nat) × Nat :=
  let full := 2 ^ j
  let a := (m + shift * (full / 4)) % full
  let neg := decide (full / 2 ≤ a)
  let b := a % (full / 2)
  let c := if full / 4 ≤ b then full / 2 - b else b
  if c = 0 then (neg, none, 0)
  else if c = full / 4 then (neg, none, 1)
  else if c ≤ full / 8 then (neg, some (false, c), 0)
  else (neg, some (true, full / 4 - c), 0)

/-- VSINT (`shift` 0) and VCOST (`shift` 1) of one value (09 R279). -/
def FF.trig (f : FF) (mode : RMode) (shift : Nat) (a : FVal) (w : Nat) : FRes :=
  match a with
  | .nan s => f.nan s
  | .inf _ => f.nan true
  | .fin n m e =>
    let zero := f.zero (decide (shift = 0) && n)
    if m = 0 then (if shift = 0 then f.zero n else f.round mode false 1 0 false)
    else if 0 ≤ e then (if shift = 0 then zero else f.round mode false 1 0 false)
    else
      let j := max 3 (-e).toNat
      let t := m * 2 ^ (j - (-e).toNat) % 2 ^ j
      let t := if n then (2 ^ j - t) % 2 ^ j else t
      match trigOctant t j shift with
      | (_, none, 0) => zero
      | (neg, none, _) => f.round mode neg 1 0 false
      | (neg, some (cosine, c), _) => f.search mode neg (trigEncl cosine c j) shift w

/-! ### Power of two and logarithm (09 R280) -/

/-- An enclosure of 2^(m / 2^j), with 0 < m < 2^j. -/
def exp2Encl (m j : Nat) (n : Int) (k : Nat) : Encl :=
  let g := k + 64
  let y := ln2Fix g * m / 2 ^ j
  let c := expSeries g y g 0 (2 ^ g) 0
  { lo := max (2 ^ g) (c - enclosureError), hi := min (2 ^ (g + 1)) (c + enclosureError), e := n - g }

/-- VEXP2 of one value (09 R280). -/
def FF.exp2 (f : FF) (mode : RMode) (a : FVal) (w : Nat) : FRes :=
  match a with
  | .nan s => f.nan s
  | .inf n => if n then f.zero false else f.inf false
  | .fin n m e =>
    if m = 0 then f.round mode false 1 0 false
    else if 14 < e + bits m then f.round mode false 1 (if n then -40000 else 40000) true
    else if 0 ≤ e then f.round mode false 1 (signedMant n (m * 2 ^ e.toNat)) false
    else
      let j := (-e).toNat
      let z := signedMant n m
      let whole := z / 2 ^ j
      let frac := (z % 2 ^ j).toNat
      if frac = 0 then f.round mode false 1 whole false
      else f.search mode false (exp2Encl frac j whole) 2 w

/-- An enclosure of the magnitude of x + log₂(num / den), with its sign known. -/
def log2Encl (x : Int) (num den : Nat) (k : Nat) : Encl :=
  let g := k + 64
  let up := decide (den ≤ num)
  let z := (if up then num - den else den - num) * 2 ^ g / (num + den)
  let l := 2 * atanhSeries g (z * z / 2 ^ g) g 1 z 0
  let q : Int := (l * 2 ^ g / ln2Fix g : Nat)
  let v := x * 2 ^ g + (if up then q else -q)
  { lo := v.natAbs - enclosureError, hi := v.natAbs + enclosureError, e := -(g : Int) }

/-- VLOG2 of one value (09 R280). -/
def FF.log2 (f : FF) (mode : RMode) (a : FVal) (w : Nat) : FRes :=
  match a with
  | .nan s => f.nan s
  | .inf n => if n then f.nan true else f.inf false
  | .fin n m e =>
    if m = 0 then (f.signed true f.infBits, flagDZ)
    else if n then f.nan true
    else
      let top := bits m - 1
      let x : Int := e + top
      if m = 2 ^ top then f.ofInt mode x
      else
        let high := decide (3 * 2 ^ top < 2 * m)
        let y := if high then x + 1 else x
        f.search mode (decide (x < 0)) (log2Encl y m (if high then 2 ^ (top + 1) else 2 ^ top)) 3 w

end Sys2Proof.Machine
end

