-- ==== Sys2Proof/Machine/Lanes.lean ====
section
/-! DEFINITION. What the lanes compute on one element: integers (08 R251), floats (08 R252), residues (07 R223 to R225, 08 R253,
10 R305), conversions (07 R229, R231, 09 R276) and special functions (09 R278 to R281). -/

namespace Sys2Proof.Machine

open Sys2Proof

/-- An element result with the FFLAGS and IFLAGS it raises. -/
structure Elem where
  /-- The bits. -/
  bits : Nat
  /-- FFLAGS. -/
  ff : BitVec 5
  /-- IFLAGS. -/
  fi : BitVec 4
  deriving DecidableEq, Repr

/-- A result that raises no flag. -/
def plain (x : Nat) : Elem := ⟨x, 0, 0⟩

/-- A floating result. -/
def FRes.elem (r : FRes) : Elem := ⟨r.1, r.2, 0⟩

/-! ### Residues -/

/-- The moduli of channels c0 to c7 (07 R223). -/
def moduli : List Nat := [253, 251, 247, 241, 239, 233, 255, 256]

/-- The modulus of channel `j`. -/
def modulus (j : Nat) : Nat := moduli[j]?.getD 1

/-- Byte `j` of a residue vector. -/
def channel (x j : Nat) : Nat := x / 256 ^ j % 256

/-- The residue vector whose enabled byte `j` is `f j`; disabled bytes are zero (07 R225). -/
def rnsBytes (en : Nat) (f : Nat → Nat) : Nat :=
  (List.range 8).foldl (fun a j => if en.testBit j then a + f j % 256 * 256 ^ j else a) 0

/-- Residue(x) over the enabled channels (07 R223). -/
def residue (en : Nat) (x : Int) : Nat := rnsBytes en fun j => (x % (modulus j : Int)).toNat

/-- Channel arithmetic; an error byte gives 0xFF (07 R224). -/
def rnsOp (en : Nat) (f : Nat → Nat → Nat → Nat) (x y : Nat) : Nat :=
  rnsBytes en fun j =>
    let m := modulus j
    if m ≤ channel x j ∨ m ≤ channel y j then 255 else f m (channel x j) (channel y j) % m

/-- Channel addition. -/
def rnsAdd (en x y : Nat) : Nat := rnsOp en (fun _ a b => a + b) x y
/-- Channel subtraction. -/
def rnsSub (en x y : Nat) : Nat := rnsOp en (fun m a b => a + m - b) x y
/-- Channel multiplication. -/
def rnsMul (en x y : Nat) : Nat := rnsOp en (fun _ a b => a * b) x y

/-- One step of the reconstruction: the number below `acc.2 · m` that is `acc.1` modulo `acc.2` and `r` modulo `m`. -/
def crtStep (acc : Nat × Nat) (r m : Nat) : Nat × Nat :=
  match (List.range m).find? fun t => decide ((acc.1 + acc.2 * t) % m = r) with
  | some t => (acc.1 + acc.2 * t, acc.2 * m)
  | none => (acc.1, acc.2 * m)

/-- Signed(x, S) (10 R305). -/
def rnsSigned (x : Nat) (chans : List Nat) : Int :=
  let r := chans.foldl (fun a j => crtStep a (channel x j) (modulus j)) (0, 1)
  if (r.2 + 1) / 2 ≤ r.1 then (r.1 : Int) - r.2 else r.1

/-- The enabled channels. -/
def enabled (en : Nat) : List Nat := (List.range 8).filter fun j => en.testBit j

/-- M_E (10 R305). -/
def rangeOf (en : Nat) : Nat := ((enabled en).filter fun j => decide (j < 6)).foldl (fun p j => p * modulus j) 1

/-- H_E (10 R305). -/
def halfRange (en : Nat) : Nat := (rangeOf en - 1) / 2

/-- What Decide answers (10 R305). -/
inductive Decision | exact (x : Int) | located (j : Nat) (x : Int) | unresolved
  deriving DecidableEq, Repr

/-- Decide (10 R305). -/
def decideRns (x en : Nat) : Decision :=
  let e := enabled en
  let h := halfRange en
  let chk := e.filter fun j => decide (6 ≤ j)
  let bad := e.filter fun j => decide (modulus j ≤ channel x j)
  let whole := rnsSigned x e
  if bad.isEmpty && decide (whole.natAbs ≤ h) then .exact whole
  else if chk.length = 2 ∧ bad.length ≤ 1 then
    let cand := if bad.length = 1 then bad else e
    match cand.filter fun j => decide ((rnsSigned x (e.erase j)).natAbs ≤ h) with
    | [j] => .located j (rnsSigned x (e.erase j))
    | _ => .unresolved
  else .unresolved

/-! ### Arithmetic -/

/-- Integer division and remainder (03 R76) at width `sew`; the flag is IFLAGS.DZ. -/
def intDiv (kind sew : Nat) (x y : Nat) : Elem :=
  if y = 0 then ⟨2 ^ sew - 1, 0, iflagDZ⟩
  else plain (wrapInt sew ((intElem kind sew x).tdiv (intElem kind sew y)))

/-- The remainder. -/
def intRem (kind sew : Nat) (x y : Nat) : Elem :=
  if y = 0 then ⟨x, 0, iflagDZ⟩
  else plain (wrapInt sew ((intElem kind sew x).tmod (intElem kind sew y)))

/-- Arithmetic of kinds SINT and UINT (08 R251). -/
def intArith (op : ArithOp) (kind sew x y z : Nat) : Elem :=
  let a := intElem kind sew x
  let b := intElem kind sew y
  let c := intElem kind sew z
  match op with
  | .add => plain (wrapInt sew (a + b))
  | .sub => plain (wrapInt sew (a - b))
  | .mul => plain (wrapInt sew (a * b))
  | .mulh => plain (wrapInt sew (a * b / 2 ^ sew))
  | .div => intDiv kind sew x y
  | .rem => intRem kind sew x y
  | .min => plain (if a ≤ b then x else y)
  | .max => plain (if a ≤ b then y else x)
  | .and => plain (x &&& y)
  | .or => plain (x ||| y)
  | .xor => plain (x ^^^ y)
  | .shl => plain (x <<< (y % sew) % 2 ^ sew)
  | .shr => plain (x >>> (y % sew))
  | .sra => plain (wrapInt sew (sintOf sew x / 2 ^ (y % sew)))
  | .fma => plain (wrapInt sew (a * b + c))
  | .fms => plain (wrapInt sew (a * b - c))
  | .fnma => plain (wrapInt sew (-(a * b) + c))
  | .abs => plain (wrapInt sew a.natAbs)
  | .neg => plain (wrapInt sew (-a))
  | .wadd => plain (wrapInt (2 * sew) (a + b))
  | .wmul => plain (wrapInt (2 * sew) (a * b))
  | .nshr => plain 0

/-- VNSHR (08 R255): `x` has 2·sew bits. -/
def narrowShift (kind sew x y : Nat) : Elem :=
  plain (wrapInt sew (intElem kind (2 * sew) x / 2 ^ (y % (2 * sew))))

/-- The format of a widened result (08 R254). -/
def widerFF (f : FF) : FF := if f = .fp32 then .fp64 else .fp32

/-- Arithmetic of kinds FP and BF16 (08 R252, R254). -/
def floatArith (op : ArithOp) (f : FF) (mode : RMode) (x y z : Nat) : Elem :=
  let a := f.value x
  let b := f.value y
  let c := f.value z
  match op with
  | .add => (f.add mode a b).elem
  | .sub => (f.add mode a b.negate).elem
  | .mul => (f.mul mode a b).elem
  | .div => (f.div mode a b).elem
  | .min => (f.minmax false x y).elem
  | .max => (f.minmax true x y).elem
  | .fma => (f.fma mode false a b c).elem
  | .fms => (f.fma mode false a b c.negate).elem
  | .fnma => (f.fma mode true a b c).elem
  | .abs => plain (x % f.signBit)
  | .neg => plain (x ^^^ f.signBit)
  | .wadd => ((widerFF f).add mode a b).elem
  | .wmul => ((widerFF f).mul mode a b).elem
  | _ => plain 0

/-- Arithmetic of kind RNS (08 R253). -/
def rnsArith (op : ArithOp) (en x y : Nat) : Elem :=
  match op with
  | .add => plain (rnsAdd en x y)
  | .sub => plain (rnsSub en x y)
  | .mul => plain (rnsMul en x y)
  | _ => plain 0

/-- Element arithmetic by kind (08 R250). -/
def arithElem (op : ArithOp) (kind sew : Nat) (mode : RMode) (en x y z : Nat) : Elem :=
  if kindI kind then intArith op kind sew x y z
  else if kindF kind then floatArith op (ffOf kind sew) mode x y z
  else rnsArith op en x y

/-- A compare (08 R257). -/
def cmpElem (p : Pred) (kind sew en x y : Nat) : Bool × BitVec 5 :=
  if kindF kind then fcmp p ((ffOf kind sew).value x) ((ffOf kind sew).value y)
  else if kindI kind then
    let a := intElem kind sew x
    let b := intElem kind sew y
    (match p with
     | .eq => decide (a = b) | .ne => !decide (a = b) | .lt => decide (a < b) | .le => decide (a ≤ b), 0)
  else
    let eq := (enabled en).all fun j => decide (channel x j = channel y j)
    (match p with | .ne => !eq | _ => eq, 0)

/-- Carry-less product (03 R76). -/
def clmulNat (sew x y : Nat) : Nat := (List.range sew).foldl (fun a k => if y.testBit k then a ^^^ x <<< k else a) 0

/-- Special functions (09 R278 to R280). -/
def specElem (op : SpecOp) (f : FF) (mode : RMode) (x : Nat) : Elem :=
  let a := f.value x
  (match op with
   | .rcp => f.rcp a
   | .rsq => f.rsq a
   | .sint => f.trig mode 0 a x
   | .cost => f.trig mode 1 a x
   | .exp2 => f.exp2 mode a x
   | .log2 => f.log2 mode a x : FRes).elem

/-! ### Conversion -/

/-- MIX (07 R230). -/
def mix (k n : Word) : Word :=
  let x := k ^^^ (n * 0xD1B54A32D192ED03)
  let x := (x ^^^ (x >>> 31)) * 0x8F3A61D5C29B4E07
  let x := (x ^^^ (x >>> 29)) * 0xB4C172E90D5A86F3
  let x := (x ^^^ (x >>> 32)) * 0xE71D3B5C96A2F48D
  x ^^^ (x >>> 30)

/-- How a conversion rounds: by a mode, or stochastically with these bits (07 R231). -/
inductive Rounding | mode (m : RMode) | stochastic (r : Word)
  deriving DecidableEq, Repr

/-- A value brought to a floating format. -/
def Rounding.to (r : Rounding) (f : FF) (v : FVal) : FRes :=
  match r with
  | .mode m => f.ofVal m v
  | .stochastic w => f.stochastic w v

/-- The range of an integer kind. -/
def intRange (kind sew : Nat) : Int × Int :=
  if kind = 0 then (-(2 ^ (sew - 1)), 2 ^ (sew - 1) - 1) else (0, 2 ^ sew - 1)

/-- Convert of an integer (07 R229). -/
def convertInt (r : Rounding) (tk tsew : Nat) (z : Int) : Elem :=
  if kindI tk then
    let b := intRange tk tsew
    plain (wrapInt tsew (if z < b.1 then b.1 else if b.2 < z then b.2 else z))
  else (r.to (ffOf tk tsew) (.fin (decide (z < 0)) z.natAbs 0)).elem

/-- Convert of a floating value (07 R229); a NaN scale adds NV (07 R220). -/
def convertFloat (r : Rounding) (tk tsew : Nat) (v : FVal) (nanScale : Bool) : Elem :=
  let nv : BitVec 5 := if nanScale then flagNV else 0
  if kindI tk then
    let b := intRange tk tsew
    let q := toInteger (match r with | .mode m => m | .stochastic _ => .rne) b.1 b.2 v
    ⟨wrapInt tsew q.1, q.2 ||| nv, 0⟩
  else
    let q := r.to (ffOf tk tsew) v
    ⟨q.1, q.2 ||| nv, 0⟩

/-- ⌊log₂ |x|⌋ of a finite non-zero value; none for zero, infinity and NaN. -/
def FVal.log2 : FVal → Option Int
  | .fin _ m e => if m = 0 then none else some ((m.log2 : Int) + e)
  | _ => none

/-- Et of a target format (09 R276). -/
def scaleTop (tk : Nat) : Int := if tk = 4 then 8 else if tk = 5 then 15 else 2

/-- The scale byte of a block from its active values (09 R276). -/
def blockScale (tk : Nat) (vs : List FVal) : Nat :=
  if vs.any FVal.isNan then 255
  else
    match vs.filterMap FVal.log2 with
    | [] => 127
    | l :: ls => (min 254 (max 0 (ls.foldl max l - scaleTop tk + 127))).toNat

end Sys2Proof.Machine
end

