-- ==== Sys2Proof/Machine/Reliability.lean ====
section
/-! DEFINITION. Failing lanes (12 R358, R360), residue reports (12 R364, R365, 10 R306), errors of lane storage (12 R354, R355)
and recheck reports (12 R350, R364). -/

namespace Sys2Proof.Machine

open Sys2Proof

/-! ### Lanes -/

/-- A lane of physical lane group `p` of cluster `c` is marked failed (12 R360). A second lane, or the spare, which is lane 16, leads to
a fence at the end of the lull (12 R361). -/
def State.markLane (s : State) (c p l : Nat) : State :=
  let w := s.rd (rLgstat c p)
  if !bitOf w 9 && decide (l < 16) then s.wr (rLgstat c p) (setFld (setBit w 9 true) 5 4 l)
  else if bitOf w 9 = true ∧ fld w 5 4 = l then s
  else s.onCluster c fun k => { k with fenceNext := k.fenceNext ||| BitVec.ofNat 8 (2 ^ p) }

/-- One more error in a lane; the lane is marked when its counter reaches LTHR (12 R358, R359, R360). -/
def State.countLane (s : State) (c p l : Nat) : State :=
  let n := fld (s.rd (rLecnt c p)) (4 * l) 4
  if n = 15 then s
  else
    let s1 := s.upd (rLecnt c p) fun w => setFld w (4 * l) 4 (n + 1)
    if n + 1 = fld (s.rd (rErrcfg c)) 8 4 then s1.markLane c p l else s1

/-- The physical lane group and the lane behind logical lane `k` of the strand in focus (06 R185). -/
def State.laneAt (s : State) (k : Nat) : Nat × Nat := ((s.me.physical (k / 16)).getD 15, k % 16)

/-- A record about a logical lane of the strand in focus (12 R357); outside an instruction's work it names no strand. -/
def State.logLane (s : State) (inj : Bool) (sev unit lane chan : Nat) (roll : Bool) (syn : Nat) (w2 : Word) : State :=
  let p := s.laneAt lane
  s.logCluster s.tid.cluster
    { inj := inj, strand := if s.ir = .event then none else some s.tid, sev := sev, unit := unit, lgrp := p.1, lane := p.2, chan := chan, roll := roll
      syn := syn, w2 := w2, w3 := word s.bodyEnc }

/-! ### Injection (12 R363, R364) -/

/-- An injection aimed at this unit and lane is armed in the given mode: its register. -/
def State.armed (s : State) (unit lane : Nat) (corrupt : Bool) : Option Word :=
  let d := s.rd (rDinj s.tid.cluster)
  let p := s.laneAt lane
  if bitOf d 63 && decide (bitOf d 61 = corrupt) && decide (fld d 52 6 = unit) && decide (fld d 48 4 = p.1)
      && decide (fld d 44 4 = p.2) then some d
  else none

/-- The injection fires: ARM := 0 and FIRED := 1. -/
def State.fire (s : State) : State := s.upd (rDinj s.tid.cluster) fun d => setFld d 62 2 1

/-- Channel `j` of a residue word changed by a corrupting injection. -/
def corruptChannel (x j : Nat) : Nat :=
  x - channel x j * 256 ^ j + (channel x j + 1) % modulus j * 256 ^ j

/-- Decide of an element or cell that a lane holds, with the report injections of 12 R364: the answer, whether the
injection made it, and whether it stands for an unresolved value as if the guard held. -/
def State.decideAt (s : State) (unit lane x en : Nat) : State × Decision × Bool × Bool :=
  let r := decideRns x en
  match s.armed unit lane false, r with
  | some d, .exact v =>
    if en.testBit (fld d 41 3) then
      (if bitOf d 60 then (s.fire, .unresolved, true, true) else (s.fire, .located (fld d 41 3) v, true, false))
    else (s, r, false, false)
  | _, _ => (s, r, false, false)

/-- The report of a located channel: a record of severity 1, the lane's counter, and RCNT unless it was injected
(10 R306, 12 R357, R358, R365). `at_` is TVAL of 10 R307. -/
def State.reportLocated (s : State) (unit lane chan : Nat) (at_ : Word) (inj : Bool) : State :=
  let c := s.tid.cluster
  let p := s.laneAt lane
  let s1 := (s.logLane inj 1 unit lane chan false 0 at_).countLane c p.1 p.2
  if inj then s1
  else s1.upd (rRcnt c p.1) fun w => setFld w (8 * chan) 8 (min 255 (fld w (8 * chan) 8 + 1))

/-- The report of a residue value that stays unresolved while the guard holds (10 R306). -/
def State.reportUnresolved (s : State) (unit lane : Nat) (at_ : Word) (inj : Bool) : State :=
  s.logLane inj 3 unit lane 0 false 0 at_

/-- TVAL of 04 R138 for a residue trap: the logical lane and the index. -/
def laneTval (lane i : Nat) : Word := word (lane % 2048 * 2 ^ 32 + i % 2 ^ 32)

/-! ### Recheck reports in a step that completes at once (12 R350, R351, R364) -/

/-- A report-mode injection aimed at a store that has no lanes is armed in the cluster of the strand in focus. -/
def State.reportArmed (s : State) (unit : Nat) : Option Word :=
  let d := s.rd (rDinj s.tid.cluster)
  if bitOf d 63 && !bitOf d 61 && decide (fld d 52 6 = unit) then some d else none

/-- Such an injection fires at a read by the strand in focus: its record, and whether it reports an uncorrectable error
(12 R364). -/
def State.unitReport (s : State) (unit : Nat) (w2 : Word) : State × Bool :=
  match s.reportArmed unit with
  | none => (s, false)
  | some d =>
    (s.fire.logCluster s.tid.cluster
      { inj := true, strand := some s.tid, sev := if bitOf d 60 then 2 else 0, unit := unit, lgrp := 15, lane := 0, chan := 0
        roll := false, syn := 0, w2 := w2, w3 := word s.bodyEnc }, bitOf d 60)

/-- A rechecked step that starts at element `first` and holds words of these logical lanes: an injection of UNIT 0x04 aimed at one
of them fires, and the vote it causes writes its record and adds to the lane's counter; the committed result is the true one. One
that reports no majority leads to a rollback round, whose executions agree (12 R351), or, in an instruction that commits whole,
ends the step: the flag says that it must not commit (12 R352). A corrupting injection finds the first result of a step whose
executions run on their own as it starts (`State.firstRun`). -/
def State.recheckReport (s : State) (lanes : List Nat) (first : Nat) (whole : Bool) : State × Bool :=
  let corrupt := fun (k : Nat) => if s.eager || whole then s.armed 4 k true else none
  match lanes.find? fun k => (corrupt k).isSome || (s.armed 4 k false).isSome with
  | none => (s, false)
  | some k =>
    let d := (corrupt k).or (s.armed 4 k false)
    let inj := (s.armed 4 k false).isSome
    let unc := inj && bitOf (d.getD 0) 60
    let p := s.laneAt k
    if unc && whole then ((s.fire.logLane true 5 4 k 0 false 0 (laneTval k first)).countLane s.tid.cluster p.1 p.2, true)
    else
      let s1 := (s.fire.logLane inj 4 4 k 0 unc 0 (laneTval k first)).countLane s.tid.cluster p.1 p.2
      (if unc then s1.markLane s.tid.cluster p.1 p.2 else s1, false)

/-! ### Lane storage (12 R354, R355) -/

/-- The key of a stored word of the vector context: register `n` below 32, mask register 32 + n, tile cells at 40. -/
def storeKey (n w : Nat) : Nat := 65536 * n + w

/-- The byte offset of a stored word in its lane's storage or mask file (06 R184, 10 R290). -/
def Strand.storeOffset (x : Strand) (k : Nat) : Nat :=
  let n := k / 65536
  let w := k % 65536
  let slot := if x.lanesWide = 0 then 0 else w / x.lanesWide
  if n < 32 then n * (4096 * shapeVrf x.ctl.shape / shapeRegs x.ctl.shape) + 8 * slot
  else if n < 40 then (n - 32) * 512 + 8 * slot
  else 28672 + 512 * (w / 4096) + 8 * (8 * (w / 64 % 8) + w % 8)

/-- The UNIT of a stored word (12 R357). -/
def storeUnit (k : Nat) : Nat := if k < 32 * 65536 then 1 else if k < 40 * 65536 then 3 else 2

/-- The element whose mask bit is bit `b` of word `w` of a mask register: word `t` of lane `L` is word t·16g + L, and a lane
holds the bits of its elements in ascending order (06 R189). -/
def Strand.maskBit (x : Strand) (w b : Nat) : Nat :=
  let p := 64 / vtSew x.ctl.vt
  let wide := max 1 x.lanesWide
  let local_ := 64 * (w / wide) + b
  (local_ / p * wide + w % wide) * p + local_ % p

/-- A stored word with a syndrome is read: a single-bit error is corrected and counted, any other poisons the word and
marks its lane (12 R354, R358, R360). `lane` is its logical lane. -/
def State.laneWord (s : State) (k lane : Nat) : State :=
  let y := NMap.get 0 s.me.vec.regSynd k
  if y = 0 then s
  else
    let s1 := s.onVec fun v => { v with regSynd := NMap.set 0 v.regSynd k 0 }
    let p := s.laneAt lane
    let c := s.tid.cluster
    let unit := storeUnit k
    let off := word (s.me.storeOffset k)
    match decodeSyn y with
    | .check _ => (s1.logLane false 0 unit lane 0 false y.toNat off).countLane c p.1 p.2
    | .data b =>
      let s2 := s1.onVec fun v =>
        if k < 32 * 65536 then
          { v with regs := NMap.set 0 v.regs k (NMap.get 0 v.regs k ^^^ word (2 ^ b)) }
        else if k < 40 * 65536 then
          let i := s.me.maskBit (k % 65536) b
          v.setMask (k / 65536 - 32) i (!v.mask (k / 65536 - 32) i)
        else
          { v with tiles := NMap.set 0 v.tiles (k % 65536) (NMap.get 0 v.tiles (k % 65536) ^^^ word (2 ^ b)) }
      (s2.logLane false 0 unit lane 0 false y.toNat off).countLane c p.1 p.2
    | .bad => (s1.onVec fun v => { v with regPoison := NMap.set false v.regPoison k true }).markLane c p.1 p.2

/-- The stored words that a step reads, with their logical lanes, each checked; the flag says that one is uncorrectable:
then a severity-2 record is written and the step must not commit (12 R355). A report injection aimed at one of them fires with its
record (12 R364). -/
def State.laneRead (s : State) (ks : List (Nat × Nat)) : State × Bool :=
  if s.me.vec.regSynd = [] ∧ s.me.vec.regPoison = [] ∧ !bitOf (s.rd (rDinj s.tid.cluster)) 63 then (s, false)
  else
    let s1 := ks.foldl (fun s k => s.laneWord k.1 k.2) s
    let hit := ks.findSome? fun k => (s1.armed (storeUnit k.1) k.2 false).map fun d => (k, bitOf d 60)
    let r : State × Bool := match hit with
      | some (k, unc) =>
        (s1.fire.logLane true (if unc then 2 else 0) (storeUnit k.1) k.2 0 false 0 (word (s.me.storeOffset k.1)), unc)
      | none => (s1, false)
    match ks.find? fun k => NMap.get false r.1.me.vec.regPoison k.1 with
    | some k =>
      (r.1.logLane false 2 (storeUnit k.1) k.2 0 false (NMap.get 0 s.me.vec.regSynd k.1).toNat (word (s.me.storeOffset k.1)), true)
    | none => r

/-! ### Lane storage outside every strand's context (12 R355, R362) -/

/-- The key of a word of lane storage, or of the mask file, that lies in no strand's context: its lane group, its lane (16 for a spare
that is not in service) and its offset. -/
def strayKey (p lane : Nat) (mask : Bool) (off : Nat) : Nat := 2 ^ 18 * p + 2 ^ 13 * lane + 2 ^ 12 * mask.toNat + off / 8

/-- The lane group of such a key. -/
def strayGroup (k : Nat) : Nat := k / 2 ^ 18
/-- Its lane. -/
def strayLane (k : Nat) : Nat := k / 2 ^ 13 % 32
/-- It is a word of the mask file. -/
def strayMask (k : Nat) : Bool := decide (k / 2 ^ 12 % 2 = 1)
/-- Its byte offset. -/
def strayOffset (k : Nat) : Nat := k % 2 ^ 12 * 8

/-- The UNIT of a word outside every context: the mask file or lane storage; bank 7 holds no tiles here (12 R357). -/
def strayUnit (k : Nat) : Nat := if strayMask k then 3 else 1

/-- Words outside every strand's context are read: a single-bit error is corrected and counts in its lane, any other is logged and marks
it (12 R354, R358, R360). A spare that is not in service counts no errors. DESIGN CHOICE: that a lane which holds no grant is marked by an
uncorrectable word follows R360, where R355 says of such a word only that it is logged (log 85). -/
def State.strayRead (s : State) (c : Nat) (f : Nat → Bool) : State :=
  let s1 := ((s.cluster c).stray.filter fun (e : Nat × (Word × Byte)) => f e.1).foldl (fun (s : State) (e : Nat × (Word × Byte)) =>
    let p := strayGroup e.1
    let l := strayLane e.1
    let bad := decide (decodeSyn e.2.2 = .bad)
    let s1 := s.logCluster c
      { inj := false, strand := none, sev := if bad then 2 else 0, unit := strayUnit e.1, lgrp := p, lane := l % 16, chan := 0
        roll := false, syn := e.2.2.toNat, w2 := word (strayOffset e.1), w3 := 0 }
    if bad then s1.markLane c p l else if l < 16 then s1.countLane c p l else s1) s
  if (s.cluster c).stray.isEmpty then s
  else s1.onCluster c fun k => { k with stray := k.stray.filter fun (e : Nat × (Word × Byte)) => !f e.1 }

/-- Words of the lanes in service of these lane groups are written: what lay at an offset that `f` names, in the mask file or not, is
there no longer. -/
def State.overwriteStray (s : State) (c : Nat) (ps : List Nat) (f : Bool → Nat → Bool) : State :=
  if (s.cluster c).stray.isEmpty then s
  else s.onCluster c fun k =>
    { k with stray := k.stray.filter fun (e : Nat × (Word × Byte)) =>
        !(ps.elem (strayGroup e.1) && decide (strayLane e.1 < 16) && f (strayMask e.1) (strayOffset e.1)) }

end Sys2Proof.Machine
end

