-- ==== Sys2Proof/Machine/VecMem.lean ====
section
/-! DEFINITION. The element events of the vector memory instructions (08 R243 to R248, 10 R315, 09 R284): one index of one
queue entry, all registers of its group. The encoding in execution is that of the entry. -/

namespace Sys2Proof.Machine

open Sys2Proof

/-- How an index of a queue entry ends. -/
inductive IdxRes
  /-- It is done. -/
  | done (s : State)
  /-- It fails at this index with a cause, TVAL and TVAL2. -/
  | bad (s : State) (f : QFault)
  /-- It waits; nothing of it has been done. -/
  | wait (s : State)
  /-- A VLDFF ends here without a trap (08 R246). -/
  | stop (s : State)
  deriving DecidableEq, Repr

/-- What an element does in memory. -/
inductive EAcc
  | load
  | store (bs : List Byte)
  | amo (op : VAmoOp) (x : Word)
  deriving DecidableEq, Repr

/-- The form of an element access. -/
def EAcc.form : EAcc → Form
  | .load => .vload
  | .store _ => .vstore
  | .amo .. => .vamo

/-- One element access of an index: its number in the entry, address and length. -/
structure EReq where
  /-- Number of the element: G·i + j. -/
  id : Nat
  /-- Address. -/
  addr : Word
  /-- Length in bytes. -/
  len : Nat
  /-- What it does. -/
  acc : EAcc
  /-- The logical lane that holds the element; none for a progress write. -/
  lane : Option Nat
  deriving DecidableEq, Repr

/-- The agent of an element access of an entry: it translates through the TLB of the lane group that holds the element
(13 R389), and keeps the entry's partition (03 R106). -/
def State.elemAgent (s : State) (q : QEntry) (lane : Option Nat) : Agent :=
  { s.agent with
    part := q.part.toNat, src := .entry q.id, lane := lane.bind fun k => s.me.physical (k / 16)
    at_ := q.left.map fun g => (q.id, g) }

/-- What the look at an element access found before anything of its index is done. -/
inductive Look
  /-- Its parts, every one of them near. -/
  | near (parts : List (Place × Nat))
  /-- Its parts, of which one is far; nothing has been asked for. -/
  | far (parts : List (Place × Nat))
  /-- A reply is awaited. -/
  | out
  /-- The bytes that a load has read, or that the reply to a far access brought. -/
  | got (bs : List Byte)
  /-- It waits for a page (13 R384, 14 R405), for stores of its cluster (11 R322), or for a lull's end (14 R421). -/
  | hold
  /-- It fails. -/
  | bad (cause : Nat) (at_ : Word)
  deriving DecidableEq, Repr

/-- The outstanding far access of element `i` of the entry numbered `e`. -/
def Strand.elemPend (x : Strand) (e i : Nat) : Option Pend := x.pend.find? fun p => decide (p.owner = .elem e i)

/-- An outstanding access of the entry numbered `e`. -/
def Pend.ofEntry (p : Pend) (e : Nat) : Bool := match p.owner with | .elem f _ => decide (f = e) | _ => false

/-- The outstanding accesses of the entry numbered `e` are forgotten, but for atomics, which may have performed: a VAMO element
never performs twice (04 R136). -/
def Strand.dropElems (x : Strand) (e : Nat) : Strand :=
  { x with
    pend := x.pend.filter fun p => !p.ofEntry e || (p.fail.isNone && match p.acc with | .amo .. => true | _ => false) }

/-- Every outstanding access of the entry numbered `e` is forgotten. -/
def Strand.clearElems (x : Strand) (e : Nat) : Strand := { x with pend := x.pend.filter fun p => !p.ofEntry e }

/-- The pending record of a far element access. -/
def EReq.pend (r : EReq) (q : QEntry) (enc : Nat) (parts : List (Place × Nat)) : Pend :=
  { id := q.id, gen := 0, owner := .elem q.id r.id, d := 0, addr := r.addr, parts := parts, got := [], order := .rlx, scope := .st
    tag := none, fail := none, part := q.part, raw := enc, back := none
    acc := (match r.acc with
      | .amo op x => .amo r.len op x
      | _ => .load r.len false) }

/-- An element access is an atomic. -/
def EAcc.isAmo : EAcc → Bool
  | .amo .. => true
  | _ => false

/-- The parts of an element access, or what keeps it from performing, in the order of 04 R141 item 5 (08 R243, R248). Nothing is
read yet. -/
def State.peekElem (s : State) (q : QEntry) (r : EReq) : Look :=
  let a := s.elemAgent q r.lane
  match s.me.elemPend q.id r.id with
  | some p =>
    (match p.fail with
     | some c => .bad c p.addr
     | none => if p.parts.isEmpty then .got p.got else .out)
  | none =>
    if r.acc.isAmo && decide (r.addr.toNat % r.len ≠ 0) then .bad 0x0A r.addr
    else
      match s.resolve a r.acc.form r.addr r.len with
      | .error f =>
        (match s.failure a r.addr r.len f.why with
         | some p => .bad p.2 f.at_
         | none => .hold)
      | .ok parts =>
        match r.acc with
        | .store _ => if parts.any fun p => s.storeWaits a p.1 then .hold else .near parts
        | .load =>
          if parts.any fun (p : Place × Nat) => p.1.far then .far parts
          else if s.behindStores a true parts then .hold
          else .near parts
        | .amo .. =>
          if parts.any fun (p : Place × Nat) => p.1.far then .far parts
          else if parts.any fun p => s.atomicWaits a p.1 then .hold
          else .near parts

/-- A failed translation noted in the registers that report it. -/
def State.noteElemFail (s : State) (q : QEntry) (r : EReq) : State :=
  let a := s.elemAgent q r.lane
  if (s.me.elemPend q.id r.id).isSome || (r.acc.isAmo && decide (r.addr.toNat % r.len ≠ 0)) then s
  else
    match s.resolve a r.acc.form r.addr r.len with
    | .error f => (match s.failure a r.addr r.len f.why with | some p => p.1 | none => s)
    | .ok _ => s

/-- An element access looked at, and the read of a near load. A near atomic reads its location here, so that nothing of its index
has performed when that fails. -/
def State.lookElem (s : State) (q : QEntry) (r : EReq) : State × Look :=
  let a := s.elemAgent q r.lane
  match s.peekElem q r with
  | .near parts =>
    let s1 := s.noteAccess a r.addr (parts.map Prod.snd)
    (match r.acc with
     | .store _ => (s1, .near parts)
     | acc =>
       match s1.readParts a (!acc.isAmo) r.addr parts with
       | (s2, .ok bs) => if acc.isAmo then (s1, .near parts) else (s2, .got bs)
       | (s2, .error at_) => (s2, .bad 0x0D at_))
  | .bad c at_ => (s.noteElemFail q r, .bad c at_)
  | l => (s, l)

/-- A far element access asked for. -/
def State.askElem (s : State) (q : QEntry) (enc : Nat) (r : EReq) (parts : List (Place × Nat)) : State :=
  let a := s.elemAgent q r.lane
  (s.noteAccess a r.addr (parts.map Prod.snd)).beginWait a (r.pend q enc parts)

/-- Every element access of an index looked at. -/
def State.lookAll (s : State) (q : QEntry) : List EReq → State × List (EReq × Look)
  | [] => (s, [])
  | r :: rs =>
    let p := s.lookElem q r
    let t := State.lookAll p.1 q rs
    (t.1, (r, p.2) :: t.2)

/-- What stops an index, as its accesses stand in order: one that waits (none), or one that fails. A far access that has still to be
asked for stops nothing, and a failure behind it is met once its reply has come (04 R141). -/
def firstStop : List (EReq × Look) → Option (Option (Nat × Word))
  | [] => none
  | (_, .bad c at_) :: _ => some (some (c, at_))
  | (_, .far _) :: _ => none
  | (_, .out) :: _ | (_, .hold) :: _ => some none
  | _ :: r => firstStop r

/-- The far accesses of an index asked for. The loads go out together; the atomics one after another, each when those before it
have returned, so that none performs behind one that fails (04 R145); nothing behind a failure is asked for. The flag says that a
reply is awaited. -/
def State.askFar (s : State) (q : QEntry) (enc : Nat) : List (EReq × Look) → State × Bool
  | [] => (s, false)
  | (r, .far parts) :: rs =>
    let s1 := s.askElem q enc r parts
    if r.acc.isAmo then (s1, true) else ((State.askFar s1 q enc rs).1, true)
  | (_, .bad ..) :: _ => (s, false)
  | _ :: rs => State.askFar s q enc rs

/-- An element access performed: the bytes it read. -/
def State.doElem (s : State) (q : QEntry) (r : EReq) (l : Look) : State × List Byte :=
  let a := s.elemAgent q r.lane
  match l, r.acc with
  | .got bs, _ => (s, bs)
  | .near parts, .store v => (s.writeParts a true parts v, [])
  | .near ((p, _) :: _), .amo op x => (fun (t : State × Except Nat (List Byte)) => (t.1, t.2.toOption.getD [])) (s.atomicAt a p (.amo r.len op x))
  | _, _ => (s, [])

/-- All of them performed in order: registers ascending, the plane access last (DESIGN CHOICE, log 70). -/
def State.doAll (s : State) (q : QEntry) : List (EReq × Look) → State × List (List Byte)
  | [] => (s, [])
  | (r, l) :: rs =>
    let p := s.doElem q r l
    let t := State.doAll p.1 q rs
    (t.1, p.2 :: t.2)

/-- The accesses of index `i`, in register order with the plane access last (log 70): all are looked at, what is far is asked for,
and they perform when every reply has come. Of those that fail the first decides (08 R243). -/
def State.accessAll (s : State) (q : QEntry) (i : Nat) (rs : List EReq) (go : State → List (List Byte) → State) : IdxRes :=
  let p := s.lookAll q rs
  match firstStop p.2 with
  | some (some e) => .bad (p.1.onMe fun x => x.dropElems q.id) ⟨i, e.1, e.2, Words.enc s.ir⟩
  | some none => .wait (p.1.askFar q s.bodyEnc p.2).1
  | none =>
    let f := p.1.askFar q s.bodyEnc p.2
    if f.2 then .wait f.1
    else
      let d := f.1.doAll q p.2
      .done (go (d.1.onMe fun x => x.clearElems q.id) d.2)

/-! ### Addresses (08 R244) -/

/-- The address of element (j, i) of a memory instruction. -/
def memAddr (q : QEntry) (v : Vec) (strided indexed : Bool) (b j i : Nat) : Word :=
  let w := vtSew q.vt / 8
  if indexed then q.x + BitVec.ofInt 64 (sintOf (vtSew q.vt) (v.elem (vtSew q.vt) (b + j) i))
  else if strided then q.x + word (j * q.vl + i) * q.y
  else q.x + word ((j * q.vl + i) * w)

/-- The low `n` bytes of a number. -/
def bytesOfNat (n x : Nat) : List Byte := natLe x n

/-- The lowest active element of word `u` at or above the first element; none when the word has none (08 R245). -/
def lowestActive (q : QEntry) (v : Vec) (m p u : Nat) : Option Nat :=
  ((List.range p).map fun k => p * u + k).find? fun i => decide (q.first ≤ i ∧ i < q.vl) && v.active m i

/-- The logical lane of index `i` of an entry (06 R187). -/
def QEntry.laneOf (q : QEntry) (x : Strand) (i : Nat) : Option Nat := some (x.laneOf (vtSew q.vt) i)

/-- The plane access of index `i`, when it is the lowest active element of its word in a scaled transfer. -/
def planeReq (q : QEntry) (x : Strand) (m d i : Nat) (store : Bool) : List EReq :=
  let p := 64 / vtSew q.vt
  let u := i / p
  let sb := if vtKind q.vt = 4 ∨ vtKind q.vt = 5 then 1 else 2
  if lowestActive q x.vec m p u = some i then
    [{ id := 8 * q.vl + i, addr := q.y + word (sb * u), len := sb, lane := q.laneOf x i
       acc := if store then .store ((List.range sb).map fun k => BitVec.ofNat 8 (x.vec.scale d u k)) else .load }]
  else []

/-- Scale bytes of word `u` loaded (08 R245). -/
def loadScales (v : Vec) (d u : Nat) (bs : List Byte) : Vec :=
  match bs with
  | [x] => (v.setScale d u 0 x.toNat).setScale d u 1 0
  | x :: y :: _ => (v.setScale d u 0 x.toNat).setScale d u 1 y.toNat
  | [] => v

/-- Elements of register group `d` at index `i` from bytes, one list for each register. -/
def landElems (v : Vec) (sew d i : Nat) : List (List Byte) → Vec
  | [] => v
  | bs :: r => landElems (v.setElem sew d i (leNat bs)) sew (d + 1) i r

/-- A masked-off index: zero when VT.MPOL = 1 (08 R241). -/
def maskedOff (q : QEntry) (v : Vec) (d g i : Nat) : Vec :=
  if vtMpol q.vt then (List.range g).foldl (fun v j => v.setElem (vtSew q.vt) (d + j) i 0) v else v

/-- A form with a stride operand. -/
def loadStrided (f : VLoadOp) : Bool := decide (f = .vlds)
/-- A form with an index register. -/
def loadIndexed (f : VLoadOp) : Bool := decide (f = .vldx ∨ f = .vldxO)
/-- A form with a stride operand. -/
def storeStrided (f : VStoreOp) : Bool := decide (f = .vsts)
/-- A form with an index register. -/
def storeIndexed (f : VStoreOp) : Bool := decide (f = .vstx ∨ f = .vstxO)

/-- The element accesses of index `i` of a vector load (08 R244, R245). -/
def QEntry.loadReqs (q : QEntry) (x : Strand) (f : VLoadOp) (d b m i : Nat) : List EReq :=
  let g := vtGroup q.vt
  ((List.range g).map fun j =>
    { id := g * i + j, addr := memAddr q x.vec (loadStrided f) (loadIndexed f) b j i, len := vtSew q.vt / 8, acc := .load
      lane := q.laneOf x i }) ++ if f = .vld ∧ b ≠ 0 then planeReq q x m d i false else []

/-- The element accesses of index `i` of a vector store; index VL of VST.N is its progress write (08 R244, R245, R247). -/
def QEntry.storeReqs (q : QEntry) (x : Strand) (f : VStoreOp) (d b m i : Nat) : List EReq :=
  let g := vtGroup q.vt
  let sew := vtSew q.vt
  if f = .vstN ∧ i = q.vl then
    [{ id := g * i, addr := q.y, len := 8, acc := .store (natLe (q.x + word (g * q.vl * (sew / 8))).toNat 8), lane := none }]
  else
    ((List.range g).map fun j =>
      { id := g * i + j, addr := memAddr q x.vec (storeStrided f) (storeIndexed f) b j i, len := sew / 8
        acc := .store (natLe (x.vec.elem sew (d + j) i) (sew / 8)), lane := q.laneOf x i }) ++
      if f = .vst ∧ b ≠ 0 then planeReq q x m d i true else []

/-- The element accesses of index `i` of a VAMO (08 R248). -/
def QEntry.amoReqs (q : QEntry) (x : Strand) (op : VAmoOp) (d b i : Nat) : List EReq :=
  let g := vtGroup q.vt
  let sew := vtSew q.vt
  (List.range g).map fun j =>
    { id := g * i + j, addr := memAddr q x.vec false true b j i, len := sew / 8
      acc := .amo op (word (x.vec.elem sew (d + j) i)), lane := q.laneOf x i }

/-- Index `i` of a vector load (08 R244 to R246). Of an element and a plane access that both fault, the element's fault is taken
(DESIGN CHOICE, log 70). -/
def State.loadIdx (s : State) (q : QEntry) (f : VLoadOp) (d b m : Nat) (i : Nat) : IdxRes :=
  let v := s.me.vec
  let g := vtGroup q.vt
  let sew := vtSew q.vt
  if !v.active m i then .done (s.onVec fun v => maskedOff q v d g i)
  else
    let r := s.accessAll q i (q.loadReqs s.me f d b m i) fun s bs =>
      s.onVec fun v =>
        let v1 := landElems v sew d i (bs.take g)
        match bs.drop g with
        | [] => v1
        | p :: _ => loadScales v1 d (i / (64 / sew)) p
    match r with
    | .bad s1 e =>
      let lower := (List.range i).any fun k => decide (q.first ≤ k) && v.active m k
      if f = .vldff ∧ m ≠ 0 ∧ lower then
        .stop (s1.onVec fun v =>
          (List.range (q.vl - i)).foldl (fun v k => (maskedOff q v d g (i + k)).setMask m (i + k) false) v)
      else .bad s1 e
    | r => r

/-- Index `i` of a vector store; index VL of VST.N is its progress write, which waits until the instruction's elements have
performed at its scope (08 R244, R245, R247). -/
def State.storeIdx (s : State) (q : QEntry) (f : VStoreOp) (d b m : Nat) (sc : Scope) (i : Nat) : IdxRes :=
  if f = .vstN ∧ i = q.vl then
    (if q.y.toNat % 8 ≠ 0 then .bad s ⟨i, 0x0A, q.y, Words.enc s.ir⟩
     else if decide (sc = .sy) && s.me.entryOut q.id then .wait s
     else s.accessAll q i (q.storeReqs s.me f d b m i) fun s _ => s)
  else if !s.me.vec.active m i then .done s
  else s.accessAll q i (q.storeReqs s.me f d b m i) fun s _ => s

/-- The old values that the atomics of index `i` have already brought, in the registers of the group (04 R145). -/
def State.landGot (s : State) (q : QEntry) (d i : Nat) (rs : List EReq) : State :=
  s.onVec fun v => rs.zipIdx.foldl (fun (v : Vec) (r : EReq × Nat) =>
    match s.me.elemPend q.id r.1.id with
    | some p => if p.parts.isEmpty && p.fail.isNone then v.setElem (vtSew q.vt) (d + r.2) i (leNat p.got) else v
    | none => v) v

/-- Index `i` of a VAMO (08 R248). Where another node or the host refuses the atomic of a later register of the group, those of the
lower registers have performed: their old values are written, and they do not perform again (04 R136, DESIGN CHOICE, log 70). -/
def State.amoIdx (s : State) (q : QEntry) (op : VAmoOp) (d b m : Nat) (i : Nat) : IdxRes :=
  let v := s.me.vec
  let g := vtGroup q.vt
  let sew := vtSew q.vt
  if !v.active m i then .done (s.onVec fun v => maskedOff q v d g i)
  else
    let rs := q.amoReqs s.me op d b i
    match s.accessAll q i rs fun s bs => s.onVec fun v => landElems v sew d i bs with
    | .bad s1 e => .bad (s1.landGot q d i rs) e
    | r => r

/-- The element access of doubleword `k` of a CBLOAD (09 R284). -/
def QEntry.tableReq (q : QEntry) (x : Strand) (k : Nat) : EReq :=
  { id := k, addr := q.x + word (8 * k), len := 8, acc := .load, lane := some (x.laneOf 64 k) }

/-- Doubleword `k` of a CBLOAD and those above it: the bytes gathered so far stand in `acc` (09 R284). -/
def State.cbloadRead (s : State) (q : QEntry) : Nat → Nat → List Byte → IdxRes × List Byte
  | 0, _, acc => (.done s, acc)
  | n + 1, k, acc =>
    let r := q.tableReq s.me k
    match s.lookElem q r with
    | (s1, .bad c at_) => (.bad (s1.onMe fun x => x.dropElems q.id) ⟨k, c, at_, Words.enc s.ir⟩, acc)
    | (s1, .far parts) => (.wait (s1.askElem q s.bodyEnc r parts), acc)
    | (s1, .got bs) => State.cbloadRead s1 q n (k + 1) (acc ++ bs)
    | (s1, _) => (.wait s1, acc)

/-- The loaded table replaced by 512 bytes (07 R222). -/
def Cluster.loadTable (c : Cluster) (bs : List Byte) : Cluster :=
  { c with
    codebook := (List.range 256).foldl (fun m e =>
      NMap.set 0 m e (BitVec.ofNat 16 (leNat ((bs.drop (2 * e)).take 2)) ^^^ BitVec.ofNat 16 (defaultCodebook e))) [] }

/-- The entry decodes codewords (09 R282, 10 R301). -/
def QEntry.usesTable (q : QEntry) : Bool :=
  match q.op with
  | .cbdec .. => true
  | .top op .. => !decide (op = .topr) && decide (vtKind q.vt = 7)
  | _ => false

/-- The steps of every strand of the cluster that have started keep the table that is about to be replaced (09 R284). -/
def State.keepTable (s : State) (cn : Nat) : State :=
  let old := (s.cluster cn).codebook
  let keep := fun (q : QEntry) =>
    if q.usesTable && decide (q.next < q.started) then { q with oldTables := q.oldTables ++ [(q.started, old)] } else q
  (s.clusterTids cn).foldl (fun (s : State) t => s.onStrand t fun x =>
    if x.queue.any fun q => q.usesTable && decide (q.next < q.started) then { x with queue := x.queue.map keep } else x) s

/-- The steps of an entry from index `n` on are given up: when they start again they decode with the table that is loaded then
(09 R284). -/
def QEntry.giveUp (q : QEntry) (n : Nat) : QEntry :=
  { q with started := n, oldTables := q.oldTables.map fun (p : Nat × NMap (BitVec 16)) => (min p.1 n, p.2), left := none }

/-- A load among these element accesses of an entry is held by DRAM (14 R421). -/
def State.dramWaits (s : State) (q : QEntry) (rs : List EReq) : Bool :=
  rs.any fun r =>
    let a := s.elemAgent q r.lane
    decide (r.acc = .load) && match s.resolve a .vload r.addr r.len with
      | .ok parts => parts.any fun p => ((s.cluster a.tid.cluster).l1Find p.1.key).isNone && s.readHeld a p.1
      | .error _ => false

/-- CBLOAD: the table is replaced when all 512 bytes have been read (09 R284). Its ownership was checked at issue: one that completes after
firmware has given the table to another tenant replaces that tenant's table (DESIGN CHOICE, log 91). -/
def State.cbloadAll (s : State) (q : QEntry) : IdxRes :=
  match s.cbloadRead q 64 0 [] with
  | (.done s1, bs) =>
    .done ((((s1.onMe fun x => x.clearElems q.id).keepTable s1.tid.cluster).onCluster s1.tid.cluster fun c => c.loadTable bs))
  | (r, _) => r

/-! ### Tile rows (10 R315) -/

/-- The cell accesses of row step `u` of TLDROW or TSTROW: row `x + u` of tile `d`, whose cells lie in the lanes that `lane`
gives (10 R315). -/
def QEntry.rowReqs (q : QEntry) (v : Vec) (store : Bool) (d x u ec : Nat) (lane : Nat → Nat) : List EReq :=
  let w := vtSew q.vt / 8
  (List.range ec).map fun j =>
    { id := 64 * u + j, addr := q.x + word u * q.y + word (j * w), len := w, lane := some (lane j)
      acc := if store then .store (natLe (v.cell d (x + u) j).toNat w) else .load }

/-- Row step `u` of TLDROW. -/
def State.tldrowStep (s : State) (q : QEntry) (d x u ec : Nat) (lane : Nat → Nat) : IdxRes :=
  s.accessAll q u (q.rowReqs s.me.vec false d x u ec lane) fun s bs => s.onVec fun v =>
    (bs.zipIdx.foldl (fun (v : Vec) (p : List Byte × Nat) => v.setCell d (x + u) p.2 (word (leNat p.1))) v).setWeight d
      (2 ^ 64 - 1)

/-- Row step `u` of TSTROW. -/
def State.tstrowStep (s : State) (q : QEntry) (d x u ec : Nat) (lane : Nat → Nat) : IdxRes :=
  s.accessAll q u (q.rowReqs s.me.vec true d x u ec lane) fun s _ => s

end Sys2Proof.Machine
end

