-- ==== Sys2Proof/Machine/VecExec.lean ====
section
/-! DEFINITION. What a queue entry does at one element (08 R250 to R260, 09 R270 to R287), what the instructions that commit
whole do (08 R258, R260, 09 R265 to R273), and the tail (08 R241). The state has the encoding of the entry in `ir`. -/

namespace Sys2Proof.Machine

open Sys2Proof

/-- The number of elements that a register holds at width `sew`. -/
def Strand.capacity (x : Strand) (sew : Nat) : Nat := vlmaxAt x.ctl.lg.toNat x.ctl.shape sew

/-- The rounding mode of an entry (01 R22). -/
def QEntry.mode (q : QEntry) : RMode := RMode.ofFrm q.frm
/-- RNSCFG.EN of an entry. -/
def QEntry.en (q : QEntry) : Nat := q.rns.toNat % 256
/-- RNSCFG.RCTRAP of an entry. -/
def QEntry.rctrap (q : QEntry) : Bool := q.rns.getLsbD 8
/-- RNSCFG.OVTRAP of an entry. -/
def QEntry.ovtrap (q : QEntry) : Bool := q.rns.getLsbD 9
/-- The element width of an entry. -/
def QEntry.sew (q : QEntry) : Nat := vtSew q.vt
/-- The kind of an entry. -/
def QEntry.kind (q : QEntry) : Nat := vtKind q.vt
/-- The group of an entry. -/
def QEntry.group (q : QEntry) : Nat := vtGroup q.vt

/-- An element result written, its flags raised. -/
def State.putElem (s : State) (sew n i : Nat) (e : Elem) : State :=
  let s1 := s.onVec fun v => v.setElem sew n i e.bits
  if e.ff = 0 ∧ e.fi = 0 then s1 else (s1.raiseF e.ff).raiseI e.fi

/-! ### Operands -/

/-- The immediates that are signed (02 R64). -/
def signedImm : ArithOp → Bool
  | .add | .sub | .min | .max | .and | .or | .xor => true
  | _ => false

/-- An immediate as the b operand (08 R242). -/
def immOperand (kind sew en : Nat) (signed : Bool) (b : Nat) : Nat :=
  if signed then
    (let z := sintOf 5 b
     if kindRn kind then residue en z else wrapInt sew z)
  else b

/-- The b operand of an arithmetic or compare instruction at (j, i) (08 R242). -/
def operandB (q : QEntry) (v : Vec) (form : OpForm) (signed : Bool) (b j i : Nat) : Nat :=
  match form with
  | .vv => v.elem q.sew (b + j) i
  | .vx => q.x.toNat % 2 ^ q.sew
  | .vi => immOperand q.kind q.sew q.en signed b

/-- A corrupting injection of UNIT 0x06 changes the lowest active element that its lane holds in the next residue
instruction (12 R364). -/
def State.corruptElem (s : State) (lane x en : Nat) : State × Nat :=
  match s.armed 6 lane true with
  | some d => if en.testBit (fld d 41 3) then (s.fire, corruptChannel x (fld d 41 3)) else (s, x)
  | none => (s, x)

/-! ### Element-wise instructions -/

/-- Element (j, i) of an arithmetic instruction (08 R250, R254, R255). -/
def State.arithAt (s : State) (q : QEntry) (op : ArithOp) (form : OpForm) (d a b j i : Nat) : State :=
  let v := s.me.vec
  let y := operandB q v form (signedImm op) b j i
  match op with
  | .nshr =>
    s.putElem q.sew (d + j) i (narrowShift q.kind q.sew (v.elem (2 * q.sew) (a + 2 * j + i % 2) (i / 2)) y)
  | .wadd | .wmul =>
    s.putElem (2 * q.sew) (d + 2 * j + i % 2) (i / 2)
      (arithElem op q.kind q.sew q.mode q.en (v.elem q.sew (a + j) i) y 0)
  | _ =>
    let e := arithElem op q.kind q.sew q.mode q.en (v.elem q.sew (a + j) i) y (v.elem q.sew (d + j) i)
    if kindRn q.kind then
      (let c := s.corruptElem (s.me.laneOf 64 i) e.bits q.en
       c.1.putElem q.sew (d + j) i { e with bits := c.2 })
    else s.putElem q.sew (d + j) i e

/-- `f` for every register of the group, in order. -/
def State.eachReg (s : State) (g : Nat) (f : State → Nat → State) : State := (List.range g).foldl f s

/-- The destination of widening by `r`: register and position of value `i` of register `j` (09 R275). -/
def widePlace (d r j i : Nat) : Nat × Nat := (d + r * j + i % r, i / r)

/-- A masked-off element whose destination is widened by `r`. -/
def State.maskedWide (s : State) (q : QEntry) (d r sew i : Nat) : State :=
  if vtMpol q.vt then
    s.eachReg q.group fun s j => s.onVec fun v => v.setElem sew (widePlace d r j i).1 (widePlace d r j i).2 0
  else s

/-- A mask destination at a masked-off bit. -/
def State.maskedBit (s : State) (q : QEntry) (d i : Nat) : State :=
  if vtMpol q.vt then s.onVec fun v => v.setMask d i false else s

/-- Entry `e` of the table that index `i` of an entry decodes with: a step that started before a CBLOAD replaced the table reads the
old one (09 R283, R284). -/
def State.tableEntry (s : State) (q : QEntry) (i e : Nat) : Nat :=
  s.codebookIn (((q.oldTables.find? fun (o : Nat × NMap (BitVec 16)) => decide (i < o.1)).map Prod.snd).getD
    (s.cluster s.tid.cluster).codebook) e

/-- VCBDEC of codeword `i` (09 R282). -/
def State.cbdecAt (s : State) (q : QEntry) (d a i : Nat) : State :=
  let v := s.me.vec
  let w := v.elem 16 a i
  let pat := s.tableEntry q i (w / 256)
  let sc := if vtScaled q.vt then v.scale a (i / 4) (i % 4 / 2) else 127
  (List.range 8).foldl (fun (s : State) j =>
    if sc = 255 then s.putElem 16 (d + j) i ⟨FF.bf16.canon, flagNV, 0⟩
    else s.putElem 16 (d + j) i (FF.bf16.ofVal q.mode (scaleVal sc (cb8Val pat w j))).elem) s

/-- VRNSF of element `i` of every register (09 R285): a trap before anything of the element is written. -/
def State.rnsfAt (s : State) (q : QEntry) (d a i : Nat) : IdxRes :=
  let lim : Nat := 105252413875823
  let xs := (List.range q.group).map fun j => intElem q.kind q.sew (s.me.vec.elem q.sew (a + j) i)
  let beyond := xs.any fun x => decide (lim < x.natAbs)
  if beyond && q.ovtrap then .bad s ⟨i, 0x11, laneTval (s.me.laneOf q.sew i) i, Words.enc s.ir⟩
  else
    let r := 64 / q.sew
    .done (xs.zipIdx.foldl (fun (s : State) (p : Int × Nat) =>
      let c := s.corruptElem (s.me.laneOf q.sew i) (residue q.en p.1) q.en
      c.1.putElem 64 (widePlace d r p.2 i).1 (widePlace d r p.2 i).2
        ⟨c.2, 0, if lim < p.1.natAbs then iflagOV else 0⟩) s)

/-- The results of VRNSR on element `i`, register by register, before anything is written: the decisions. -/
def State.rnsrLook (s : State) (q : QEntry) (a i : Nat) : State × List (Decision × Bool × Bool) :=
  (List.range q.group).foldl (fun (p : State × List (Decision × Bool × Bool)) j =>
    let r := p.1.decideAt 6 (s.me.laneOf 64 i) (s.me.vec.elem 64 (a + j) i) q.en
    (r.1, p.2 ++ [(r.2.1, r.2.2.1, r.2.2.2)])) (s, [])

/-- VRNSR of element `i` of every register (09 R286, 10 R306). Where one register's element is located and another's overflows, the
residue mismatch is taken (DESIGN CHOICE, log 74). -/
def State.rnsrAt (s : State) (q : QEntry) (d a i : Nat) : IdxRes :=
  let lane := s.me.laneOf 64 i
  let p := s.rnsrLook q a i
  let mismatch := p.2.findSome? fun r => match r.1 with | .located j _ => some j | _ => none
  let beyond := p.2.any fun r => decide (r.1 = .unresolved)
  match mismatch, q.rctrap with
  | some j, true => .bad p.1 ⟨i, 0x10, laneTval lane i, word j⟩
  | _, _ =>
    if beyond && q.ovtrap then .bad p.1 ⟨i, 0x11, laneTval lane i, Words.enc s.ir⟩
    else
      .done (p.2.zipIdx.foldl (fun (s : State) (r : (Decision × Bool × Bool) × Nat) =>
        match r.1.1 with
        | .exact x => s.putElem 64 (d + r.2) i (plain (wrapInt 64 x))
        | .located j x =>
          (s.reportLocated 6 lane j (laneTval lane i) r.1.2.1).putElem 64 (d + r.2) i ⟨wrapInt 64 x, 0, iflagRC⟩
        | .unresolved =>
          let s1 := if r.1.2.2 then s.reportUnresolved 6 lane (laneTval lane i) true else s
          s1.putElem 64 (d + r.2) i ⟨2 ^ 63, 0, if r.1.2.2 then iflagOV ||| iflagRC else iflagOV⟩) p.1)

/-! ### Conversion (09 R275 to R277) -/

/-- Where value `x` of register `j` stands on the source and the target side: register and position. -/
def cvtPlace (ps pt d a j x : Nat) : (Nat × Nat) × (Nat × Nat) :=
  if ps = pt then ((a + j, x), (d + j, x))
  else if pt < ps then ((a + j, x), (d + ps / pt * j + x % (ps / pt), x / (ps / pt)))
  else ((a + pt / ps * j + x % (pt / ps), x / (pt / ps)), (d + j, x))

/-- How value `x` rounds. -/
def QEntry.rounding (q : QEntry) (sr : Bool) (x : Nat) : Rounding :=
  if sr then .stochastic (mix q.seed (q.sbase + word x)) else .mode q.mode

/-- A source value as a floating value, with whether its scale is a NaN; an integer is exact. -/
def srcValue (q : QEntry) (v : Vec) (n i : Nat) : FVal × Bool :=
  if kindI q.kind then
    (let z := intElem q.kind q.sew (v.elem q.sew n i)
     (.fin (decide (z < 0)) z.natAbs 0, false))
  else v.fvalue (vtScaled q.vt) q.kind q.sew n i

/-- A source value converted. -/
def cvtValue (q : QEntry) (sr : Bool) (tk tsew x : Nat) (v : Vec) (n i : Nat) : Elem :=
  if kindI q.kind then convertInt (q.rounding sr x) tk tsew (intElem q.kind q.sew (v.elem q.sew n i))
  else
    let p := v.fvalue (vtScaled q.vt) q.kind q.sew n i
    convertFloat (q.rounding sr x) tk tsew p.1 p.2

/-- A value written at a target position, its flags raised. -/
def State.putVal (s : State) (kind sew n i : Nat) (e : Elem) : State :=
  let s1 := s.onVec fun v => v.setVal kind sew n i e.bits
  if e.ff = 0 then s1 else s1.raiseF e.ff

/-- The element that governs value `x`. -/
def QEntry.governs (q : QEntry) (x : Nat) : Nat := if q.kind = 6 then x / 2 else x

/-- The values that element `i` holds (09 R275). -/
def QEntry.valuesOf (q : QEntry) (i : Nat) : List Nat := if q.kind = 6 then [2 * i, 2 * i + 1] else [i]

/-- Element `i` of a conversion whose target has no scale bytes. -/
def State.cvtAt (s : State) (q : QEntry) (sr : Bool) (d a tk tsew m i : Nat) : State :=
  let ps := valuesPerWord q.kind q.sew
  let pt := valuesPerWord tk tsew
  let act := s.me.vec.active m i
  if !act && !vtMpol q.vt then s
  else
    s.eachReg q.group fun s j =>
      (q.valuesOf i).foldl (fun (s : State) x =>
        match cvtPlace ps pt d a j x with
        | (src, dst) =>
          s.putVal tk tsew dst.1 dst.2 (if act then cvtValue q sr tk tsew x s.me.vec src.1 src.2 else plain 0)) s

/-- The values of block `b` of target register `h` of a scaled conversion, in order (09 R276). -/
def blockValues (r b h : Nat) : List Nat := (List.range 8).map fun p => if r = 1 then 8 * b + p else r * (8 * b + p) + h

/-- One target block of a scaled conversion (09 R276). -/
def State.cvtBlock (s : State) (q : QEntry) (sr : Bool) (d a tk m b h r : Nat) : State :=
  let ps := valuesPerWord q.kind q.sew
  let pt := valuesPerWord tk 8
  let v := s.me.vec
  let live := (blockValues r b h).filter fun x => decide (q.first ≤ q.governs x ∧ q.governs x < q.vl)
  let act := live.filter fun x => v.active m (q.governs x)
  let off := live.filter fun x => !v.active m (q.governs x)
  let srcs := act.map fun x =>
    match cvtPlace ps pt d a 0 x with
    | (src, dst) => (x, dst, srcValue q v src.1 src.2)
  let vals := srcs.map fun e => e.2.2.1
  let e := blockScale tk vals
  let sig := srcs.any fun e => e.2.2.1.isSig || e.2.2.2
  let s1 :=
    if e = 255 then
      (let s2 := srcs.foldl (fun (s : State) e => s.putVal tk 8 e.2.1.1 e.2.1.2 (plain 0)) s
       if sig then s2.raiseF flagNV else s2)
    else
      srcs.foldl (fun (s : State) (c : Nat × (Nat × Nat) × FVal × Bool) =>
        s.putVal tk 8 c.2.1.1 c.2.1.2
          (convertFloat (q.rounding sr c.1) tk 8 (c.2.2.1.scale (127 - (e : Int))) false)) s
  let s2 :=
    if vtMpol q.vt then
      off.foldl (fun (s : State) x =>
        match cvtPlace ps pt d a 0 x with
        | (_, dst) => s.putVal tk 8 dst.1 dst.2 (plain 0)) s1
    else s1
  let n := d + h
  let u := 8 * b / pt
  let k := if tk = 6 then b % 2 else 0
  if act.isEmpty then
    (if vtMpol q.vt && !live.isEmpty then
      s2.onVec fun v => if tk = 6 then v.setScale n u k 0 else (v.setScale n u 0 0).setScale n u 1 0
     else if tk ≠ 6 && !live.isEmpty then s2.onVec fun v => v.setScale n u 1 0
     else s2)
  else
    s2.onVec fun v =>
      let v1 := v.setScale n u k e
      if tk = 6 then v1 else v1.setScale n u 1 0

/-- Element `i` of a conversion with scale bytes: a block is done at its first element. -/
def State.cvtScaledAt (s : State) (q : QEntry) (sr : Bool) (d a tk m i : Nat) : State :=
  let ps := valuesPerWord q.kind q.sew
  let pt := valuesPerWord tk 8
  let r := if pt < ps then ps / pt else 1
  let per := if q.kind = 6 ∧ r = 1 then 4 else 8
  let b := i / per
  if i = max (per * b) q.first then (List.range r).foldl (fun (s : State) h => s.cvtBlock q sr d a tk m b h r) s else s

/-! ### Block mode (09 R266) -/

/-- A word with its scale bytes (09 R266). -/
structure Block where
  /-- The word. -/
  data : Word
  /-- Scale byte 0. -/
  s0 : Nat
  /-- Scale byte 1. -/
  s1 : Nat
  deriving DecidableEq, Repr

/-- A zero word. -/
def Block.zero : Block := ⟨0, 0, 0⟩

/-- Word `u` of register `n` with its scale bytes. -/
def Vec.block (v : Vec) (n u : Nat) : Block := ⟨v.word n u, v.scale n u 0, v.scale n u 1⟩

/-- A word as block mode moves it: the scale byte that E4M3 and E5M2 do not use is written as zero (07 R219, 09 R266; DEDUCED, log 71). -/
def Vec.movedBlock (v : Vec) (kind n u : Nat) : Block :=
  if kind = 4 ∨ kind = 5 then { v.block n u with s1 := 0 } else v.block n u

/-- A word written with its scale bytes. -/
def Vec.setBlock (v : Vec) (n u : Nat) (b : Block) : Vec :=
  ((v.setWord n u b.data).setScale n u 0 b.s0).setScale n u 1 b.s1

/-- An element as a move writes it: one of kind RNS has zero in the bytes of its disabled channels (07 R225; DEDUCED, log 72). -/
def QEntry.moved (q : QEntry) (x : Nat) : Nat := if kindRn q.kind then rnsBytes q.en (channel x) else x

/-! ### One index of an element-wise instruction -/

/-- VSWAPPR at index `i` (09 R270), by words in block mode. -/
def State.swapprAt (s : State) (q : QEntry) (d a m i : Nat) : State :=
  if blockMode q.vt then
    (let p := 64 / q.sew
     let u := i / p
     if i % p ≠ 0 then s
     else if s.me.vec.active m i then
       s.onVec fun v => v.setBlock d u (v.movedBlock q.kind a (if (u ^^^ 1) < q.vl / p then u ^^^ 1 else u))
     else if vtMpol q.vt then s.onVec fun v => v.setBlock d u Block.zero
     else s)
  else if s.me.vec.active m i then
    s.eachReg q.group fun s j =>
      s.onVec fun v => v.setElem q.sew (d + j) i (q.moved (v.elem q.sew (a + j) (if (i ^^^ 1) < q.vl then i ^^^ 1 else i)))
  else s.onVec fun v => maskedOff q v d q.group i

/-- Element `i` written from `f` when it is active, else by VT.MPOL. -/
def State.writeIdx (s : State) (q : QEntry) (d m i : Nat) (f : State → Nat → State) : State :=
  if s.me.vec.active m i then s.eachReg q.group f else s.onVec fun v => maskedOff q v d q.group i

/-- Index `i` of an entry that works element by element. VRNSCHK of a group of registers checks the first (DESIGN CHOICE, log 74). -/
def State.elemIdx (s : State) (q : QEntry) (i : Nat) : IdxRes :=
  let act := fun (m : MReg) => s.me.vec.active m.toNat i
  match q.op with
  | .load f d _ b m _ _ => s.loadIdx q f d.toNat b.toNat m.toNat i
  | .store f d _ b m sc _ => s.storeIdx q f d.toNat b.toNat m.toNat sc i
  | .amo op d _ b m _ _ => s.amoIdx q op d.toNat b.toNat m.toNat i
  | .arith op form d a b m =>
    .done (if act m then s.eachReg q.group fun s j => s.arithAt q op form d.toNat a.toNat b.toNat j i
      else match op with
        | .wadd | .wmul => s.maskedWide q d.toNat 2 (2 * q.sew) i
        | _ => s.onVec fun v => maskedOff q v d.toNat q.group i)
  | .cmp p form d a b m =>
    .done (if act m then
        (let v := s.me.vec
         let y := operandB q v form true b.toNat 0 i
         let r := cmpElem p q.kind q.sew q.en (v.elem q.sew a.toNat i) y
         (s.onVec fun v => v.setMask d.toNat i r.1).raiseF r.2)
      else s.maskedBit q d.toNat i)
  | .sel d a b m =>
    .done (s.eachReg q.group fun s j => s.onVec fun v =>
      v.setElem q.sew (d.toNat + j) i (q.moved (v.elem q.sew ((if v.mask m.toNat i then a else b).toNat + j) i)))
  | .bcast d m => .done (s.writeIdx q d.toNat m.toNat i fun s j => s.putElem q.sew (d.toNat + j) i (plain (q.moved q.x.toNat)))
  | .idx d m => .done (s.writeIdx q d.toNat m.toNat i fun s j => s.putElem q.sew (d.toNat + j) i (plain i))
  | .perm _ d a _ m => .done (s.swapprAt q d.toNat a.toNat m.toNat i)
  | .cvt sr d a k w m =>
    .done (if vtScaled q.vt && kindSt (kindCode k) then s.cvtScaledAt q sr d.toNat a.toNat (kindCode k) m.toNat i
      else s.cvtAt q sr d.toNat a.toNat (kindCode k) (sewOf w) m.toNat i)
  | .spec op d a m =>
    .done (s.writeIdx q d.toNat m.toNat i fun s j =>
      s.putElem q.sew (d.toNat + j) i (specElem op (ffOf q.kind q.sew) q.mode (s.me.vec.elem q.sew (a.toNat + j) i)))
  | .clmul hi d a b m =>
    .done (s.writeIdx q d.toNat m.toNat i fun s j =>
      let v := s.me.vec
      let p := clmulNat q.sew (v.elem q.sew (a.toNat + j) i) (v.elem q.sew (b.toNat + j) i)
      s.putElem q.sew (d.toNat + j) i (plain (if hi then p / 2 ^ q.sew else p)))
  | .cbdec d a m =>
    .done (if act m then s.cbdecAt q d.toNat a.toNat i else s.onVec fun v => maskedOff q v d.toNat 8 i)
  | .rnsf d a m =>
    if act m then s.rnsfAt q d.toNat a.toNat i else .done (s.maskedWide q d.toNat (64 / q.sew) 64 i)
  | .rnsr d a m =>
    if act m then s.rnsrAt q d.toNat a.toNat i else .done (s.onVec fun v => maskedOff q v d.toNat q.group i)
  | .rnschk d a m =>
    .done (if act m then
        s.onVec fun v => v.setMask d.toNat i
          (match decideRns (v.elem 64 a.toNat i) q.en with | .exact _ => false | _ => true)
      else s.maskedBit q d.toNat i)
  | _ => .done s

/-! ### Instructions that commit whole -/

/-- Elements of register `a` at width `sew`, 0 to `n - 1`. -/
def Vec.elems (v : Vec) (sew a n : Nat) : List Nat := (List.range n).map fun i => v.elem sew a i

/-- What a permutation writes at each index of `n`: a new element, or none when it is not written by the permutation, with
the rule for positions not written by it (09 R267 to R271). -/
inductive Slotw (α : Type)
  /-- This value. -/
  | put (x : α)
  /-- As a masked-off element. -/
  | masked
  /-- Not written. -/
  | keep
  /-- As tail. -/
  | tail
  deriving DecidableEq, Repr

/-- The permutations on `n` items: `va` and `vb` give the items, `idx` the gather indices, `act` the mask. -/
def permute {α : Type} (op : PermOp) (n : Nat) (zero : α) (va vb : Nat → α) (idx : Nat → Nat) (k : Nat)
    (act : Nat → Bool) : List (Slotw α) :=
  let chosen := (List.range n).filter act
  (List.range n).map fun i =>
    match op with
    | .gather => if act i then .put (if idx i < n then va (idx i) else zero) else .masked
    | .slideup => if i < k then .keep else if act i then .put (va (i - k)) else .masked
    | .slidedn => if act i then .put (if i + k < n then va (i + k) else zero) else .masked
    | .compress => match chosen[i]? with | some x => .put (va x) | none => .tail
    | .expand => if act i then .put (va (((List.range i).filter act).length)) else .masked
    | .swappr => if act i then .put (va (if (i ^^^ 1) < n then i ^^^ 1 else i)) else .masked
    | .zip => if act i then .put (if i % 2 = 0 then va (i / 2) else vb (i / 2)) else .masked
    | .unzip => if act i then .put (if 2 * i < n then va (2 * i) else vb (2 * i - n)) else .masked

/-- What a position becomes. -/
def Slotw.get {α : Type} (q : QEntry) (zero old : α) : Slotw α → α
  | .put x => x
  | .masked => if vtMpol q.vt then zero else old
  | .keep => old
  | .tail => if vtTail q.vt then zero else old

/-- A cross-element permutation (09 R267 to R271, R266). -/
def Vec.permuted (v : Vec) (q : QEntry) (op : PermOp) (d a b m : Nat) : Vec :=
  if blockMode q.vt then
    (let p := 64 / q.sew
     let n := q.vl / p
     let ws := permute op n Block.zero (v.movedBlock q.kind a) (v.movedBlock q.kind b) (fun u => v.elem q.sew b u) q.x.toNat
       (fun u => v.active m (p * u))
     ws.zipIdx.foldl (fun (r : Vec) (w : Slotw Block × Nat) =>
       r.setBlock d w.2 (w.1.get q Block.zero (v.block d w.2))) v)
  else
    (List.range q.group).foldl (fun (r : Vec) j =>
      let ws := permute op q.vl 0 (fun i => q.moved (v.elem q.sew (a + j) i)) (fun i => q.moved (v.elem q.sew (b + j) i))
        (v.elem q.sew (b + j)) q.x.toNat (v.active m)
      ws.zipIdx.foldl (fun (r : Vec) (w : Slotw Nat × Nat) =>
        r.setElem q.sew (d + j) w.2 (w.1.get q 0 (v.elem q.sew (d + j) w.2))) r) v

/-- The combining step of a reduction (09 R273). -/
def redStep (q : QEntry) (op : RedOp) (x y : Elem) : Elem :=
  let fl := fun (e : Elem) => (⟨e.bits, x.ff ||| y.ff ||| e.ff, 0⟩ : Elem)
  match op with
  | .sumO | .sumT => fl (arithElem .add q.kind q.sew q.mode q.en x.bits y.bits 0)
  | .max => fl (arithElem .max q.kind q.sew q.mode q.en x.bits y.bits 0)
  | .min => fl (arithElem .min q.kind q.sew q.mode q.en x.bits y.bits 0)
  | .and => fl (plain (x.bits &&& y.bits))
  | .or => fl (plain (x.bits ||| y.bits))

/-- One level of the tree sum (07 R233). -/
def treeLevel (f : Elem → Elem → Elem) : List (Option Elem) → List (Option Elem)
  | some l :: some h :: r => some (f l h) :: treeLevel f r
  | some l :: none :: r => some l :: treeLevel f r
  | none :: h :: r => h :: treeLevel f r
  | [x] => [x]
  | [] => []

/-- The tree sum of its leaves, in at most `n` levels. -/
def treeSum (f : Elem → Elem → Elem) : Nat → List (Option Elem) → Option Elem
  | _, [] => none
  | _, [x] => x
  | 0, x :: _ => x
  | n + 1, l => treeSum f n (treeLevel f l)

/-- The result of a reduction with its flags (07 R232, R233, 09 R273). -/
def Vec.reduce (v : Vec) (q : QEntry) (op : RedOp) (a b m : Nat) : Elem :=
  let z := plain (q.moved (v.elem q.sew b 0))
  match op with
  | .sumT =>
    (match treeSum (redStep q op) q.vl
        ((List.range q.vl).map fun i => if v.active m i then some (plain (v.elem q.sew a i)) else none) with
     | none => z
     | some n => redStep q op z n)
  | _ =>
    ((List.range q.vl).filter fun i => v.active m i).foldl (fun acc i => redStep q op acc (plain (v.elem q.sew a i))) z

/-- A reduction of the minimum or maximum of one operand still reports a signalling operand (09 R273). -/
def reduceFlags (v : Vec) (q : QEntry) (op : RedOp) (a b m : Nat) : BitVec 5 :=
  if kindF q.kind && (decide (op = .max) || decide (op = .min)) then
    (let f := ffOf q.kind q.sew
     let sig := (f.value (v.elem q.sew b 0)).isSig
       || (List.range q.vl).any fun i => v.active m i && (f.value (v.elem q.sew a i)).isSig
     if sig then flagNV else 0)
  else 0

/-- Keys `lo ≤ k < hi` removed. -/
def dropKeys {α : Type} (m : NMap α) (lo hi : Nat) : NMap α := m.filter fun e => !(decide (lo ≤ e.1) && decide (e.1 < hi))

/-- Elements of register `n` from `i` up to the register's capacity set to zero (08 R241). -/
def Vec.zeroFrom (v : Vec) (sew n i cap : Nat) : Vec :=
  let p := 64 / sew
  let u := (i + p - 1) / p
  let v1 := (List.range (min (p * u) cap - i)).foldl (fun (v : Vec) k => v.setElem sew n (i + k) 0) v
  { v1 with regs := dropKeys v1.regs (65536 * n + u) (65536 * n + cap / p) }

/-- Mask bits from `i` up to `cap` cleared. -/
def Vec.clearMaskFrom (v : Vec) (n i cap : Nat) : Vec :=
  if n = 0 then v else { v with masks := dropKeys v.masks (2 ^ 20 * n + i) (2 ^ 20 * n + cap) }

/-- The tail of a group of `g` registers whose values are spread over `r` registers each (08 R241, R254, 09 R275): `n`
values in all, of width `sew`. -/
def Vec.tailWide (v : Vec) (sew d g r n cap : Nat) : Vec :=
  (List.range (g * r)).foldl (fun (v : Vec) k => v.zeroFrom sew (d + k) ((n + r - 1 - k % r) / r) cap) v

/-- The positions of a conversion's target past its values (09 R275, R276). -/
def Vec.tailCvt (v : Vec) (x : Strand) (q : QEntry) (d tk tsew : Nat) : Vec :=
  let ps := valuesPerWord q.kind q.sew
  let pt := valuesPerWord tk tsew
  let r := if pt < ps then ps / pt else 1
  let n := if q.kind = 6 then 2 * q.vl else q.vl
  let cap := x.capacity 64 * pt
  let v1 := (List.range (q.group * r)).foldl (fun (v : Vec) k =>
    let from_ := (n + r - 1 - k % r) / r
    if tk = 6 then
      (let v1 := if from_ % 2 = 1 then v.setVal 6 8 (d + k) from_ 0 else v
       v1.zeroFrom 8 (d + k) ((from_ + 1) / 2) (cap / 2))
    else v.zeroFrom tsew (d + k) from_ cap) v
  if vtScaled q.vt && kindSt tk then
    (List.range r).foldl (fun (v : Vec) h =>
      let from_ := ((n + r - 1 - h) / r + 7) / 8
      (List.range (cap / 8 - from_)).foldl (fun (v : Vec) k =>
        let b := from_ + k
        if tk = 6 then v.setScale (d + h) (b / 2) (b % 2) 0
        else (v.setScale (d + h) b 0 0).setScale (d + h) b 1 0) v) v1
  else v1

/-- Scale bytes of the words of a scaled load that hold no active element (08 R245). -/
def Vec.scalesOff (v : Vec) (x : Strand) (q : QEntry) (d m : Nat) : Vec :=
  let p := 64 / q.sew
  (List.range (x.capacity 64)).foldl (fun (v : Vec) u =>
    if (lowestActive q v m p u).isSome then v
    else if q.vl ≤ p * u then (if vtTail q.vt then (v.setScale d u 0 0).setScale d u 1 0 else v)
    else if p * u < q.first then v
    else if vtMpol q.vt && !v.active m (p * u) then (v.setScale d u 0 0).setScale d u 1 0
    else v) v

/-- The tail of block mode: words past VL/P with their scale bytes (09 R266). -/
def Vec.tailBlocks (v : Vec) (x : Strand) (q : QEntry) (d : Nat) : Vec :=
  let n := q.vl / (64 / q.sew)
  (List.range (x.capacity 64 - n)).foldl (fun (v : Vec) k => v.setBlock d (n + k) Block.zero) v

/-- What an entry writes when it completes: the tail (08 R241). -/
def Vec.finish (v : Vec) (x : Strand) (q : QEntry) : Vec :=
  let cap := x.capacity q.sew
  let g := q.group
  let scaledLoad := match q.op with
    | .load .vld d _ b m _ _ => if b = 0 then v else v.scalesOff x q d.toNat m.toNat
    | _ => v
  if !vtTail q.vt then scaledLoad
  else
    match q.op with
    | .load _ d .. | .amo _ d .. | .sel d .. | .bcast d .. | .idx d .. | .spec _ d .. | .clmul _ d .. | .rnsr d .. =>
      scaledLoad.tailWide q.sew d.toNat g 1 q.vl cap
    | .arith .wadd _ d .. | .arith .wmul _ d .. => v.tailWide (2 * q.sew) d.toNat g 2 q.vl (cap / 2)
    | .arith _ _ d .. => v.tailWide q.sew d.toNat g 1 q.vl cap
    | .perm _ d .. => if blockMode q.vt then v.tailBlocks x q d.toNat else v.tailWide q.sew d.toNat g 1 q.vl cap
    | .red _ d .. => v.zeroFrom q.sew d.toNat 1 cap
    | .cvt _ d _ k w _ => v.tailCvt x q d.toNat (kindCode k) (sewOf w)
    | .cbdec d .. => v.tailWide 16 d.toNat 8 1 q.vl cap
    | .rnsf d .. => v.tailWide 64 d.toNat g (64 / q.sew) q.vl (x.capacity 64)
    | .cmp _ _ d .. | .rnschk d .. => v.clearMaskFrom d.toNat q.vl cap
    | .mlog _ d .. | .mset d => v.clearMaskFrom d.toNat q.vl cap
    | _ => v

/-- Mask logic (08 R258). -/
def Vec.maskLogic (v : Vec) (op : MaskOp) (d a b n : Nat) : Vec :=
  (List.range n).foldl (fun (v : Vec) i =>
    v.setMask d i (match op with
      | .and => v.mask a i && v.mask b i
      | .or => v.mask a i || v.mask b i
      | .xor => v.mask a i ^^ v.mask b i
      | .not => !v.mask a i)) v

/-- The whole of an instruction that commits whole, its tail and its scalar result included (08 R258, R260, 09 R265). -/
def State.wholeOp (s : State) (q : QEntry) : State :=
  let x := s.me
  let v := x.vec
  let skip := decide (q.vl ≤ q.first)
  let fin := fun (w : Vec) => s.onVec fun _ => w.finish x q
  match q.op with
  | .mlog op d a b => if skip then s else fin (v.maskLogic op d.toNat a.toNat b.toNat q.vl)
  | .mset d =>
    if skip then s
    else fin ((List.range q.vl).foldl (fun (v : Vec) i => v.setMask d.toNat i (decide (i < q.x.toNat))) v)
  | .mpop d a =>
    s.setReg d (if skip then 0 else word (((List.range q.vl).filter fun i => v.mask a.toNat i).length))
  | .mfirst d a =>
    s.setReg d (match (if skip then none else (List.range q.vl).find? fun i => v.mask a.toNat i) with
      | some i => word i
      | none => BitVec.allOnes 64)
  | .get d a =>
    s.setReg d (if q.vl ≤ q.x.toNat then 0
      else
        let e := v.elem q.sew a.toNat q.x.toNat
        BitVec.ofInt 64 (intElem q.kind q.sew e))
  | .perm op d a b m => if skip then s else fin (v.permuted q op d.toNat a.toNat b.toNat m.toNat)
  | .red op d a b m =>
    if skip then s
    else
      let r := v.reduce q op a.toNat b.toNat m.toNat
      (fin (v.setElem q.sew d.toNat 0 r.bits)).raiseF (r.ff ||| reduceFlags v q op a.toNat b.toNat m.toNat)
  | _ => s

end Sys2Proof.Machine
end

