-- ==== Sys2Proof/Machine/Tiles.lean ====
section
/-! DEFINITION. The steps of the queued matrix instructions (10 R292, R299 to R307, R313 to R316, 07 R234, R235). -/

namespace Sys2Proof.Machine

open Sys2Proof

/-- The tile side T of the gang (10 R289). -/
def Strand.tileSide (x : Strand) : Nat := if x.ctl.lg = 4 then 64 else 32

/-- The logical lane of cell (i, j) (10 R290). -/
def Strand.cellLane (x : Strand) (i j : Nat) : Nat :=
  if x.ctl.lg = 4 then 16 * (2 * (i / 32) + j / 32) + 4 * (i / 8 % 4) + j / 8 % 4 else 4 * (i / 8) + j / 8

/-- ER of an entry (10 R292). -/
def QEntry.er (q : QEntry) (t : Nat) : Nat := min q.trows t
/-- EC of an entry. -/
def QEntry.ec (q : QEntry) (t : Nat) : Nat := min q.tcols t

/-- The rank of an outer product (10 R298). -/
def rankOf (kind : Nat) : Nat := if kind = 4 ∨ kind = 5 then 2 else if kind = 6 ∨ kind = 7 then 4 else 1

/-- Values of an operand (10 R301). -/
def valueCount (kind vl : Nat) : Nat := if kind = 6 then 2 * vl else if kind = 7 then 8 * vl else vl

/-- The steps of a matrix instruction (10 R299). -/
def QEntry.stepCount (q : QEntry) (t : Nat) : Nat :=
  match q.op with
  | .top .. => q.x.toNat
  | .tldrow _ x | .tstrow _ x => q.er t - x.toNat
  | .tcvt .. | .tchk _ => 64 * (q.er t - 1) + q.ec t
  | _ => 1

/-! ### Floating steps -/

/-- A floating operand of K-step `u` of an outer product: value `k` of register `n`, with whether it stands for a NaN (10 R301). -/
def State.topValue (s : State) (q : QEntry) (u n k : Nat) : FVal :=
  let v := s.me.vec
  if q.kind = 7 then
    (let w := k / 8
     let c := v.elem 16 n w
     let x := cb8Val (s.tableEntry q u (c / 256)) c (k % 8)
     if vtScaled q.vt then scaleVal (v.scale n (w / 4) (w % 4 / 2)) x else x)
  else (v.fvalue (vtScaled q.vt) q.kind q.sew n k).1

/-- A running exact sum: of the finite terms, with the infinities and NaNs met. -/
structure FSum where
  /-- Signed sum of the finite terms. -/
  m : Int
  /-- Its exponent. -/
  e : Int
  /-- A positive infinity was added. -/
  pinf : Bool
  /-- A negative infinity was added. -/
  ninf : Bool
  /-- A product was a NaN or 0 times infinity. -/
  bad : Bool
  /-- Every product so far is −0. -/
  allNeg : Bool
  deriving DecidableEq, Repr

/-- A product added (07 R234, R235). -/
def FSum.add (f : FSum) (neg : Bool) (k : Int) (a b : FVal) : FSum :=
  match FVal.mul a b with
  | (.fin n m e, _) =>
    let z := dyAdd f.m f.e (signedMant (n ^^ neg) m) (e + k)
    { f with m := z.1, e := z.2, allNeg := f.allNeg && decide (m = 0) && (n ^^ neg) }
  | (.inf n, _) => if n ^^ neg then { f with ninf := true, allNeg := false } else { f with pinf := true, allNeg := false }
  | (.nan _, _) => { f with bad := true, allNeg := false }

/-- A cell after its products (07 R234, R235): the cell's value and the sum of the products. Products of both infinities set NV in a
cell that holds a quiet NaN too (DESIGN CHOICE, log 73). -/
def FF.stepCell (f : FF) (cell : Nat) (p : FSum) : FRes :=
  match f.value cell with
  | .nan sig => f.nan (sig || p.bad || (p.pinf && p.ninf))
  | .inf n => if p.bad || (p.pinf && p.ninf) || (if n then p.pinf else p.ninf) then f.nan true else f.inf n
  | .fin n m e =>
    if p.bad || (p.pinf && p.ninf) then f.nan true
    else if p.pinf then f.inf false
    else if p.ninf then f.inf true
    else
      let z := dyAdd (signedMant n m) e p.m p.e
      if z.1 = 0 then f.zero (decide (m = 0) && n && p.allNeg)
      else f.round .rne (decide (z.1 < 0)) z.1.natAbs z.2 false

/-- Row or column `i` takes part under its mask (10 R302). -/
def Vec.lineOn (v : Vec) (m i : Nat) : Bool := decide (m = 0) || v.mask m i

/-- K-step `k` of TOPA or TOPS (10 R302). -/
def State.topaStep (s : State) (q : QEntry) (neg : Bool) (d a b e m n k : Nat) : State :=
  let v := s.me.vec
  let t := s.me.tileSide
  let r := rankOf q.kind
  let sc : Int := if e = 0 then 0 else sintOf 8 (v.elem 8 e 0)
  let f : FF := if q.kind = 2 ∧ q.sew = 64 then .fp64 else .fp32
  let rows := (List.range (q.er t)).filter (v.lineOn m)
  let cols := (List.range (q.ec t)).filter (v.lineOn n)
  let xs := rows.map fun i => (i, (List.range r).map fun p => s.topValue q k a ((k * t + i) * r + p))
  let ys := cols.map fun j => (j, (List.range r).map fun p => s.topValue q k b ((k * t + j) * r + p))
  let out := xs.foldl (fun (acc : Vec × BitVec 5) (x : Nat × List FVal) =>
    ys.foldl (fun (acc : Vec × BitVec 5) (y : Nat × List FVal) =>
      let p := (x.2.zip y.2).foldl (fun (p : FSum) (c : FVal × FVal) => p.add neg sc c.1 c.2) ⟨0, 0, false, false, false, true⟩
      let z := f.stepCell ((acc.1.cell d x.1 y.1).toNat % 2 ^ f.width) p
      (acc.1.setCell d x.1 y.1 (word z.1), acc.2 ||| z.2)) acc) (v, 0)
  (s.onVec fun _ => out.1.setWeight d (2 ^ 64 - 1)).raiseF out.2

/-! ### Residue steps -/

/-- The term weight of TOPR (10 R303). -/
def termWeight (kind sew : Nat) : Nat :=
  match kind, sew with
  | 0, 8 => 16384
  | 1, 8 => 65025
  | 0, 16 => 1073741824
  | 1, 16 => 4294836225
  | _, _ => 2 ^ 64 - 1

/-- Front (10 R303). -/
def front (q : QEntry) (x : Nat) : Nat := if kindRn q.kind then x else residue q.en (intElem q.kind q.sew x)

/-- ResidueStep (07 R234). -/
def residueStep (en cell a b : Nat) : Nat :=
  rnsBytes en fun j =>
    let m := modulus j
    if m ≤ channel cell j ∨ m ≤ channel a j ∨ m ≤ channel b j then 255
    else (channel cell j + channel a j * channel b j) % m

/-- A corrupting injection of UNIT 0x05: the lowest-index updated cell of its lane is changed (12 R364). -/
def State.corruptCell (s : State) (q : QEntry) (d : Nat) (cells : List (Nat × Nat)) : State :=
  match cells.find? fun c => (s.armed 5 (s.me.cellLane c.1 c.2) true).isSome with
  | none => s
  | some c =>
    match s.armed 5 (s.me.cellLane c.1 c.2) true with
    | some w =>
      if q.en.testBit (fld w 41 3) then
        s.fire.onVec fun v => v.setCell d c.1 c.2 (word (corruptChannel (v.cell d c.1 c.2).toNat (fld w 41 3)))
      else s
    | none => s

/-- K-step `k` of TOPR (10 R303). -/
def State.toprStep (s : State) (q : QEntry) (d a b m n k : Nat) : State :=
  let v := s.me.vec
  let t := s.me.tileSide
  let rows := (List.range (q.er t)).filter (v.lineOn m)
  let cols := (List.range (q.ec t)).filter (v.lineOn n)
  let xs := rows.map fun i => (i, front q (v.elem q.sew a (k * t + i)))
  let ys := cols.map fun j => (j, front q (v.elem q.sew b (k * t + j)))
  let v1 := xs.foldl (fun (v : Vec) (x : Nat × Nat) =>
    ys.foldl (fun (v : Vec) (y : Nat × Nat) =>
      v.setCell d x.1 y.1 (word (residueStep q.en (v.cell d x.1 y.1).toNat x.2 y.2))) v) v
  let w := min (2 ^ 64 - 1) (v.weight d + termWeight q.kind q.sew)
  let s1 := s.onVec fun _ => v1.setWeight d w
  let s2 := if halfRange q.en < w then s1.raiseI iflagRG else s1
  s2.corruptCell q d (rows.flatMap fun i => cols.map fun j => (i, j))

/-! ### Conversions and checks in place -/

/-- A cell decoded and reported by 10 R306; `put` gives the cell's new contents for a decision. -/
def State.decideCell (s : State) (q : QEntry) (d u : Nat) (put : Decision → Option Word) : IdxRes :=
  let i := u / 64
  let j := u % 64
  let lane := s.me.cellLane i j
  let at_ := laneTval lane u
  let w := s.me.vec.weight d
  let r := s.decideAt 5 lane (s.me.vec.cell d i j).toNat q.en
  let s1 := r.1
  let inj := r.2.2.1
  let guard := decide (w ≤ halfRange q.en) || r.2.2.2
  let write := fun (s : State) => match put r.2.1 with
    | some x => s.onVec fun v => v.setCell d i j x
    | none => s
  match r.2.1 with
  | .exact _ => .done (write s1)
  | .located c _ =>
    if q.rctrap then .bad s1 ⟨u, 0x10, at_, word c⟩
    else .done ((write (s1.reportLocated 5 lane c at_ inj)).raiseI iflagRC)
  | .unresolved =>
    if q.ovtrap then .bad s1 ⟨u, 0x11, at_, Words.enc s.ir⟩
    else if guard then .done ((write (s1.reportUnresolved 5 lane at_ inj)).raiseI (iflagOV ||| iflagRC))
    else .done ((write s1).raiseI iflagOV)

/-- Cell step `u` of TCVT (10 R313). -/
def State.tcvtStep (s : State) (q : QEntry) (d code u : Nat) : IdxRes :=
  let i := u / 64
  let j := u % 64
  let x := s.me.vec.cell d i j
  let put := fun (r : FRes) => IdxRes.done ((s.onVec fun v => v.setCell d i j (word r.1)).raiseF r.2)
  match code with
  | 0 =>
    s.decideCell q d u fun r => match r with
      | .exact z => some (BitVec.ofInt 64 z)
      | .located _ z => some (BitVec.ofInt 64 z)
      | .unresolved => some (word (2 ^ 63))
  | 1 =>
    let beyond := decide (halfRange q.en < x.toInt.natAbs)
    if beyond && q.ovtrap then .bad s ⟨u, 0x11, laneTval (s.me.cellLane i j) u, Words.enc s.ir⟩
    else
      let s1 := s.onVec fun v =>
        (v.setCell d i j (word (residue q.en x.toInt))).setWeight d (max (v.weight d) x.toInt.natAbs)
      .done (if beyond then s1.raiseI iflagOV else s1)
  | 2 => put (FF.fp64.ofInt q.mode x.toInt)
  | 3 => put (FF.fp64.ofVal q.mode (FF.fp32.value (x.toNat % 2 ^ 32)))
  | _ => put (FF.fp32.ofVal q.mode (FF.fp64.value x.toNat))

/-- Cell step `u` of TCHK (10 R314). -/
def State.tchkStep (s : State) (q : QEntry) (d u : Nat) : IdxRes :=
  s.decideCell q d u fun r => match r with
    | .located _ z => some (word (residue q.en z))
    | _ => none

/-! ### Slices (10 R316) -/

/-- Length and count of the slices. -/
def sliceDims (q : QEntry) (t : Nat) (col : Bool) : Nat × Nat :=
  if col then (q.er t, q.ec t) else (q.ec t, q.er t)

/-- The cell that element `e` of a slice move stands for. -/
def sliceCell (len x e : Nat) (col : Bool) : Nat × Nat :=
  if col then (e % len, x + e / len) else (x + e / len, e % len)

/-- How many elements a slice move moves. -/
def sliceCount (q : QEntry) (t x : Nat) (col : Bool) : Nat :=
  match sliceDims q t col with
  | (len, n) => min (if x < n then (n - x) * len else 0) q.vl

/-- TSLV. Of kind RNS it writes residue bytes (07 R225; DEDUCED, log 72). -/
def State.tslvAll (s : State) (q : QEntry) (d a x : Nat) (col : Bool) : State :=
  let t := s.me.tileSide
  let n := sliceCount q t x col
  let len := (sliceDims q t col).1
  let cap := s.me.capacity q.sew
  s.onVec fun v =>
    let v1 := (List.range n).foldl (fun (v : Vec) e =>
      let c := sliceCell len x e col
      v.setElem q.sew d e (q.moved (v.cell a c.1 c.2).toNat)) v
    if vtTail q.vt then v1.zeroFrom q.sew d n cap else v1

/-- TVSL. Of kind RNS it writes residue bytes (07 R225; DEDUCED, log 72). -/
def State.tvslAll (s : State) (q : QEntry) (d a x : Nat) (col : Bool) : State :=
  let t := s.me.tileSide
  let n := sliceCount q t x col
  let len := (sliceDims q t col).1
  s.onVec fun v =>
    ((List.range n).foldl (fun (v : Vec) e =>
      let c := sliceCell len x e col
      v.setCell d c.1 c.2 (word (q.moved (v.elem q.sew a e)))) v).setWeight d (2 ^ 64 - 1)

/-- Every cell of a tile and its guard weight zero (10 R304). -/
def Vec.zeroTile (v : Vec) (d : Nat) : Vec :=
  ({ v with
      tiles := dropKeys v.tiles (4096 * d) (4096 * (d + 1))
      regPoison := dropKeys v.regPoison (storeKey 40 (4096 * d)) (storeKey 40 (4096 * (d + 1)))
      regSynd := dropKeys v.regSynd (storeKey 40 (4096 * d)) (storeKey 40 (4096 * (d + 1))) } : Vec).setWeight d 0

/-- Step `u` of a matrix entry. -/
def State.matStep (s : State) (q : QEntry) (u : Nat) : IdxRes :=
  let t := s.me.tileSide
  match q.op with
  | .tzero d => .done (s.onVec fun v => v.zeroTile d.toNat)
  | .top .topr d a b _ m n => .done (s.toprStep q d.toNat a.toNat b.toNat m.toNat n.toNat u)
  | .top op d a b e m n => .done (s.topaStep q (decide (op = .tops)) d.toNat a.toNat b.toNat e.toNat m.toNat n.toNat u)
  | .tldrow d x => s.tldrowStep q d.toNat x.toNat u (q.ec t) (s.me.cellLane (x.toNat + u))
  | .tstrow d x => s.tstrowStep q d.toNat x.toNat u (q.ec t) (s.me.cellLane (x.toNat + u))
  | .tslv d a x o => .done (s.tslvAll q d.toNat a.toNat x.toNat o)
  | .tvsl d a x o => .done (s.tvslAll q d.toNat a.toNat x.toNat o)
  | .tcvt d k =>
    let s1 := if u = 0 ∧ k = 1 then s.onVec fun v => v.setWeight d.toNat 0 else s
    if q.er t ≤ u / 64 ∨ q.ec t ≤ u % 64 then .done s1 else s1.tcvtStep q d.toNat k.toNat u
  | .tchk d => if q.er t ≤ u / 64 ∨ q.ec t ≤ u % 64 then .done s else s.tchkStep q d.toNat u
  | _ => .done s

/-- The guard weight when a TCVT that has converted cells completes (10 R304, R313). -/
def State.matFinish (s : State) (q : QEntry) : State :=
  match q.op with
  | .tcvt d k => if k = 1 ∨ q.stepCount s.me.tileSide ≤ q.first then s else s.onVec fun v => v.setWeight d.toNat (2 ^ 64 - 1)
  | _ => s

end Sys2Proof.Machine
end

