-- ==== Sys2Proof/Machine/Queue.lean ====
section
/-! DEFINITION. What the entries of the vector queue do: the kinds of operation, the registers and memory that one reads and writes
(06 R197, 10 R300), its slot steps (06 R196 to R199) and the run of one of them. -/

namespace Sys2Proof.Machine

open Sys2Proof

/-! ### What an operation is -/

/-- A vector memory instruction (04 R125, 09 R284, 10 R300). -/
def opIsMem : VOp → Bool
  | .load .. | .store .. | .amo .. | .cbload | .tldrow .. | .tstrow .. => true
  | _ => false

/-- A fence or a barrier arrival in the queue. -/
def opIsSync : VOp → Bool
  | .fence .. | .barv .. => true
  | _ => false

/-- A matrix instruction (10 R299). -/
def opIsMatrix : VOp → Bool
  | .tzero _ | .top .. | .tldrow .. | .tstrow .. | .tslv .. | .tvsl .. | .tcvt .. | .tchk _ => true
  | _ => false

/-- An operation that commits whole (06 R199, 08 R261, 09 R265, R284). -/
def opIsWhole : VOp → Bool
  | .mlog .. | .mpop .. | .mfirst .. | .mset _ | .get .. | .red .. | .cbload | .fence .. | .barv .. => true
  | .perm op .. => !decide (op = .swappr)
  | _ => false

/-- A destination or source whose elements lie elsewhere than the indices that govern them (08 R254, R255, 09 R275). -/
def opReshapes : VOp → Bool
  | .arith op .. => decide (op = .wadd) || decide (op = .wmul) || decide (op = .nshr)
  | .cvt .. | .cbdec .. | .rnsf .. => true
  | _ => false

/-- The operation is rechecked when STATUS.RCHK = 1 (12 R347). -/
def opRechecked : VOp → Bool
  | .top op .. => !decide (op = .topr)
  | .tcvt _ k => decide (2 ≤ k.toNat)
  | .tchk _ => false
  | op => !opIsMem op && !opIsSync op

/-- The elements of one unordered store or VAMO have no order among them (04 R123). -/
def opUnordered : VOp → Bool
  | .store f .. => !decide (f = .vstxO)
  | .amo .. => true
  | _ => false

/-- A read of memory without a write. -/
def opLoads : VOp → Bool
  | .load .. | .cbload | .tldrow .. => true
  | _ => false

/-- A queued instruction writes memory. -/
def opStores : VOp → Bool
  | .store .. | .amo .. | .tstrow .. => true
  | _ => false

/-- Its element events perform in ascending index order (04 R124). -/
def opInOrder : VOp → Bool
  | .load .vldxO .. | .store .vstxO .. => true
  | _ => false

/-- A barrier arrival in the queue. -/
def opIsBarv : VOp → Bool
  | .barv .. => true
  | _ => false

/-- The scope of an acquire that the operation's completion makes: no later vector memory instruction performs before it
(03 R108, 04 R127, 08 R248). -/
def opAcquires : VOp → Option Scope
  | .load _ _ _ _ _ s o | .amo _ _ _ _ _ s o => if Order.acquires o then some s else none
  | .store _ _ _ _ _ s o => if o = .sc then some s else none
  | .fence _ s => some s
  | _ => none

/-- The scope at which every earlier vector memory instruction has performed before the operation does (03 R108, 04 R127, R134). -/
def opReleases : VOp → Option Scope
  | .load _ _ _ _ _ s o | .store _ _ _ _ _ s o | .amo _ _ _ _ _ s o => if Order.releases o then some s else none
  | .fence true s | .barv _ s => some s
  | _ => none

/-- The tile that a matrix instruction touches (10 R300). -/
def opTile : VOp → Option Nat
  | .tzero d | .top _ d .. | .tldrow d _ | .tstrow d _ | .tvsl d .. | .tcvt d _ | .tchk d => some d.toNat
  | .tslv _ a .. => some a.toNat
  | _ => none

/-- An outer product (10 R298). -/
def opIsTop : VOp → Bool
  | .top .. => true
  | _ => false

/-! ### Registers read and written -/

/-- A run of registers: class 0 vector, 1 mask, 3 scalar; first number; count. Tiles have rules of their own (10 R300). -/
abbrev RegRun := Nat × Nat × Nat

/-- Two runs share a register. -/
def runsMeet (a b : RegRun) : Bool := decide (a.1 = b.1 ∧ a.2.1 < b.2.1 + b.2.2 ∧ b.2.1 < a.2.1 + a.2.2)

/-- The operation reads scale bytes from the planes v28 to v31 (07 R219, 08 R245, 09 R266). -/
def readsPlanes (op : VOp) (vt : BitVec 12) : Bool :=
  vtScaled vt && match op with
    | .store .vst _ _ b .. => decide (b ≠ 0)
    | .perm .. | .cvt .. | .cbdec .. | .top .. => kindSt (vtKind vt)
    | _ => false

/-- The operation writes scale bytes to them. -/
def writesPlanes (op : VOp) (vt : BitVec 12) : Bool :=
  vtScaled vt && match op with
    | .load .vld _ _ b .. => decide (b ≠ 0)
    | .perm .. => kindSt (vtKind vt)
    | .cvt _ _ _ k _ _ => kindSt (kindCode k)
    | _ => false

/-- The registers that an operation writes. -/
def opWrites (op : VOp) (vt : BitVec 12) : List RegRun :=
  (match (opRegs op vt).dst with | some d => [(0, d.1, d.2)] | none => []) ++ (if writesPlanes op vt then [(0, 28, 4)] else []) ++
    match op with
    | .cmp _ _ d .. | .rnschk d .. => [(1, d.toNat, 1)]
    | .mlog _ d .. | .mset d => [(1, d.toNat, 1)]
    | .load .vldff _ _ _ m .. => [(1, m.toNat, 1)]
    | .mpop d _ | .mfirst d _ => [(3, d.toNat, 1)]
    | .get d _ => [(3, d.toNat, 1)]
    | _ => []

/-- The registers that an operation reads. -/
def opReads (op : VOp) (vt : BitVec 12) : List RegRun :=
  (opRegs op vt).srcs.map (fun (r : Nat × Nat) => (0, r.1, r.2)) ++ (if readsPlanes op vt then [(0, 28, 4)] else [])
    ++ (if opGovern op = 0 then [] else [(1, opGovern op, 1)]) ++
    match op with
    | .mlog _ _ a b => [(1, a.toNat, 1), (1, b.toNat, 1)]
    | .mpop _ a | .mfirst _ a => [(1, a.toNat, 1)]
    | .top _ _ _ _ _ m n => [(1, m.toNat, 1), (1, n.toNat, 1)]
    | _ => []

/-- The registers on which the addresses of a memory instruction depend: its indices and its mask. -/
def opAddrReads (op : VOp) (vt : BitVec 12) : List RegRun :=
  (if opGovern op = 0 then [] else [(1, opGovern op, 1)]) ++
    match op with
    | .load f _ _ b .. => if loadIndexed f then [(0, b.toNat, vtGroup vt)] else []
    | .store f _ _ b .. => if storeIndexed f then [(0, b.toNat, vtGroup vt)] else []
    | .amo _ _ _ b .. => [(0, b.toNat, vtGroup vt)]
    | _ => []

/-- Some run of one list meets some run of the other. -/
def anyMeet (xs ys : List RegRun) : Bool := xs.any fun x => ys.any fun y => runsMeet x y

/-! ### Steps -/

/-- One above the last index of an entry (01 R23, 08 R247, 09 R284, 10 R299). -/
def QEntry.total (q : QEntry) (x : Strand) : Nat :=
  match q.op with
  | .store .vstN .. => q.vl + 1
  | .cbload => 64
  | op => if (opIsMatrix op) then q.stepCount x.tileSide else q.vl

/-- Indices in a slot step of an element-wise entry (06 R188). -/
def QEntry.stepLen (q : QEntry) (x : Strand) : Nat := max 1 (x.stepSize q.sew)

/-- One above the last index of the step that holds index `i` (06 R188, 08 R239, 10 R299). -/
def QEntry.stepEnd (q : QEntry) (x : Strand) (i : Nat) : Nat :=
  if opIsMatrix q.op || decide (q.vl ≤ i) then i + 1
  else min q.vl ((i / q.stepLen x + 1) * q.stepLen x)

/-- The first index of the step that holds index `i`. -/
def QEntry.stepFirst (q : QEntry) (x : Strand) (i : Nat) : Nat :=
  if opIsMatrix q.op || decide (q.vl ≤ i) then i else max q.first (i / q.stepLen x * q.stepLen x)

/-- One above the last index whose step has committed, as a younger entry sees it. -/
def QEntry.landed (q : QEntry) (x : Strand) : Nat := if q.total x ≤ q.next then q.next else q.stepFirst x q.next

/-- How a run of indices ends. -/
inductive EndRes
  /-- Every index is done. -/
  | ok
  /-- An index fails. -/
  | fault (f : QFault)
  /-- An index waits. -/
  | wait (i : Nat)
  /-- A VLDFF has ended. -/
  | stop
  /-- A word that the step reads is uncorrectable. -/
  | poison
  deriving DecidableEq, Repr

/-- One index. -/
def State.oneIdx (s : State) (q : QEntry) (i : Nat) : IdxRes :=
  if (opIsMatrix q.op) then s.matStep q i else s.elemIdx q i

/-- Indices in the order of a list. -/
def State.runList (s : State) (q : QEntry) : List Nat → State × EndRes
  | [] => (s, .ok)
  | i :: is =>
    match s.oneIdx q i with
    | .done s1 => State.runList s1 q is
    | .bad s1 f => (s1, .fault f)
    | .wait s1 => (s1, .wait i)
    | .stop s1 => (s1, .stop)

/-! ### Unordered elements that touch a common byte (04 R123, log 11) -/

/-- The indices `lo` to `hi - 1`. -/
def indices (lo hi : Nat) : List Nat := (List.range (hi - lo)).map fun k => lo + k

/-- The element accesses of index `i` of an entry. -/
def QEntry.reqs (q : QEntry) (x : Strand) (i : Nat) : List EReq :=
  let t := x.tileSide
  match q.op with
  | .load f d _ b m .. => if i < q.vl ∧ x.vec.active m.toNat i = true then q.loadReqs x f d.toNat b.toNat m.toNat i else []
  | .store f d _ b m .. =>
    if (f = .vstN ∧ i = q.vl) ∨ (i < q.vl ∧ x.vec.active m.toNat i = true) then q.storeReqs x f d.toNat b.toNat m.toNat i else []
  | .amo op d _ b m .. => if i < q.vl ∧ x.vec.active m.toNat i = true then q.amoReqs x op d.toNat b.toNat i else []
  | .cbload => [q.tableReq x i]
  | .tldrow d r => q.rowReqs x.vec false d.toNat r.toNat i (q.ec t) (x.cellLane (r.toNat + i))
  | .tstrow d r => q.rowReqs x.vec true d.toNat r.toNat i (q.ec t) (x.cellLane (r.toNat + i))
  | _ => []

/-- The memory keys and lengths of the element accesses of index `i` of an entry; plane accesses, which follow their elements, are left
out (DESIGN CHOICE, log 70). -/
def State.spansOf (s : State) (q : QEntry) (i : Nat) : List (Nat × Nat) :=
  (q.reqs s.me i).flatMap fun r =>
    match s.resolve (s.elemAgent q r.lane) r.acc.form r.addr r.len with
    | .ok parts => parts.map fun (p : Place × Nat) => (p.1.key, p.2)
    | .error _ => []

/-- Those of the indices `lo` to `hi - 1`. -/
def State.spansIn (s : State) (q : QEntry) (lo hi : Nat) : List (Nat × Nat) := (indices lo hi).flatMap fun i => s.spansOf q i

/-- Two spans share a byte. -/
def spanMeets (a b : Nat × Nat) : Bool := decide (a.1 < b.1 + b.2 ∧ b.1 < a.1 + a.2)

/-- Two of the spans share a byte. -/
def spansMeet : List (Nat × Nat) → Bool
  | [] => false
  | a :: r => r.any (spanMeets a) || spansMeet r

/-- An index put into a list that is in ascending order of its sort key. -/
def insertKey (n i : Nat) : List Nat → List Nat
  | [] => [i]
  | j :: r => if Config.elementKey n i < Config.elementKey n j then i :: j :: r else j :: insertKey n i r

/-- Indices in ascending order of their sort keys. -/
def sortKeys (n : Nat) (is : List Nat) : List Nat := is.foldr (insertKey n) []

/-- The order in which the indices `lo` to `hi - 1` of an entry perform, and whether it was drawn: the ascending order,
unless elements of an unordered store or VAMO share a byte (log 11). Of a trapping one, no element from the trapping one on performs
(DESIGN CHOICE, log 76). -/
def State.ordered (s : State) (q : QEntry) (lo hi : Nat) : List Nat × Bool :=
  let is := indices lo hi
  if !(opUnordered q.op) || !spansMeet (is.flatMap fun i => s.spansOf q i) then (is, false)
  else
    let ends := is.map fun i => (i, match s.oneIdx q i with | .done _ => 0 | .bad .. => 1 | _ => 2)
    if ends.any fun e => decide (e.2 = 2) then (is, false)
    else
      let k := ((ends.find? fun (e : Nat × Nat) => decide (e.2 = 1)).map Prod.fst).getD hi
      let below := is.filter fun i => decide (i < k) && decide (i < q.vl)
      (sortKeys s.fresh below ++ is.filter fun i => !(decide (i < k) && decide (i < q.vl)), true)

/-! ### The words that a step reads (12 R355) -/

/-- The value of a stored word of the vector context. -/
def Strand.storedWord (x : Strand) (k : Nat) : Word :=
  if k < 32 * 65536 then NMap.get 0 x.vec.regs k
  else if k < 40 * 65536 then
    word ((List.range 64).foldl (fun n b => n + (x.vec.mask (k / 65536 - 32) (x.maskBit (k % 65536) b)).toNat * 2 ^ b) 0)
  else NMap.get 0 x.vec.tiles (k - 40 * 65536)

/-- A stored word of the vector context replaced. -/
def Strand.setStored (x : Strand) (k : Nat) (d : Word) : Strand :=
  let v := x.vec
  { x with
    vec :=
      if k < 32 * 65536 then { v with regs := NMap.set 0 v.regs k d }
      else if k < 40 * 65536 then
        (List.range 64).foldl (fun (v : Vec) b => v.setMask (k / 65536 - 32) (x.maskBit (k % 65536) b) (d.getLsbD b)) v
      else { v with tiles := NMap.set 0 v.tiles (k - 40 * 65536) d } }

/-- The logical lane of a stored word of the vector context. -/
def Strand.laneOfWord (x : Strand) (k : Nat) : Nat :=
  if k < 40 * 65536 then k % 65536 % max 1 x.lanesWide else x.cellLane (k % 65536 / 64 % 64) (k % 64)

/-- The stored words of the strand in focus that `f` names are read outside its instructions, by a scrub, a save or a migration: each is
checked, and one found uncorrectable keeps its mark and is logged (12 R354, R355). -/
def State.scrubWords (s : State) (f : Nat → Bool) : State :=
  (s.me.vec.regSynd.filter fun (e : Nat × Byte) => f e.1).foldl (fun (s : State) (e : Nat × Byte) =>
    let lane := s.me.laneOfWord e.1
    let had := NMap.get false s.me.vec.regPoison e.1
    let s1 := s.laneWord e.1 lane
    if !had && NMap.get false s1.me.vec.regPoison e.1 then
      s1.logLane false 2 (storeUnit e.1) lane 0 false e.2.toNat (word (s1.me.storeOffset e.1))
    else s1) s

/-- Words of the strand in focus that are no longer its context's keep their errors where they lie: those that `f` names by lane group,
mask file and offset (12 R354, R362). -/
def State.leaveStray (s : State) (f : Nat → Bool → Nat → Bool) : State :=
  let x := s.me
  let out := x.vec.regSynd.filterMap fun (e : Nat × Byte) =>
    let lane := x.laneOfWord e.1
    let mask := decide (32 * 65536 ≤ e.1) && decide (e.1 < 40 * 65536)
    (x.physical (lane / 16)).bind fun p =>
      if f p mask (x.storeOffset e.1) then some (strayKey p (lane % 16) mask (x.storeOffset e.1), x.storedWord e.1, e.2) else none
  if out.isEmpty then s
  else s.onCluster s.tid.cluster fun k =>
    { k with stray := out.foldl (fun (m : NMap (Word × Byte)) (e : Nat × (Word × Byte)) => NMap.set (0, 0) m e.1 e.2) k.stray }

/-- Words of a register that hold the indices `lo` to `hi - 1`, `p` to a word. -/
def wordRange (lo hi p : Nat) : List Nat := indices (lo / p) ((hi + p - 1) / p)

/-- The word of a mask register that holds the bit of element `i` (06 R189). -/
def Strand.maskWord (x : Strand) (i : Nat) : Nat :=
  let p := 64 / vtSew x.ctl.vt
  let wide := max 1 x.lanesWide
  (i / p / wide * p + i % p) / 64 * wide + i / p % wide

/-- A register's words as stored words with their lanes. -/
def Strand.regWords (x : Strand) (n : Nat) (ws : List Nat) : List (Nat × Nat) :=
  ws.map fun w => (storeKey n w, w % max 1 x.lanesWide)

/-- A mask register's words that hold the bits `lo` to `hi - 1`. -/
def Strand.maskWords (x : Strand) (n lo hi : Nat) : List (Nat × Nat) :=
  if n = 0 then [] else x.regWords (32 + n) ((indices lo hi).map x.maskWord).eraseDups

/-- Cells of a tile as stored words. -/
def Strand.tileWords (x : Strand) (n : Nat) (cells : List (Nat × Nat)) : List (Nat × Nat) :=
  cells.map fun c => (storeKey 40 (4096 * n + 64 * c.1 + c.2), x.cellLane c.1 c.2)

/-- Cells of `n` rows and `k` columns from row `r`. -/
def cellsOf (r n k : Nat) : List (Nat × Nat) := (List.range n).flatMap fun i => (List.range k).map fun j => (r + i, j)

/-- Indices of an entry in one word of its source registers. -/
def QEntry.perWord (q : QEntry) : Nat :=
  match q.op with
  | .cvt _ _ _ k w _ => if q.kind = 6 then 8 else max (64 / q.sew) (valuesPerWord (kindCode k) (sewOf w))
  | _ => 64 / q.sew

/-- Register words with the words of the planes that hold their scale bytes (07 R219). -/
def Strand.planed (x : Strand) (q : QEntry) (ws : List (Nat × Nat)) : List (Nat × Nat) :=
  if readsPlanes q.op q.vt then
    ws ++ (ws.map fun (w : Nat × Nat) => (storeKey (28 + w.1 / 65536 / 4) (w.1 % 65536), w.1 % 65536 % max 1 x.lanesWide)).eraseDups
  else ws

/-- An operation writes or reads at every index whatever its mask says: VSEL's mask selects (08 R256). -/
def opUnmasked (op : VOp) : Bool := match op with | .sel .. => true | _ => decide (opGovern op = 0)

/-- The items of VSWAPPR that active indices from `lo` to `hi - 1` read, as words: element `i` reads its partner (09 R270). -/
def State.swapWords (s : State) (q : QEntry) (lo hi : Nat) : List Nat :=
  let p := 64 / q.sew
  let act := s.me.vec.active (opGovern q.op)
  if blockMode q.vt then
    (((wordRange lo hi p).filter fun u => act (p * u)).map fun u => if (u ^^^ 1) < q.vl / p then u ^^^ 1 else u).eraseDups
  else (((indices lo hi).filter act).map fun i => (if (i ^^^ 1) < q.vl then i ^^^ 1 else i) / p).eraseDups

/-- The stored words that indices `lo` to `hi - 1` of an entry read, or the whole entry. A masked instruction issues only the words that
hold an active element (06 R198). -/
def State.sourceWords (s : State) (q : QEntry) (lo hi : Nat) : List (Nat × Nat) :=
  let x := s.me
  let p := q.perWord
  let live := fun (a b w : Nat) =>
    opUnmasked q.op || (indices (max a (p * w)) (min b (p * w + p))).any fun i => x.vec.active (opGovern q.op) i
  let all := fun (rs : List (Nat × Nat)) (ws : List Nat) =>
    rs.flatMap fun (r : Nat × Nat) => (List.range r.2).flatMap fun j => x.regWords (r.1 + j) ws
  let regs := fun (rs : List (Nat × Nat)) (a b : Nat) => all rs ((wordRange a b p).filter (live a b))
  let t := x.tileSide
  match q.op with
  | .mlog _ _ a b => x.maskWords a.toNat 0 q.vl ++ x.maskWords b.toNat 0 q.vl
  | .mpop _ a | .mfirst _ a => x.maskWords a.toNat 0 q.vl
  | .get _ a => if q.vl ≤ q.x.toNat then [] else regs [(a.toNat, 1)] q.x.toNat (q.x.toNat + 1)
  | .red _ _ a b m => regs [(a.toNat, 1)] 0 q.vl ++ x.regWords b.toNat [0] ++ x.maskWords m.toNat 0 q.vl
  | .top _ d a b e m n =>
    let c := t * rankOf q.kind
    let p := if q.kind = 7 then 32 else valuesPerWord q.kind q.sew
    x.planed q (x.regWords a.toNat (wordRange (lo * c) (hi * c) p) ++ x.regWords b.toNat (wordRange (lo * c) (hi * c) p))
      ++ (if e = 0 then [] else x.regWords e.toNat [0]) ++ x.maskWords m.toNat 0 (q.er t) ++ x.maskWords n.toNat 0 (q.ec t)
      ++ x.tileWords d.toNat (cellsOf 0 (q.er t) (q.ec t))
  | .tstrow d r => x.tileWords d.toNat (cellsOf (r.toNat + lo) (hi - lo) (q.ec t))
  | .tslv _ a r o =>
    let len := (sliceDims q t o).1
    x.tileWords a.toNat ((List.range (sliceCount q t r.toNat o)).map fun e => sliceCell len r.toNat e o)
  | .tvsl _ a r o => x.regWords a.toNat (wordRange 0 (sliceCount q t r.toNat o) (64 / q.sew))
  | .tcvt d _ | .tchk d =>
    x.tileWords d.toNat (((indices lo hi).map fun u => (u / 64, u % 64)).filter fun (c : Nat × Nat) =>
      decide (c.1 < q.er t ∧ c.2 < q.ec t))
  | .perm op .. =>
    if op = .swappr then x.planed q (all (opRegs q.op q.vt).srcs (s.swapWords q lo hi)) ++ x.maskWords (opGovern q.op) lo hi
    else x.planed q (all (opRegs q.op q.vt).srcs (wordRange 0 q.vl p)) ++ x.maskWords (opGovern q.op) 0 q.vl
  | .arith op .. =>
    regs (opRegs q.op q.vt).srcs lo hi ++ x.maskWords (opGovern q.op) lo hi
      ++ (if op = .fma ∨ op = .fms ∨ op = .fnma then regs (opRegs q.op q.vt).dst.toList lo hi else [])
  | .amo .. =>
    regs (opRegs q.op q.vt).srcs lo hi ++ regs (opRegs q.op q.vt).dst.toList lo hi ++ x.maskWords (opGovern q.op) lo hi
  | _ => x.planed q (regs (opRegs q.op q.vt).srcs lo hi) ++ x.maskWords (opGovern q.op) lo hi

/-- Item `u` of `n` of a permutation's destination is written, `act` being its mask and `k` its distance (09 R267 to R271, 08 R241). -/
def permWrites (q : QEntry) (op : PermOp) (n k : Nat) (act : Nat → Bool) (u : Nat) : Bool :=
  match op with
  | .slideup => decide (k ≤ u) && (vtMpol q.vt || act u)
  | .compress => decide (u < ((List.range n).filter act).length) || vtTail q.vt
  | _ => vtMpol q.vt || act u

/-- The words of a mask destination that an entry from `lo` to `VL - 1` has written whole, its tail included (06 R189, 08 R241). -/
def Strand.wholeMask (x : Strand) (q : QEntry) (n lo : Nat) : List Nat :=
  let put := fun (i : Nat) =>
    if q.vl ≤ i then vtTail q.vt else decide (lo ≤ i) && (vtMpol q.vt || x.vec.active (opGovern q.op) i)
  (((indices lo (if vtTail q.vt then x.capacity q.sew else q.vl)).map x.maskWord).eraseDups.filter fun w =>
    (List.range 64).all fun b => put (x.maskBit w b)).map fun w => storeKey (32 + n) w

/-- The stored words that indices `lo` to `hi - 1` of an entry write whole, by active or zeroed elements. -/
def State.wholeWords (s : State) (q : QEntry) (lo hi : Nat) : List Nat :=
  let x := s.me
  let act := fun i => opUnmasked q.op || vtMpol q.vt || x.vec.active (opGovern q.op) i
  let p := q.perWord
  let full := fun (put : Nat → Bool) =>
    (indices (lo / p) (hi / p)).filter fun w => decide (lo ≤ p * w) && (List.range p).all fun k => put (p * w + k)
  let all := fun (ws : List Nat) =>
    (opRegs q.op q.vt).dst.toList.flatMap fun (r : Nat × Nat) =>
      (List.range r.2).flatMap fun j => ws.map fun w => storeKey (r.1 + j) w
  match q.op with
  | .cmp .. | .rnschk .. => []
  | .mlog _ d .. | .mset d => x.wholeMask q d.toNat lo
  | .red .. => all (if p = 1 || vtTail q.vt then [0] else [])
  | .perm op .. =>
    let m := x.vec.active (opGovern q.op)
    all (if blockMode q.vt then
        (indices (lo / p) (hi / p)).filter (permWrites q op (q.vl / p) q.x.toNat fun u => m (p * u))
      else full (permWrites q op q.vl q.x.toNat m))
  | .tldrow d r =>
    (x.tileWords d.toNat (cellsOf (r.toNat + lo) (hi - lo) (q.ec x.tileSide))).map Prod.fst
  | .tslv d _ r o =>
    let n := if vtTail q.vt then x.capacity q.sew else sliceCount q x.tileSide r.toNat o
    (List.range (n / p)).map fun w => storeKey d.toNat w
  | .tvsl d _ r o =>
    let len := (sliceDims q x.tileSide o).1
    (x.tileWords d.toNat ((List.range (sliceCount q x.tileSide r.toNat o)).map fun e => sliceCell len r.toNat e o)).map
      Prod.fst
  | _ => all (full act)

/-- Words wholly written lose their poison and their planted syndrome (12 R355). -/
def State.cleanWords (s : State) (ks : List Nat) : State :=
  s.onVec fun v =>
    { v with
      regPoison := v.regPoison.filter fun (e : Nat × Bool) => !ks.elem e.1
      regSynd := v.regSynd.filter fun (e : Nat × Byte) => !ks.elem e.1 }

/-- The words that indices `lo` to `hi - 1` of an entry wrote whole are clean. -/
def State.clearWritten (s : State) (q : QEntry) (lo hi : Nat) : State :=
  if s.me.vec.regPoison = [] ∧ s.me.vec.regSynd = [] then s else s.cleanWords (s.wholeWords q lo hi)

/-- The words that an entry writes whole only as it completes are clean: those of a mask destination, those of a zeroed tail, and the word
in which written elements meet the tail. -/
def State.clearTail (s : State) (q : QEntry) : State :=
  if s.me.vec.regPoison = [] ∧ s.me.vec.regSynd = [] then s
  else
    match q.op with
    | .cmp _ _ d .. | .rnschk d .. => s.cleanWords (s.me.wholeMask q d.toNat q.first)
    | op =>
      if !vtTail q.vt then s
      else
        let p := q.perWord
        let n := match op with | .red .. => 1 | _ => q.vl
        let met := decide (n % p ≠ 0) && decide (q.first ≤ n / p * p)
          && (indices (n / p * p) n).all fun i => opUnmasked op || vtMpol q.vt || s.me.vec.active (opGovern op) i
        let from_ := if met then n / p else (n + p - 1) / p
        s.cleanWords ((opRegs q.op q.vt).dst.toList.flatMap fun (r : Nat × Nat) => (List.range r.2).flatMap fun j =>
          (indices from_ (s.me.capacity 64)).map fun w => storeKey (r.1 + j) w)

/-! ### One step -/

/-- The codeword that the step from `q.next` decodes first, as an entry of the table (07 R221, 09 R283). -/
def State.firstEntry (s : State) (q : QEntry) : Option Nat :=
  let at_ := fun (a : Reg) (k : Nat) => some (s.me.vec.elem 16 a.toNat (k / 8) / 256)
  match q.op with
  | .cbdec _ a _ => at_ a q.next
  | .top op _ a .. => if op ≠ .topr ∧ q.kind = 7 then at_ a (q.next * (s.me.tileSide * rankOf q.kind)) else none
  | _ => none

/-- Report injections aimed at the codebook table and at the operand buffers of recheck (12 R354, R364): the flag says that the
step must not commit. -/
def State.stepInject (s : State) (q : QEntry) : State × Bool :=
  if !bitOf (s.rd (rDinj s.tid.cluster)) 63 then (s, false)
  else
    let r : State × Bool := match s.firstEntry q with
      | some e => s.unitReport 9 (word e)
      | none => (s, false)
    if r.2 then r
    else if !(q.rchk && opRechecked q.op) then r
    else
      match (List.range s.me.lanesWide).find? fun k => (r.1.armed 10 k false).isSome with
      | none => r
      | some k =>
        let unc := bitOf (r.1.rd (rDinj s.tid.cluster)) 60
        let w2 := laneTval k q.next
        let s1 := r.1.fire.logLane true (if unc then 2 else 0) 10 k 0 false 0 w2
        (if unc then s1.logLane true 5 4 k 0 false 0 w2 else s1, unc)

/-- The logical lanes that a step of an entry works in. -/
def QEntry.stepLanes (q : QEntry) (x : Strand) (lo hi : Nat) : List Nat :=
  if opIsMatrix q.op then List.range x.lanesWide else ((indices lo hi).map fun i => x.laneOf q.sew i).eraseDups

/-- A page or a store of the cluster keeps an access of the listed indices waiting, before one that fails: then nothing of the step
performs (06 R207). -/
def State.holds (s : State) (q : QEntry) : List Nat → Bool
  | [] => false
  | i :: is =>
    match firstStop ((q.reqs s.me i).map fun r => (r, s.peekElem q r)) with
    | some (some _) => false
    | some none => true
    | none => State.holds s q is

/-- Events of another strand's vector instruction of order sc stand between what this strand may perform at that order (04 R130). -/
def State.scFree (s : State) : Bool := match s.sys.scRun with | some t => decide (t = s.tid) | none => true

/-- The indices of a list performed in order. Those of an ordered form wait until the element before them has performed at every
scope (04 R124). -/
def State.runOrdered (s : State) (q : QEntry) : List Nat → State × EndRes
  | [] => (s, .ok)
  | i :: is =>
    if s.me.entryOut q.id then (s, .wait i)
    else
      match s.oneIdx q i with
      | .done s1 => State.runOrdered s1 q is
      | .bad s1 f => (s1, .fault f)
      | .wait s1 => (s1, .wait i)
      | .stop s1 => (s1, .stop)

/-- The indices from `q.next` to `hi - 1` of an entry: the words it reads are checked first, then the step's recheck report,
then the elements (12 R350, R355). -/
def State.runStep (s : State) (q : QEntry) (hi : Nat) : State × EndRes :=
  let ir := s.ir
  let s0 := { s with ir := q.raw }
  if (opStores q.op && s0.holds q (indices q.next hi)) || (opIsSc q.op && !s.scFree) then (s, .wait q.next)
  else
    let r0 := s0.laneRead (s0.sourceWords q q.next hi)
    let r1 := if r0.2 then r0 else r0.1.stepInject q
    let r := if !r1.2 && q.rchk && opRechecked q.op then r1.1.recheckReport (q.stepLanes s.me q.next hi) q.next false else r1
    if r.2 then ({ r.1 with ir := ir }, .poison)
    else
      let s1 := if opIsSc q.op then r.1.onSys fun y => { y with scRun := some s.tid } else r.1
      let o := s1.ordered q q.next hi
      let s2 := if o.2 then { s1 with fresh := s1.fresh + 1 } else s1
      match (if opInOrder q.op then s2.runOrdered q o.1 else s2.runList q o.1) with
      | (s3, .ok) => ({ s3.clearWritten q q.next hi with ir := ir }, .ok)
      | (s3, e) => ({ s3 with ir := ir }, e)

/-- What a fence waits for has performed: for FENCE.SV the scalar accesses before it, for FENCE.VV and for an operation that releases
the vector memory instructions before it (03 R108, 04 R127, R134). -/
def QEntry.inOrder (q : QEntry) (x : Strand) : Bool :=
  match q.op with
  | .fence false sc => x.performedBefore sc q.id
  | op => match opReleases op with | some sc => x.vectorPerformedBefore sc q.id | none => true

/-- A whole entry at once. A CBLOAD goes through 64 doublewords, whatever VL is (DESIGN CHOICE, log 75). -/
def State.wholeEntry (s : State) (q : QEntry) : State × EndRes :=
  let ir := s.ir
  let s0 := { s with ir := q.raw }
  match q.op with
  | .cbload =>
    if 64 ≤ q.first then (s, .ok)
    else
      (match s0.cbloadAll q with
       | .done s1 | .stop s1 => ({ s1 with ir := ir }, .ok)
       | .bad s1 f => ({ s1 with ir := ir }, .fault f)
       | .wait s1 => ({ s1 with ir := ir }, .wait q.next))
  | .fence .. => if q.inOrder s.me then (s, .ok) else (s, .wait q.next)
  | .barv k _ => if q.inOrder s.me then (s.barrierArrive s.tid.cluster k.toNat, .ok) else (s, .wait q.next)
  | _ =>
    -- Without an element to work on nothing is read and nothing is written but a scalar result (01 R23).
    if decide (q.vl ≤ q.first) && (match q.op with | .get .. => false | _ => true) then ({ s0.wholeOp q with ir := ir }, .ok)
    else
    let r0 := s0.laneRead (s0.sourceWords q 0 q.vl)
    let r1 := if r0.2 then r0 else r0.1.stepInject q
    let r := if !r1.2 && q.rchk then r1.1.recheckReport (q.stepLanes s.me 0 q.vl) 0 true else r1
    if r.2 then ({ r.1 with ir := ir }, .poison)
    else ({ ((r.1.wholeOp q).clearWritten q 0 q.vl).clearTail q with ir := ir }, .ok)

end Sys2Proof.Machine
end

