-- ==== Sys2Proof/Machine/Sequencer.lean ====
section
/-! DEFINITION. The chaining sequencer and the run of the vector queue (05 R156, R157, 06 R196 to R199): which steps may run,
completion, queued traps (04 R143, R145), the beginning of a save (06 R207, R208), and the steps that a queue can take next. -/

namespace Sys2Proof.Machine

open Sys2Proof

/-! ### Which steps may run (06 R197, R198, 10 R300, 11 R327) -/

/-- Entry `b` need not wait until the older entry `a` has left the queue because of what they are (03 R108, 04 R127, R134, 09 R284).
Fences and arrivals keep the queue's order among themselves. -/
def kindsAllow (a b : VOp) : Bool :=
  if decide (a = .cbload) || decide (b = .cbload) then false
  else
    match a, b with
    | .fence .., _ => !opIsMem b && !opIsBarv b
    | _, .fence vv _ => !vv || (!opIsMem a && !opIsBarv a)
    | _, .barv .. => !opIsMem a && !opIsBarv a
    | _, _ => !opIsMem a || !opIsMem b || ((opAcquires a).isNone && (opReleases b).isNone)

/-- Entry `b` may run its indices below `hi` as far as its registers go: it meets none of `a`'s, or chains on it. A masked
instruction does not chain, nor does one that commits whole (06 R197 to R199). What `b` reads is ready when `a` has written it, and
their widths are equal; over what it writes it follows `a` slot by slot. -/
def regsAllow (x : Strand) (a b : QEntry) (hi : Nat) : Bool :=
  let wa := opWrites a.op a.vt
  let wb := opWrites b.op b.vt
  let plain := fun (o : VOp) => !opIsWhole o && !opIsMatrix o && !opReshapes o && decide (opGovern o = 0)
  let chains := plain a.op && plain b.op && decide (hi * b.sew ≤ a.landed x * a.sew)
  (!anyMeet wa (opReads b.op b.vt) || (chains && decide (a.sew = b.sew)))
    && (!(anyMeet (opReads a.op a.vt) wb || anyMeet wa wb) || chains)

/-- Matrix instructions that share the engine or a tile: an outer product starts when the one before it has started its last K-step;
any other instruction on a tile waits for every older one (10 R300). -/
def tilesAllow (x : Strand) (a b : QEntry) : Bool :=
  if opIsTop a.op && opIsTop b.op then decide (a.total x ≤ a.started)
  else !((opTile a.op).isSome && decide (opTile a.op = opTile b.op))

/-- Memory instructions whose elements touch a common byte perform in queue order (04 R125): indices `lo` to `hi - 1` of `b` touch
nothing that `a` has still to access, or both only read. The addresses of `a` must be known: no entry of `older` is still to write the
registers that they depend on. -/
def State.memAllows (s : State) (older : List QEntry) (a b : QEntry) (lo hi : Nat) : Bool :=
  !opIsMem a.op || !opIsMem b.op || (opLoads a.op && opLoads b.op)
    || ((older.all fun c => !anyMeet (opWrites c.op c.vt) (opAddrReads a.op a.vt))
        && !(s.spansIn a a.next (a.total s.me)).any fun p => (s.spansIn b lo hi).any fun r => spanMeets p r)

/-- Entry number `n`, which is `b`, may run its indices below `hi` beside a register slot of the stream engine (11 R327). -/
def slotAllows (sl : Slot) (n : Nat) (b : QEntry) (hi : Nat) : Bool :=
  if !decide (sl.phase = .busy) || decide (n < sl.ahead) then true
  else
    let v : RegRun := (0, sl.d.toNat, 1)
    let reads := (opReads b.op b.vt).any fun r => runsMeet r v
    let writes := (opWrites b.op b.vt).any fun r => runsMeet r v
    let past := !opIsWhole b.op && !opIsMatrix b.op && !opReshapes b.op && decide (hi * b.sew ≤ sl.count * vtSew sl.vt)
    match sl.form with
    | .ldv => !writes && (!reads || past)
    | .stv => !writes || past
    | _ => true

/-- The entry issued behind a scalar access whose data is out: it starts nothing, since a fault of that access is precise (03 R88). -/
def Strand.behindPend (x : Strand) (b : QEntry) : Bool := x.pend.any fun p => decide (p.owner = .scalar) && decide (p.id ≤ b.id)

/-- Entry number `n` of the queue, which is `b`, may run its indices `lo` to `hi - 1`. -/
def State.mayRun (s : State) (n : Nat) (b : QEntry) (lo hi : Nat) : Bool :=
  b.inOrder s.me && !s.me.behindPend b
    && ((List.range n).all fun k => match s.me.queue[k]? with
        | some a => kindsAllow a.op b.op && regsAllow s.me a b hi && tilesAllow s.me a b
            && s.memAllows (s.me.queue.take k) a b lo hi
        | none => true)
    && s.me.slots.toList.all fun sl => slotAllows sl n b hi

/-- Every older outer product into the tile of entry `n` has committed all its K-steps: each cell receives them in queue order
(10 R300). -/
def Strand.tileTurn (x : Strand) (n : Nat) (b : QEntry) : Bool :=
  !opIsTop b.op || (x.queue.take n).all fun a => !opIsTop a.op || !decide (opTile a.op = opTile b.op) || decide (a.total x ≤ a.next)

/-- What an acquiring instruction read or wrote has performed at its scope, so that it can complete (04 R127). -/
def QEntry.canComplete (q : QEntry) (x : Strand) : Bool :=
  match opAcquires q.op with
  | some sc =>
    (!decide (sc = .sy) || !x.posted.any fun p => decide (p.own = .vector q.id))
      && (nearScope sc || !x.seen.any fun r => r.vec && decide (r.at_ = q.id))
  | none => true

/-- The storage of a spare lane of the strand's lane groups is being filled: they start no slot step (12 R361). -/
def State.laneCopying (s : State) : Bool := s.me.vec.lanes.any fun p => (s.cluster s.tid.cluster).copying.getLsbD p

/-! ### Completion and the queue's own changes -/

/-- Entry `n` replaced. -/
def State.setEntry (s : State) (n : Nat) (q : QEntry) : State := s.onMe fun x => { x with queue := x.queue.set n q }

/-- An entry becomes the head of the queue: a fault that it found behind the head is found again, and taken (04 R143). -/
def QEntry.toHead (q : QEntry) : QEntry := if q.fault.isSome then { q.giveUp q.next with fault := none } else q

/-- Entry `n` completes: the tail of an element-wise instruction, the guard weight of a conversion, its acquire, and it
leaves the queue (05 R157, 08 R241). -/
def State.completeEntry (s : State) (n : Nat) (q : QEntry) : State :=
  let s1 :=
    if opIsWhole q.op then s
    else if opIsMatrix q.op then s.matFinish q
    else (s.onVec fun v => v.finish s.me q).clearTail q
  let s2 := match opAcquires q.op with
    | some sc => s1.acquire s1.tid.cluster sc
    | none => s1
  let s3 := s2.onMe fun x =>
    { x.clearElems q.id with
      queue := if n = 0 then (x.queue.drop 1).modify 0 QEntry.toHead else x.queue.eraseIdx n
      slots := x.slots.map fun (sl : Slot) => if n < sl.ahead then { sl with ahead := sl.ahead - 1 } else sl }
  if opIsSc q.op then s3.scDone s3.tid else s3

/-- A free value for each listed element of a register group (04 R145, log 12). -/
def Vec.undefElems (v : Vec) (n sew d g : Nat) (is : List Nat) : Vec :=
  is.foldl (fun (v : Vec) i => (List.range g).foldl (fun (v : Vec) j =>
    v.setElem sew (d + j) i (Config.undefinedWord n (65536 * j + i)).toNat) v) v

/-- The destination of a load that traps at element `k`: undefined from there on (04 R145, 10 R315). The guard of a tile whose cells
are undefined cannot hold (10 R304). -/
def State.undefine (s : State) (q : QEntry) (k : Nat) : State :=
  let s1 := { s with fresh := s.fresh + 1 }
  match q.op with
  | .load f d _ b m _ _ =>
    s1.onVec fun v =>
      let v1 := v.undefElems s.fresh q.sew d.toNat q.group ((indices k q.vl).filter fun i => v.active m.toNat i)
      if f = .vld ∧ b ≠ 0 then
        (wordRange k q.vl (64 / q.sew)).foldl (fun (v : Vec) u =>
          match lowestActive q v m.toNat (64 / q.sew) u with
          | some i => if k ≤ i then
              (v.setScale d.toNat u 0 (Config.undefinedWord s.fresh (2 ^ 24 + u)).toNat).setScale d.toNat u 1
                (Config.undefinedWord s.fresh (2 ^ 25 + u)).toNat
            else v
          | none => v) v1
      else v1
  | .tldrow d x =>
    s1.onVec fun v =>
      ((List.range (q.ec s.me.tileSide)).foldl (fun (v : Vec) j =>
        v.setCell d.toNat (x.toNat + k) j (Config.undefinedWord s.fresh j)) v).setWeight d.toNat (2 ^ 64 - 1)
  | _ => s

/-- An entry whose step waits at index `i`: what DRAM holds of it has left the cluster (14 R421). -/
def State.waitsAt (s : State) (q : QEntry) (i : Nat) : QEntry :=
  { q with
    next := i, started := max q.started (q.stepEnd s.me i)
    left := q.left.or (if s.dramWaits q (q.reqs s.me i) then some (s.cluster s.tid.cluster).gen else none) }

/-- The step is rechecked: it commits only after its executions agree (12 R347, R348). -/
def QEntry.rechecks (q : QEntry) : Bool := q.rchk && opRechecked q.op

/-- How the next step of a younger entry ends. -/
inductive Younger
  /-- It has committed, or the entry has completed. -/
  | went (s : State)
  /-- Its operands have been produced, and it waits for memory; what it needs has been asked for. -/
  | waits (s : State)
  /-- It cannot run, or raises a fault. -/
  | stops

/-- The next step of a younger entry: it commits when its operands have been produced and it raises no fault (step 2 of 04 R143). Where
steps run on their own, those that are rechecked have run before (12 R353). -/
def State.tryYounger (s : State) (n : Nat) : Younger :=
  match s.me.queue[n]? with
  | none => .stops
  | some q =>
    if !s.eager && q.rechecks && decide (q.next < q.total s.me) then .stops
    else if opIsWhole q.op then
      (if s.mayRun n q q.first (q.total s.me) then
        (match s.wholeEntry q with
         | (s1, .ok) => .went (s1.completeEntry n q)
         | (s1, .wait _) => .waits s1
         | _ => .stops)
       else .stops)
    else if q.total s.me ≤ q.next then (if q.canComplete s.me then .went (s.completeEntry n q) else .stops)
    else
      let hi := q.stepEnd s.me q.next
      if s.mayRun n q q.next hi && s.me.tileTurn n q then
        (match s.runStep q hi with
         | (s1, .ok) => .went (s1.setEntry n { q with next := hi, started := max hi q.started, left := none })
         | (s1, .wait i) => .waits (s1.setEntry n (s1.waitsAt q i))
         | _ => .stops)
      else .stops

/-- A younger entry as far as it can run; a completed one has left the queue. The flag says that it waits for memory. -/
def State.runYounger (s : State) (n len : Nat) : Nat → State × Bool
  | 0 => (s, false)
  | fuel + 1 =>
    match s.tryYounger n with
    | .went s1 => if s1.me.queue.length < len then (s1, false) else State.runYounger s1 n len fuel
    | .waits s1 => (s1, true)
    | .stops => (s, false)

/-- Every entry behind the head as far as it can run, in order: positions from `n`, `k` of them. The flag says that one waits for
memory. -/
def State.runYoungers (s : State) (n : Nat) : Nat → State × Bool
  | 0 => (s, false)
  | k + 1 =>
    let len := s.me.queue.length
    let fuel := match s.me.queue[n]? with | some q => q.total s.me + 2 | none => 0
    let r := s.runYounger n len fuel
    let t := State.runYoungers r.1 (if r.1.me.queue.length < len then n else n + 1) k
    (t.1, r.2 || t.2)

/-- An entry stopped at the chaining interlock: steps that have not committed are given up, and a fault is found again (04 R143). -/
def QEntry.stopped (q : QEntry) : QEntry := { q.giveUp q.next with fault := none, recheck := [] }

/-- The queue of a strand at the interlock. -/
def Strand.stopQueue (x : Strand) : Strand :=
  let y := x.queue.foldl (fun (x : Strand) q => x.dropElems q.id) x
  { y with queue := x.queue.map QEntry.stopped }

/-- A save of the strand has begun. -/
def Strand.isSaving (x : Strand) : Bool := match x.run with | .saving _ => true | _ => false

/-- A grant form that waits with its lane groups lets them go: it will issue afresh (04 R143, 06 R191). DESIGN CHOICE: the mark that it
has consumed is not put back, so that it runs Allocate unmarked (log 47). -/
def State.dropGrant (s : State) (t : Tid) : State :=
  if (s.strand t).grant.isSome then (s.onStrand t fun x => { x with grant := none }).assignLanes t.cluster none else s

/-- The head entry traps (04 R143, R145). None of the elements of a store from the trapping one on has performed (log 76). -/
def State.trapHead (s : State) (q : QEntry) (f : QFault) : State :=
  let s1 := (s.setEntry 0 { q.giveUp f.at_ with next := f.at_, fault := none }).undefine q f.at_
  (((s1.onMe Strand.stopQueue).scDone s.tid).dropGrant s.tid).takeQueuedTrap s.tid f

/-- The head entry, which has found a fault, traps once every step behind it whose operands have been produced has committed
(step 2 of 04 R143). Once a save has begun no further step starts (06 R207). -/
def State.trapOrWait (s : State) (q : QEntry) (f : QFault) : State :=
  if s.me.isSaving then s.trapHead q f
  else
    let r := s.runYoungers 1 (s.me.queue.length - 1)
    if r.2 then r.1 else r.1.trapHead q f

/-! ### What can happen next -/

/-- The queue of the strand executes (04 R144, 05 R179). -/
def Strand.queueRuns (x : Strand) : Bool :=
  decide (x.ctl.priv = .app) && !x.held &&
    match x.run with
    | .running | .parked _ | .exiting => true
    | _ => false

/-- Steps of the queue that have started may commit: after a save has begun, too (06 R207). -/
def Strand.queueCommits (x : Strand) : Bool := x.queueRuns || (decide (x.ctl.priv = .app) && x.isSaving)

/-- A whole entry that the sequencer has not started. -/
def QEntry.idle (q : QEntry) (x : Strand) : Bool := decide (q.started < max 1 (q.total x))

/-- One above the last index of the step that starts next. -/
def QEntry.startEnd (q : QEntry) (x : Strand) : Nat :=
  if opIsWhole q.op then max 1 (q.total x) else q.stepEnd x q.started

/-- Entries of the recheck queue that a strand holds (12 R348): a whole instruction runs again in full and holds none. -/
def Strand.rechecksHeld (x : Strand) : Nat :=
  x.queue.foldl (fun n q => if opIsWhole q.op then n else n + q.recheck.length) 0

/-- The recheck queue has room for one more step of the strand in focus (12 R348). -/
def State.recheckRoom (s : State) : Bool :=
  decide (s.me.rechecksHeld < 16)
    && decide ((s.clusterTids s.tid.cluster).foldl (fun n t => n + (s.strand t).rechecksHeld) 0 < 64)

/-- Entry `n` of the strand in focus may start a slot step (06 R197). -/
def State.canStart (s : State) (n : Nat) : Bool :=
  match s.me.queue[n]? with
  | none => false
  | some q =>
    s.me.queueRuns && q.handed && q.fault.isNone && !opIsBarv q.op && !s.laneCopying
      && (!q.rechecks || opIsWhole q.op || s.recheckRoom)
      && (if opIsWhole q.op then q.idle s.me && s.mayRun n q q.first (q.total s.me)
          else decide (q.started < q.total s.me) && s.mayRun n q q.started (q.stepEnd s.me q.started))

/-- Entry `n` has a step that has started and not committed, or nothing left to do. A rechecked step commits by its vote. -/
def Strand.canCommit (x : Strand) (n : Nat) : Bool :=
  match x.queue[n]? with
  | none => false
  | some q =>
    x.queueCommits && q.fault.isNone && !opIsBarv q.op
      && !(x.pend.any fun p => p.ofEntry q.id && p.fail.isNone && !p.parts.isEmpty)
      && (if opIsWhole q.op then !q.idle x && !q.rechecks && !x.isSaving
          else if q.total x ≤ q.next then (q.handed || x.isSaving) && q.canComplete x
          else decide (q.next < q.started) && !q.rechecks && x.tileTurn n q && !(opInOrder q.op && x.entryOut q.id))

/-- When the first executions of the strand's steps that wait for their second ones started: a whole entry has none that another's must
wait for. -/
def Strand.firstExecs (x : Strand) : List Nat :=
  x.queue.flatMap fun q => (q.recheck.filter fun (r : RStep) => decide (r.runs = 1)).map RStep.at_

/-- The first step of entry `n` that waits for its second execution may take it: the second executions follow the order of the first
(12 R348). -/
def Strand.canRecheck (x : Strand) (n : Nat) : Bool :=
  match x.queue[n]? with
  | none => false
  | some q =>
    x.queueCommits && x.tileTurn n q
      && (match q.recheck.find? fun (r : RStep) => decide (r.runs = 1) with
          | some r => x.firstExecs.all fun k => decide (r.at_ ≤ k)
          | none => false)

/-- The arrival of entry `n`, a BARV, may count (04 R134). -/
def State.canArrive (s : State) (n : Nat) : Bool :=
  match s.me.queue[n]? with
  | some q => s.me.queueRuns && opIsBarv q.op && s.mayRun n q 0 0
  | none => false

/-- The comparison, vote or rollback that the first step of entry `n` waits for, with results that agree (12 R349 to R351). -/
def Strand.checks (x : Strand) (t : Tid) (n : Nat) : List Event :=
  if !x.queueCommits then []
  else
    match x.queue[n]?.bind fun q => q.recheck.head? with
    | some r =>
      if r.runs = 2 then [.recheckCompare t n []]
      else if r.runs = 3 then [.recheckVote t n r.bad []]
      else if 4 ≤ r.runs then [.recheckRollback t n r.split true]
      else []
    | none => []

/-- What entry `n` of the strand in focus can do next. -/
def State.nextOf (s : State) (n : Nat) : List Event :=
  if n = 0 ∧ (s.me.queue.head?.bind QEntry.fault).isSome = true then (if s.me.queueRuns then [.queuedTrap s.tid] else [])
  else
    (if s.me.canCommit n then [.slotStepCommit s.tid n] else [])
      ++ (if s.me.canRecheck n then [.recheckSecondExecution s.tid n] else [])
      ++ (if s.canStart n then [.slotStepStart s.tid n] else if s.canArrive n then [.barvArrival s.tid n] else [])
      ++ s.me.checks s.tid n

/-- The steps that the queue of the strand in focus can take next and that are not due already. -/
def State.queueEvents (s : State) : List Event :=
  ((List.range s.me.queue.length).flatMap s.nextOf).filter fun e => !s.agenda.elem e

/-- `f` applied with context `t` in focus. -/
def State.within (s : State) (t : Tid) (f : State → State) : State := (f (s.focus t)).focus s.tid

/-! ### Saves -/

/-- The wait that a save interrupts and a resume takes up again (01 R36, R38). -/
def Strand.parkKept (x : Strand) : Option Park :=
  match x.run with
  | .parked .relocate => none
  | .parked p => some p
  | .firmwareCall => some .firmwareCall
  | .stopped => some .stopped
  | _ => x.park

/-- The element from which a saved entry goes on: an entry that commits whole goes back to its first, and a load to the first element of
the step that has not landed (06 R207). -/
def QEntry.saved (q : QEntry) (x : Strand) : Nat :=
  if opIsWhole q.op then q.first
  else if opLoads q.op && decide (q.next < q.total x) then q.stepFirst x q.next
  else q.next

/-- An entry as a save begins: a load step that has not landed and an entry that commits whole are given up; other started steps run
to their commit (06 R207). Above application level, where the entries are held (04 R144), every step that has not committed is. -/
def QEntry.suspended (q : QEntry) (x : Strand) : QEntry :=
  if !decide (x.ctl.priv = .app) then { q.giveUp (q.saved x) with next := q.saved x, recheck := [] }
  else if q.fault.isSome then q
  else if opIsWhole q.op then { q.giveUp q.first with next := q.first, recheck := [] }
  else if opLoads q.op then { q.giveUp (q.saved x) with next := q.saved x }
  else q

/-- The strand as a save begins. Data of a load that arrives later is discarded; an atomic that has been sent runs on. -/
def Strand.startSave (x : Strand) (w : Why) : Strand :=
  let y := x.queue.foldl (fun (x : Strand) q => x.dropElems q.id) x
  { y with
    park := x.parkKept
    run := .saving w
    grant := none
    slots := x.slots.map fun (sl : Slot) => if sl.form = .ldv then { sl with buf := [] } else sl
    queue := x.queue.map fun q => q.suspended x }

/-- A save begins (01 R35, 06 R207, R208): issue stops, no step starts, and those that have started run to their commit. -/
def State.beginSave (s : State) (t : Tid) (w : Why) : State :=
  let s1 := ((((s.leaveWaiting t).scDone t).dropGrant t).onStrand t fun x => x.startSave w).push (.saveComplete t)
  s1.pushAll (s1.focus t).queueEvents

/-- The strand in focus is saved and held until firmware releases it (12 R351, R355). -/
def State.saveHeld (s : State) : State :=
  let s1 := s.onMe fun x => { x with held := true }
  if s.me.isSaving then s1 else s1.beginSave s.tid .preempt

/-! ### The commit of a step -/

/-- Entry `n` of the strand in focus after a run of indices up to `hi`. -/
def State.settle (s : State) (n : Nat) (q : QEntry) (hi : Nat) (r : EndRes) : State :=
  let upTo := fun (i : Nat) => ({ q with next := i, started := max i q.started, left := none } : QEntry)
  let end_ := fun (i : Nat) =>
    if opIsWhole q.op then s.completeEntry n q
    else if q.total s.me ≤ i && (upTo i).canComplete s.me then s.completeEntry n (upTo i)
    else s.setEntry n (upTo i)
  match r with
  | .ok => end_ hi
  | .stop => end_ (q.total s.me)
  | .wait i =>
    -- A step that waits as its strand is saved is given up, unless something of it has performed or been sent (06 R207).
    if s.me.isSaving && decide (i = q.stepFirst s.me i) && !(s.me.entryOut q.id || s.me.pend.any fun p => p.ofEntry q.id) then
      s.setEntry n { q.giveUp i with next := i }
    else s.setEntry n { s.waitsAt q i with started := q.started }
  | .fault f =>
    (fun (t : State) => if opIsSc q.op then t.scDone t.tid else t)
      (s.setEntry n { q.giveUp f.at_ with next := f.at_, fault := some f, recheck := [] })
  | .poison => (s.setEntry n { q.giveUp q.next with recheck := [] }).saveHeld

/-- Entry `n` after a run from `before` that ended in `r`: a step behind the head that raises a fault commits nothing, and finds it
again at the head (04 R143, 06 R207). -/
def State.settleStep (before s : State) (n : Nat) (q : QEntry) (hi : Nat) (r : EndRes) : State :=
  match r with
  | .fault f =>
    if n = 0 then s.settle n q hi r
    else
      let t := before.setEntry n { q.giveUp q.next with fault := some f, recheck := [] }
      if opIsSc q.op then t.scDone t.tid else t
  | r => s.settle n q hi r

/-- Entry `n` of the strand in focus commits the step that its next index lies in. -/
def State.commitStep (s : State) (n : Nat) (q : QEntry) : State :=
  if opIsWhole q.op then
    (let r := s.wholeEntry q
     s.settleStep r.1 n q (q.total s.me) r.2)
  else if q.total s.me ≤ q.next then s.completeEntry n q
  else
    let hi := min q.started (q.stepEnd s.me q.next)
    let r := s.runStep q hi
    s.settleStep r.1 n q hi r.2

/-! ### The run of the queue in a state that completes issued work in its issue step (log 10) -/

/-- The steps of the head entry until it is done or stops. -/
def State.runSteps (s : State) (q : QEntry) : Nat → State × QEntry × EndRes
  | 0 => (s, q, .ok)
  | n + 1 =>
    if q.total s.me ≤ q.next then (s, q, .ok)
    else
      let one := q.stepEnd s.me q.next
      let hi := if opUnordered q.op && s.mayRun 0 q q.next (q.total s.me) then q.total s.me else one
      if !s.mayRun 0 q q.next hi then (s, q, .wait q.next)
      else
        match s.runStep q hi with
        | (s1, .ok) => State.runSteps s1 { q with next := hi, started := max hi q.started, left := none } n
        | (s1, .fault f) => (s1, { q.giveUp f.at_ with next := f.at_ }, .fault f)
        | (s1, .wait i) => (s1, s1.waitsAt q i, .wait i)
        | (s1, .stop) => (s1, { q with next := q.total s.me }, .ok)
        | (s1, .poison) => (s1, q.giveUp q.next, .poison)

/-- The head entry runs; the flag says that it has completed. -/
def State.pumpHead (s : State) : State × Bool :=
  match s.me.queue with
  | [] => (s, false)
  | q :: _ =>
    match q.fault with
    | some f => if s.me.waits then (s, false) else (s.trapOrWait q f, false)
    | none =>
      let r : State × QEntry × EndRes :=
        if opIsWhole q.op then
          (if s.mayRun 0 q q.first (q.total s.me) then
            (let w := s.wholeEntry q
             (w.1, q, w.2))
           else (s, q, .wait q.next))
        else s.runSteps q (q.total s.me - q.next)
      match r with
      | (s1, q1, .ok) | (s1, q1, .stop) =>
        let s2 := s1.setEntry 0 q1
        if opIsWhole q1.op || q1.canComplete s2.me then (s2.completeEntry 0 q1, true) else (s2, false)
      | (s1, q1, .wait _) => (s1.setEntry 0 q1, false)
      | (s1, q1, .fault f) =>
        let q2 := { q1 with fault := some f }
        let s2 := s1.setEntry 0 q2
        if s2.me.waits then (s2, false) else (s2.trapOrWait q2 f, false)
      | (s1, q1, .poison) => ((s1.setEntry 0 q1).saveHeld, false)

/-- The queue of the strand in focus runs until an entry stops. -/
def State.pumpMe (s : State) : Nat → State
  | 0 => s
  | n + 1 =>
    if !s.me.queueRuns || s.laneCopying then s
    else
      match s.pumpHead with
      | (s1, true) => State.pumpMe s1 n
      | (s1, false) => s1

/-! ### What the progress of a strand makes due -/

/-- Every access of the strand has performed at system scope (03 R116). -/
def Strand.quiet (x : Strand) : Bool :=
  x.queue.isEmpty && x.performedAt .sy && x.vectorPerformedAt .sy
    && x.pend.all fun p => match p.owner with | .slot .. => true | _ => false

/-- Every scalar and vector access that issued before number `n` has performed at system scope (03 R115). -/
def Strand.quietBefore (x : Strand) (n : Nat) : Bool :=
  (x.queue.all fun q => decide (n ≤ q.id)) && (x.pend.all fun p => !decide (p.owner = .scalar) || decide (n ≤ p.id))
    && x.performedBefore .sy n && x.vectorPerformedBefore .sy n

/-- The trigger mark may count: TRIGGER has issued and the accesses before it have performed (03 R115). -/
def Strand.triggerDue (x : Strand) : Bool := x.trigIssued && !x.trigCounted && x.quietBefore x.trigAt

/-- The narrowest scope that contains two cores (05 R174). -/
def scopeOf (t u : Tid) : Scope :=
  if t.core = u.core then .co else if t.cluster = u.cluster then .cl else if t.die = u.die then .di else .pk

/-- The oldest SEND that waits may go: earlier scalar accesses have performed at its scope (05 R172, R174). -/
def Strand.sendReady (x : Strand) (t : Tid) : Bool :=
  match x.sends with
  | [] => false
  | m :: _ => x.performedAt (scopeOf t (BitVec.ofNat 13 (fld m.1 0 13))) && !x.waits

/-- A stream slot is BUSY. -/
def Strand.slotBusy (x : Strand) : Bool := x.slots.toList.any fun sl => decide (sl.phase = .busy)

/-- The waits of an EXIT are over (03 R116). -/
def Strand.exitDue (x : Strand) : Bool :=
  decide (x.run = .exiting) && x.quiet && x.posted.isEmpty && x.sends.isEmpty && !x.slotBusy

/-- The follow-up steps that the strand's progress makes due: a trigger mark, the end of an EXIT, a message held for its
release (03 R115, R116, 05 R172). -/
def State.nudge (s : State) (t : Tid) : State :=
  let x := s.strand t
  let a := if x.triggerDue then s.push (.triggerMarkCount t) else s
  let b := if x.sendReady t then a.push (.sendDepart t) else a
  if x.exitDue then b.push (.exitFinish t)
  else if (x.slots.toList.any fun sl => decide (sl.phase = .busy) && !sl.ended)
      && !(b.agenda.any fun e => decide (e = .streamUnit (BitVec.ofNat 7 t.cluster))) then
    b.push (.streamUnit (BitVec.ofNat 7 t.cluster))
  else b

/-- The queue of the strand in focus runs in a state that completes issued work in its issue step (log 10). -/
def State.pumpFocus (s : State) : State :=
  if s.eager && !s.me.queue.isEmpty then (s.pumpMe 9).nudge s.tid else s

/-- The queue of context `t` runs in such a state. -/
def State.pump (s : State) (t : Tid) : State := s.within t fun s => s.pumpFocus

/-- Every strand's queue runs, after something that accesses may wait for has happened. -/
def State.pumpAll (s : State) : State := s.boundTids.foldl (fun (s : State) t => s.pump t) s

/-- The queue of a context goes on: at once, or by the steps that its entries can take next (log 10). -/
def State.resumeQueue (s : State) (t : Tid) : State :=
  if s.eager && !(s.strand t).isSaving then s.pump t else (s.pushAll (s.focus t).queueEvents).nudge t

/-- A save that waits for what has just happened goes on. -/
def State.resumeSave (s : State) (t : Tid) : State := if (s.strand t).isSaving then s.push (.saveComplete t) else s

/-- What context `t` waited for has happened: its queue, its follow-up steps and a save of it go on. -/
def State.goOn (s : State) (t : Tid) : State := ((s.resumeQueue t).nudge t).resumeSave t

end Sys2Proof.Machine
end

