-- ==== Sys2Proof/Machine/Alloc.lean ====
section
/-! DEFINITION. The grant forms (06 R191 to R193, R205), VTYPE (06 R195) and the matrix-mode instructions of the scalar stream
(10 R293, R294, R297). -/

namespace Sys2Proof.Machine

open Sys2Proof

/-- Allocate(want) for the strand in focus; none when it must wait (06 R192). -/
def State.allocate (s : State) (want : Nat) : Option Nat :=
  let c := s.tid.cluster
  let x := s.me
  let g := x.vec.lanes.length
  let q := s.room c x.ctl.tenant.toNat
  let n := (s.freeGroups c).length
  match x.mark with
  | some m => some (min want m.target)
  | none =>
    if g = 0 then
      (if q = 0 ∨ n = 0 ∨ s.heldBack c x.ctl.tenant.toNat = true then none else some (min want (min q n)))
    else some (min want (g + (if s.crowded c then 0 else min q n)))

/-- What a grant keeps of the vector context: `w` words of each of the first `n` registers and `e` mask bits (06 R193). -/
def Vec.keep (v : Vec) (n w e : Nat) : Vec :=
  let word := fun (k : Nat) => decide (k / 65536 < n) && decide (k % 65536 < w)
  { v with
    regs := v.regs.filter fun (p : Nat × Word) => word p.1
    masks := v.masks.filter fun (p : Nat × Bool) => decide (p.1 % 2 ^ 20 < e)
    regPoison := v.regPoison.filter fun (p : Nat × Bool) => word p.1 || decide (32 * 65536 ≤ p.1)
    regSynd := v.regSynd.filter fun (p : Nat × Byte) => word p.1 || decide (32 * 65536 ≤ p.1) }

/-- The lane storage as a grant form that changes LG or SHAPE leaves it: the words that it keeps are read as they migrate, those outside
the new context keep their errors where they lie, and the new context's words are written (06 R193, 12 R354). -/
def State.migrate (s : State) (ls : List Nat) (sh : BitVec 6) (kept : Nat → Bool) : State :=
  let inside := fun (m : Bool) (o : Nat) => m || decide (o < 4096 * shapeVrf sh)
  ((s.scrubWords kept).leaveStray fun p m o => !ls.elem p || !inside m o).overwriteStray s.tid.cluster ls inside

/-- The grant of the strand in focus completes with the lane groups `ls` (06 R191, R193). -/
def State.finishGrant (s : State) (z : Bool) (d : Reg) (req : Word) (h : BitVec 5) (ls : List Nat) : State :=
  let x := s.me
  let sh := shapeOf h
  let sew := vtSew x.ctl.vt
  let m := vlmaxAt ls.length sh sew
  let e := min x.ctl.vl.toNat m
  let w := (e * sew + 63) / 64
  let same := decide (ls.length = x.ctl.lg.toNat ∧ sh = x.ctl.shape)
  let none_ := z || decide (x.ctl.lg = 0)
  let n := min (shapeRegs sh) (shapeRegs x.ctl.shape)
  let s1 := if same then s else s.migrate ls sh fun k => !none_ && decide (k % 65536 < w) && decide (k / 65536 < n ∨ 32 ≤ k / 65536)
  let v := if same then x.vec else if none_ then Vec.empty else s1.me.vec.keep n w (w * (64 / sew))
  let vl := min req.toNat m
  State.writeRegV
    { s1 with
      me :=
        { x with
          run := .running, park := none, grant := none
          vec := { v with lanes := ls }
          ctl := { x.ctl with lg := BitVec.ofNat 4 ls.length, shape := sh, vl := BitVec.ofNat 32 vl, sql := false } } }
    4 d (word vl)

/-- The strand in focus gives up its lane groups and vector context (06 R191). -/
def Strand.release (x : Strand) : Strand :=
  { x with
    mark := none, grant := none, vec := Vec.empty
    ctl := { x.ctl with lg := 0, vl := 0, shape := 0, mt := false } }

/-- The strand in focus begins to wait for lane groups (06 R192, 10 R293). -/
def State.waitLanes (s : State) (p : Park) : State :=
  let c := s.tid.cluster
  let n := s.sys.pool
  ((s.noteWait c).onMe fun x => { x with run := .parked p, parkedAt := n, waitAt := n }).onCluster c fun k =>
    { k with waiting := k.waiting ++ [s.tid] }

/-- A class V instruction runs at application level only (04 R144). -/
def State.vecLevel (s : State) : Bool := decide (s.me.ctl.priv = .app)

/-- Lane groups given up by the strand in focus, which holds `ls` now, serve the request of the mark that asked for them first
(06 R201). -/
def State.giveLanes (s : State) (n : Nat) (ls : List Nat) (first : Option Tid) : State :=
  if ls.length < n then s.assignLanes s.tid.cluster first else s

/-- A grant form that has passed Allocate with the lane groups of `k`: it completes, or waits for the queue and the register-bound
slots with its lane groups reserved (06 R191, R194). -/
def State.takeGrant (s : State) (z : Bool) (d : Reg) (req : Word) (h : BitVec 5) (k : GrantHold) : State :=
  let x := s.me
  if k.lanes.length = x.ctl.lg.toNat ∧ shapeOf h = x.ctl.shape then s.finishGrant z d req h x.vec.lanes
  else if !x.queue.isEmpty || x.regSlotBusy then s.onMe fun x => { x with grant := some k }
  else if s.eager then (s.finishGrant z d req h k.lanes).giveLanes x.vec.lanes.length k.lanes k.first
  else
    (s.onMe fun x => { x with run := .granting z d req h k.lanes.length, grant := some k }).push (.grantComplete s.tid)

/-- VGRANT, VGRANT.NB and VGRANT.Z (06 R191): `z` discards, `nb` never waits. Allocate runs once, as the form reaches issue, and
consumes the mark; a later mark acts on the next form (06 R205). -/
def State.grantForm (s : State) (z nb : Bool) (d a : Reg) (h : BitVec 5) : Result :=
  let x := s.me
  let req := s.reg a
  let c := s.tid.cluster
  if h.toNat / 8 = 3 then s.trap s.illegal
  else if !s.vecLevel || (decide (h.toNat % 2 = 1) && !decide (h.toNat / 8 = 2)) || x.ctl.mt
      || (vtScaled x.ctl.vt && decide (h.toNat % 2 = 0)) then s.trap s.badVec
  else if req = 0 then
    (if !x.queue.isEmpty || x.regSlotBusy then .next s
     else
       .next (((((s.leaveStray fun _ _ _ => true).onMe Strand.release).writeRegV 4 d 0).onCtl fun k =>
         { k with sql := false }).assignLanes c x.marksFor))
  else
    match x.grant with
    | some k => .next (s.takeGrant z d req h k)
    | none =>
      match s.allocate (wantOf h x.ctl.vt req) with
      | none =>
        if nb then .next ((s.writeRegV 4 d 0).onCtl fun k => { k with sql := false })
        else .next (s.waitLanes (.grant z d req h))
      | some 0 => .next (s.beginSave s.tid .squall)
      | some g =>
        .next ((s.onMe fun x => { x with mark := none }).takeGrant z d req h ⟨s.chooseLanes c x.vec.lanes g, x.marksFor⟩)

/-- VGRANT (06 R191). -/
def execVgrant (d a : Reg) (h : BitVec 5) (s : State) : Result := s.grantForm false false d a h
/-- VGRANT.NB (06 R191). -/
def execVgrantNb (d a : Reg) (h : BitVec 5) (s : State) : Result := s.grantForm false true d a h
/-- VGRANT.Z (06 R191). -/
def execVgrantZ (d a : Reg) (h : BitVec 5) (s : State) : Result := s.grantForm true false d a h

/-- A VT value is legal (06 R195, 08 R237). -/
def legalVt (x : Word) (sh : BitVec 6) : Bool :=
  decide (fld x 12 52 = 0) && decide (fld x 0 3 ≤ 3) && legalPair (fld x 3 4) (sewBits (fld x 0 3))
    && (!bitOf x 11 || sh.getLsbD 5)

/-- VTYPE (06 R195). -/
def execVtype (d a : Reg) (s : State) : Result :=
  let x := s.reg a
  let c := s.me.ctl
  if !s.vecLevel || decide (c.lg = 0) || !legalVt x c.shape then s.trap s.badVec
  else if vlmaxAt c.lg.toNat c.shape (sewBits (fld x 0 3)) < c.vl.toNat then s.trap s.badVec
  else
    .next ((s.onCtl fun c => { c with vt := x.setWidth 12 }).writeRegV 4 d (c.vl.setWidth 64))

/-! ### Matrix mode (10 R293, R294, R297) -/

/-- No cells, guard weights, or errors of tile storage. -/
def Vec.noTiles (v : Vec) : Vec :=
  { v with
    tiles := [], weights := []
    regPoison := v.regPoison.filter fun (e : Nat × Bool) => decide (e.1 < storeKey 40 0)
    regSynd := v.regSynd.filter fun (e : Nat × Byte) => decide (e.1 < storeKey 40 0) }

/-- MTENTER completes for the strand in focus on the lane groups `ls` (10 R293). -/
def State.finishEnter (s : State) (ls : List Nat) : State :=
  ((s.overwriteStray s.tid.cluster ls fun m o => !m && decide (28672 ≤ o)).onMe fun x =>
    { x with
      run := .running, park := none, grant := none
      vec := { x.vec.noTiles with lanes := ls }
      ctl := { x.ctl with mt := true } }).retire 4 none

/-- MTENTER (10 R293): a gang of four for `g`, else of one. -/
def execMtenter (g : Bool) (s : State) : Result :=
  let x := s.me
  let c := s.tid.cluster
  let n : Nat := if g then 4 else 1
  if !s.vecLevel || decide (x.ctl.lg = 0) then s.trap s.badVec
  else if x.ctl.mt || !decide (x.ctl.lg.toNat = n) || (g && !s.squareWhole c 0 && !s.squareWhole c 2) then s.trap s.badVec
  else if !x.queue.isEmpty || x.regSlotBusy then .next s
  else if !g || onSquare x.vec.lanes then
    (if s.eager then .next (s.finishEnter x.vec.lanes)
     else .next ((s.onMe fun x => { x with run := .entering n }).push (.mtenterComplete s.tid)))
  else
    match s.squareFor c x.vec.lanes with
    | some b =>
      if s.eager then .next ((s.finishEnter (squareOf b)).assignLanes c none)
      else .next ((s.onMe fun x => { x with run := .parked .relocate, parkedAt := s.sys.pool, waitAt := s.sys.pool }).reserve s.tid (squareOf b))
    | none => .next (s.waitLanes .relocate)

/-- Tile disabled (10 R296). -/
def State.tileDisabled (s : State) : Trap := s.encTrap 0x12

/-- MTEXIT (10 R294). -/
def execMtexit (s : State) : Result :=
  if !s.vecLevel || decide (s.me.ctl.lg = 0) then s.trap s.badVec
  else if !s.me.ctl.mt then s.trap s.tileDisabled
  else if !s.me.queue.isEmpty then .next s
  else
    .next ((s.onMe fun x => { x with vec := x.vec.noTiles, ctl := { x.ctl with mt := false } }).retire 4 none)

/-- TEDGE (10 R297). -/
def execTedge (a b : Reg) (s : State) : Result :=
  let r := (s.reg a).toNat
  let c := (s.reg b).toNat
  if !s.vecLevel || decide (s.me.ctl.lg = 0) then s.trap s.badVec
  else if r = 0 ∨ 64 < r ∨ c = 0 ∨ 64 < c then s.trap s.illegal
  else .next ((s.onCtl fun k => { k with trows := BitVec.ofNat 7 r, tcols := BitVec.ofNat 7 c }).retire 4 none)

end Sys2Proof.Machine
end

