-- ==== Sys2Proof/Machine/Stream.lean ====
section
/-! DEFINITION. The stream engine (11 R324 to R339), its instructions VSTREAM, SWAIT and SQUERY, and the instructions of the
scalar stream that fence or wait at a barrier: FENCE.SS, FENCE.VS, BARINIT and BARW (03 R108, 11 R341, R343). -/

namespace Sys2Proof.Machine

open Sys2Proof

/-! ### Slots and completions -/

/-- Slot `q` of a context. -/
def Strand.slot (x : Strand) (q : BitVec 2) : Slot := x.slots[q.toNat]'(q.isLt)

/-- Slot `q` replaced. -/
def Strand.setSlot (x : Strand) (q : BitVec 2) (sl : Slot) : Strand :=
  { x with slots := x.slots.set q.toNat sl q.isLt }

/-- Messages waiting and reservations held on a core: W + V (05 R165). -/
def State.mailUse (s : State) (core : Nat) : Nat :=
  (List.range 4).foldl (fun n i =>
    let x := s.strand (BitVec.ofNat 13 (4 * core + i))
    n + x.msgs.length + x.resv) 0

/-- The header of a completion message (11 R332). -/
def completionHeader (t : Tid) (q : BitVec 2) (sl : Slot) : Word :=
  word (sl.status * 2 ^ 60 + q.toNat * 2 ^ 58 + 2 ^ 40 + t.toNat)

/-- The payload of a completion message (11 R332). -/
def completionPayload (sl : Slot) : Word :=
  word (sl.ffl.toNat * 2 ^ 54 + sl.clip % 2 ^ 22 * 2 ^ 32 + sl.count % 2 ^ 32)

/-- The message is the completion of slot `q`. -/
def Msg.isCompletion (m : Msg) (q : BitVec 2) : Bool :=
  decide (fld m.header 40 2 = 1) && decide (fld m.header 58 2 = q.toNat)

/-- The engine looks again at completions that wait for room in a mailbox of the core (11 R334). -/
def State.wakeMail (s : State) (core : Nat) : State :=
  (List.range 16).foldl (fun (s : State) i =>
    let t : Tid := BitVec.ofNat 13 (4 * core + i / 4)
    let q := BitVec.ofNat 2 i
    let sl := (s.strand t).slot q
    let s1 := if sl.phase = .done ∧ sl.msgDue = true then s.push (.completionMessage t q) else s
    -- A strand whose message block waits for room (05 R176).
    match (s.strand t).run with
    | .restoring _ => if q = 0 ∧ (s.strand t).block.isEmpty = false then s1.push (.restoreComplete t) else s1
    | _ => s1) s

/-- The completion of slot `q` of context `t` is consumed: the slot is FREE and no message of it is left (11 R334). -/
def State.consume (s : State) (t : Tid) (q : BitVec 2) : State :=
  (s.onStrand t fun x =>
    { (x.setSlot q { x.slot q with phase := .free, msgDue := false }) with
      msgs := x.msgs.filter fun m => !m.isCompletion q }).wakeMail t.core

/-! ### Handles and the collective page -/

/-- The generic address of entry `k` of a tenant's handle table, if the table exists (11 R329). -/
def State.handleEntry (s : State) (c tenant k : Nat) : Option Word :=
  let h := s.rd (rHtbase c tenant)
  if bitOf h 0 then some (word (fld h 6 42 * 64 + 64 * k)) else none

/-- A handle value that names an entry which this first word makes stale (11 R329). -/
def handleStale (h : Word) (w0 : Nat) : Bool :=
  !decide (fld h 16 48 = 0) || !w0.testBit 63 || !decide (w0 / 2 ^ 48 % 256 = fld h 8 8)

/-- The offset in a collective page of a global address whose leaf names one (16 R452). -/
def State.collPage (s : State) (a : Agent) (addr : Word) : Option Nat :=
  match windowOf addr with
  | some (.global va) =>
    (match s.leafFor a va with
     | .ok (leaf, big) => (match region (leafPa leaf big va) with | .coll o => some o | _ => none)
     | .error _ => none)
  | _ => none

/-- The leaf of a collective page permits reading and writing (16 R452). -/
def State.collPermits (s : State) (a : Agent) (addr : Word) : Bool :=
  match windowOf addr with
  | some (.global va) =>
    (match s.leafFor a va with
     | .ok (leaf, big) => leafPermits a .eread leaf (leafPa leaf big va) && leafPermits a .ewrite leaf (leafPa leaf big va)
     | .error _ => false)
  | _ => false

/-- Word `k` of a byte list. -/
def wordAt (bs : List Byte) (k : Nat) : Word := word (leNat ((bs.drop (8 * k)).take 8))

/-- Kind and element width of a collective's elements are among the legal types (16 R452). -/
def collType (kind sew en op : Nat) : Bool :=
  (kind ≤ 1 && decide (sew = 64)) || (decide (kind = 2) && decide (32 ≤ sew)) || (decide (kind = 3) && decide (sew = 16))
    || (decide (kind = 8) && decide (sew = 64) && decide (op = 0) && legalEn en)

/-- A collective descriptor is without fault (16 R452). -/
def State.collOk (s : State) (tenant : Nat) (bs : List Byte) : Bool :=
  let w := wordAt bs 0
  let g := s.rd (rFgrpc (fld w 24 8))
  decide (fld w 0 4 ≤ 2) && decide (fld w 10 6 = 0) && decide (fld w 32 32 ≤ 2 ^ 24)
    && collType (fld w 4 4) (sewBits (fld w 8 2)) (fld w 16 8) (fld w 0 4)
    && decide (fld w 24 8 < 64) && bitOf g 63 && decide (fld g 8 5 = tenant)
    && decide (fld (wordAt bs 1) 0 3 = 0) && decide (fld (wordAt bs 2) 0 3 = 0)
    && (bs.drop 32).all fun b => decide (b = 0)

/-! ### Engine accesses -/

/-- The agent of the copy in slot `q` of the strand in focus at element `i`: the engine acts for the application program that issued
it (log 26), with the copy's partition (03 R106); a register copy translates through the TLB of the lane group that holds the element
(13 R389). -/
def State.engineOf (s : State) (q : BitVec 2) (i : Nat) : Agent :=
  let sl := s.me.slot q
  { s.agent with
    app := true, part := sl.part.toNat, src := .slot q.toNat
    lane := match sl.form with
      | .ldv | .stv => s.me.physical (s.me.laneOf (vtSew sl.vt) i / 16)
      | _ => none }

/-- How an engine access ends. -/
inductive EngRes
  /-- Done, with the bytes read. -/
  | ok (bs : List Byte)
  /-- It waits. -/
  | wait
  /-- It waits for a reply that has just been asked for. -/
  | asked
  /-- It fails with this cause. -/
  | bad (cause : Nat)
  deriving DecidableEq, Repr

/-- The outstanding access of item `i` of slot `q`. -/
def Pend.ofItem (q : BitVec 2) (i : Nat) (p : Pend) : Bool := decide (p.owner = .slot q.toNat i)

/-- The accesses of slot `q` that have been answered are done with. -/
def Strand.dropSlot (x : Strand) (q : BitVec 2) : Strand :=
  { x with pend := x.pend.filter fun p => match p.owner with | .slot k _ => !decide (k = q.toNat) | _ => true }

/-- The engine of the strand in focus reads `n` bytes for item `i` of slot `q`; an answered far access stays noted. -/
def State.engLook (s : State) (q : BitVec 2) (i : Nat) (addr : Word) (n : Nat) : State × EngRes :=
  let a := s.engineOf q i
  match s.me.pend.find? (Pend.ofItem q i) with
  | some p =>
    (match p.fail with
     | some c => (s, .bad c)
     | none => if p.parts.isEmpty then (s, .ok p.got) else (s, .wait))
  | none =>
    match s.resolve a .eread addr n with
    | .error f =>
      (match s.failure a addr n f.why with
       | some (s1, c) => (s1, .bad c)
       | none => (s, .wait))
    | .ok parts =>
      let s1 := s.noteAccess a addr (parts.map Prod.snd)
      if parts.any fun p => p.1.far then
        (s1.beginWait a
          { id := s1.fresh, gen := 0, owner := .slot q.toNat i, d := 0, addr := addr, parts := parts, got := [], acc := .load n false, order := .rlx
            scope := .st, tag := none, fail := none, part := (s.me.slot q).part, raw := s.bodyEnc, back := none }, .asked)
      else if s1.behindStores a false parts then (s, .wait)
      else
        match s1.readParts a false addr parts with
        | (s2, .ok bs) => (s2, .ok bs)
        | (s2, .error _) => (s2, .bad 0x0D)

/-- The engine reads `n` bytes for item `i` of slot `q`, once. -/
def State.engRead (s : State) (q : BitVec 2) (i : Nat) (addr : Word) (n : Nat) : State × EngRes :=
  match s.engLook q i addr n with
  | (s1, .ok bs) => (s1.onMe fun x => { x with pend := x.pend.filter fun p => !Pend.ofItem q i p }, .ok bs)
  | r => r

/-- The engine of the strand in focus writes the bytes of item `i` of slot `q`. A current L1 line is updated (11 R321). -/
def State.engWrite (s : State) (q : BitVec 2) (i : Nat) (addr : Word) (bs : List Byte) : State × EngRes :=
  let a := s.engineOf q i
  match s.resolve a .ewrite addr bs.length with
  | .error f =>
    (match s.failure a addr bs.length f.why with
     | some (s1, c) => (s1, .bad c)
     | none => (s, .wait))
  | .ok parts =>
    if parts.any fun p => s.storeWaits a p.1 then (s, .wait)
    else ((s.noteAccess a addr (parts.map Prod.snd)).writeParts a true parts bs, .ok [])

/-- Bytes read one 8-byte word after another; what has been answered stays noted until the caller is done with all of it. -/
def State.engReads (s : State) (q : BitVec 2) (i : Nat) (addr : Word) : Nat → State × EngRes
  | 0 => (s, .ok [])
  | n + 1 =>
    match s.engLook q i addr 8 with
    | (s1, .ok bs) =>
      (match State.engReads s1 q (i + 1) (addr + 8) n with
       | (s2, .ok cs) => (s2, .ok (bs ++ cs))
       | r => r)
    | r => r

/-! ### Which slots can go on -/

/-- The form is register-bound (11 R326). -/
def StreamForm.isReg : StreamForm → Bool
  | .ldv | .stv => true
  | _ => false

/-- Bytes of an element of a register copy. -/
def Slot.width (sl : Slot) : Nat := vtSew sl.vt / 8

/-- Elements of an element group: 16P (06 R188). -/
def Slot.group (sl : Slot) : Nat := 16 * (8 / sl.width)

/-- The element that a register copy is at. -/
def Slot.cursor (sl : Slot) : Nat := sl.count + sl.buf.length / sl.width

/-- One above the last element of the group that element `i` of a register copy lies in. -/
def Slot.groupEnd (sl : Slot) (i : Nat) : Nat := min sl.b.toNat ((i / sl.group + 1) * sl.group)

/-- Some older entry still keeps the slot's register (11 R327). -/
def Slot.kept (sl : Slot) (x : Strand) : Bool :=
  let v : RegRun := (0, sl.d.toNat, 1)
  (x.queue.take sl.ahead).any fun e =>
    let reads := (opReads e.op e.vt).any fun r => runsMeet r v
    let writes := (opWrites e.op e.vt).any fun r => runsMeet r v
    let plain := !(opIsWhole e.op) && !(opIsMatrix e.op) && !(opReshapes e.op) && decide (e.vt.toNat % 8 = sl.vt.toNat % 8)
    match sl.form with
    | .ldv => reads || writes
    | .stv => writes && !(plain && decide (sl.groupEnd sl.count ≤ e.next))
    | _ => false

/-- A store copy stands inside an element group whose values it has taken (06 R207). -/
def Slot.midGroup (sl : Slot) : Bool :=
  decide (sl.phase = .busy) && !sl.ended && decide (sl.form = .stv) && !decide (sl.count % sl.group = 0)

/-- The strand's register-bound copies run in this state (06 R207, R211). -/
def Strand.regCopies (x : Strand) (sl : Slot) : Bool :=
  match x.run with
  | .saving _ => sl.midGroup
  | .suspended _ | .restoring _ | .unbound => false
  | _ => true

/-- The release of the issue is complete: the accesses that the strand issued before have performed at cl (04 R132), at sy
for a collective (16 R454). -/
def Strand.released (x : Strand) (sl : Slot) (sc : Scope) : Bool :=
  (x.queue.take sl.ahead).all (fun e => !opIsMem e.op) && x.performedAt sc && x.vectorPerformedAt sc && !x.waits

/-- The collective of the slot has started: its issue has been released and its descriptor read (16 R452, R454). -/
def Slot.collOn (sl : Slot) : Bool := sl.coll && !sl.box.isEmpty

/-- The engine may move a unit of the slot. -/
def Strand.canMove (x : Strand) (sl : Slot) : Bool :=
  decide (sl.phase = .busy) && !sl.ended && !(sl.collOn && sl.members.isEmpty)
    && (!sl.form.isReg || (x.regCopies sl && !sl.kept x))
    && (!(decide (sl.count = 0) && sl.buf.isEmpty && sl.box.isEmpty) || x.released sl .cl)

/-! ### One unit (11 R326, R328, R331, R338) -/

/-- The slot of the strand in focus changed. -/
def State.onSlot (s : State) (q : BitVec 2) (f : Slot → Slot) : State := s.onMe fun x => x.setSlot q (f (x.slot q))

/-- The copy ends with a status (11 R333): its slot becomes DONE in the step that is now due. -/
def State.endCopy (s : State) (q : BitVec 2) (status : Nat) : State :=
  ((s.onMe fun x => x.dropSlot q).onSlot q fun sl =>
    { sl with status := status, buf := [], members := [], ended := true }).push (.streamCopyDone s.tid q)

/-- The status of a failing element (11 R333). -/
def failStatus (cause : Nat) : Nat := if cause = 0x0D then 2 else 1

/-- Elements landed in the register of a load copy; whole words lose their errors (12 R355). -/
def State.land (s : State) (sl : Slot) (lo : Nat) (bs : List Byte) : State :=
  let w := sl.width
  let n := bs.length / w
  s.onVec fun v =>
    let v1 := (List.range n).foldl (fun (v : Vec) i =>
      v.setElem (8 * w) sl.d.toNat (lo + i) (leNat ((bs.drop (w * i)).take w))) v
    let whole := fun (k : Nat) =>
      decide (65536 * sl.d.toNat + (lo * w + 7) / 8 ≤ k) && decide (k < 65536 * sl.d.toNat + (lo + n) * w / 8)
    { v1 with
      regPoison := v1.regPoison.filter fun (e : Nat × Bool) => !whole e.1
      regSynd := v1.regSynd.filter fun (e : Nat × Byte) => !whole e.1 }

/-- Elements of a load copy from its cursor up to `hi`, as long as they start in the memory block `blk`. -/
def State.loadElems (s : State) (q : BitVec 2) (blk hi : Nat) : Nat → State × EngRes
  | 0 => (s, .ok [])
  | fuel + 1 =>
    let sl := s.me.slot q
    let i := sl.cursor
    let addr := sl.a + word (i * sl.width)
    if hi ≤ i ∨ addr.toNat / 64 ≠ blk then (s, .ok [])
    else
      match s.engRead q i addr sl.width with
      | (s1, .ok bs) => State.loadElems (s1.onSlot q fun sl => { sl with buf := sl.buf ++ bs }) q blk hi fuel
      | r => r

/-- A unit of VSTREAM.LDV: a group lands whole, then COUNT advances (11 R326). -/
def State.ldvUnit (s : State) (q : BitVec 2) : Option State :=
  let sl := s.me.slot q
  let hi := sl.groupEnd sl.count
  let blk := (sl.a + word (sl.cursor * sl.width)).toNat / 64
  match s.loadElems q blk hi 65 with
  | (s1, .ok _) =>
    let t := s1.me.slot q
    if hi ≤ t.cursor then
      let s2 := (s1.land t t.count t.buf).onSlot q fun t => { t with count := hi, buf := [] }
      some (if sl.b.toNat ≤ hi then s2.endCopy q 0 else s2)
    else some s1
  | (s1, .bad c) =>
    let t := s1.me.slot q
    let s2 := s1.land t t.count t.buf
    let s3 := { s2 with fresh := s2.fresh + 1 }
    let s4 := s3.onVec fun v => v.undefElems s2.fresh (8 * t.width) t.d.toNat 1 (indices t.cursor hi)
    some ((s4.onSlot q fun u => { u with count := t.cursor }).endCopy q (failStatus c))
  | (s1, .asked) => some s1
  | (_, .wait) => none

/-- Elements of a store copy from COUNT up to `hi`, as long as they start in the memory block `blk`. -/
def State.storeElems (s : State) (q : BitVec 2) (blk hi : Nat) : Nat → State × EngRes
  | 0 => (s, .ok [])
  | fuel + 1 =>
    let sl := s.me.slot q
    let i := sl.count
    let addr := sl.a + word (i * sl.width)
    if hi ≤ i ∨ addr.toNat / 64 ≠ blk then (s, .ok [])
    else
      let r := s.laneRead [(storeKey sl.d.toNat (i * sl.width / 8), s.me.laneOf (8 * sl.width) i)]
      if r.2 then (r.1, .bad 0x0D)
      else
        match r.1.engWrite q i addr (natLe (r.1.me.vec.elem (8 * sl.width) sl.d.toNat i) sl.width) with
        | (s1, .ok _) => State.storeElems (s1.onSlot q fun sl => { sl with count := i + 1 }) q blk hi fuel
        | z => z

/-- A unit of VSTREAM.STV (11 R326). -/
def State.stvUnit (s : State) (q : BitVec 2) : Option State :=
  let sl := s.me.slot q
  let hi := sl.groupEnd sl.count
  let blk := (sl.a + word (sl.count * sl.width)).toNat / 64
  match s.storeElems q blk hi 65 with
  | (s1, .bad c) => some (s1.endCopy q (failStatus c))
  | (s1, .wait) => if (s1.me.slot q).count = sl.count then none else some s1
  | (s1, _) =>
    let t := s1.me.slot q
    let s2 := if t.count % t.group = 0 ∨ t.b.toNat ≤ t.count then
        (match s1.me.run with | .saving _ => s1.push (.saveComplete s1.tid) | _ => s1)
      else s1
    some (if t.b.toNat ≤ t.count then s2.endCopy q 0 else s2)

/-- Doublewords of an SRAM copy from COUNT upward in the memory block `blk` (11 R328). -/
def State.sramElems (s : State) (q : BitVec 2) (blk : Nat) : Nat → State × EngRes
  | 0 => (s, .ok [])
  | fuel + 1 =>
    let sl := s.me.slot q
    let far := sl.a + word sl.count
    let near := sl.sd + word sl.count
    if sl.b.toNat ≤ sl.count ∨ far.toNat / 64 ≠ blk then (s, .ok [])
    else
      let load := decide (sl.form = .lds)
      match s.engRead q sl.count (if load then far else near) 8 with
      | (s1, .ok bs) =>
        (match s1.engWrite q sl.count (if load then near else far) bs with
         | (s2, .ok _) => State.sramElems (s2.onSlot q fun sl => { sl with count := sl.count + 8 }) q blk fuel
         | r => r)
      | r => r

/-- The descriptor of a collective read from the share and its checks (16 R452). -/
def State.collStart (s : State) (q : BitVec 2) : Option State :=
  let sl := s.me.slot q
  if !s.me.released sl .sy then none
  else
    match s.engReads q 0 sl.sd 8 with
    | (s1, .ok bs) =>
      if s1.collOk s1.me.ctl.tenant.toNat bs then some ((s1.onMe fun x => x.dropSlot q).onSlot q fun sl => { sl with coll := true, box := bs })
      else some (s1.endCopy q 4)
    | (s1, .bad c) => some (s1.endCopy q (failStatus c))
    | (s1, .asked) => some s1
    | (_, .wait) => none

/-- A unit of VSTREAM.LDS or VSTREAM.STS. -/
def State.sramUnit (s : State) (q : BitVec 2) : Option State :=
  let sl := s.me.slot q
  let a := s.engineOf q 0
  if sl.coll = true ∨ (sl.form = .sts ∧ sl.count = 0 ∧ (s.collPage a sl.a).isSome) then
    (if s.collPermits a sl.a then s.collStart q else some (s.endCopy q 1))
  else
    match s.sramElems q ((sl.a + word sl.count).toNat / 64) 9 with
    | (s1, .bad c) => some (s1.endCopy q (failStatus c))
    | (s1, .wait) => if (s1.me.slot q).count = sl.count then none else some s1
    | (s1, .asked) => some s1
    | (s1, .ok _) => some (if sl.b.toNat ≤ (s1.me.slot q).count then s1.endCopy q 0 else s1)

/-! ### Boxes (11 R329 to R331) -/

/-- What a box copy has read: 64 bytes of the handle entry, then 48 of the descriptor. -/
structure Box where
  /-- Tensor base address. -/
  base : Nat
  /-- Element size in bytes. -/
  size : Nat
  /-- Dimensions. -/
  dims : Nat
  /-- Sizes of the dimensions. -/
  sizes : List Nat
  /-- Byte strides, that of dimension 0 the element size. -/
  strides : List Int
  /-- Origins. -/
  origin : List Int
  /-- Extents. -/
  extent : List Nat
  /-- Fill value. -/
  fill : List Byte
  /-- The reserved bytes are zero. -/
  clean : Bool
  deriving DecidableEq, Repr

/-- A little-endian 32-bit field at byte `k`. -/
def u32At (bs : List Byte) (k : Nat) : Nat := leNat ((bs.drop k).take 4)

/-- The box that an entry and a descriptor say. -/
def boxOf (bs : List Byte) : Box :=
  let w0 := wordAt bs 0
  let z := 2 ^ fld w0 56 2
  let d := bs.drop 64
  { base := fld w0 0 48, size := z, dims := fld w0 58 2 + 1
    sizes := (List.range 4).map fun k => u32At bs (8 + 4 * k)
    strides := (z : Int) :: (List.range 3).map fun k => (wordAt bs (3 + k)).toInt
    origin := (List.range 4).map fun k => sintOf 32 (u32At d (4 * k))
    extent := (List.range 4).map fun k => u32At d (16 + 4 * k)
    fill := (d.drop 32).take z
    clean := (d.drop 40).all fun b => decide (b = 0) }

/-- Elements of a box. -/
def Box.count (b : Box) : Nat := b.extent.foldl (fun n e => n * e) 1

/-- Dimensions beyond the entry's have extent 1 and origin 0 (11 R330). -/
def Box.dimsOk (b : Box) : Bool :=
  (List.range 4).all fun k => decide (k < b.dims) || (decide (b.extent[k]?.getD 0 = 1) && decide (b.origin[k]?.getD 0 = 0))

/-- The tensor address of block element `q`, or none when it is clipped (11 R331). -/
def Box.addr (b : Box) (q : Nat) : Option Word :=
  let e := fun k => b.extent[k]?.getD 1
  let idx := [q % e 0, q / e 0 % e 1, q / (e 0 * e 1) % e 2, q / (e 0 * e 1 * e 2)]
  let cs := (b.origin.zip idx).map fun (p : Int × Nat) => p.1 + (p.2 : Int)
  let coord : Nat → Int := fun k => (cs[k]?).getD 0
  let inside := (List.range b.dims).all fun k =>
    decide (0 ≤ coord k) && decide (coord k < (((b.sizes[k]?).getD 0 : Nat) : Int))
  if inside then
    some (BitVec.ofInt 64 ((b.base : Int) + ((List.range b.dims).map fun k => (b.strides[k]?).getD 0 * coord k).sum))
  else none

/-- `n` bytes from the address `a` lie within the tenant's share of the issuing cluster (11 R328). -/
def State.inShare (s : State) (a : Word) (n : Nat) : Bool :=
  match windowOf a with
  | some (.shared c o) =>
    decide (c = s.tid.cluster) && decide (o % 8 = 0)
      && decide (o + n ≤ 0x10000 * fld (s.rd (rCswin c s.me.ctl.tenant.toNat)) 0 8)
  | _ => false

/-- The first word of the slot's handle entry as it stands: whether the handle is stale. -/
def State.boxStale (s : State) (q : BitVec 2) (i : Nat) : State × EngRes × Bool :=
  let sl := s.me.slot q
  match s.handleEntry s.tid.cluster s.me.ctl.tenant.toNat (fld sl.a 0 8) with
  | none => (s, .ok [], true)
  | some at_ =>
    match s.engRead q i at_ 8 with
    | (s1, .ok bs) => (s1, .ok bs, handleStale sl.a (leNat bs))
    | (s1, r) => (s1, r, false)

/-- The entry and the descriptor read, and the checks of 11 R330: a descriptor that cannot be read ends the copy with FAULT. -/
def State.boxStart (s : State) (q : BitVec 2) : Option State :=
  let sl := s.me.slot q
  if sl.b.toNat % 8 ≠ 0 then some (s.endCopy q 4)
  else
    match s.handleEntry s.tid.cluster s.me.ctl.tenant.toNat (fld sl.a 0 8) with
    | none => some (s.endCopy q 3)
    | some at_ =>
      match s.engReads q (2 ^ 40) at_ 8 with
      | (s1, .ok e) =>
        if handleStale sl.a (leNat (e.take 8)) then some (s1.endCopy q 3)
        else
          (match s1.engReads q (2 ^ 41) sl.b 6 with
           | (s2, .ok d) =>
             let b := boxOf (e ++ d)
             if !b.clean || !b.dimsOk || !s2.inShare sl.sd (b.count * b.size) then some (s2.endCopy q 4)
             else if b.count = 0 then some (s2.endCopy q 0)
             else some ((s2.onMe fun x => x.dropSlot q).onSlot q fun sl => { sl with box := e ++ d })
           | (s2, .bad _) => some (s2.endCopy q 1)
           | (s2, .asked) => some s2
           | (_, .wait) => none)
      | (s1, .bad c) => some (s1.endCopy q (failStatus c))
      | (s1, .asked) => some s1
      | (_, .wait) => none

/-- Elements of the group that a box load reads from item `i` up to `hi`, as long as they continue one run in one 64-byte
block; `blk` is the block of the run so far. -/
def State.boxLoads (s : State) (q : BitVec 2) (b : Box) (hi : Nat) (blk : Option (Nat × Word)) : Nat → State × EngRes
  | 0 => (s, .ok [])
  | fuel + 1 =>
    let sl := s.me.slot q
    let i := sl.count + sl.buf.length / b.size
    if hi ≤ i then (s, .ok [])
    else
      match b.addr i with
      | none => State.boxLoads (s.onSlot q fun sl => { sl with buf := sl.buf ++ b.fill }) q b hi blk fuel
      | some a =>
        let goes := match blk with | none => true | some (k, n) => decide (a.toNat / 64 = k) && decide (a = n)
        if !goes then (s, .ok [])
        else
          match s.engRead q i a b.size with
          | (s1, .ok bs) =>
            State.boxLoads (s1.onSlot q fun sl => { sl with buf := sl.buf ++ bs }) q b hi
              (some (a.toNat / 64, a + word b.size)) fuel
          | r => r

/-- Elements of the group that a box store writes, in the same way; `buf` holds those still to be written. -/
def State.boxStores (s : State) (q : BitVec 2) (b : Box) (hi : Nat) (blk : Option (Nat × Word)) : Nat → State × EngRes
  | 0 => (s, .ok [])
  | fuel + 1 =>
    let sl := s.me.slot q
    let i := hi - sl.buf.length / b.size
    if hi ≤ i then (s, .ok [])
    else
      let drop := fun (s : State) => s.onSlot q fun sl => { sl with buf := sl.buf.drop b.size }
      match b.addr i with
      | none => State.boxStores (drop s) q b hi blk fuel
      | some a =>
        let goes := match blk with | none => true | some (k, n) => decide (a.toNat / 64 = k) && decide (a = n)
        if !goes then (s, .ok [])
        else
          match s.engWrite q i a (sl.buf.take b.size) with
          | (s1, .ok _) => State.boxStores (drop s1) q b hi (some (a.toNat / 64, a + word b.size)) fuel
          | r => r

/-- The group that ends at `hi` is done (11 R331). -/
def State.boxGroup (s : State) (q : BitVec 2) (b : Box) (hi : Nat) : State :=
  let sl := s.me.slot q
  let clipped := ((indices sl.count hi).filter fun i => (b.addr i).isNone).length
  let s1 := s.onSlot q fun sl => { sl with count := hi, clip := sl.clip + clipped, buf := [] }
  if b.count ≤ hi then s1.endCopy q 0 else s1

/-- Elements of a group written to the share one after another, from element `i`. -/
def State.shareWrites (s : State) (q : BitVec 2) (i : Nat) (a : Word) (z : Nat) : List Byte → Nat → State × EngRes
  | _, 0 => (s, .ok [])
  | bs, n + 1 =>
    match s.engWrite q i a (bs.take z) with
    | (s1, .ok _) => State.shareWrites s1 q (i + 1) (a + word z) z (bs.drop z) n
    | r => r

/-- The elements of a group read from the share. -/
def State.shareReads (s : State) (q : BitVec 2) (i : Nat) (a : Word) (z : Nat) : Nat → State × EngRes
  | 0 => (s, .ok [])
  | n + 1 =>
    match s.engRead q i a z with
    | (s1, .ok bs) =>
      (match State.shareReads s1 q (i + 1) (a + word z) z n with
       | (s2, .ok cs) => (s2, .ok (bs ++ cs))
       | r => r)
    | r => r

/-- A unit of a box copy whose group has begun. -/
def State.boxMove (s : State) (q : BitVec 2) (b : Box) : Option State :=
  let sl := s.me.slot q
  let hi := min b.count (sl.count + 16)
  if sl.form = .ldb then
    match s.boxLoads q b hi none 17 with
    | (s1, .bad c) => some (s1.endCopy q (failStatus c))
    | (_, .wait) => none
    | (s1, .asked) => some s1
    | (s1, .ok _) =>
      let t := s1.me.slot q
      if hi ≤ t.count + t.buf.length / b.size then
        (match s1.shareWrites q sl.count (sl.sd + word (b.size * sl.count)) b.size t.buf (hi - sl.count) with
         | (s2, .bad c) => some (s2.endCopy q (failStatus c))
         | (_, .wait) => none
         | (s2, _) => some (s2.boxGroup q b hi))
      else some s1
  else
    match s.boxStores q b hi none 17 with
    | (s1, .bad c) => some (s1.endCopy q (failStatus c))
    | (_, .wait) => none
    | (s1, _) => some (if (s1.me.slot q).buf.isEmpty then s1.boxGroup q b hi else s1)

/-- A unit of a box copy: the handle is checked before each group (11 R331). -/
def State.boxUnit (s : State) (q : BitVec 2) : Option State :=
  let sl := s.me.slot q
  if sl.box.isEmpty then s.boxStart q
  else
    let b := boxOf sl.box
    if !sl.buf.isEmpty then s.boxMove q b
    else
      match s.boxStale q (2 ^ 42 + sl.count) with
      | (s1, .ok _, true) => some (s1.endCopy q 3)
      | (s1, .bad c, _) => some (s1.endCopy q (failStatus c))
      | (s1, .asked, _) => some s1
      | (_, .wait, _) => none
      | (s1, .ok _, false) =>
        if sl.form = .ldb then s1.boxMove q b
        else
          let n := min b.count (sl.count + 16) - sl.count
          (match s1.shareReads q sl.count (sl.sd + word (b.size * sl.count)) b.size n with
           | (s2, .ok bs) => (s2.onSlot q fun sl => { sl with buf := bs }).boxMove q b
           | (s2, .bad c) => some (s2.endCopy q (failStatus c))
           | (s2, .asked) => some s2
           | (_, .wait) => none)

/-! ### Collectives (16 R451 to R454) -/

/-- The fields of a collective's OP word. -/
structure Coll where
  /-- 0 sum, 1 maximum, 2 minimum. -/
  op : Nat
  /-- KIND. -/
  kind : Nat
  /-- Element width in bits. -/
  sew : Nat
  /-- Channels enabled. -/
  en : Nat
  /-- Group. -/
  group : Nat
  /-- Elements. -/
  count : Nat
  deriving DecidableEq, Repr

/-- The OP word read. -/
def collOf (w : Word) : Coll :=
  { op := fld w 0 4, kind := fld w 4 4, sew := sewBits (fld w 8 2), en := fld w 16 8, group := fld w 24 8, count := fld w 32 32 }

/-- One combining step with its flags (16 R453). -/
def Coll.step (c : Coll) (x y : Elem) : Elem :=
  let op : ArithOp := if c.op = 0 then .add else if c.op = 1 then .max else .min
  let r := arithElem op c.kind c.sew .rne c.en x.bits y.bits 0
  ⟨r.bits, x.ff ||| y.ff ||| r.ff, 0⟩

/-- A leaf: channels that are off are zero (07 R225). -/
def Coll.leaf (c : Coll) (x : Nat) : Elem := if c.kind = 8 then plain (arithElem .add 8 64 .rne c.en x 0 0).bits else plain x

/-- The combination of one element over the ranks. -/
def Coll.combine (c : Coll) (xs : List Nat) : Elem := (treeSum c.step xs.length (xs.map fun x => some (c.leaf x))).getD (plain 0)

/-- The member of a rank. -/
def memberOf (ms : List Member) (r : Nat) : Option Member := ms.find? fun m => decide (m.rank = r)

/-- The ranks of the group of a collective other than this node's (16 R451). -/
def State.otherRanks (s : State) (c : Coll) : List Nat :=
  let g := s.rd (rFgrpc c.group)
  (List.range (fld g 0 4 + 1)).filter fun r => !decide (r = fld g 4 4)

/-- This node's own member. -/
def State.ownRank (s : State) (c : Coll) : Nat := fld (s.rd (rFgrpc c.group)) 4 4

/-- Elements of this node read from SRC, as long as they start in the memory block `blk`: they join its own member, up to the first
that fails. -/
def State.collReads (s : State) (q : BitVec 2) (c : Coll) (blk : Nat) : Nat → State × EngRes
  | 0 => (s, .ok [])
  | fuel + 1 =>
    let sl := s.me.slot q
    let r := s.ownRank c
    let own := fun (f : Member → Member) (s : State) =>
      s.onSlot q fun sl => { sl with members := sl.members.map fun m => if m.rank = r then f m else m }
    match memberOf sl.members r with
    | none => (s, .ok [])
    | some m =>
      let i := m.elems.length
      let addr := wordAt sl.box 1 + word (c.sew / 8 * i)
      if c.count ≤ i ∨ m.stop.isSome ∨ addr.toNat / 64 ≠ blk then (s, .ok [])
      else
        match s.engRead q i addr (c.sew / 8) with
        | (s1, .ok bs) => State.collReads (own (fun m => { m with elems := m.elems ++ [word (leNat bs)] }) s1) q c blk fuel
        | (s1, .bad cause) => (own (fun m => { m with stop := some (i, decide (cause = 0x0D)) }) s1, .ok [])
        | w => w

/-- The lower of two failing elements. -/
def lowerStop (a b : Option (Nat × Bool)) : Option (Nat × Bool) :=
  match a, b with
  | some x, some y => if y.1 < x.1 then some y else some x
  | some x, none => some x
  | none, y => y

/-- Results written to DST from COUNT upward, up to the first that fails. -/
def State.collWrites (s : State) (q : BitVec 2) (dst : Word) (b : Nat) : List Nat → State × EngRes
  | [] => (s, .ok [])
  | v :: r =>
    let i := (s.me.slot q).count
    match s.engWrite q i (dst + word (b * i)) (natLe v b) with
    | (s1, .ok _) => State.collWrites (s1.onSlot q fun sl => { sl with count := i + 1 }) q dst b r
    | w => w

/-- The collective ends: at element `n` when one fails, from which DST is undefined (16 R453). -/
def State.collEnd (s : State) (q : BitVec 2) (c : Coll) (res : List Elem) (stop : Option (Nat × Bool)) : State :=
  let ff := ((res.take (match stop with | some x => x.1 | none => c.count)).map Elem.ff).foldl (fun f x => f ||| x) 0
  match stop with
  | none => (s.onSlot q fun x => { x with count := c.count, ffl := ff }).endCopy q 0
  | some (n, p) =>
    let junk := (List.range (c.count - n)).map fun i => (Config.undefinedWord s.fresh (n + i)).toNat
    let s1 := (State.collWrites ({ s with fresh := s.fresh + 1 }.onSlot q fun x => { x with count := n }) q
      (wordAt (s.me.slot q).box 2) (c.sew / 8) junk).1
    (s1.onSlot q fun x => { x with count := n, ffl := ff }).endCopy q (if p then 2 else 1)

/-- A unit of a collective whose members have all come: this node's elements are read, then the results are written (16 R453). -/
def State.collUnit (s : State) (q : BitVec 2) : Option State :=
  let sl := s.me.slot q
  let w := wordAt sl.box 0
  let c := collOf w
  if sl.members.any fun (m : Member) => !decide (m.opWord = w) || !decide (m.seq = wordAt sl.box 3) then some (s.endCopy q 4)
  else
    let read := match memberOf sl.members (s.ownRank c) with
      | some m => decide (c.count ≤ m.elems.length) || m.stop.isSome
      | none => true
    if !read then
      let i := match memberOf sl.members (s.ownRank c) with | some m => m.elems.length | none => 0
      match s.collReads q c ((wordAt sl.box 1 + word (c.sew / 8 * i)).toNat / 64) 17 with
      | (s1, .wait) => if (s1.me.slot q).members = sl.members then none else some s1
      | (s1, _) => some s1
    else
      let stop := sl.members.foldl (fun st (m : Member) => lowerStop st m.stop) none
      let k := match stop with | some x => x.1 | none => c.count
      let res := (List.range k).map fun i =>
        c.combine ((List.range (fld (s.rd (rFgrpc c.group)) 0 4 + 1)).map fun r =>
          match memberOf sl.members r with | some m => (m.elems.getD i 0).toNat | none => 0)
      match s.collWrites q (wordAt sl.box 2) (c.sew / 8) ((res.drop sl.count).map Elem.bits) with
      | (s1, .bad cause) => some (s1.collEnd q c res (lowerStop stop (some ((s1.me.slot q).count, decide (cause = 0x0D)))))
      | (s1, .ok _) => some (s1.collEnd q c res stop)
      | (s1, _) => if (s1.me.slot q).count = sl.count then none else some s1

/-- Units of a collective until it ends or waits. -/
def State.collRun (s : State) (q : BitVec 2) : Nat → State
  | 0 => s
  | fuel + 1 =>
    if (s.me.slot q).ended then s
    else match s.collUnit q with
      | some s1 => State.collRun s1 q fuel
      | none => s

/-- COLLECTIVE_COMPLETE: every other member has brought its part: the collective runs to its end, or until an access waits, when the
stream engine goes on with it (16 R453, R454). -/
def execCollectiveComplete (t : Tid) (q : BitVec 2) (members : List Member) (s : State) : Result :=
  let x := s.strand t
  let sl := x.slot q
  let w := wordAt sl.box 0
  let c := collOf w
  let others := s.otherRanks c
  if x.bound && decide (sl.phase = .busy) && sl.collOn && !sl.ended && sl.members.isEmpty
      && others.all fun r => (memberOf members r).isSome then
    let own : Member := { rank := s.ownRank c, opWord := w, seq := wordAt sl.box 3, elems := [], stop := none }
    .next (s.within t fun s =>
      (s.onSlot q fun sl => { sl with members := own :: others.filterMap (memberOf members) }).collRun q (c.count + 2))
  else .next s

/-- One unit of slot `q` of the strand in focus; none when it cannot move. -/
def State.unitOf (s : State) (q : BitVec 2) : Option State :=
  let sl := s.me.slot q
  if !s.me.canMove sl then none
  else
    let ir := s.ir
    let s0 := { s with ir := .w32 sl.body }
    let r := if sl.collOn then s0.collUnit q else match sl.form with
      | .ldv => s0.ldvUnit q
      | .stv => s0.stvUnit q
      | .lds | .sts => s0.sramUnit q
      | .ldb | .stb => s0.boxUnit q
    r.map fun s1 => { s1 with ir := ir }

/-- The slots of a cluster in the order in which the engine looks for the next unit: 4·context + slot (11 R338). -/
def engineOrder (last : Nat) : List Nat := (List.range 256).map fun i => (last + 1 + i) % 256

/-- The first slot that can move a unit, and the state after it. -/
def State.engineStep (s : State) (c : Nat) : List Nat → Option State
  | [] => none
  | k :: r =>
    let t : Tid := BitVec.ofNat 13 (64 * c + k / 4)
    let q := BitVec.ofNat 2 k
    if (s.strand t).canMove ((s.strand t).slot q) then
      match (s.focus t).unitOf q with
      | some s1 => some ((s1.focus s.tid).onCluster c fun x => { x with engine := k })
      | none => State.engineStep s c r
    else State.engineStep s c r

/-- STREAM_UNIT: the engine of a cluster moves one unit, and looks for the next (11 R338). -/
def execStreamUnit (c : ClusterNo) (s : State) : Result :=
  match s.engineStep c.toNat (engineOrder (s.cluster c.toNat).engine) with
  | some s1 =>
    let t : Tid := BitVec.ofNat 13 (64 * c.toNat + (s1.cluster c.toNat).engine / 4)
    .next ((if s1.eager then s1 else s1.resumeQueue t).push (.streamUnit c))
  | none => .next s

/-- STREAM_COPY_DONE: the slot becomes DONE once its writes to other nodes have performed at sy, its flags merge, and an arriving slot
arrives (04 R132, 11 R324, R335, R344). -/
def execStreamCopyDone (t : Tid) (q : BitVec 2) (s : State) : Result :=
  let x := s.strand t
  let sl := x.slot q
  if sl.phase = .busy ∧ sl.ended = true ∧ x.engineOut q.toNat = false then
    let saved := match x.run with | .saving _ | .suspended _ | .restoring _ => true | _ => false
    let s1 := s.onStrand t fun x =>
      let y := x.setSlot q { sl with phase := .done, ended := false, arrive := none, msgDue := true, coll := false, box := []
                                     unmerged := if saved then sl.ffl else 0 }
      if saved then y else y.raise sl.ffl 0
    let s2 := match sl.arrive with
      | some k => s1.barrierArrive t.cluster k.toNat
      | none => s1
    .next ((s2.push (.completionMessage t q)).goOn t)
  else .next s

/-! ### VSTREAM (11 R325) -/

/-- The argument errors that the engine finds without an access (11 R326, R328, 16 R452). -/
def State.streamArg (s : State) (sl : Slot) : Bool :=
  match sl.form with
  | .ldv | .stv => decide (sl.vl < sl.b.toNat)
  | .lds | .sts =>
    decide (sl.b.toNat % 8 ≠ 0) || decide (sl.a.toNat % 8 ≠ 0) || !s.inShare sl.sd sl.b.toNat
      || (decide (sl.form = .sts) && match s.collPage { s.agent with app := true } sl.a with
          | some o => !decide (sl.b.toNat = 64 ∧ o = 0)
          | none => false)
  | _ => false

/-- The copy moves nothing. -/
def Slot.emptyCopy (sl : Slot) : Bool :=
  match sl.form with
  | .ldb | .stb => false
  | _ => decide (sl.b = 0)

/-- The slot takes a copy: the strand's marks for an arriving one, and the engine is called. -/
def State.startCopy (s : State) (q : BitVec 2) (sl : Slot) : State :=
  let s1 := match sl.arrive with
    | some k => s.barrierMark s.tid k.toNat
    | none => s
  let s2 := (s1.onMe fun x =>
    { (x.setSlot q sl) with msgs := x.msgs.filter fun m => !m.isCompletion q }).wakeMail s.tid.core
  if s.streamArg sl then s2.endCopy q 4
  else if sl.emptyCopy then s2.endCopy q 0
  else s2.push (.streamUnit (BitVec.ofNat 7 s.tid.cluster))

/-- The handle of a box copy as VSTREAM checks it at issue: none while the check waits (11 R325, R329). -/
def State.handleCheck (s : State) (h : Word) : Option (State × Bool) :=
  match s.handleEntry s.tid.cluster s.me.ctl.tenant.toNat (fld h 0 8) with
  | none => some (s, true)
  | some at_ =>
    if fld h 16 48 ≠ 0 then some (s, true)
    else
      let a := { s.agent with app := true }
      match s.resolve a .eread at_ 8 with
      | .error f => if f.why = .hold then none else some (s, false)
      | .ok parts =>
        if parts.any fun p => p.1.far then some (s, false)
        else
          match s.readParts a false at_ parts with
          | (s1, .ok bs) => some (s1.noteAccess a at_ (parts.map Prod.snd), handleStale h (leNat bs))
          | (s1, .error _) => some (s1, false)

/-- A copy of 64 bytes to the start of a collective page, which starts a collective (16 R452). -/
def State.startsColl (s : State) (form : StreamForm) (far size : Word) : Bool :=
  decide (form = .sts) && decide (size = 64) && decide (s.collPage { s.agent with app := true } far = some 0)

/-- A VSTREAM of `len` bytes, arriving at a barrier or not. -/
def State.vstream (s : State) (len : Nat) (form : StreamForm) (d a b : Reg) (q : BitVec 2) (arrive : Option (BitVec 5)) :
    Result :=
  let x := s.me
  let c := x.ctl
  if (x.slot q).phase = .busy then .next s
  else if !s.vecLevel || (form.isReg && (decide (c.lg = 0) || !decide (vtGroup c.vt = 1))) then s.trap s.badVec
  else if form.isReg && !c.regsOk d.toNat 1 then s.trap s.illegal
  else if (match arrive with | some k => !(s.barrier s.tid.cluster k.toNat).usable c.tenant | none => false) then
    s.trap s.badVec
  else
    let sl : Slot :=
      { phase := .busy, form := form
        body := (match s.ir with | .w64 _ w => w | .w32 w => w | _ => 0)
        d := d, a := s.reg a, b := s.reg b, sd := s.reg d, vl := c.vl.toNat, vt := c.vt, arrive := arrive, count := 0
        status := 0, clip := 0, ffl := 0, unmerged := 0, part := c.part, msgDue := false, coll := s.startsColl form (s.reg a) (s.reg b), ahead := x.queue.length, box := [], buf := []
        members := [], ended := false }
    if form = .ldb ∨ form = .stb then
      match s.handleCheck (s.reg a) with
      | none => .next s
      | some (s1, true) => s1.trap ⟨0x13, s.reg a, Words.enc s.ir⟩
      | some (s1, false) => .next ((s1.startCopy q sl).retire len none)
    else .next ((s.startCopy q sl).retire len none)

/-- VSTREAM.LDV (11 R326). -/
def execVstreamLdv (d a b : Reg) (q : BitVec 2) (s : State) : Result := s.vstream 4 .ldv d a b q none
/-- VSTREAM.STV (11 R326). -/
def execVstreamStv (d a b : Reg) (q : BitVec 2) (s : State) : Result := s.vstream 4 .stv d a b q none
/-- VSTREAM.LDS (11 R328). -/
def execVstreamLds (d a b : Reg) (q : BitVec 2) (s : State) : Result := s.vstream 4 .lds d a b q none
/-- VSTREAM.STS (11 R328, 16 R452). -/
def execVstreamSts (d a b : Reg) (q : BitVec 2) (s : State) : Result := s.vstream 4 .sts d a b q none
/-- VSTREAM.LDB (11 R331). -/
def execVstreamLdb (d a b : Reg) (q : BitVec 2) (s : State) : Result := s.vstream 4 .ldb d a b q none
/-- VSTREAM.STB (11 R331). -/
def execVstreamStb (d a b : Reg) (q : BitVec 2) (s : State) : Result := s.vstream 4 .stb d a b q none
/-- VSTREAM.LDV with the arrive bit (11 R344). -/
def execVstreamLdvA (q : BitVec 2) (d a b : Reg) (x : BitVec 5) (s : State) : Result := s.vstream 8 .ldv d a b q (some x)
/-- VSTREAM.STV with the arrive bit (11 R344). -/
def execVstreamStvA (q : BitVec 2) (d a b : Reg) (x : BitVec 5) (s : State) : Result := s.vstream 8 .stv d a b q (some x)
/-- VSTREAM.LDS with the arrive bit (11 R344). -/
def execVstreamLdsA (q : BitVec 2) (d a b : Reg) (x : BitVec 5) (s : State) : Result := s.vstream 8 .lds d a b q (some x)
/-- VSTREAM.STS with the arrive bit (11 R344). -/
def execVstreamStsA (q : BitVec 2) (d a b : Reg) (x : BitVec 5) (s : State) : Result := s.vstream 8 .sts d a b q (some x)
/-- VSTREAM.LDB with the arrive bit (11 R344). -/
def execVstreamLdbA (q : BitVec 2) (d a b : Reg) (x : BitVec 5) (s : State) : Result := s.vstream 8 .ldb d a b q (some x)
/-- VSTREAM.STB with the arrive bit (11 R344). -/
def execVstreamStbA (q : BitVec 2) (d a b : Reg) (x : BitVec 5) (s : State) : Result := s.vstream 8 .stb d a b q (some x)

/-! ### SWAIT and SQUERY (11 R336) -/

/-- SWAIT (11 R336). -/
def execSwait (q : BitVec 2) (s : State) : Result :=
  if !s.vecLevel then s.trap s.badVec
  else
    match (s.me.slot q).phase with
    | .busy => .next s
    | .free => .next (s.retire 4 none)
    | .done => .next (((s.consume s.tid q).advanceGen s.tid.cluster).retire 4 none)

/-- SQUERY (11 R336). -/
def execSquery (d : Reg) (q : BitVec 2) (s : State) : Result :=
  if !s.vecLevel then s.trap s.badVec
  else
    let sl := s.me.slot q
    let st := match sl.phase with | .free => 0 | .busy => 1 | .done => 2
    let v := word ((if sl.phase = .busy then 0 else sl.status) * 2 ^ 36 + st * 2 ^ 34 + sl.count % 2 ^ 32)
    let s1 := if sl.phase = .done then (s.consume s.tid q).advanceGen s.tid.cluster else s
    .next (s1.writeRegV 4 d v)

/-! ### Fences and barriers of the scalar stream -/

/-- FENCE.SS: it holds the scalar stream until earlier scalar accesses have performed at the scope (03 R108). -/
def execFenceSs (sc : Scope) (s : State) : Result :=
  if s.me.waits || !s.me.performedAt sc then .next s
  else .next ((s.acquire s.tid.cluster sc).retire 4 none)

/-- FENCE.VS: it holds the scalar stream until earlier vector accesses have performed at the scope (03 R108). -/
def execFenceVs (sc : Scope) (s : State) : Result :=
  if !s.vecLevel then s.trap s.badVec
  else if (s.me.queue.any fun q => opIsMem q.op) || !s.me.vectorPerformedAt sc then .next s
  else .next ((s.acquire s.tid.cluster sc).retire 4 none)

/-- No context has a mark on the barrier. -/
def Barrier.unmarked (b : Barrier) : Bool := decide (b.wait = 0) && decide (b.done = 0)

/-- BARINIT (11 R341). -/
def execBarinit (a : Reg) (k : BitVec 5) (s : State) : Result :=
  let c := s.tid.cluster
  let b := s.barrier c k.toNat
  let n := (s.reg a).toNat
  let t := s.me.ctl.tenant
  let go : Barrier → Result := fun b => .next ((s.setBarrier c k.toNat b).retire 4 none)
  if !s.vecLevel then s.trap s.badVec
  else if 256 < n ∨ (b.active = true ∧ b.owner ≠ t) then s.trap s.badVec
  else if !b.active then
    (if n = 0 then go b
     else go { active := true, owner := t, count := n, arrived := 0, wait := b.wait, done := b.done })
  else if n = b.count then go b
  else if b.arrived = 0 ∧ b.unmarked = true then
    go (if n = 0 then { b with active := false } else { b with count := n })
  else s.trap s.badVec

/-- BARW (11 R343). -/
def execBarw (k : BitVec 5) (s : State) : Result :=
  let b := s.barrier s.tid.cluster k.toNat
  let i := Tid.inCluster s.tid
  if !s.vecLevel then s.trap s.badVec
  else if !b.usable s.me.ctl.tenant then s.trap s.badVec
  else if b.done.getLsbD i then .next (s.barwReturn s.tid k.toNat)
  else
    let s1 := s.setBarrier s.tid.cluster k.toNat { b with wait := markBit b.wait i true }
    .next (s1.onMe fun x => { x with run := .parked (.barw k.toNat), parkedAt := s1.sys.pool })

end Sys2Proof.Machine
end

