-- ==== Sys2Proof/Machine/Message.lean ====
section
/-! DEFINITION. Messages between strands (05 R163 to R177): SEND, RECV, WAITMSG and POLLMSG, what travels between cores, and
completion messages of the stream engine (11 R334). -/

namespace Sys2Proof.Machine

open Sys2Proof

/-! ### Headers (05 R163, R164) -/

/-- The header that RECV delivers: TAG, CONT and CREG as sent, KIND, REASON and PEER. -/
def headerOf (sent : Word) (kind reason peer : Nat) : Word :=
  word (fld sent 42 22 * 2 ^ 42 + kind * 2 ^ 40 + reason * 2 ^ 37 + peer)

/-- CONT of a header. -/
def hdrCont (h : Word) : Bool := bitOf h 47
/-- CREG of a header. -/
def hdrCreg (h : Word) : Reg := BitVec.ofNat 5 (fld h 42 5)
/-- KIND of a delivered header. -/
def hdrKind (h : Word) : Nat := fld h 40 2
/-- DEST of a header as sent. -/
def hdrDest (h : Word) : Tid := BitVec.ofNat 13 (fld h 0 13)

/-- The header that RECV delivers on an empty share. -/
def emptyHeader : Word := BitVec.allOnes 64

/-! ### Delivery -/

/-- WAITMSG takes a continuation: its payload goes to CREG, and the strand goes on past WAITMSG (05 R170, R174). -/
def State.takeCont (s : State) (t : Tid) (m : Msg) : State :=
  let r := hdrCreg m.header
  (s.acquire t.cluster m.scope).onStrand t fun x => (x.setReg r m.payload).wake (some r)

/-- One more entry in flight. -/
def State.netAdd (s : State) (m : Net) : State := { s with net := s.net ++ [m] }

/-- A message reaches the share of context `t`: a strand parked in WAITMSG takes a continuation at once and is woken by any
other message (05 R170). -/
def State.deliver (s : State) (t : Tid) (m : Msg) : State :=
  if (s.strand t).run = .parked .waitmsg then
    (if hdrCont m.header then s.takeCont t m
     else s.onStrand t fun x => { x with msgs := x.msgs ++ [m] }.wake none)
  else s.onStrand t fun x => { x with msgs := x.msgs ++ [m] }

/-- A core is fenced (05 R182). -/
def State.coreFenced (s : State) (core : Nat) : Bool := bitOf (s.rd (rCfence (core / 16))) (16 + core % 16)

/-- An entry moves now: it stays on its die, or no long lull holds the links (14 R421). -/
def State.netFlows (s : State) (m : Net) : Bool :=
  decide (m.src.die = (hdrDest m.header).die) || !s.linksHeld (decide (m.kind = .message))

/-- The oldest entry in flight that satisfies a test, `n` older ones of its kind passed over. -/
def netPick (p : Net → Bool) (l : List Net) (n : Nat) : Option Net := (l.filter p)[n]?

/-- What travels without the given entry. -/
def State.netDrop (s : State) (m : Net) : State := { s with net := s.net.erase m }

/-- An older entry of the kind `p` that goes the same way is in flight: its sender, and its destination unless it is a bounce, are the
same (05 R173). -/
def netBehind (l : List Net) (p : Net → Bool) (m : Net) : Bool :=
  match (l.filter p).find? fun x =>
      decide (x.src = m.src) && (decide (hdrDest x.header = hdrDest m.header) || match m.kind with | .bounce _ => true | _ => false) with
  | some x => !decide (x = m)
  | none => false

/-- A message. -/
def Net.isMessage (m : Net) : Bool := decide (m.kind = .message)
/-- An acknowledgement. -/
def Net.isAck (m : Net) : Bool := decide (m.kind = .ack)
/-- A bounce. -/
def Net.isBounce (m : Net) : Bool := match m.kind with | .bounce _ => true | _ => false

/-- The fate of a message at its destination core: the reason of its bounce, or none when it is accepted (05 R167). DESIGN CHOICE: a
strand whose message block has not entered its share is full at 32 messages, the block's among them (05 R176, log 62). -/
def State.mailFate (s : State) (m : Net) : Option Nat :=
  let d := hdrDest m.header
  let x := s.strand d
  if !x.bound || s.coreFenced d.core then some 2
  else if x.ctl.tenant ≠ m.tenant then some 3
  else if 32 ≤ s.mailUse d.core ∨ 32 ≤ x.block.length + x.msgs.length then some 1
  else none

/-- MAILBOX_ARRIVAL: a message reaches its destination core and is accepted or bounced (05 R167). -/
def execMailboxArrival (n : Nat) (s : State) : Result :=
  match netPick (fun m => m.isMessage && s.netFlows m) s.net n with
  | none => .next s
  | some m =>
    if netBehind s.net Net.isMessage m then .next s
    else
      let s1 := s.netDrop m
      let d := hdrDest m.header
      match s.mailFate m with
      | some r => .next ((s1.netAdd { m with kind := .bounce r }).push (.bounceArrival 0))
      | none =>
        let msg : Msg := { header := headerOf m.header 0 0 m.src.toNat, payload := m.payload, scope := scopeOf m.src d }
        .next (((s1.netAdd { m with kind := .ack }).deliver d msg).push (.messageAcknowledgement 0))

/-- A reservation of the context is freed. -/
def Strand.freeResv (x : Strand) : Strand := { x with resv := x.resv - 1 }

/-- MESSAGE_ACKNOWLEDGEMENT: the sender's reservation is freed (05 R167). A move that waited for it goes on (05 R176). -/
def execMessageAcknowledgement (n : Nat) (s : State) : Result :=
  match netPick (fun m => m.isAck && s.netFlows m) s.net n with
  | none => .next s
  | some m =>
    if netBehind s.net Net.isAck m then .next s
    else
      let s1 := ((s.netDrop m).onStrand m.src Strand.freeResv).wakeMail m.src.core
      .next (match (s1.strand m.src).run with | .saving _ => s1.push (.saveComplete m.src) | _ => s1)

/-- BOUNCE_ARRIVAL: the reservation turns into a message of KIND 2 for the sender, or is freed when its context holds no
strand (05 R167, R177). -/
def execBounceArrival (n : Nat) (s : State) : Result :=
  match netPick (fun m => m.isBounce && s.netFlows m) s.net n with
  | none => .next s
  | some m =>
    if netBehind s.net Net.isBounce m then .next s
    else
      let r := match m.kind with | .bounce r => r | _ => 0
      let s1 := (s.netDrop m).onStrand m.src Strand.freeResv
      let s2 :=
        if (s1.strand m.src).bound then
          s1.deliver m.src { header := headerOf m.header 2 r (hdrDest m.header).toNat, payload := m.payload, scope := .st }
        else s1.wakeMail m.src.core
      .next (match (s2.strand m.src).run with | .saving _ => s2.push (.saveComplete m.src) | _ => s2)

/-- SEND_DEPART: a SEND held for its release leaves (05 R172). -/
def execSendDepart (t : Tid) (s : State) : Result :=
  let x := s.strand t
  match x.sends with
  | [] => .next s
  | m :: r =>
    if x.sendReady t then
      let e : Net := { kind := .message, header := m.1, payload := m.2, src := t, tenant := x.ctl.tenant }
      .next ((((s.netAdd e).onStrand t fun x => { x with sends := r }).push (.mailboxArrival 0)).nudge t)
    else .next s

/-- COMPLETION_MESSAGE: the completion of a slot enters the issuer's share once its core's mailbox has room (11 R334). -/
def execCompletionMessage (t : Tid) (q : BitVec 2) (s : State) : Result :=
  let sl := (s.strand t).slot q
  if sl.phase = .done ∧ sl.msgDue = true ∧ s.mailUse t.core < 32 then
    .next ((s.onStrand t fun x => x.setSlot q { sl with msgDue := false }).deliver t
      { header := completionHeader t q sl, payload := completionPayload sl, scope := .st })
  else .next s

/-! ### The instructions -/

/-- SEND (05 R166). -/
def execSend (d a b : Reg) (s : State) : Result :=
  let h := s.reg a
  let p := s.reg b
  if fld h 13 29 ≠ 0 then .next (s.writeReg 4 d 2)
  else if 32 ≤ s.mailUse s.tid.core then .next (s.writeReg 4 d 1)
  else
    .next (((s.onMe fun x => { x with resv := x.resv + 1, sends := x.sends ++ [(h, p)] }).writeReg 4 d 0).nudge s.tid)

/-- A damaged message: every field but KIND and the payload are zero (05 R164). -/
def Msg.damaged : Msg := { header := word (3 * 2 ^ 40), payload := 0, scope := .st }

/-- The mailbox entry of the oldest message of the strand in focus is read: an injected uncorrectable error turns it into a damaged
message (05 R181, 12 R364). DESIGN CHOICE: which of the 32 entries of the mailbox holds it, W2 of the record, is open (log 86). -/
def State.mailRead (s : State) : State :=
  match s.me.msgs with
  | [] => s
  | _ :: r =>
    let f := s.free
    let u := if (s.reportArmed 0x13).isSome then f.2.unitReport 0x13 (word (16 * (f.1.toNat % 32))) else (s, false)
    if u.2 then u.1.onMe fun x => { x with msgs := Msg.damaged :: r } else u.1

/-- RECV (05 R168). -/
def execRecv (d a : Reg) (s : State) : Result :=
  if a = d ∧ d ≠ 0 then s.trap s.illegal
  else
    let s0 := s.mailRead
    match s0.me.msgs with
    | [] => .next ((s0.setReg a emptyHeader).writeReg 4 d 0)
    | m :: r =>
      let s1 := s0.onMe fun x => { x with msgs := r }
      let s2 :=
        if hdrKind m.header = 1 then
          (s1.consume s.tid (BitVec.ofNat 2 (fld m.header 58 2))).advanceGen s.tid.cluster
        else if hdrKind m.header = 0 then s1.acquire s.tid.cluster m.scope
        else s1
      .next (((s2.setReg a m.header).writeReg 4 d m.payload).wakeMail s.tid.core)

/-- A queued instruction of the strand will still write a scalar register (05 R157, R170). -/
def Strand.scalarDue (x : Strand) : Bool :=
  x.queue.any fun q => match q.op with | .mpop .. | .mfirst .. | .get .. => true | _ => false

/-- WAITMSG by the messages that wait (05 R170). -/
def State.waitmsg (s : State) : State :=
  let s0 := s.mailRead
  match s0.me.msgs with
  | [] => s0.onMe fun x => { x with run := .parked .waitmsg, parkedAt := s.sys.pool }
  | m :: r =>
    if hdrCont m.header then ((s0.onMe fun x => { x with msgs := r }).takeCont s.tid m).wakeMail s.tid.core
    else s0.retire 4 none

/-- WAITMSG (05 R170). -/
def execWaitmsg (s : State) : Result := if s.me.waits || s.me.scalarDue then .next s else .next s.waitmsg

/-- POLLMSG (05 R169). -/
def execPollmsg (d : Reg) (s : State) : Result :=
  let s0 := s.mailRead
  .next (s0.writeReg 4 d (match s0.me.msgs with
    | [] => 0
    | m :: r => word ((hdrCont m.header).toNat * 2 ^ 10 + hdrKind m.header * 2 ^ 8 + (r.length + 1))))

end Sys2Proof.Machine
end

