-- ==== Sys2Proof/Machine/System.lean ====
section
/-! DEFINITION. System instructions: SVC, ERET, BRK, IFENCE, TRIGGER, EXIT (03 R110 to R117), and the hint space with NOP and
RACT (02 R57, 13 R382). -/

namespace Sys2Proof.Machine

open Sys2Proof

/-- SVC (03 R111): a system call at application level, a firmware call at supervisor level. -/
def execSvc (k : BitVec 10) (s : State) : Result :=
  match s.me.ctl.priv with
  | .app => s.trap ⟨0x06, k.setWidth 64, 0⟩
  | .sup =>
    .next (s.onMe fun x =>
      { x with run := .firmwareCall
               ctl := { x.ctl with epc := x.pc, cause := 0x06, tval := k.setWidth 64, tval2 := 0 } })
  | .fw => s.trap s.illegal

/-- The held entries restart after a queued trap: the head at ES, and ES becomes 0 (04 R146). A head TCVT to another kind that has
converted cells and is abandoned completes with the guard off (10 R304, R313). -/
def Strand.restartHead (x : Strand) : Strand :=
  if x.ctl.cause.getLsbD 6 then
    { x with
      queue := (match x.queue with
        | q :: r =>
          let e := x.ctl.es.toNat
          { q.giveUp e with first := e, next := e, fault := none } :: r
        | [] => [])
      vec := (match x.queue with
        | q :: _ =>
          (match q.op with
           | .tcvt d k =>
             if k ≠ 1 ∧ q.first < q.next ∧ q.total x ≤ x.ctl.es.toNat then x.vec.setWeight d.toNat (2 ^ 64 - 1) else x.vec
           | _ => x.vec)
        | [] => x.vec)
      ctl := { x.ctl with es := 0 } }
  else x

/-- The held queue of the strand in focus goes on after its return to application level (04 R146, log 10). -/
def State.unhold (s : State) : State :=
  if s.eager then s.pumpFocus
  else if s.me.queue.isEmpty then s
  else (s.pushAll (s.me.queue.map fun _ => .sequencerHandoff s.tid)).resumeQueue s.tid

/-- ERET (03 R113, 04 R146). -/
def execEret (s : State) : Result :=
  match s.me.ctl.priv with
  | .app => s.trap s.privViolation
  | _ =>
    let s1 := s.onMe Strand.eret
    let s2 := if s1.me.ctl.priv = .app then s1.onMe Strand.restartHead else s1
    .next s2.unhold

/-- BRK (03 R112, 05 R179). -/
def execBrk (k : BitVec 10) (s : State) : Result :=
  if s.me.attach && s.me.brken then
    .next (((s.onMe fun x => { x with hcause := 1 }).retire 4 none).push (.debugHalt s.tid))
  else s.trap ⟨0x05, k.setWidth 64, 0⟩

/-- IFENCE (03 R110, 05 R155): the core's instruction cache and the context's fetch buffer are empty. -/
def execIfence (s : State) : Result :=
  if !s.me.performedAt .cl || s.me.queue.any (fun q => opStores q.op) then .next s
  else .next (((s.onCore s.tid.core fun c => { c with icache := [] }).onMe fun x => { x with fbuf := none }).retire 4 none)

/-- TRIGGER (03 R115): the mark counts when every access before it has performed. -/
def execTrigger (s : State) : Result :=
  let n := s.fresh + 1
  .next (((State.onMe { s with fresh := n } fun x =>
    { x with trigIssued := true, trigAt := if x.trigIssued then x.trigAt else n }).retire 4 none).nudge s.tid)

/-- EXIT (03 R116, 04 R144): above application level the held entries are discarded; then its waits run. -/
def execExit (s : State) : Result :=
  let held := !s.isApp
  .next (((if held then s.scDone s.tid else s).onMe fun x =>
    { x with
      run := .exiting
      queue := if held then [] else x.queue
      pend := if held then ((x.queue.foldl (fun (x : Strand) q => x.dropElems q.id) x).pend.filter fun p =>
        !p.parts.isEmpty || match p.owner with | .elem .. => false | _ => true) else x.pend
      slots := if held then x.slots.map fun (sl : Slot) => { sl with ahead := 0 } else x.slots }).nudge s.tid)

/-- NOP (02 R57). -/
def execNop (s : State) : Result := .next (s.retire 4 none)

/-- Any other hint (02 R57). -/
def execHint (_a _b : Reg) (_f : BitVec 6) (_m : MReg) (s : State) : Result := .next (s.retire 4 none)

/-- The physical address of a row-activate hint, unless it is dropped (13 R382). -/
def State.ractTarget (s : State) (addr : Word) : Option Nat :=
  match windowOf addr with
  | some (.global va) =>
    (match (s.cluster s.tid.cluster).tlbFind s.me.ctl.tenant.toNat va with
     | some e =>
       let pa := leafPa e.leaf e.big va
       if leafPermits s.agent .load e.leaf pa && !decide (fld e.leaf 60 2 = 3) && !s.inMsc pa then
         (match region pa with | .hbm .. | .cap .. => some pa | _ => none)
       else none
     | none => none)
  | _ => none

/-- RACT (13 R382). -/
def execRact (a : Reg) (s : State) : Result :=
  let s1 := s.retire 4 none
  .next (match s.ractTarget (s.reg a) with
    | some pa => (s1.onSys fun y => { y with racts := y.racts ++ [pa] }).push (.ractArrival 0)
    | none => s1)

end Sys2Proof.Machine
end

