-- ==== Sys2Proof/Machine/Pipeline.lean ====
section
/-! DEFINITION. Events of the core's pipelines: the chaining sequencer and its slot steps (06 R196 to R199), queued traps
(04 R143), the write queue and its acknowledgements (03 R87, 13 R371, R375), requests at the homes and their replies
(13 R371 to R373), instruction-cache fills (05 R154) and handler faults (04 R148). -/

namespace Sys2Proof.Machine

open Sys2Proof

/-! ### What the homes can serve -/

/-- The write-queue entries at a stage, with their positions. -/
def Strand.staged (x : Strand) (k : Nat) : List Nat :=
  (List.range x.writes.length).filter fun i => match x.writes[i]? with | some e => decide (e.stage = k) | none => false

/-- Entry `i` of the write queue moved to a stage. -/
def Strand.toStage (x : Strand) (i k : Nat) : Strand :=
  { x with writes := x.writes.modify i fun e => { e with stage := k } }

/-- The lines that a store touches at its homes. -/
def WEntry.homeLines (e : WEntry) (t : Tid) : List Nat :=
  (e.homeParts t).map fun (p : Place × List Byte) => p.1.key / 64

/-- The lines of an entry's parts that other dies hold replicas of (13 R373). -/
def State.copied (s : State) (t : Tid) (e : WEntry) : List Nat :=
  (e.homeLines t).filter fun l => !decide (NMap.get 0 s.sys.replicas l = 0)

/-- The invalidations that a line's home sends (13 R373). -/
def State.invalidations (s : State) (l : Nat) : List Event :=
  ((List.range 4).filter fun d => (NMap.get 0 s.sys.replicas l).getLsbD d).map fun d =>
    .replicaInvalidation (word (64 * l)) (BitVec.ofNat 2 d)

/-- A home cannot serve an access to the place now: its key is being installed (14 R405), or a link holds it (14 R421). -/
def State.placeHeld (s : State) (a : Agent) (p : Place) : Bool := (p.cached && s.keyBusy p.keyId) || s.linkHeld a p

/-- A part of a store waits on its way to its home. -/
def State.entryHeld (s : State) (t : Tid) (e : WEntry) : Bool :=
  (e.homeParts t).any fun (p : Place × List Byte) => s.placeHeld (s.entryAgent t e) p.1

/-- The stores of a context that a home can serve, as positions in the write queue: stores of one cluster to a line perform in the
order in which its L1 accepted them (03 R87, 11 R322). -/
def State.servableStores (s : State) (t : Tid) : List Nat :=
  let x := s.strand t
  (x.staged 1).filter fun i =>
    match x.writes[i]? with
    | some e => !s.entryHeld t e && !(s.clusterTids t.cluster).any fun u => (s.strand u).writes.any fun o =>
        o.onWay && decide (o.sent < e.sent) && (o.homeLines u).any fun l => (e.homeLines t).elem l
    | none => false

/-- A context's accesses that wait for a home of this package. -/
def Strand.homePends (x : Strand) : List Nat :=
  (List.range x.pend.length).filter fun i =>
    match x.pend[i]? with
    | some p => p.fail.isNone && (match p.parts with | (q, _) :: _ => !q.far | [] => false)
    | none => false

/-- Those that a home can serve: one that misses the L1 follows the stores of its cluster to its line (11 R322), one whose key is being
installed waits (14 R405), and an atomic of order sc does not perform between the elements of a vector instruction of that order
(04 R130). -/
def State.servablePends (s : State) (t : Tid) : List Nat :=
  (s.strand t).homePends.filter fun i =>
    match (s.strand t).pend[i]? with
    | some p =>
      (match p.acc with
       | .load .. => !s.behindStores (s.agentOf t) true (p.parts.take 1)
       | _ => !p.parts.any fun q => s.atomicWaits (s.agentOf t) q.1)
        && !(p.parts.take 1).any (fun q => q.1.cached && s.keyBusy q.1.keyId) && !(decide (p.order = .sc) && s.sys.scRun.isSome)
    | none => false

/-- A home has a request of context `t` to serve. -/
def State.pokeHome (s : State) (t : Tid) : State :=
  if ((s.servableStores t).isEmpty && (s.servablePends t).isEmpty) || s.agenda.elem (.homeRequest t 0) then s
  else s.push (.homeRequest t 0)

/-- Store `id` of the cluster has reached its home: what read it has performed, and what waited behind it goes on
(04 R120, 11 R322). -/
def State.homeAt (s : State) (cn id : Nat) : State :=
  let s1 := (s.clusterTids cn).foldl (fun (s : State) u =>
    ((s.onStrand u fun x => { x with seen := x.seen.filter fun e => !decide (e.store = id) }).pokeHome u).goOn u) s
  if (s1.clusterTids cn).any fun u => (s1.strand u).slotBusy then s1.push (.streamUnit (BitVec.ofNat 7 cn)) else s1

/-! ### The sequencer (06 R196 to R199) -/

/-- SEQUENCER_HANDOFF: the oldest entry that the sequencer does not hold reaches it (06 R196), and the queue goes on. -/
def execSequencerHandoff (t : Tid) (s : State) : Result :=
  let s1 := match (s.strand t).queue.findIdx? fun q => !q.handed with
    | none => s
    | some n => s.onStrand t fun x => { x with queue := x.queue.modify n fun q => { q with handed := true } }
  .next ((s1.resumeQueue t).pokeHome t)

/-- The stored words that indices `lo` to `hi - 1` of an entry write, or the whole entry. -/
def Strand.resultWords (x : Strand) (q : QEntry) (lo hi : Nat) : List Nat :=
  let a := if opIsWhole q.op then 0 else lo
  let b := if opIsWhole q.op then q.vl else hi
  let t := x.tileSide
  (match q.op with
   | .cmp _ _ d .. | .rnschk d .. | .mlog _ d .. | .mset d => x.maskWords d.toNat a b
   | .tzero d | .top _ d .. | .tvsl d .. => x.tileWords d.toNat (cellsOf 0 (q.er t) (q.ec t))
   | .tcvt d _ => x.tileWords d.toNat ((indices lo hi).map fun u => (u / 64, u % 64))
   | .tslv d .. => x.regWords d.toNat (wordRange 0 (x.capacity q.sew) q.perWord)
   | op =>
     (opRegs op q.vt).dst.toList.flatMap fun (r : Nat × Nat) =>
       (List.range r.2).flatMap fun j => x.regWords (r.1 + j) (wordRange a b q.perWord)).map Prod.fst

/-- The entry of the recheck queue that a step takes as its first execution starts: the step's source words and the first result
(12 R348). An instruction that commits whole keeps no operand buffer (12 R352). -/
def State.firstRun (s : State) (q : QEntry) (lo hi : Nat) : RStep :=
  let ks := ((s.sourceWords q lo hi).map Prod.fst).eraseDups
  let done := (s.runList q (indices lo hi)).1
  if opIsWhole q.op then { lo := lo, hi := hi, at_ := s.fresh, runs := 1, bad := [], split := [], src := [], res := [] }
  else
    { lo := lo, hi := hi, at_ := s.fresh, runs := 1, bad := [], split := []
      src := ks.map fun k => (k, s.me.storedWord k), res := (s.me.resultWords q lo hi).map fun k => (k, done.me.storedWord k) }

/-- A corrupting injection of UNIT 0x04 inverts bit 0 of the first result word of its lane (12 R364). -/
def State.corruptFirst (s : State) (r : RStep) : State × RStep :=
  match r.res.findIdx? fun (e : Nat × Word) => (s.armed 4 (s.me.laneOfWord e.1) true).isSome with
  | some i => (s.fire, { r with res := r.res.modify i fun e => (e.1, e.2 ^^^ 1) })
  | none => (s, r)

/-- The logical lanes in which an execution of the step from its operand buffer disagrees with its first result (12 R348, R349). -/
def State.disagree (s : State) (q : QEntry) (r : RStep) : List Nat :=
  let s0 := s.onMe fun x => r.src.foldl (fun (x : Strand) (e : Nat × Word) => x.setStored e.1 e.2) x
  let done := (s0.runList q (indices r.lo r.hi)).1
  ((r.res.filter fun (e : Nat × Word) => !decide (done.me.storedWord e.1 = e.2)).map fun e => s.me.laneOfWord e.1).eraseDups

/-- A step of entry `n` of the strand in focus starts. -/
def State.startStep (s : State) (n : Nat) : State :=
  match s.me.queue[n]? with
  | none => s
  | some q =>
    let lo := if opIsWhole q.op then q.first else q.started
    let hi := q.startEnd s.me
    if q.rechecks then
      (let r := State.corruptFirst { s with fresh := s.fresh + 1 } (s.firstRun q lo hi)
       r.1.setEntry n { q with started := hi, recheck := q.recheck ++ [r.2] })
    else s.setEntry n { q with started := hi }

/-- SLOT_STEP_START: a slot step of entry `n` starts (06 R197, R198); one that is rechecked takes an entry of the recheck queue
(12 R348). -/
def execSlotStepStart (t : Tid) (n : Nat) (s : State) : Result :=
  if (s.focus t).canStart n then .next ((s.within t fun s => s.startStep n).resumeQueue t) else .next s

/-- SLOT_STEP_COMMIT: a started step of entry `n` commits (06 R199). One that waits leaves the queue as it is, and goes on with what
it waits for. -/
def execSlotStepCommit (t : Tid) (n : Nat) (s : State) : Result :=
  let x := s.strand t
  if !x.canCommit n then .next s
  else
    match x.queue[n]? with
    | none => .next s
    | some q =>
      let s1 := s.within t fun s => s.commitStep n q
      .next (if (s1.strand t).queue = x.queue then s1.nudge t else s1.goOn t)

/-- A rechecked step of an entry behind the head has started or can start: it runs to its vote before the head's trap is taken
(04 R143, 12 R353). -/
def State.recheckBehind (s : State) : Bool :=
  (List.range s.me.queue.length).any fun n => decide (0 < n) &&
    match s.me.queue[n]? with
    | some q => !q.recheck.isEmpty || (q.rechecks && s.canStart n)
    | none => false

/-- QUEUED_TRAP: the head of the queue takes the trap of its failing element (04 R143). -/
def execQueuedTrap (t : Tid) (s : State) : Result :=
  let x := s.strand t
  match x.queue with
  | [] => .next s
  | q :: _ =>
    match q.fault with
    | none => .next s
    | some f =>
      if x.queueRuns && !x.waits && !(s.focus t).recheckBehind then .next (s.within t fun s => s.trapOrWait q f) else .next s

/-- BARV_ARRIVAL: the arrival of entry `n` counts once earlier vector memory has performed at its scope (04 R134, 11 R342). -/
def execBarvArrival (t : Tid) (n : Nat) (s : State) : Result :=
  if (s.focus t).canArrive n then
    match (s.strand t).queue[n]? with
    | some q => .next ((s.within t fun s => s.commitStep n q).goOn t)
    | none => .next s
  else .next s

/-! ### The write queue (03 R87) -/

/-- WRITE_QUEUE_SEND: the oldest unsent entry is sent (03 R87). -/
def execWriteQueueSend (t : Tid) (s : State) : Result :=
  let x := s.strand t
  match x.staged 0 with
  | [] => .next s
  | i :: _ =>
    match x.writes[i]? with
    | none => .next s
    | some e => .next ((s.sendEntry t i e).goOn t)

/-- The entry performs at its home (13 R371): its error records carry the instruction that made it (13 R399). What other strands of
the cluster read of it has performed. -/
def State.performEntry (s : State) (t : Tid) (i : Nat) (e : WEntry) : State :=
  let a := s.entryAgent t e
  let s1 := (e.homeParts t).foldl (fun (s : State) (p : Place × List Byte) => s.writeParts a false [(p.1, p.2.length)] p.2)
    { s with ir := .w32 (BitVec.ofNat 32 e.raw) }
  let s2 := State.onStrand { s1 with ir := s.ir } t fun x => x.toStage i (doneStage e.tags)
  let s3 := if e.tags.isEmpty then s2.push (.storeAcknowledgement t 0) else s2
  s3.homeAt t.cluster e.id

/-- The invalidations of a line that its home has still to send (13 R373). -/
def State.recall (s : State) (l : Nat) : State :=
  s.pushAll ((s.invalidations l).filter fun e => !s.agenda.elem e)

/-- A waiting access is served one part at its home, with the partition and for the instruction that made it (03 R106, 13 R399). -/
def State.servePend (s : State) (t : Tid) (i : Nat) (p : Pend) : State :=
  let a := { s.agentOf t with part := p.part.toNat, at_ := some (p.id, p.gen) }
  let s0 := { s with ir := .w32 (BitVec.ofNat 32 p.raw) }
  let put := fun (u : State) (p : Pend) => State.onStrand { u with ir := s.ir } t fun x => { x with pend := x.pend.set i p }
  match p.parts with
  | [] => s
  | (q, n) :: r =>
    match p.acc with
    | .load .. =>
      (match s0.readParts a true (p.addr + word p.got.length) [(q, n)] with
       | (s1, .ok bs) =>
         (put s1 { p with got := p.got ++ bs, parts := r }).push (if r.isEmpty then .memoryReply t 0 else .homeRequest t 0)
       | (s1, .error at_) => (put s1 { p with addr := at_, fail := some 0x0D }).push (.memoryReply t 0))
    | acc =>
      (match s0.atomicAt a q acc with
       | (s1, .ok bs) => (put s1 { p with got := bs, parts := [] }).push (.memoryReply t 0)
       | (s1, .error c) => (put s1 { p with fail := some c }).push (.memoryReply t 0))

/-- HOME_REQUEST: a home serves the `n`-th request of a context that it can serve, its stores first, oldest first (13 R371, R373). -/
def execHomeRequest (t : Tid) (n : Nat) (s : State) : Result :=
  let x := s.strand t
  let ws := s.servableStores t
  match ws[n]? with
  | some i =>
    (match x.writes[i]? with
     | none => .next s
     | some e =>
       let ls := s.copied t e
       .next (if ls.isEmpty then s.performEntry t i e
         else ls.foldl State.recall (s.onStrand t fun x => x.toStage i 2)))
  | none =>
    match (s.servablePends t)[n - ws.length]? with
    | none => .next s
    | some i =>
      match x.pend[i]? with
      | some p => .next (s.servePend t i p)
      | none => .next s

/-- The stores that may perform now that their replicas are gone, as positions in the write queue. -/
def State.cleared (s : State) (t : Tid) : List Nat :=
  let x := s.strand t
  (x.staged 2).filter fun i => match x.writes[i]? with | some e => (s.copied t e).isEmpty && !s.entryHeld t e | none => false

/-- A store of context `t` waits for the replicas of a line to go. -/
def State.awaitsLine (s : State) (t : Tid) (l : Nat) : Bool :=
  (s.strand t).writes.any fun e => decide (e.stage = 2) && (s.copied t e).elem l

/-- REPLICA_INVALIDATION: a replica die drops its copy of a line and acknowledges it to every store that waits for it (13 R373). -/
def execReplicaInvalidation (pa : Word) (die : DieNo) (s : State) : Result :=
  let l := pa.toNat % 2 ^ 52 / 64
  let v := NMap.get 0 s.sys.replicas l
  let s1 := s.onSys fun y =>
    { y.dropReplica l die.toNat with replicas := NMap.set 0 y.replicas l (v &&& ~~~(BitVec.ofNat 4 (2 ^ die.toNat))) }
  let s2 := s1.pushAll (s1.boundTids.flatMap fun t => (s1.cleared t).map fun _ => .invalidationAck t 0)
  .next (if s2.boundTids.any fun t => s2.awaitsLine t l then s2.recall l else s2)

/-- INVALIDATION_ACK: the acknowledgements have returned and the pending write performs (13 R373). Replicas that reads have left
meanwhile are invalidated in turn. -/
def execInvalidationAck (t : Tid) (n : Nat) (s : State) : Result :=
  match (s.cleared t)[n]? with
  | none =>
    .next (((s.strand t).staged 2).foldl (fun (s : State) i =>
      match (s.strand t).writes[i]? with
      | some e => (s.copied t e).foldl State.recall s
      | none => s) s)
  | some i =>
    match (s.strand t).writes[i]? with
    | some e => .next (s.performEntry t i e)
    | none => .next s

/-- The performed stores of a context that can leave the write queue: of stores to one byte the older leaves first, so that a load is
forwarded the latest (03 R85, DESIGN CHOICE, log 84). -/
def Strand.leavable (x : Strand) : List Nat :=
  (x.staged 3).filter fun i =>
    match x.writes[i]? with
    | some e => !(x.writes.take i).any fun (o : WEntry) =>
        o.parts.any fun (p : Place × List Byte) => (List.range p.2.length).any fun k => (e.byteAt (p.1.key + k)).isSome
    | none => false

/-- STORE_ACKNOWLEDGEMENT: the `n`-th performed store that can leaves the write queue (03 R87, 13 R375); another may leave behind it. -/
def execStoreAcknowledgement (t : Tid) (n : Nat) (s : State) : Result :=
  match (s.strand t).leavable[n]? with
  | none => .next s
  | some i =>
    let s2 := s.onStrand t fun x => { x with writes := x.writes.eraseIdx i }
    let s3 := if (s2.strand t).leavable.isEmpty || s2.agenda.elem (.storeAcknowledgement t 0) then s2
      else s2.push (.storeAcknowledgement t 0)
    .next (s3.goOn t)

/-! ### Replies -/

/-- The accesses of a context whose data, or failure, has come, that of the scalar instruction first. -/
def Strand.answered (x : Strand) : List Nat :=
  let is := (List.range x.pend.length).filter fun i =>
    match x.pend[i]? with
    | some p => p.fail.isSome || p.parts.isEmpty
    | none => false
  let mine := fun (i : Nat) => decide ((x.pend[i]?.map Pend.owner) = some .scalar)
  is.filter mine ++ is.filter fun i => !mine i

/-- MEMORY_REPLY: the data of the `n`-th answered access of a context goes where it belongs: to the register of a scalar
instruction, which then completes or traps, to the element that waits, or to the stream engine (03 R86, R88). A failing access is
precise: what later instructions have written is taken back. An atomic of an entry that has been discarded ends here. -/
def execMemoryReply (t : Tid) (n : Nat) (s : State) : Result :=
  let x := s.strand t
  match x.answered[n]? with
  | none => .next s
  | some i =>
    match x.pend[i]? with
    | none => .next s
    | some p =>
      match p.owner with
      | .scalar =>
        let s1 := s.onStrand t fun x => { x with pend := x.pend.eraseIdx i }
        let s2 := s1.within t fun s =>
          match p.fail with
          | some c => (match p.back with | some b => s.onMe fun x => x.takeBack p.id b | none => s).takeTrap ⟨c, p.addr, 0⟩
          | none => s.completeAccess p
        let s3 := if x.step && x.attach then s2.push (.debugHalt t) else s2
        .next (s3.goOn t)
      | .elem e _ =>
        .next ((if x.queue.any fun q => decide (q.id = e) then s else s.onStrand t fun x => { x with pend := x.pend.eraseIdx i }).goOn t)
      | .slot .. => .next (s.goOn t)

/-- FETCH_FILL: the lines that the next instruction of a context needs reach the instruction cache (05 R154). -/
def execFetchFill (t : Tid) (s : State) : Result :=
  if !(s.strand t).bound then .next s
  else
    match (s.focus t).fetch with
    | (s1, .ok _) => .next (s1.focus s.tid)
    | _ => .next s

/-- HANDLER_FAULT: a fetch at TVEC fails at supervisor level; the strand is saved and passed to firmware (04 R148). -/
def execHandlerFault (t : Tid) (s : State) : Result :=
  let x := s.strand t
  if x.run = .running ∧ x.ctl.priv = .sup ∧ x.pc = evenPc x.ctl.tvec then
    match (s.focus t).fetch.2 with
    | .error (.fault _) =>
      let c := x.ctl
      .next ((s.onStrand t fun x =>
        { x with
          held := true
          ctl := { x.ctl with cause := 0x1F, tval := c.tvec, tval2 := c.cause.setWidth 64 } }).beginSave t .handlerFault)
    | _ => .next s
  else .next s

end Sys2Proof.Machine
end

