-- ==== Sys2Proof/Machine/VopOf.lean ====
section
/-! DEFINITION. The queued operation that an encoding stands for, for a queue entry that is written as part of a saved strand
(01 R36, R37). -/

namespace Sys2Proof.Machine

open Sys2Proof

/-- The queued operation of an instruction; none for one that does not enter the vector queue. -/
def vopOfInstr (i : Instr) : Option VOp :=
  match i with
  | .vld d a m => some (.load .vld d a 0 m .sy .rlx)
  | .vldScaled d a b m => some (.load .vld d a b m .sy .rlx)
  | .vlds d a b m => some (.load .vlds d a b m .sy .rlx)
  | .vldx d a b m => some (.load .vldx d a b m .sy .rlx)
  | .vldxO d a b m => some (.load .vldxO d a b m .sy .rlx)
  | .vldff d a m => some (.load .vldff d a 0 m .sy .rlx)
  | .vst d a m => some (.store .vst d a 0 m .sy .rlx)
  | .vstScaled d a b m => some (.store .vst d a b m .sy .rlx)
  | .vsts d a b m => some (.store .vsts d a b m .sy .rlx)
  | .vstx d a b m => some (.store .vstx d a b m .sy .rlx)
  | .vstxO d a b m => some (.store .vstxO d a b m .sy .rlx)
  | .vstN d a b m => some (.store .vstN d a b m .sy .rlx)
  | .vamoAdd d a b m => some (.amo .add d a b m .sy .rlx)
  | .vamoAnd d a b m => some (.amo .and d a b m .sy .rlx)
  | .vamoOr d a b m => some (.amo .or d a b m .sy .rlx)
  | .vamoXor d a b m => some (.amo .xor d a b m .sy .rlx)
  | .vamoMin d a b m => some (.amo .min d a b m .sy .rlx)
  | .vamoMax d a b m => some (.amo .max d a b m .sy .rlx)
  | .vamoMinu d a b m => some (.amo .minu d a b m .sy .rlx)
  | .vamoMaxu d a b m => some (.amo .maxu d a b m .sy .rlx)
  | .vamoSwap d a b m => some (.amo .swap d a b m .sy .rlx)
  | .vloadOrd op d a b m s o => some (.load op d a b m s o)
  | .vstoreOrd op d a b m s o => some (.store op d a b m s o)
  | .vamoOrd op d a b m s o => some (.amo op d a b m s o)
  | .vaddVv d a b m => some (.arith .add .vv d a b m)
  | .vsubVv d a b m => some (.arith .sub .vv d a b m)
  | .vmulVv d a b m => some (.arith .mul .vv d a b m)
  | .vmulhVv d a b m => some (.arith .mulh .vv d a b m)
  | .vdivVv d a b m => some (.arith .div .vv d a b m)
  | .vremVv d a b m => some (.arith .rem .vv d a b m)
  | .vminVv d a b m => some (.arith .min .vv d a b m)
  | .vmaxVv d a b m => some (.arith .max .vv d a b m)
  | .vandVv d a b m => some (.arith .and .vv d a b m)
  | .vorVv d a b m => some (.arith .or .vv d a b m)
  | .vxorVv d a b m => some (.arith .xor .vv d a b m)
  | .vshlVv d a b m => some (.arith .shl .vv d a b m)
  | .vshrVv d a b m => some (.arith .shr .vv d a b m)
  | .vsraVv d a b m => some (.arith .sra .vv d a b m)
  | .vfmaVv d a b m => some (.arith .fma .vv d a b m)
  | .vfmsVv d a b m => some (.arith .fms .vv d a b m)
  | .vfnmaVv d a b m => some (.arith .fnma .vv d a b m)
  | .vabs d a m => some (.arith .abs .vv d a 0 m)
  | .vneg d a m => some (.arith .neg .vv d a 0 m)
  | .vwaddVv d a b m => some (.arith .wadd .vv d a b m)
  | .vwmulVv d a b m => some (.arith .wmul .vv d a b m)
  | .vnshrVv d a b m => some (.arith .nshr .vv d a b m)
  | .vaddVx d a b m => some (.arith .add .vx d a b m)
  | .vsubVx d a b m => some (.arith .sub .vx d a b m)
  | .vmulVx d a b m => some (.arith .mul .vx d a b m)
  | .vmulhVx d a b m => some (.arith .mulh .vx d a b m)
  | .vdivVx d a b m => some (.arith .div .vx d a b m)
  | .vremVx d a b m => some (.arith .rem .vx d a b m)
  | .vminVx d a b m => some (.arith .min .vx d a b m)
  | .vmaxVx d a b m => some (.arith .max .vx d a b m)
  | .vandVx d a b m => some (.arith .and .vx d a b m)
  | .vorVx d a b m => some (.arith .or .vx d a b m)
  | .vxorVx d a b m => some (.arith .xor .vx d a b m)
  | .vshlVx d a b m => some (.arith .shl .vx d a b m)
  | .vshrVx d a b m => some (.arith .shr .vx d a b m)
  | .vsraVx d a b m => some (.arith .sra .vx d a b m)
  | .vfmaVx d a b m => some (.arith .fma .vx d a b m)
  | .vfmsVx d a b m => some (.arith .fms .vx d a b m)
  | .vfnmaVx d a b m => some (.arith .fnma .vx d a b m)
  | .vwaddVx d a b m => some (.arith .wadd .vx d a b m)
  | .vwmulVx d a b m => some (.arith .wmul .vx d a b m)
  | .vnshrVx d a b m => some (.arith .nshr .vx d a b m)
  | .vaddVi d a i m => some (.arith .add .vi d a i m)
  | .vsubVi d a i m => some (.arith .sub .vi d a i m)
  | .vminVi d a i m => some (.arith .min .vi d a i m)
  | .vmaxVi d a i m => some (.arith .max .vi d a i m)
  | .vandVi d a i m => some (.arith .and .vi d a i m)
  | .vorVi d a i m => some (.arith .or .vi d a i m)
  | .vxorVi d a i m => some (.arith .xor .vi d a i m)
  | .vshlVi d a k m => some (.arith .shl .vi d a k m)
  | .vshrVi d a k m => some (.arith .shr .vi d a k m)
  | .vsraVi d a k m => some (.arith .sra .vi d a k m)
  | .vnshrVi d a k m => some (.arith .nshr .vi d a k m)
  | .vcmpEqVv d a b m => some (.cmp .eq .vv d a b m)
  | .vcmpNeVv d a b m => some (.cmp .ne .vv d a b m)
  | .vcmpLtVv d a b m => some (.cmp .lt .vv d a b m)
  | .vcmpLeVv d a b m => some (.cmp .le .vv d a b m)
  | .vcmpEqVx d a b m => some (.cmp .eq .vx d a b m)
  | .vcmpNeVx d a b m => some (.cmp .ne .vx d a b m)
  | .vcmpLtVx d a b m => some (.cmp .lt .vx d a b m)
  | .vcmpLeVx d a b m => some (.cmp .le .vx d a b m)
  | .vcmpEqVi d a i m => some (.cmp .eq .vi d a i m)
  | .vcmpNeVi d a i m => some (.cmp .ne .vi d a i m)
  | .vcmpLtVi d a i m => some (.cmp .lt .vi d a i m)
  | .vcmpLeVi d a i m => some (.cmp .le .vi d a i m)
  | .mand d a b => some (.mlog .and d a b)
  | .mor d a b => some (.mlog .or d a b)
  | .mxor d a b => some (.mlog .xor d a b)
  | .mnot d a => some (.mlog .not d a a)
  | .mpop d a => some (.mpop d a)
  | .mfirst d a => some (.mfirst d a)
  | .mset d _ => some (.mset d)
  | .vsel d a b m => some (.sel d a b m)
  | _ => none

/-- The queued operation of a late row (log 23). -/
def vopOfLate (l : Late) : Option VOp :=
  match l with
  | .vbcast d _ m => some (.bcast d m)
  | .vget d a _ => some (.get d a)
  | .vidx d m => some (.idx d m)
  | .vgather d a b m => some (.perm .gather d a b m)
  | .vslideup d a b m => some (.perm .slideup d a b m)
  | .vslidedn d a b m => some (.perm .slidedn d a b m)
  | .vcompress d a m => some (.perm .compress d a 0 m)
  | .vexpand d a m => some (.perm .expand d a 0 m)
  | .vswappr d a m => some (.perm .swappr d a 0 m)
  | .vzip d a b m => some (.perm .zip d a b m)
  | .vunzip d a b m => some (.perm .unzip d a b m)
  | .vredsumO d a b m => some (.red .sumO d a b m)
  | .vredsumT d a b m => some (.red .sumT d a b m)
  | .vredmax d a b m => some (.red .max d a b m)
  | .vredmin d a b m => some (.red .min d a b m)
  | .vredand d a b m => some (.red .and d a b m)
  | .vredor d a b m => some (.red .or d a b m)
  | .vcvt d a k s m => some (.cvt false d a k s m)
  | .vcvtSr d a k s m => some (.cvt true d a k s m)
  | .vrcp d a m => some (.spec .rcp d a m)
  | .vrsq d a m => some (.spec .rsq d a m)
  | .vsint d a m => some (.spec .sint d a m)
  | .vcost d a m => some (.spec .cost d a m)
  | .vexp2 d a m => some (.spec .exp2 d a m)
  | .vlog2 d a m => some (.spec .log2 d a m)
  | .vclmul d a b m => some (.clmul false d a b m)
  | .vclmulh d a b m => some (.clmul true d a b m)
  | .vcbdec d a m => some (.cbdec d a m)
  | .cbload _ => some (.cbload)
  | .vrnsf d a m => some (.rnsf d a m)
  | .vrnsr d a m => some (.rnsr d a m)
  | .vrnschk d a m => some (.rnschk d a m)
  | .fenceSv s => some (.fence false s)
  | .fenceVv s => some (.fence true s)
  | .barv k s => some (.barv k s)
  | .tzero d => some (.tzero d)
  | .topa d a b _ e m n => some (.top .topa d a b e m n)
  | .tops d a b _ e m n => some (.top .tops d a b e m n)
  | .topr d a b _ m n => some (.top .topr d a b 0 m n)
  | .tldrow d x _ _ => some (.tldrow d x)
  | .tstrow d x _ _ => some (.tstrow d x)
  | .tslv d a x o => some (.tslv d a x o)
  | .tvsl d a x o => some (.tvsl d a x o)
  | .tcvt d k => some (.tcvt d k)
  | .tchk d => some (.tchk d)
  | _ => none

/-- The queued operation of the words of an instruction. -/
def vopOf (w : Words) : Option VOp :=
  match decodeOp w with
  | .ok (.early i) => vopOfInstr i
  | .ok (.late l) => vopOfLate l
  | .error _ => none

end Sys2Proof.Machine
end

