-- ==== Sys2Proof/Machine/Save.lean ====
section
/-! DEFINITION. Saving and restoring strands: the save record (01 R35 to R38, 11 R339), SAVE_COMPLETE, the contexts and cores that
the dispatcher gives out (05 R160, R176, 14 R413), RESTORE_COMPLETE, and the completion of grants and of MTENTER (06 R194,
R206 to R211, 10 R293). -/

namespace Sys2Proof.Machine

open Sys2Proof

/-! ### The record (01 R36) -/

/-- A context that a debugger has halted, even while it is saved (05 R179). -/
def Strand.isHalted (x : Strand) : Bool :=
  match x.run with
  | .halted => true
  | .saving _ | .suspended _ | .restoring _ => !decide (x.hcause = 0)
  | _ => false

/-- RECINFO.PARK: a wait in WAITMSG, BARW, VGRANT or LULLW. -/
def Strand.parkBit (x : Strand) : Bool :=
  match x.parkKept with
  | some (.waitmsg) | some (.barw _) | some (.lullw _) | some (.grant ..) => true
  | _ => false

/-- RECINFO.WHY. -/
def Why.code : Why → Nat
  | .preempt => 0 | .squall => 1 | .move => 2 | .tenantSwitch => 3 | .handlerFault => 4

/-- Why the context is saved, if it is. -/
def Strand.why (x : Strand) : Nat :=
  match x.run with
  | .saving w | .suspended w | .restoring w => w.code
  | _ => 0

/-- The strand has a vector context. -/
def Strand.hasVec (x : Strand) : Bool := !decide (x.ctl.lg = 0)

/-- RECINFO. -/
def Strand.recInfo (x : Strand) : Word :=
  word (x.parkBit.toNat * 2 ^ 9 + x.ctl.mt.toNat * 2 ^ 8 + x.why * 2 ^ 5 + x.hasVec.toNat * 2 ^ 4 + x.queue.length)

/-- A word of a queue entry's record; that of a matrix instruction holds TROWS and TCOLS beside VL (10 R299). -/
def QEntry.recWord (q : QEntry) (x : Strand) (k : Nat) : Word :=
  match k with
  | 0 => Words.enc q.raw
  | 1 => word (q.saved x)
  | 2 => word (q.vl + if opIsMatrix q.op then q.trows * 2 ^ 32 + q.tcols * 2 ^ 40 else 0)
  | _ => word (2 ^ 63 + q.vt.toNat)

/-- The state of a slot in its record (11 R339). -/
def Slot.recState (sl : Slot) : Nat :=
  match sl.phase with
  | .free => 0
  | .busy => if sl.form.isReg then 1 else 2
  | .done => 3

/-- A word of a slot's record (11 R339). -/
def Slot.recWord (sl : Slot) (k : Nat) : Word :=
  match k with
  | 0 =>
    word (sl.body.toNat + (sl.recState + (sl.arrive.isSome).toNat * 4) * 2 ^ 32 + (sl.arrive.getD 0).toNat * 2 ^ 40
      + sl.status % 16 * 2 ^ 48 + sl.unmerged.toNat * 2 ^ 56)
  | 1 => sl.a
  | 2 => sl.b
  | _ => if sl.recState = 1 ∨ sl.recState = 3 then word (sl.count % 2 ^ 32) else 0

/-- Word `k` of the record at 8·k; `loc` is what firmware keeps at 0x1C8 (14 R416). -/
def Strand.recordWord (x : Strand) (loc : Word) (k : Nat) : Word :=
  if k = 0 then x.pc
  else if k < 32 then x.reg (BitVec.ofNat 5 k)
  else if k < 64 then
    let c := x.ctl
    match k with
    | 32 => c.status
    | 33 => c.tvec
    | 34 => c.epc
    | 35 => c.cause.setWidth 64
    | 36 => c.tval
    | 37 => c.tval2
    | 38 => c.es.setWidth 64
    | 39 => c.vl.setWidth 64
    | 40 => c.vt.setWidth 64
    | 41 => c.shape.setWidth 64
    | 42 => c.lg.setWidth 64
    | 43 => c.seed
    | 44 => c.sbase
    | 45 => c.fflags.setWidth 64
    | 46 => c.frm.setWidth 64
    | 47 => c.iflags.setWidth 64
    | 48 => c.rnscfg.setWidth 64
    | 49 => c.trows.setWidth 64
    | 50 => c.tcols.setWidth 64
    | 51 => c.part.setWidth 64
    | 52 => c.idx0
    | 53 => c.idx1
    | 54 => c.idx2
    | 55 => c.idx3
    | 56 => x.recInfo
    | 57 => if x.hasVec then loc else 0
    | _ => 0
  else if k < 96 then
    match x.queue[(k - 64) / 4]? with
    | some q => q.recWord x (k % 4)
    | none => 0
  else if k < 112 then
    match x.queue[(k - 96) / 2]? with
    | some q => if k % 2 = 0 then q.x else q.y
    | none => 0
  else (x.slot (BitVec.ofNat 2 ((k - 112) / 4))).recWord (k % 4)

/-- The words of an encoding as a record holds it. -/
def wordsOfEnc (w : Word) : Words :=
  if parcels (w.setWidth 16) = 4 then .w64 (w.setWidth 32) ((w >>> 32).setWidth 32) else .w32 (w.setWidth 32)

/-- A word of a queue entry's record written; none drops the entry. An encoding that names no queued operation changes
nothing (log 27). A fault that the entry had found is found again. -/
def QEntry.putWord (q0 : QEntry) (k : Nat) (v : Word) : Option QEntry :=
  let q := { q0.giveUp q0.next with fault := none, recheck := [] }
  match k with
  | 0 =>
    (match vopOf (wordsOfEnc v) with
     | some op => some { q with op := op, raw := wordsOfEnc v }
     | none => some q)
  | 1 =>
    some { q with
      next := v.toNat % 2 ^ 32
      started := v.toNat % 2 ^ 32
      first := if opIsWhole q.op then v.toNat % 2 ^ 32 else q.first }
  | 2 =>
    some (if opIsMatrix q.op then { q with vl := fld v 0 32, trows := fld v 32 7, tcols := fld v 40 7 }
      else { q with vl := fld v 0 32 })
  | _ => if bitOf v 63 then some { q with vt := v.setWidth 12 } else none

/-- A queue entry as firmware adds it behind those held, from the encoding: what its other words do not give is captured from the
context as it stands (log 27). -/
def Strand.newEntry (x : Strand) (id : Nat) (v : Word) : Option QEntry :=
  (vopOf (wordsOfEnc v)).map fun op =>
    { id := id, op := op, raw := wordsOfEnc v, x := 0, y := 0, first := 0, next := 0, started := 0, vl := x.ctl.vl.toNat
      vt := x.ctl.vt, frm := x.ctl.frm, seed := x.ctl.seed, sbase := x.ctl.sbase, rns := x.ctl.rnscfg, trows := x.ctl.trows.toNat
      tcols := x.ctl.tcols.toNat, rchk := x.ctl.rchk, part := x.ctl.part, oldTables := [], handed := false, done := false
      fault := none, recheck := [] }

/-- The form that f[5:3] of a VSTREAM's body names (11 R325). -/
def StreamForm.ofCode : Nat → Option StreamForm
  | 0 => some .ldv | 1 => some .stv | 2 => some .lds | 3 => some .sts | 4 => some .ldb | 5 => some .stb
  | _ => none

/-- The first word of a slot's record written: body, state, arrival, STATUS and flags (11 R339). -/
def Slot.putState (sl : Slot) (v : Word) : Slot :=
  { sl with
    body := v.setWidth 32
    form := (StreamForm.ofCode (fld v 19 3)).getD sl.form
    d := BitVec.ofNat 5 (fld v 3 5)
    phase := if fld v 32 2 = 0 then .free else if fld v 32 2 = 3 then .done else .busy
    arrive := if bitOf v 34 then some (BitVec.ofNat 5 (fld v 40 5)) else none
    status := fld v 48 4, unmerged := BitVec.ofNat 5 (fld v 56 5) }

/-- LG as firmware writes it in a record: the lane groups above it are no longer the context's. -/
def Strand.putLg (x : Strand) (v : Word) : Strand :=
  { x with
    ctl := { x.ctl with lg := v.setWidth 4 }, vec := { x.vec with lanes := x.vec.lanes.take (fld v 0 4) }
    savedLg := if x.savedLg = 0 then 0 else fld v 0 4 }

/-- STATUS as firmware writes it in a record (log 27). -/
def Ctl.putStatus (c : Ctl) (v : Word) : Ctl :=
  { c with
    pld := BitVec.ofNat 5 (fld v 19 5)
    pldv := bitOf v 18
    ld := BitVec.ofNat 5 (fld v 13 5)
    ldv := bitOf v 12
    rchk := bitOf v 11
    mt := bitOf v 10
    move := bitOf v 8
    ppriv := (Priv.ofCode (fld v 2 2)).getD c.ppriv
    priv := (Priv.ofCode (fld v 0 2)).getD c.priv }

/-- Word `k` of the record of a halted context written (05 R179, 15 R441); `id` numbers an entry that the write adds. RECINFO is
read-only; the word at 0x1C8 and reserved bytes keep their values (log 27). -/
def Strand.putRecordWord (x : Strand) (id k : Nat) (v : Word) : Strand :=
  if k = 0 then { x with pc := evenPc v, fullAt := none }
  else if k = 42 then x.putLg v
  else if k < 32 then x.setReg (BitVec.ofNat 5 k) v
  else if k < 64 then
    let c := x.ctl
    { x with
      ctl := (match k with
        | 32 => c.putStatus v
        | 33 => { c with tvec := v &&& ~~~3 }
        | 34 => { c with epc := v }
        | 35 => { c with cause := v.setWidth 7 }
        | 36 => { c with tval := v }
        | 37 => { c with tval2 := v }
        | 38 => { c with es := v.setWidth 32 }
        | 39 => { c with vl := v.setWidth 32 }
        | 40 => { c with vt := v.setWidth 12 }
        | 41 => { c with shape := v.setWidth 6 }
        | 43 => { c with seed := v }
        | 44 => { c with sbase := v }
        | 45 => { c with fflags := v.setWidth 5 }
        | 46 => { c with frm := v.setWidth 3 }
        | 47 => { c with iflags := v.setWidth 4 }
        | 48 => { c with rnscfg := v.setWidth 10 }
        | 49 => { c with trows := v.setWidth 7 }
        | 50 => { c with tcols := v.setWidth 7 }
        | 51 => { c with part := v.setWidth 4 }
        | 52 => { c with idx0 := v }
        | 53 => { c with idx1 := v }
        | 54 => { c with idx2 := v }
        | 55 => { c with idx3 := v }
        | _ => c) }
  else if k < 96 then
    match x.queue[(k - 64) / 4]? with
    | some q =>
      (match q.putWord (k % 4) v with
       | some e => { x with queue := x.queue.set ((k - 64) / 4) e }
       | none => { x with queue := x.queue.eraseIdx ((k - 64) / 4) })
    | none =>
      if k % 4 = 0 ∧ (k - 64) / 4 = x.queue.length then { x with queue := x.queue ++ (x.newEntry id v).toList } else x
  else if k < 112 then
    match x.queue[(k - 96) / 2]? with
    | some q => { x with queue := x.queue.set ((k - 96) / 2) (if k % 2 = 0 then { q with x := v } else { q with y := v }) }
    | none => x
  else
    let n : BitVec 2 := BitVec.ofNat 2 ((k - 112) / 4)
    let sl := x.slot n
    match k % 4 with
    | 0 => x.setSlot n (sl.putState v)
    | 1 => x.setSlot n { sl with a := v }
    | 2 => x.setSlot n { sl with b := v }
    | _ => if sl.recState = 1 ∨ sl.recState = 3 then x.setSlot n { sl with count := v.toNat % 2 ^ 32 } else x

/-- The save record slot of a strand (14 R416). -/
def saveSlot (tenant : Nat) (t : Tid) : Nat := 0x300000000000 + 2048 * (8192 * tenant + t.toNat)

/-- The record of context `t` written to its slot. -/
def State.writeRecord (s : State) (t : Tid) : State :=
  let x := s.strand t
  let f := s.free
  let s1 := if x.hasVec then f.2 else s
  let bs := (List.range 128).flatMap fun k => natLe (x.recordWord f.1 k).toNat 8
  s1.homeWrite none 0 (saveSlot x.ctl.tenant.toNat t) bs

/-- The message block of a strand's waiting messages (05 R176). -/
def messageBlock (ms : List Msg) : List Byte :=
  natLe ms.length 8 ++ natLe 0 8 ++ ms.flatMap fun m => natLe m.header.toNat 8 ++ natLe m.payload.toNat 8

/-! ### Cores and contexts that change hands -/

/-- The key under which the private window of a strand is kept while it is saved away from its context. -/
def windowKey (tenant : Nat) (t : Tid) : Nat := 65536 + 8192 * tenant + t.toNat

/-- Bytes carried from one scratchpad to another, and the numbers of their poisoned words (12 R354). -/
abbrev Carried := List Byte × List Nat

/-- The state after `n` bytes of a scratchpad have been read out, each of their words checked, and what they carry (05 R181,
12 R354). -/
def State.readOut (s : State) (k n : Nat) : State × Carried :=
  let s1 := s.ecc none k n
  (s1, s1.mem.bytes k n, (s1.poison.filter fun (e : Nat × Bool) => decide (k ≤ 8 * e.1 ∧ 8 * e.1 < k + n)).map fun e => e.1 - k / 8)

/-- `n` bytes of a scratchpad replaced by what is carried to it, zero above. -/
def State.putIn (s : State) (k n : Nat) (w : Carried) : State :=
  { s with
    mem := (s.mem.clear k n).setBytes k w.1
    poison := w.2.foldl (fun m i => NMap.set false m (k / 8 + i) true)
      (s.poison.dropWhere fun w => decide (k ≤ 8 * w ∧ 8 * w < k + n))
    synd := s.synd.dropWhere fun w => decide (k ≤ 8 * w ∧ 8 * w < k + n) }

/-- A context's private window read out (05 R158, R162). -/
def State.privateWindow (s : State) (t : Tid) : State × Carried := s.readOut (tcmKey t.core (0x10000 + 0x2000 * t.ctx)) 0x2000

/-- A context's private window written. -/
def State.putWindow (s : State) (t : Tid) (w : Carried) : State := s.putIn (tcmKey t.core (0x10000 + 0x2000 * t.ctx)) 0x2000 w

/-- A saved scratchpad or window with this key. -/
def State.savedAt (s : State) (k : Nat) : Carried := (NMap.get [] s.sys.savedTcm k, NMap.get [] s.sys.savedPoison k)

/-- A scratchpad or window saved with this key. -/
def State.saveAt (s : State) (k : Nat) (w : Carried) : State :=
  s.onSys fun y => { y with savedTcm := NMap.set [] y.savedTcm k w.1, savedPoison := NMap.set [] y.savedPoison k w.2 }

/-- Some strand is bound to a context of the core. -/
def State.coreBound (s : State) (core : Nat) : Bool :=
  (List.range 4).any fun i => (s.strand (BitVec.ofNat 13 (4 * core + i))).bound

/-- The scratchpad of a core that no strand is bound to is saved with its tenant's state (05 R160, 14 R414). -/
def State.leaveCore (s : State) (core : Nat) : State :=
  let c := s.core core
  match c.owner with
  | none => s
  | some t =>
    let r := s.readOut (tcmKey core 0) (64 * c.tcmSize)
    (r.1.saveAt (32 * core + t.toNat) r.2).onCore core fun c => { c with owner := none, tcmSize := 0 }

/-- A core is given to a tenant: another tenant's scratchpad is saved, and this tenant's is restored or zeroed (05 R160). -/
def State.giveCore (s : State) (core : Nat) (tenant : TenantNo) : State :=
  if (s.core core).owner = some tenant then s
  else
    let s1 := s.leaveCore core
    let key := 32 * core + tenant.toNat
    let w := s1.savedAt key
    ((s1.putIn (tcmKey core 0) 0x10000 w).saveAt key ([], [])).onCore core fun c =>
      { c with owner := some tenant, tcmSize := w.1.length / 64 }

/-- TCMSIZE of the launch of a strand (14 R414). -/
def State.tcmNeed (s : State) (x : Strand) : Nat :=
  match x.launch with
  | some n => ((s.sys.launches.find? fun (l : Launch) => decide (l.id = n)).map fun l => fld (l.words.getD 0 0) 48 11).getD 0
  | none => 0

/-- Strands bound to a core. -/
def State.coreLoad (s : State) (core : Nat) : Nat :=
  ((List.range 4).filter fun i => (s.strand (BitVec.ofNat 13 (4 * core + i))).bound).length

/-- The dispatcher may bind a strand of the tenant to the core (05 R160, R182). -/
def State.coreOpen (s : State) (core : Nat) (tenant : TenantNo) : Bool :=
  let w := s.rd (rCfence (core / 16))
  !bitOf w (core % 16) && !bitOf w (16 + core % 16)
    && (!s.coreBound core || decide ((s.core core).owner = some tenant))

/-- The contexts of a cluster that are free for a tenant. -/
def State.freeContexts (s : State) (c : Nat) (tenant : TenantNo) : List Tid :=
  ((List.range 64).map fun i => (BitVec.ofNat 13 (64 * c + i) : Tid)).filter fun t =>
    !(s.strand t).bound && s.coreOpen t.core tenant

/-- The context that the dispatcher binds next: on the core with the fewest bound strands, the lowest core, the lowest context
(14 R413). -/
def State.nextContext (s : State) (c : Nat) (tenant : TenantNo) : Option Tid :=
  (s.freeContexts c tenant).foldl (fun (b : Option Tid) t =>
    match b with
    | none => some t
    | some u => if s.coreLoad t.core < s.coreLoad u.core then some t else some u) none

/-- A context that its strand has left: what belongs to the context stays (05 R177, R178). -/
def Strand.vacated (x : Strand) : Strand :=
  { Strand.unbound with resv := x.resv, step := x.step, haltreq := x.haltreq, brken := x.brken, attach := x.attach }

/-- A strand put into a context, whose fetch buffer holds nothing of it (05 R154). -/
def Strand.bindTo (x old : Strand) : Strand :=
  { x with
    fbuf := none, resv := old.resv, step := old.step, haltreq := old.haltreq, brken := old.brken, attach := old.attach }

/-- The last strand of a tenant has left a cluster: its barriers become UNINIT (11 R340). -/
def State.dropBarriers (s : State) (c : Nat) (tenant : TenantNo) : State :=
  if (s.clusterTids c).any fun t => decide ((s.strand t).ctl.tenant = tenant) then s
  else s.onCluster c fun k =>
    { k with barriers := k.barriers.filter fun (e : Nat × Barrier) => !(e.2.active && decide (e.2.owner = tenant)) }

/-- The barriers that a switched-off tenant owns are saved when its last strand has left the cluster (11 R345). -/
def State.saveBarriers (s : State) (c : Nat) (tenant : TenantNo) : State :=
  if (s.clusterTids c).any fun t => decide ((s.strand t).ctl.tenant = tenant) then s
  else
    let own := (s.cluster c).barriers.filter fun (e : Nat × Barrier) => e.2.active && decide (e.2.owner = tenant)
    (s.onSys fun y =>
      { y with savedBarriers := y.savedBarriers ++ own.map fun (e : Nat × Barrier) => (c, e.1, e.2) }).dropBarriers c tenant

/-- Groups that have not been placed are tried again (14 R413). -/
def State.retryGroups (s : State) : State :=
  if s.sys.launches.any fun (l : Launch) => !l.ended && decide (l.placed < l.groups.length) then s.push (.groupPlacement 0)
  else s

/-- A context is free: follow-up steps that may be due (11 R319, 14 R413). -/
def State.freed (s : State) (c : Nat) : State :=
  (if (s.clusterTids c).isEmpty then s.push (.csplitApply (BitVec.ofNat 7 c)) else s).retryGroups

/-! ### SAVE_COMPLETE (06 R207, R208, R209) -/

/-- A copy that uses the shared memory is not done; a collective that waits for its members is not waited for (16 R454). -/
def Slot.engineBusy (sl : Slot) : Bool := decide (sl.phase = .busy) && !sl.form.isReg && !sl.coll

/-- The steps that had started as the save began have committed: an entry that has found a fault stops there (06 R207, 12 R353). -/
def Strand.stepsDone (x : Strand) : Bool :=
  x.queue.all fun q => q.fault.isSome || (q.recheck.isEmpty && decide (q.started ≤ q.next))

/-- The save can finish: its accesses have returned, its started steps have committed, and, for a move or a tenant switch, its
stores have been acknowledged, its reservations are resolved and its engine copies are done (05 R176, 06 R207, 11 R339). -/
def Strand.saveReady (x : Strand) (w : Why) : Bool :=
  !x.waits && x.stepsDone && !(x.slots.toList.any fun sl => sl.midGroup) &&
    match w with
    | .move | .tenantSwitch =>
      decide (x.resv = 0) && x.sends.isEmpty && !(x.slots.toList.any fun sl => sl.engineBusy) && x.writes.isEmpty && x.posted.isEmpty
    | _ => true

/-- The saved strand: its lane groups are given up and its mark is consumed (06 R205, R206, R209). A fault that an entry behind the
head has found is found again (04 R143). -/
def Strand.savedAs (x : Strand) (w : Why) : Strand :=
  let y := x.queue.foldl (fun (x : Strand) q => x.clearElems q.id) x
  { y with
    run := .suspended w, savedLg := x.ctl.lg.toNat, mark := none, vec := { x.vec with lanes := [] }
    queue := x.queue.map fun q => { q.giveUp (q.saved x) with next := q.saved x, fault := none, recheck := [], handed := false } }

/-- A suspended strand joins the list of its cluster. -/
def State.suspend (s : State) (t : Tid) : State :=
  let x := s.strand t
  if x.savedLg = 0 then (if x.awaitsResume then s.push (.restoreComplete t) else s)
  else
    let s1 := if x.awaitsResume then s.noteWait t.cluster else s
    (s1.onStrand t fun x => { x with waitAt := s.sys.pool }).onCluster t.cluster fun k =>
      { k with suspended := k.suspended ++ [t] }

/-- The completions of slots that have not entered the share are put behind its messages (11 R339). DESIGN CHOICE: those for which the
32 messages of a block (05 R176) leave no room stay due, and enter the share after the resume (log 62). -/
def Strand.blockMsgs (x : Strand) (t : Tid) : Strand :=
  let due := ([0, 1, 2, 3] : List (BitVec 2)).filter fun q => decide ((x.slot q).phase = .done) && (x.slot q).msgDue
  (due.take (32 - (x.block.length + x.msgs.length))).foldl (fun (x : Strand) q =>
    { (x.setSlot q { x.slot q with msgDue := false }) with
      msgs := x.msgs ++ [{ header := completionHeader t q (x.slot q), payload := completionPayload (x.slot q), scope := .st }] }) x

/-- The strand of context `t` leaves its context for a move or a tenant switch: its record and message block are written, and
the context is free (05 R176). A bounce can bring a block that has not entered a share above 32 messages; what is above stays waiting
in the share (log 62). -/
def State.unbind (s : State) (t : Tid) : State × Strand :=
  let s1 := s.onStrand t fun x => x.blockMsgs t
  let x := s1.strand t
  let ms := x.block ++ x.msgs
  let s2 := (s1.writeRecord t).homeWrite none 0 (saveSlot x.ctl.tenant.toNat t + 0x400) (messageBlock (ms.take 32))
  (s2.onStrand t fun x => x.vacated, { s2.strand t with msgs := ms.drop 32, block := ms.take 32 })

/-- A saved strand is bound to context `u` with the given private window (05 R162, R175): the context's marks are cleared unless they
are its own (11 R340, R345), the L1 generation advances (04 R122), and the core's TCMSIZE covers its launch (14 R414). -/
def State.bindSaved (s : State) (u : Tid) (x : Strand) (window : Carried) (keep : Bool) : State :=
  let s1 := ((s.giveCore u.core x.ctl.tenant).putWindow u window).onCore u.core fun c =>
    { c with tcmSize := max c.tcmSize (s.tcmNeed x) }
  let s2 := s1.onStrand u fun old => x.bindTo old
  ((if keep then s2 else s2.clearMarks u).advanceGen u.cluster).suspend u

/-- Lane groups whose holder has been saved are fenced (12 R361). -/
def State.fenceFreed (s : State) (c : Nat) : State :=
  (List.range 8).foldl (fun (s : State) p =>
    if (s.cluster c).fencing.getLsbD p && !s.inUse c p then
      (s.upd (rLgstat c p) fun w => setBit w 16 true).onCluster c fun k =>
        { k with fencing := k.fencing &&& ~~~(BitVec.ofNat 8 (2 ^ p)) }
    else s) s

/-- The destination of the move in progress (14 R417); none when no context is free there any more: the strand then stays where it
is (log 28). -/
def State.moveTo (s : State) (tenant : TenantNo) : Option Tid :=
  match s.sys.schOp with
  | some v => s.nextContext (fld v 51 7) tenant
  | none => none

/-- The queued trap that the strand can still take (04 R143, R144). -/
def Strand.headFault (x : Strand) : Option (QEntry × QFault) :=
  if x.ctl.priv = .app then x.queue.head?.bind fun q => q.fault.map fun f => (q, f) else none

/-- SAVE_COMPLETE (06 R207 to R210). -/
def execSaveComplete (t : Tid) (s : State) : Result :=
  let x := s.strand t
  match x.run with
  | .saving w =>
    if !x.saveReady w then .next s
    else
      match x.headFault with
      -- A queued trap not yet delivered is taken first (06 R207).
      | some (q, f) => .next ((s.within t fun s => s.trapHead q f).push (.saveComplete t))
      | none =>
      let c := t.cluster
      let first := x.marksFor
      let s1 := ((s.within t fun s => s.scrubWords fun _ => true).onStrand t fun x => x.savedAs w).fenceFreed c
      (match w with
       | .move =>
         (match s1.moveTo x.ctl.tenant with
          | none => .next ((((s1.writeRecord t).suspend t).assignLanes c first).push .schcmdComplete)
          | some u =>
            let win := s1.privateWindow t
            let r := win.1.unbind t
            let s2 := (r.1.bindSaved u r.2 win.2 false).dropBarriers c x.ctl.tenant
            .next ((((s2.assignLanes c first).assignLanes u.cluster none).freed c).push .schcmdComplete))
       | .tenantSwitch =>
         let win := s1.privateWindow t
         let r := win.1.unbind t
         let s2 := (r.1.saveAt (windowKey x.ctl.tenant.toNat t) win.2).onSys fun y => { y with saved := y.saved ++ [(t, r.2)] }
         let s3 := if s2.coreBound t.core then s2 else s2.leaveCore t.core
         let s4 := s3.saveBarriers c x.ctl.tenant
         .next (((s4.assignLanes c first).freed c).push .schcmdComplete)
       | _ =>
         let s2 := ((s1.writeRecord t).suspend t).assignLanes c first
         let s3 := if w = .handlerFault then s2.post 0x05 t.toNat (word (saveSlot x.ctl.tenant.toNat t)) else s2
         .next (if s3.sys.schOp.isSome then s3.push .schcmdComplete else s3))
  | _ => .next s

/-! ### RESTORE_COMPLETE (06 R211) -/

/-- A request waits again, in the place that the clock at which it began to wait gives it (01 R38). -/
def State.rejoin (s : State) (t : Tid) : State :=
  let w := (s.strand t).waitAt
  (s.noteWait t.cluster).onCluster t.cluster fun k =>
    { k with
      waiting := (k.waiting.filter fun u => decide ((s.strand u).waitAt ≤ w)) ++ t ::
        k.waiting.filter fun u => !decide ((s.strand u).waitAt ≤ w) }

/-- The wait that a save interrupted goes on, or ends by what has happened meanwhile (01 R38). -/
def State.rewait (s : State) (t : Tid) (p : Park) : State :=
  let now := fun (s : State) (r : Run) => s.onStrand t fun x => { x with run := r, park := none, parkedAt := s.sys.pool }
  match p with
  | .waitmsg => (now s .running).within t State.waitmsg
  | .barw k =>
    if (s.barrier t.cluster k).done.getLsbD (Tid.inCluster t) then s.barwReturn t k else now s (.parked (.barw k))
  | .lullw since =>
    if since < s.sys.lull.spans then s.onStrand t fun x => x.wake none else now s (.parked (.lullw since))
  | .grant z d req h => ((now s (.parked (.grant z d req h))).rejoin t).assignLanes t.cluster none
  | .relocate => now s .running
  | .firmwareCall => now s .firmwareCall
  | .stopped => now s .stopped

/-- The saved slots' flags merge as the strand runs again (11 R335, R339). -/
def Strand.mergeSlots (x : Strand) : Strand :=
  let f := x.slots.toList.foldl (fun (f : BitVec 5) sl => f ||| sl.unmerged) 0
  { x.raise f 0 with slots := x.slots.map fun (sl : Slot) => { sl with unmerged := 0 } }

/-- The message block of the strand of context `t` fits the core's mailbox (05 R165, R176). -/
def State.blockFits (s : State) (t : Tid) : Bool := decide (s.mailUse t.core + (s.strand t).block.length ≤ 32)

/-- The strand of context `t` goes on after a save for `w`. DESIGN CHOICE: a park or halt that goes on counts from now for 06 R205,
which does not say from when it counts after a restore (log 55). -/
def State.goesOn (s : State) (t : Tid) (w : Why) : State :=
  let x := s.strand t
  let s0 := s.overwriteStray t.cluster x.vec.lanes fun m o =>
    m || decide (o < 4096 * shapeVrf x.ctl.shape) || (x.ctl.mt && decide (28672 ≤ o))
  let s1 := s0.onStrand t fun x =>
    let y := x.mergeSlots
    { y with
      run := if x.isHalted then .halted else .running
      savedLg := 0, parkedAt := s.sys.pool
      msgs := x.block ++ x.msgs, block := []
      ctl := { y.ctl with sql := y.ctl.sql || decide (w = .squall) } }
  let s2 := if x.isHalted then s1 else match x.park with | some p => s1.rewait t p | none => s1
  ((s2.pushAll (x.queue.map fun _ => .sequencerHandoff t)).wakeMail t.core).goOn t

/-- RESTORE_COMPLETE: the context is restored and the strand goes on (06 R206, R211, 01 R38), once the messages of its block fit the
mailbox (05 R165, R176). -/
def execRestoreComplete (t : Tid) (s : State) : Result :=
  let x := s.strand t
  match x.run with
  | .restoring w => if s.blockFits t then .next (s.goesOn t w) else .next s
  | .suspended w =>
    if x.savedLg = 0 ∧ x.awaitsResume = true then
      (if s.blockFits t then .next (s.goesOn t w) else .next (s.onStrand t fun x => { x with run := .restoring w }))
    else .next s
  | _ => .next s

/-! ### Grants and MTENTER complete -/

/-- The grant or MTENTER that context `t` waits at takes its result (06 R194, 10 R293). -/
def State.settleGrant (s : State) (t : Tid) : State :=
  let x := s.strand t
  match x.run with
  | .granting z d req h _ =>
    let ls := match x.grant with | some k => k.lanes | none => x.vec.lanes
    let s1 := s.within t fun s => s.finishGrant z d req h ls
    if ls.length < x.ctl.lg.toNat then s1.assignLanes t.cluster (x.grant.bind GrantHold.first) else s1
  | .entering _ => s.within t fun s => s.finishEnter x.vec.lanes
  | _ => s

/-- GRANT_COMPLETE (06 R194). -/
def execGrantComplete (t : Tid) (s : State) : Result :=
  match (s.strand t).run with
  | .granting .. => .next (s.settleGrant t)
  | _ => .next s

/-- The register banks and the mask file of the lane groups that change move to the lane groups `ls`: their words are read (10 R293,
12 R354). -/
def State.moveLanes (s : State) (ls : List Nat) : State :=
  let x := s.me
  let stays := fun (i : Nat) => decide (x.vec.lanes[i]? = ls[i]?)
  (s.scrubWords fun k => !stays (x.laneOfWord k / 16)).overwriteStray s.tid.cluster (ls.filter fun p => !x.vec.lanes.elem p)
    fun m o => m || decide (o < 4096 * shapeVrf x.ctl.shape)

/-- RELOCATE (10 R293): the grant moves to the square that is reserved for it, or to one whose lane groups are free or its own. -/
def execRelocate (t : Tid) (s : State) : Result :=
  let x := s.strand t
  match x.run, (x.grant.map GrantHold.lanes).or ((s.squareFor t.cluster x.vec.lanes).map squareOf) with
  | .parked .relocate, some ls =>
    let s1 := ((s.within t fun s => s.moveLanes ls).onStrand t fun x => { x with run := .entering 4, grant := none, vec := { x.vec with lanes := ls } }).leaveWaiting t
    .next (((s1.detach t).assignLanes t.cluster none).push (.mtenterComplete t))
  | _, _ => .next s

/-- MTENTER_COMPLETE (10 R293). -/
def execMtenterComplete (t : Tid) (s : State) : Result :=
  match (s.strand t).run with
  | .entering _ => .next (s.settleGrant t)
  | _ => .next s

end Sys2Proof.Machine
end

