-- ==== Sys2Proof/Machine/Debug.lean ====
section
/-! DEFINITION. The allocator's marks and deadlines (06 R203 to R205), debug control of a context (05 R178, R179, 15 R441) and
the return of a firmware call (04 R140). -/

namespace Sys2Proof.Machine

open Sys2Proof

/-! ### Marks (06 R203, R204) -/

/-- Some mark of the cluster is attached to this waiting request: one that is pending, or one that a grant form which has still to
free its lane groups has consumed (06 R205). -/
def State.markedFor (s : State) (c : Nat) (t : Tid) : Bool :=
  (s.clusterTids c).any fun u =>
    decide ((s.strand u).marksFor = some t) || decide ((s.strand u).grant.bind GrantHold.first = some t)

/-- The first waiting request or resume without a mark, in the order of 06 R201. -/
def State.firstUnmarked (s : State) (c : Nat) : Option Tid :=
  (s.resumable c ++ s.requests c).find? fun t => !s.markedFor c t

/-- Context `t` is marked. -/
def State.setMark (s : State) (t : Tid) (target : Nat) (a : Option Tid) : State :=
  s.onStrand t fun x => { x with mark := some { target := target, since := s.sys.pool, attached := a } }

/-- LAMARK (06 R202, R203). -/
def execLamark (c : ClusterNo) (v : Word) (s : State) : Result :=
  if !bitOf v 63 then .next s
  else
    let t : Tid := BitVec.ofNat 13 (fld v 0 13)
    let x := s.strand t
    let g := x.vec.lanes.length
    let bad := decide (g = 0) || !decide (t.cluster = c.toNat) || x.mark.isSome || decide (g ≤ fld v 16 4)
    let s1 := s.wr (rLastat c.toNat) (boolWord bad)
    .next (if bad then s1 else s1.setMark t (fld v 16 4) (s1.firstUnmarked c.toNat))

/-- `a` is marked before `b`: the tenant that holds the most lane groups now, the holder with the most, the lowest TID (06 R204). -/
def State.marksBefore (s : State) (c : Nat) (a b : Tid) : Bool :=
  let x := s.strand a
  let y := s.strand b
  let m := s.activeLg c x.ctl.tenant.toNat
  let n := s.activeLg c y.ctl.tenant.toNat
  if m ≠ n then decide (n < m)
  else if x.vec.lanes.length ≠ y.vec.lanes.length then decide (y.vec.lanes.length < x.vec.lanes.length)
  else decide (a.toNat < b.toNat)

/-- A holder that a mark can be put on: one without a mark whose save has not begun. DESIGN CHOICE for the save: the spec does not
say that a mark passes over a holder in SAVE, whose lane groups come free without it (log 55). -/
def Strand.markable (x : Strand) : Bool := x.mark.isNone && !x.isSaving

/-- The strands of a cluster that hold lane groups. -/
def State.holders (s : State) (c : Nat) : List Tid := (s.clusterTids c).filter fun u => !(s.strand u).vec.lanes.isEmpty

/-- The strand that the allocator marks for a request of a tenant: a holder of another tenant, or one of its own where no other tenant
holds lane groups (06 R204). -/
def State.victimFor (s : State) (c : Nat) (tenant : TenantNo) : Option Tid :=
  let hs := s.holders c
  let foreign := hs.filter fun u => !decide ((s.strand u).ctl.tenant = tenant)
  ((if foreign.isEmpty then hs else foreign).filter fun u => (s.strand u).markable).foldl (fun (b : Option Tid) u =>
    match b with
    | none => some u
    | some w => if s.marksBefore c u w then some u else some w) none

/-- The allocator marks a holder for context `t`: it waits for 64 clocks, its tenant has room, nothing free can serve it and
no mark is attached to it (06 R204). DESIGN CHOICE: an MTENTER that waits in Relocate gets no such mark, though a mark that firmware
writes may be attached to it (log 80). -/
def State.markDue (s : State) (t : Tid) : Bool :=
  let x := s.strand t
  let c := t.cluster
  decide (x.waitAt + 64 ≤ s.sys.pool) && !s.markedFor c t &&
    match x.run with
    | .parked (.grant ..) => decide (0 < s.room c x.ctl.tenant.toNat) && (s.requestLanes t false).isNone
    | .suspended _ => x.awaitsResume && decide (0 < x.savedLg) && (s.resumeLanes t).isNone
    | _ => false

/-- ALLOCATOR_MARK (06 R204). -/
def execAllocatorMark (t : Tid) (s : State) : Result :=
  if !s.markDue t then .next s
  else
    match s.victimFor t.cluster (s.strand t).ctl.tenant with
    | some u =>
      .next ((s.setMark u ((s.strand u).vec.lanes.length - 1) (some t)).onStrand t fun x => { x with waitAt := s.sys.pool })
    | none => .next s

/-! ### Deadlines (06 R205) -/

/-- LADL.DEADLINE of a cluster. -/
def State.deadline (s : State) (c : Nat) : Nat := fld (s.rd (rLadl c)) 0 17

/-- A squall can strike the context now; one that is stopped stays stopped through it (05 R181). -/
def Strand.canSave (x : Strand) : Bool :=
  match x.run with
  | .running | .exiting | .halted | .firmwareCall | .stopped => true
  | .parked p => (match p with | .grant .. => false | _ => true)
  | _ => false

/-- The deadline of the context's mark has passed. -/
def State.deadlineDue (s : State) (t : Tid) : Bool :=
  let x := s.strand t
  match x.mark with
  | some m => x.canSave && decide (m.since + s.deadline t.cluster ≤ s.sys.pool)
  | none => false

/-- DEADLINE_EXPIRY (06 R205). -/
def execDeadlineExpiry (t : Tid) (s : State) : Result :=
  if s.deadlineDue t then .next (s.beginSave t .squall) else .next s

/-- The context waits, or is halted, in a state that counts as parked for 06 R205. -/
def Strand.idles (x : Strand) : Bool :=
  match x.run with
  | .halted => true
  | .parked p => (match p with | .grant .. | .firmwareCall | .stopped => false | _ => true)
  | _ => false

/-- A parked or halted holder without a mark has waited for D clocks while a request or a resume waits (06 R205). -/
def State.parkDue (s : State) (t : Tid) : Bool :=
  let x := s.strand t
  let c := t.cluster
  let from_ := if x.relocates then x.parkedAt else max x.parkedAt (s.cluster c).reqAt
  x.idles && x.mark.isNone && !x.vec.lanes.isEmpty && s.othersWait t && decide (from_ + s.deadline c ≤ s.sys.pool)

/-- PARK_EXPIRY (06 R205). -/
def execParkExpiry (t : Tid) (s : State) : Result :=
  if s.parkDue t then .next (s.beginSave t .squall) else .next s

/-- The allocators' next event that is due. -/
def State.dueAlloc (s : State) : Option Event :=
  let ts := s.boundTids
  (((ts.find? fun t => s.deadlineDue t).map Event.deadlineExpiry).or
    ((ts.find? fun t => s.parkDue t).map Event.parkExpiry)).or
    ((ts.find? fun t => s.markDue t && (s.victimFor t.cluster (s.strand t).ctl.tenant).isSome).map Event.allocatorMark)

/-! ### Debug control (05 R178, R179) -/

/-- DBGCTL of a context as a word. -/
def Strand.dbgctl (x : Strand) : Word :=
  word (x.isHalted.toNat * 128 + (if x.isHalted then x.hcause.toNat else 0) * 16 + x.step.toNat * 8 + x.haltreq.toNat * 4
    + x.brken.toNat * 2 + x.attach.toNat)

/-- The condition of a halt holds: a BRK, a step done or a request, with a debugger attached. -/
def Strand.haltDue (x : Strand) : Bool := x.attach && (x.haltreq || !decide (x.hcause = 0))

/-- A running context halts at an instruction boundary (05 R179): a grant form that waits there will issue afresh. -/
def State.halt (s : State) (t : Tid) : State :=
  ((s.dropGrant t).scDone t).onStrand t fun x =>
    { x with run := .halted, hcause := if x.hcause = 0 then 2 else x.hcause, parkedAt := s.sys.pool }

/-- DEBUG_HALT (05 R179). -/
def execDebugHalt (t : Tid) (s : State) : Result :=
  let x := s.strand t
  if x.run = .running ∧ x.haltDue = true ∧ x.waits = false then .next (s.halt t) else .next s

/-- A halted context resumes from the state as written. -/
def State.debugResume (s : State) (t : Tid) : State :=
  let x := s.strand t
  if !x.isHalted then s
  else
    match x.run with
    | .halted =>
      let s1 := s.onStrand t fun x => { x with run := .running, hcause := 0 }
      (s1.pushAll ((s1.strand t).queue.map fun _ => .sequencerHandoff t)).goOn t
    | _ => s.onStrand t fun x => { x with hcause := 0 }

/-- A write to DBGCTL of a context (05 R178): its RW bits, then HALTED. -/
def State.writeDbgctl (s : State) (t : Tid) (v : Word) : State :=
  let s1 := s.onStrand t fun x =>
    { x with step := bitOf v 3, haltreq := bitOf v 2, brken := bitOf v 1, attach := bitOf v 0 }
  let s2 := if bitOf v 7 then s1.debugResume t else s1
  if bitOf v 2 && bitOf v 0 then s2.push (.debugHalt t) else s2

/-- DBGCTL_HALTREQ (05 R178). -/
def execDbgctlHaltreq (t : Tid) (v : Word) (s : State) : Result := .next (s.writeDbgctl t v)

/-- DBGCTL_RESUME (05 R178). -/
def execDbgctlResume (t : Tid) (v : Word) (s : State) : Result := .next (s.writeDbgctl t v)

/-! ### The debug window (15 R441) -/

/-- The bytes that a read by firmware returned. -/
def State.answer (s : State) (v : Word) : State := s.onSys fun y => { y with reply := natLe v.toNat 8, replyError := 0 }

/-- The context that the window of cluster `c` shows, and whether it shows one: EN is set and the context is halted. -/
def State.windowOf (s : State) (c : Nat) : Tid × Bool :=
  let sel := s.rd (rDbgsel c)
  let t : Tid := BitVec.ofNat 13 (64 * c + fld sel 0 6)
  (t, bitOf sel 6 && (s.strand t).isHalted)

/-- What word `k` of the window of cluster `c` reads as. -/
def State.windowWord (s : State) (c k : Nat) : Word :=
  if (s.windowOf c).2 then (s.strand (s.windowOf c).1).recordWord s.free.1 k else 0

/-- A read (`w` is none) or a write of word `k` of the window of cluster `c`. -/
def State.debugWindow (s : State) (c k : Nat) (w : Option Word) : State :=
  let o := s.windowOf c
  match w with
  | none => (if o.2 && decide (k = 57) && (s.strand o.1).hasVec then s.free.2 else s).answer (s.windowWord c k)
  | some v => if o.2 then State.onStrand { s with fresh := s.fresh + 1 } o.1 fun x => x.putRecordWord s.fresh k v else s

/-- DEBUG_WINDOW_ACCESS (15 R441). -/
def execDebugWindowAccess (c : ClusterNo) (off : BitVec 10) (w : Option Word) (s : State) : Result :=
  .next (s.debugWindow c.toNat (off.toNat / 8) w)

/-- MCTP_DEBUG_REQUEST: firmware serves the request through DBGCTL, DBGSEL and DBGWIN of the cluster (15 R441), while it runs and the
package is not in the fatal state (15 R436, R440); it serves no other register: such a request is not answered (log 29). -/
def execMctpDebugRequest (c : ClusterNo) (off : BitVec 16) (w : Option Word) (s : State) : Result :=
  let o := off.toNat
  let cn := c.toNat
  .next (if !s.managed then s
    else if 0x400 ≤ o ∧ o < 0x600 then
      (let t : Tid := BitVec.ofNat 13 (64 * cn + (o - 0x400) / 8)
       match w with
       | some v => s.writeDbgctl t v
       | none => s.answer (s.strand t).dbgctl)
    else if o / 8 = 0x600 / 8 then
      (match w with
       | some v => s.wr (rDbgsel cn) (v &&& 0x7F)
       | none => s.answer (s.rd (rDbgsel cn)))
    else if 0x1000 ≤ o ∧ o < 0x1400 then s.debugWindow cn ((o - 0x1000) / 8) w
    else s)

/-- FIRMWARE_CALL_RETURN: the strand resumes at EPC + 4 with a0 and a1 written (04 R140). -/
def execFirmwareCallReturn (t : Tid) (r0 r1 : Word) (s : State) : Result :=
  let x := s.strand t
  if x.run = .firmwareCall then
    .next (s.onStrand t fun x => { (x.setReg 4 r0).setReg 5 r1 with run := .running, pc := x.ctl.epc + 4 })
  else .next s

end Sys2Proof.Machine
end

