-- ==== Sys2Proof/Machine/Errors.lean ====
section
/-! DEFINITION. Recheck of slot steps (12 R348 to R353), the error log (12 R356), failing lanes (12 R360, R361), diagnostic stores
and injection (12 R362 to R364), and the cluster registers CBOWN (09 R283), CSPLIT (11 R319) and CFENCE (05 R182). -/

namespace Sys2Proof.Machine

open Sys2Proof

/-! ### Recheck -/

/-- The oldest entry that queue entry `n` has in the recheck queue, when it has made `runs` executions and the queue may commit. -/
def Strand.rechecking (x : Strand) (n runs : Nat) : Option (QEntry × RStep) :=
  match x.queue[n]?.bind fun q => q.recheck.head?.map fun r => (q, r) with
  | some p => if x.queueCommits && decide (p.2.runs = runs) then some p else none
  | none => none

/-- Recheck entry `k` of queue entry `n` replaced. -/
def State.putStep (s : State) (t : Tid) (n k : Nat) (q : QEntry) (r : RStep) : State :=
  s.onStrand t fun x => { x with queue := x.queue.set n { q with recheck := q.recheck.set k r } }

/-- The step commits and its entry of the recheck queue is freed (12 R348, R349). -/
def State.commitChecked (s : State) (t : Tid) (n : Nat) (q : QEntry) : State :=
  (s.within t fun s => s.commitStep n { q with recheck := q.recheck.tail }).goOn t

/-- Records of severity `sev` for logical lanes of context `t` (12 R350, R351, R357). -/
def State.laneRecords (s : State) (t : Tid) (q : QEntry) (r : RStep) (sev : Nat) (roll : Bool) (lanes : List Nat) : State :=
  s.within t fun s =>
    let ir := s.ir
    let s1 := lanes.foldl (fun (s : State) k => s.logLane false sev 4 k 0 roll 0 (laneTval k r.lo)) { s with ir := q.raw }
    { s1 with ir := ir }

/-- One more error in each of these logical lanes (12 R358). -/
def State.countLanes (s : State) (t : Tid) (lanes : List Nat) : State :=
  s.within t fun s => lanes.foldl (fun (s : State) k => let p := s.laneAt k; s.countLane t.cluster p.1 p.2) s

/-- These logical lanes are marked failed (12 R351, R360). -/
def State.markLanes (s : State) (t : Tid) (lanes : List Nat) : State :=
  s.within t fun s => lanes.foldl (fun (s : State) k => let p := s.laneAt k; s.markLane t.cluster p.1 p.2) s

/-- Lanes of the grant. -/
def Strand.realLanes (x : Strand) (ls : List Nat) : List Nat := ls.filter fun k => decide (k < x.lanesWide)

/-- The step is abandoned: nothing of it commits, and the strand is saved and held (12 R351). -/
def State.abandon (s : State) (t : Tid) (n : Nat) (q : QEntry) : State :=
  (s.within t fun s => (s.setEntry n { q.giveUp q.next with recheck := [] }).saveHeld).goOn t

/-- RECHECK_SECOND_EXECUTION of the oldest step of entry `n` that waits for it (12 R348). -/
def execRecheckSecondExecution (t : Tid) (n : Nat) (s : State) : Result :=
  let x := s.strand t
  if !x.canRecheck n then .next s
  else
    match x.queue[n]? with
    | none => .next s
    | some q =>
      match q.recheck.findIdx? fun (r : RStep) => decide (r.runs = 1) with
      | none => .next s
      | some k =>
        match q.recheck[k]? with
        | some r => .next (((s.putStep t n k q { r with runs := 2 }).push (.recheckCompare t n [])).resumeQueue t)
        | none => .next s

/-- RECHECK_COMPARE: the lanes whose two executions disagree are those in which the first result differs from what the operand buffer
gives, and `bad` (12 R349, R350). -/
def execRecheckCompare (t : Tid) (n : Nat) (bad : List Nat) (s : State) : Result :=
  let x := s.strand t
  match x.rechecking n 2 with
  | some (q, r) =>
    let b := (x.realLanes (bad ++ (s.focus t).disagree q r)).eraseDups
    .next (if b.isEmpty then s.commitChecked t n q
      else (s.putStep t n 0 q { r with runs := 3, bad := b }).push (.recheckVote t n b []))
  | none => .next s

/-- RECHECK_VOTE: the third execution decides each lane by majority; `nomaj` are the lanes without one (12 R350 to R352). The
vote that is due is taken over the lanes whose first executions disagreed. -/
def execRecheckVote (t : Tid) (n : Nat) (_bad : List Nat) (nomaj : List Nat) (s : State) : Result :=
  let x := s.strand t
  match x.rechecking n 3 with
  | some (q, r) =>
    let m := (x.realLanes nomaj).filter fun k => r.bad.elem k
    let voted := r.bad.filter fun k => !m.elem k
    if m.isEmpty then .next (((s.laneRecords t q r 4 false voted).countLanes t voted).commitChecked t n q)
    else if opIsWhole q.op then
      .next (((((s.laneRecords t q r 4 false voted).laneRecords t q r 5 false m).countLanes t r.bad)).abandon t n q)
    else .next ((s.putStep t n 0 q { r with runs := 4, split := m }).push (.recheckRollback t n m true))
  | none => .next s

/-- RECHECK_ROLLBACK: the lanes without a majority execute twice more; `agree` says whether the two results agree in each. A second
failure abandons the step (12 R351). The lanes are those that the vote has left. -/
def execRecheckRollback (t : Tid) (n : Nat) (_nomaj : List Nat) (agree : Bool) (s : State) : Result :=
  let x := s.strand t
  match (x.rechecking n 4).or (x.rechecking n 5) with
  | none => .next s
  | some (q, r) =>
    let m := r.split
    let s1 := s.markLanes t m
    let outcome := fun (s : State) (sev : Nat) =>
      ((s.laneRecords t q r 4 false (r.bad.filter fun k => !m.elem k)).laneRecords t q r sev true m).countLanes t r.bad
    if agree then .next ((outcome s1 4).commitChecked t n q)
    else if r.runs = 4 then .next ((s1.putStep t n 0 q { r with runs := 5 }).push (.recheckRollback t n m true))
    else .next ((outcome s1 5).abandon t n q)

/-! ### Registers of the error log and of failing lanes -/

/-- ELOGTAIL_WRITE (12 R356). -/
def execElogtailWrite (c : ClusterNo) (v : Word) (s : State) : Result :=
  let h := fld (s.rd (rEloghead c.toNat)) 0 32
  .next ((s.wr (rElogtail c.toNat) (word (min (fld v 0 32) h))).upd (rEloghead c.toNat) fun w => setFld w 32 8 0)

/-- A write to LGSTATp: FENREQ, then MARK of lane MLANE (12 R360). -/
def State.writeLgstat (s : State) (c p : Nat) (v : Word) : State :=
  let s1 := s.upd (rLgstat c p) fun w => setBit w 10 (bitOf v 10)
  if bitOf v 15 then s1.markLane c p (fld v 11 4) else s1

/-- LGSTAT_MARK (12 R360). -/
def execLgstatMark (c : ClusterNo) (p : BitVec 3) (v : Word) (s : State) : Result := .next (s.writeLgstat c.toNat p.toNat v)

/-- LGSTAT_FENREQ (12 R360). -/
def execLgstatFenreq (c : ClusterNo) (p : BitVec 3) (v : Word) (s : State) : Result := .next (s.writeLgstat c.toNat p.toNat v)

/-- The strand that holds a lane group, with its grant number. -/
def State.holderOf (s : State) (c p : Nat) : Option (Tid × Nat) :=
  (s.clusterTids c).findSome? fun t => ((s.strand t).vec.lanes.findIdx? fun g => decide (g = p)).map fun i => (t, i)

/-- The storage of lane `l` of a lane group is copied to the spare: every word of it is read, and those of the spare are overwritten
(12 R354, R361). -/
def State.copyLane (s : State) (c p l : Nat) : State :=
  let s1 := match s.holderOf c p with
    | some h => s.within h.1 fun s => s.scrubWords fun k => decide (s.me.laneOfWord k = 16 * h.2 + l)
    | none => s
  let s2 := s1.strayRead c fun k => decide (strayGroup k = p ∧ strayLane k = l)
  if (s2.cluster c).stray.isEmpty then s2
  else s2.onCluster c fun k =>
    { k with stray := k.stray.filter fun (e : Nat × (Word × Byte)) => !decide (strayGroup e.1 = p ∧ strayLane e.1 = 16) }

/-- SUBSTITUTION_DONE: the spare takes the failed lane's place, and slot steps start again (12 R361). -/
def execSubstitutionDone (c : ClusterNo) (p : BitVec 3) (s : State) : Result :=
  if (s.cluster c.toNat).copying.getLsbD p.toNat then
    let s0 := s.copyLane c.toNat p.toNat (fld (s.rd (rLgstat c.toNat p.toNat)) 5 4)
    let s1 := (s0.upd (rLgstat c.toNat p.toNat) fun w => setBit (setFld (setBit w 4 true) 0 4 (fld w 5 4)) 9 false).onCluster c.toNat
      fun k => { k with copying := k.copying &&& ~~~(BitVec.ofNat 8 (2 ^ p.toNat)) }
    .next ((s1.clusterTids c.toNat).foldl (fun (s : State) t => s.goOn t) s1)
  else .next s

/-! ### Diagnostic stores (12 R362) -/

/-- ERRCFG.INJEN. -/
def State.injEn (s : State) (c : Nat) : Bool := bitOf (s.rd (rErrcfg c)) 0

/-- The target of DSADDR exists. -/
def dsTargetOk (a : Word) : Bool :=
  let off := fld a 0 21
  match fld a 60 4 with
  | 0 => true
  | 1 => decide (off < 0x8000)
  | 2 => decide (off < 0x1000)
  | 3 => decide (off < 0x18000)
  | _ => false

/-- A write to DSCHK: ERR cleared by writing 1, then GO or CALC, or CHK alone. -/
def State.writeDschk (s : State) (c : Nat) (v : Word) : State :=
  let old := s.rd (rDschk c)
  let chk := fld v 0 8
  let go := bitOf v 63
  let check := bitOf v 62
  let err := bitOf old 61 && !bitOf v 61
  let put := fun (e : Bool) (k : Nat) => s.wr (rDschk c) (word (e.toNat * 2 ^ 61 + k))
  if !go && !check then put err chk
  else if !s.injEn c then s.wr (rDschk c) (setBit old 61 true)
  else if go && check then put true (fld old 0 8)
  else if check then put false (checkBits (s.rd (rDsdata c))).toNat
  else if !dsTargetOk (s.rd (rDsaddr c)) then put true (fld old 0 8)
  else ((put false chk).onCluster c fun k => { k with diagDue := true }).push (.diagnosticStore (BitVec.ofNat 7 c))

/-- DSCHK_GO (12 R362). -/
def execDschkGo (c : ClusterNo) (v : Word) (s : State) : Result := .next (s.writeDschk c.toNat v)

/-- DSCHK_CALC (12 R362). -/
def execDschkCalc (c : ClusterNo) (v : Word) (s : State) : Result := .next (s.writeDschk c.toNat v)

/-- A word of memory with check bits that disagree with its data by `y`. -/
def State.plant (s : State) (k : Nat) (d : Word) (y : Byte) : State :=
  { s with
    mem := s.mem.setBytes k (natLe d.toNat 8)
    synd := NMap.set 0 s.synd (k / 8) y
    poison := NMap.set false s.poison (k / 8) false }

/-- A word stored in a way of a cluster's SRAM that serves as L1, with a syndrome: the line that lies there holds it as stored until a
read checks it (11 R319, 12 R354). -/
def State.plantL1 (s : State) (c off : Nat) (d : Word) (y : Byte) : State :=
  let way := off / 0x20000 - (16 - (s.cluster c).l1Ways)
  let set := off % 0x20000 / 64
  let w := off % 64 / 8
  s.onCluster c fun k =>
    { k with
      l1 := NMap.set [] k.l1 set ((NMap.get [] k.l1 set).map fun (l : Line) =>
        if l.way = way then { l with data := patch l.data (8 * w) (natLe d.toNat 8), synd := NMap.set 0 l.synd w y } else l) }

/-- The stored word of the vector context at a byte offset of logical lane `k`'s storage (06 R184, R187, 10 R290). -/
def Strand.wordAtOffset (x : Strand) (k off : Nat) : Option Nat :=
  let b := 4096 * shapeVrf x.ctl.shape / shapeRegs x.ctl.shape
  if off < 4096 * shapeVrf x.ctl.shape then some (storeKey (off / b) (off % b / 8 * x.lanesWide + k))
  else if x.ctl.mt && decide (28672 ≤ off) then
    (let cell := off % 512 / 8
     let n := (off - 28672) / 512
     ((List.range 4096).find? fun w =>
       decide (x.cellLane (w / 64) (w % 64) = k) && decide (8 * (w / 64 % 8) + w % 8 = cell)
         && decide (w / 64 < x.tileSide ∧ w % 64 < x.tileSide)).map fun w => storeKey 40 (4096 * n + w))
  else none

/-- A stored word of the vector context replaced, with its syndrome. -/
def Strand.plantWord (x : Strand) (k : Nat) (d : Word) (y : Byte) : Strand :=
  let z := x.setStored k d
  { z with vec := { z.vec with regSynd := NMap.set 0 z.vec.regSynd k y, regPoison := NMap.set false z.vec.regPoison k false } }

/-- The logical lane that DSADDR names, if a strand holds it: a spare counts as the lane it replaces (06 R183). -/
def State.dsLane (s : State) (c : Nat) (a : Word) : Option (Tid × Nat) :=
  let p := fld a 57 3
  let w := s.rd (rLgstat c p)
  if bitOf a 52 && !bitOf w 4 then none
  else (s.holderOf c p).map fun (h : Tid × Nat) => (h.1, 16 * h.2 + if bitOf a 52 then fld w 0 4 else fld a 53 4)

/-- The diagnostic store of DSDATA with DSCHK.CHK at DSADDR. -/
def State.diagStore (s : State) (c : Nat) : State :=
  let a := s.rd (rDsaddr c)
  let d := s.rd (rDsdata c)
  let y := BitVec.ofNat 8 (fld (s.rd (rDschk c)) 0 8) ^^^ checkBits d
  let off := fld a 0 21
  match fld a 60 4 with
  | 0 => if off / 0x20000 < 16 - (s.cluster c).l1Ways then s.plant (sramKey c off) d y else s.plantL1 c off d y
  | 3 => s.plant (tcmKey (16 * c + fld a 48 4) off) d y
  | n =>
    let lane := if bitOf a 52 then (if bitOf (s.rd (rLgstat c (fld a 57 3))) 4 then fld (s.rd (rLgstat c (fld a 57 3))) 0 4 else 16)
      else fld a 53 4
    let stray := s.onCluster c fun k =>
      { k with
        stray := NMap.set (0, 0) k.stray (strayKey (fld a 57 3) lane (decide (n = 2)) off) (if y = 0 then (0, 0) else (d, y)) }
    match s.dsLane c a with
    | none => stray
    | some h =>
      if n = 1 then
        (match (s.strand h.1).wordAtOffset h.2 off with
         | some k => s.onStrand h.1 fun x => x.plantWord k d y
         | none => stray)
      else s.onStrand h.1 fun x => x.plantWord (storeKey (32 + off / 512) (off % 512 / 8 * x.lanesWide + h.2)) d y

/-- DIAGNOSTIC_STORE (12 R362). -/
def execDiagnosticStore (c : ClusterNo) (s : State) : Result :=
  if (s.cluster c.toNat).diagDue then .next ((s.diagStore c.toNat).onCluster c.toNat fun k => { k with diagDue := false })
  else .next s

/-- DINJ_ARM: a write to DINJ (12 R359, R363). -/
def execDinjArm (c : ClusterNo) (v : Word) (s : State) : Result :=
  let r := rDinj c.toNat
  if !s.injEn c.toNat then .next (s.upd (rDschk c.toNat) fun w => setBit w 61 true)
  else
    let u := fld v 52 6
    let ok := !(bitOf v 61) || decide (u = 4) || decide (u = 5) || decide (u = 6)
    let keep := v &&& 0xB3FFFE0000000000
    let fired := bitOf (s.rd r) 62 && !bitOf v 62
    .next (s.wr r (setBit (setBit keep 63 (bitOf v 63 && ok)) 62 fired))

/-! ### Injection into the registers and the instruction cache of a core (12 R364, 05 R181) -/

/-- The register that an injection aimed at the core's registers names in W2, by a free value: a scalar register, or a control
register (12 R357, log 31). -/
def State.injectedReg (s : State) (v : Word) : Word :=
  if bitOf v 63 && (s.ctlValue (fld v 32 12)).isSome then word (2 ^ 63 + fld v 32 12 * 2 ^ 32) else word (fld v 0 5)

/-- Before the strand in focus issues: an injection aimed at the instruction cache or at the core's registers fires. The flag
says that the context stops (log 31). -/
def State.issueInject (s : State) : State × Bool :=
  if !bitOf (s.rd (rDinj s.tid.cluster)) 63 then (s, false)
  else
    match s.fetchPlace s.me.pc with
    | .error _ => (s, false)
    | .ok p =>
      let way := (((s.core s.tid.core).icacheFind p.key).map Line.way).getD 0
      let a := s.unitReport 0x12 (word (way * 4096 + p.key % 4096))
      let s1 :=
        if (s.reportArmed 0x12).isSome then
          a.1.onCore s.tid.core fun c =>
            { c with
              icache := NMap.set [] c.icache (icacheSet p.key)
                ((NMap.get [] c.icache (icacheSet p.key)).filter fun (l : Line) => !decide (l.tag = p.key / 64)) }
        else a.1
      if (s1.reportArmed 0x10).isNone then (s1, false)
      else
        let f := s1.free
        let b := f.2.unitReport 0x10 (s1.injectedReg f.1)
        if b.2 then (b.1.onMe fun x => { x with run := .stopped }, true) else (b.1, false)

/-! ### CBOWN, CSPLIT and CFENCE -/

/-- CBOWN_WRITE: the loaded table becomes the default table (09 R283). -/
def execCbownWrite (c : ClusterNo) (v : Word) (s : State) : Result :=
  .next ((s.wr (rCbown c.toNat) (v &&& 0x3F)).onCluster c.toNat fun k => { k with codebook := [] })

/-- The bytes, poison and syndromes of `n` bytes from key `k` go. -/
def State.wipe (s : State) (k n : Nat) : State :=
  { s with
    mem := s.mem.clear k n
    poison := s.poison.dropWhere fun w => decide (k ≤ 8 * w ∧ 8 * w < k + n)
    synd := s.synd.dropWhere fun w => decide (k ≤ 8 * w ∧ 8 * w < k + n) }

/-- CSPLIT_APPLY: the division takes effect while the cluster holds no bound strand (11 R319). -/
def execCsplitApply (c : ClusterNo) (s : State) : Result :=
  let cn := c.toNat
  let want := fld (s.rd (rCsplit cn)) 0 5
  let have_ := (s.cluster cn).l1Ways
  if (s.clusterTids cn).isEmpty && !decide (want = have_) then
    let lo := 16 - max want have_
    let hi := 16 - min want have_
    .next ((s.wipe (sramKey cn (0x20000 * lo)) (0x20000 * (hi - lo))).onCluster cn fun k => { k with l1 := [], l1Ways := want })
  else .next s

/-- CFENCE_REQUEST: a write to CFENCE.REQ; a bit whose DONE bit is set stays, and one that is cleared opens its core again
(05 R182). -/
def execCfenceRequest (c : ClusterNo) (v : Word) (s : State) : Result :=
  .next (s.upd (rCfence c.toNat) fun w =>
    setFld w 0 16 (((w >>> 16) &&& 0xFFFF).toNat &&& (w.toNat % 65536) ||| v.toNat % 65536)).retryGroups

end Sys2Proof.Machine
end

