-- ==== Sys2Proof/Machine/Die.lean ====
section
/-! DEFINITION. Events of a compute die: DRAM rows and hints (13 R378 to R382), page walks and TLB invalidation (13 R390, R391),
page migration (13 R392 to R394), the memory-side scratchpad (13 R384), DRAM injection and the die error log (13 R398 to R400),
and the installation of keys (14 R405). -/

namespace Sys2Proof.Machine

open Sys2Proof

/-- Outside lull drains and lulls: the DRAM controllers serve requests (14 R421). -/
def State.clear (s : State) : Bool := decide (s.sys.lull.phase = .clear)

/-- Requests of context `t` to the host that a link has held leave (14 R421). -/
def State.sendHeld (s : State) (t : Tid) : State :=
  (List.range (s.strand t).pend.length).foldl (fun (s : State) i =>
    match (s.strand t).pend[i]? with
    | some p =>
      if p.tag.isNone && p.fail.isNone && (match p.parts with | (q, _) :: _ => q.far | [] => false) then
        (let r := s.sendPend (s.agentOf t) p
         r.1.onStrand t fun x => { x with pend := x.pend.set i r.2 })
      else s
    | none => s) s

/-- What the homes have still to serve of context `t`, each with the number of its access. -/
def State.homeWaits (s : State) (t : Tid) : List (Nat × Event) :=
  let x := s.strand t
  ((s.servableStores t).filterMap fun i => x.writes[i]?.map fun e => (e.id, Event.homeRequest t 0))
    ++ ((s.cleared t).filterMap fun i => x.writes[i]?.map fun e => (e.id, Event.invalidationAck t 0))
    ++ (s.servablePends t).filterMap fun i => x.pend[i]?.map fun p => (p.id, Event.homeRequest t 0)

/-- What a key installation, a conversion, or a drain and lull, has held goes on, before what has come later: requests from outside the
compute dies and the strands' accesses in the order in which they arrived, then what vector queues and stream engines wait for
(13 R384, 14 R405, R421). -/
def State.releaseKept (s : State) : State :=
  let s1 := s.boundTids.foldl State.sendHeld s
  let held := sortBy Prod.fst (s1.sys.kept ++ s1.boundTids.flatMap s1.homeWaits)
  let s2 := (s1.onSys fun y => { y with kept := [] }).pushFront (held.map Prod.snd)
  let s3 := (sortBy (fun t => ((s2.strand t).queue.head?.map QEntry.id).getD 0) s2.boundTids).foldl (fun (s : State) t => s.goOn t) s2
  s3.pushAll (((s3.boundTids.filter fun t => (s3.strand t).slotBusy).map fun t => t.cluster).eraseDups.map fun c =>
    .streamUnit (BitVec.ofNat 7 c))

/-! ### Rows (13 R378 to R380, R382) -/

/-- The row of an address is open. -/
def State.openRow (s : State) (pa : Nat) : State :=
  match dramRow pa with
  | some (b, r) => s.onSys fun y => { y with rows := NMap.set 0 y.rows b (r + 1) }
  | none => s

/-- DRAM_ACCESS: the access opens its row, or hits it (13 R380); in a drain or a lull it is held, and the lull's end asks for
it again (14 R421). -/
def execDramAccess (pa : Word) (s : State) : Result :=
  .next (if s.clear then s.openRow (pa.toNat % 2 ^ 52)
    else if (dramRow (pa.toNat % 2 ^ 52)).isSome then
      s.onSys fun y => { y with dramHeld := y.dramHeld ++ [pa.toNat % 2 ^ 52] }
    else s)

/-- ROW_IDLE_CLOSE (13 R380). -/
def execRowIdleClose (pa : Word) (s : State) : Result :=
  match dramRow (pa.toNat % 2 ^ 52) with
  | some (b, _) => .next (s.onSys fun y => { y with rows := NMap.set 0 y.rows b 0 })
  | none => .next s

/-- RACT_ARRIVAL: the `n`-th hint on its way activates its row, or is dropped when the row is open (13 R382). -/
def execRactArrival (n : Nat) (s : State) : Result :=
  match s.sys.racts[n]? with
  | none => .next s
  | some pa =>
    if s.clear then .next ((s.onSys fun y => { y with racts := y.racts.eraseIdx n }).openRow pa) else .next s

/-! ### Walks and TLB invalidation (13 R390, R391) -/

/-- The instruction of context `t` for whose access to the page of `va` a walk runs: that of an outstanding access to the page, else the
oldest memory instruction of its vector queue, else the instruction at its program counter, which waits at issue. -/
def State.walkFor (s : State) (t : Tid) (va : Nat) : Words :=
  let x := s.strand t
  match x.pend.find? fun p => decide (p.addr.toNat / 2 ^ 16 = va / 2 ^ 16) with
  | some p => .w32 (BitVec.ofNat 32 p.raw)
  | none =>
    match x.queue.find? fun q => opIsMem q.op with
    | some q => q.raw
    | none => match (s.focus t).fetch.2 with | .ok w => w | .error _ => .event

/-- WALK_COMPLETE: a walk for an access of context `t` ends; a failing walk fills nothing, and the record of a poisoned entry names the
instruction of that access (13 R388, R390, R399). -/
def execWalkComplete (t : Tid) (va : Word) (s : State) : Result :=
  if !(s.strand t).bound then .next s
  else
    let a := s.agentOf t
    let v := va.toNat % 2 ^ 48
    match s.leafFor a v with
    | .ok (leaf, big) => .next (s.noteWalk a v leaf big)
    | .error (.entry die pa) =>
      .next { (State.logEntry { s with ir := s.walkFor t v } a die pa) with ir := s.ir }
    | .error _ => .next s

/-- TLBINV names the entry. -/
def tlbNamed (w : Word) (e : TlbEntry) : Bool :=
  decide (e.tenant = fld w 32 5)
    && (bitOf w 61 || (if e.big then decide (e.vpn = fld w 0 32 / 2 ^ 13) else decide (e.vpn = fld w 0 32)))

/-- Every TLB of the package without the entries that satisfy `p`. -/
def State.dropTlb (s : State) (p : TlbEntry → Bool) : State :=
  let cut := fun (m : NMap (List TlbEntry)) =>
    m.foldl (fun (m : NMap (List TlbEntry)) (e : Nat × List TlbEntry) => NMap.set [] m e.1 (e.2.filter fun x => !p x)) []
  { s with
    clusters := s.clusters.foldl (fun (m : NMap Cluster) (e : Nat × Cluster) =>
      NMap.set Cluster.reset m e.1 { e.2 with tlb := cut e.2.tlb, laneTlb := cut e.2.laneTlb }) []
    sys := { s.sys with tlb := s.sys.tlb.filter fun x => !p x } }

/-- Every access that used an entry of the tenant has performed at pk. -/
def State.tenantQuiet (s : State) (tenant : Nat) : Bool :=
  s.boundTids.all fun t =>
    let x := s.strand t
    !decide (x.ctl.tenant.toNat = tenant) || (x.performedAt .pk && x.pend.isEmpty)

/-- A write to TLBINV of a die (13 R391). -/
def State.writeTlbinv (s : State) (d : Nat) (v : Word) : State :=
  if NMap.get false s.sys.tlbinv d then s
  else
    let s1 := s.wr (rTlbinv d) (v &&& 0x2000001FFFFFFFFF)
    if bitOf v 63 then s1.onSys fun y => { y with tlbinv := NMap.set false y.tlbinv d true } else s1

/-- TLBINV_GO (13 R391). -/
def execTlbinvGo (die : DieNo) (v : Word) (s : State) : Result := .next (s.writeTlbinv die.toNat v)

/-- The invalidation of a die can end. -/
def State.tlbinvReady (s : State) (d : Nat) : Bool :=
  NMap.get false s.sys.tlbinv d && s.tenantQuiet (fld (s.rd (rTlbinv d)) 32 5)

/-- TLBINV_DONE (13 R391). -/
def execTlbinvDone (die : DieNo) (s : State) : Result :=
  let d := die.toNat
  if s.tlbinvReady d then
    .next (State.onSys { s.dropTlb (tlbNamed (s.rd (rTlbinv d))) with fresh := s.fresh + 1 } fun y =>
      { y with tlbinv := NMap.set false y.tlbinv d false })
  else .next s

/-! ### Migration (13 R392 to R394) -/

/-- A frame is the source or the target of another active channel. -/
def State.frameBusy (s : State) (me f : Nat) : Bool :=
  s.sys.migrating.any fun i =>
    !decide (i = me) && (decide (fld (s.rd (rMigsrc (i / 4) (i % 4))) 16 36 = f)
      || decide (fld (s.rd (rMigdst (i / 4) (i % 4))) 16 36 = f))

/-- A frame can hold a page of class 0: it lies in HBM or in the capacity tier (13 R385). -/
def migratable (f : Nat) : Bool := match region (f * 2 ^ 16) with | .hbm .. | .cap .. => true | _ => false

/-- The words of `n` bytes of memory from `k` that hold something. -/
def State.wordsIn (s : State) (k n : Nat) : List Nat :=
  ((s.mem.filter fun c => decide (k ≤ c.1) && decide (c.1 < k + n)).map fun c => c.1 / 8).eraseDups

/-- The leaves of a page table, with whether each is one of 512 MiB (13 R386). -/
def State.leaves (s : State) (table : Nat) : Nat → List (Word × Bool)
  | 0 => []
  | fuel + 1 =>
    let level := 2 - fuel
    (s.wordsIn table (if level = 0 then 512 else 65536)).flatMap fun w =>
      match s.entrySeen (8 * w) with
      | some e =>
        if !pteValid level e then [] else if bitOf e 6 then [(e, decide (level = 1))] else State.leaves s (tableOf e) fuel
      | none => []

/-- Some leaf of a tenant's table on die `d` maps the frame with a class other than 0 (13 R385, log 32). -/
def State.frameClassed (s : State) (d f : Nat) : Bool :=
  (List.range 32).any fun t =>
    let root := s.rd (rPtroot d t)
    bitOf root 0 && (s.leaves (fld root 9 43 * 512) 3).any fun e =>
      !decide (fld e.1 60 2 = 0) && (if e.2 then decide (fld e.1 29 23 = f / 2 ^ 13) else decide (fld e.1 16 36 = f))

/-- A write to MIGCTLn: DONE and ERR cleared by writing 1, then GO (13 R392). Clearing DONE ends the redirection. A channel that
is busy or still redirects refuses GO (log 32), and so does one whose frames cannot hold a page of class 0, or whose page has another
class (13 R385). -/
def State.writeMigctl (s : State) (d n : Nat) (v : Word) : State :=
  let r := rMigctl d n
  let i := 4 * d + n
  let done := bitOf (s.rd r) 61
  let s1 :=
    if done && bitOf v 61 then
      (s.wr r (setBit 0 60 (bitOf (s.rd r) 60))).onSys fun y => { y with migrating := y.migrating.filter fun j => !decide (j = i) }
    else s
  let s2 := if bitOf v 60 then s1.upd r fun w => setBit w 60 false else s1
  if !bitOf v 63 then s2
  else
    let src := fld (s2.rd (rMigsrc d n)) 16 36
    let dst := fld (s2.rd (rMigdst d n)) 16 36
    if s2.sys.migrating.elem i || decide (src = dst) || s2.frameBusy i src || s2.frameBusy i dst || !migratable src
        || !migratable dst || s2.frameClassed d src then
      s2.upd r fun w => setBit w 60 true
    else (s2.wr r (setBit 0 62 true)).onSys fun y => { y with migrating := y.migrating ++ [i] }

/-- MIGCTL_GO (13 R392). -/
def execMigctlGo (die : DieNo) (q : BitVec 2) (v : Word) (s : State) : Result := .next (s.writeMigctl die.toNat q.toNat v)

/-- MIGCTL_DONE_CLEAR (13 R392). -/
def execMigctlDoneClear (die : DieNo) (q : BitVec 2) (v : Word) (s : State) : Result :=
  .next (s.writeMigctl die.toNat q.toNat v)

/-- The value of a sparse table at the words of line `to_` taken from those of line `fr`. -/
def copyWords (m : NMap Byte) (fr to_ : Nat) : NMap Byte :=
  (List.range 8).foldl (fun m i => NMap.set 0 m (8 * to_ + i) (NMap.get 0 m (8 * fr + i))) m

/-- The value of line `fr` written to line `to_` (13 R393): its bytes, their key, their poison. -/
def State.copyLine (s : State) (fr to_ : Nat) : State :=
  { s with
    mem := s.mem.setBytes (64 * to_) (s.mem.bytes (64 * fr) 64)
    poison := (List.range 8).foldl (fun m i => NMap.set false m (8 * to_ + i) (NMap.get false m (8 * fr + i))) s.poison
    synd := copyWords s.synd fr to_
    lineKey := NMap.set 0 s.lineKey to_ (NMap.get 0 s.lineKey fr) }

/-- A channel moves lines now: no lock is started in a drain or a lull (13 R394). -/
def State.migrates (s : State) (d n : Nat) : Bool := bitOf (s.rd (rMigctl d n)) 62 && s.clear

/-- MIGRATION_LINE_DONE: the next line has moved (13 R393, R394). -/
def execMigrationLineDone (die : DieNo) (q : BitVec 2) (s : State) : Result :=
  let d := die.toNat
  let n := q.toNat
  if s.migrates d n then
    let r := rMigctl d n
    let k := fld (s.rd r) 0 11
    let line := fun (f : Nat) => f * 1024 + k
    let fr := line (fld (s.rd (rMigsrc d n)) 16 36)
    let to_ := line (fld (s.rd (rMigdst d n)) 16 36)
    let s1 := (s.copyLine fr to_).moveLine fr to_
    let w := setFld (s1.rd r) 0 11 (k + 1)
    .next (({ s1 with fresh := s1.fresh + 1 }).wr r (if k + 1 = 1024 then setBit (setBit w 62 false) 61 true else w))
  else .next s

/-! ### The memory-side scratchpad (13 R384) -/

/-- A write to MSCSP: the ways that change role lose their contents (13 R384). -/
def State.writeMscsp (s : State) (d : Nat) (v : Word) : State :=
  let old := fld (s.rd (rMscsp d)) 0 5
  let n := min (fld v 0 5) 16
  if bitOf (s.rd (rMscsp d)) 8 || decide (n = old) then s
  else
    (s.wipe (0x200000000000 + 0x2000000 * d + 0x200000 * min n old) (0x200000 * (max n old - min n old))).wr (rMscsp d)
      (word (256 + n))

/-- MSCSP_WRITE (13 R384). -/
def execMscspWrite (die : DieNo) (v : Word) (s : State) : Result := .next (s.writeMscsp die.toNat v)

/-- MSCSP_CONVERSION_DONE (13 R384). -/
def execMscspConversionDone (die : DieNo) (s : State) : Result :=
  let r := rMscsp die.toNat
  if bitOf (s.rd r) 8 && s.clear then
    .next (({ s with fresh := s.fresh + 1 }.upd r fun w => setBit w 8 false).flushMscWays die.toNat (16 - fld (s.rd r) 0 5)).releaseKept
  else .next s

/-! ### DRAM injection, the die error log and links (13 R398 to R400) -/

/-- DRADDR names a word of the die's DRAM. -/
def drTargetOk (d pa : Nat) : Bool :=
  match region pa with
  | .hbm e _ => decide (e = d)
  | .cap e _ => decide (e = d)
  | _ => false

/-- The word of DRDATA stored as it is in DRAM: a line under a key reads it as bytes written without one (13 R381, R398). -/
def State.drStore (s : State) (pa : Nat) (d : Word) (chk : Nat) : State :=
  let mat := NMap.get 0 s.lineKey (pa / 64)
  let plain := if mat = 0 then d else
    word (leNat ((List.range 8).map fun i => Config.crossKeyByte 0 mat (pa + i) (BitVec.ofNat 8 (d.toNat / 256 ^ i))))
  s.plant pa plain (BitVec.ofNat 8 chk ^^^ checkBits d)

/-- No cluster L1, instruction cache or L2 slice keeps a copy of line `l` (13 R398). -/
def State.dropCopies (s : State) (l : Nat) : State :=
  let gone := fun (x : Line) => !decide (x.tag = l)
  let s1 := s.clusters.foldl (fun (s : State) (e : Nat × Cluster) => s.onCluster e.1 fun k =>
    { k with l1 := NMap.set [] k.l1 (l % 2048) ((NMap.get [] k.l1 (l % 2048)).filter gone) }) s
  let s2 := s1.cores.foldl (fun (s : State) (e : Nat × Core) => s.onCore e.1 fun k =>
    { k with icache := NMap.set [] k.icache (icacheSet (64 * l)) ((NMap.get [] k.icache (icacheSet (64 * l))).filter gone) }) s1
  s2.dropReplicas l

/-- A write to DRCHK, laid out as DSCHK (12 R362, 13 R398). -/
def State.writeDrchk (s : State) (d : Nat) (v : Word) : State :=
  let r := rDrchk d
  let old := s.rd r
  let go := bitOf v 63
  let check := bitOf v 62
  let pa := fld (s.rd (rDraddr d)) 3 49 * 8
  let put := fun (e : Bool) (k : Nat) => s.wr r (word (e.toNat * 2 ^ 61 + k))
  if !go && !check then put (bitOf old 61 && !bitOf v 61) (fld v 0 8)
  else if !bitOf (s.rd (rDerrcfg d)) 0 then s.wr r (setBit old 61 true)
  else if go && check then put true (fld old 0 8)
  else if check then put false (checkBits (s.rd (rDrdata d))).toNat
  else if !drTargetOk d pa then put true (fld old 0 8)
  else ((((put false (fld v 0 8)).drStore pa (s.rd (rDrdata d)) (fld v 0 8)).dropCopies (pa / 64)).flushLines fun l =>
    decide (l.tag = pa / 64)).pushAll (dramAsk pa)

/-- DRCHK_GO (13 R398). -/
def execDrchkGo (die : DieNo) (v : Word) (s : State) : Result := .next (s.writeDrchk die.toNat v)

/-- DRCHK_CALC (13 R398). -/
def execDrchkCalc (die : DieNo) (v : Word) (s : State) : Result := .next (s.writeDrchk die.toNat v)

/-- DLOGTAIL_WRITE (13 R399). -/
def execDlogtailWrite (die : DieNo) (v : Word) (s : State) : Result :=
  let d := die.toNat
  let h := fld (s.rd (rDloghead d)) 0 32
  .next ((s.wr (rDlogtail d) (word (min (fld v 0 32) h))).upd (rDloghead d) fun w => setFld w 32 8 0)

/-- A record of a link or port of die `d` whose replay count was exceeded (13 R399, R400). -/
def linkRecord (w2 : Word) : ErrRec :=
  { inj := false, strand := none, sev := 0, unit := 0x25, lgrp := 15, lane := 0, chan := 0, roll := false, syn := 0
    w2 := w2, w3 := 0 }

/-- One more replay on the link or port with this key in the short-lull period; the eighth is logged and schedules retraining
(13 R400, 16 R445). -/
def State.replay (s : State) (key die : Nat) (w2 : Word) : State :=
  let n := NMap.get 0 s.sys.replays key + 1
  let s1 := s.onSys fun y => { y with replays := NMap.set 0 y.replays key n }
  if n = 8 then
    (s1.logDie die (linkRecord w2)).onSys fun y => { y with retrain := y.retrain ++ [key] }
  else s1

/-- LINK_FLIT_REPLAY (13 R400). -/
def execLinkFlitReplay (die : DieNo) (q : BitVec 2) (s : State) : Result :=
  .next (s.replay (4 * die.toNat + q.toNat) die.toNat (word q.toNat))

/-! ### Keys (14 R405) -/

/-- A write to KEYCMD: ERR cleared by writing 1, then GO. A GO with SLOT 0 or while BUSY sets ERR and changes nothing else; a write
without GO while BUSY stores SLOT, and the installation in progress keeps its own. -/
def State.writeKeycmd (s : State) (v : Word) : State :=
  let old := s.rd rKeycmd
  let err := bitOf old 61 && !bitOf v 61
  let go := bitOf v 63
  if go && (bitOf old 62 || decide (fld v 0 7 = 0)) then s.wr rKeycmd (setBit old 61 true)
  else
    let s1 := s.wr rKeycmd (setBit (setBit (word (fld v 0 7)) 62 (go || bitOf old 62)) 61 (err && !go))
    if go then s1.onSys fun y => { y with keySlot := fld v 0 7 } else s1

/-- KEYCMD_GO (14 R405). -/
def execKeycmdGo (v : Word) (s : State) : Result := .next (s.writeKeycmd v)

/-- KEY_INSTALL_DONE: the key is installed and BUSY clears (14 R405). -/
def execKeyInstallDone (s : State) : Result :=
  let w := s.rd rKeycmd
  if bitOf w 62 then
    let k := s.sys.keySlot
    let key := (List.range 8).foldl (fun n i => n + (NMap.get 0 s.sys.keyData i).toNat * 2 ^ (64 * i)) 0
    let s1 := State.onSys { s with fresh := s.fresh + 1 } fun y => { y with keys := NMap.set 0 y.keys k key }
    .next ((((s1.wr rKeycmd (setBit w 62 false)).post 0x07 k 0).flushLines fun l => decide (l.keyId = k)).releaseKept)
  else .next s

end Sys2Proof.Machine
end

