-- ==== Sys2Proof/Machine/Launch.lean ====
section
/-! DEFINITION. User-mode queues and launches: the doorbell registers (14 R407), the command processor (14 R408 to R411), cluster
groups and their placement (14 R412 to R414), the marks of TRIGGER, the end of EXIT and of a launch (03 R115, R116, 14 R410), and
MSI-X (15 R432). -/

namespace Sys2Proof.Machine

open Sys2Proof

/-! ### Queues (14 R407, R425) -/

/-- The ring of queue `q` holds this many packets. -/
def State.ringSize (s : State) (q : Nat) : Nat := 2 ^ fld (s.rd (rQctl q)) 0 4

/-- QFN of queue `q` names a function and a slot (15 R428). -/
def State.queueNames (s : State) (q : Nat) : Option (Nat × Nat) :=
  if bitOf (s.rd (rQfn q)) 11 then some (fld (s.rd (rQfn q)) 4 5, fld (s.rd (rQfn q)) 0 4) else none

/-- The function and the slot whose doorbell queue `q` serves: of two queues with one slot the lower-numbered (15 R428). -/
def State.queueSlot (s : State) (q : Nat) : Option (Nat × Nat) :=
  match s.queueNames q with
  | some p => if (List.range q).any fun k => decide (s.queueNames k = some p) then none else some p
  | none => none

/-- What the command processor has asked of the host and of other nodes for a step is forgotten. -/
def State.clearFar (s : State) (o : FarOwner) : State :=
  if s.sys.far = [] then s else s.onSys fun y => { y with far := y.far.filter fun (w : FarWord) => !decide (w.owner = o) }

/-- The command processor leaves the packet of queue `q`, unless the clear of its VALID bit is out: it will read it again. -/
def State.cpReset (s : State) (q : Nat) : State :=
  let s1 := s.clearFar (.step (.cpServePacket (BitVec.ofNat 8 q)))
  if NMap.get CpState.idle s.sys.cp q = .clearing then s1
  else s1.onSys fun y => { y with cp := NMap.set CpState.idle y.cp q .idle }

/-- Queue `q` stops; its ERR and EIDX fields are given, or kept (14 R407, R409, R425, 15 R429). -/
def State.stopQueue (s : State) (q : Nat) (why : Option (Nat × Nat)) : State :=
  let s1 := s.upd (rQstat q) fun w =>
    match why with
    | some e => setBit (setFld (setFld w 48 8 e.1) 0 48 e.2) 63 true
    | none => setBit w 63 true
  let s2 := (s1.post 0x04 q (s1.rd (rQstat q))).cpReset q
  match s2.queueSlot q with
  | some p => s2.setFnevt p.1 1
  | none => s2

/-- A store has reached QNOTIFY: a queue that waits for it reads its packet again (14 R409). -/
def State.wakeQueue (s : State) (n : Nat) : State :=
  if NMap.get CpState.idle s.sys.cp n = .waiting then
    (s.onSys fun y => { y with cp := NMap.set CpState.idle y.cp n .idle }).push (.cpServePacket (BitVec.ofNat 8 n))
  else s

/-- QNOTIFY_WRITE (14 R407); a package in the fatal state does not answer it (15 R436). -/
def execQnotifyWrite (q : BitVec 8) (v : Word) (s : State) : Result :=
  let n := q.toNat
  let w := (s.rd (rQnotify n)).toNat
  let r := (s.rd (rQrd n)).toNat
  if s.sys.fatal then .next s
  else if v.toNat ≤ w then .next (s.wakeQueue n)
  else if r + s.ringSize n < v.toNat then .next ((s.upd (rQstat n) fun w => setBit w 56 true).wakeQueue n)
  else .next (((s.wr (rQnotify n) v).wakeQueue n).push (.cpServePacket q))

/-- QSTAT_RESTART: STOP and OVR are cleared by writing 1, and a stopped queue goes on at RIDX (14 R407). One that waits for a store to
QNOTIFY still waits (14 R409). -/
def execQstatRestart (q : BitVec 8) (v : Word) (s : State) : Result :=
  let n := q.toNat
  let s1 := s.upd (rQstat n) fun w =>
    setBit (setBit w 63 (bitOf w 63 && !bitOf v 63)) 56 (bitOf w 56 && !bitOf v 56)
  if s.sys.fatal then .next s else .next (s1.push (.cpServePacket q))

/-! ### The command processor's accesses -/

/-- The command processor as the agent of a queue's tenant (13 R390); its accesses have application permissions (log 33). -/
def cpAgent (tenant part : Nat) : Agent :=
  { tid := 0, tenant := tenant, part := part, app := true, lane := none, sysDie := true, src := .outside }

/-- What an access of the command processor gives. -/
inductive CpRes
  /-- Its bytes. -/
  | data (bs : List Byte)
  /-- A translation, permission or poison fault. -/
  | fault
  /-- It waits for what holds it. -/
  | wait
  /-- It has been asked of the host or of another node and has not been answered. -/
  | asked
  deriving DecidableEq, Repr

/-- A drain or a lull holds a part of a read: for DRAM, or for a link (14 R421). -/
def State.partsHeld (s : State) (a : Agent) (ps : List (Place × Nat)) : Bool := ps.any fun p => s.readHeld a p.1

/-- An access of the command processor that fails, or waits. -/
def State.cpFail (s : State) (a : Agent) (addr : Word) (n : Nat) (f : Failure) : State × CpRes :=
  match s.failure a addr n f.why with
  | some r => (r.1, .fault)
  | none => (s, .wait)

/-- Up to eight bytes at a far place are asked for, or written: the request leaves through the host port or a Brulos port, and is noted
until its answer comes. -/
def State.askWord (s : State) (a : Agent) (o : FarOwner) (p : Place) (addr : Word) (n : Nat) (data : Option (List Byte)) : State :=
  let tag := s.fresh
  let note := fun (s : State) (k : Nat) => s.onSys fun y =>
    { y with far := y.far ++ [{ owner := o, addr := addr, write := data.isSome, tag := k, answer := none }] }
  let s1 := { s with fresh := tag + 1 }
  match region p.key with
  | .host h => note (s1.onSys fun y => { y with hostOut := y.hostOut ++ [.read (s1.hostFn a.tenant) tag h n] }) (2 * tag)
  | .remote node va =>
    note (s1.request node a.tenant tag (match data with | some bs => .store (word va) bs | none => .load (word va) n))
      (2 * (tag % 4096) + 1)
  | _ => s

/-- A doubleword at a far place as step `e` of the command processor reads or writes it: its answer, once that has come. -/
def State.cpFar (s : State) (a : Agent) (e : Event) (p : Place) (addr : Word) (data : Option (List Byte)) : State × CpRes :=
  match s.sys.far.find? fun (w : FarWord) => decide (w.owner = .step e) && decide (w.addr = addr) && decide (w.write = data.isSome) with
  | none => (s.askWord a (.step e) p addr 8 data, .asked)
  | some w =>
    match w.answer with
    | none => (s, .asked)
    | some (some bs) => (s, .data bs)
    | some none => (s, .fault)

/-- A read of one doubleword for step `e`. -/
def State.cpRead (s : State) (a : Agent) (e : Event) (addr : Word) : State × CpRes :=
  match s.resolve a .load addr 8 with
  | .ok ps =>
    let s1 := s.noteAccess a addr [8]
    (match ps.find? fun (p : Place × Nat) => p.1.far with
     | some p => s1.cpFar a e p.1 addr none
     | none =>
       if s.partsHeld a ps then (s, .wait)
       else
         match s1.readParts a false addr ps with
         | (s2, .ok bs) => (s2, .data bs)
         | (s2, .error _) => (s2, .fault))
  | .error f => s.cpFail a addr 8 f

/-- A read of `n` doublewords, lowest first. -/
def State.cpReads (s : State) (a : Agent) (e : Event) (addr : Word) : Nat → State × CpRes
  | 0 => (s, .data [])
  | n + 1 =>
    match s.cpRead a e addr with
    | (s1, .data bs) =>
      (match State.cpReads s1 a e (addr + 8) n with
       | (s2, .data cs) => (s2, .data (bs ++ cs))
       | r => r)
    | r => r

/-- A write of one doubleword for step `e`: in the host's memory it is posted (15 R433), and another node answers for it. -/
def State.cpWrite (s : State) (a : Agent) (e : Event) (addr v : Word) : State × CpRes :=
  match s.resolve a (.store v) addr 8 with
  | .ok ps =>
    let s1 := s.noteAccess a addr [8]
    let bs := natLe v.toNat 8
    (match ps.find? fun (p : Place × Nat) => decide (p.1.kind = .remote) with
     | some p => s1.cpFar a e p.1 addr (some bs)
     | none => if ps.any fun p => s.linkHeld a p.1 then (s, .wait) else (s1.writeParts a false ps bs, .data []))
  | .error f => s.cpFail a addr 8 f

/-- An address translates for a form. -/
def State.cpTranslates (s : State) (a : Agent) (f : Form) (addr : Word) (n : Nat) : State × CpRes :=
  match s.resolve a f addr n with
  | .ok _ => (s.noteAccess a addr [n], .data [])
  | .error e => s.cpFail a addr n e

/-- The command processor's step `e` waits for the end of a key installation, a conversion, or a drain and lull (14 R405, R421). -/
def State.keep (s : State) (e : Event) : State := s.onSys fun y => { y with kept := y.kept ++ [(s.fresh, e)] }

/-- The requests kept are looked at again, before what has come later. -/
def State.unkeep (s : State) : State := (s.onSys fun y => { y with kept := [] }).pushFront (s.sys.kept.map Prod.snd)

/-! ### Packets (14 R408, R409, R412) -/

/-- Word `k` of a packet. -/
def pktWord (ws : List Word) (k : Nat) : Word := ws.getD k 0

/-- LEVELk: its kind and its count. -/
def level (ws : List Word) (k : Nat) : Nat × Nat := (fld (pktWord ws (5 + k)) 61 3, fld (pktWord ws (5 + k)) 0 32)

/-- The levels in use, in order. -/
def levels (ws : List Word) : List (Nat × Nat) := (List.range (fld (pktWord ws 0) 8 2 + 1)).map fun k => level ws k

/-- A reserved bit, kind or word of the packet is non-zero: ERR 1. -/
def pktReserved (ws : List Word) : Bool :=
  let h := pktWord ws 0
  !decide (h &&& 0xF800FFFFFE00FC80 = 0)
    || (List.range 4).any (fun k => !decide (fld (pktWord ws (5 + k)) 32 29 = 0) || decide (4 < (level ws k).1))
    || (List.range 7).any fun k => !decide (pktWord ws (9 + k) = 0)

/-- A level rule of 14 R412 is broken: ERR 2. -/
def pktLevels (ws : List Word) : Bool :=
  let ls := levels ws
  let of := fun (k : Nat) => ls.filter fun l => decide (l.1 = k)
  let big := fun (k n : Nat) => (of k).any fun l => decide (n < l.2)
  decide (1 < (of 1).length) || decide (1 < (of 2).length) || decide (1 < (of 3).length)
    || ls.dropLast.any (fun l => decide (l.1 = 4))
    || (List.range 4).any (fun k => decide (ls.length ≤ k) && !decide (pktWord ws (5 + k) = 0))
    || big 1 64 || big 2 (if (of 3).isEmpty then 128 else 32) || big 3 4

/-- An address of a packet is misaligned or not global, or a size is out of range: ERR 3. -/
def pktAddresses (ws : List Word) : Bool :=
  let h := pktWord ws 0
  let global := fun (w : Word) => decide (fld w 48 16 = 0)
  let size := fld h 16 9
  !global (pktWord ws 1) || bitOf (pktWord ws 1) 0
    || (decide (size ≠ 0) && (!global (pktWord ws 2) || !decide (fld (pktWord ws 2) 0 3 = 0)))
    || !global (pktWord ws 3) || !decide (fld (pktWord ws 3) 0 3 = 0)
    || decide (256 < size) || !decide (size % 8 = 0) || decide (1024 < fld h 48 11)

/-- Instances in each cluster group. -/
def groupSize (ws : List Word) : Nat :=
  match (levels ws).find? fun l => decide (l.1 = 1) with
  | some l => l.2
  | none => 1

/-- The index at every level of each cluster group, level 0 varying slowest (14 R412). -/
def groupIndices : List (Nat × Nat) → List (List Nat)
  | [] => [[]]
  | l :: r =>
    (if l.1 = 2 ∨ l.1 = 3 then List.range l.2 else [0]).flatMap fun i => (groupIndices r).map fun is => i :: is

/-- The tenant has a lane quota in one of these clusters. -/
def State.anyQuota (s : State) (tenant : Nat) (cs : List Nat) : Bool := cs.any fun c => decide (0 < s.quota c tenant)

/-- Numbers that satisfy `p` first, both parts ascending. -/
def firstThose (p : Nat → Bool) (ns : List Nat) : List Nat := ns.filter p ++ ns.filter fun n => !p n

/-- The clusters of die `d`. -/
def dieClusters (d : Nat) : List Nat := (List.range 32).map fun i => 32 * d + i

/-- The package cluster that the default policy maps a cluster group to (14 R413). -/
def State.mapGroup (s : State) (tenant : Nat) (ls : List (Nat × Nat)) (is : List Nat) : Nat :=
  let at_ := fun (k : Nat) => ((ls.zip is).find? fun e => decide (e.1.1 = k)).map Prod.snd
  let has := fun (c : Nat) => decide (0 < s.quota c tenant)
  match at_ 3 with
  | some d =>
    let die := (firstThose (fun d => s.anyQuota tenant (dieClusters d)) (List.range 4)).getD d 0
    (firstThose has (dieClusters die)).getD ((at_ 2).getD 0) 0
  | none => (firstThose has (List.range 128)).getD ((at_ 2).getD 0) 0

/-- The clusters of the groups of a packet, in linear order; none when some spatial count is zero. -/
def State.groupsOf (s : State) (tenant : Nat) (ws : List Word) : List Nat :=
  let ls := levels ws
  if ls.any fun l => decide (l.1 = 1 ∨ l.1 = 2 ∨ l.1 = 3) && decide (l.2 = 0) then []
  else (groupIndices ls).map fun is => s.mapGroup tenant ls is

/-- IDXk of instance `j` of group `g` (14 R412). -/
def idxOf (ws : List Word) (g j k : Nat) : Word :=
  match (levels ws)[k]? with
  | none => 0
  | some l =>
    if l.1 = 0 ∨ l.1 = 4 then word l.2
    else if l.1 = 1 then word j
    else word (((groupIndices (levels ws)).getD g []).getD k 0)

/-! ### Launches -/

/-- Instances of a launch. -/
def Launch.total (l : Launch) : Nat := l.groups.length * l.perGroup

/-- Every instance of the launch has exited or, after SCHCMD OP 5, been freed (14 R410, R456). -/
def State.launchOver (s : State) (l : Launch) : Bool :=
  decide (l.total ≤ l.exited) || (l.ended && !(s.boundTids.any fun t => decide ((s.strand t).launch = some l.id)))

/-- The launch has triggered (14 R411, R456). -/
def State.hasTriggered (s : State) (l : Launch) : Bool := decide (l.total ≤ l.triggered) || s.launchOver l

/-- The launch has started placing. -/
def Launch.placing (l : Launch) : Bool := l.ended || decide (0 < l.placed) || l.groups.isEmpty

/-- The previous launch of a queue, unless it has completed and been reported. -/
def State.lastLaunch (s : State) (q : Nat) : Option Launch :=
  s.sys.launches.reverse.find? fun (l : Launch) => decide (l.queue = q)

/-- Launch `n` changed by `f`. -/
def State.onLaunch (s : State) (n : Nat) (f : Launch → Launch) : State :=
  s.onSys fun y => { y with launches := y.launches.map fun (l : Launch) => if l.id = n then f l else l }

/-- Launch `n` forgotten. -/
def State.dropLaunch (s : State) (n : Nat) : State :=
  s.onSys fun y => { y with launches := y.launches.filter fun (l : Launch) => !decide (l.id = n) }

/-- The command processor looks at a queue again. -/
def State.lookAt (s : State) (q : Nat) : State := s.push (.cpServePacket (BitVec.ofNat 8 q))

/-- A launch whose instances have all exited completes: its SIGNAL is decremented, and its MSI-X vector follows (14 R410,
15 R432). -/
def State.checkDone (s : State) (n : Nat) : State :=
  match s.sys.launches.find? fun (l : Launch) => decide (l.id = n) with
  | some l =>
    if s.launchOver l then
      (if pktWord l.words 3 = 0 then (s.dropLaunch n).lookAt l.queue else (s.push (.signalDecrement n)).lookAt l.queue)
    else s
  | none => s

/-- The decrement of a launch's completion signal has performed: the launch has completed and been reported, and its MSI-X vector
follows (14 R410, 15 R432). -/
def State.reported (s : State) (l : Launch) : State :=
  let s1 := (s.dropLaunch l.id).lookAt l.queue
  match s1.queueSlot l.queue with
  | some p => if bitOf (s1.rd (rQfn l.queue)) 10 then s1.push (.msixSend (BitVec.ofNat 5 p.1) p.2) else s1
  | none => s1

/-- The decrement has failed: the queue stops with ERR 6 (14 R409). -/
def State.unreported (s : State) (l : Launch) : State := (s.dropLaunch l.id).stopQueue l.queue (some (6, l.index % 2 ^ 48))

/-- The decrement with this tag has come back from the host or from another node. -/
def State.signalReply (s : State) (tag : Nat) (ok : Bool) : State :=
  match s.sys.signals.find? fun (e : Nat × Nat) => decide (e.1 = tag) with
  | none => s
  | some e =>
    let s1 := s.onSys fun y => { y with signals := y.signals.filter fun (x : Nat × Nat) => !decide (x = e) }
    match s1.sys.launches.find? fun (l : Launch) => decide (l.id = e.2) with
    | some l => if ok then s1.reported l else s1.unreported l
    | none => s1

/-- SIGNAL_DECREMENT: the completion signal of launch `n`: an atomic add of −1 (14 R410). One that the host or another node performs
has performed when its reply returns. -/
def execSignalDecrement (n : Nat) (s : State) : Result :=
  match s.sys.launches.find? fun (l : Launch) => decide (l.id = n) with
  | none => .next s
  | some l =>
    if !s.launchOver l || decide (pktWord l.words 3 = 0)
        || s.sys.signals.any fun (e : Nat × Nat) => decide (e.2 = n) then .next s
    else
      let a := cpAgent l.tenant.toNat l.part.toNat
      let addr := pktWord l.words 3
      let minus : Word := BitVec.allOnes 64
      let sent := fun (s : State) (tag : Nat) => s.onSys fun y => { y with signals := y.signals ++ [(tag, n)] }
      match s.resolve a (.amo .add minus) addr 8 with
      | .ok ((p, _) :: _) =>
        let s1 := s.noteAccess a addr [8]
        let tag := s1.fresh
        (match region p.key with
         | .host h => .next (sent (State.onSys { s1 with fresh := tag + 1 } fun y =>
             { y with hostOut := y.hostOut ++ [.atomic (s1.hostFn a.tenant) tag h 8 (some .add) minus 0] }) (2 * tag))
         | .remote node va =>
           .next (sent (State.request { s1 with fresh := tag + 1 } node a.tenant tag
             (.atomic (word va) 8 (some .add) minus 0)) (2 * (tag % 4096) + 1))
         | _ =>
           if s.atomicHeld a p then .next (s.keep (.signalDecrement n))
           else match s1.atomicAt a p (.amo 8 .add minus) with
           | (s2, .ok _) => .next (s2.reported l)
           | (s2, .error _) => .next (s2.unreported l))
      | .ok [] => .next s
      | .error e =>
        match s.failure a addr 8 e.why with
        | some r => .next (r.1.unreported l)
        | none => .next (s.keep (.signalDecrement n))

/-- The doubleword asked for with this tag has been answered: a step that waits for nothing more is looked at again, and behind a posted
write of the host the later requests of its function go on; one that its target dropped is recorded in die 0's log (14 R409, 15 R430,
R431). -/
def State.farReply (s : State) (tag : Nat) (v : Option (List Byte)) : State :=
  match s.sys.far.find? fun (w : FarWord) => decide (w.tag = tag) && w.answer.isNone with
  | none => s
  | some w =>
    match w.owner with
    | .posted _ tenant =>
      let s1 := s.onSys fun y => { y with far := y.far.filter fun (u : FarWord) => !decide (u = w) }
      (if v.isSome then s1 else s1.logDie 0 (accessFailure tenant true w.addr.toNat)).unkeep
    | .step e =>
      let s1 := s.onSys fun y => { y with far := y.far.map fun (u : FarWord) => if u = w then { u with answer := some v } else u }
      if s1.sys.far.any fun (u : FarWord) => decide (u.owner = .step e) && u.answer.isNone then s1 else s1.pushFront [e]

/-- What the host or another node answers to a request of the system die: to a doubleword asked for, or to the decrement of a completion
signal. -/
def State.systemReply (s : State) (tag : Nat) (v : Option (List Byte)) : State :=
  if s.sys.far.any fun (w : FarWord) => decide (w.tag = tag) && w.answer.isNone then s.farReply tag v else s.signalReply tag v.isSome

/-- Queue `n` stops at packet RIDX with an ERR code (14 R409). -/
def State.cpStop (s : State) (n e : Nat) : State := s.stopQueue n (some (e, (s.rd (rQrd n)).toNat % 2 ^ 48))

/-- The address of the next packet of queue `n` (14 R407). -/
def State.packetAt (s : State) (n : Nat) : Word :=
  word (fld (s.rd (rQbase n)) 12 36 * 4096 + 128 * ((s.rd (rQrd n)).toNat % s.ringSize n))

/-- The next packet of a queue has been read and checked: once the launch before it allows, its VALID bit is cleared and its launch
starts (14 R409); until then the command processor holds what it has read. -/
def State.cpStart (s : State) (q : BitVec 8) (ws : List Word) (args : List Byte) : Result :=
  let n := q.toNat
  let ctl := s.rd (rQctl n)
  let tenant := fld ctl 16 5
  let h := pktWord ws 0
  let set := fun (s : State) (c : CpState) => s.onSys fun y => { y with cp := NMap.set CpState.idle y.cp n c }
  let held := fun (s : State) => set s (.held ws args)
  let ready := match s.lastLaunch n with
    | some l => l.placing && (!bitOf h 1 || s.hasTriggered l)
    | none => true
  if !ready then .next (held s)
  else
    match s.cpWrite (cpAgent tenant (fld ctl 12 4)) (.cpServePacket q) (s.packetAt n) (setBit h 0 false) with
    | (s1, .fault) => .next (s1.cpStop n 4)
    | (_, .wait) => .next ((held s).keep (.cpServePacket q))
    | (s1, .asked) => .next (held s1)
    | (s1, .data _) =>
      let l : Launch :=
        { id := s1.sys.nextLaunch, queue := n, tenant := BitVec.ofNat 5 tenant, part := BitVec.ofNat 4 (fld ctl 12 4)
          index := (s1.rd (rQrd n)).toNat, words := ws, args := args, prio := min (fld h 2 3) (fld ctl 9 3)
          groups := s1.groupsOf tenant ws, perGroup := groupSize ws, placed := 0, exited := 0, triggered := 0, ended := false }
      let s2 := (set (s1.clearFar (.step (.cpServePacket q))) .clearing).onSys fun y =>
        { y with launches := y.launches ++ [l], nextLaunch := y.nextLaunch + 1 }
      .next (((s2.push (.packetClearAck q)).push (.groupPlacement 0)).checkDone l.id)

/-- CP_SERVE_PACKET: the command processor reads, checks and starts the next packet of a queue (14 R409). -/
def execCpServePacket (q : BitVec 8) (s : State) : Result :=
  let n := q.toNat
  let ctl := s.rd (rQctl n)
  if !bitOf ctl 63 || bitOf (s.rd (rQstat n)) 63 || !decide ((s.rd (rQrd n)).toNat < (s.rd (rQnotify n)).toNat) || s.sys.fatal then
    .next s
  else
    match NMap.get CpState.idle s.sys.cp n with
    | .waiting | .clearing => .next s
    | .held ws args => s.cpStart q ws args
    | .idle =>
      let a := cpAgent (fld ctl 16 5) (fld ctl 12 4)
      let e : Event := .cpServePacket q
      let at_ := s.packetAt n
      -- what a read or a translation gives goes on to `k`
      let andThen := fun (r : State × CpRes) (k : State → List Byte → Result) =>
        match r with
        | (s1, .data bs) => k s1 bs
        | (s1, .fault) => Host.Outcome.next (s1.cpStop n 4)
        | (s1, .asked) => .next s1
        | (_, .wait) => .next (s.keep e)
      andThen (s.cpRead a e at_) fun s0 hs =>
        if !bitOf (wordAt hs 0) 0 then
          .next ((s0.clearFar (.step e)).onSys fun y => { y with cp := NMap.set CpState.idle y.cp n .waiting })
        else
          andThen (s0.cpReads a e (at_ + 8) 15) fun s1 bs =>
            let ws := (List.range 16).map fun k => wordAt (hs ++ bs) k
            let sig := pktWord ws 3
            if pktReserved ws then .next (s1.cpStop n 1)
            else if pktLevels ws then .next (s1.cpStop n 2)
            else if pktAddresses ws then .next (s1.cpStop n 3)
            else
              andThen (s1.cpReads a e (pktWord ws 2) (fld (pktWord ws 0) 16 9 / 8)) fun s2 args =>
                andThen (s2.cpTranslates a .fetch (pktWord ws 1) 2) fun s3 _ =>
                  andThen (if sig = 0 then (s3, .data []) else s3.cpTranslates a (.amo .add (BitVec.allOnes 64)) sig 8) fun s4 _ =>
                    if fld (s.rd (rSchq (fld ctl 16 5))) 0 14 < groupSize ws then .next (s4.cpStop n 5)
                    else s4.cpStart q ws args

/-- PACKET_CLEAR_ACK: the acknowledgement of the valid clear returns and RIDX advances (14 R409). -/
def execPacketClearAck (q : BitVec 8) (s : State) : Result :=
  let n := q.toNat
  if NMap.get CpState.idle s.sys.cp n = .clearing then
    .next (((s.onSys fun y => { y with cp := NMap.set CpState.idle y.cp n .idle }).upd (rQrd n) fun w => w + 1).lookAt n)
  else .next s

/-! ### Placement (14 R413, R414) -/

/-- Strand contexts that a tenant holds in the package. -/
def State.tenantContexts (s : State) (tenant : TenantNo) : Nat :=
  (s.boundTids.filter fun t => decide ((s.strand t).ctl.tenant = tenant)).length

/-- Launch `a` is served before launch `b` (14 R413): priority, then the order in which they started. -/
def launchBefore (a b : Launch) : Bool := if a.prio = b.prio then decide (a.id < b.id) else decide (b.prio < a.prio)

/-- A launch put into a list in serving order. -/
def insertLaunch (l : Launch) : List Launch → List Launch
  | [] => [l]
  | m :: r => if launchBefore l m then l :: m :: r else m :: insertLaunch l r

/-- The launches with groups still to place, in serving order. -/
def State.unplaced (s : State) : List Launch :=
  (s.sys.launches.filter fun (l : Launch) =>
    !l.ended && decide (l.placed < l.groups.length) && !s.sys.closed.elem l.tenant.toNat).foldl (fun ls l => insertLaunch l ls) []

/-- The cluster of the next group of a launch. -/
def Launch.nextCluster (l : Launch) : Nat := l.groups.getD l.placed 0

/-- The next group of a launch fits, in a cluster that its tenant has not been switched off (14 R413, R417). -/
def State.groupFits (s : State) (l : Launch) : Bool :=
  !s.sys.closedAt.elem (l.nextCluster, l.tenant.toNat)
    && decide (l.perGroup ≤ (s.freeContexts l.nextCluster l.tenant).length)
    && decide (s.tenantContexts l.tenant + l.perGroup ≤ fld (s.rd (rSchq l.tenant.toNat)) 0 14)

/-- The launches whose next group can be placed now, `ahead` being those before them in the serving order. -/
def State.placeable (s : State) (ahead : List Launch) : List Launch → List Launch
  | [] => []
  | l :: r =>
    let ok := s.groupFits l && !(ahead.any fun (m : Launch) => decide (m.nextCluster = l.nextCluster))
    if ok then l :: s.placeable (l :: ahead) r else s.placeable (l :: ahead) r

/-- The strand of instance `j` of group `g` as it is created (01 R34, 14 R414). -/
def State.newStrand (s : State) (l : Launch) (g j : Nat) : Strand :=
  let ws := l.words
  let h := pktWord ws 0
  let x := Strand.unbound
  let gp : Word := 0xE000000000001F00
  let y := (x.setReg 2 gp).setReg 3 gp
  { y with
    run := .running, pc := pktWord ws 1, launch := some l.id
    ctl := { Ctl.reset with
      tenant := l.tenant, part := l.part, priv := .app, rchk := bitOf h 6, move := bitOf h 5
      tvec := s.rd (rTvec l.tenant.toNat), seed := pktWord ws 4
      idx0 := idxOf ws g j 0, idx1 := idxOf ws g j 1, idx2 := idxOf ws g j 2, idx3 := idxOf ws g j 3 } }

/-- Instance `j` of group `g` of a launch is bound (14 R413, R414). The L1 generation advances (04 R122), by which the start of an
ORDERED successor acquires the marks of its predecessor (14 R411). -/
def State.bindInstance (s : State) (l : Launch) (g j : Nat) : State :=
  match s.nextContext (l.groups.getD g 0) l.tenant with
  | none => s
  | some t =>
    let h := pktWord l.words 0
    let s1 := s.giveCore t.core l.tenant
    let s2 := s1.putWindow t (List.replicate 0x1F00 0 ++ l.args, [])
    let s3 := s2.onCore t.core fun c => { c with tcmSize := max c.tcmSize (fld h 48 11) }
    ((s3.onStrand t fun old => (s3.newStrand l g j).bindTo old).clearMarks t).advanceGen t.cluster

/-- GROUP_PLACEMENT: the `n`-th launch whose next group can be placed has it placed (14 R413). -/
def execGroupPlacement (n : Nat) (s : State) : Result :=
  match (s.placeable [] s.unplaced)[n]? with
  | none => .next s
  | some l =>
    let s1 := (List.range l.perGroup).foldl (fun (s : State) j => s.bindInstance l l.placed j) s
    .next (((s1.onLaunch l.id fun m => { m with placed := m.placed + 1 }).lookAt l.queue).push (.groupPlacement 0))

/-! ### TRIGGER, EXIT and the end of a launch -/

/-- The instance on context `t` counts as triggered, once. -/
def State.countTrigger (s : State) (t : Tid) : State :=
  let x := s.strand t
  if x.trigCounted then s
  else
    let s1 := s.onStrand t fun x => { x with trigCounted := true }
    match x.launch with
    | none => s1
    | some n =>
      let s2 := s1.onLaunch n fun l => { l with triggered := l.triggered + 1 }
      match s2.sys.launches.find? fun (l : Launch) => decide (l.id = n) with
      | some l => if s2.hasTriggered l then s2.lookAt l.queue else s2
      | none => s2

/-- TRIGGER_MARK_COUNT (03 R115). -/
def execTriggerMarkCount (t : Tid) (s : State) : Result :=
  if (s.strand t).triggerDue then .next (s.countTrigger t) else .next s

/-- A context is freed: its lanes, its marks, its messages (03 R116, 05 R177, 11 R340). -/
def State.freeContext (s : State) (t : Tid) : State :=
  let x := s.strand t
  let c := t.cluster
  let first := x.marksFor
  let s0 := s.within t fun s => s.leaveStray fun _ _ _ => true
  let s1 := (((s0.clearMarks t).leaveWaiting t).leaveSuspended t).onStrand t fun x => x.vacated
  ((((s1.dropBarriers c x.ctl.tenant).fenceFreed c).assignLanes c first).wakeMail t.core).freed c

/-- EXIT_FINISH (03 R116). -/
def execExitFinish (t : Tid) (s : State) : Result :=
  let x := s.strand t
  if x.exitDue then
    let s1 := (s.countTrigger t).freeContext t
    match x.launch with
    | some n =>
      let s2 := (s1.onLaunch n fun l => { l with exited := l.exited + 1 }).checkDone n
      .next (if s2.sys.schOp.isSome then s2.push .schcmdComplete else s2)
    | none => .next s1
  else .next s

/-- A vector of a function is masked: by its table entry, by Function Mask, or while MSI-X is not enabled (15 R432, log 18). -/
def State.msixMasked (s : State) (f k : Nat) : Bool :=
  bitOf (s.rd (rMsix f k 1)) 32 || bitOf (s.rd (rMsixCtl f)) 14 || !bitOf (s.rd (rMsixCtl f)) 15

/-- MSIX_SEND: a vector that is masked becomes pending; otherwise its message leaves (15 R432, log 18). -/
def execMsixSend (f : BitVec 5) (n : Nat) (s : State) : Result :=
  let fn := f.toNat
  let k := n % 17
  if s.msixMasked fn k then .next (s.upd (rPba fn) fun w => setBit w k true)
  else
    .next ((s.upd (rPba fn) fun w => setBit w k false).onSys fun y => { y with hostOut := y.hostOut ++ [.msix fn k] })

/-- Vectors of function `f` that are pending and no longer masked are sent (15 R432, log 18). -/
def State.sendPending (s : State) (f : Nat) : State :=
  s.pushAll (((List.range 17).filter fun k => bitOf (s.rd (rPba f)) k && !s.msixMasked f k).map fun k => .msixSend (BitVec.ofNat 5 f) k)

end Sys2Proof.Machine
end

