-- ==== Sys2Proof/Machine/Scheduler.lean ====
section
/-! DEFINITION. Scheduler operations (14 R417 to R419, R456), a tenant's return to a cluster (05 R160, 11 R345), function-level
resets (15 R434) and the fatal state (14 R426). -/

namespace Sys2Proof.Machine

open Sys2Proof

/-! ### Parts of the operations -/

/-- An assignment to a waiting request or a suspended strand that has not completed is withdrawn (12 R361): it waits again. -/
def State.withdraw (s : State) (t : Tid) : State :=
  let x := s.strand t
  match x.run with
  | .restoring w =>
    (s.onStrand t fun x => { x with run := .suspended w, vec := { x.vec with lanes := [] } }).onCluster t.cluster fun k =>
      { k with
        suspended := (k.suspended.filter fun u => decide ((s.strand u).waitAt ≤ x.waitAt)) ++ t ::
          k.suspended.filter fun u => !decide ((s.strand u).waitAt ≤ x.waitAt) }
  | .granting z d req h _ =>
    if x.ctl.lg = 0 then
      (s.onStrand t fun x => { x with run := .parked (.grant z d req h), grant := none, vec := { x.vec with lanes := [] } }).rejoin t
    else s
  | .parked .relocate =>
    if x.grant.isSome then (s.onStrand t fun x => { x with grant := none }).rejoin t else s
  | _ => s

/-- A strand's state is saved for `w`, whatever it does now; a strand that is already suspended is only unbound. -/
def State.saveFor (s : State) (t : Tid) (w : Why) : State :=
  let s1 := s.withdraw t
  match (s1.strand t).run with
  | .suspended _ =>
    ((s1.onStrand t fun x => { x with run := .saving w }).leaveSuspended t).push (.saveComplete t)
  | .saving _ => s1.onStrand t fun x => { x with run := .saving w }
  | .unbound => s1
  | _ => s1.beginSave t w

/-- The strand is pre-empted: saved, and held until it is released (14 R417). -/
def State.preempt (s : State) (t : Tid) : State :=
  let s1 := (s.withdraw t).onStrand t fun x => { x with held := true }
  match (s1.strand t).run with
  | .suspended _ | .saving _ | .unbound => s1
  | _ => s1.beginSave t .preempt

/-- A held strand is released (14 R417). -/
def State.releaseHeld (s : State) (t : Tid) : State :=
  let s0 := if (s.strand t).savedLg = 0 then s else s.noteWait t.cluster
  let s1 := s0.onStrand t fun x => { x with held := false }
  let x := s1.strand t
  match x.run with
  | .suspended _ => if x.savedLg = 0 then s1.push (.restoreComplete t) else s1.assignLanes t.cluster none
  | _ => s1

/-- The strands of a tenant in a cluster. -/
def State.tenantTids (s : State) (c : Nat) (tenant : TenantNo) : List Tid :=
  (s.clusterTids c).filter fun t => decide ((s.strand t).ctl.tenant = tenant)

/-- The cores of a cluster that hold a tenant's scratchpad. -/
def State.tenantCores (s : State) (c : Nat) (tenant : TenantNo) : List Nat :=
  ((List.range 16).map fun i => 16 * c + i).filter fun k => decide ((s.core k).owner = some tenant)

/-- A tenant is switched off a cluster (05 R160, 11 R339, R345). -/
def State.switchOff (s : State) (c : Nat) (tenant : TenantNo) : State :=
  let s1 := (s.tenantTids c tenant).foldl (fun (s : State) t => s.saveFor t .tenantSwitch) s
  let s2 := (s1.tenantCores c tenant).foldl (fun (s : State) k => if s.coreBound k then s else s.leaveCore k) s1
  s2.saveBarriers c tenant

/-- A tenant holds something in a cluster. -/
def State.tenantHere (s : State) (c : Nat) (tenant : TenantNo) : Bool :=
  !(s.tenantTids c tenant).isEmpty || !(s.tenantCores c tenant).isEmpty
    || (s.cluster c).barriers.any fun (e : Nat × Barrier) => e.2.active && decide (e.2.owner = tenant)

/-- A tenant is switched off the package: placement closes, its queues stop, and it is switched off every cluster
(14 R417, R419). Where `fn` names a function, the queues whose QFN names it stop too (15 R434). -/
def State.switchOffAll (s : State) (tenant : TenantNo) (fn : Option Nat) : State :=
  let mine := fun (q : Nat) =>
    (match fn with
     | some f => decide ((s.queueNames q).map Prod.fst = some f)
     | none => false)
      || (bitOf (s.rd (rQctl q)) 63 && decide (fld (s.rd (rQctl q)) 16 5 = tenant.toNat))
  let s1 := ((List.range 256).filter mine).foldl (fun (s : State) q => s.stopQueue q none) s
  let s2 := s1.onSys fun y => { y with closed := if y.closed.elem tenant.toNat then y.closed else y.closed ++ [tenant.toNat] }
  (List.range 128).foldl (fun (s : State) c => s.switchOff c tenant) s2

/-- No strand of a tenant is bound. -/
def State.tenantGone (s : State) (tenant : TenantNo) : Bool :=
  s.boundTids.all fun t => !decide ((s.strand t).ctl.tenant = tenant)

/-- Every TLB entry of a tenant is dropped. -/
def State.dropTenant (s : State) (tenant : Nat) : State := s.dropTlb fun e => decide (e.tenant = tenant)

/-! ### The end of a launch (14 R456) -/

/-- A strand of an ended launch: nothing that it has not sent is sent, the reservations of its SENDs that have not left are freed, and
its queue and its slots are discarded. Its context is freed
when the accesses that it has sent have performed, as at the end of an EXIT. -/
def Strand.ended (x : Strand) : Strand :=
  let y := x.queue.foldl (fun (x : Strand) q => x.dropElems q.id) x
  { y with
    run := .exiting, park := none, queue := [], slots := Vector.replicate 4 Slot.empty, sends := []
    resv := x.resv - x.sends.length
    writes := x.writes.filter fun e => !decide (e.stage = 0)
    pend := y.pend.filter fun p => match p.acc with | .load .. => false | _ => true }

/-- An instance of an ended launch is ended without EXIT's waits (14 R456). -/
def State.endInstance (s : State) (t : Tid) : State :=
  let s1 := ((((s.dropGrant t).leaveWaiting t).leaveSuspended t).scDone t).onStrand t Strand.ended
  ((s1.wakeMail t.core).pokeHome t).nudge t

/-- The launch of a strand of context `t`, bound or saved. -/
def State.launchOf (s : State) (t : Tid) : Option Nat :=
  if (s.strand t).bound then (s.strand t).launch
  else ((s.sys.saved.find? fun (e : Tid × Strand) => decide (e.1 = t)).bind fun (e : Tid × Strand) => e.2.launch)

/-- A launch is ended (14 R456). -/
def State.endLaunch (s : State) (n : Nat) : State :=
  let s1 := s.onLaunch n fun l => { l with ended := true }
  let s2 := (s1.boundTids.filter fun t => decide ((s1.strand t).launch = some n)).foldl (fun (s : State) t => s.endInstance t) s1
  let gone := s2.sys.saved.filter fun (e : Tid × Strand) => decide (e.2.launch = some n)
  let s3 := gone.foldl (fun (s : State) e => s.saveAt (windowKey e.2.ctl.tenant.toNat e.1) ([], [])) s2
  (s3.onSys fun y => { y with saved := y.saved.filter fun (e : Tid × Strand) => !decide (e.2.launch = some n) }).checkDone n

/-! ### SCHCMD (14 R417) -/

/-- STRAND of a SCHCMD word. -/
def schStrand (v : Word) : Tid := BitVec.ofNat 13 (fld v 0 13)
/-- TENANT of a SCHCMD word. -/
def schTenant (v : Word) : TenantNo := BitVec.ofNat 5 (fld v 46 5)
/-- CLUSTER of a SCHCMD word. -/
def schCluster (v : Word) : Nat := fld v 51 7
/-- OP of a SCHCMD word. -/
def schOpOf (v : Word) : Nat := fld v 58 3

/-- A strand may not be moved (11 R345, 16 R454). -/
def State.unmovable (s : State) (t : Tid) : Bool :=
  let x := s.strand t
  !x.ctl.move || s.hasMark t || (match x.parkKept with | some (.barw _) => true | _ => false)
    || x.slots.toList.any fun sl => decide (sl.phase = .busy) && (sl.arrive.isSome || sl.coll)

/-- The operation is refused. -/
def State.schRefused (s : State) (v : Word) : Bool :=
  let t := schStrand v
  let x := s.strand t
  let c := schCluster v
  match schOpOf v with
  | 0 => !x.bound
  | 1 => !x.bound || s.unmovable t || (s.nextContext c x.ctl.tenant).isNone
      || (x.ctl.mt && decide (x.ctl.lg = 4) && (s.squareFor c []).isNone)
  | 2 => !x.held
  | 3 => !s.tenantHere c (schTenant v)
  | 4 => false
  | 5 => (s.launchOf t).isNone
  | _ => true

/-- The operation starts. -/
def State.schStart (s : State) (v : Word) : State :=
  let t := schStrand v
  match schOpOf v with
  | 0 => s.preempt t
  | 1 => s.saveFor t .move
  | 2 => s.releaseHeld t
  | 3 =>
    State.switchOff (s.onSys fun y => { y with closedAt := y.closedAt ++ [(schCluster v, (schTenant v).toNat)] }) (schCluster v)
      (schTenant v)
  | 4 => s.switchOffAll (schTenant v) none
  | 5 => match s.launchOf t with | some n => s.endLaunch n | none => s
  | _ => s

/-- The operation has ended. -/
def State.schDone (s : State) (v : Word) : Bool :=
  match schOpOf v with
  | 0 => (match (s.strand (schStrand v)).run with | .saving _ => false | _ => true)
  | 1 => s.boundTids.all fun t => !decide ((s.strand t).run = .saving .move)
  | 3 => (s.tenantTids (schCluster v) (schTenant v)).isEmpty
  | 4 => s.tenantGone (schTenant v)
  | 5 => s.sys.launches.all fun (l : Launch) => !l.ended || s.launchOver l
  | _ => true

/-- A write to SCHCMD (14 R406, R417). -/
def State.writeSchcmd (s : State) (v : Word) : State :=
  let old := s.rd rSchcmd
  if bitOf old 62 then s
  else
    let keep := v &&& 0x1FFFC00000001FFF
    let err := bitOf old 61 && !bitOf v 61
    if !bitOf v 63 then s.wr rSchcmd (setBit keep 61 err)
    else if s.schRefused v then
      (let w := setBit keep 61 true
       (s.wr rSchcmd w).post 0x06 (schOpOf v) w)
    else
      (((s.wr rSchcmd (setBit (setBit keep 62 true) 61 false)).onSys fun y => { y with schOp := some v }).schStart v).push
        .schcmdComplete

/-- SCHCMD_PREEMPT (14 R417). -/
def execSchcmdPreempt (v : Word) (s : State) : Result := .next (s.writeSchcmd v)
/-- SCHCMD_MOVE (14 R417). -/
def execSchcmdMove (v : Word) (s : State) : Result := .next (s.writeSchcmd v)
/-- SCHCMD_RELEASE (14 R417). -/
def execSchcmdRelease (v : Word) (s : State) : Result := .next (s.writeSchcmd v)
/-- SCHCMD_SWITCH_CLUSTER (14 R418). -/
def execSchcmdSwitchCluster (v : Word) (s : State) : Result := .next (s.writeSchcmd v)
/-- SCHCMD_SWITCH_PACKAGE (14 R419). -/
def execSchcmdSwitchPackage (v : Word) (s : State) : Result := .next (s.writeSchcmd v)
/-- SCHCMD_END_LAUNCH (14 R456). -/
def execSchcmdEndLaunch (v : Word) (s : State) : Result := .next (s.writeSchcmd v)
/-- SCHCMD_RESERVED (14 R417). -/
def execSchcmdReserved (v : Word) (s : State) : Result := .next (s.writeSchcmd v)

/-- The MSI-X state of a function at its reset values (15 R434). -/
def State.clearMsix (s : State) (f : Nat) : State :=
  (((List.range 17).foldl (fun (s : State) k => (s.wr (rMsix f k 0) 0).wr (rMsix f k 1) 0x100000000) s).wr (rPba f) 0).wr (rMsixCtl f) 0

/-- The function-level resets whose tenant has been switched off complete (15 R434). -/
def State.finishFlr (s : State) : State :=
  s.sys.flr.foldl (fun (s : State) f =>
    let tenant : TenantNo := BitVec.ofNat 5 (fld (s.rd (rFnten f)) 0 5)
    if s.tenantGone tenant then
      (((s.dropTenant tenant.toNat).clearMsix f).onSys fun y => { y with flr := y.flr.filter fun g => !decide (g = f) }).setFnevt f 0
    else s) s

/-- SCHCMD_COMPLETE (14 R417, R425). -/
def execSchcmdComplete (s : State) : Result :=
  let s0 := s.finishFlr
  match s0.sys.schOp with
  | none => .next s0
  | some v =>
    if !s0.schDone v then .next s0
    else
      let s1 := if schOpOf v = 4 then s0.dropTenant (schTenant v).toNat else s0
      let w := setBit (s1.rd rSchcmd) 62 false
      .next (((s1.wr rSchcmd w).onSys fun y => { y with schOp := none }).post 0x06 (schOpOf v) w)

/-- VF_FLR: a function-level reset of a function that serves a tenant (15 R434). -/
def execVfFlr (f : BitVec 5) (s : State) : Result :=
  let n := f.toNat
  let w := s.rd (rFnten n)
  if n = 0 ∨ bitOf w 7 = false then .next s
  else
    .next (((s.switchOffAll (BitVec.ofNat 5 (fld w 0 5)) (some n)).onSys fun y =>
      { y with flr := if y.flr.elem n then y.flr else y.flr ++ [n] }).push .schcmdComplete)

/-- VF_FLR_IDLE: a function-level reset of a function that serves no tenant (15 R434). -/
def execVfFlrIdle (f : BitVec 5) (s : State) : Result :=
  let n := f.toNat
  if n = 0 ∨ bitOf (s.rd (rFnten n)) 7 = true then .next s
  else .next ((((s.clearMsix n).upd (rFnevt n) fun w => setBit w 1 false)).setFnevt n 0)

/-! ### A tenant returns (05 R160, 11 R345) -/

/-- A saved strand comes back to a cluster: to the context that it left, or, without marks, to another free one. -/
def State.returnStrand (s : State) (c : Nat) (marks : Bool) (e : Tid × Strand) : State :=
  let tenant := e.2.ctl.tenant
  let own := !(s.strand e.1).bound && s.coreOpen e.1.core tenant
  let to_ := if own then some e.1 else if marks then none else s.nextContext c tenant
  match to_ with
  | none => s
  | some u =>
    let k := windowKey tenant.toNat e.1
    let s1 := (s.saveAt k ([], [])).onSys fun y => { y with saved := y.saved.filter fun x => !decide (x = e) }
    s1.bindSaved u e.2 (s.savedAt k) marks

/-- The tenant's saved barriers of a cluster. -/
def State.returnBarriers (s : State) (c : Nat) (tenant : TenantNo) : State :=
  let mine := fun (e : Nat × Nat × Barrier) => decide (e.1 = c) && decide (e.2.2.owner = tenant)
  let s1 := (s.sys.savedBarriers.filter mine).foldl (fun (s : State) e => s.setBarrier c e.2.1 e.2.2) s
  s1.onSys fun y => { y with savedBarriers := y.savedBarriers.filter fun e => !mine e }

/-- TENANT_SWITCH_IN: a cluster goes back to a switched-off tenant, and is open to it again (05 R160). -/
def execTenantSwitchIn (c : ClusterNo) (ten : TenantNo) (s : State) : Result :=
  let n := c.toNat
  let s1 := (s.returnBarriers n ten).onSys fun y =>
    { y with
      closed := y.closed.filter fun k => !decide (k = ten.toNat)
      closedAt := y.closedAt.filter fun k => !decide (k = (n, ten.toNat)) }
  let back := s1.sys.saved.filter fun (e : Tid × Strand) => decide (e.2.ctl.tenant = ten) && decide (e.1.cluster = n)
  let s2 := back.foldl (fun (s : State) e => s.returnStrand n (s.marked e.1 ten) e) s1
  .next ((s2.assignLanes n none).push (.groupPlacement 0))

/-! ### The fatal state (14 R426) -/

/-- The package enters the fatal state: every strand is held, every queue stops, and code 0x09 is posted. -/
def State.enterFatal (s : State) (source : Nat) : State :=
  let s1 := s.boundTids.foldl (fun (s : State) t => s.onStrand t fun x => { x with held := true }) s
  let s2 := (List.range 256).foldl (fun (s : State) q => (s.upd (rQstat q) fun w => setBit w 63 true).cpReset q) s1
  let s3 := (s2.onSys fun y => { y with fatal := true }).post 0x09 source 0
  (List.range 32).foldl (fun (s : State) f => s.setFnevt f 2) s3

/-- SYSTEM_DIE_ERROR (14 R426). -/
def execSystemDieError (s : State) : Result := .next (if s.sys.fatal then s else s.enterFatal 0xFF)

end Sys2Proof.Machine
end

