-- ==== Sys2Proof/Machine/Lull.lean ====
section
/-! DEFINITION. The lull sequencer (14 R420 to R424): drains, lulls, overruns and their ends, with the work of a lull: scrubbing
(12 R354, 13 R397), substitution and fencing of lane groups (12 R361), fencing of cores (05 R182), clock steps and thermal limits
(15 R437, R438), links and ports (14 R402, 16 R446), and the calendar (14 R420). -/

namespace Sys2Proof.Machine

open Sys2Proof

/-! ### Clock steps (15 R437, R438) -/

/-- CLKSTEP.REQ. -/
def State.clkReq (s : State) : Nat := fld (s.rd rClkstep) 0 2
/-- CLKSTEP.CUR. -/
def State.clkCur (s : State) : Nat := fld (s.rd rClkstep) 2 2
/-- CLKSTEP.LIMIT. -/
def State.clkLimit (s : State) : Nat := fld (s.rd rClkstep) 6 2

/-- The temperature in degrees Celsius from which a LIMIT is set. -/
def limitAt (l : Nat) : Nat := 90 + 5 * l

/-- LIMIT after a sweep: the limit of the hottest junction, or one step less than before once it lies 5 °C or more below the
threshold that set it (15 R438). -/
def newLimit (old tj : Nat) : Nat :=
  let raw := if tj < 95 then 0 else if tj < 100 then 1 else if tj < 105 then 2 else 3
  if old ≤ raw then raw else if tj + 5 ≤ limitAt old then old - 1 else old

/-- The end of the lull of a sweep, which found this hottest junction: LIMIT and TJMAX (15 R437, R438). -/
def State.applySweep (s : State) (sweep : Option Nat) : State :=
  match sweep with
  | none => s
  | some tj => s.wr rClkstep (setFld (setFld (s.rd rClkstep) 6 2 (newLimit s.clkLimit tj)) 8 4 (min 15 ((tj - 40) / 8)))

/-- The step in force once the lulls in progress have ended (15 R437). -/
def State.stepAfter (s : State) : Nat :=
  match (s.sys.lull.work :: s.sys.lull.lateWork.reverse).findSome? Chores.relock with
  | some r => max r.toNat s.clkLimit
  | none => s.clkCur

/-- CLKSTEP.REQ as the drain of a lull begins, when a step change is due in it: one was requested before, or the thermal limit asks for
it (15 R437). -/
def State.relockReq (s : State) : Option (BitVec 2) :=
  if max s.clkReq s.clkLimit = s.stepAfter then none else some (BitVec.ofNat 2 s.clkReq)

/-! ### Scrubbing (12 R354, 05 R181, 13 R397) -/

/-- A report injection aimed at a store that patrol scrub reads fires on the first word of its target: the cluster's SRAM, a TCM, a
lane's storage or its mask file (12 R354, R364, 05 R181). What it reports is no error of the store. -/
def State.scrubInject (s : State) (c : Nat) : State :=
  let d := s.rd (rDinj c)
  let u := fld d 52 6
  let lane := decide (1 ≤ u ∧ u ≤ 3)
  if bitOf d 63 && !bitOf d 61 && (lane || decide (u = 7) || decide (u = 0x11)) && (!lane || decide (fld d 48 4 < 8)) then
    (s.wr (rDinj c) (setFld d 62 2 1)).logCluster c
      { inj := true, strand := none, sev := if bitOf d 60 then 2 else 0, unit := u, lgrp := if lane then fld d 48 4 else 15
        lane := if lane then fld d 44 4 else 0, chan := 0, roll := false, syn := 0, w2 := if u = 2 then 28672 else 0, w3 := 0 }
  else s

/-- The clusters in which an injection may be armed. -/
def State.injecting (s : State) : List Nat :=
  s.fw.filterMap fun (e : Nat × Word) => match region (8 * e.1) with
    | .alloc c 0x358 => some c
    | _ => none

/-- The L1 ways are not scrubbed (12 R354); patrol scrub of a long lull takes every word of memory and of lane storage. -/
def State.scrub (s : State) : State :=
  let s1 := s.synd.foldl (fun (s : State) (e : Nat × Byte) => s.eccWord none (8 * e.1)) s
  let s2 := s1.boundTids.foldl (fun (s : State) t =>
    if (s.strand t).vec.regSynd.isEmpty then s else s.within t fun s => s.scrubWords fun _ => true) s1
  let s3 := s2.clusters.foldl (fun (s : State) (e : Nat × Cluster) => s.strayRead e.1 fun _ => true) s2
  s3.injecting.foldl State.scrubInject s3

/-! ### Failing lanes (12 R361) -/

/-- The lane groups whose LGSTAT is not zero, as cluster and group. -/
def State.noted (s : State) : List (Nat × Nat) :=
  s.fw.filterMap fun (e : Nat × Word) =>
    match region (8 * e.1) with
    | .alloc c o => if 0x300 ≤ o ∧ o < 0x340 then some (c, (o - 0x300) / 8) else none
    | _ => none

/-- The lane group is to be fenced at the end of the lull. -/
def State.toFence (s : State) (c p : Nat) : Bool :=
  let w := s.rd (rLgstat c p)
  !bitOf w 16 && !(s.cluster c).fencing.getLsbD p && (bitOf w 10 || (bitOf w 9 && bitOf w 4) || (s.cluster c).fenceNext.getLsbD p)

/-- The clock runs for at least 1,168 clocks in a lull: in every long one, and in a short one by the step in force and the
relock that it may hold (12 R361). -/
def State.qualifies (s : State) (long relock : Bool) : Bool :=
  long || (if relock then decide (s.clkCur = 0) else decide (s.clkCur ≤ 2))

/-- Substitutions start (12 R361). -/
def State.substitute (s : State) : State :=
  s.noted.foldl (fun (s : State) g =>
    let w := s.rd (rLgstat g.1 g.2)
    if bitOf w 9 && !bitOf w 4 && !s.toFence g.1 g.2 then
      (s.onCluster g.1 fun k => { k with copying := k.copying ||| BitVec.ofNat 8 (2 ^ g.2) }).push
        (.substitutionDone (BitVec.ofNat 7 g.1) (BitVec.ofNat 3 g.2))
    else s) s

/-- A lane group is fenced (12 R361): assignments that include it are withdrawn, and its holder is squalled; it becomes FENCED when the
holder has been saved. -/
def State.fenceGroup (s : State) (c p : Nat) : State :=
  let s1 := ((s.clusterTids c).filter fun t => (s.strand t).heldLanes.elem p).foldl (fun (s : State) t => s.withdraw t) s
  let s2 := ((s1.clusterTids c).filter fun t => (s1.strand t).heldLanes.elem p).foldl (fun (s : State) t =>
    match (s.strand t).run with
    | .saving _ | .suspended _ | .unbound => s
    | _ => s.beginSave t .squall) s1
  let bit : BitVec 8 := BitVec.ofNat 8 (2 ^ p)
  ((s2.onCluster c fun k => { k with fenceNext := k.fenceNext &&& ~~~bit, fencing := k.fencing ||| bit }).fenceFreed c).assignLanes c
    none

/-- Every lane group that is to be fenced. -/
def State.fenceGroups (s : State) : State :=
  s.noted.foldl (fun (s : State) g => if s.toFence g.1 g.2 then s.fenceGroup g.1 g.2 else s) s

/-- Cores that firmware asked to fence and that hold no strand are fenced (05 R182). -/
def State.fenceCores (s : State) : State :=
  (s.fw.filterMap fun (e : Nat × Word) =>
    match region (8 * e.1) with
    | .alloc c 0x058 => some c
    | _ => none).foldl (fun (s : State) c =>
      s.upd (rCfence c) fun w =>
        (List.range 16).foldl (fun (w : Word) k =>
          if bitOf w k && !s.coreBound (16 * c + k) then setBit w (16 + k) true else w) w) s

/-! ### Links and ports (14 R401, R402, 16 R446) -/

/-- The die-to-die link between two compute dies is in service. -/
def State.linkUp (s : State) (d e : Nat) : Bool := !s.sys.linksDown.elem (8 * min d e + max d e)

/-- A die has no link in service to any other compute die (log 34). -/
def State.isolated (s : State) (d : Nat) : Bool := (List.range 4).all fun e => decide (e = d) || !s.linkUp d e

/-- Links whose retraining has failed go out of service; a die that loses its last link is isolated. -/
def State.failLinks (s : State) (ls : List Nat) : State :=
  let s1 := ls.foldl (fun (s : State) l =>
    if l / 8 < l % 8 ∧ l % 8 < 4 ∧ s.sys.linksDown.elem l = false then
      (s.onSys fun y => { y with linksDown := y.linksDown ++ [l] }).post 0x08 l 0
    else s) s
  match (List.range 4).find? fun d => s1.isolated d with
  | some d => if s1.sys.fatal then s1 else s1.enterFatal d
  | none => s1

/-- Ports whose retraining has failed go out of service until package reset. -/
def State.failPorts (s : State) (ps : List Nat) : State :=
  ps.foldl (fun (s : State) p =>
    if p < 8 ∧ bitOf (s.rd (rFpstat p)) 1 = false then
      (s.upd (rFpstat p) fun w => setBit (setBit w 1 true) 0 false).post 0x08 (0x100 + p) 0
    else s) s

/-! ### The calendar (14 R420) -/

/-- The length of the lull that starts at `n`. -/
def lullLength (n : Nat) : Nat := if n % 983040 = 0 then 7680 else 960

/-- The scheduled end of the span that starts with the lull at `n`: a long lull is followed by the short one at its end. -/
def spanEnd (n : Nat) : Nat := if n % 983040 = 0 then n + 8640 else n + 960

/-- The start of the lull after the one at `n`. -/
def nextStart (hot : Bool) (n : Nat) : Nat := if hot && !decide (n % 983040 = 0) then n + 3840 else n + 7680

/-- LULL_DRAIN_START (14 R421): a change of step requested before it takes effect at the lull's end (15 R437). The drain of a lull that
begins in the lull in progress or in its overrun joins it to the span (14 R424). -/
def execLullDrainStart (s : State) : Result :=
  let l := s.sys.lull
  let long := decide (l.start % 983040 = 0)
  if s.time + 256 < l.start then .next s
  else if l.phase = .clear then
    .next (s.onSys fun y =>
      { y with lull := { y.lull with phase := .drain, work := { Chores.none with relock := s.relockReq }, spanLong := long } })
  else if l.phase = .lull ∧ l.joined = false then
    .next (s.onSys fun y =>
      { y with
        lull := { y.lull with joined := true, nextRelock := s.relockReq, stop := spanEnd l.start, spanLong := l.spanLong || long } })
  else .next s

/-- The end of a lull's housekeeping: at the lull's scheduled end, or at that of its overrun (12 R361, 05 R182, 14 R402, 15 R438,
16 R446). The high-temperature calendar ends with a long lull that is not hot, and takes effect after the first hot lull (14 R420). -/
def State.endOfLull (s : State) (links ports : List Nat) (c : Chores) : State :=
  let s1 := s.applySweep c.sweep
  let s2 := if c.qual then s1.fenceGroups else s1
  let s3 := s2.fenceCores
  let s4 := if c.long then (s3.failPorts ports).failLinks links else s3
  s4.onSys fun y =>
    { y with
      lull := { y.lull with
        hot := y.lull.hot && !c.cool
        start := if y.lull.hot && c.cool then calendarFrom y.lull.start else y.lull.start
        hotFrom := if c.hotSeen && y.lull.hotFrom.isNone then some (calendarFrom s.time) else y.lull.hotFrom } }

/-- The calendar at the start of the lull at `n`, which a temperature report may make hot (14 R420). What the lull in an overrun has to do
at its end stays due at the overrun's end, in whose span the new lull joins (14 R424). -/
def Lull.begin (l : Lull) (n : Nat) (hotNow : Bool) (tj : Nat) (qual : Bool) : Lull :=
  let long := decide (n % 983040 = 0)
  let on := match l.hotFrom with | some h => decide (h ≤ n) | none => false
  let hot := l.hot || on
  let from_ := if on then none else l.hotFrom
  let ends := n + lullLength n
  { l with
    phase := .lull
    start := nextStart hot n
    stop := spanEnd n
    ends := ends
    overrun := decide (0 < l.late) && decide (ends ≤ l.late)
    hot := hot
    hotFrom := from_
    spanLong := long || l.spanLong
    work :=
      { long := long, qual := qual, hotSeen := hotNow && !hot && from_.isNone, cool := long && !hotNow
        sweep := if long then some tj else none, relock := if l.phase = .lull then l.nextRelock else l.work.relock }
    lateWork := if l.phase = .lull ∧ 0 < l.late then l.lateWork ++ [l.work] else []
    joined := false
    nextRelock := none }

/-- The lanes' error counters cleared (12 R358). -/
def State.clearCounts (s : State) : State :=
  { s with
    fw := s.fw.filter fun (e : Nat × Word) =>
      match region (8 * e.1) with
      | .alloc _ o => !(decide (0x3C0 ≤ o) && decide (o < 0x400))
      | _ => true }

/-- LULL_START (14 R420, R421): `hot` says that a DRAM device reports a high temperature, `tj` is the hottest junction. The lull before
it in its span ends here, unless it overruns. -/
def execLullStart (hot : Bool) (tj : Nat) (s : State) : Result :=
  let l0 := s.sys.lull
  let n := l0.start
  if (l0.phase = .drain ∨ (l0.phase = .lull ∧ l0.joined = true
      ∧ (s.time < l0.late ∨ (l0.late = 0 ∧ l0.ends ≤ s.time ∧ l0.stepDue = false)))) ∧ n ≤ s.time then
    let s1 := if l0.phase = .lull ∧ l0.late = 0 then
        s.endOfLull (Config.failedLinks s.time) (Config.failedPorts s.time) l0.work
      else s
    let long := decide (n % 983040 = 0)
    let hotNow := hot || bitOf (s.rd rLullcfg) 0
    let qual := s1.qualifies long (if l0.phase = .lull then l0.nextRelock else l0.work.relock).isSome
    let s2 := (s1.onSys fun y =>
      { y with
        lull := y.lull.begin n hotNow tj qual
        rows := [], replays := []
        retrain := if long then [] else y.retrain
        l2Reserved := (List.range 4).foldl (fun m d => NMap.set 0 m d (BitVec.ofNat 2 (fld (s.rd (rL2rsv d)) 0 2) - 2)) []
        l2Off := (List.range 4).foldl (fun m d => NMap.set 0 m d (BitVec.ofNat 12 (fld (s.rd (rL2woff d)) 0 12))) [] }).flushL2Off
    let s3 := if long then s2.clearCounts.scrub else s2
    let s4 := if qual then s3.substitute else s3
    .next (if 115 ≤ tj && long then s4.push .thermtrip else s4)
  else .next s

/-- LULL_OVERRUN: the housekeeping runs `late` ticks past the scheduled end (14 R424). -/
def execLullOverrun (late : Nat) (s : State) : Result :=
  let l := s.sys.lull
  if l.phase = .lull ∧ l.late = 0 ∧ l.ends ≤ s.time ∧ l.overrun = false ∧ 0 < late then
    .next (s.onSys fun y => { y with lull := { y.lull with late := l.ends + late, overrun := true } })
  else .next s

/-- The step that a message, acknowledgement or bounce on its way makes. -/
def Net.event (m : Net) : Event :=
  match m.kind with
  | .message => .mailboxArrival 0
  | .ack => .messageAcknowledgement 0
  | .bounce _ => .bounceArrival 0

/-- The end of a span: LULLW returns, and what DRAM, the merge buffers, the links and the hints have held goes on (14 R421, R423). -/
def State.endOfSpan (s : State) : State :=
  let s1 := s.onSys fun y =>
    { y with
      lull := { y.lull with
        phase := .clear, lastEnd := s.time, spans := y.lull.spans + 1, stop := spanEnd y.lull.start, spanLong := false
        work := Chores.none, joined := false, nextRelock := none }
      dramHeld := []
      ports := y.ports.foldl (fun (m : NMap Port) (e : Nat × Port) =>
        NMap.set Port.reset m e.1 (if e.2.waiting.isEmpty then e.2 else e.2.flush)) [] }
  let s2 := s1.boundTids.foldl (fun (s : State) t =>
    match (s.strand t).run with
    | .parked (.lullw _) => s.onStrand t fun x => x.wake none
    | _ => s) s1
  let s3 := if s2.sys.merges.isEmpty then s2 else s2.mergeAll
  let away := s.net.filter fun m => !s.netFlows m
  (s3.pushAll (s.sys.dramHeld.map (fun pa => .dramAccess (word pa)) ++ s.sys.racts.map (fun _ => .ractArrival 0)
    ++ away.map Net.event)).releaseKept

/-- LULL_END (14 R421, R424): the lull in progress, or its overrun, ends, and with an overrun the lulls that have ended in it. The span goes
on while a lull that started meanwhile runs, or when the drain of the next one has begun. -/
def execLullEnd (links ports : List Nat) (s : State) : Result :=
  let l := s.sys.lull
  let done := l.ended s.time
  if l.phase = .lull ∧ done ≠ [] ∧ l.relocks s.time = false ∧ (0 < l.late ∨ s.time < l.start) then
    let s1 := if 0 < l.late then
        (s.onSys fun y =>
          { y with lull := { y.lull with overruns := y.lull.overruns + 1, lastEnd := s.time, late := 0, lateWork := [] } }).post 0x03 0
          (word s.time)
      else s
    let s2 := done.foldl (fun (s : State) c => s.endOfLull links ports c) s1
    if s.time < l.ends then .next s2
    else if s2.sys.lull.start ≤ s.time + 256 then
      .next (s2.onSys fun y =>
        { y with
          lull := { y.lull with
            phase := .drain, stop := spanEnd y.lull.start, joined := false, nextRelock := none
            work := { Chores.none with relock := if l.joined then l.nextRelock else s2.relockReq }
            spanLong := y.lull.spanLong || decide (y.lull.start % 983040 = 0) } })
    else .next s2.endOfSpan
  else .next s

/-- RELOCK_DONE: the step in force changes at the lull's actual end, to the one that was requested before its drain (15 R437, log 25). -/
def execRelockDone (s : State) : Result :=
  let l := s.sys.lull
  match (l.ended s.time).reverse.findSome? Chores.relock with
  | some r =>
    if l.relocks s.time then
      .next ((s.upd rClkstep fun w => setFld w 2 2 (max r.toNat s.clkLimit)).onSys fun y =>
        { y with lull := { y.lull with
          work := if l.ends ≤ s.time then { y.lull.work with relock := none } else y.lull.work
          lateWork := y.lull.lateWork.map fun c => { c with relock := none } } })
    else .next s
  | none => .next s

/-- THERMTRIP: THERMTRIP# is asserted, and the board removes power at once (15 R438). -/
def execThermtrip (s : State) : Result :=
  .next ((s.onSys fun y => { y with hostOut := y.hostOut ++ [.thermtrip] }).push .powerLoss)

end Sys2Proof.Machine
end

