-- ==== Sys2Proof/Machine/Fabric.lean ====
section
/-! DEFINITION. The Brulos fabric: flits and link errors (16 R443 to R446), replies and requests of other nodes
(16 R447 to R449). -/

namespace Sys2Proof.Machine

open Sys2Proof

/-! ### Links (16 R445, R446) -/

/-- Flits up to and including the acknowledged number leave the buffer. -/
def Port.acked (p : Port) (a : BitVec 12) : Port :=
  { p with unacked := p.unacked.filter fun x => !decide ((a - x.seq).toNat < 2048) }

/-- The flits of port `p` that wait are sent as far as there is room and no long lull holds them (14 R421). -/
def State.flushPort (s : State) (p : Nat) : State :=
  s.onPort p fun q =>
    q.waiting.foldl (fun (q : Port) x =>
      if s.linksHeld (FlitBody.isRequest x.body) then { q with waiting := q.waiting ++ [x] } else q.send x) { q with waiting := [] }

/-- An acknowledgement makes room for flits that wait. -/
def State.ackPort (s : State) (p : Nat) (a : BitVec 12) : State := (s.onPort p fun q => q.acked a).flushPort p

/-- Resending from the oldest unacknowledged flit counts as a replay (16 R445). -/
def State.resend (s : State) (p : Nat) : State :=
  if (s.port p).unacked.isEmpty then s else s.replay (16 + p) (p / 2) (word (2 ^ 63 + p))

/-- A link-control flit of port `p`. -/
def State.control (s : State) (p : Nat) (b : FlitBody) : State :=
  s.onPort p fun q =>
    { q with
      control := q.control ++
        [{ dst := 0, src := BitVec.ofNat 8 (fld (s.rd rFnode) 0 8), tenant := 0, mark := false, tag := 0, seq := 0
           ack := q.expect - 1, body := b }] }

/-- LINK_NAK (16 R445). -/
def execLinkNak (p : BitVec 3) (ack : BitVec 12) (s : State) : Result := .next ((s.ackPort p.toNat ack).resend p.toNat)

/-- RETRANSMIT_TIMEOUT (16 R445). -/
def execRetransmitTimeout (p : BitVec 3) (s : State) : Result :=
  .next (if (s.port p.toNat).down then s else s.resend p.toNat)

/-- FPSTAT.UP of port `p`: trained and carrying flits, in service and outside the start of a long lull to its end (14 R421, 16 R442). -/
def State.portUp (s : State) (p : Nat) : Bool := !(s.port p).down && !bitOf (s.rd (rFpstat p)) 1 && !s.linksHeld false

/-- BRULOS_LINK_DOWN: the peer retrains; this port holds its flits (16 R446). -/
def execBrulosLinkDown (p : BitVec 3) (s : State) : Result := .next (s.onPort p.toNat fun q => { q with down := true })

/-- BRULOS_LINK_UP: the link is trained; the port resends its unacknowledged flits, then those held (15 R436, 16 R446). -/
def execBrulosLinkUp (p : BitVec 3) (s : State) : Result :=
  let n := p.toNat
  if bitOf (s.rd (rFpstat n)) 1 then .next s else .next ((s.onPort n fun q => { q with down := false }).flushPort n)

/-! ### The flit word (16 R444) -/

/-- CLASS of a flit: request, reply, collective or link control (16 R444). -/
def FlitBody.cls : FlitBody → Nat
  | .load .. | .store .. | .atomic .. => 0
  | .reply _ | .replyFault _ => 1
  | .collective _ => 2
  | .nak | .idle => 3

/-- The number that stands for what OP names of a flit: load, store, an atomic's kind, a reply's status, a link command (16 R444, log 22). -/
def FlitBody.kind : FlitBody → Nat
  | .load .. => 0
  | .store .. => 1
  | .atomic _ n op _ _ => 8 * n + match op with
    | none => 2
    | some o => 3 + (match o with | .add => 0 | .and => 1 | .or => 2 | .xor => 3 | .min => 4 | .max => 5 | .minu => 6 | .maxu => 7 | .swap => 8)
  | .reply _ => 0
  | .replyFault c => 1 + c
  | .collective _ => 0
  | .nak => 0
  | .idle => 1

/-- The header of a flit (16 R444). -/
def Flit.header (x : Flit) : Word :=
  word (x.dst.toNat * 2 ^ 56 + x.src.toNat * 2 ^ 48 + x.tenant.toNat * 2 ^ 43 + x.mark.toNat * 2 ^ 42 + FlitBody.cls x.body * 2 ^ 40
    + (Config.flitOp (4 * FlitBody.kind x.body + FlitBody.cls x.body)).toNat * 2 ^ 36 + x.tag.toNat * 2 ^ 24 + x.seq.toNat * 2 ^ 12
    + x.ack.toNat)

/-- CRC-32 of bytes with the IEEE 802.3 polynomial, which bytes 60 to 63 of a flit hold for its bytes 0 to 59. -/
def crc32 (bs : List Byte) : BitVec 32 :=
  ~~~(bs.foldl (fun (c : BitVec 32) b =>
    (List.range 8).foldl (fun (c : BitVec 32) _ => if c.getLsbD 0 then (c >>> 1) ^^^ 0xEDB88320#32 else c >>> 1)
      (c ^^^ b.setWidth 32)) 0xFFFFFFFF#32)

/-- Bytes 8 to 59 of a flit. -/
def FlitBody.payload (b : FlitBody) : List Byte :=
  let at_ := match b with
    | .load va n => (va.toNat, n, [])
    | .store va bs => (va.toNat, bs.length, bs)
    | .atomic va n _ x cmp => (va.toNat, n, natLe x.toNat 8 ++ natLe cmp.toNat 8)
    | .reply bs | .collective bs => (0, bs.length, bs)
    | .replyFault _ | .nak | .idle => (0, 0, [])
  (List.range 52).map fun i => Config.flitByte at_.1 at_.2.1 (4 * FlitBody.kind b + FlitBody.cls b) at_.2.2 i

/-- The 64 bytes of a flit: header, payload and CRC (16 R444). -/
def Flit.bytes (x : Flit) : List Byte :=
  let bs := natLe (Flit.header x).toNat 8 ++ FlitBody.payload x.body
  bs ++ natLe (crc32 bs).toNat 4

/-- Sixty-four bytes have a good CRC (16 R444, R445). -/
def flitGood (bs : List Byte) : Bool := decide (bs.length = 64) && decide (leNat (bs.drop 60) = (crc32 (bs.take 60)).toNat)

/-- The data that the payload of one flit of a reply holds. -/
def payloadBytes : Nat := 52

/-- What a reply carries in each of its flits: one with a 64-byte line takes two (16 R444). `fuel` bounds them. -/
def FlitBody.flits (b : FlitBody) : Nat → List FlitBody
  | 0 => [b]
  | fuel + 1 =>
    match b with
    | .reply bs =>
      if bs.length ≤ payloadBytes then [b] else .reply (bs.take payloadBytes) :: FlitBody.flits (.reply (bs.drop payloadBytes)) fuel
    | _ => [b]

/-! ### Replies (16 R448, R449) -/

/-- The position of the access of a strand that waits for a reply with this tag from another node. -/
def Strand.awaits (x : Strand) (tag : Nat) : Option Nat :=
  x.pend.findIdx? fun p =>
    decide (p.tag = some tag) && p.fail.isNone && match p.parts with | (q, _) :: _ => decide (q.kind = .remote) | [] => false

/-- An access after a reply with these bytes: the rest of the reply comes in another flit, a further part is asked for, or the access is
answered. -/
def State.answerPend (s : State) (t : Tid) (i : Nat) (p : Pend) (bs : List Byte) : State :=
  let r : Pend := { p with got := p.got ++ bs, parts := p.parts.tail, tag := none }
  let put := fun (s : State) (p : Pend) => s.onStrand t fun x => { x with pend := x.pend.set i p }
  let left := match p.parts with | (q, n) :: _ => if payloadBytes < n then some (q, n - bs.length) else none | [] => none
  match left with
  | some (q, n + 1) => put s { p with got := p.got ++ bs, parts := (q, n + 1) :: p.parts.tail }
  | _ => match r.parts with
  | [] => (put s r).push (.memoryReply t 0)
  | (q, _) :: _ =>
    if q.far then (let c := s.sendPend (s.agentOf t) r; put c.1 c.2) else (put s r).push (.homeRequest t 0)

/-- An access fails with a cause; TVAL is the address of the part that failed. -/
def State.failPend (s : State) (t : Tid) (i : Nat) (p : Pend) (c : Nat) : State :=
  let r : Pend := { p with fail := some c, addr := p.addr + word p.got.length, tag := none }
  (s.onStrand t fun x => { x with pend := x.pend.set i r }).push (.memoryReply t 0)

/-- The record of a write to the physical address `pa` that its target dropped (13 R399, 16 R448). -/
def State.logDropped (s : State) (t : Tid) (tenant pa : Nat) : State := s.logDie t.die (accessFailure tenant true pa)

/-- An acknowledgement with this tag reaches the write queue of context `t`: entry `i` loses the tag, and is done when it has performed
everywhere (16 R448, R449). -/
def State.ackEntry (s : State) (t : Tid) (i tag : Nat) (e : WEntry) : State :=
  let r := e.tags.filter fun (p : Nat × Nat) => !decide (p.1 = tag)
  let s1 := s.onStrand t fun x =>
    { x with writes := x.writes.set i { e with tags := r, stage := if r.isEmpty && decide (e.stage = 4) then 3 else e.stage } }
  (if r.isEmpty && decide (e.stage = 4) then s1.push (.storeAcknowledgement t 0) else s1).goOn t

/-- An acknowledgement of a vector or engine write of context `t`: a copy that has ended is done once its last has come. -/
def State.ackPosted (s : State) (t : Tid) (tag : Nat) (p : Posted) : State :=
  let s1 := (s.onStrand t fun x => { x with posted := x.posted.filter fun y => !decide (y.tag = tag) }).goOn t
  match p.own with
  | .engine q =>
    if ((s1.strand t).slot (BitVec.ofNat 2 q)).ended && !(s1.strand t).engineOut q then s1.push (.streamCopyDone t (BitVec.ofNat 2 q))
    else s1
  | .vector _ => s1

/-- The write-queue entry that has a tag out, by position, with the address of that write. -/
def Strand.entryTag (x : Strand) (tag : Nat) : Option (Nat × WEntry × Nat) :=
  (List.range x.writes.length).findSome? fun i =>
    match x.writes[i]? with
    | some e => (e.tags.find? fun (p : Nat × Nat) => decide (p.1 = tag)).map fun p => (i, e, p.2)
    | none => none

/-- The write of context `t` that has a tag out is acknowledged; one that its target dropped is recorded. -/
def State.ackWrite (s : State) (t : Tid) (x : Flit) : Option State :=
  let tag := x.tag.toNat
  let log := fun (s : State) (pa : Nat) =>
    match x.body with | .replyFault _ => s.logDropped t x.tenant.toNat pa | _ => s
  match (s.strand t).entryTag tag with
  | some (i, e, pa) => some ((log s pa).ackEntry t i tag e)
  | none =>
    match (s.strand t).posted.find? fun p => decide (p.tag = tag) with
    | some p => some ((log s p.addr).ackPosted t tag p)
    | none => none

/-- A reply from another node reaches the strand that waits for it: a load's or atomic's data or fault, or the acknowledgement of a
write, whose fault is recorded; or it answers a request of the system die (14 R409, R410, 15 R430, 16 R448). -/
def State.remoteReply (s : State) (x : Flit) : State :=
  let tag := x.tag.toNat
  match s.boundTids.findSome? fun t => ((s.strand t).awaits tag).map fun i => (t, i) with
  | some (t, i) =>
    (match (s.strand t).pend[i]? with
     | none => s
     | some p =>
       match x.body with
       | .reply bs => (s.replyBack t.cluster (.flit x.mark)).answerPend t i p bs
       | .replyFault c => (s.replyBack t.cluster (.flit x.mark)).failPend t i p c
       | _ => s)
  | none =>
    match s.boundTids.findSome? fun t => (s.ackWrite t x).map fun s1 => (t, s1) with
    | some (t, s1) => s1.replyBack t.cluster (.flit x.mark)
    | none => s.systemReply (2 * tag + 1) (match x.body with | .replyFault _ => none | .reply bs => some bs | _ => some [])

/-! ### Flits (16 R443, R444) -/

/-- BRULOS_FLIT_RECEIVE: a flit with a bad CRC (`good` is what `flitGood` says of its bytes) or out of order is discarded and NAKed; the
others are taken in order, forwarded, or delivered (16 R443 to R445). What a collective's flits bring meets in COLLECTIVE_COMPLETE (log 57).
From the drain of the package's own long lull no request is accepted, and in the lull no flit moves (14 R421, 16 R446). -/
def execBrulosFlitReceive (p : BitVec 3) (good : Bool) (x : Flit) (s : State) : Result :=
  let n := p.toNat
  if s.linksHeld (FlitBody.isRequest x.body) then .next s
  else if !good then .next (s.control n .nak)
  else
    match x.body with
    | .nak => .next ((s.ackPort n x.ack).resend n)
    | .idle => .next (s.ackPort n x.ack)
    | b =>
      if !decide (x.seq = (s.port n).expect) then .next (s.control n .nak)
      else
        let s1 := (s.onPort n fun q => { q with expect := q.expect + 1 }).ackPort n x.ack
        if !decide (x.dst.toNat = fld (s.rd rFnode) 0 8) then .next (s1.sendFlit x)
        else
          .next (match b with
            | .reply _ | .replyFault _ => s1.remoteReply x
            | .collective _ => s1
            | _ => (s1.onSys fun y => { y with inbound := y.inbound ++ [x] }).push (.remoteRequest 0))

/-- The bytes that a request touches. -/
def FlitBody.span : FlitBody → Nat × Nat
  | .load va n => (va.toNat, n)
  | .store va bs => (va.toNat, bs.length)
  | .atomic va n _ _ _ => (va.toNat, n)
  | _ => (0, 0)

/-- The data bytes of a reply. -/
def FlitBody.size : FlitBody → Nat
  | .reply bs => bs.length
  | _ => 0

/-- The agent of a request from another node: its tenant with application permissions (16 R448). -/
def Flit.agent (x : Flit) : Agent := cpAgent x.tenant.toNat 0

/-- The 64-byte lines that a request touches (16 R443). -/
def State.linesOf (s : State) (x : Flit) : List Nat :=
  let v := FlitBody.span x.body
  match s.resolve (Flit.agent x) .load (word v.1) v.2 with
  | .ok ps => ps.map fun p => s.redirect p.1.key / 64
  | .error _ => []

/-- Two requests touch a common line: of one tenant by their addresses, of any by their homes (16 R443). -/
def State.sameLine (s : State) (a b : Flit) : Bool :=
  let x := FlitBody.span a.body
  let y := FlitBody.span b.body
  (decide (a.tenant = b.tenant) && decide (x.1 / 64 ≤ (y.1 + y.2 - 1) / 64) && decide (y.1 / 64 ≤ (x.1 + x.2 - 1) / 64))
    || (s.linesOf a).any fun l => (s.linesOf b).elem l

/-- The target's side of a request: the state, and the reply; none when the request waits (14 R405, R421, 16 R448). -/
def State.serveRemote (s : State) (x : Flit) : Option (State × FlitBody) :=
  let r := s.rd (rFrt x.src.toNat)
  let a := Flit.agent x
  let fail := fun (va : Word) (n : Nat) (b : Bad) => (s.failure a va n b).map fun (e : State × Nat) => (e.1, FlitBody.replyFault e.2)
  let far := fun (ps : List (Place × Nat)) => ps.any fun p => p.1.far
  if !bitOf r 35 || !bitOf r x.tenant.toNat then some (s, .replyFault 0x0C)
  else
    match x.body with
    | .load va n =>
      (match s.resolve a .load va n with
       | .error f => fail va n f.why
       | .ok ps =>
         if far ps then some (s, .replyFault 0x0C)
         else if s.partsHeld a ps then none
         else
           match (s.noteAccess a va (ps.map Prod.snd)).readParts a false va ps with
           | (s1, .ok bs) => some (s1, .reply bs)
           | (s1, .error _) => some (s1, .replyFault 0x0D))
    | .store va bs =>
      (match s.resolve a (.store (word (leNat bs))) va bs.length with
       | .error f => fail va bs.length f.why
       | .ok ps =>
         if far ps then some (s, .replyFault 0x0C)
         else if ps.any fun p => s.linkHeld a p.1 then none
         else some ((s.noteAccess a va (ps.map Prod.snd)).writeParts a false ps bs, .reply []))
    | .atomic va n op y cmp =>
      (match s.resolve a (match op with | some o => .amo o y | none => .cas) va n with
       | .error f => fail va n f.why
       | .ok [(p, _)] =>
         if p.far then some (s, .replyFault 0x0C)
         else if s.atomicHeld a p then none
         else
           (match (s.noteAccess a va [n]).atomicAt a p (match op with | some o => .amo n o y | none => .cas n cmp y) with
            | (s1, .ok old) => some (s1, .reply old)
            | (s1, .error c) => some (s1, .replyFault c))
       | .ok _ => some (s, .replyFault 0x0C))
    | _ => some (s, .idle)

/-- REMOTE_REQUEST: the `n`-th request that has been delivered is served, unless an earlier one touches its line (16 R443,
R448). One that must wait is looked at again when what holds it ends. -/
def execRemoteRequest (n : Nat) (s : State) : Result :=
  match s.sys.inbound[n]? with
  | none => .next s
  | some x =>
    if (s.sys.inbound.take n).any fun y => s.sameLine y x then .next s
    else
      match s.serveRemote x with
      | none => .next (s.keep (.remoteRequest n))
      | some (s1, b) =>
        let s2 := s1.onSys fun y => { y with inbound := y.inbound.eraseIdx n }
        .next ((FlitBody.flits b (FlitBody.size b)).foldl (fun (s : State) b => s.sendFlit
          { dst := x.src, src := x.dst, tenant := x.tenant, mark := x.mark, tag := x.tag, seq := 0, ack := 0, body := b }) s2)

end Sys2Proof.Machine
end

