-- ==== Sys2Proof/Machine/Host.lean ====
section
/-! DEFINITION. The host port and the management path: what the functions present (00 R13, 15 R427, R429), BAR4 (15 R430), completions of requests to the host (15 R433), firmware
loading (15 R435), package reset and power (15 R434, R439), PLDM and MCTP (15 R440). -/

namespace Sys2Proof.Machine

open Sys2Proof

/-! ### Functions (00 R13, 15 R427, R429, R430) -/

/-- What a function presents in its configuration space. -/
structure PciFunction where
  /-- Vendor ID. -/
  vendor : BitVec 16
  /-- Device ID. -/
  device : BitVec 16
  /-- Revision ID. -/
  revision : Byte
  /-- The ARI capability. -/
  ari : Bool
  /-- The SR-IOV capability, with its number of virtual functions. -/
  sriov : Option Nat
  /-- Maximum payload in bytes. -/
  maxPayload : Nat
  /-- Maximum read request in bytes. -/
  maxRead : Nat
  /-- MSI-X vectors; there is no INTx and no MSI. -/
  vectors : Nat
  /-- Requests are sent with Relaxed Ordering or ID-Based Ordering. -/
  relaxed : Bool
  /-- AtomicOps of 32 and 64 bits as requester. -/
  atomicRequester : Bool
  /-- AtomicOps as completer. -/
  atomicCompleter : Bool
  /-- Sizes of the 64-bit BARs 0, 2 and 4. -/
  barSizes : Nat × Nat × Nat
  /-- Which of them are prefetchable. -/
  prefetchable : Bool × Bool × Bool
  deriving DecidableEq, Repr

/-- Function `f`: the physical function for 0, else a virtual function. 00 R13 gives a virtual function only its Device ID: that it presents the
Vendor ID and the Revision ID of the physical function is a DESIGN CHOICE (log 88). -/
def pciFunction (f : Nat) : PciFunction :=
  { vendor := 0x1F6A, device := if f = 0 then 0xC421 else 0xC42F, revision := 0xA0, ari := decide (f = 0)
    sriov := if f = 0 then some 31 else none, maxPayload := 512, maxRead := 4096, vectors := 17, relaxed := false, atomicRequester := true
    atomicCompleter := false, barSizes := (2 ^ 16, 2 ^ 20, 2 ^ 48), prefetchable := (false, false, true) }

/-! ### BAR4 (15 R429, R430, R436) -/

/-- The address range from `a`, `n` bytes long, cut at 8-byte boundaries. `fuel` bounds the pieces. -/
def hostChunks (a n : Nat) : Nat → List (Nat × Nat)
  | 0 => []
  | fuel + 1 =>
    if n = 0 then []
    else
      let m := min n (8 - a % 8)
      (a, m) :: hostChunks (a + m) (n - m) fuel

/-- An access of the host port that faults: one record in die 0's log, unless the walk has written it (13 R388, R399). -/
def State.hostFault (s : State) (a : Agent) (va n : Nat) (b : Bad) : Option State :=
  match b with
  | .hold => none
  | .entry .. => (s.failure a (word va) n b).map Prod.fst
  | .trap _ => (s.failure a (word va) n b).map fun e => e.1.logDie 0 (accessFailure a.tenant false va)

/-- The pieces of a host access with their places, `data` being what a write stores; none when one of them waits, and the state after the
fault when one fails. -/
def State.hostPlaces (s : State) (a : Agent) :
    List (Nat × Nat) → Option (List Byte) → Except (Option State) (List (Nat × Place × Nat))
  | [], _ => .ok []
  | (va, n) :: r, data =>
    match s.resolve a (match data with | some bs => .store (word (leNat (bs.take n))) | none => .load) (word va) n with
    | .error f => .error (s.hostFault a va n f.why)
    | .ok ((p, _) :: _) =>
      (match s.hostPlaces a r (data.map fun bs => bs.drop n) with
       | .ok ps => .ok ((va, p, n) :: ps)
       | .error e => .error e)
    | .ok [] => .error none

/-- What has come for step `e` from a far address. -/
def State.farBytes (s : State) (e : Event) (addr : Word) : Option (List Byte) :=
  (s.sys.far.find? fun (w : FarWord) => decide (w.owner = .step e) && decide (w.addr = addr)).bind fun w => w.answer.bind id

/-- The pieces read in order for request `e`, those of the host and of other nodes as they have come; none at a poisoned word or a
failure. -/
def State.hostReads (s : State) (a : Agent) (e : Event) : List (Nat × Place × Nat) → State × Option (List Byte)
  | [] => (s, some [])
  | (va, p, n) :: r =>
    let s0 := s.noteAccess a (word va) [n]
    let one : State × Option (List Byte) :=
      if p.far then (s0, s0.farBytes e (word va))
      else match s0.readParts a false (word va) [(p, n)] with
        | (s1, .ok bs) => (s1, some bs)
        | (s1, .error _) => (s1, none)
    match one with
    | (s1, none) => (s1.logDie 0 (accessFailure a.tenant false va), none)
    | (s1, some bs) =>
      match State.hostReads s1 a e r with
      | (s2, some cs) => (s2, some (bs.take n ++ cs))
      | (s2, none) => (s2, none)

/-- The pieces written in order, for a request through function `f`. -/
def State.hostWrites (s : State) (f : Nat) (a : Agent) : List (Nat × Place × Nat) → List Byte → State
  | [], _ => s
  | (va, p, n) :: r, bs =>
    let s1 := s.noteAccess a (word va) [n]
    State.hostWrites (if p.kind = .remote then s1.askWord a (.posted f a.tenant) p (word va) n (some (bs.take n))
      else s1.writeParts a false [(p, n)] (bs.take n)) f a r (bs.drop n)

/-- The host's request is answered with these bytes, or with an error: 1 Completer Abort, 2 Unsupported Request. -/
def State.hostAnswer (s : State) (bs : List Byte) (e : Nat) : State :=
  s.onSys fun y => { y with reply := bs, replyError := e }

/-- Function `f` serves a tenant, and the port answers more than identification (15 R428, R436). -/
def State.fnServes (s : State) (f : Nat) : Bool := bitOf (s.rd (rFnten f)) 7 && !s.sys.fatal

/-- The host port as the agent of the tenant of function `f`. -/
def State.hostAgent (s : State) (f : Nat) : Agent := cpAgent (fld (s.rd (rFnten f)) 0 5) 0

/-- The function whose request through a memory window an event is. -/
def hostEventOf : Event → Option Nat
  | .hostBar4Read f .. => some f.toNat
  | .hostBar4Write f .. => some f.toNat
  | .registerWrite pa _ => (match region pa.toNat with | .bar0 f _ | .bar2 f _ => some f | _ => none)
  | _ => none

/-- An earlier request of function `f` waits at the port, or a posted write of it to another node has not performed at sy: later ones
stay behind it (15 R431). -/
def State.hostBehind (s : State) (f : Nat) : Bool :=
  (s.sys.kept.any fun (e : Nat × Event) => decide (hostEventOf e.2 = some f))
    || s.sys.far.any fun (w : FarWord) => match w.owner with | .posted g _ => decide (g = f) | .step _ => false

/-- HOST_BAR4_READ (15 R430). A read that must wait stays at the port until what holds it has ended. Its pieces in the host's memory and
on other nodes are asked for together, and it is served once they have all come; another read of the same bytes waits behind it. -/
def execHostBar4Read (f : BitVec 5) (off : Word) (n : Nat) (s : State) : Result :=
  let e : Event := .hostBar4Read f off n
  let later : Result := .next (s.keep e)
  let asked := s.sys.far.filter fun (w : FarWord) => decide (w.owner = .step e)
  let done := fun (s : State) => s.clearFar (.step e)
  if !s.fnServes f.toNat then .next ((done s).hostAnswer [] 2)
  else if (asked.isEmpty && s.hostBehind f.toNat) || asked.any fun w => w.answer.isNone then later
  else
    let a := s.hostAgent f.toNat
    match s.hostPlaces a (hostChunks (off.toNat % 2 ^ 48) (min n 4096) 4096) none with
    | .error none => later
    | .error (some s1) => .next ((done s1).hostAnswer [] 1)
    | .ok ps =>
      let far := ps.filter fun p => p.2.1.far
      if s.partsHeld a ((ps.filter fun p => !p.2.1.far).map Prod.snd) then later
      else if asked.isEmpty && !far.isEmpty then
        .next (far.foldl (fun (s : State) p => s.askWord a (.step e) p.2.1 (word p.1) p.2.2 none) s)
      else
        match s.hostReads a e ps with
        | (s1, some bs) => .next (((done s1).hostAnswer bs 0).unkeep)
        | (s1, none) => .next (((done s1).hostAnswer [] 1).unkeep)

/-- HOST_BAR4_WRITE (15 R430). A write that faults is dropped as a whole. -/
def execHostBar4Write (f : BitVec 5) (off : Word) (data : List Byte) (s : State) : Result :=
  let later : Result := .next (s.keep (.hostBar4Write f off data))
  if !s.fnServes f.toNat then .next (s.hostAnswer [] 2)
  else if s.hostBehind f.toNat then later
  else
    let a := s.hostAgent f.toNat
    match s.hostPlaces a (hostChunks (off.toNat % 2 ^ 48) data.length data.length) (some data) with
    | .error none => later
    | .error (some s1) => .next s1
    | .ok ps => if ps.any fun p => s.linkHeld a p.2.1 then later else .next (s.hostWrites f.toNat a ps data)

/-- HOST_ATOMICOP_REQUEST: the port is no AtomicOp completer (15 R430). -/
def execHostAtomicopRequest (_f : BitVec 5) (_off : Word) (s : State) : Result := .next (s.hostAnswer [] 2)

/-! ### Completions (15 R433) -/

/-- The positions of the accesses of a strand that wait for the host. -/
def Strand.hostPends (x : Strand) : List Nat :=
  (List.range x.pend.length).filter fun i =>
    match x.pend[i]? with
    | some p => p.tag.isSome && p.fail.isNone && (match p.parts with | (q, _) :: _ => decide (q.kind = .host) | [] => false)
    | none => false

/-- The posted writes that have left through the host port, those of a context first and then those of no strand: whose it is, its address,
tenant and body encoding. -/
def State.hostPosted (s : State) (t : Tid) : List (Option Tid × Nat × Nat × Nat) :=
  let of := fun (w : Option Tid) => s.sys.hostOut.filterMap fun o =>
    match o with
    | .write _ h _ who tenant raw => if who = w then some (w, h, tenant, raw) else none
    | _ => none
  of (some t) ++ of none

/-- The tags of the requests of the system die that are out at the host: decrements of completion signals, and doublewords asked for. -/
def State.hostTags (s : State) : List Nat :=
  (s.sys.signals.map Prod.fst ++ (s.sys.far.filter fun (w : FarWord) => w.answer.isNone).map FarWord.tag).filter fun k =>
    decide (k % 2 = 0)

/-- What the `n`-th answer for a context concerns: an access that waits for the host; past these, a posted write of it or of no strand;
past these, a request of the system die. -/
inductive HostAnswered
  | pend (i : Nat) (p : Pend)
  | posted (who : Option Tid) (addr tenant raw : Nat)
  | system (tag : Nat)
  | nothing
  deriving DecidableEq, Repr

/-- The subject of the `n`-th answer for context `t`. -/
def State.answered (s : State) (t : Tid) (n : Nat) : HostAnswered :=
  let x := s.strand t
  let is := x.hostPends
  let ws := s.hostPosted t
  match is[n]? with
  | some i => (match x.pend[i]? with | some p => .pend i p | none => .nothing)
  | none =>
    match ws[n - is.length]? with
    | some w => .posted w.1 w.2.1 w.2.2.1 w.2.2.2
    | none =>
      match s.hostTags[n - is.length - ws.length]? with
      | some k => .system k
      | none => .nothing

/-- A request to the host ends badly: a load or atomic faults, a store is recorded with its physical address and, for a strand's, its
encoding in the log of the strand's die, and a request of the system die fails (13 R399, 14 R409, 15 R433). -/
def State.hostFailed (s : State) (t : Tid) (n cause : Nat) : State :=
  match s.answered t n with
  | .pend i p => (s.noteReply t.cluster).failPend t i p cause
  | .posted (some u) h tenant raw =>
    s.logDie u.die { accessFailure tenant true (0x8000000000000 + h) with
      strand := some u, w3 := word (tenant * 2 ^ 32 + raw % 2 ^ 32) }
  | .posted none h tenant _ => s.logDie 0 (accessFailure tenant true (0x8000000000000 + h))
  | .system tag => s.systemReply tag none
  | .nothing => s

/-- HOST_COMPLETION: the completion of the `n`-th request with its status and data; for a posted write, its outcome (15 R433). -/
def execHostCompletion (t : Tid) (n : Nat) (st : HostStatus) (v : Word) (s : State) : Result :=
  match st with
  | .success =>
    (match s.answered t n with
     | .pend i p =>
       .next ((s.noteReply t.cluster).answerPend t i p (natLe v.toNat (match p.parts with | (_, k) :: _ => k | [] => 0)))
     | .system tag => .next (s.systemReply tag (some (natLe v.toNat 8)))
     | _ => .next s)
  | .poisoned =>
    .next (match s.answered t n with
      | .posted .. => s
      | _ => s.hostFailed t n 0x0D)
  | .unsupported | .aborted => .next (s.hostFailed t n 0x0C)

/-- HOST_COMPLETION_TIMEOUT (15 R433). -/
def execHostCompletionTimeout (t : Tid) (n : Nat) (s : State) : Result := .next (s.hostFailed t n 0x0C)

/-! ### Firmware loading (15 R435) -/

/-- FWCMD.STATUS set. -/
def State.setFwStatus (s : State) (n : Nat) : State := s.wr rFwcmd (word n)

/-- FWLEN is in range (15 R429). -/
def fwLenOk (n : Nat) : Bool := decide (n % 4096 = 0) && decide (8192 ≤ n) && decide (n ≤ 16 * 2 ^ 20)

/-- FWCMD_GO: the image is read from the host through function 0, in reads of 4,096 bytes (15 R427); a GO while STATUS is 1 or 2 is
ignored (15 R435). A length out of range is not read (log 82). -/
def execFwcmdGo (v : Word) (s : State) : Result :=
  if !bitOf v 63 || decide (s.fwStatus = 1) || decide (s.fwStatus = 2) || s.sys.fatal then .next s
  else
    let n := (s.rd rFwlen).toNat
    let k := if fwLenOk n then n / 4096 else 0
    .next (State.onSys { s.setFwStatus 1 with fresh := s.fresh + k } fun y =>
      { y with hostOut := y.hostOut ++ (List.range k).map fun i => .read 0 (s.fresh + i) ((s.rd rFwaddr).toNat + 4096 * i) 4096 })

/-- The little-endian number of `n` bytes of an image at an offset. -/
def imgNum (img : List Byte) (o n : Nat) : Nat := leNat ((img.drop o).take n)

/-- The fused minimum security version in force (15 R435, R440). -/
def State.minVersion (s : State) : Nat := max Config.fusedVersion s.sys.raised

/-- The STATUS code of the first check that an image fails; none when it passes them all (15 R435). -/
def State.imageFault (s : State) (img : List Byte) : Option Nat :=
  let body := img.drop 4096
  let key := (img.drop 0x50).take 97
  if !fwLenOk img.length then some 5
  else if !decide (imgNum img 0 8 = 0x43584C494D574631) then some 5
  else if !decide (imgNum img 8 4 = 1) then some 5
  else if imgNum img 0x0C 4 < s.minVersion then some 4
  else if !decide (imgNum img 0x10 8 = img.length - 4096) then some 5
  else if !decide (imgNum img 0x18 8 < body.length) || !decide (imgNum img 0x18 8 % 4 = 0) then some 5
  else if !decide (imgNum img 0x20 48 = Config.sha384 body) then some 3
  else if !decide (Config.sha384 key = Config.fusedKeyHash) then some 3
  else if !Config.ecdsaValid (img.take 0xB1) key ((img.drop 0xB1).take 96) then some 3
  else if ((img.drop 0x111).take 3823).any fun b => !decide (b = 0) then some 5
  else none

/-- A checked image becomes the firmware that runs (15 R435). -/
def State.loadImage (s : State) (img : List Byte) : State :=
  (s.setFwStatus 2).onSys fun y => { y with firmware := (img.drop 4096, imgNum img 0x18 8) }

/-- FW_IMAGE_CHECK: the image as read, or none when the read failed (15 R435). -/
def execFwImageCheck (img : Option (List Byte)) (s : State) : Result :=
  let n := (s.rd rFwlen).toNat
  if !decide (s.fwStatus = 1) then .next s
  else if !fwLenOk n then .next (s.setFwStatus 5)
  else
    match img with
    | none => .next (s.setFwStatus 6)
    | some bs =>
      let i := bs.take n
      if i.length < n then .next (s.setFwStatus 6)
      else
        match s.imageFault i with
        | some e => .next (s.setFwStatus e)
        | none => .next (s.loadImage i)

/-! ### Reset and power (15 R434, R439) -/

/-- The package after a package reset: what the fuses hold stays, and the model's own fields go on (15 R434, log 35). -/
def State.resetTo (s : State) : State :=
  { State.reset with
    sys := { Sys.reset with raised := s.sys.raised }
    eager := s.eager
    fresh := s.fresh }

/-- A package reset: an image that firmware staged for it, and that passes the checks of the boot ROM, runs after it (15 R434, R435, R440;
DESIGN CHOICE, log 89). -/
def State.packageReset (s : State) : State :=
  match s.imageFault s.sys.staged with
  | some _ => s.resetTo
  | none => s.resetTo.loadImage s.sys.staged

/-- PACKAGE_RESET (15 R434). -/
def execPackageReset (s : State) : Result := .next s.packageReset

/-- POWER_LOSS: the package keeps no state, not even a staged image, and does not answer (15 R439). -/
def execPowerLoss (s : State) : Result := .next (s.resetTo.onSys fun y => { y with power := false })

/-! ### The management path (15 R440) -/

/-- An answer to a management request (log 21). -/
def State.pldm (s : State) : State :=
  State.onSys { s with fresh := s.fresh + 1 } fun y => { y with hostOut := y.hostOut ++ [.pldm (Config.pldmAnswer s.fresh)] }

/-- PLDM_BASE: discovery is answered before firmware runs too (15 R440). -/
def execPldmBase (_n : Nat) (s : State) : Result := .next (if s.sys.fatal then s else s.pldm)

/-- A reading of the package that the state holds: CLKSTEP, the error-log counts of the clusters and of the dies, or the power cap; which
request asks for which of them the spec does not say (15 R440, log 21). -/
def State.pldmReading (s : State) (n : Nat) : Option Word :=
  let k := Config.pldmSensor n
  if k = 0 then some (s.rd rClkstep)
  else if k ≤ 128 then some (s.rd (rEloghead (k - 1)))
  else if k ≤ 132 then some (s.rd (rDloghead (k - 129)))
  else if k = 133 then some (word s.sys.cap)
  else none

/-- PLDM_PLATFORM: a reading, or the power cap, from 600 to 1,800 W (15 R440). -/
def execPldmPlatform (n : Nat) (cap : Option Nat) (s : State) : Result :=
  if !s.managed then .next s
  else
    match cap, s.pldmReading n with
    | some w, _ => .next (if 600 ≤ w ∧ w ≤ 1800 then s.onSys fun y => { y with cap := w } else s).pldm
    | none, some v => .next (s.onSys fun y => { y with hostOut := y.hostOut ++ [.pldm v] })
    | none, none => .next s.pldm

/-- PLDM_FIRMWARE_UPDATE: an image that passes the checks of 15 R435 is staged, and raises the fused minimum security version
when it asks for that (15 R440). -/
def execPldmFirmwareUpdate (img : List Byte) (s : State) : Result :=
  if !s.managed then .next s
  else
    match s.imageFault img with
    | some _ => .next s.pldm
    | none =>
      .next (s.onSys fun y =>
        { y with
          staged := img
          raised := if Config.raiseAsked img then max y.raised (imgNum img 0x0C 4) else y.raised }).pldm

/-- MCTP_ENDPOINT_ID_ASSIGNMENT (15 R440); a package in the fatal state does not answer it (15 R436). -/
def execMctpEndpointIdAssignment (eid : BitVec 8) (s : State) : Result :=
  .next (if s.sys.fatal then s else s.onSys fun y => { y with eid := eid })

end Sys2Proof.Machine
end

