-- ==== Sys2Proof/Machine/Integer.lean ====
section
/-! DEFINITION. Integer operations, immediates, branches and jumps, with their compact forms (02 R48, 03 R75 to R81). -/

namespace Sys2Proof.Machine

open Sys2Proof

/-- A register operation: s[d] from s[a] and s[b] (03 R75). -/
def State.opR (s : State) (d a b : Reg) (f : Word → Word → Word) : Result :=
  .next (s.writeReg 4 d (f (s.reg a) (s.reg b)))

/-- A one-operand operation. -/
def State.op1 (s : State) (d a : Reg) (f : Word → Word) : Result := .next (s.writeReg 4 d (f (s.reg a)))

/-- A compact operation on the implicit source L, which needs STATUS.LDV (02 R48, R49). -/
def State.compact (s : State) (f : Word → Result) : Result :=
  if s.me.ctl.ldv then f (s.reg s.me.ctl.ld) else s.trap s.illegal

/-- A compact operation that writes `d`. -/
def State.compactOp (s : State) (d : Reg) (f : Word → Word) : Result :=
  s.compact fun l => .next (s.writeReg 2 d (f l))

/-- The shift amount of a register form (03 R75). -/
def shamt (b : Word) : Nat := b.toNat % 64

/-- Signed minimum. -/
def sminW (x y : Word) : Word := if x.slt y then x else y
/-- Signed maximum. -/
def smaxW (x y : Word) : Word := if x.slt y then y else x
/-- Unsigned minimum. -/
def uminW (x y : Word) : Word := if x.ult y then x else y
/-- Unsigned maximum. -/
def umaxW (x y : Word) : Word := if x.ult y then y else x

/-- BitLen (03 R73). -/
def bitLen (n : Nat) : Nat := if n = 0 then 0 else n.log2 + 1

/-- The high 64 bits of a 128-bit number. -/
def hi64 (n : Nat) : Word := word (n / 2 ^ 64)

/-- The signed product's high half (03 R76). -/
def mulhW (x y : Word) : Word := BitVec.ofInt 64 (x.toInt * y.toInt / 2 ^ 64)

/-- The 128-bit carry-less product (03 R76). -/
def clmul128 (x y : Word) : BitVec 128 :=
  (List.range 64).foldl (fun p i => if y.getLsbD i then p ^^^ (x.setWidth 128 <<< i) else p) 0

/-- Signed quotient (03 R76). -/
def divW (x y : Word) : Word := if y = 0 then BitVec.allOnes 64 else x.sdiv y
/-- Unsigned quotient. -/
def divuW (x y : Word) : Word := if y = 0 then BitVec.allOnes 64 else x / y
/-- Signed remainder. -/
def remW (x y : Word) : Word := if y = 0 then x else x.srem y
/-- Unsigned remainder. -/
def remuW (x y : Word) : Word := if y = 0 then x else x % y

/-- A division: IFLAGS.DZ is set when the divisor is zero (03 R76). -/
def State.opDiv (s : State) (d a b : Reg) (f : Word → Word → Word) : Result :=
  let s1 := s.writeReg 4 d (f (s.reg a) (s.reg b))
  .next (if s.reg b = 0 then s1.raiseI iflagDZ else s1)

/-- Leading zero bits (03 R78). -/
def clzW (x : Word) : Word := word (64 - bitLen x.toNat)
/-- Trailing zero bits. -/
def ctzW (x : Word) : Word := word (((List.range 64).find? fun i => x.getLsbD i).getD 64)
/-- One bits. -/
def popcW (x : Word) : Word := word ((List.range 64).countP fun i => x.getLsbD i)
/-- The bits in reverse order. -/
def brevW (x : Word) : Word :=
  (List.range 64).foldl (fun r i => if x.getLsbD (63 - i) then r ||| BitVec.ofNat 64 (2 ^ i) else r) 0
/-- The bytes in reverse order. -/
def bswapW (x : Word) : Word := word (leNat (natLe x.toNat 8).reverse)

/-- A conditional branch of a 32-bit form (03 R80). -/
def State.branch (s : State) (i : BitVec 14) (taken : Bool) : Result :=
  .next (if taken then s.jump (s.me.pc + (i.signExtend 64 <<< 1)) none else s.retire 4 none)

/-- A compact conditional branch (02 R48). -/
def State.branchC (s : State) (o : BitVec 10) (taken : Bool) : Result :=
  .next (if taken then s.jump (s.me.pc + (o.signExtend 64 <<< 1)) none else s.retire 2 none)

/-- A jump that links the address after it (03 R81). -/
def State.link (s : State) (d : Reg) (len : Nat) (target : Word) : Result :=
  .next ((s.setReg d (s.me.pc + word len)).jump target (some d))

/-- ADD (03 R75). -/
def execAdd (d a b : Reg) (s : State) : Result :=
  s.opR d a b fun x y => x + y

/-- SUB (03 R75). -/
def execSub (d a b : Reg) (s : State) : Result :=
  s.opR d a b fun x y => x - y

/-- AND (03 R75). -/
def execAnd (d a b : Reg) (s : State) : Result :=
  s.opR d a b fun x y => x &&& y

/-- OR (03 R75). -/
def execOr (d a b : Reg) (s : State) : Result :=
  s.opR d a b fun x y => x ||| y

/-- XOR (03 R75). -/
def execXor (d a b : Reg) (s : State) : Result :=
  s.opR d a b fun x y => x ^^^ y

/-- SHL (03 R75). -/
def execShl (d a b : Reg) (s : State) : Result :=
  s.opR d a b fun x y => x <<< shamt y

/-- SHR (03 R75). -/
def execShr (d a b : Reg) (s : State) : Result :=
  s.opR d a b fun x y => x >>> shamt y

/-- SRA (03 R75). -/
def execSra (d a b : Reg) (s : State) : Result :=
  s.opR d a b fun x y => x.sshiftRight (shamt y)

/-- MIN (03 R75). -/
def execMin (d a b : Reg) (s : State) : Result :=
  s.opR d a b fun x y => sminW x y

/-- MAX (03 R75). -/
def execMax (d a b : Reg) (s : State) : Result :=
  s.opR d a b fun x y => smaxW x y

/-- MINU (03 R75). -/
def execMinu (d a b : Reg) (s : State) : Result :=
  s.opR d a b fun x y => uminW x y

/-- MAXU (03 R75). -/
def execMaxu (d a b : Reg) (s : State) : Result :=
  s.opR d a b fun x y => umaxW x y

/-- SLT (03 R75). -/
def execSlt (d a b : Reg) (s : State) : Result :=
  s.opR d a b fun x y => boolWord (x.slt y)

/-- SLTU (03 R75). -/
def execSltu (d a b : Reg) (s : State) : Result :=
  s.opR d a b fun x y => boolWord (x.ult y)

/-- ROTL (03 R75). -/
def execRotl (d a b : Reg) (s : State) : Result :=
  s.opR d a b fun x y => x.rotateLeft (shamt y)

/-- ROTR (03 R75). -/
def execRotr (d a b : Reg) (s : State) : Result :=
  s.opR d a b fun x y => x.rotateRight (shamt y)

/-- ADDSC (03 R75). -/
def execAddsc (d a b : Reg) (k : BitVec 3) (s : State) : Result :=
  s.opR d a b fun x y => x + (y <<< k.toNat)

/-- MUL (03 R76). -/
def execMul (d a b : Reg) (s : State) : Result :=
  s.opR d a b fun x y => x * y

/-- MULH (03 R76). -/
def execMulh (d a b : Reg) (s : State) : Result :=
  s.opR d a b fun x y => mulhW x y

/-- MULHU (03 R76). -/
def execMulhu (d a b : Reg) (s : State) : Result :=
  s.opR d a b fun x y => hi64 (x.toNat * y.toNat)

/-- CLMUL (03 R76). -/
def execClmul (d a b : Reg) (s : State) : Result :=
  s.opR d a b fun x y => (clmul128 x y).setWidth 64

/-- CLMULH (03 R76). -/
def execClmulh (d a b : Reg) (s : State) : Result :=
  s.opR d a b fun x y => (clmul128 x y >>> 64).setWidth 64

/-- DIV (03 R76). -/
def execDiv (d a b : Reg) (s : State) : Result :=
  s.opDiv d a b divW

/-- DIVU (03 R76). -/
def execDivu (d a b : Reg) (s : State) : Result :=
  s.opDiv d a b divuW

/-- REM (03 R76). -/
def execRem (d a b : Reg) (s : State) : Result :=
  s.opDiv d a b remW

/-- REMU (03 R76). -/
def execRemu (d a b : Reg) (s : State) : Result :=
  s.opDiv d a b remuW

/-- CLZ (03 R78). -/
def execClz (d a : Reg) (s : State) : Result :=
  s.op1 d a clzW

/-- CTZ (03 R78). -/
def execCtz (d a : Reg) (s : State) : Result :=
  s.op1 d a ctzW

/-- POPC (03 R78). -/
def execPopc (d a : Reg) (s : State) : Result :=
  s.op1 d a popcW

/-- BREV (03 R78). -/
def execBrev (d a : Reg) (s : State) : Result :=
  s.op1 d a brevW

/-- BSWAP (03 R78). -/
def execBswap (d a : Reg) (s : State) : Result :=
  s.op1 d a bswapW

/-- ADDI (03 R75). -/
def execAddi (d a : Reg) (i : BitVec 14) (s : State) : Result :=
  s.op1 d a fun x => x + i.signExtend 64

/-- ANDI (03 R75). -/
def execAndi (d a : Reg) (i : BitVec 14) (s : State) : Result :=
  s.op1 d a fun x => x &&& i.signExtend 64

/-- ORI (03 R75). -/
def execOri (d a : Reg) (i : BitVec 14) (s : State) : Result :=
  s.op1 d a fun x => x ||| i.signExtend 64

/-- XORI (03 R75). -/
def execXori (d a : Reg) (i : BitVec 14) (s : State) : Result :=
  s.op1 d a fun x => x ^^^ i.signExtend 64

/-- SLTI (03 R75). -/
def execSlti (d a : Reg) (i : BitVec 14) (s : State) : Result :=
  s.op1 d a fun x => boolWord (x.slt (i.signExtend 64))

/-- SHLI (03 R75). -/
def execShli (d a : Reg) (k : BitVec 6) (s : State) : Result :=
  s.op1 d a fun x => x <<< k.toNat

/-- SHRI (03 R75). -/
def execShri (d a : Reg) (k : BitVec 6) (s : State) : Result :=
  s.op1 d a fun x => x >>> k.toNat

/-- SRAI (03 R75). -/
def execSrai (d a : Reg) (k : BitVec 6) (s : State) : Result :=
  s.op1 d a fun x => x.sshiftRight k.toNat

/-- LIH (03 R79). -/
def execLih (d : Reg) (i : BitVec 19) (s : State) : Result :=
  .next (s.writeReg 4 d (i.signExtend 64 <<< 13))

/-- ADDPC (03 R79). -/
def execAddpc (d : Reg) (i : BitVec 19) (s : State) : Result :=
  .next (s.writeReg 4 d (s.me.pc + (i.signExtend 64 <<< 13)))

/-- BEQ (03 R80). -/
def execBeq (a b : Reg) (i : BitVec 14) (s : State) : Result :=
  s.branch i (decide (s.reg a = s.reg b))

/-- BNE (03 R80). -/
def execBne (a b : Reg) (i : BitVec 14) (s : State) : Result :=
  s.branch i (!decide (s.reg a = s.reg b))

/-- BLT (03 R80). -/
def execBlt (a b : Reg) (i : BitVec 14) (s : State) : Result :=
  s.branch i ((s.reg a).slt (s.reg b))

/-- BGE (03 R80). -/
def execBge (a b : Reg) (i : BitVec 14) (s : State) : Result :=
  s.branch i (!(s.reg a).slt (s.reg b))

/-- BLTU (03 R80). -/
def execBltu (a b : Reg) (i : BitVec 14) (s : State) : Result :=
  s.branch i ((s.reg a).ult (s.reg b))

/-- BGEU (03 R80). -/
def execBgeu (a b : Reg) (i : BitVec 14) (s : State) : Result :=
  s.branch i (!(s.reg a).ult (s.reg b))

/-- JAL (03 R81). -/
def execJal (d : Reg) (i : BitVec 19) (s : State) : Result :=
  s.link d 4 (s.me.pc + (i.signExtend 64 <<< 1))

/-- JALR (03 R81). -/
def execJalr (d a : Reg) (i : BitVec 14) (s : State) : Result :=
  s.link d 4 (s.reg a + i.signExtend 64)

/-- What ADDI_IMM32 computes for each instruction it stands for (02 R51, R52). -/
def immOp (op : ImmOp) (x i : Word) : Word :=
  match op with
  | .addi => x + i
  | .andi => x &&& i
  | .ori => x ||| i
  | .xori => x ^^^ i
  | .slti => boolWord (x.slt i)

/-- ADDI, ANDI, ORI, XORI or SLTI with an IMM prefix (02 R52). -/
def execAddiImm32 (op : ImmOp) (d a : Reg) (i : BitVec 32) (s : State) : Result :=
  .next (s.writeReg 8 d (immOp op (s.reg a) (i.signExtend 64)))

/-- LIH with an IMM prefix (02 R52). -/
def execLihImm32 (d : Reg) (i : BitVec 32) (s : State) : Result :=
  .next (s.writeReg 8 d (i.signExtend 64 <<< 32))

/-- ADDPC with an IMM prefix (02 R52). -/
def execAddpcImm32 (d : Reg) (i : BitVec 32) (s : State) : Result :=
  .next (s.writeReg 8 d (s.me.pc + (i.signExtend 64 <<< 32)))

/-- JALR with an IMM prefix (03 R81). -/
def execJalrImm32 (d a : Reg) (i : BitVec 32) (s : State) : Result :=
  s.link d 8 (s.reg a + i.signExtend 64)

/-- c.addi (02 R48). -/
def execCAddi (d : Reg) (i : BitVec 5) (s : State) : Result :=
  s.compactOp d fun l => l + i.signExtend 64

/-- c.add (02 R48). -/
def execCAdd (d : Reg) (x : BitVec 5) (s : State) : Result :=
  s.compactOp d fun l => l + s.reg x

/-- c.sub (02 R48). -/
def execCSub (d : Reg) (x : BitVec 5) (s : State) : Result :=
  s.compactOp d fun l => l - s.reg x

/-- c.and (02 R48). -/
def execCAnd (d : Reg) (x : BitVec 5) (s : State) : Result :=
  s.compactOp d fun l => l &&& s.reg x

/-- c.or (02 R48). -/
def execCOr (d : Reg) (x : BitVec 5) (s : State) : Result :=
  s.compactOp d fun l => l ||| s.reg x

/-- c.xor (02 R48). -/
def execCXor (d : Reg) (x : BitVec 5) (s : State) : Result :=
  s.compactOp d fun l => l ^^^ s.reg x

/-- c.shli (02 R48). -/
def execCShli (d : Reg) (k : BitVec 5) (s : State) : Result :=
  s.compactOp d fun l => l <<< k.toNat

/-- c.shri (02 R48). -/
def execCShri (d : Reg) (k : BitVec 5) (s : State) : Result :=
  s.compactOp d fun l => l >>> k.toNat

/-- c.srai (02 R48). -/
def execCSrai (d : Reg) (k : BitVec 5) (s : State) : Result :=
  s.compactOp d fun l => l.sshiftRight k.toNat

/-- c.mv (02 R48). -/
def execCMv (d : Reg) (s : State) : Result :=
  s.compactOp d fun l => l

/-- c.beqz (02 R48). -/
def execCBeqz (o : BitVec 10) (s : State) : Result :=
  s.compact fun l => s.branchC o (decide (l = 0))

/-- c.bnez (02 R48). -/
def execCBnez (o : BitVec 10) (s : State) : Result :=
  s.compact fun l => s.branchC o (!decide (l = 0))

/-- c.jalr (02 R48). -/
def execCJalr (d : Reg) (s : State) : Result :=
  s.compact fun l => s.link d 2 l

end Sys2Proof.Machine
end

