-- ==== Sys2Proof/Machine/RegWrite.lean ====
section
/-! DEFINITION. A write by firmware or by the host to a register that it reaches by address: which bits a register keeps, its
clamps, and what its write sets off (00 R7, and the rule of each register). A register whose write is a row of its own takes
that row's effect. -/

namespace Sys2Proof.Machine

open Sys2Proof

/-! ### The allocator block (06 R202 and the rules named there) -/

/-- LAQT0 or LAQT1 as stored: a quota of 9 to 15 stores 8 (06 R202). -/
def laqtStored (v : Word) : Word :=
  (List.range 16).foldl (fun (w : Word) k => setFld w (4 * k) 4 (min (fld v (4 * k) 4) 8)) 0

/-- LADL as stored (06 R202). -/
def ladlStored (v : Word) : Word := word (min (max (fld v 0 17) 256) 65536)

/-- CSWINt of a cluster written: a share that is assigned anew reads as zero (11 R320). -/
def State.writeCswin (s : State) (c t : Nat) (v : Word) : State :=
  let w := v &&& 0xFFFF
  if w = s.rd (rCswin c t) then s
  else
    (List.range (fld w 0 8)).foldl (fun (s : State) i => s.wipe (sramKey c (0x10000 * (fld w 8 8 + i))) 0x10000)
      (s.wr (rCswin c t) w)

/-- A word of the allocator block of package cluster `c` written. -/
def State.writeAlloc (s : State) (c o : Nat) (v : Word) : Result :=
  let cn : ClusterNo := BitVec.ofNat 7 c
  let a := allocBlock c + o
  if o = 0x000 then .next (s.wr a (ladlStored v))
  else if o = 0x008 ∨ o = 0x010 then .next ((s.wr a (laqtStored v)).assignLanes c none)
  else if o = 0x018 then execLamark cn v s
  else if o = 0x020 then .next (if bitOf v 0 then s.wr a 0 else s)
  else if o = 0x040 then execCbownWrite cn v s
  else if o = 0x048 then .next (s.wr a (v &&& 0xFF))
  else if o = 0x050 then .next ((s.wr a (word (min (fld v 0 5) 16))).push (.csplitApply cn))
  else if o = 0x058 then execCfenceRequest cn v s
  else if 0x100 ≤ o ∧ o < 0x200 then .next (s.wr a (v &&& 0x0000FFFFFFFFFFC1))
  else if 0x200 ≤ o ∧ o < 0x280 then .next (s.wr a (v &&& 0xFFFF))
  else if 0x300 ≤ o ∧ o < 0x340 then .next (s.writeLgstat c ((o - 0x300) / 8) v)
  else if o = 0x340 then .next (s.wr a (v &&& 0xF01))
  else if o = 0x350 then execElogtailWrite cn v s
  else if o = 0x358 then execDinjArm cn v s
  else if o = 0x360 then .next (s.wr a (v &&& 0xFFFF0000001FFFF8))
  else if o = 0x368 then .next (s.wr a v)
  else if o = 0x370 then .next (s.writeDschk c v)
  else if 0x380 ≤ o ∧ o < 0x3C0 then .next (s.wr a v)
  else if 0x400 ≤ o ∧ o < 0x600 then .next (s.writeDbgctl (BitVec.ofNat 13 (64 * c + (o - 0x400) / 8)) v)
  else if o = 0x600 then .next (s.wr a (v &&& 0x7F))
  else if 0x1000 ≤ o ∧ o < 0x1400 then .next (s.debugWindow c ((o - 0x1000) / 8) (some v))
  else if 0x1400 ≤ o ∧ o < 0x1500 then .next (s.writeCswin c ((o - 0x1400) / 8) v)
  else .next s

/-! ### The die control block (13 R369 and the rules named there) -/

/-- A word of the die control block of die `d` written. -/
def State.writeDie (s : State) (d o : Nat) (v : Word) : Result :=
  let a := dieBlock d + o
  if o < 0x080 then .next (s.wr a (v &&& 0xFFF))
  else if o = 0x080 then .next (s.wr a (v &&& 3))
  else if o = 0x088 then .next (s.wr a (v &&& 0xFFF))
  else if 0x100 ≤ o ∧ o < 0x180 then .next (s.wr a (v &&& 0xFFFF))
  else if o = 0x180 then .next (s.writeMscsp d v)
  else if 0x200 ≤ o ∧ o < 0x300 then .next (s.wr a (v &&& 0x000FFFFFFFFFFE01))
  else if o = 0x300 then .next (s.writeTlbinv d v)
  else if 0x400 ≤ o ∧ o < 0x480 then
    (if o % 32 = 0 ∨ o % 32 = 8 then .next (s.wr a (v &&& 0x000FFFFFFFFF0000))
     else if o % 32 = 16 then .next (s.writeMigctl d ((o - 0x400) / 32) v)
     else .next s)
  else if o = 0x500 then .next (s.wr a (v &&& 1))
  else if o = 0x510 then execDlogtailWrite (BitVec.ofNat 2 d) v s
  else if o = 0x520 then .next (s.wr a (v &&& 0x000FFFFFFFFFFFF8))
  else if o = 0x528 then .next (s.wr a v)
  else if o = 0x530 then .next (s.writeDrchk d v)
  else .next s

/-! ### The system control block (14 R406, 15 R428, R437, 16 R442, R451) -/

/-- QCTLq as stored: LOG2N below 4 stores 4 (14 R406). -/
def qctlStored (v : Word) : Word := setFld (v &&& 0x80000000001FFE0F) 0 4 (max (fld v 0 4) 4)

/-- A word of the system control block written. -/
def State.writeSysCtl (s : State) (o : Nat) (v : Word) : Result :=
  let a := sysBlock + o
  if o < 0x040 then .next (s.onSys fun y => { y with keyData := NMap.set 0 y.keyData (o / 8) v })
  else if o = 0x040 then .next (s.writeKeycmd v)
  else if 0x088 ≤ o ∧ o < 0x480 then .next (s.wr a (v &&& 0x9F))
  else if 0x800 ≤ o ∧ o < 0x1800 then
    (if o % 16 = 0 then .next (s.wr a (v &&& 0x0000FFFFFFFFF000))
     else .next ((s.wr a (qctlStored v)).lookAt ((o - 0x800) / 16)))
  else if 0x1800 ≤ o ∧ o < 0x1900 then .next (s.wr a (v &&& ~~~3))
  else if 0x1900 ≤ o ∧ o < 0x1A00 then .next ((s.wr a (word (min (fld v 0 14) 8192))).push (.groupPlacement 0))
  else if o = 0x1A00 then .next (s.writeSchcmd v)
  else if o = 0x1A08 then .next (s.wr a (v &&& 1))
  else if 0x2000 ≤ o ∧ o < 0x2800 then .next (s.wr a (v &&& 0xDFF))
  else if 0x2800 ≤ o ∧ o < 0x2900 then .next (s.wr a (v &&& 0x9F))
  else if o = 0x2900 then .next (s.upd a fun w => setFld w 0 2 (fld v 0 2))
  else if o = 0x2A00 then .next (s.wr a (v &&& 0x1FF))
  else if 0x3000 ≤ o ∧ o < 0x3800 then .next (s.wr a (v &&& 0x00000FFFFFFFFFFF))
  else if 0x3900 ≤ o ∧ o < 0x3B00 then .next (s.wr a (v &&& 0x8000000000001FFF))
  else if 0x3C00 ≤ o ∧ o < 0x4000 then .next (s.wr a v)
  else .next s

/-! ### BAR0, BAR2 and the die barriers -/

/-- A word of the MSI-X table of function `f` written: unmasking a vector that is pending sends it (15 R432, log 18). -/
def State.writeMsix (s : State) (f k i : Nat) (v : Word) : State :=
  if i = 0 then s.wr (rMsix f k 0) v
  else
    (s.wr (rMsix f k 1) (v &&& 0x00000001FFFFFFFF)).sendPending f

/-- The MSI-X enable and Function Mask of function `f` written; what is pending and no longer masked is sent (15 R432, log 18). -/
def State.writeMsixCtl (s : State) (f : Nat) (v : Word) : State := (s.wr (rMsixCtl f) (v &&& 0xC000)).sendPending f

/-- A word of BAR0 of function `f` written by the host (15 R429, R436). It stays behind the function's earlier requests (15 R431). -/
def State.writeBar0 (s : State) (f o : Nat) (v : Word) : Result :=
  let serves := bitOf (s.rd (rFnten f)) 7
  if o = 8 ∧ (s.sys.fatal = true ∨ s.hostBehind f = false) then .next (if serves || s.sys.fatal then s.upd (rFnevt f) (fun w => w &&& ~~~(v &&& 3)) else s)
  else if s.sys.fatal then .next s
  else if s.hostBehind f then .next (s.keep (.registerWrite (word (bar0Block f + o)) v))
  else if f = 0 ∧ (o = 0x40 ∨ o = 0x48) then .next (s.wr (bar0Block 0 + o) v)
  else if f = 0 ∧ o = 0x50 then execFwcmdGo v s
  else if serves = true ∧ 0x2000 ≤ o ∧ o < 0x2110 then
    .next (s.writeMsix f ((o - 0x2000) / 16) (o % 16 / 8) v)
  else .next s

/-- A word of a doorbell page written (14 R407). -/
def State.writeDoorbell (s : State) (q o : Nat) (v : Word) : Result :=
  if o = 0 then execQnotifyWrite (BitVec.ofNat 8 q) v s
  else if o = 16 then execQstatRestart (BitVec.ofNat 8 q) v s
  else .next s

/-- The queue that QFN places in slot `k` of function `f`, the lower-numbered of two (15 R428). -/
def State.slotQueue (s : State) (f k : Nat) : Option Nat := (List.range 256).find? fun q => decide (s.queueNames q = some (f, k))

/-- An offset of a doorbell page that names one of its registers (14 R407). -/
def doorbellReg (o : Nat) : Bool := decide (o = 0 ∨ o = 8 ∨ o = 16)

/-- An access of the host to another offset of the doorbell page of queue `q`, for which R407 gives a permission fault: one record in die 0's
log, as for a fault through BAR4 (DESIGN CHOICE, log 92). -/
def State.doorbellFault (s : State) (f q o : Nat) : State :=
  s.logDie 0 (accessFailure (s.hostAgent f).tenant false (doorbellPage q + o))

/-- A word of BAR2 of function `f` written by the host: Unsupported Request until the function serves a tenant; a slot with no queue
ignores writes, and a write to an offset that is no register is dropped with a record (15 R428, R429, log 92). It stays behind the
function's earlier requests (15 R431). -/
def State.writeBar2 (s : State) (f o : Nat) (v : Word) : Result :=
  if !s.fnServes f then .next (s.hostAnswer [] 2)
  else if s.hostBehind f then .next (s.keep (.registerWrite (word (bar2Block f + o)) v))
  else
    match s.slotQueue f (o / 0x10000) with
    | some q =>
      if doorbellReg (o % 0x10000) then s.writeDoorbell q (o % 0x10000) v else .next (s.doorbellFault f q (o % 0x10000))
    | none => .next s

/-- REGISTER_WRITE: a doubleword written to the register at a physical address. Reserved offsets, reserved bits and read-only
fields ignore the write (00 R7). -/
def execRegisterWrite (pa v : Word) (s : State) : Result :=
  if pa.toNat % 8 = 0 then
    (match region pa.toNat with
     | .alloc c o => s.writeAlloc c o v
     | .dieCtl d o => s.writeDie d o v
     | .sysCtl o => s.writeSysCtl o v
     | .bar0 f o => s.writeBar0 f o v
     | .bar2 f o => s.writeBar2 f o v
     | .msixCtl f => .next (s.writeMsixCtl f v)
     | .doorbell q o => s.writeDoorbell q o v
     | .dieBar .. => .next (if s.dieBarOk (.store v) pa.toNat 8 then s.wr pa.toNat v else s)
     | _ => .next s)
  else .next s

/-! ### What a register reads as -/

/-- LASTAT of cluster `c` (06 R202). WAITQ counts an MTENTER that waits in Relocate; SUSP does not count strands saved with LG = 0
(DESIGN CHOICE, log 80). -/
def State.lastat (s : State) (c : Nat) : Word :=
  let k := s.cluster c
  let fenced := (List.range 8).foldl (fun n p => n + (bitOf (s.rd (rLgstat c p)) 16).toNat * 2 ^ p) 0
  word (k.waiting.length * 2 ^ 40 + k.suspended.length * 2 ^ 32 + (s.freeGroups c).length * 2 ^ 24 + fenced * 2 ^ 16)
    ||| (s.rd (rLastat c) &&& 1)

/-- PEND of CSPLIT: the ways that change role at the next idle point (11 R319). -/
def State.csplitPend (s : State) (c : Nat) : Nat :=
  let n := (s.cluster c).l1Ways
  let m := fld (s.rd (rCsplit c)) 0 5
  ((List.range 16).filter fun w => !decide ((16 - n ≤ w) = (16 - m ≤ w))).foldl (fun k w => k + 2 ^ w) 0

/-- What the host reads at offset `o` of BAR0 of function `f`: a function that serves no tenant has only IDENT and, in the physical
function, the firmware-load registers; a package in the fatal state only IDENT and FNEVT (15 R429, R436). -/
def State.readBar0 (s : State) (f o : Nat) : Word :=
  let open_ := if s.sys.fatal then decide (o = 0 ∨ o = 8)
    else bitOf (s.rd (rFnten f)) 7 || decide (o = 0) || (decide (f = 0) && decide (0x40 ≤ o ∧ o < 0x58))
  if open_ then s.rd (bar0Block f + o) else 0

/-- What the host reads at offset `o` of BAR2 of function `f`, or the error that its read ends with: 2 Unsupported Request, and 1 Completer
Abort at an offset that is no register (15 R428, R429, log 92). -/
def State.readBar2 (s : State) (f o : Nat) : Except Nat Word :=
  if !s.fnServes f then .error 2
  else
    match s.slotQueue f (o / 0x10000) with
    | some q => if doorbellReg (o % 0x10000) then .ok (s.rd (doorbellPage q + o % 0x10000)) else .error 1
    | none => .ok 0

/-- CWINc: WIN [6:0] and MARKS [23:8] (13 R369). -/
def CongWindow.bits (w : CongWindow) : Word := setFld (word w.win) 8 16 w.marks

/-- What a read of the register at a physical address returns: the fields that the machine computes, over the stored word. -/
def State.readRegister (s : State) (pa : Nat) : Word :=
  match region pa with
  | .alloc c o =>
    if o = 0x020 then s.lastat c
    else if o = 0x018 then 0
    else if o = 0x050 then setFld (s.rd pa) 5 16 (s.csplitPend c)
    else if 0x400 ≤ o ∧ o < 0x600 then (s.strand (BitVec.ofNat 13 (64 * c + (o - 0x400) / 8))).dbgctl
    else if 0x1000 ≤ o ∧ o < 0x1400 then s.windowWord c ((o - 0x1000) / 8)
    else s.rd pa
  | .dieCtl d o =>
    if o = 0x300 then setBit (s.rd pa) 62 (NMap.get false s.sys.tlbinv d)
    else if 0x600 ≤ o ∧ o < 0x700 then (s.congestion (32 * d + (o - 0x600) / 8)).bits
    else s.rd pa
  | .sysCtl o =>
    if o < 0x040 then 0
    else if 0x3800 ≤ o ∧ o < 0x3840 then
      setBit (setFld (s.rd pa) 8 8 (min 255 (NMap.get 0 s.sys.replays (16 + (o - 0x3800) / 8)))) 0 (s.portUp ((o - 0x3800) / 8))
    else s.rd pa
  | .bar0 f o => s.readBar0 f o
  | .bar2 f o => (match s.readBar2 f o with | .ok w => w | .error _ => BitVec.allOnes 64)
  | .msixCtl _ => s.rd pa ||| 16
  | _ => s.rd pa

end Sys2Proof.Machine
end

