-- ==== Sys2Proof/Machine/Vector.lean ====
section
/-! DEFINITION. The queued class V instructions: the checks at issue (02 R55, 04 R144, 08 R238, 10 R296, R298, R301, R315), the
capture of operands (01 R37, 05 R156), and one meaning for each. -/

namespace Sys2Proof.Machine

open Sys2Proof

/-- The vector context that a class V instruction needs is there: steps 4 of 02 R55, with the level of 04 R144 and the kinds
of 08 R238. -/
def Ctl.vecOk (c : Ctl) (op : VOp) : Bool :=
  decide (c.priv = .app) && (match op with | .fence .. => true | _ => decide (c.lg ≠ 0)) && c.kindOk op

/-- The checks at execution that a queued matrix instruction makes at issue (10 R296, R301, R315). -/
def State.matrixTrap (s : State) (op : VOp) (x : Word) : Option Trap :=
  let k := vtKind s.me.ctl.vt
  let t := s.me.tileSide
  if !opIsMatrix op then none
  else if !s.me.ctl.mt then some s.tileDisabled
  else match op with
    | .top .. =>
      if valueCount k s.me.ctl.vl.toNat < x.toNat * t * rankOf k then some s.badVec else none
    | .tldrow _ r | .tstrow _ r => if t ≤ r.toNat then some s.badVec else none
    | .tslv _ _ r _ => if t ≤ r.toNat then some s.badVec else none
    | .tvsl _ _ r _ => if t ≤ r.toNat then some s.badVec else none
    | _ => none

/-- The checks of CBLOAD at issue (09 R284). -/
def State.cbloadTrap (s : State) (x : Word) : Option Trap :=
  let own := s.rd (rCbown s.tid.cluster)
  if s.me.ctl.move || !bitOf own 5 || !decide (fld own 0 5 = s.me.ctl.tenant.toNat) then some s.badVec
  else if x.toNat % 64 ≠ 0 then some ⟨0x0A, x, 0⟩
  else none

/-- The check of BARV at issue (11 R342). -/
def State.barrierTrap (s : State) (k : Nat) : Option Trap :=
  if (s.barrier s.tid.cluster k).usable s.me.ctl.tenant then none else some s.badVec

/-- The checks at execution that an instruction makes before it enters the queue. -/
def State.issueTrap (s : State) (op : VOp) (x : Word) : Option Trap :=
  match op with
  | .cbload => s.cbloadTrap x
  | .barv k _ => s.barrierTrap k.toNat
  | _ => s.matrixTrap op x

/-- What an instruction captures as it enters the queue (01 R22, R23, R37, 10 R299). -/
def State.capture (s : State) (op : VOp) (x y : Word) : QEntry :=
  let c := s.me.ctl
  { id := s.fresh, op := op, raw := s.ir, x := x, y := y, first := c.es.toNat, next := c.es.toNat, started := c.es.toNat, vl := c.vl.toNat
    vt := c.vt, frm := c.frm, seed := c.seed, sbase := c.sbase, rns := c.rnscfg, trows := c.trows.toNat
    tcols := c.tcols.toNat, rchk := c.rchk, part := c.part, oldTables := [], handed := false, done := false, fault := none, recheck := [] }

/-- An instruction enters the vector queue: it takes ES as its first element, and ES becomes 0 (01 R23). -/
def Strand.enter (x : Strand) (q : QEntry) : Strand :=
  { x with queue := x.queue ++ [q], ctl := { x.ctl with es := 0 } }

/-- A BARV sets its context's marks as it issues (11 R342). -/
def State.markAtIssue (s : State) (op : VOp) : State :=
  match op with
  | .barv k _ => s.barrierMark s.tid k.toNat
  | _ => s

/-- A queued class V instruction of `len` bytes with its captured operands (05 R156). In a state that completes issued work
in its issue step the queue then runs (log 10). -/
def State.issueV (s : State) (len : Nat) (op : VOp) (x y : Word) : Result :=
  if !s.me.ctl.vecOk op then s.trap s.badVec
  else if !s.me.ctl.regsLegal op then s.trap s.illegal
  else
    match s.issueTrap op x with
    | some t => s.trap t
    | none =>
      if 8 ≤ s.me.queue.length then .next s
      else
        let s1 := (State.onMe { s.markAtIssue op with fresh := s.fresh + 1 } fun m => m.enter (s.capture op x y)).retire len none
        if s1.eager then .next s1.pumpFocus
        else .next (s1.push (.sequencerHandoff s1.tid))

/-- The second captured operand of a vector load or store with field `b` (08 R244, R245, R247). -/
def State.loadY (s : State) (f : VLoadOp) (b : Reg) : Word :=
  match f with | .vld | .vlds => s.reg b | _ => 0

/-- The second captured operand of a vector store. -/
def State.storeY (s : State) (f : VStoreOp) (b : Reg) : Word :=
  match f with | .vst | .vsts | .vstN => s.reg b | _ => 0

/-- A vector load. -/
def State.vload (s : State) (len : Nat) (f : VLoadOp) (d a b : Reg) (m : MReg) (sc : Scope) (o : Order) : Result :=
  s.issueV len (.load f d a b m sc o) (s.reg a) (s.loadY f b)

/-- A vector store. -/
def State.vstore (s : State) (len : Nat) (f : VStoreOp) (d a b : Reg) (m : MReg) (sc : Scope) (o : Order) : Result :=
  s.issueV len (.store f d a b m sc o) (s.reg a) (s.storeY f b)

/-- A vector atomic. -/
def State.vamo (s : State) (len : Nat) (op : VAmoOp) (d a b : Reg) (m : MReg) (sc : Scope) (o : Order) : Result :=
  s.issueV len (.amo op d a b m sc o) (s.reg a) 0

/-- Arithmetic, with the scalar operand of the VX forms. -/
def State.varith (s : State) (op : ArithOp) (f : OpForm) (d a b : Reg) (m : MReg) : Result :=
  s.issueV 4 (.arith op f d a b m) (match f with | .vx => s.reg b | _ => 0) 0

/-- A compare. -/
def State.vcmp (s : State) (p : Pred) (f : OpForm) (d : MReg) (a b : Reg) (m : MReg) : Result :=
  s.issueV 4 (.cmp p f d a b m) (match f with | .vx => s.reg b | _ => 0) 0


/-- VLD (08 R244). -/
def execVld (d : Reg) (a : Reg) (m : MReg) (s : State) : Result := s.vload 4 .vld d a 0 m .sy .rlx

/-- VLD_SCALED (08 R245). -/
def execVldScaled (d : Reg) (a : Reg) (b : Reg) (m : MReg) (s : State) : Result := s.vload 4 .vld d a b m .sy .rlx

/-- VLDS (08 R244). -/
def execVlds (d : Reg) (a : Reg) (b : Reg) (m : MReg) (s : State) : Result := s.vload 4 .vlds d a b m .sy .rlx

/-- VLDX (08 R244). -/
def execVldx (d : Reg) (a : Reg) (b : Reg) (m : MReg) (s : State) : Result := s.vload 4 .vldx d a b m .sy .rlx

/-- VLDX_O (04 R124). -/
def execVldxO (d : Reg) (a : Reg) (b : Reg) (m : MReg) (s : State) : Result := s.vload 4 .vldxO d a b m .sy .rlx

/-- VLDFF (08 R246). -/
def execVldff (d : Reg) (a : Reg) (m : MReg) (s : State) : Result := s.vload 4 .vldff d a 0 m .sy .rlx

/-- VST (08 R244). -/
def execVst (d : Reg) (a : Reg) (m : MReg) (s : State) : Result := s.vstore 4 .vst d a 0 m .sy .rlx

/-- VST_SCALED (08 R245). -/
def execVstScaled (d : Reg) (a : Reg) (b : Reg) (m : MReg) (s : State) : Result := s.vstore 4 .vst d a b m .sy .rlx

/-- VSTS (08 R244). -/
def execVsts (d : Reg) (a : Reg) (b : Reg) (m : MReg) (s : State) : Result := s.vstore 4 .vsts d a b m .sy .rlx

/-- VSTX (08 R244). -/
def execVstx (d : Reg) (a : Reg) (b : Reg) (m : MReg) (s : State) : Result := s.vstore 4 .vstx d a b m .sy .rlx

/-- VSTX_O (04 R124). -/
def execVstxO (d : Reg) (a : Reg) (b : Reg) (m : MReg) (s : State) : Result := s.vstore 4 .vstxO d a b m .sy .rlx

/-- VST_N (08 R247). -/
def execVstN (d : Reg) (a : Reg) (b : Reg) (m : MReg) (s : State) : Result := s.vstore 4 .vstN d a b m .sy .rlx

/-- VAMO_ADD (08 R248). -/
def execVamoAdd (d : Reg) (a : Reg) (b : Reg) (m : MReg) (s : State) : Result := s.vamo 4 .add d a b m .sy .rlx

/-- VAMO_AND (08 R248). -/
def execVamoAnd (d : Reg) (a : Reg) (b : Reg) (m : MReg) (s : State) : Result := s.vamo 4 .and d a b m .sy .rlx

/-- VAMO_OR (08 R248). -/
def execVamoOr (d : Reg) (a : Reg) (b : Reg) (m : MReg) (s : State) : Result := s.vamo 4 .or d a b m .sy .rlx

/-- VAMO_XOR (08 R248). -/
def execVamoXor (d : Reg) (a : Reg) (b : Reg) (m : MReg) (s : State) : Result := s.vamo 4 .xor d a b m .sy .rlx

/-- VAMO_MIN (08 R248). -/
def execVamoMin (d : Reg) (a : Reg) (b : Reg) (m : MReg) (s : State) : Result := s.vamo 4 .min d a b m .sy .rlx

/-- VAMO_MAX (08 R248). -/
def execVamoMax (d : Reg) (a : Reg) (b : Reg) (m : MReg) (s : State) : Result := s.vamo 4 .max d a b m .sy .rlx

/-- VAMO_MINU (08 R248). -/
def execVamoMinu (d : Reg) (a : Reg) (b : Reg) (m : MReg) (s : State) : Result := s.vamo 4 .minu d a b m .sy .rlx

/-- VAMO_MAXU (08 R248). -/
def execVamoMaxu (d : Reg) (a : Reg) (b : Reg) (m : MReg) (s : State) : Result := s.vamo 4 .maxu d a b m .sy .rlx

/-- VAMO_SWAP (08 R248). -/
def execVamoSwap (d : Reg) (a : Reg) (b : Reg) (m : MReg) (s : State) : Result := s.vamo 4 .swap d a b m .sy .rlx

/-- VLOAD_ORD (04 R127). -/
def execVloadOrd (op : VLoadOp) (d : Reg) (a : Reg) (b : Reg) (m : MReg) (s : Scope) (o : Order) (st : State) : Result := st.vload 8 op d a b m s o

/-- VSTORE_ORD (04 R127). -/
def execVstoreOrd (op : VStoreOp) (d : Reg) (a : Reg) (b : Reg) (m : MReg) (s : Scope) (o : Order) (st : State) : Result := st.vstore 8 op d a b m s o

/-- VAMO_ORD (04 R127). -/
def execVamoOrd (op : VAmoOp) (d : Reg) (a : Reg) (b : Reg) (m : MReg) (s : Scope) (o : Order) (st : State) : Result := st.vamo 8 op d a b m s o

/-- VADD_VV (08 R250). -/
def execVaddVv (d : Reg) (a : Reg) (b : Reg) (m : MReg) (s : State) : Result := s.varith .add .vv d a b m

/-- VSUB_VV (08 R250). -/
def execVsubVv (d : Reg) (a : Reg) (b : Reg) (m : MReg) (s : State) : Result := s.varith .sub .vv d a b m

/-- VMUL_VV (08 R250). -/
def execVmulVv (d : Reg) (a : Reg) (b : Reg) (m : MReg) (s : State) : Result := s.varith .mul .vv d a b m

/-- VMULH_VV (08 R251). -/
def execVmulhVv (d : Reg) (a : Reg) (b : Reg) (m : MReg) (s : State) : Result := s.varith .mulh .vv d a b m

/-- VDIV_VV (08 R251). -/
def execVdivVv (d : Reg) (a : Reg) (b : Reg) (m : MReg) (s : State) : Result := s.varith .div .vv d a b m

/-- VREM_VV (08 R251). -/
def execVremVv (d : Reg) (a : Reg) (b : Reg) (m : MReg) (s : State) : Result := s.varith .rem .vv d a b m

/-- VMIN_VV (08 R250). -/
def execVminVv (d : Reg) (a : Reg) (b : Reg) (m : MReg) (s : State) : Result := s.varith .min .vv d a b m

/-- VMAX_VV (08 R250). -/
def execVmaxVv (d : Reg) (a : Reg) (b : Reg) (m : MReg) (s : State) : Result := s.varith .max .vv d a b m

/-- VAND_VV (08 R250). -/
def execVandVv (d : Reg) (a : Reg) (b : Reg) (m : MReg) (s : State) : Result := s.varith .and .vv d a b m

/-- VOR_VV (08 R250). -/
def execVorVv (d : Reg) (a : Reg) (b : Reg) (m : MReg) (s : State) : Result := s.varith .or .vv d a b m

/-- VXOR_VV (08 R250). -/
def execVxorVv (d : Reg) (a : Reg) (b : Reg) (m : MReg) (s : State) : Result := s.varith .xor .vv d a b m

/-- VSHL_VV (08 R250). -/
def execVshlVv (d : Reg) (a : Reg) (b : Reg) (m : MReg) (s : State) : Result := s.varith .shl .vv d a b m

/-- VSHR_VV (08 R250). -/
def execVshrVv (d : Reg) (a : Reg) (b : Reg) (m : MReg) (s : State) : Result := s.varith .shr .vv d a b m

/-- VSRA_VV (08 R250). -/
def execVsraVv (d : Reg) (a : Reg) (b : Reg) (m : MReg) (s : State) : Result := s.varith .sra .vv d a b m

/-- VFMA_VV (08 R250). -/
def execVfmaVv (d : Reg) (a : Reg) (b : Reg) (m : MReg) (s : State) : Result := s.varith .fma .vv d a b m

/-- VFMS_VV (08 R250). -/
def execVfmsVv (d : Reg) (a : Reg) (b : Reg) (m : MReg) (s : State) : Result := s.varith .fms .vv d a b m

/-- VFNMA_VV (08 R250). -/
def execVfnmaVv (d : Reg) (a : Reg) (b : Reg) (m : MReg) (s : State) : Result := s.varith .fnma .vv d a b m

/-- VABS (08 R250). -/
def execVabs (d : Reg) (a : Reg) (m : MReg) (s : State) : Result := s.varith .abs .vv d a 0 m

/-- VNEG (08 R250). -/
def execVneg (d : Reg) (a : Reg) (m : MReg) (s : State) : Result := s.varith .neg .vv d a 0 m

/-- VWADD_VV (08 R254). -/
def execVwaddVv (d : Reg) (a : Reg) (b : Reg) (m : MReg) (s : State) : Result := s.varith .wadd .vv d a b m

/-- VWMUL_VV (08 R254). -/
def execVwmulVv (d : Reg) (a : Reg) (b : Reg) (m : MReg) (s : State) : Result := s.varith .wmul .vv d a b m

/-- VNSHR_VV (08 R255). -/
def execVnshrVv (d : Reg) (a : Reg) (b : Reg) (m : MReg) (s : State) : Result := s.varith .nshr .vv d a b m

/-- VADD_VX (08 R250). -/
def execVaddVx (d : Reg) (a : Reg) (b : Reg) (m : MReg) (s : State) : Result := s.varith .add .vx d a b m

/-- VSUB_VX (08 R250). -/
def execVsubVx (d : Reg) (a : Reg) (b : Reg) (m : MReg) (s : State) : Result := s.varith .sub .vx d a b m

/-- VMUL_VX (08 R250). -/
def execVmulVx (d : Reg) (a : Reg) (b : Reg) (m : MReg) (s : State) : Result := s.varith .mul .vx d a b m

/-- VMULH_VX (08 R251). -/
def execVmulhVx (d : Reg) (a : Reg) (b : Reg) (m : MReg) (s : State) : Result := s.varith .mulh .vx d a b m

/-- VDIV_VX (08 R251). -/
def execVdivVx (d : Reg) (a : Reg) (b : Reg) (m : MReg) (s : State) : Result := s.varith .div .vx d a b m

/-- VREM_VX (08 R251). -/
def execVremVx (d : Reg) (a : Reg) (b : Reg) (m : MReg) (s : State) : Result := s.varith .rem .vx d a b m

/-- VMIN_VX (08 R250). -/
def execVminVx (d : Reg) (a : Reg) (b : Reg) (m : MReg) (s : State) : Result := s.varith .min .vx d a b m

/-- VMAX_VX (08 R250). -/
def execVmaxVx (d : Reg) (a : Reg) (b : Reg) (m : MReg) (s : State) : Result := s.varith .max .vx d a b m

/-- VAND_VX (08 R250). -/
def execVandVx (d : Reg) (a : Reg) (b : Reg) (m : MReg) (s : State) : Result := s.varith .and .vx d a b m

/-- VOR_VX (08 R250). -/
def execVorVx (d : Reg) (a : Reg) (b : Reg) (m : MReg) (s : State) : Result := s.varith .or .vx d a b m

/-- VXOR_VX (08 R250). -/
def execVxorVx (d : Reg) (a : Reg) (b : Reg) (m : MReg) (s : State) : Result := s.varith .xor .vx d a b m

/-- VSHL_VX (08 R250). -/
def execVshlVx (d : Reg) (a : Reg) (b : Reg) (m : MReg) (s : State) : Result := s.varith .shl .vx d a b m

/-- VSHR_VX (08 R250). -/
def execVshrVx (d : Reg) (a : Reg) (b : Reg) (m : MReg) (s : State) : Result := s.varith .shr .vx d a b m

/-- VSRA_VX (08 R250). -/
def execVsraVx (d : Reg) (a : Reg) (b : Reg) (m : MReg) (s : State) : Result := s.varith .sra .vx d a b m

/-- VFMA_VX (08 R250). -/
def execVfmaVx (d : Reg) (a : Reg) (b : Reg) (m : MReg) (s : State) : Result := s.varith .fma .vx d a b m

/-- VFMS_VX (08 R250). -/
def execVfmsVx (d : Reg) (a : Reg) (b : Reg) (m : MReg) (s : State) : Result := s.varith .fms .vx d a b m

/-- VFNMA_VX (08 R250). -/
def execVfnmaVx (d : Reg) (a : Reg) (b : Reg) (m : MReg) (s : State) : Result := s.varith .fnma .vx d a b m

/-- VWADD_VX (08 R254). -/
def execVwaddVx (d : Reg) (a : Reg) (b : Reg) (m : MReg) (s : State) : Result := s.varith .wadd .vx d a b m

/-- VWMUL_VX (08 R254). -/
def execVwmulVx (d : Reg) (a : Reg) (b : Reg) (m : MReg) (s : State) : Result := s.varith .wmul .vx d a b m

/-- VNSHR_VX (08 R255). -/
def execVnshrVx (d : Reg) (a : Reg) (b : Reg) (m : MReg) (s : State) : Result := s.varith .nshr .vx d a b m

/-- VADD_VI (08 R250). -/
def execVaddVi (d : Reg) (a : Reg) (i : BitVec 5) (m : MReg) (s : State) : Result := s.varith .add .vi d a i m

/-- VSUB_VI (08 R250). -/
def execVsubVi (d : Reg) (a : Reg) (i : BitVec 5) (m : MReg) (s : State) : Result := s.varith .sub .vi d a i m

/-- VMIN_VI (08 R250). -/
def execVminVi (d : Reg) (a : Reg) (i : BitVec 5) (m : MReg) (s : State) : Result := s.varith .min .vi d a i m

/-- VMAX_VI (08 R250). -/
def execVmaxVi (d : Reg) (a : Reg) (i : BitVec 5) (m : MReg) (s : State) : Result := s.varith .max .vi d a i m

/-- VAND_VI (08 R250). -/
def execVandVi (d : Reg) (a : Reg) (i : BitVec 5) (m : MReg) (s : State) : Result := s.varith .and .vi d a i m

/-- VOR_VI (08 R250). -/
def execVorVi (d : Reg) (a : Reg) (i : BitVec 5) (m : MReg) (s : State) : Result := s.varith .or .vi d a i m

/-- VXOR_VI (08 R250). -/
def execVxorVi (d : Reg) (a : Reg) (i : BitVec 5) (m : MReg) (s : State) : Result := s.varith .xor .vi d a i m

/-- VSHL_VI (08 R250). -/
def execVshlVi (d : Reg) (a : Reg) (k : BitVec 5) (m : MReg) (s : State) : Result := s.varith .shl .vi d a k m

/-- VSHR_VI (08 R250). -/
def execVshrVi (d : Reg) (a : Reg) (k : BitVec 5) (m : MReg) (s : State) : Result := s.varith .shr .vi d a k m

/-- VSRA_VI (08 R250). -/
def execVsraVi (d : Reg) (a : Reg) (k : BitVec 5) (m : MReg) (s : State) : Result := s.varith .sra .vi d a k m

/-- VNSHR_VI (08 R255). -/
def execVnshrVi (d : Reg) (a : Reg) (k : BitVec 5) (m : MReg) (s : State) : Result := s.varith .nshr .vi d a k m

/-- VCMP_EQ_VV (08 R257). -/
def execVcmpEqVv (d : MReg) (a : Reg) (b : Reg) (m : MReg) (s : State) : Result := s.vcmp .eq .vv d a b m

/-- VCMP_NE_VV (08 R257). -/
def execVcmpNeVv (d : MReg) (a : Reg) (b : Reg) (m : MReg) (s : State) : Result := s.vcmp .ne .vv d a b m

/-- VCMP_LT_VV (08 R257). -/
def execVcmpLtVv (d : MReg) (a : Reg) (b : Reg) (m : MReg) (s : State) : Result := s.vcmp .lt .vv d a b m

/-- VCMP_LE_VV (08 R257). -/
def execVcmpLeVv (d : MReg) (a : Reg) (b : Reg) (m : MReg) (s : State) : Result := s.vcmp .le .vv d a b m

/-- VCMP_EQ_VX (08 R257). -/
def execVcmpEqVx (d : MReg) (a : Reg) (b : Reg) (m : MReg) (s : State) : Result := s.vcmp .eq .vx d a b m

/-- VCMP_NE_VX (08 R257). -/
def execVcmpNeVx (d : MReg) (a : Reg) (b : Reg) (m : MReg) (s : State) : Result := s.vcmp .ne .vx d a b m

/-- VCMP_LT_VX (08 R257). -/
def execVcmpLtVx (d : MReg) (a : Reg) (b : Reg) (m : MReg) (s : State) : Result := s.vcmp .lt .vx d a b m

/-- VCMP_LE_VX (08 R257). -/
def execVcmpLeVx (d : MReg) (a : Reg) (b : Reg) (m : MReg) (s : State) : Result := s.vcmp .le .vx d a b m

/-- VCMP_EQ_VI (08 R257). -/
def execVcmpEqVi (d : MReg) (a : Reg) (i : BitVec 5) (m : MReg) (s : State) : Result := s.vcmp .eq .vi d a i m

/-- VCMP_NE_VI (08 R257). -/
def execVcmpNeVi (d : MReg) (a : Reg) (i : BitVec 5) (m : MReg) (s : State) : Result := s.vcmp .ne .vi d a i m

/-- VCMP_LT_VI (08 R257). -/
def execVcmpLtVi (d : MReg) (a : Reg) (i : BitVec 5) (m : MReg) (s : State) : Result := s.vcmp .lt .vi d a i m

/-- VCMP_LE_VI (08 R257). -/
def execVcmpLeVi (d : MReg) (a : Reg) (i : BitVec 5) (m : MReg) (s : State) : Result := s.vcmp .le .vi d a i m

/-- MAND (08 R258). -/
def execMand (d : MReg) (a : MReg) (b : MReg) (s : State) : Result := s.issueV 4 (.mlog .and d a b) 0 0

/-- MOR (08 R258). -/
def execMor (d : MReg) (a : MReg) (b : MReg) (s : State) : Result := s.issueV 4 (.mlog .or d a b) 0 0

/-- MXOR (08 R258). -/
def execMxor (d : MReg) (a : MReg) (b : MReg) (s : State) : Result := s.issueV 4 (.mlog .xor d a b) 0 0

/-- MNOT (08 R258). -/
def execMnot (d : MReg) (a : MReg) (s : State) : Result := s.issueV 4 (.mlog .not d a a) 0 0

/-- MPOP (08 R258). -/
def execMpop (d : Reg) (a : MReg) (s : State) : Result := s.issueV 4 (.mpop d a) 0 0

/-- MFIRST (08 R258). -/
def execMfirst (d : Reg) (a : MReg) (s : State) : Result := s.issueV 4 (.mfirst d a) 0 0

/-- MSET (08 R258). -/
def execMset (d : MReg) (a : Reg) (s : State) : Result := s.issueV 4 (.mset d) (s.reg a) 0

/-- VSEL (08 R259). -/
def execVsel (d : Reg) (a : Reg) (b : Reg) (m : MReg) (s : State) : Result := s.issueV 4 (.sel d a b m) 0 0

/-- VBCAST (08 R259). -/
def execVbcast (d : Reg) (a : Reg) (m : MReg) (s : State) : Result := s.issueV 4 (.bcast d m) (s.reg a) 0

/-- VGET (08 R260). -/
def execVget (d : Reg) (a : Reg) (b : Reg) (s : State) : Result := s.issueV 4 (.get d a) (s.reg b) 0

/-- VIDX (08 R259). -/
def execVidx (d : Reg) (m : MReg) (s : State) : Result := s.issueV 4 (.idx d m) 0 0

/-- VGATHER (09 R267). -/
def execVgather (d : Reg) (a : Reg) (b : Reg) (m : MReg) (s : State) : Result := s.issueV 4 (.perm .gather d a b m) 0 0

/-- VSLIDEUP (09 R268). -/
def execVslideup (d : Reg) (a : Reg) (b : Reg) (m : MReg) (s : State) : Result := s.issueV 4 (.perm .slideup d a b m) (s.reg b) 0

/-- VSLIDEDN (09 R268). -/
def execVslidedn (d : Reg) (a : Reg) (b : Reg) (m : MReg) (s : State) : Result := s.issueV 4 (.perm .slidedn d a b m) (s.reg b) 0

/-- VCOMPRESS (09 R269). -/
def execVcompress (d : Reg) (a : Reg) (m : MReg) (s : State) : Result := s.issueV 4 (.perm .compress d a 0 m) 0 0

/-- VEXPAND (09 R269). -/
def execVexpand (d : Reg) (a : Reg) (m : MReg) (s : State) : Result := s.issueV 4 (.perm .expand d a 0 m) 0 0

/-- VSWAPPR (09 R270). -/
def execVswappr (d : Reg) (a : Reg) (m : MReg) (s : State) : Result := s.issueV 4 (.perm .swappr d a 0 m) 0 0

/-- VZIP (09 R271). -/
def execVzip (d : Reg) (a : Reg) (b : Reg) (m : MReg) (s : State) : Result := s.issueV 4 (.perm .zip d a b m) 0 0

/-- VUNZIP (09 R271). -/
def execVunzip (d : Reg) (a : Reg) (b : Reg) (m : MReg) (s : State) : Result := s.issueV 4 (.perm .unzip d a b m) 0 0

/-- VREDSUM_O (09 R273). -/
def execVredsumO (d : Reg) (a : Reg) (b : Reg) (m : MReg) (s : State) : Result := s.issueV 4 (.red .sumO d a b m) 0 0

/-- VREDSUM_T (09 R273). -/
def execVredsumT (d : Reg) (a : Reg) (b : Reg) (m : MReg) (s : State) : Result := s.issueV 4 (.red .sumT d a b m) 0 0

/-- VREDMAX (09 R273). -/
def execVredmax (d : Reg) (a : Reg) (b : Reg) (m : MReg) (s : State) : Result := s.issueV 4 (.red .max d a b m) 0 0

/-- VREDMIN (09 R273). -/
def execVredmin (d : Reg) (a : Reg) (b : Reg) (m : MReg) (s : State) : Result := s.issueV 4 (.red .min d a b m) 0 0

/-- VREDAND (09 R273). -/
def execVredand (d : Reg) (a : Reg) (b : Reg) (m : MReg) (s : State) : Result := s.issueV 4 (.red .and d a b m) 0 0

/-- VREDOR (09 R273). -/
def execVredor (d : Reg) (a : Reg) (b : Reg) (m : MReg) (s : State) : Result := s.issueV 4 (.red .or d a b m) 0 0

/-- VCVT (09 R276). -/
def execVcvt (d : Reg) (a : Reg) (k : VKind) (s : Sew) (m : MReg) (st : State) : Result := st.issueV 4 (.cvt false d a k s m) 0 0

/-- VCVT_SR (09 R277). -/
def execVcvtSr (d : Reg) (a : Reg) (k : VKind) (s : Sew) (m : MReg) (st : State) : Result := st.issueV 4 (.cvt true d a k s m) 0 0

/-- VRCP (09 R278). -/
def execVrcp (d : Reg) (a : Reg) (m : MReg) (s : State) : Result := s.issueV 4 (.spec .rcp d a m) 0 0

/-- VRSQ (09 R278). -/
def execVrsq (d : Reg) (a : Reg) (m : MReg) (s : State) : Result := s.issueV 4 (.spec .rsq d a m) 0 0

/-- VSINT (09 R279). -/
def execVsint (d : Reg) (a : Reg) (m : MReg) (s : State) : Result := s.issueV 4 (.spec .sint d a m) 0 0

/-- VCOST (09 R279). -/
def execVcost (d : Reg) (a : Reg) (m : MReg) (s : State) : Result := s.issueV 4 (.spec .cost d a m) 0 0

/-- VEXP2 (09 R280). -/
def execVexp2 (d : Reg) (a : Reg) (m : MReg) (s : State) : Result := s.issueV 4 (.spec .exp2 d a m) 0 0

/-- VLOG2 (09 R280). -/
def execVlog2 (d : Reg) (a : Reg) (m : MReg) (s : State) : Result := s.issueV 4 (.spec .log2 d a m) 0 0

/-- VCLMUL (09 R281). -/
def execVclmul (d : Reg) (a : Reg) (b : Reg) (m : MReg) (s : State) : Result := s.issueV 4 (.clmul false d a b m) 0 0

/-- VCLMULH (09 R281). -/
def execVclmulh (d : Reg) (a : Reg) (b : Reg) (m : MReg) (s : State) : Result := s.issueV 4 (.clmul true d a b m) 0 0

/-- VCBDEC (09 R282). -/
def execVcbdec (d : Reg) (a : Reg) (m : MReg) (s : State) : Result := s.issueV 4 (.cbdec d a m) 0 0

/-- CBLOAD (09 R284). -/
def execCbload (a : Reg) (s : State) : Result := s.issueV 4 .cbload (s.reg a) 0

/-- VRNSF (09 R285). -/
def execVrnsf (d : Reg) (a : Reg) (m : MReg) (s : State) : Result := s.issueV 4 (.rnsf d a m) 0 0

/-- VRNSR (09 R286). -/
def execVrnsr (d : Reg) (a : Reg) (m : MReg) (s : State) : Result := s.issueV 4 (.rnsr d a m) 0 0

/-- VRNSCHK (09 R287). -/
def execVrnschk (d : MReg) (a : Reg) (m : MReg) (s : State) : Result := s.issueV 4 (.rnschk d a m) 0 0

/-- FENCE_SV (03 R108). -/
def execFenceSv (s : Scope) (st : State) : Result := st.issueV 4 (.fence false s) 0 0

/-- FENCE_VV (03 R108). -/
def execFenceVv (s : Scope) (st : State) : Result := st.issueV 4 (.fence true s) 0 0

/-- BARV (11 R342). -/
def execBarv (k : BitVec 5) (s : Scope) (st : State) : Result := st.issueV 4 (.barv k s) 0 0

/-- TZERO (10 R304). -/
def execTzero (d : MReg) (s : State) : Result := s.issueV 4 (.tzero d) 0 0

/-- TOPA (10 R302). -/
def execTopa (d : MReg) (a : Reg) (b : Reg) (c : Reg) (e : Reg) (m : MReg) (n : MReg) (s : State) : Result := s.issueV 8 (.top .topa d a b e m n) (s.reg c) 0

/-- TOPS (10 R302). -/
def execTops (d : MReg) (a : Reg) (b : Reg) (c : Reg) (e : Reg) (m : MReg) (n : MReg) (s : State) : Result := s.issueV 8 (.top .tops d a b e m n) (s.reg c) 0

/-- TOPR (10 R303). -/
def execTopr (d : MReg) (a : Reg) (b : Reg) (c : Reg) (m : MReg) (n : MReg) (s : State) : Result := s.issueV 8 (.top .topr d a b 0 m n) (s.reg c) 0

/-- TLDROW (10 R315). -/
def execTldrow (d : MReg) (x : BitVec 6) (a : Reg) (b : Reg) (s : State) : Result := s.issueV 8 (.tldrow d x) (s.reg a) (s.reg b)

/-- TSTROW (10 R315). -/
def execTstrow (d : MReg) (x : BitVec 6) (a : Reg) (b : Reg) (s : State) : Result := s.issueV 8 (.tstrow d x) (s.reg a) (s.reg b)

/-- TSLV (10 R316). -/
def execTslv (d : Reg) (a : MReg) (x : BitVec 6) (o : Bool) (s : State) : Result := s.issueV 8 (.tslv d a x o) 0 0

/-- TVSL (10 R316). -/
def execTvsl (d : MReg) (a : Reg) (x : BitVec 6) (o : Bool) (s : State) : Result := s.issueV 8 (.tvsl d a x o) 0 0

/-- TCVT (10 R313). -/
def execTcvt (d : MReg) (k : BitVec 5) (s : State) : Result := s.issueV 4 (.tcvt d k) 0 0

/-- TCHK (10 R314). -/
def execTchk (d : MReg) (s : State) : Result := s.issueV 4 (.tchk d) 0 0

end Sys2Proof.Machine
end

