-- ==== Sys2Proof/Machine/Window.lean ====
section
/-! DEFINITION. Address windows: SPACE, CASTG and CASTS (03 R93 to R95). -/

namespace Sys2Proof.Machine

open Sys2Proof

/-- The window code of an address, if its tag and must-be-zero bits are right (02 R59). -/
def Window.code : Window → Nat
  | .global _ => 0 | .priv _ => 1 | .core _ _ => 2 | .shared _ _ => 3

/-- SPACE (03 R93). -/
def execSpace (d a : Reg) (s : State) : Result :=
  .next (s.writeReg 4 d (match windowOf (s.reg a) with
    | some w => word w.code
    | none => BitVec.allOnes 64))

/-- The address of a window's first byte for the issuing context. -/
def windowBase (t : Tid) (w : Nat) : Word :=
  match w with
  | 1 => 0xE000000000000000
  | 2 => 0xE100000000000000 + word (t.core * 2 ^ 32)
  | _ => 0xE200000000000000 + word (t.cluster * 2 ^ 32)

/-- CASTG (03 R94). -/
def execCastg (d a : Reg) (w : BitVec 3) (s : State) : Result :=
  .next (s.writeReg 4 d (windowBase s.tid w.toNat + s.reg a))

/-- The offset bits that CASTS keeps. -/
def castBits (w : Nat) : Nat :=
  match w with
  | 0 => 48 | 1 => 13 | 2 => 16 | _ => 21

/-- CASTS (03 R95): steps 1 and 2 of 01 R32, the window, then the offset. -/
def execCasts (d a : Reg) (w : BitVec 3) (s : State) : Result :=
  let x := s.reg a
  match windowOf x with
  | none => s.trap ⟨0x08, x, 0⟩
  | some v =>
    if v.code ≠ w.toNat ∨ !s.inLimit s.me.ctl.tenant.toNat v then s.trap ⟨0x08, x, 0⟩
    else if v.wrongCore s.tid then s.trap ⟨0x09, x, 0⟩
    else .next (s.writeReg 4 d (word (fld x 0 (castBits w.toNat))))

end Sys2Proof.Machine
end

