-- ==== Sys2Proof/Machine/Dispatch.lean ====
section
/-! DEFINITION. Each instruction and event to its meaning. -/

namespace Sys2Proof.Machine

open Sys2Proof

/-- The meaning of an instruction or event. -/
def exec (i : Instr) (s : State) : Host.Outcome State Fault Refusal :=
  match i with
  | .cAddi d imm => Sys2Proof.Machine.execCAddi d imm s
  | .cAdd d x => Sys2Proof.Machine.execCAdd d x s
  | .cSub d x => Sys2Proof.Machine.execCSub d x s
  | .cAnd d x => Sys2Proof.Machine.execCAnd d x s
  | .cOr d x => Sys2Proof.Machine.execCOr d x s
  | .cXor d x => Sys2Proof.Machine.execCXor d x s
  | .cShli d k => Sys2Proof.Machine.execCShli d k s
  | .cShri d k => Sys2Proof.Machine.execCShri d k s
  | .cSrai d k => Sys2Proof.Machine.execCSrai d k s
  | .cMv d => Sys2Proof.Machine.execCMv d s
  | .cLdd d k => Sys2Proof.Machine.execCLdd d k s
  | .cStd d k => Sys2Proof.Machine.execCStd d k s
  | .cLdw d k => Sys2Proof.Machine.execCLdw d k s
  | .cBeqz o => Sys2Proof.Machine.execCBeqz o s
  | .cBnez o => Sys2Proof.Machine.execCBnez o s
  | .cJalr d => Sys2Proof.Machine.execCJalr d s
  | .add d a b => Sys2Proof.Machine.execAdd d a b s
  | .sub d a b => Sys2Proof.Machine.execSub d a b s
  | .and d a b => Sys2Proof.Machine.execAnd d a b s
  | .or d a b => Sys2Proof.Machine.execOr d a b s
  | .xor d a b => Sys2Proof.Machine.execXor d a b s
  | .shl d a b => Sys2Proof.Machine.execShl d a b s
  | .shr d a b => Sys2Proof.Machine.execShr d a b s
  | .sra d a b => Sys2Proof.Machine.execSra d a b s
  | .min d a b => Sys2Proof.Machine.execMin d a b s
  | .max d a b => Sys2Proof.Machine.execMax d a b s
  | .minu d a b => Sys2Proof.Machine.execMinu d a b s
  | .maxu d a b => Sys2Proof.Machine.execMaxu d a b s
  | .slt d a b => Sys2Proof.Machine.execSlt d a b s
  | .sltu d a b => Sys2Proof.Machine.execSltu d a b s
  | .rotl d a b => Sys2Proof.Machine.execRotl d a b s
  | .rotr d a b => Sys2Proof.Machine.execRotr d a b s
  | .addsc d a b k => Sys2Proof.Machine.execAddsc d a b k s
  | .mul d a b => Sys2Proof.Machine.execMul d a b s
  | .mulh d a b => Sys2Proof.Machine.execMulh d a b s
  | .mulhu d a b => Sys2Proof.Machine.execMulhu d a b s
  | .div d a b => Sys2Proof.Machine.execDiv d a b s
  | .divu d a b => Sys2Proof.Machine.execDivu d a b s
  | .rem d a b => Sys2Proof.Machine.execRem d a b s
  | .remu d a b => Sys2Proof.Machine.execRemu d a b s
  | .clmul d a b => Sys2Proof.Machine.execClmul d a b s
  | .clmulh d a b => Sys2Proof.Machine.execClmulh d a b s
  | .clz d a => Sys2Proof.Machine.execClz d a s
  | .ctz d a => Sys2Proof.Machine.execCtz d a s
  | .popc d a => Sys2Proof.Machine.execPopc d a s
  | .brev d a => Sys2Proof.Machine.execBrev d a s
  | .bswap d a => Sys2Proof.Machine.execBswap d a s
  | .addi d a imm => Sys2Proof.Machine.execAddi d a imm s
  | .andi d a imm => Sys2Proof.Machine.execAndi d a imm s
  | .ori d a imm => Sys2Proof.Machine.execOri d a imm s
  | .xori d a imm => Sys2Proof.Machine.execXori d a imm s
  | .slti d a imm => Sys2Proof.Machine.execSlti d a imm s
  | .shli d a k => Sys2Proof.Machine.execShli d a k s
  | .shri d a k => Sys2Proof.Machine.execShri d a k s
  | .srai d a k => Sys2Proof.Machine.execSrai d a k s
  | .lih d imm => Sys2Proof.Machine.execLih d imm s
  | .addpc d imm => Sys2Proof.Machine.execAddpc d imm s
  | .beq a b imm => Sys2Proof.Machine.execBeq a b imm s
  | .bne a b imm => Sys2Proof.Machine.execBne a b imm s
  | .blt a b imm => Sys2Proof.Machine.execBlt a b imm s
  | .bge a b imm => Sys2Proof.Machine.execBge a b imm s
  | .bltu a b imm => Sys2Proof.Machine.execBltu a b imm s
  | .bgeu a b imm => Sys2Proof.Machine.execBgeu a b imm s
  | .jal d imm => Sys2Proof.Machine.execJal d imm s
  | .jalr d a imm => Sys2Proof.Machine.execJalr d a imm s
  | .ldb d a imm => Sys2Proof.Machine.execLdb d a imm s
  | .ldbu d a imm => Sys2Proof.Machine.execLdbu d a imm s
  | .ldh d a imm => Sys2Proof.Machine.execLdh d a imm s
  | .ldhu d a imm => Sys2Proof.Machine.execLdhu d a imm s
  | .ldw d a imm => Sys2Proof.Machine.execLdw d a imm s
  | .ldwu d a imm => Sys2Proof.Machine.execLdwu d a imm s
  | .ldd d a imm => Sys2Proof.Machine.execLdd d a imm s
  | .stb d a imm => Sys2Proof.Machine.execStb d a imm s
  | .sth d a imm => Sys2Proof.Machine.execSth d a imm s
  | .stw d a imm => Sys2Proof.Machine.execStw d a imm s
  | .std d a imm => Sys2Proof.Machine.execStd d a imm s
  | .addiImm32 op d a imm => Sys2Proof.Machine.execAddiImm32 op d a imm s
  | .lihImm32 d imm => Sys2Proof.Machine.execLihImm32 d imm s
  | .addpcImm32 d imm => Sys2Proof.Machine.execAddpcImm32 d imm s
  | .jalrImm32 d a imm => Sys2Proof.Machine.execJalrImm32 d a imm s
  | .loadImm32 op d a imm => Sys2Proof.Machine.execLoadImm32 op d a imm s
  | .storeImm32 op d a imm => Sys2Proof.Machine.execStoreImm32 op d a imm s
  | .amoAddD d a b o sc => Sys2Proof.Machine.execAmoAddD d a b o sc s
  | .amoAndD d a b o sc => Sys2Proof.Machine.execAmoAndD d a b o sc s
  | .amoOrD d a b o sc => Sys2Proof.Machine.execAmoOrD d a b o sc s
  | .amoXorD d a b o sc => Sys2Proof.Machine.execAmoXorD d a b o sc s
  | .amoMinD d a b o sc => Sys2Proof.Machine.execAmoMinD d a b o sc s
  | .amoMaxD d a b o sc => Sys2Proof.Machine.execAmoMaxD d a b o sc s
  | .amoMinuD d a b o sc => Sys2Proof.Machine.execAmoMinuD d a b o sc s
  | .amoMaxuD d a b o sc => Sys2Proof.Machine.execAmoMaxuD d a b o sc s
  | .amoSwapD d a b o sc => Sys2Proof.Machine.execAmoSwapD d a b o sc s
  | .casD d a b o sc => Sys2Proof.Machine.execCasD d a b o sc s
  | .amoAddW d a b o sc => Sys2Proof.Machine.execAmoAddW d a b o sc s
  | .amoAndW d a b o sc => Sys2Proof.Machine.execAmoAndW d a b o sc s
  | .amoOrW d a b o sc => Sys2Proof.Machine.execAmoOrW d a b o sc s
  | .amoXorW d a b o sc => Sys2Proof.Machine.execAmoXorW d a b o sc s
  | .amoMinW d a b o sc => Sys2Proof.Machine.execAmoMinW d a b o sc s
  | .amoMaxW d a b o sc => Sys2Proof.Machine.execAmoMaxW d a b o sc s
  | .amoMinuW d a b o sc => Sys2Proof.Machine.execAmoMinuW d a b o sc s
  | .amoMaxuW d a b o sc => Sys2Proof.Machine.execAmoMaxuW d a b o sc s
  | .amoSwapW d a b o sc => Sys2Proof.Machine.execAmoSwapW d a b o sc s
  | .casW d a b o sc => Sys2Proof.Machine.execCasW d a b o sc s
  | .space d a => Sys2Proof.Machine.execSpace d a s
  | .castg d a w => Sys2Proof.Machine.execCastg d a w s
  | .casts d a w => Sys2Proof.Machine.execCasts d a w s
  | .fadd d a b t r => Sys2Proof.Machine.execFadd d a b t r s
  | .fsub d a b t r => Sys2Proof.Machine.execFsub d a b t r s
  | .fmul d a b t r => Sys2Proof.Machine.execFmul d a b t r s
  | .fdiv d a b t r => Sys2Proof.Machine.execFdiv d a b t r s
  | .fsqrt d a t r => Sys2Proof.Machine.execFsqrt d a t r s
  | .fmin d a b t => Sys2Proof.Machine.execFmin d a b t s
  | .fmax d a b t => Sys2Proof.Machine.execFmax d a b t s
  | .fsgnCopy d a b t => Sys2Proof.Machine.execFsgnCopy d a b t s
  | .fsgnNeg d a b t => Sys2Proof.Machine.execFsgnNeg d a b t s
  | .fsgnXor d a b t => Sys2Proof.Machine.execFsgnXor d a b t s
  | .fcmpEq d a b t => Sys2Proof.Machine.execFcmpEq d a b t s
  | .fcmpLt d a b t => Sys2Proof.Machine.execFcmpLt d a b t s
  | .fcmpLe d a b t => Sys2Proof.Machine.execFcmpLe d a b t s
  | .fclass d a t => Sys2Proof.Machine.execFclass d a t s
  | .fcvtToFloat d a c t r => Sys2Proof.Machine.execFcvtToFloat d a c t r s
  | .fcvtToInt d a c t r => Sys2Proof.Machine.execFcvtToInt d a c t r s
  | .fma d a b t r => Sys2Proof.Machine.execFma d a b t r s
  | .fms d a b t r => Sys2Proof.Machine.execFms d a b t r s
  | .fnma d a b t r => Sys2Proof.Machine.execFnma d a b t r s
  | .rdc d n => Sys2Proof.Machine.execRdc d n s
  | .wrc a n => Sys2Proof.Machine.execWrc a n s
  | .setc a n => Sys2Proof.Machine.execSetc a n s
  | .clrc a n => Sys2Proof.Machine.execClrc a n s
  | .send d a b => Sys2Proof.Machine.execSend d a b s
  | .recv d a => Sys2Proof.Machine.execRecv d a s
  | .waitmsg => Sys2Proof.Machine.execWaitmsg s
  | .pollmsg d => Sys2Proof.Machine.execPollmsg d s
  | .lullq d a => Sys2Proof.Machine.execLullq d a s
  | .lullw => Sys2Proof.Machine.execLullw s
  | .svc k => Sys2Proof.Machine.execSvc k s
  | .eret => Sys2Proof.Machine.execEret s
  | .brk k => Sys2Proof.Machine.execBrk k s
  | .ifence => Sys2Proof.Machine.execIfence s
  | .trigger => Sys2Proof.Machine.execTrigger s
  | .exit => Sys2Proof.Machine.execExit s
  | .nop => Sys2Proof.Machine.execNop s
  | .ract a => Sys2Proof.Machine.execRact a s
  | .hint a b f m => Sys2Proof.Machine.execHint a b f m s
  | .vgrant d a h => Sys2Proof.Machine.execVgrant d a h s
  | .vgrantNb d a h => Sys2Proof.Machine.execVgrantNb d a h s
  | .vgrantZ d a h => Sys2Proof.Machine.execVgrantZ d a h s
  | .vtype d a => Sys2Proof.Machine.execVtype d a s
  | .vld d a m => Sys2Proof.Machine.execVld d a m s
  | .vldScaled d a b m => Sys2Proof.Machine.execVldScaled d a b m s
  | .vlds d a b m => Sys2Proof.Machine.execVlds d a b m s
  | .vldx d a b m => Sys2Proof.Machine.execVldx d a b m s
  | .vldxO d a b m => Sys2Proof.Machine.execVldxO d a b m s
  | .vldff d a m => Sys2Proof.Machine.execVldff d a m s
  | .vst d a m => Sys2Proof.Machine.execVst d a m s
  | .vstScaled d a b m => Sys2Proof.Machine.execVstScaled d a b m s
  | .vsts d a b m => Sys2Proof.Machine.execVsts d a b m s
  | .vstx d a b m => Sys2Proof.Machine.execVstx d a b m s
  | .vstxO d a b m => Sys2Proof.Machine.execVstxO d a b m s
  | .vstN d a b m => Sys2Proof.Machine.execVstN d a b m s
  | .vamoAdd d a b m => Sys2Proof.Machine.execVamoAdd d a b m s
  | .vamoAnd d a b m => Sys2Proof.Machine.execVamoAnd d a b m s
  | .vamoOr d a b m => Sys2Proof.Machine.execVamoOr d a b m s
  | .vamoXor d a b m => Sys2Proof.Machine.execVamoXor d a b m s
  | .vamoMin d a b m => Sys2Proof.Machine.execVamoMin d a b m s
  | .vamoMax d a b m => Sys2Proof.Machine.execVamoMax d a b m s
  | .vamoMinu d a b m => Sys2Proof.Machine.execVamoMinu d a b m s
  | .vamoMaxu d a b m => Sys2Proof.Machine.execVamoMaxu d a b m s
  | .vamoSwap d a b m => Sys2Proof.Machine.execVamoSwap d a b m s
  | .vloadOrd op d a b m sc o => Sys2Proof.Machine.execVloadOrd op d a b m sc o s
  | .vstoreOrd op d a b m sc o => Sys2Proof.Machine.execVstoreOrd op d a b m sc o s
  | .vamoOrd op d a b m sc o => Sys2Proof.Machine.execVamoOrd op d a b m sc o s
  | .vaddVv d a b m => Sys2Proof.Machine.execVaddVv d a b m s
  | .vsubVv d a b m => Sys2Proof.Machine.execVsubVv d a b m s
  | .vmulVv d a b m => Sys2Proof.Machine.execVmulVv d a b m s
  | .vmulhVv d a b m => Sys2Proof.Machine.execVmulhVv d a b m s
  | .vdivVv d a b m => Sys2Proof.Machine.execVdivVv d a b m s
  | .vremVv d a b m => Sys2Proof.Machine.execVremVv d a b m s
  | .vminVv d a b m => Sys2Proof.Machine.execVminVv d a b m s
  | .vmaxVv d a b m => Sys2Proof.Machine.execVmaxVv d a b m s
  | .vandVv d a b m => Sys2Proof.Machine.execVandVv d a b m s
  | .vorVv d a b m => Sys2Proof.Machine.execVorVv d a b m s
  | .vxorVv d a b m => Sys2Proof.Machine.execVxorVv d a b m s
  | .vshlVv d a b m => Sys2Proof.Machine.execVshlVv d a b m s
  | .vshrVv d a b m => Sys2Proof.Machine.execVshrVv d a b m s
  | .vsraVv d a b m => Sys2Proof.Machine.execVsraVv d a b m s
  | .vfmaVv d a b m => Sys2Proof.Machine.execVfmaVv d a b m s
  | .vfmsVv d a b m => Sys2Proof.Machine.execVfmsVv d a b m s
  | .vfnmaVv d a b m => Sys2Proof.Machine.execVfnmaVv d a b m s
  | .vabs d a m => Sys2Proof.Machine.execVabs d a m s
  | .vneg d a m => Sys2Proof.Machine.execVneg d a m s
  | .vwaddVv d a b m => Sys2Proof.Machine.execVwaddVv d a b m s
  | .vwmulVv d a b m => Sys2Proof.Machine.execVwmulVv d a b m s
  | .vnshrVv d a b m => Sys2Proof.Machine.execVnshrVv d a b m s
  | .vaddVx d a b m => Sys2Proof.Machine.execVaddVx d a b m s
  | .vsubVx d a b m => Sys2Proof.Machine.execVsubVx d a b m s
  | .vmulVx d a b m => Sys2Proof.Machine.execVmulVx d a b m s
  | .vmulhVx d a b m => Sys2Proof.Machine.execVmulhVx d a b m s
  | .vdivVx d a b m => Sys2Proof.Machine.execVdivVx d a b m s
  | .vremVx d a b m => Sys2Proof.Machine.execVremVx d a b m s
  | .vminVx d a b m => Sys2Proof.Machine.execVminVx d a b m s
  | .vmaxVx d a b m => Sys2Proof.Machine.execVmaxVx d a b m s
  | .vandVx d a b m => Sys2Proof.Machine.execVandVx d a b m s
  | .vorVx d a b m => Sys2Proof.Machine.execVorVx d a b m s
  | .vxorVx d a b m => Sys2Proof.Machine.execVxorVx d a b m s
  | .vshlVx d a b m => Sys2Proof.Machine.execVshlVx d a b m s
  | .vshrVx d a b m => Sys2Proof.Machine.execVshrVx d a b m s
  | .vsraVx d a b m => Sys2Proof.Machine.execVsraVx d a b m s
  | .vfmaVx d a b m => Sys2Proof.Machine.execVfmaVx d a b m s
  | .vfmsVx d a b m => Sys2Proof.Machine.execVfmsVx d a b m s
  | .vfnmaVx d a b m => Sys2Proof.Machine.execVfnmaVx d a b m s
  | .vwaddVx d a b m => Sys2Proof.Machine.execVwaddVx d a b m s
  | .vwmulVx d a b m => Sys2Proof.Machine.execVwmulVx d a b m s
  | .vnshrVx d a b m => Sys2Proof.Machine.execVnshrVx d a b m s
  | .vaddVi d a imm m => Sys2Proof.Machine.execVaddVi d a imm m s
  | .vsubVi d a imm m => Sys2Proof.Machine.execVsubVi d a imm m s
  | .vminVi d a imm m => Sys2Proof.Machine.execVminVi d a imm m s
  | .vmaxVi d a imm m => Sys2Proof.Machine.execVmaxVi d a imm m s
  | .vandVi d a imm m => Sys2Proof.Machine.execVandVi d a imm m s
  | .vorVi d a imm m => Sys2Proof.Machine.execVorVi d a imm m s
  | .vxorVi d a imm m => Sys2Proof.Machine.execVxorVi d a imm m s
  | .vshlVi d a k m => Sys2Proof.Machine.execVshlVi d a k m s
  | .vshrVi d a k m => Sys2Proof.Machine.execVshrVi d a k m s
  | .vsraVi d a k m => Sys2Proof.Machine.execVsraVi d a k m s
  | .vnshrVi d a k m => Sys2Proof.Machine.execVnshrVi d a k m s
  | .vcmpEqVv d a b m => Sys2Proof.Machine.execVcmpEqVv d a b m s
  | .vcmpNeVv d a b m => Sys2Proof.Machine.execVcmpNeVv d a b m s
  | .vcmpLtVv d a b m => Sys2Proof.Machine.execVcmpLtVv d a b m s
  | .vcmpLeVv d a b m => Sys2Proof.Machine.execVcmpLeVv d a b m s
  | .vcmpEqVx d a b m => Sys2Proof.Machine.execVcmpEqVx d a b m s
  | .vcmpNeVx d a b m => Sys2Proof.Machine.execVcmpNeVx d a b m s
  | .vcmpLtVx d a b m => Sys2Proof.Machine.execVcmpLtVx d a b m s
  | .vcmpLeVx d a b m => Sys2Proof.Machine.execVcmpLeVx d a b m s
  | .vcmpEqVi d a imm m => Sys2Proof.Machine.execVcmpEqVi d a imm m s
  | .vcmpNeVi d a imm m => Sys2Proof.Machine.execVcmpNeVi d a imm m s
  | .vcmpLtVi d a imm m => Sys2Proof.Machine.execVcmpLtVi d a imm m s
  | .vcmpLeVi d a imm m => Sys2Proof.Machine.execVcmpLeVi d a imm m s
  | .mand d a b => Sys2Proof.Machine.execMand d a b s
  | .mor d a b => Sys2Proof.Machine.execMor d a b s
  | .mxor d a b => Sys2Proof.Machine.execMxor d a b s
  | .mnot d a => Sys2Proof.Machine.execMnot d a s
  | .mpop d a => Sys2Proof.Machine.execMpop d a s
  | .mfirst d a => Sys2Proof.Machine.execMfirst d a s
  | .mset d a => Sys2Proof.Machine.execMset d a s
  | .vsel d a b m => Sys2Proof.Machine.execVsel d a b m s
  | .vbcast d a m => Sys2Proof.Machine.execVbcast d a m s
  | .vget d a b => Sys2Proof.Machine.execVget d a b s
  | .vidx d m => Sys2Proof.Machine.execVidx d m s
  | .vgather d a b m => Sys2Proof.Machine.execVgather d a b m s
  | .vslideup d a b m => Sys2Proof.Machine.execVslideup d a b m s
  | .vslidedn d a b m => Sys2Proof.Machine.execVslidedn d a b m s
  | .vcompress d a m => Sys2Proof.Machine.execVcompress d a m s
  | .vexpand d a m => Sys2Proof.Machine.execVexpand d a m s
  | .vswappr d a m => Sys2Proof.Machine.execVswappr d a m s
  | .vzip d a b m => Sys2Proof.Machine.execVzip d a b m s
  | .vunzip d a b m => Sys2Proof.Machine.execVunzip d a b m s
  | .vredsumO d a b m => Sys2Proof.Machine.execVredsumO d a b m s
  | .vredsumT d a b m => Sys2Proof.Machine.execVredsumT d a b m s
  | .vredmax d a b m => Sys2Proof.Machine.execVredmax d a b m s
  | .vredmin d a b m => Sys2Proof.Machine.execVredmin d a b m s
  | .vredand d a b m => Sys2Proof.Machine.execVredand d a b m s
  | .vredor d a b m => Sys2Proof.Machine.execVredor d a b m s
  | .vcvt d a k sc m => Sys2Proof.Machine.execVcvt d a k sc m s
  | .vcvtSr d a k sc m => Sys2Proof.Machine.execVcvtSr d a k sc m s
  | .vrcp d a m => Sys2Proof.Machine.execVrcp d a m s
  | .vrsq d a m => Sys2Proof.Machine.execVrsq d a m s
  | .vsint d a m => Sys2Proof.Machine.execVsint d a m s
  | .vcost d a m => Sys2Proof.Machine.execVcost d a m s
  | .vexp2 d a m => Sys2Proof.Machine.execVexp2 d a m s
  | .vlog2 d a m => Sys2Proof.Machine.execVlog2 d a m s
  | .vclmul d a b m => Sys2Proof.Machine.execVclmul d a b m s
  | .vclmulh d a b m => Sys2Proof.Machine.execVclmulh d a b m s
  | .vcbdec d a m => Sys2Proof.Machine.execVcbdec d a m s
  | .cbload a => Sys2Proof.Machine.execCbload a s
  | .vrnsf d a m => Sys2Proof.Machine.execVrnsf d a m s
  | .vrnsr d a m => Sys2Proof.Machine.execVrnsr d a m s
  | .vrnschk d a m => Sys2Proof.Machine.execVrnschk d a m s
  | .vstreamLdv d a b q => Sys2Proof.Machine.execVstreamLdv d a b q s
  | .vstreamStv d a b q => Sys2Proof.Machine.execVstreamStv d a b q s
  | .vstreamLds d a b q => Sys2Proof.Machine.execVstreamLds d a b q s
  | .vstreamSts d a b q => Sys2Proof.Machine.execVstreamSts d a b q s
  | .vstreamLdb d a b q => Sys2Proof.Machine.execVstreamLdb d a b q s
  | .vstreamStb d a b q => Sys2Proof.Machine.execVstreamStb d a b q s
  | .vstreamLdvA q d a b x => Sys2Proof.Machine.execVstreamLdvA q d a b x s
  | .vstreamStvA q d a b x => Sys2Proof.Machine.execVstreamStvA q d a b x s
  | .vstreamLdsA q d a b x => Sys2Proof.Machine.execVstreamLdsA q d a b x s
  | .vstreamStsA q d a b x => Sys2Proof.Machine.execVstreamStsA q d a b x s
  | .vstreamLdbA q d a b x => Sys2Proof.Machine.execVstreamLdbA q d a b x s
  | .vstreamStbA q d a b x => Sys2Proof.Machine.execVstreamStbA q d a b x s
  | .swait q => Sys2Proof.Machine.execSwait q s
  | .squery d q => Sys2Proof.Machine.execSquery d q s
  | .fenceSs sc => Sys2Proof.Machine.execFenceSs sc s
  | .fenceSv sc => Sys2Proof.Machine.execFenceSv sc s
  | .fenceVs sc => Sys2Proof.Machine.execFenceVs sc s
  | .fenceVv sc => Sys2Proof.Machine.execFenceVv sc s
  | .barinit a k => Sys2Proof.Machine.execBarinit a k s
  | .barv k sc => Sys2Proof.Machine.execBarv k sc s
  | .barw k => Sys2Proof.Machine.execBarw k s
  | .mtenter g => Sys2Proof.Machine.execMtenter g s
  | .mtexit => Sys2Proof.Machine.execMtexit s
  | .tzero d => Sys2Proof.Machine.execTzero d s
  | .tedge a b => Sys2Proof.Machine.execTedge a b s
  | .topa d a b c e m n => Sys2Proof.Machine.execTopa d a b c e m n s
  | .tops d a b c e m n => Sys2Proof.Machine.execTops d a b c e m n s
  | .topr d a b c m n => Sys2Proof.Machine.execTopr d a b c m n s
  | .tldrow d x a b => Sys2Proof.Machine.execTldrow d x a b s
  | .tstrow d x a b => Sys2Proof.Machine.execTstrow d x a b s
  | .tslv d a x o => Sys2Proof.Machine.execTslv d a x o s
  | .tvsl d a x o => Sys2Proof.Machine.execTvsl d a x o s
  | .tcvt d k => Sys2Proof.Machine.execTcvt d k s
  | .tchk d => Sys2Proof.Machine.execTchk d s
  | .sequencerHandoff t => Sys2Proof.Machine.execSequencerHandoff t s
  | .slotStepStart t n => Sys2Proof.Machine.execSlotStepStart t n s
  | .slotStepCommit t n => Sys2Proof.Machine.execSlotStepCommit t n s
  | .queuedTrap t => Sys2Proof.Machine.execQueuedTrap t s
  | .writeQueueSend t => Sys2Proof.Machine.execWriteQueueSend t s
  | .storeAcknowledgement t n => Sys2Proof.Machine.execStoreAcknowledgement t n s
  | .memoryReply t n => Sys2Proof.Machine.execMemoryReply t n s
  | .fetchFill t => Sys2Proof.Machine.execFetchFill t s
  | .handlerFault t => Sys2Proof.Machine.execHandlerFault t s
  | .sendDepart t => Sys2Proof.Machine.execSendDepart t s
  | .mailboxArrival n => Sys2Proof.Machine.execMailboxArrival n s
  | .messageAcknowledgement n => Sys2Proof.Machine.execMessageAcknowledgement n s
  | .bounceArrival n => Sys2Proof.Machine.execBounceArrival n s
  | .dbgctlHaltreq t v => Sys2Proof.Machine.execDbgctlHaltreq t v s
  | .debugHalt t => Sys2Proof.Machine.execDebugHalt t s
  | .dbgctlResume t v => Sys2Proof.Machine.execDbgctlResume t v s
  | .debugWindowAccess c off w => Sys2Proof.Machine.execDebugWindowAccess c off w s
  | .cfenceRequest c v => Sys2Proof.Machine.execCfenceRequest c v s
  | .lamark c v => Sys2Proof.Machine.execLamark c v s
  | .allocatorMark t => Sys2Proof.Machine.execAllocatorMark t s
  | .deadlineExpiry t => Sys2Proof.Machine.execDeadlineExpiry t s
  | .parkExpiry t => Sys2Proof.Machine.execParkExpiry t s
  | .saveComplete t => Sys2Proof.Machine.execSaveComplete t s
  | .grantComplete t => Sys2Proof.Machine.execGrantComplete t s
  | .restoreComplete t => Sys2Proof.Machine.execRestoreComplete t s
  | .relocate t => Sys2Proof.Machine.execRelocate t s
  | .recheckSecondExecution t n => Sys2Proof.Machine.execRecheckSecondExecution t n s
  | .recheckCompare t n bad => Sys2Proof.Machine.execRecheckCompare t n bad s
  | .recheckVote t n bad nomaj => Sys2Proof.Machine.execRecheckVote t n bad nomaj s
  | .recheckRollback t n nomaj agree => Sys2Proof.Machine.execRecheckRollback t n nomaj agree s
  | .elogtailWrite c v => Sys2Proof.Machine.execElogtailWrite c v s
  | .lgstatMark c p v => Sys2Proof.Machine.execLgstatMark c p v s
  | .lgstatFenreq c p v => Sys2Proof.Machine.execLgstatFenreq c p v s
  | .substitutionDone c p => Sys2Proof.Machine.execSubstitutionDone c p s
  | .dschkGo c v => Sys2Proof.Machine.execDschkGo c v s
  | .dschkCalc c v => Sys2Proof.Machine.execDschkCalc c v s
  | .diagnosticStore c => Sys2Proof.Machine.execDiagnosticStore c s
  | .dinjArm c v => Sys2Proof.Machine.execDinjArm c v s
  | .cbownWrite c v => Sys2Proof.Machine.execCbownWrite c v s
  | .csplitApply c => Sys2Proof.Machine.execCsplitApply c s
  | .streamUnit c => Sys2Proof.Machine.execStreamUnit c s
  | .streamCopyDone t q => Sys2Proof.Machine.execStreamCopyDone t q s
  | .completionMessage t q => Sys2Proof.Machine.execCompletionMessage t q s
  | .barvArrival t n => Sys2Proof.Machine.execBarvArrival t n s
  | .homeRequest t n => Sys2Proof.Machine.execHomeRequest t n s
  | .dramAccess pa => Sys2Proof.Machine.execDramAccess pa s
  | .rowIdleClose pa => Sys2Proof.Machine.execRowIdleClose pa s
  | .ractArrival n => Sys2Proof.Machine.execRactArrival n s
  | .replicaInvalidation pa die => Sys2Proof.Machine.execReplicaInvalidation pa die s
  | .invalidationAck t n => Sys2Proof.Machine.execInvalidationAck t n s
  | .walkComplete t va => Sys2Proof.Machine.execWalkComplete t va s
  | .tlbinvGo die v => Sys2Proof.Machine.execTlbinvGo die v s
  | .tlbinvDone die => Sys2Proof.Machine.execTlbinvDone die s
  | .migctlGo die q v => Sys2Proof.Machine.execMigctlGo die q v s
  | .migrationLineDone die q => Sys2Proof.Machine.execMigrationLineDone die q s
  | .migctlDoneClear die q v => Sys2Proof.Machine.execMigctlDoneClear die q v s
  | .mscspWrite die v => Sys2Proof.Machine.execMscspWrite die v s
  | .mscspConversionDone die => Sys2Proof.Machine.execMscspConversionDone die s
  | .drchkGo die v => Sys2Proof.Machine.execDrchkGo die v s
  | .drchkCalc die v => Sys2Proof.Machine.execDrchkCalc die v s
  | .dlogtailWrite die v => Sys2Proof.Machine.execDlogtailWrite die v s
  | .linkFlitReplay die q => Sys2Proof.Machine.execLinkFlitReplay die q s
  | .keycmdGo v => Sys2Proof.Machine.execKeycmdGo v s
  | .keyInstallDone => Sys2Proof.Machine.execKeyInstallDone s
  | .qnotifyWrite q v => Sys2Proof.Machine.execQnotifyWrite q v s
  | .qstatRestart q v => Sys2Proof.Machine.execQstatRestart q v s
  | .cpServePacket q => Sys2Proof.Machine.execCpServePacket q s
  | .packetClearAck q => Sys2Proof.Machine.execPacketClearAck q s
  | .groupPlacement n => Sys2Proof.Machine.execGroupPlacement n s
  | .triggerMarkCount t => Sys2Proof.Machine.execTriggerMarkCount t s
  | .exitFinish t => Sys2Proof.Machine.execExitFinish t s
  | .signalDecrement n => Sys2Proof.Machine.execSignalDecrement n s
  | .msixSend f n => Sys2Proof.Machine.execMsixSend f n s
  | .schcmdPreempt v => Sys2Proof.Machine.execSchcmdPreempt v s
  | .schcmdMove v => Sys2Proof.Machine.execSchcmdMove v s
  | .schcmdRelease v => Sys2Proof.Machine.execSchcmdRelease v s
  | .schcmdSwitchCluster v => Sys2Proof.Machine.execSchcmdSwitchCluster v s
  | .schcmdSwitchPackage v => Sys2Proof.Machine.execSchcmdSwitchPackage v s
  | .schcmdEndLaunch v => Sys2Proof.Machine.execSchcmdEndLaunch v s
  | .schcmdReserved v => Sys2Proof.Machine.execSchcmdReserved v s
  | .schcmdComplete => Sys2Proof.Machine.execSchcmdComplete s
  | .lullDrainStart => Sys2Proof.Machine.execLullDrainStart s
  | .lullStart hot tj => Sys2Proof.Machine.execLullStart hot tj s
  | .lullEnd links ports => Sys2Proof.Machine.execLullEnd links ports s
  | .lullOverrun late => Sys2Proof.Machine.execLullOverrun late s
  | .relockDone => Sys2Proof.Machine.execRelockDone s
  | .thermtrip => Sys2Proof.Machine.execThermtrip s
  | .hostBar4Read f off n => Sys2Proof.Machine.execHostBar4Read f off n s
  | .hostBar4Write f off data => Sys2Proof.Machine.execHostBar4Write f off data s
  | .hostAtomicopRequest f off => Sys2Proof.Machine.execHostAtomicopRequest f off s
  | .hostCompletion t n st v => Sys2Proof.Machine.execHostCompletion t n st v s
  | .fwcmdGo v => Sys2Proof.Machine.execFwcmdGo v s
  | .fwImageCheck img => Sys2Proof.Machine.execFwImageCheck img s
  | .packageReset => Sys2Proof.Machine.execPackageReset s
  | .vfFlr f => Sys2Proof.Machine.execVfFlr f s
  | .vfFlrIdle f => Sys2Proof.Machine.execVfFlrIdle f s
  | .powerLoss => Sys2Proof.Machine.execPowerLoss s
  | .pldmBase n => Sys2Proof.Machine.execPldmBase n s
  | .pldmPlatform n cap => Sys2Proof.Machine.execPldmPlatform n cap s
  | .pldmFirmwareUpdate img => Sys2Proof.Machine.execPldmFirmwareUpdate img s
  | .mctpDebugRequest c off w => Sys2Proof.Machine.execMctpDebugRequest c off w s
  | .brulosFlitReceive p good x => Sys2Proof.Machine.execBrulosFlitReceive p good x s
  | .linkNak p ack => Sys2Proof.Machine.execLinkNak p ack s
  | .retransmitTimeout p => Sys2Proof.Machine.execRetransmitTimeout p s
  | .remoteRequest n => Sys2Proof.Machine.execRemoteRequest n s
  | .collectiveComplete t q members => Sys2Proof.Machine.execCollectiveComplete t q members s
  | .registerWrite pa v => Sys2Proof.Machine.execRegisterWrite pa v s
  | .mtenterComplete t => Sys2Proof.Machine.execMtenterComplete t s
  | .systemDieError => Sys2Proof.Machine.execSystemDieError s
  | .hostCompletionTimeout t n => Sys2Proof.Machine.execHostCompletionTimeout t n s
  | .firmwareCallReturn t r0 r1 => Sys2Proof.Machine.execFirmwareCallReturn t r0 r1 s
  | .brulosLinkDown p => Sys2Proof.Machine.execBrulosLinkDown p s
  | .brulosLinkUp p => Sys2Proof.Machine.execBrulosLinkUp p s
  | .tenantSwitchIn c ten => Sys2Proof.Machine.execTenantSwitchIn c ten s
  | .mctpEndpointIdAssignment eid => Sys2Proof.Machine.execMctpEndpointIdAssignment eid s

end Sys2Proof.Machine
end

