-- ==== Sys2Proof/Machine/Agenda.lean ====
section
/-! DEFINITION. The events of the agenda as instructions, and the meanings once more for the rows that compiled code cannot
hold as an instruction, each shown equal to `exec` (log 23). -/

namespace Sys2Proof.Machine

open Sys2Proof

noncomputable section

/-- The row of the table that an event of the agenda stands for. -/
def eventInstr : Event → Instr
  | .sequencerHandoff t => .sequencerHandoff t
  | .slotStepStart t n => .slotStepStart t n
  | .slotStepCommit t n => .slotStepCommit t n
  | .queuedTrap t => .queuedTrap t
  | .writeQueueSend t => .writeQueueSend t
  | .storeAcknowledgement t n => .storeAcknowledgement t n
  | .memoryReply t n => .memoryReply t n
  | .fetchFill t => .fetchFill t
  | .handlerFault t => .handlerFault t
  | .sendDepart t => .sendDepart t
  | .mailboxArrival n => .mailboxArrival n
  | .messageAcknowledgement n => .messageAcknowledgement n
  | .bounceArrival n => .bounceArrival n
  | .dbgctlHaltreq t v => .dbgctlHaltreq t v
  | .debugHalt t => .debugHalt t
  | .dbgctlResume t v => .dbgctlResume t v
  | .debugWindowAccess c off w => .debugWindowAccess c off w
  | .cfenceRequest c v => .cfenceRequest c v
  | .lamark c v => .lamark c v
  | .allocatorMark t => .allocatorMark t
  | .deadlineExpiry t => .deadlineExpiry t
  | .parkExpiry t => .parkExpiry t
  | .saveComplete t => .saveComplete t
  | .grantComplete t => .grantComplete t
  | .restoreComplete t => .restoreComplete t
  | .relocate t => .relocate t
  | .recheckSecondExecution t n => .recheckSecondExecution t n
  | .recheckCompare t n bad => .recheckCompare t n bad
  | .recheckVote t n bad nomaj => .recheckVote t n bad nomaj
  | .recheckRollback t n nomaj agree => .recheckRollback t n nomaj agree
  | .elogtailWrite c v => .elogtailWrite c v
  | .lgstatMark c p v => .lgstatMark c p v
  | .lgstatFenreq c p v => .lgstatFenreq c p v
  | .substitutionDone c p => .substitutionDone c p
  | .dschkGo c v => .dschkGo c v
  | .dschkCalc c v => .dschkCalc c v
  | .diagnosticStore c => .diagnosticStore c
  | .dinjArm c v => .dinjArm c v
  | .cbownWrite c v => .cbownWrite c v
  | .csplitApply c => .csplitApply c
  | .streamUnit c => .streamUnit c
  | .streamCopyDone t q => .streamCopyDone t q
  | .completionMessage t q => .completionMessage t q
  | .barvArrival t n => .barvArrival t n
  | .homeRequest t n => .homeRequest t n
  | .dramAccess pa => .dramAccess pa
  | .rowIdleClose pa => .rowIdleClose pa
  | .ractArrival n => .ractArrival n
  | .replicaInvalidation pa die => .replicaInvalidation pa die
  | .invalidationAck t n => .invalidationAck t n
  | .walkComplete t va => .walkComplete t va
  | .tlbinvGo die v => .tlbinvGo die v
  | .tlbinvDone die => .tlbinvDone die
  | .migctlGo die q v => .migctlGo die q v
  | .migrationLineDone die q => .migrationLineDone die q
  | .migctlDoneClear die q v => .migctlDoneClear die q v
  | .mscspWrite die v => .mscspWrite die v
  | .mscspConversionDone die => .mscspConversionDone die
  | .drchkGo die v => .drchkGo die v
  | .drchkCalc die v => .drchkCalc die v
  | .dlogtailWrite die v => .dlogtailWrite die v
  | .linkFlitReplay die q => .linkFlitReplay die q
  | .keycmdGo v => .keycmdGo v
  | .keyInstallDone => .keyInstallDone
  | .qnotifyWrite q v => .qnotifyWrite q v
  | .qstatRestart q v => .qstatRestart q v
  | .cpServePacket q => .cpServePacket q
  | .packetClearAck q => .packetClearAck q
  | .groupPlacement n => .groupPlacement n
  | .triggerMarkCount t => .triggerMarkCount t
  | .exitFinish t => .exitFinish t
  | .signalDecrement n => .signalDecrement n
  | .msixSend f n => .msixSend f n
  | .schcmdPreempt v => .schcmdPreempt v
  | .schcmdMove v => .schcmdMove v
  | .schcmdRelease v => .schcmdRelease v
  | .schcmdSwitchCluster v => .schcmdSwitchCluster v
  | .schcmdSwitchPackage v => .schcmdSwitchPackage v
  | .schcmdEndLaunch v => .schcmdEndLaunch v
  | .schcmdReserved v => .schcmdReserved v
  | .schcmdComplete => .schcmdComplete
  | .lullDrainStart => .lullDrainStart
  | .lullStart hot tj => .lullStart hot tj
  | .lullEnd links ports => .lullEnd links ports
  | .lullOverrun late => .lullOverrun late
  | .relockDone => .relockDone
  | .thermtrip => .thermtrip
  | .hostBar4Read f off n => .hostBar4Read f off n
  | .hostBar4Write f off data => .hostBar4Write f off data
  | .hostAtomicopRequest f off => .hostAtomicopRequest f off
  | .hostCompletion t n st v => .hostCompletion t n st v
  | .fwcmdGo v => .fwcmdGo v
  | .fwImageCheck img => .fwImageCheck img
  | .packageReset => .packageReset
  | .vfFlr f => .vfFlr f
  | .vfFlrIdle f => .vfFlrIdle f
  | .powerLoss => .powerLoss
  | .pldmBase n => .pldmBase n
  | .pldmPlatform n cap => .pldmPlatform n cap
  | .pldmFirmwareUpdate img => .pldmFirmwareUpdate img
  | .mctpDebugRequest c off w => .mctpDebugRequest c off w
  | .brulosFlitReceive p good x => .brulosFlitReceive p good x
  | .linkNak p ack => .linkNak p ack
  | .retransmitTimeout p => .retransmitTimeout p
  | .remoteRequest n => .remoteRequest n
  | .collectiveComplete t q members => .collectiveComplete t q members
  | .registerWrite pa v => .registerWrite pa v
  | .mtenterComplete t => .mtenterComplete t
  | .systemDieError => .systemDieError
  | .hostCompletionTimeout t n => .hostCompletionTimeout t n
  | .firmwareCallReturn t r0 r1 => .firmwareCallReturn t r0 r1
  | .brulosLinkDown p => .brulosLinkDown p
  | .brulosLinkUp p => .brulosLinkUp p
  | .tenantSwitchIn c ten => .tenantSwitchIn c ten
  | .mctpEndpointIdAssignment eid => .mctpEndpointIdAssignment eid

end

/-- The meaning of an event of the agenda. -/
def execEvent (e : Event) (s : State) : Result :=
  match e with
  | .sequencerHandoff t => execSequencerHandoff t s
  | .slotStepStart t n => execSlotStepStart t n s
  | .slotStepCommit t n => execSlotStepCommit t n s
  | .queuedTrap t => execQueuedTrap t s
  | .writeQueueSend t => execWriteQueueSend t s
  | .storeAcknowledgement t n => execStoreAcknowledgement t n s
  | .memoryReply t n => execMemoryReply t n s
  | .fetchFill t => execFetchFill t s
  | .handlerFault t => execHandlerFault t s
  | .sendDepart t => execSendDepart t s
  | .mailboxArrival n => execMailboxArrival n s
  | .messageAcknowledgement n => execMessageAcknowledgement n s
  | .bounceArrival n => execBounceArrival n s
  | .dbgctlHaltreq t v => execDbgctlHaltreq t v s
  | .debugHalt t => execDebugHalt t s
  | .dbgctlResume t v => execDbgctlResume t v s
  | .debugWindowAccess c off w => execDebugWindowAccess c off w s
  | .cfenceRequest c v => execCfenceRequest c v s
  | .lamark c v => execLamark c v s
  | .allocatorMark t => execAllocatorMark t s
  | .deadlineExpiry t => execDeadlineExpiry t s
  | .parkExpiry t => execParkExpiry t s
  | .saveComplete t => execSaveComplete t s
  | .grantComplete t => execGrantComplete t s
  | .restoreComplete t => execRestoreComplete t s
  | .relocate t => execRelocate t s
  | .recheckSecondExecution t n => execRecheckSecondExecution t n s
  | .recheckCompare t n bad => execRecheckCompare t n bad s
  | .recheckVote t n bad nomaj => execRecheckVote t n bad nomaj s
  | .recheckRollback t n nomaj agree => execRecheckRollback t n nomaj agree s
  | .elogtailWrite c v => execElogtailWrite c v s
  | .lgstatMark c p v => execLgstatMark c p v s
  | .lgstatFenreq c p v => execLgstatFenreq c p v s
  | .substitutionDone c p => execSubstitutionDone c p s
  | .dschkGo c v => execDschkGo c v s
  | .dschkCalc c v => execDschkCalc c v s
  | .diagnosticStore c => execDiagnosticStore c s
  | .dinjArm c v => execDinjArm c v s
  | .cbownWrite c v => execCbownWrite c v s
  | .csplitApply c => execCsplitApply c s
  | .streamUnit c => execStreamUnit c s
  | .streamCopyDone t q => execStreamCopyDone t q s
  | .completionMessage t q => execCompletionMessage t q s
  | .barvArrival t n => execBarvArrival t n s
  | .homeRequest t n => execHomeRequest t n s
  | .dramAccess pa => execDramAccess pa s
  | .rowIdleClose pa => execRowIdleClose pa s
  | .ractArrival n => execRactArrival n s
  | .replicaInvalidation pa die => execReplicaInvalidation pa die s
  | .invalidationAck t n => execInvalidationAck t n s
  | .walkComplete t va => execWalkComplete t va s
  | .tlbinvGo die v => execTlbinvGo die v s
  | .tlbinvDone die => execTlbinvDone die s
  | .migctlGo die q v => execMigctlGo die q v s
  | .migrationLineDone die q => execMigrationLineDone die q s
  | .migctlDoneClear die q v => execMigctlDoneClear die q v s
  | .mscspWrite die v => execMscspWrite die v s
  | .mscspConversionDone die => execMscspConversionDone die s
  | .drchkGo die v => execDrchkGo die v s
  | .drchkCalc die v => execDrchkCalc die v s
  | .dlogtailWrite die v => execDlogtailWrite die v s
  | .linkFlitReplay die q => execLinkFlitReplay die q s
  | .keycmdGo v => execKeycmdGo v s
  | .keyInstallDone => execKeyInstallDone s
  | .qnotifyWrite q v => execQnotifyWrite q v s
  | .qstatRestart q v => execQstatRestart q v s
  | .cpServePacket q => execCpServePacket q s
  | .packetClearAck q => execPacketClearAck q s
  | .groupPlacement n => execGroupPlacement n s
  | .triggerMarkCount t => execTriggerMarkCount t s
  | .exitFinish t => execExitFinish t s
  | .signalDecrement n => execSignalDecrement n s
  | .msixSend f n => execMsixSend f n s
  | .schcmdPreempt v => execSchcmdPreempt v s
  | .schcmdMove v => execSchcmdMove v s
  | .schcmdRelease v => execSchcmdRelease v s
  | .schcmdSwitchCluster v => execSchcmdSwitchCluster v s
  | .schcmdSwitchPackage v => execSchcmdSwitchPackage v s
  | .schcmdEndLaunch v => execSchcmdEndLaunch v s
  | .schcmdReserved v => execSchcmdReserved v s
  | .schcmdComplete => execSchcmdComplete s
  | .lullDrainStart => execLullDrainStart s
  | .lullStart hot tj => execLullStart hot tj s
  | .lullEnd links ports => execLullEnd links ports s
  | .lullOverrun late => execLullOverrun late s
  | .relockDone => execRelockDone s
  | .thermtrip => execThermtrip s
  | .hostBar4Read f off n => execHostBar4Read f off n s
  | .hostBar4Write f off data => execHostBar4Write f off data s
  | .hostAtomicopRequest f off => execHostAtomicopRequest f off s
  | .hostCompletion t n st v => execHostCompletion t n st v s
  | .fwcmdGo v => execFwcmdGo v s
  | .fwImageCheck img => execFwImageCheck img s
  | .packageReset => execPackageReset s
  | .vfFlr f => execVfFlr f s
  | .vfFlrIdle f => execVfFlrIdle f s
  | .powerLoss => execPowerLoss s
  | .pldmBase n => execPldmBase n s
  | .pldmPlatform n cap => execPldmPlatform n cap s
  | .pldmFirmwareUpdate img => execPldmFirmwareUpdate img s
  | .mctpDebugRequest c off w => execMctpDebugRequest c off w s
  | .brulosFlitReceive p good x => execBrulosFlitReceive p good x s
  | .linkNak p ack => execLinkNak p ack s
  | .retransmitTimeout p => execRetransmitTimeout p s
  | .remoteRequest n => execRemoteRequest n s
  | .collectiveComplete t q members => execCollectiveComplete t q members s
  | .registerWrite pa v => execRegisterWrite pa v s
  | .mtenterComplete t => execMtenterComplete t s
  | .systemDieError => execSystemDieError s
  | .hostCompletionTimeout t n => execHostCompletionTimeout t n s
  | .firmwareCallReturn t r0 r1 => execFirmwareCallReturn t r0 r1 s
  | .brulosLinkDown p => execBrulosLinkDown p s
  | .brulosLinkUp p => execBrulosLinkUp p s
  | .tenantSwitchIn c ten => execTenantSwitchIn c ten s
  | .mctpEndpointIdAssignment eid => execMctpEndpointIdAssignment eid s

/-- The meaning of a late row. -/
def execLate (l : Late) (s : State) : Result :=
  match l with
  | .vbcast d a m => execVbcast d a m s
  | .vget d a b => execVget d a b s
  | .vidx d m => execVidx d m s
  | .vgather d a b m => execVgather d a b m s
  | .vslideup d a b m => execVslideup d a b m s
  | .vslidedn d a b m => execVslidedn d a b m s
  | .vcompress d a m => execVcompress d a m s
  | .vexpand d a m => execVexpand d a m s
  | .vswappr d a m => execVswappr d a m s
  | .vzip d a b m => execVzip d a b m s
  | .vunzip d a b m => execVunzip d a b m s
  | .vredsumO d a b m => execVredsumO d a b m s
  | .vredsumT d a b m => execVredsumT d a b m s
  | .vredmax d a b m => execVredmax d a b m s
  | .vredmin d a b m => execVredmin d a b m s
  | .vredand d a b m => execVredand d a b m s
  | .vredor d a b m => execVredor d a b m s
  | .vcvt d a k sc m => execVcvt d a k sc m s
  | .vcvtSr d a k sc m => execVcvtSr d a k sc m s
  | .vrcp d a m => execVrcp d a m s
  | .vrsq d a m => execVrsq d a m s
  | .vsint d a m => execVsint d a m s
  | .vcost d a m => execVcost d a m s
  | .vexp2 d a m => execVexp2 d a m s
  | .vlog2 d a m => execVlog2 d a m s
  | .vclmul d a b m => execVclmul d a b m s
  | .vclmulh d a b m => execVclmulh d a b m s
  | .vcbdec d a m => execVcbdec d a m s
  | .cbload a => execCbload a s
  | .vrnsf d a m => execVrnsf d a m s
  | .vrnsr d a m => execVrnsr d a m s
  | .vrnschk d a m => execVrnschk d a m s
  | .vstreamLdv d a b q => execVstreamLdv d a b q s
  | .vstreamStv d a b q => execVstreamStv d a b q s
  | .vstreamLds d a b q => execVstreamLds d a b q s
  | .vstreamSts d a b q => execVstreamSts d a b q s
  | .vstreamLdb d a b q => execVstreamLdb d a b q s
  | .vstreamStb d a b q => execVstreamStb d a b q s
  | .vstreamLdvA q d a b x => execVstreamLdvA q d a b x s
  | .vstreamStvA q d a b x => execVstreamStvA q d a b x s
  | .vstreamLdsA q d a b x => execVstreamLdsA q d a b x s
  | .vstreamStsA q d a b x => execVstreamStsA q d a b x s
  | .vstreamLdbA q d a b x => execVstreamLdbA q d a b x s
  | .vstreamStbA q d a b x => execVstreamStbA q d a b x s
  | .swait q => execSwait q s
  | .squery d q => execSquery d q s
  | .fenceSs sc => execFenceSs sc s
  | .fenceSv sc => execFenceSv sc s
  | .fenceVs sc => execFenceVs sc s
  | .fenceVv sc => execFenceVv sc s
  | .barinit a k => execBarinit a k s
  | .barv k sc => execBarv k sc s
  | .barw k => execBarw k s
  | .mtenter g => execMtenter g s
  | .mtexit => execMtexit s
  | .tzero d => execTzero d s
  | .tedge a b => execTedge a b s
  | .topa d a b c e m n => execTopa d a b c e m n s
  | .tops d a b c e m n => execTops d a b c e m n s
  | .topr d a b c m n => execTopr d a b c m n s
  | .tldrow d x a b => execTldrow d x a b s
  | .tstrow d x a b => execTstrow d x a b s
  | .tslv d a x o => execTslv d a x o s
  | .tvsl d a x o => execTvsl d a x o s
  | .tcvt d k => execTcvt d k s
  | .tchk d => execTchk d s

/-- The meaning of what the decoder answered. -/
def execDecoded (d : Decoded) (s : State) : Result :=
  match d with
  | .early i => exec i s
  | .late l => execLate l s

theorem exec_eventInstr (e : Event) (s : State) : exec (eventInstr e) s = execEvent e s := by cases e <;> rfl

theorem exec_decoded (d : Decoded) (s : State) : exec d.instr s = execDecoded d s := by
  cases d with
  | early i => rfl
  | late l => cases l <;> rfl

end Sys2Proof.Machine
end

