-- ==== Sys2Proof/Machine/Turn.lean ====
section
/-! DEFINITION. What a step does beside the agenda: work of the package that is due, and what comes before and after the
instruction of a strand whose turn it is (05 R150 to R157, R178). -/

namespace Sys2Proof.Machine

open Sys2Proof

/-! ### Work that is due -/

/-- Work of an engine of the package that can go on now: a line of a page migration (13 R393), the end of a TLB invalidation
(13 R391), of a conversion of memory-side scratchpad ways (13 R384), or of the installation of a key (14 R405). -/
def State.engineDue (s : State) : Option Event :=
  let dies := List.range 4
  (dies.findSome? fun d => ((List.range 4).find? fun n => s.migrates d n).map fun n =>
      Event.migrationLineDone (BitVec.ofNat 2 d) (BitVec.ofNat 2 n)).or
    (((dies.find? fun d => s.tlbinvReady d).map fun d => Event.tlbinvDone (BitVec.ofNat 2 d)).or
      (((dies.find? fun d => bitOf (s.rd (rMscsp d)) 8 && s.clear).map fun d =>
          Event.mscspConversionDone (BitVec.ofNat 2 d)).or
        (if bitOf (s.rd rKeycmd) 62 then some .keyInstallDone else none)))

/-- What happens now before any strand issues: the calendar's event, an allocator's event that is due, or work of an engine,
which goes on between the strands' instructions at moments that nothing fixes (log 3). -/
def State.dueNow (s : State) : Option Event :=
  match s.due with
  | some e => some e
  | none =>
    if s.sys.fatal || s.sys.lull.stopped s.time then none
    else
      match s.dueAlloc with
      | some e => some e
      | none =>
        match s.engineDue with
        | none => none
        | some e => if s.pick.isNone || bitOf (Config.freeWord s.fresh) 0 then some e else none

/-! ### Before an instruction issues -/

/-- The strand in focus has its turn. The flag says that something takes the place of an instruction: it halts for a debugger
(05 R179), its vector queue goes on, or an error stops its context (05 R181). -/
def State.turn (s : State) : State × Bool :=
  if s.me.haltDue && !s.me.waits then (s.halt s.tid, true)
  else
    let p := s.pumpFocus
    if !s.me.queue.isEmpty && !decide (p = s) then (p, true) else s.issueInject

/-- The scalar registers that the fields of an encoding name (02 R43, R44, R48, R53, R58 to R67). -/
def namedRegs (c : Ctl) : Words → List Reg
  | .event => []
  | .w16 w => [c.ld, w.extractLsb' 0 5, w.extractLsb' 5 5]
  | .w32 w => bodyRegs w 0
  | .w64 p w => bodyRegs w (p.extractLsb' 27 5)
where
  /-- The registers of a body, with the c field of its prefix. -/
  bodyRegs (w : BitVec 32) (c : Reg) : List Reg :=
    let d : Reg := w.extractLsb' 3 5
    let a : Reg := w.extractLsb' 22 5
    let b : Reg := w.extractLsb' 27 5
    let op := (w.extractLsb' 8 6).toNat
    let f := (w.extractLsb' 16 6).toNat
    if w.extractLsb' 14 2 = 1#2 then
      (if op = 0x0E ∨ op = 0x0F ∨ op = 0x16 then [d]
       else if 0x10 ≤ op ∧ op ≤ 0x15 then [a, b]
       else if (0x08 ≤ op ∧ op ≤ 0x23) ∨ op = 0x38 ∨ op = 0x39 then [d, a]
       else if op = 0x3C ∨ op = 0x3F then []
       else [d, a, b])
    else
      match op with
      | 0x00 => [d, a]
      | 0x08 | 0x09 => if f = 0 ∨ f = 1 ∨ f = 4 then [a, b] else [a]
      | 0x0A => [a]
      | 0x11 => [b]
      | 0x14 => if f / 16 = 1 then [b] else []
      | 0x15 => if f = 6 then [a] else []
      | 0x16 => if f = 1 then [a] else if f = 2 then [b] else []
      | 0x18 => if f = 1 ∨ f = 2 then [b] else []
      | 0x1B => if f = 9 then [a] else []
      | 0x20 => if f < 16 then [a, b] else [d, a, b]
      | 0x21 => if f = 1 then [d] else []
      | 0x22 => if f / 8 = 1 then [a] else []
      | 0x30 => if f = 3 ∨ f = 8 ∨ f = 9 then [a, b] else if 4 ≤ f ∧ f ≤ 6 then [c] else []
      | _ => []

/-- The scalar registers that entries of the vector queue will still write (05 R157). -/
def Strand.pendingRegs (x : Strand) : List Reg :=
  x.queue.flatMap fun q =>
    (opWrites q.op q.vt).filterMap fun (r : RegRun) => if r.1 = 3 then some (BitVec.ofNat 5 r.2.1) else none

/-- An instruction that names a register which a queued instruction will still write waits for it (03 R74, 05 R157). A strand
above application level, whose queue is held (04 R144), does not wait. -/
def Strand.interlocked (x : Strand) (w : Words) : Bool :=
  !x.queue.isEmpty && decide (x.ctl.priv = .app) &&
    (x.pendingRegs.any fun r => !decide (r = 0) && (namedRegs x.ctl w).elem r)

/-! ### After an instruction -/

/-- The encoding is a branch or a jump, which may leave the state as it was. -/
def isJump : Words → Bool
  | .w16 w => decide (13 ≤ (w.extractLsb' 10 4).toNat)
  | .w32 w => bodyJumps w
  | .w64 _ w => bodyJumps w
  | .event => false
where
  /-- A body of class S with op 0x10 to 0x17. -/
  bodyJumps (w : BitVec 32) : Bool :=
    decide (w.extractLsb' 14 2 = 1#2) && decide ((w.extractLsb' 8 6).toNat / 8 = 2)

/-- After a strand's instruction: time passes, and a context that a debugger steps halts again (05 R178), once the data of its access has
come. -/
def State.afterIssue (s : State) (before : State) : State :=
  let t := s.tick
  let x := before.me
  if x.step && x.attach then
    let y := t.onStrand before.tid fun y => if y.hcause = 0 then { y with hcause := 3 } else y
    if (y.strand before.tid).waits then y else y.push (.debugHalt before.tid)
  else t

/-! ### While a scalar access is out (03 R86, R92) -/

/-- The destination of the scalar access whose data is out. -/
def Strand.dueReg (x : Strand) : Option Reg := (x.pend.find? fun p => decide (p.owner = .scalar)).map Pend.d

/-- From `before` to `after` nothing has changed but what a fault of the access that is out takes back: registers, the program counter,
control registers at the same level, entries added to the vector queue and the mark of TRIGGER, with the steps that these make due. Such
an instruction needs no memory and issues while an access is out (03 R92); one that traps waits (04 R142). -/
def onlyLocal (before after : State) : Bool :=
  let x := after.me
  let y := before.me
  let bare : Pend → Pend := fun p => { p with back := none }
  decide (x.ctl.priv = y.ctl.priv) && !(decide (x.pc = y.ctl.tvec) && decide (x.ctl.epc = y.pc))
    && decide (x.pend.map bare = y.pend.map bare)
    && decide (after = { before with
      agenda := before.agenda ++ after.agenda.drop before.agenda.length
      fresh := after.fresh
      me := { y with
        regs := x.regs, pc := x.pc, ctl := x.ctl, pend := x.pend, queue := y.queue ++ x.queue.drop y.queue.length
        trigIssued := x.trigIssued, trigAt := x.trigAt } })

/-- The registers that an instruction has changed since `old` join what a fault of the access in progress takes back; the flags that it
has raised are no part of what that fault leaves. -/
def Strand.noteUndo (x old : Strand) : Strand :=
  let us := (List.range 32).filterMap fun i =>
    let r : Reg := BitVec.ofNat 5 i
    if x.regs[r.toNat]'r.isLt = old.regs[r.toNat]'r.isLt then none else some (r, old.regs[r.toNat]'r.isLt)
  { x with pend := old.pend.map fun p =>
      if p.owner = .scalar then { p with back := p.back.map fun b => { b with undo := us ++ b.undo } } else p }

/-! ### The turn of a context (05 R150, R151) -/

/-- What a context does with its turn. -/
inductive Attempt
  /-- It issues an instruction, or something takes the place of one: the outcome of the step. -/
  | issues (r : Result)
  /-- It is not ready: the state after its fetch. -/
  | passes (s : State)

/-- The context has issued: its core's pointer moves to it (05 R150). -/
def State.pointed (s : State) (t : Tid) : State := s.onCore t.core fun c => { c with pointer := t.ctx }

/-- The instruction has issued: it has moved the program counter, the state of its context or its control registers, or is a jump; one
that is held does none of these. -/
def hasIssued (before after : State) : Bool :=
  isJump before.ir || !decide (after.me.pc = before.me.pc ∧ after.me.run = before.me.run ∧ after.me.ctl = before.me.ctl)

/-- The instruction of the strand in focus has been executed, in the state `before`, with this outcome. -/
def State.outcome (before : State) : Result → Attempt
  | .next t =>
    if !hasIssued before t then .passes t
    else if !before.me.waits then .issues (.next ((t.pointed before.tid).afterIssue before))
    else if onlyLocal before t then
      .issues (.next (((t.onMe fun x => x.noteUndo before.me).pointed before.tid).afterIssue before))
    else .passes before
  | r => .issues r

/-- A trap that takes the place of an instruction (04 R139, 05 R178): not while an access is out. -/
def State.trapTurn (before after : State) : Attempt :=
  if before.me.waits then .passes before else .issues (.next ((after.pointed before.tid).afterIssue before))

/-- The strand in focus tries to issue: it halts or its core stops it, or the instruction at its program counter is fetched, decoded
and executed by `run`, which answers none for words that do not decode. -/
def State.attempt (run : Words → State → Option Result) (s : State) : Attempt :=
  match s.turn with
  | (s0, true) => .issues (.next s0.tick)
  | (s0, false) =>
    if s0.me.haltDue || (s0.me.step && s0.me.attach && s0.me.waits) then .passes s0
    else
      match ({ s0 with ir := .event } : State).fetch with
      | (s1, .error .hold) => .passes s1
      | (s1, .error (.fault a)) => State.trapTurn { s1 with ir := .event } (s1.fetchFault a)
      | (s1, .ok w) =>
        let s2 := { s1 with ir := w }
        if s1.me.interlocked w || (match s1.me.dueReg with | some d => !decide (d = 0) && (namedRegs s1.me.ctl w).elem d | none => false) then
          .passes s1
        else
          match run w s2 with
          | none => s2.trapTurn (s2.takeTrap s2.illegal)
          | some r => s2.outcome r

/-- The contexts of a core in the order in which it examines them; the first that is ready issues, and the others are passed over
(05 R150). -/
def State.tryAll (run : Words → State → Option Result) (s : State) : List Tid → Result
  | [] => .next s.tick
  | t :: ts =>
    match (s.focus t).attempt run with
    | .issues r => r
    | .passes s1 => State.tryAll run s1 ts

/-- The turn of a core. -/
def State.coreTurn (run : Words → State → Option Result) (s : State) (c : Nat) : Result := s.tryAll run (s.examined c)

/-- The event at the head of the agenda and the rest of it. The command processor serves the lowest of the queues that wait for it
(14 R409). -/
def nextEvent : List Event → Option (Event × List Event)
  | [] => none
  | .cpServePacket q :: r =>
    let least := r.foldl (fun (m : BitVec 8) e => match e with | .cpServePacket k => if k.toNat < m.toNat then k else m | _ => m) q
    if least = q then some (.cpServePacket q, r) else some (.cpServePacket least, .cpServePacket q :: r.erase (.cpServePacket least))
  | e :: r => some (e, r)

/-- The event needs no clock of the package: reset and power (15 R434, R438, R439). -/
def clockless (e : Event) : Bool := decide (e = .packageReset) || decide (e = .powerLoss) || decide (e = .thermtrip)

/-- The event of the agenda that happens next, and the rest of the agenda; while the clock is stopped nothing issues or computes, and only
reset and power act (14 R421, 15 R437). -/
def State.nextStep (s : State) : Option (Event × List Event) :=
  if s.sys.lull.stopped s.time then (s.agenda.find? clockless).map fun e => (e, s.agenda.erase e) else nextEvent s.agenda

end Sys2Proof.Machine
end

