-- ==== Sys2Proof/Machine/Step.lean ====
section
/-! DEFINITION. One step of the package: a step of the agenda, an event of the calendar, work of the allocators and engines that
is due, or the next instruction of the next ready context (log 1, log 8). -/

namespace Sys2Proof.Machine

open Sys2Proof

noncomputable section

/-- The words of an instruction decoded and executed; none when they do not decode. -/
def execWords (w : Words) (s : State) : Option Result :=
  match decodeWords w with
  | .error _ => none
  | .ok i => some (exec i s)

/-- One step. -/
def step (s : State) : Host.Outcome State Fault Refusal :=
  match s.nextStep with
  | some (e, r) =>
    if s.sys.power || decide (e = .packageReset) then exec (eventInstr e) { s with agenda := r, ir := .event }
    else .fault .noPower
  | none =>
    if !s.sys.power then .fault .noPower
    else
      match s.dueNow with
      | some e => exec (eventInstr e) { s with ir := .event }
      | none =>
        match s.pick with
        | some c => s.coreTurn execWords c
        | none => .next s.tick

end

/-- `execWords` as compiled code runs it (log 23). -/
def execWordsFast (w : Words) (s : State) : Option Result :=
  match decodeOp w with
  | .error _ => none
  | .ok d => some (execDecoded d s)

theorem execWords_eq_fast : execWords = execWordsFast := by
  funext w s
  unfold execWords execWordsFast decodeWords
  cases h : decodeOp w with
  | error e => simp [Except.map]
  | ok d => simp [Except.map, exec_decoded]

/-- `step` as compiled code runs it (log 23). -/
def stepFast (s : State) : Host.Outcome State Fault Refusal :=
  match s.nextStep with
  | some (e, r) =>
    if s.sys.power || decide (e = .packageReset) then execEvent e { s with agenda := r, ir := .event }
    else .fault .noPower
  | none =>
    if !s.sys.power then .fault .noPower
    else
      match s.dueNow with
      | some e => execEvent e { s with ir := .event }
      | none =>
        match s.pick with
        | some c => s.coreTurn execWordsFast c
        | none => .next s.tick

@[csimp] theorem step_eq_fast : @step = @stepFast := by
  funext s
  unfold step stepFast
  simp only [exec_eventInstr, execWords_eq_fast]

/-- The leaf that `withFetchWord` maps the code page with: valid, pinned, read, write and fetch permitted. -/
def bootLeaf : Word := 0x9000000000010078

/-- The lines that `withFetchWord` writes: the code and the three page-table entries. -/
def bootLines : List Nat := [0x10000 / 64, 0x20000 / 64, 0x30000 / 64, 0x40000 / 64]

/-- The strand in focus runs at the program counter 0x10000 of its tenant, and the code page there holds the bytes: what a
launch does before its first instruction (log 2). -/
def State.withFetchWord (s : State) (nbits w : Nat) : State :=
  let bs := bytesOf maxInstrBytes (w % 2 ^ nbits)
  let x : Strand :=
    { s.me with run := .running, held := false, hcause := 0, haltreq := false, pc := 0x10000, pend := [], queue := [], fbuf := none, grant := none, step := false, ctl := { s.me.ctl with priv := .app } }
  let boot := fun k => bootLines.any fun l => decide (l = k)
  let s1 := { s with
    me := x, agenda := []
    mem := (((s.mem.setBytes 0x10000 bs).setBytes 0x20000 (natLe 0x8000000000030000 8)).setBytes 0x30000
      (natLe 0x8000000000040000 8)).setBytes 0x40008 (natLe bootLeaf.toNat 8)
    poison := s.poison.dropWhere fun k => boot (k / 8)
    synd := s.synd.dropWhere fun k => boot (k / 8)
    lineKey := s.lineKey.dropWhere boot
    others := s.others.map fun (e : Nat × Strand) => (e.1, { e.2 with held := true })
    sys := { s.sys with
      power := true, fatal := false, migrating := []
      lull := { s.sys.lull with phase := .clear, start := s.time + 7680, work := Chores.none, lateWork := [], joined := false, late := 0, spanLong := false } } }
  let s2 := (s1.wr (rPtroot s.tid.die s.me.ctl.tenant.toNat) 0x20001).onCluster s.tid.cluster fun c => { c with tlb := [] }
  s2.onCore s.tid.core fun c => { c with icache := [], pointer := (s.tid.ctx + 3) % 4 }

end Sys2Proof.Machine
end

