-- ==== Sys2Proof/Safety.lean ====
section
/-! DEFINITION. What a safe run is, and the terms in which claims about one instruction are stated: what it writes, what it
leaves as it was, and where it traps. -/

namespace Sys2Proof.Machine

open Sys2Proof

/-- The tables that the machine's memory rests on are in canonical form. -/
def State.canonical (s : State) : Bool :=
  s.mem.wf && NMap.wf false s.poison && NMap.wf 0 s.synd && NMap.wf 0 s.lineKey && NMap.wf 0 s.fw

/-- Memory is canonical and no stop has been reached: what a safe step leaves. -/
def safeStep (s : State) : Prop :=
  match step s with
  | .next t => t.mem.wf = true
  | .fault _ => s.sys.power = false
  | .refused _ => False

/-! ### What one instruction does -/

/-- `t` is `s` but for the program counter, the scalar registers and the last destination of the strand in focus: every flag and
control register, every vector register, every queue, every other context, every byte of memory and every register of the package
is as it was. -/
def KeptButRegs (s t : State) : Prop :=
  t = { s with
        me := { s.me with
          pc := t.me.pc
          regs := t.me.regs
          ctl := { s.me.ctl with
            ld := t.me.ctl.ld
            ldv := t.me.ctl.ldv } } }

/-- `t` is `s` after an instruction of `len` bytes that wrote `v` to scalar register `d`: the pc stands past it, a write to s0 is
discarded (01 R16), every other register keeps its value, the last destination is `d`, or none for s0 (01 R27), and nothing else
changed. -/
def Wrote (s t : State) (len : Nat) (d : Reg) (v : Word) : Prop :=
  t.me.pc = s.me.pc + word len
    ∧ t.reg d = (if d = 0 then 0 else v)
    ∧ (∀ r, r ≠ d → t.reg r = s.reg r)
    ∧ t.me.ctl.ldv = decide (d ≠ 0)
    ∧ t.me.ctl.ld = (if d = 0 then s.me.ctl.ld else d)
    ∧ KeptButRegs s t

/-- `t` is `s` after a class V instruction of `len` bytes in the scalar stream that wrote `v` to scalar register `d`: as `Wrote`, but
no last destination is valid (01 R27). -/
def WroteV (s t : State) (len : Nat) (d : Reg) (v : Word) : Prop :=
  t.me.pc = s.me.pc + word len
    ∧ t.reg d = (if d = 0 then 0 else v)
    ∧ (∀ r, r ≠ d → t.reg r = s.reg r)
    ∧ t.me.ctl.ldv = false
    ∧ t.me.ctl.ld = s.me.ctl.ld
    ∧ KeptButRegs s t

/-- `t` is `s` after an instruction that wrote no register and left the pc at `pc`: nothing else changed, and no last destination
is valid (01 R27). -/
def Went (s t : State) (pc : Word) : Prop :=
  t.me.pc = pc
    ∧ (∀ r, t.reg r = s.reg r)
    ∧ t.me.ctl.ldv = false
    ∧ t.me.ctl.ld = s.me.ctl.ld
    ∧ KeptButRegs s t

/-- `t` is `s` after a jump to `pc` that wrote `v` to scalar register `d`. -/
def Linked (s t : State) (pc : Word) (d : Reg) (v : Word) : Prop :=
  t.me.pc = pc
    ∧ t.reg d = (if d = 0 then 0 else v)
    ∧ (∀ r, r ≠ d → t.reg r = s.reg r)
    ∧ t.me.ctl.ldv = decide (d ≠ 0)
    ∧ t.me.ctl.ld = (if d = 0 then s.me.ctl.ld else d)
    ∧ KeptButRegs s t

/-- `t` is `s` after a trap of the instruction at the pc (04 R142, 01 R27): EPC, CAUSE, TVAL, TVAL2, PPRIV, PRIV, PLD, PLDV and LDV
as the rules say, the pc at TVEC, and nothing else changed, but that a store no longer waits at the pc for the write queue, and that a
vector instruction of order sc in progress, which a held queue does not continue, no longer keeps others of that order from performing:
they are looked at again (04 R130). -/
def Trapped (s t : State) (cause : BitVec 7) (tval tval2 : Word) : Prop :=
  t = { s with
        me := { s.me with
          fullAt := none
          pc := s.me.ctl.tvec
          ctl := { s.me.ctl with
            epc := s.me.pc
            cause := cause
            tval := tval
            tval2 := tval2
            ppriv := s.me.ctl.priv
            priv := .sup
            pld := s.me.ctl.ld
            pldv := s.me.ctl.ldv
            ldv := false } }
        sys := { s.sys with scRun := if s.sys.scRun = some s.tid then none else s.sys.scRun }
        agenda := t.agenda }
    ∧ (∃ es, t.agenda = s.agenda ++ es)
    ∧ (s.sys.scRun ≠ some s.tid → t.agenda = s.agenda)

/-- Instruction `i` in `s` completes and writes `v` to `d`. -/
def Writes (i : Instr) (s : State) (len : Nat) (d : Reg) (v : Word) : Prop :=
  ∃ t, exec i s = .next t ∧ Wrote s t len d v

/-- Class V instruction `i` in `s` completes and writes `v` to `d`. -/
def WritesV (i : Instr) (s : State) (len : Nat) (d : Reg) (v : Word) : Prop :=
  ∃ t, exec i s = .next t ∧ WroteV s t len d v

/-- Instruction `i` in `s` completes, raises these flags of FFLAGS and IFLAGS and writes `v` to `d`. -/
def WritesFlags (i : Instr) (s : State) (len : Nat) (d : Reg) (v : Word) (f : BitVec 5) (g : BitVec 4) : Prop :=
  ∃ t, exec i s = .next t ∧ Wrote ((s.raiseF f).raiseI g) t len d v

/-- Instruction `i` in `s` completes, writes no register and leaves the pc at `pc`. -/
def Goes (i : Instr) (s : State) (pc : Word) : Prop :=
  ∃ t, exec i s = .next t ∧ Went s t pc

/-- Instruction `i` in `s` jumps to `pc` and writes `v` to `d`. -/
def Links (i : Instr) (s : State) (pc : Word) (d : Reg) (v : Word) : Prop :=
  ∃ t, exec i s = .next t ∧ Linked s t pc d v

/-- Instruction `i` in `s` traps. -/
def Traps (i : Instr) (s : State) (cause : BitVec 7) (tval tval2 : Word) : Prop :=
  ∃ t, exec i s = .next t ∧ Trapped s t cause tval tval2

/-- Instruction `i` in `s` answers `u`, with follow-up steps added to the agenda. -/
def LeadsTo (i : Instr) (s u : State) : Prop := ∃ es, exec i s = .next { u with agenda := u.agenda ++ es }

/-! ### Control registers -/

/-- The state after a write of a control register that leaves the control registers `c`: the pc past the instruction, no last
destination valid, and nothing else changed. -/
def State.withCtl (s : State) (c : Ctl) : State :=
  { s with me := { s.me with pc := s.me.pc + 4, ctl := { c with ldv := false } } }

/-- A WRC, SETC or CLRC of register `n` that would leave the value `v` in it (03 R105), whichever register it names, answers `r`. -/
def CtlWrites (s : State) (n : BitVec 12) (v : Word) (r : Result) : Prop :=
  ∀ a, let old := (s.ctlValue n.toNat).getD 0
    (v = s.reg a → exec (.wrc a n) s = r) ∧ (v = old ||| s.reg a → exec (.setc a n) s = r) ∧
    (v = old &&& ~~~(s.reg a) → exec (.clrc a n) s = r)

/-- Such a write traps with the encoding in TVAL. -/
def CtlTraps (s : State) (n : BitVec 12) (v : Word) (cause : BitVec 7) : Prop :=
  ∃ t, CtlWrites s n v (.next t) ∧ Trapped s t cause (Words.enc s.ir) 0

/-! ### The vector queue -/

/-- What an instruction that enters the vector queue captures (01 R22, R23, R37): its operation and encoding, its scalar operands,
ES as its first element, and the control registers its elements use. -/
def captured (s : State) (op : VOp) (x y : Word) : QEntry :=
  { id := s.fresh, op := op, raw := s.ir, x := x, y := y, first := s.me.ctl.es.toNat, next := s.me.ctl.es.toNat, started := s.me.ctl.es.toNat
    vl := s.me.ctl.vl.toNat, vt := s.me.ctl.vt, frm := s.me.ctl.frm, seed := s.me.ctl.seed, sbase := s.me.ctl.sbase
    rns := s.me.ctl.rnscfg, trows := s.me.ctl.trows.toNat, tcols := s.me.ctl.tcols.toNat, rchk := s.me.ctl.rchk
    part := s.me.ctl.part, oldTables := [], handed := false, done := false, fault := none, recheck := [] }

/-- `s` after an instruction of `len` bytes has entered the vector queue (05 R156, 01 R23): the entry is the youngest, ES is 0, the
pc is past the instruction, no last destination is valid, the counter of free values has moved past the entry's number, and nothing else
has changed. -/
def State.entered (s : State) (len : Nat) (op : VOp) (x y : Word) : State :=
  { s with
    me := { s.me with
      pc := s.me.pc + word len
      queue := s.me.queue ++ [captured s op x y]
      ctl := { s.me.ctl with es := 0, ldv := false } }
    fresh := s.fresh + 1 }

/-- A queued instruction with operation `op` and first scalar operand `x` meets no check at issue (02 R55, 04 R144) and the queue
has room: application level, a grant unless it is a fence, a kind and width that the operation accepts (08 R238), registers that
exist and do not overlap where they may not (01 R29, 08 R240), and its own checks (10 R296, R301, R315, 09 R284, 11 R342). -/
structure State.MayEnter (s : State) (op : VOp) (x : Word) : Prop where
  level : s.me.ctl.priv = .app
  grant : s.me.ctl.lg ≠ 0 ∨ ∃ v sc, op = .fence v sc
  kind : s.me.ctl.kindOk op = true
  registers : s.me.ctl.regsLegal op = true
  own : s.issueTrap op x = none
  room : s.me.queue.length < 8

/-- Instruction `i` of `len` bytes, when nothing stops it at issue, enters the vector queue as `op` with scalar operands `x` and `y`.
Its entry is handed to the chaining sequencer in a later step; a state that completes issued work in its issue step runs the queue
at once (log 10). -/
def Enters (i : Instr) (s : State) (len : Nat) (op : VOp) (x y : Word) : Prop :=
  s.MayEnter op x → exec i s = .next (if s.eager then (s.entered len op x y).pumpFocus
    else { s.entered len op x y with agenda := s.agenda ++ [.sequencerHandoff s.tid] })

/-- Instruction `i` enters the vector queue as `op`. -/
def Queues (i : Instr) (op : VOp) : Prop := vopOfInstr i = some op ∨ ∃ l, Late.instr l = i ∧ vopOfLate l = some op

/-- The strand in focus runs at application level with an empty queue, no access outstanding of an entry numbered as the next one,
and lanes that are not being filled and hold no error and no injection, in a state that completes issued work in its issue step (log 10). -/
structure State.LanesCalm (s : State) : Prop where
  eager : s.eager = true
  running : s.me.run = .running
  level : s.me.ctl.priv = .app
  free : s.me.held = false
  noQueue : s.me.queue = []
  noSlot : ∀ q, (s.me.slot q).phase ≠ .busy
  noSend : s.me.sends = []
  noTrigger : s.me.trigIssued = false
  noPoison : s.me.vec.regPoison = []
  noSyndrome : s.me.vec.regSynd = []
  noInjection : bitOf (s.rd (rDinj s.tid.cluster)) 63 = false
  noRecheck : s.me.ctl.rchk = false
  noCopy : s.laneCopying = false
  noStale : ∀ p ∈ s.me.pend, p.ofEntry s.fresh = false
  registers : NMap.wf 0 s.me.vec.regs = true
  masks : NMap.wf false s.me.vec.masks = true

/-- `t` is `s` but for the vector registers, the mask registers, the pc, ES and the last destination of the strand in focus, and the
number of the next queue entry. -/
def KeptButVec (s t : State) : Prop :=
  t = { s with fresh := s.fresh + 1, me := { s.me with
          pc := t.me.pc
          vec := { s.me.vec with regs := t.me.vec.regs, masks := t.me.vec.masks }
          ctl := { s.me.ctl with es := 0, ldv := false } } }

/-- Nothing stands in the way of a vector instruction of the strand in focus: its lanes are calm, its element width is one of the four
of 08 R237, no stream slot stands before queued work, ES is at most VL, and VL is at most what a register holds. -/
structure State.VecReady (s : State) : Prop extends State.LanesCalm s where
  width : s.me.ctl.vt.toNat % 8 ≤ 3
  slots : ∀ q, (s.me.slot q).ahead = 0
  first : s.me.ctl.es.toNat ≤ s.me.ctl.vl.toNat
  length : s.me.ctl.vl.toNat ≤ s.me.capacity (vtSew s.me.ctl.vt)
  words : s.me.capacity (vtSew s.me.ctl.vt) ≤ 65536 * (64 / vtSew s.me.ctl.vt)

/-- The elements on which an instruction with mask `m` acts: from `lo` below VL, active (08 R241). -/
def State.actives (s : State) (m : MReg) (lo : Nat) : List Nat :=
  (List.range s.me.ctl.vl.toNat).filter fun k => decide (lo ≤ k) && s.me.vec.active m.toNat k

/-- `s` with the flags of these results raised. -/
def State.flagged (s : State) (l : List Elem) : State :=
  (s.raiseF (l.foldl (fun f e => f ||| e.ff) 0)).raiseI (l.foldl (fun f e => f ||| e.fi) 0)

/-- `t` is `s` after a vector instruction that raised the flags of the results `l` and wrote the vector registers `d` to `d + g - 1`, of
which element `k` of register `d + j`, of width `sew`, now holds `f j k`, `k` below `cap`: every other vector register and every mask
register is as it was, the pc is past the instruction, ES is 0, and nothing else changed. -/
structure VecWrote (s t : State) (l : List Elem) (d g sew cap : Nat) (f : Nat → Nat → Nat) : Prop where
  frame : KeptButVec (s.flagged l) t
  pc : t.me.pc = s.me.pc + 4
  masks : t.me.vec.masks = s.me.vec.masks
  others : ∀ n w, n < d ∨ d + g ≤ n → w < 65536 → t.me.vec.word n w = s.me.vec.word n w
  elems : ∀ j k, j < g → k < cap → t.me.vec.elem sew (d + j) k = f j k

/-- What 08 R241 leaves in element `k` of destination register `n` under mask `m`: `x` where it is active, what it held below ES, and
by VT.MPOL and VT.TAIL where it is masked off or beyond VL. -/
def State.byRule (s : State) (m : MReg) (n k x : Nat) : Nat :=
  let old := s.me.vec.elem (vtSew s.me.ctl.vt) n k
  if k < s.me.ctl.es.toNat then old
  else if k < s.me.ctl.vl.toNat then
    (if s.me.vec.active m.toNat k then x else if s.me.ctl.vt.getLsbD 10 then 0 else old)
  else if s.me.ctl.vt.getLsbD 9 then 0 else old

/-- Vector instruction `i` completes: element `k` of register `j` of its destination group takes the result `r j k` by 08 R241, and the
flags of the active results are raised. -/
def WritesElems (i : Instr) (s : State) (d : Reg) (m : MReg) (r : Nat → Nat → Elem) : Prop :=
  ∃ t, exec i s = .next t ∧
    VecWrote s t ((s.actives m s.me.ctl.es.toNat).flatMap fun k => (List.range (vtGroup s.me.ctl.vt)).map fun j => r j k)
      d.toNat (vtGroup s.me.ctl.vt) (vtSew s.me.ctl.vt) (s.me.capacity (vtSew s.me.ctl.vt))
      fun j k => s.byRule m (d.toNat + j) k (r j k).bits

/-- Vector instruction `i` completes: bit `k` of its destination mask takes the result `r k` by 08 R241, a write of m0 is discarded, and
the flags `ff` of the active results are raised. -/
def WritesBits (i : Instr) (s : State) (d m : MReg) (r : Nat → Bool × BitVec 5) : Prop :=
  ∃ t, exec i s = .next t ∧ t.me.pc = s.me.pc + 4 ∧ t.me.vec.regs = s.me.vec.regs ∧
    KeptButVec (s.flagged ((s.actives m s.me.ctl.es.toNat).map fun k => ⟨0, (r k).2, 0⟩)) t ∧
    (∀ n k, n ≠ d.toNat ∨ n = 0 → k < 2 ^ 20 → t.me.vec.mask n k = s.me.vec.mask n k) ∧
    (d ≠ 0 → ∀ k, k < s.me.capacity (vtSew s.me.ctl.vt) → t.me.vec.mask d.toNat k =
      if k < s.me.ctl.es.toNat then s.me.vec.mask d.toNat k
      else if k < s.me.ctl.vl.toNat then
        (if s.me.vec.active m.toNat k then (r k).1 else !s.me.ctl.vt.getLsbD 10 && s.me.vec.mask d.toNat k)
      else !s.me.ctl.vt.getLsbD 9 && s.me.vec.mask d.toNat k)

/-- Permutation `i` completes: where VL is at most ES nothing is written, else element `k` of register `j` of its destination group
becomes `f j k`, from element 0 upward (09 R265). -/
def Permutes (i : Instr) (s : State) (d : Reg) (f : Nat → Nat → Nat) : Prop :=
  ∃ t, exec i s = .next t ∧
    VecWrote s t [] d.toNat (vtGroup s.me.ctl.vt) (vtSew s.me.ctl.vt) (s.me.capacity (vtSew s.me.ctl.vt))
      fun j k => if s.me.ctl.vl.toNat ≤ s.me.ctl.es.toNat then s.me.vec.elem (vtSew s.me.ctl.vt) (d.toNat + j) k else f j k

/-- Reduction `i` completes: where VL is at most ES nothing is written, else element 0 of its destination becomes `r`, the others are tail
(09 R273), and the flags of `r` are raised. -/
def Reduces (i : Instr) (s : State) (d : Reg) (r : Elem) : Prop :=
  ∃ t, exec i s = .next t ∧
    VecWrote s t (if s.me.ctl.vl.toNat ≤ s.me.ctl.es.toNat then [] else [r]) d.toNat 1 (vtSew s.me.ctl.vt) (s.me.capacity (vtSew s.me.ctl.vt))
      fun _ k => if s.me.ctl.vl.toNat ≤ s.me.ctl.es.toNat then s.me.vec.elem (vtSew s.me.ctl.vt) d.toNat k
        else if k = 0 then r.bits
        else if s.me.ctl.vt.getLsbD 9 then 0 else s.me.vec.elem (vtSew s.me.ctl.vt) d.toNat k

/-- The sum of the `2^n` leaves from `lo` upward, as the tree of 07 R233 pairs them: a node with one branch absent is the other branch. -/
def pairSum (f : FF) (mode : RMode) (leaf : Nat → Option Nat) : Nat → Nat → Option Elem
  | 0, lo => (leaf lo).map plain
  | n + 1, lo =>
    match pairSum f mode leaf n lo, pairSum f mode leaf n (lo + 2 ^ n) with
    | some x, some y =>
      let r := f.add mode (f.value x.bits) (f.value y.bits)
      some ⟨r.1, x.ff ||| y.ff ||| r.2, 0⟩
    | some x, none => some x
    | none, y => y

/-- Matrix instruction `i` of `len` bytes completes: cell (p, q) of tile `g` becomes `f p q`, the tile's guard weight `w`, and these flags
are raised; every other tile, vector register and mask register is as it was, the pc is past it, ES is 0, and nothing else changed. -/
def WritesCells (i : Instr) (len : Nat) (s : State) (g : MReg) (w : Nat) (ff : BitVec 5) (fi : BitVec 4) (f : Nat → Nat → Word) : Prop :=
  ∃ t, exec i s = .next t ∧
    (let u := (s.raiseF ff).raiseI fi
     t = { u with fresh := s.fresh + 1, me := { u.me with
             pc := s.me.pc + word len
             vec := { u.me.vec with tiles := t.me.vec.tiles, weights := t.me.vec.weights }
             ctl := { u.me.ctl with es := 0, ldv := false } } }) ∧
    (∀ p q, p < s.me.tileSide → q < s.me.tileSide → t.me.vec.cell g.toNat p q = f p q) ∧
    (∀ k p q, k ≠ g.toNat → p < 64 → q < 64 → t.me.vec.cell k p q = s.me.vec.cell k p q) ∧
    t.me.vec.weight g.toNat = w ∧ ∀ k, k ≠ g.toNat → t.me.vec.weight k = s.me.vec.weight k

/-! ### Registers reached by address -/

/-- `t` is `s` but for the register at address `r`, which now holds `v`: every other register holds what it did. -/
def RegBecomes (s t : State) (r : Nat) (v : Word) : Prop :=
  t = { s with fw := t.fw } ∧ t.rd r = v ∧ ∀ q, q / 8 ≠ r / 8 → t.rd q = s.rd q

/-- `i` in `s` completes and leaves `u` but for the register at `r`, which now holds `v`. -/
def SetsReg (i : Instr) (s u : State) (r : Nat) (v : Word) : Prop := ∃ t, exec i s = .next t ∧ RegBecomes u t r v

/-- `t` is `s` but for the registers at `r` and `q`, which now hold `v` and `w`. -/
def RegsBecome (s t : State) (r : Nat) (v : Word) (q : Nat) (w : Word) : Prop :=
  t = { s with fw := t.fw } ∧ t.rd r = v ∧ t.rd q = w ∧ ∀ p, p / 8 ≠ r / 8 → p / 8 ≠ q / 8 → t.rd p = s.rd p

/-- `m` is `s`'s memory with `n` bytes from memory key `p` reading as zero: every other byte reads as before. -/
def Wiped (s : State) (m : Memory) (p n : Nat) : Prop := ∀ k, m.byte k = if p ≤ k ∧ k < p + n then 0 else s.mem.byte k

/-! ### L2 slices and memory-side caches -/

/-- A table of cache sets holds line `l` in set `k`. -/
def Holds (m : NMap (List CacheLine)) (k : Nat) (l : CacheLine) : Prop := ∃ x, (k, x) ∈ m ∧ l ∈ x

/-- `t` asks the DRAM controllers for some lines after all that `s` had to do, and has nothing else to do more than `s`. -/
def AsksDram (s t : State) : Prop := ∃ es, (∀ e ∈ es, ∃ p, e = Event.dramAccess p) ∧ t.agenda = s.agenda ++ es

/-! ### The stream engine -/

/-- Instruction `i` of `len` bytes takes slot `q` in `u`: the slot is BUSY with the form and operands captured and nothing done, its
old completion message is removed, the pc passes, and the engine is called, or the copy has ended without an access. -/
def Copies (i : Instr) (s u : State) (len : Nat) (f : StreamForm) (d a b : Reg) (q : BitVec 2) (x : Option (BitVec 5)) : Prop :=
  ∃ t, exec i s = .next t ∧
    (let sl := t.me.slot q
     sl.phase = .busy ∧ sl.form = f ∧ sl.a = s.reg a ∧ sl.b = s.reg b ∧ sl.sd = s.reg d ∧ sl.d = d ∧ sl.vl = s.me.ctl.vl.toNat
      ∧ sl.vt = s.me.ctl.vt ∧ sl.arrive = x ∧ sl.count = 0 ∧ sl.ahead = s.me.queue.length
      ∧ (sl.ended = false → .streamUnit (BitVec.ofNat 7 s.tid.cluster) ∈ t.agenda)
      ∧ (sl.ended = true → .streamCopyDone s.tid q ∈ t.agenda ∧ (sl.status = 4 ∨ sl.status = 0 ∧ s.reg b = 0))
      ∧ (∀ p, p ≠ q → t.me.slot p = u.me.slot p))
    ∧ t.me.msgs = (u.me.msgs.filter fun m => !m.isCompletion q)
    ∧ (t.me.pend = u.me.pend ∨ t.me.pend = (u.me.dropSlot q).pend)
    ∧ t = { u with
            agenda := t.agenda
            clusters := t.clusters
            me := { u.me with pc := u.me.pc + word len, slots := t.me.slots, msgs := t.me.msgs, pend := t.me.pend
                              ctl := { u.me.ctl with ldv := false } } }
    ∧ (x = none → t.clusters = u.clusters)

/-- The first word `w` of the entry that a handle names, read as VSTREAM reads it at issue, and the state `u` after that read: the
tenant has a table, the entry's bytes are near, and the read answers them (11 R325, R329). -/
def HandleRead (s : State) (h : Word) (u : State) (w : Nat) : Prop :=
  let a := { s.agent with app := true }
  ∃ va parts v bs, s.handleEntry s.tid.cluster s.me.ctl.tenant.toNat (fld h 0 8) = some va
    ∧ s.resolve a .eread va 8 = .ok parts ∧ (∀ p ∈ parts, p.1.far = false)
    ∧ s.readParts a false va parts = (v, .ok bs) ∧ u = v.noteAccess a va (parts.map Prod.snd) ∧ w = leNat bs

/-- The request or resume of cluster `c` that a new mark is attached to: the first, in the order of R201, that has no mark attached,
or none where each of them has one (06 R203). -/
def AttachesTo (s : State) (c : Nat) : Option Tid → Prop
  | some t => ∃ l r, s.resumable c ++ s.requests c = l ++ t :: r ∧ s.markedFor c t = false ∧ ∀ u ∈ l, s.markedFor c u = true
  | none => ∀ u ∈ s.resumable c ++ s.requests c, s.markedFor c u = true

/-- The tables of the clusters, of their TLBs and of the TLBs of their lane groups are in canonical form. -/
def State.tlbsCanonical (s : State) : Prop :=
  NMap.wf Cluster.reset s.clusters = true ∧
    ∀ c, NMap.wf [] (s.cluster c).tlb = true ∧ NMap.wf [] (s.cluster c).laneTlb = true

/-- Table `m` of TLB entries has become `n`: it lists what it listed, in order, but for the entries that TLBINV `w` names: those of its
tenant, all of them with ALL, else those of the page at VPN (13 R391). -/
def DropsNamed (w : Word) (l m : List TlbEntry) : Prop :=
  m = l.filter fun e => !(decide (e.tenant = fld w 32 5)
    && (bitOf w 61 || decide (e.vpn = if e.big then fld w 0 32 / 2 ^ 13 else fld w 0 32)))

/-! ### The private window -/

/-- The memory key of offset `o` in the private window of the strand in focus: its context's 8 KiB of its core's TCM, above the
64 KiB of the core scratchpad (01 R31, 05 R160). -/
def State.privKey (s : State) (o : Nat) : Nat := tcmKey s.tid.core (0x10000 + 0x2000 * s.tid.ctx + o)

/-- The generic address of offset `o` in the private window (01 R31). -/
def privAddr (o : Nat) : Word := 0xE000000000000000 + word o

/-- The little-endian number in `n` bytes of the private window from offset `o` upward. -/
def State.privNum (s : State) (o n : Nat) : Nat := leNat (s.mem.bytes (s.privKey o) n)

/-- The place of the private window's offset `o`. -/
def privPlace (s : State) (o : Nat) : Place :=
  { kind := .tcm, key := s.privKey o, keyId := 0, cached := false, alloc := false, replica := false, fills := false }

/-- The parts of an access to the private window, one for each aligned block of eight bytes (03 R84). -/
def privParts (s : State) (o n : Nat) : List (Place × Nat) :=
  if n ≤ 8 - o % 8 then [(privPlace s o, n)]
  else [(privPlace s o, 8 - o % 8), (privPlace s (o + (8 - o % 8)), n - (8 - o % 8))]

/-- Nothing stands in the way of an access of the strand in focus to its private window: no access of it is outstanding, it
has read no store that is on its way, no vector instruction of order sc is in progress, no word of memory holds a stored error, no injection is armed for it and no line is in migration or replicated; memory is canonical. -/
structure State.Calm (s : State) : Prop where
  noWait : s.me.waits = false
  noWrites : s.me.writes = []
  noSeen : s.me.seen = []
  noSc : s.sys.scRun = none
  noSyndrome : s.synd = []
  noPoison : s.poison = []
  noMigration : s.sys.migrating = []
  noReplica : s.sys.replicas = []
  noInjection : ∀ c, bitOf (s.rd (rDinj c)) 63 = false
  memory : s.mem.wf = true

/-- `m` is `s`'s memory with the low `n` bytes of `v` stored at memory key `p`: every other byte reads as before. -/
def StoredBytes (s : State) (m : Memory) (p n : Nat) (v : Word) : Prop :=
  m.wf = true ∧ ∀ k, m.byte k = if p ≤ k ∧ k < p + n then v.extractLsb' (8 * (k - p)) 8 else s.mem.byte k

/-- Instruction `i` in `s` completes and stores the low `n` bytes of `v` at memory key `p`; no register is written and nothing
else changes. -/
def Stores (i : Instr) (s : State) (len p n : Nat) (v : Word) : Prop :=
  ∃ t, exec i s = .next t ∧ StoredBytes s t.mem p n v ∧ Went { s with mem := t.mem } t (s.me.pc + word len)

/-- Instruction `i` in `s` completes: it stores the low `n` bytes of `new` at memory key `p`, writes `old` to `d`, advances the L1
generation of its cluster if its order acquires at scope cl or wider (03 R91), and changes nothing else. -/
def Exchanges (i : Instr) (s : State) (od : Order) (sc : Scope) (d : Reg) (p n : Nat) (old new : Word) : Prop :=
  ∃ t, exec i s = .next t ∧ StoredBytes s t.mem p n new ∧
    Wrote { (if Order.acquires od then s.acquire s.tid.cluster sc else s) with mem := t.mem } t 4 d old

/-- Instruction `i` in `s` completes as an atomic read: it stores nothing, writes `old` to `d` and acquires by its order. -/
def ReadsOnly (i : Instr) (s : State) (od : Order) (sc : Scope) (d : Reg) (old : Word) : Prop :=
  ∃ t, exec i s = .next t ∧ Wrote (if Order.acquires od then s.acquire s.tid.cluster sc else s) t 4 d old

/-- Vector store `i` completes: for each element `k` of register `j` that `on` selects, the bytes of `x j k` are stored at the private window's
offset `o + (j·VL + k)·SEW/8`; every other byte reads as before, and nothing else changed. -/
def StoresElems (i : Instr) (s : State) (o : Nat) (on : Nat → Nat → Bool) (x : Nat → Nat → Nat) : Prop :=
  let w := vtSew s.me.ctl.vt / 8
  let at_ := fun j k => s.privKey (o + (j * s.me.ctl.vl.toNat + k) * w)
  ∃ t, exec i s = .next t ∧ t.me.pc = s.me.pc + 4 ∧ t.me.vec = s.me.vec ∧ KeptButVec { s with mem := t.mem } t ∧ t.mem.wf = true ∧
    (∀ j k n, on j k = true → n < w → t.mem.byte (at_ j k + n) = BitVec.ofNat 8 (x j k / 256 ^ n)) ∧
    ∀ p, (∀ j k n, on j k = true → n < w → p ≠ at_ j k + n) → t.mem.byte p = s.mem.byte p

/-! ### Memory outside the private window -/

/-- Nothing stands in the way of an access of the strand in focus to memory of this package: beyond what the private window needs,
issued work completes in its issue step (log 10), no drain or lull is in progress, every line is held as plaintext, no tag of an L2 slice
and no line of the cluster's L1 holds an error, no store of the cluster is on its way home, and the table of clusters is canonical. -/
structure State.Open (s : State) : Prop extends State.Calm s where
  eager : s.eager = true
  noLull : s.sys.lull.phase = .clear
  plain : s.lineKey = []
  tags : ∀ k l, Holds s.sys.l2 k l → l.tagSynd = 0
  noStores : ∀ t ∈ s.clusterTids s.tid.cluster, (s.strand t).writes = []
  lines : ∀ pa l, (s.cluster s.tid.cluster).l1Find pa = some l → l.synd = []
  clusters : NMap.wf Cluster.reset s.clusters = true

/-- The address lies in the cluster-shared window at or beyond the limit that CSWIN gives the strand's tenant (11 R320). -/
def State.beyondLimit (s : State) (w : Word) : Prop :=
  ∃ c o, Machine.windowOf w = some (.shared c o) ∧ 0x10000 * fld (s.rd (rCswin c s.me.ctl.tenant.toNat)) 0 8 ≤ o

/-- The `n` bytes at the address lie in the core-scratchpad window of another core. -/
def State.otherCore (s : State) (w : Word) (n : Nat) : Prop :=
  ∃ c o p, Machine.windowOf w = some (.core c o) ∧ Machine.windowOf (w + word (n - 1)) = some (.core c p) ∧ c ≠ s.tid.core

/-- An access `i` of `n` bytes at `w` raises bad window when its first or last byte lies beyond the limit of a shared window, and wrong
core in the scratchpad of another core (01 R32). -/
def WindowTraps (i : Instr) (s : State) (w : Word) (n : Nat) : Prop :=
  (s.beyondLimit w ∨ s.beyondLimit (w + word (n - 1)) → Traps i s 8 w 0) ∧ (s.otherCore w n → Traps i s 9 w 0)

/-- A place in a TCM, in SRAM or in the memory of this package, read as plaintext. -/
def Place.plainMemory (p : Place) : Bool :=
  decide (p.keyId = 0) && match p.kind with
    | .tcm | .sram | .dram | .msc | .save => true
    | _ => false

/-- `t` is `s` but for what an access of cluster `c` leaves in caches and TLBs: its L1, its cluster TLB, the L2 slices, the memory-side
caches and the vectors of replicas (13 R371 to R373, R389), the replies that set its congestion window (13 R369), the counter of free
values, and requests to DRAM. -/
structure Reached (c : Nat) (s t : State) : Prop where
  same : t = { s with
    clusters := t.clusters
    agenda := t.agenda
    fresh := t.fresh
    sys := { s.sys with l2 := t.sys.l2, msc := t.sys.msc, replicas := t.sys.replicas } }
  cluster : t.cluster c = { s.cluster c with l1 := (t.cluster c).l1, tlb := (t.cluster c).tlb, replies := (t.cluster c).replies }
  others : ∀ k, k ≠ c → t.cluster k = s.cluster k
  asks : AsksDram s t

/-- The bytes that a read of `n` bytes at a place gives: those of the line of the L1 that serves it, else those of memory. -/
def State.seenBytes (s : State) (p : Place) (n : Nat) : List Byte :=
  match if p.cached then (s.cluster s.tid.cluster).l1Find p.key else none with
  | some l => (l.data.drop (p.key % 64)).take n
  | none => s.mem.bytes p.key n

/-- Load `i` of `n` bytes at `w`, which lie in one aligned block of eight at a place `p`, completes: it writes their number, extended, to
`d`, and memory is as it was. -/
def LoadsFrom (i : Instr) (s : State) (len : Nat) (d : Reg) (w : Word) (n : Nat) (sg : Bool) : Prop :=
  ∀ p, s.resolve s.agent .load w n = .ok [(p, n)] → p.plainMemory = true →
    ∃ t u, exec i s = .next t ∧ Reached s.tid.cluster s u ∧ Wrote u t len d (extend n sg (s.seenBytes p n))

/-- Store `i` of the low `n` bytes of `v` to `w`, which lie in one aligned block of eight at a place `p`, completes: each byte of memory is
as before but those stored, and no register is written. -/
def StoresTo (i : Instr) (s : State) (len : Nat) (w : Word) (n : Nat) (v : Word) : Prop :=
  ∀ p, s.resolve s.agent (.store v) w n = .ok [(p, n)] → p.plainMemory = true →
    ∃ t u, exec i s = .next t ∧ StoredBytes s t.mem p.key n v ∧ Reached s.tid.cluster { s with mem := t.mem } u ∧
      Went u t (s.me.pc + word len)

/-- Atomic `i` of form `f` on `n` bytes at `w`, at a place `p`, completes: it writes the old number, sign-extended, to `d`, stores `new` of
that number, or nothing where `new` says none, and acquires by its order. -/
def ExchangesAt (i : Instr) (s : State) (f : Form) (od : Order) (sc : Scope) (d : Reg) (w : Word) (n : Nat)
    (new : BitVec (8 * n) → Option (BitVec (8 * n))) : Prop :=
  ∀ p, s.resolve s.agent f w n = .ok [(p, n)] → p.plainMemory = true →
    let old := BitVec.ofNat (8 * n) (leNat (s.mem.bytes p.key n))
    ∃ t u, exec i s = .next t ∧
      (match new old with
       | some v => StoredBytes s t.mem p.key n (v.setWidth 64)
       | none => t.mem = s.mem) ∧
      Reached s.tid.cluster { s with mem := t.mem } u ∧
      Wrote (if Order.acquires od then u.acquire s.tid.cluster sc else u) t 4 d (old.signExtend 64)

end Sys2Proof.Machine
end

