-- ==== Sys2Proof/Certificates/Slice0/Obligations.lean ====
section
/-! DEFINITION. The statements for the provers. -/

open Sys2Proof Sys2Proof.Machine

/-- A step runs the instruction that the words at the pc decode to, then time passes; words that decode to nothing trap as illegal instruction (R11, R39, R55, R56, R92, R107, R150, R151, R178). -/
def Obligations.StepRunsTheDecodedInstruction : Prop :=
  ∀ (s : State) (c : Nat) (t : Tid) (ts : List Tid) (s0 s1 : State) (w : Words), s.sys.power = true → s.agenda = [] → s.dueNow = none →
    s.pick = some c → s.examined c = t :: ts → (s.focus t).turn = (s0, false) → s0.me.haltDue = false → s0.me.waits = false ∨ s0.me.step = false →
    ({ s0 with ir := .event } : State).fetch = (s1, .ok w) → s1.me.interlocked w = false → (∀ d, s1.me.dueReg = some d → d = 0 ∨ d ∉ namedRegs s1.me.ctl w) →
    (∀ i u, decodeWords w = .ok i → exec i { s1 with ir := w } = .next u →
      (s1.me.waits = false → hasIssued { s1 with ir := w } u = true →
        step s = .next ((u.pointed s1.tid).afterIssue { s1 with ir := w }) ∧
        (s1.me.step = false → ∃ c k n, (u.pointed s1.tid).afterIssue { s1 with ir := w } =
            { u.pointed s1.tid with cycle := c, time := n, fresh := u.fresh + 1, sys := { u.sys with pool := k } } ∧
          u.cycle ≤ c ∧ u.time ≤ n)) ∧
      (hasIssued { s1 with ir := w } u = false → step s = State.tryAll execWords u ts) ∧
      (s1.me.waits = true → hasIssued { s1 with ir := w } u = true →
        (onlyLocal { s1 with ir := w } u = true →
          step s = .next (((u.onMe fun x => x.noteUndo s1.me).pointed s1.tid).afterIssue { s1 with ir := w })) ∧
        (onlyLocal { s1 with ir := w } u = false → step s = State.tryAll execWords { s1 with ir := w } ts))) ∧
    (∀ e, decodeWords w = .error e → s1.me.waits = false →
      ∃ u, Trapped { s1 with ir := w } u 0x02 (Words.enc w) 0 ∧ step s = .next ((u.pointed s1.tid).afterIssue { s1 with ir := w }))

/-- An event at the head of the agenda, or one that is due, takes the step; with the clock stopped only reset and power act; without power only a package reset (R439, R437, R421, R434, R438, R409, R420, R150). The model's own choices in it: logs 8, 66. -/
def Obligations.StepRunsTheNextEvent : Prop :=
  (∀ (s : State) (e : Event) (r : List Event), s.sys.lull.stopped s.time = false → s.agenda = e :: r → (∀ q, e ≠ .cpServePacket q) →
    (s.sys.power = true ∨ e = .packageReset) → step s = exec (eventInstr e) { s with agenda := r, ir := .event }) ∧
  (∀ (s : State) (q k : BitVec 8) (r : List Event), s.sys.lull.stopped s.time = false → s.agenda = .cpServePacket q :: r →
    s.sys.power = true → .cpServePacket k ∈ s.agenda → (∀ j, .cpServePacket j ∈ s.agenda → k.toNat ≤ j.toNat) →
    step s = exec (.cpServePacket k) { s with agenda := s.agenda.erase (.cpServePacket k), ir := .event }) ∧
  (∀ (s : State) (e : Event), s.agenda = [] → s.sys.power = true → s.dueNow = some e →
    step s = exec (eventInstr e) { s with ir := .event }) ∧
  (∀ (s : State) (e : Event), s.sys.lull.stopped s.time = true → s.sys.power = true →
    (s.agenda.find? (fun x => decide (x ∈ [.packageReset, .powerLoss, .thermtrip])) = some e →
      step s = exec (eventInstr e) { s with agenda := s.agenda.erase e, ir := .event }) ∧
    ((∀ x ∈ s.agenda, x ∉ [Event.packageReset, .powerLoss, .thermtrip]) →
      (s.dueNow = some e → step s = exec (eventInstr e) { s with ir := .event }) ∧
      (s.dueNow = none → step s = .next s.tick ∧ s.tick.cycle = s.cycle))) ∧
  (∀ s : State, s.sys.power = false → s.sys.lull.stopped s.time = false → s.agenda.head? ≠ some .packageReset → step s = .fault .noPower) ∧
  (∀ s : State, s.sys.power = false → s.sys.lull.stopped s.time = true →
    s.agenda.find? (fun x => decide (x ∈ [.packageReset, .powerLoss, .thermtrip])) ≠ some .packageReset → step s = .fault .noPower)

/-- Every instruction and every event answers a next state in every state, and so does every step of a package with power (R56, R138, R142, R439). -/
def Obligations.EveryStepAnswersANextState : Prop :=
  (∀ (i : Instr) (s : State), ∃ t, exec i s = .next t) ∧
  (∀ s : State, s.sys.power = true → ∃ t, step s = .next t)

/-- An instruction is one, two or four little-endian parcels by bits 15:14 of its first, and a parcel that cannot be fetched makes the whole instruction fault (R39, R41, R148, R152, R153, R154). -/
def Obligations.FetchFramesParcels : Prop :=
  (∀ (s : State) (pc : Word) (p : Place), s.fetchPlace pc = .ok p → p.key % 2 = 0 →
    (∀ bs, s.me.fbuf = some (p.key / 32, bs) →
      (s.fetchParcel pc).2 = .ok (BitVec.ofNat 16 (leNat ((bs.drop (p.key % 32)).take 2)))) ∧
    ((∀ b, s.me.fbuf = some b → b.1 ≠ p.key / 32) →
      (∀ l, (s.core s.tid.core).icacheFind p.key = some l →
        (s.fetchParcel pc).2 = .ok (BitVec.ofNat 16 (leNat ((l.data.drop (p.key % 64)).take 2)))) ∧
      ((s.core s.tid.core).icacheFind p.key = none →
        (p.keyId = 0 → s.poison = [] → s.synd = [] → s.lineKey = [] → (∀ k l, l ∈ NMap.get [] s.sys.l2 k → l.tagSynd = 0) →
          s.sys.migrating = [] → s.sys.lull.phase = .clear → (s.fetchParcel pc).2 = .ok (s.mem.byte (p.key + 1) ++ s.mem.byte p.key)) ∧
        ((s.noteAccess s.agent pc [2]).lineHeld (some s.tid.die) ((s.noteAccess s.agent pc [2]).redirect p.key) p.keyId = true →
          s.fetchParcel pc = (s.noteAccess s.agent pc [2], .error .hold))))) ∧
  (∀ (s t : State) (e : FetchBad), s.fetchParcel s.me.pc = (t, .error e) → s.fetch = (t, .error e)) ∧
  (∀ (s t : State) (a : BitVec 16), s.fetchParcel s.me.pc = (t, .ok a) →
    (a.extractLsb' 14 2 = 0#2 → s.fetch = (t, .ok (.w16 a))) ∧
    (∀ (t1 : State) (e : FetchBad), a.extractLsb' 14 2 ≠ 0#2 → t.fetchParcel (s.me.pc + 2) = (t1, .error e) →
      s.fetch = (t1, .error e)) ∧
    (∀ (t1 : State) (b : BitVec 16), t.fetchParcel (s.me.pc + 2) = (t1, .ok b) →
      (a.extractLsb' 14 2 = 1#2 ∨ a.extractLsb' 14 2 = 2#2 → s.fetch = (t1, .ok (.w32 (b ++ a)))) ∧
      (∀ (t2 : State) (e : FetchBad), a.extractLsb' 14 2 = 3#2 → t1.fetchParcel (s.me.pc + 2 + 2) = (t2, .error e) →
        s.fetch = (t2, .error e)) ∧
      (∀ (t2 t3 : State) (c : BitVec 16), a.extractLsb' 14 2 = 3#2 → t1.fetchParcel (s.me.pc + 2 + 2) = (t2, .ok c) →
        (∀ e : FetchBad, t2.fetchParcel (s.me.pc + 2 + 2 + 2) = (t3, .error e) → s.fetch = (t3, .error e)) ∧
        (∀ d : BitVec 16, t2.fetchParcel (s.me.pc + 2 + 2 + 2) = (t3, .ok d) → s.fetch = (t3, .ok (.w64 (b ++ a) (d ++ c))))))) ∧
  (∀ (s : State) (addr : Word), ¬ (s.me.ctl.priv = .sup ∧ s.me.pc = evenPc s.me.ctl.tvec) →
    Trapped s (s.fetchFault addr) 0x01 addr 0) ∧
  (∀ (s : State) (c : Nat) (t : Tid) (ts : List Tid) (s0 s1 : State) (b : FetchBad), s.sys.power = true → s.agenda = [] →
    s.dueNow = none → s.pick = some c → s.examined c = t :: ts → (s.focus t).turn = (s0, false) → s0.me.haltDue = false →
    s0.me.waits = false ∨ s0.me.step = false → ({ s0 with ir := .event } : State).fetch = (s1, .error b) →
    (b = .hold → step s = State.tryAll execWords s1 ts) ∧
    (∀ a, b = .fault a → s1.me.waits = false →
      step s = .next (((s1.fetchFault a).pointed s1.tid).afterIssue { s1 with ir := .event })))

/-- Every well-formed instruction that has an encoding decodes from its encoding to itself (R43, R44, R48, R50, R55). -/
def Obligations.DecodingUndoesEncoding : Prop :=
  ∀ i : Instr, wellFormed i = true → encode i ≠ .event → decodeWords (encode i) = .ok i

/-- The worked encodings of the spec, and words written out from its opcode map, decode to the instructions they stand for (R43, R44, R52, R57, R58, R59, R60, R61, R63, R64, R66, R67). -/
def Obligations.WorkedEncodingsDecode : Prop :=
  decodeWords (.w32 0xF93F482D#32) = .ok (.addi 5 4 0x3FFD) ∧
  decodeWords (.w32 0x39804028#32) = .ok (.add 5 6 7) ∧
  decodeWords (.w32 0x52444140#32) = .ok (.divu 8 9 10) ∧
  decodeWords (.w32 0x010C4D21#32) = .ok (.shri 4 4 12) ∧
  decodeWords (.w32 0x00835E60#32) = .ok (.ldd 12 2 24) ∧
  decodeWords (.w32 0x017F51F8#32) = .ok (.bne 5 0 0x3FF8) ∧
  decodeWords (.w32 0x39827028#32) = .ok (.fadd 5 6 7 .fp32 .rne) ∧
  decodeWords (.w32 0x31D16428#32) = .ok (.amoAddD 5 7 6 .acq .cl) ∧
  decodeWords (.w32 0x03416862#32) = .ok (.castg 12 13 2) ∧
  decodeWords (.w32 0x08207820#32) = .ok (.rdc 4 0x401) ∧
  decodeWords (.w32 0xBB807A78#32) = .ok (.send 15 14 23) ∧
  decodeWords (.w32 0x04407C00#32) = .ok (.svc 17) ∧
  decodeWords (.w32 0x00057C00#32) = .ok .exit ∧
  decodeWords (.w32 0x00007F00#32) = .ok .nop ∧
  decodeWords (.w32 0x0802A200#32) = .ok (.fenceSv .cl) ∧
  decodeWords (.w32 0x100CB010#32) = .ok (.tcvt 2 2) ∧
  decodeWords (.w32 0x000DB008#32) = .ok (.tchk 1) ∧
  decodeWords (.w64 0x6800C200#32 0x0806B000#32) = .ok (.topr 0 0 1 13 0 0) ∧
  decodeWords (.w32 0x01024860#32) = .ok (.addi 12 4 16) ∧
  decodeWords (.w16 0x04C7#16) = .ok (.cAdd 6 7) ∧
  decodeWords (.w32 0x31009011#32) = .ok (.vaddVv 2 4 6 1) ∧
  decodeWords (.w32 0xA3408060#32) = .ok (.vgrant 12 13 20) ∧
  decodeWords (.w64 0x1234C156#32 0x010F4828#32) = .ok (.addiImm32 .addi 5 4 0x12345678) ∧
  decodeWords (.w64 0x4818C200#32 0x4004B00A#32) = .ok (.topa 1 0 8 9 0 2 3) ∧
  (∃ e, decodeWords (.w64 0x1234C156#32 0x410F4828#32) = .error e) ∧
  (∃ e, decodeWords (.w16 0x0000#16) = .error e)

/-- After a package reset TIME and CYCLE are 0, no strand is bound, the registers hold their stated reset values and memory is canonical (R434, R13, R427, R150, R202, R319, R321, R359, R369, R371, R384, R406). The model's own choices in it: logs 5, 18, 88. -/
def Obligations.ResetLeavesTheStatedValues : Prop :=
  State.reset.time = 0 ∧ State.reset.cycle = 0 ∧ State.reset.boundTids = [] ∧ State.reset.sys.keys = [] ∧
  State.reset.sys.launches = [] ∧ State.reset.net = [] ∧ State.reset.canonical = true ∧
  (∀ c, (State.reset.core c).pointer = 3) ∧ (∀ c k, State.reset.barrier c k = Barrier.reset) ∧
  (∀ c p, c < 128 → p < 16 →
    State.reset.rd (rLadl c) = 2048 ∧ State.reset.rd (rCsplit c) = 8 ∧ State.reset.rd (rCl1pm c p) = 0xFFFF ∧
    State.reset.rd (rErrcfg c) = 0x800) ∧
  (∀ c o, c < 128 → o < 0x10000 → o ≠ 0 → o ≠ 0x050 → ¬ (0x200 ≤ o ∧ o < 0x280) → o ≠ 0x340 → State.reset.rd (allocBlock c + o) = 0) ∧
  (∀ d p, d < 4 → p < 16 →
    State.reset.rd (rL2pm d p) = 0xFFF ∧ State.reset.rd (rL2rsv d) = 2 ∧ State.reset.rd (rMscpm d p) = 0xFFFF) ∧
  (∀ d c, d < 4 → c < 32 → State.reset.readRegister (rCwin d c) = 64) ∧
  (∀ d o, d < 4 → o < 0x10000 → ¬ o ≤ 0x080 → ¬ (0x100 ≤ o ∧ o < 0x180) → ¬ (0x600 ≤ o ∧ o < 0x700) →
    State.reset.rd (dieBlock d + o) = 0) ∧
  (∀ q, q < 256 → State.reset.rd (rQctl q) = 4) ∧
  (∀ o, o < 0x10000 → ¬ (0x800 ≤ o ∧ o < 0x1800 ∧ o % 16 = 8) → State.reset.rd (sysBlock + o) = 0) ∧
  (∀ f, f < 32 → State.reset.rd (bar0Block f) = 0x00000100A0402100 ∧
    (∀ k, k < 17 → State.reset.rd (bar0Block f + 0x2008 + 16 * k) = 0x100000000) ∧
    (∀ o, o < 0x10000 → o ≠ 0 → ¬ (0x2000 ≤ o ∧ o < 0x2110 ∧ o % 16 = 8) → State.reset.rd (bar0Block f + o) = 0) ∧
    (pciFunction f).vendor = 0x1F6A ∧ (pciFunction f).device = (if f = 0 then 0xC421 else 0xC42F) ∧ (pciFunction f).revision = 0xA0)

/-- Every step keeps memory, the error tables, the line keys and the registers reached by address in their canonical form (R17, R31, R403, R434). -/
def Obligations.StepKeepsTablesCanonical : Prop :=
  ∀ s t : State, s.canonical = true → step s = .next t → t.canonical = true

/-- Each integer register operation completes, writes its result to s[d] and changes nothing else (R75, R16, R27). -/
def Obligations.RegisterOperationsWrite : Prop :=
  ∀ (s : State) (d a b : Reg) (k : BitVec 3),
    Writes (.add d a b) s 4 d (s.reg a + s.reg b) ∧
    Writes (.sub d a b) s 4 d (s.reg a - s.reg b) ∧
    Writes (.and d a b) s 4 d (s.reg a &&& s.reg b) ∧
    Writes (.or d a b) s 4 d (s.reg a ||| s.reg b) ∧
    Writes (.xor d a b) s 4 d (s.reg a ^^^ s.reg b) ∧
    Writes (.shl d a b) s 4 d (s.reg a <<< ((s.reg b).toNat % 64)) ∧
    Writes (.shr d a b) s 4 d (s.reg a >>> ((s.reg b).toNat % 64)) ∧
    Writes (.sra d a b) s 4 d ((s.reg a).sshiftRight ((s.reg b).toNat % 64)) ∧
    Writes (.min d a b) s 4 d (if (s.reg a).slt (s.reg b) then s.reg a else s.reg b) ∧
    Writes (.max d a b) s 4 d (if (s.reg a).slt (s.reg b) then s.reg b else s.reg a) ∧
    Writes (.minu d a b) s 4 d (if (s.reg a).ult (s.reg b) then s.reg a else s.reg b) ∧
    Writes (.maxu d a b) s 4 d (if (s.reg a).ult (s.reg b) then s.reg b else s.reg a) ∧
    Writes (.slt d a b) s 4 d (if (s.reg a).toInt < (s.reg b).toInt then 1 else 0) ∧
    Writes (.sltu d a b) s 4 d (if (s.reg a).toNat < (s.reg b).toNat then 1 else 0) ∧
    Writes (.rotl d a b) s 4 d ((s.reg a) <<< ((s.reg b).toNat % 64) ||| (s.reg a) >>> ((64 - (s.reg b).toNat % 64) % 64 : Nat)) ∧
    Writes (.rotr d a b) s 4 d ((s.reg a) >>> ((s.reg b).toNat % 64) ||| (s.reg a) <<< ((64 - (s.reg b).toNat % 64) % 64 : Nat)) ∧
    Writes (.addsc d a b k) s 4 d (s.reg a + (s.reg b) <<< k.toNat)

/-- MUL, MULH and MULHU write the halves of the exact product, CLMUL and CLMULH those of the carry-less product (R76, R16, R27). -/
def Obligations.MultiplicationsWrite : Prop :=
  ∀ (s : State) (d a b : Reg),
    let bit := fun (k : Nat) =>
      decide (((List.range 64).countP fun i => (s.reg b).getLsbD i && decide (i ≤ k) && (s.reg a).getLsbD (k - i)) % 2 = 1)
    Writes (.mul d a b) s 4 d (BitVec.ofNat 64 ((s.reg a).toNat * (s.reg b).toNat)) ∧
    Writes (.mulh d a b) s 4 d (BitVec.ofInt 64 ((s.reg a).toInt * (s.reg b).toInt / 2 ^ 64)) ∧
    Writes (.mulhu d a b) s 4 d (BitVec.ofNat 64 ((s.reg a).toNat * (s.reg b).toNat / 2 ^ 64)) ∧
    (∃ v, Writes (.clmul d a b) s 4 d v ∧ ∀ k, k < 64 → v.getLsbD k = bit k) ∧
    (∃ v, Writes (.clmulh d a b) s 4 d v ∧ ∀ k, k < 64 → v.getLsbD k = bit (k + 64))

/-- DIV, DIVU, REM and REMU write quotient or remainder truncated toward zero; a zero divisor gives all ones or the dividend and sets IFLAGS.DZ (R76, R16, R27). -/
def Obligations.DivisionsWrite : Prop :=
  ∀ (s : State) (d a b : Reg),
    (s.reg b ≠ 0 →
      Writes (.div d a b) s 4 d (BitVec.ofInt 64 ((s.reg a).toInt.tdiv (s.reg b).toInt)) ∧
      Writes (.divu d a b) s 4 d (BitVec.ofNat 64 ((s.reg a).toNat / (s.reg b).toNat)) ∧
      Writes (.rem d a b) s 4 d (BitVec.ofInt 64 ((s.reg a).toInt - (s.reg b).toInt * (s.reg a).toInt.tdiv (s.reg b).toInt)) ∧
      Writes (.remu d a b) s 4 d (BitVec.ofNat 64 ((s.reg a).toNat % (s.reg b).toNat))) ∧
    (s.reg b = 0 →
      WritesFlags (.div d a b) s 4 d (BitVec.allOnes 64) 0 8 ∧
      WritesFlags (.divu d a b) s 4 d (BitVec.allOnes 64) 0 8 ∧
      WritesFlags (.rem d a b) s 4 d (s.reg a) 0 8 ∧
      WritesFlags (.remu d a b) s 4 d (s.reg a) 0 8)

/-- CLZ, CTZ, POPC, BREV and BSWAP write the counts and the reversals of the bits and bytes of s[a] (R78). -/
def Obligations.BitOperationsWrite : Prop :=
  ∀ (s : State) (d a : Reg),
    (∃ n, Writes (.clz d a) s 4 d (BitVec.ofNat 64 n) ∧ n ≤ 64 ∧ (n < 64 → (s.reg a).getLsbD (63 - n) = true) ∧
      ∀ k, k < n → (s.reg a).getLsbD (63 - k) = false) ∧
    (∃ n, Writes (.ctz d a) s 4 d (BitVec.ofNat 64 n) ∧ n ≤ 64 ∧ (n < 64 → (s.reg a).getLsbD n = true) ∧
      ∀ k, k < n → (s.reg a).getLsbD k = false) ∧
    Writes (.popc d a) s 4 d (BitVec.ofNat 64 ((List.range 64).countP fun k => (s.reg a).getLsbD k)) ∧
    (∃ v, Writes (.brev d a) s 4 d v ∧ ∀ k, k < 64 → v.getLsbD k = (s.reg a).getLsbD (63 - k)) ∧
    (∃ v, Writes (.bswap d a) s 4 d v ∧ ∀ k, k < 8 → v.extractLsb' (8 * k) 8 = (s.reg a).extractLsb' (8 * (7 - k)) 8)

/-- The immediate forms complete and write s[a] combined with the sign-extended immediate, or shifted; LIH and ADDPC write the upper immediate (R75, R79, R52, R16, R27). -/
def Obligations.ImmediateOperationsWrite : Prop :=
  ∀ (s : State) (d a : Reg) (i : BitVec 14) (k : BitVec 6) (u : BitVec 19) (j : BitVec 32),
    Writes (.addi d a i) s 4 d (s.reg a + i.signExtend 64) ∧
    Writes (.andi d a i) s 4 d (s.reg a &&& i.signExtend 64) ∧
    Writes (.ori d a i) s 4 d (s.reg a ||| i.signExtend 64) ∧
    Writes (.xori d a i) s 4 d (s.reg a ^^^ i.signExtend 64) ∧
    Writes (.slti d a i) s 4 d (if (s.reg a).toInt < i.toInt then 1 else 0) ∧
    Writes (.shli d a k) s 4 d (s.reg a <<< k.toNat) ∧
    Writes (.shri d a k) s 4 d (s.reg a >>> k.toNat) ∧
    Writes (.srai d a k) s 4 d ((s.reg a).sshiftRight k.toNat) ∧
    Writes (.lih d u) s 4 d (u.signExtend 64 <<< 13) ∧
    Writes (.addpc d u) s 4 d (s.me.pc + u.signExtend 64 <<< 13) ∧
    Writes (.addiImm32 .addi d a j) s 8 d (s.reg a + j.signExtend 64) ∧
    Writes (.addiImm32 .andi d a j) s 8 d (s.reg a &&& j.signExtend 64) ∧
    Writes (.addiImm32 .ori d a j) s 8 d (s.reg a ||| j.signExtend 64) ∧
    Writes (.addiImm32 .xori d a j) s 8 d (s.reg a ^^^ j.signExtend 64) ∧
    Writes (.addiImm32 .slti d a j) s 8 d (if (s.reg a).toInt < j.toInt then 1 else 0) ∧
    Writes (.lihImm32 d j) s 8 d (j.signExtend 64 <<< 32) ∧
    Writes (.addpcImm32 d j) s 8 d (s.me.pc + j.signExtend 64 <<< 32)

/-- With a last destination each compact operation writes its result on it to s[d], and c.beqz and c.bnez branch on it; without one every compact form traps (R48, R49, R27, R16, R56, R138, R142). -/
def Obligations.CompactOperationsWrite : Prop :=
  ∀ (s : State) (d x : Reg) (i : BitVec 5) (o : BitVec 10),
    (s.me.ctl.ldv = true →
      let taken := (s.me.pc + 2 * o.signExtend 64) &&& ~~~1
      Writes (.cAddi d i) s 2 d (s.reg s.me.ctl.ld + i.signExtend 64) ∧
      Writes (.cAdd d x) s 2 d (s.reg s.me.ctl.ld + s.reg x) ∧
      Writes (.cSub d x) s 2 d (s.reg s.me.ctl.ld - s.reg x) ∧
      Writes (.cAnd d x) s 2 d (s.reg s.me.ctl.ld &&& s.reg x) ∧
      Writes (.cOr d x) s 2 d (s.reg s.me.ctl.ld ||| s.reg x) ∧
      Writes (.cXor d x) s 2 d (s.reg s.me.ctl.ld ^^^ s.reg x) ∧
      Writes (.cShli d i) s 2 d (s.reg s.me.ctl.ld <<< i.toNat) ∧
      Writes (.cShri d i) s 2 d (s.reg s.me.ctl.ld >>> i.toNat) ∧
      Writes (.cSrai d i) s 2 d ((s.reg s.me.ctl.ld).sshiftRight i.toNat) ∧
      Writes (.cMv d) s 2 d (s.reg s.me.ctl.ld) ∧
      Goes (.cBeqz o) s (if s.reg s.me.ctl.ld = 0 then taken else s.me.pc + 2) ∧
      Goes (.cBnez o) s (if s.reg s.me.ctl.ld ≠ 0 then taken else s.me.pc + 2)) ∧
    (s.me.ctl.ldv = false →
      Traps (.cAddi d i) s 2 (Words.enc s.ir) 0 ∧
      Traps (.cAdd d x) s 2 (Words.enc s.ir) 0 ∧
      Traps (.cSub d x) s 2 (Words.enc s.ir) 0 ∧
      Traps (.cAnd d x) s 2 (Words.enc s.ir) 0 ∧
      Traps (.cOr d x) s 2 (Words.enc s.ir) 0 ∧
      Traps (.cXor d x) s 2 (Words.enc s.ir) 0 ∧
      Traps (.cShli d i) s 2 (Words.enc s.ir) 0 ∧
      Traps (.cShri d i) s 2 (Words.enc s.ir) 0 ∧
      Traps (.cSrai d i) s 2 (Words.enc s.ir) 0 ∧
      Traps (.cMv d) s 2 (Words.enc s.ir) 0 ∧
      Traps (.cLdd d i) s 2 (Words.enc s.ir) 0 ∧
      Traps (.cStd d i) s 2 (Words.enc s.ir) 0 ∧
      Traps (.cLdw d i) s 2 (Words.enc s.ir) 0 ∧
      Traps (.cBeqz o) s 2 (Words.enc s.ir) 0 ∧
      Traps (.cBnez o) s 2 (Words.enc s.ir) 0 ∧
      Traps (.cJalr d) s 2 (Words.enc s.ir) 0)

/-- A conditional branch goes to PC + 2·sext(imm14) when its comparison holds and to PC + 4 otherwise, and writes no register (R80). -/
def Obligations.BranchesGo : Prop :=
  ∀ (s : State) (a b : Reg) (i : BitVec 14),
    let taken := (s.me.pc + 2 * i.signExtend 64) &&& ~~~1
    Goes (.beq a b i) s (if s.reg a = s.reg b then taken else s.me.pc + 4) ∧
    Goes (.bne a b i) s (if s.reg a ≠ s.reg b then taken else s.me.pc + 4) ∧
    Goes (.blt a b i) s (if (s.reg a).toInt < (s.reg b).toInt then taken else s.me.pc + 4) ∧
    Goes (.bge a b i) s (if (s.reg b).toInt ≤ (s.reg a).toInt then taken else s.me.pc + 4) ∧
    Goes (.bltu a b i) s (if (s.reg a).toNat < (s.reg b).toNat then taken else s.me.pc + 4) ∧
    Goes (.bgeu a b i) s (if (s.reg b).toNat ≤ (s.reg a).toNat then taken else s.me.pc + 4)

/-- JAL and JALR set the pc to their target with bit 0 clear and write the address after them to s[d] (R81, R48, R52, R27). -/
def Obligations.JumpsLink : Prop :=
  ∀ (s : State) (d a : Reg) (i : BitVec 14) (u : BitVec 19) (j : BitVec 32),
    Links (.jal d u) s ((s.me.pc + 2 * u.signExtend 64) &&& ~~~1) d (s.me.pc + 4) ∧
    Links (.jalr d a i) s ((s.reg a + i.signExtend 64) &&& ~~~1) d (s.me.pc + 4) ∧
    Links (.jalrImm32 d a j) s ((s.reg a + j.signExtend 64) &&& ~~~1) d (s.me.pc + 8) ∧
    (s.me.ctl.ldv = true → Links (.cJalr d) s ((s.reg s.me.ctl.ld) &&& ~~~1) d (s.me.pc + 2))

/-- A load writes the little-endian number in its bytes, sign- or zero-extended, and changes no other register and no memory (R83, R17, R31, R84, R27, R48, R321, R369, R371). The model's own choices in it: logs 5, 10. -/
def Obligations.PrivateLoadsRead : Prop :=
  (∀ (s : State) (d a e : Reg) (i : BitVec 14) (j : BitVec 32) (k : BitVec 5) (o : Nat), s.Calm →
    s.reg a + i.signExtend 64 = privAddr o → s.reg e + j.signExtend 64 = privAddr o →
    (o + 1 ≤ 0x2000 →
      Writes (.ldb d a i) s 4 d ((BitVec.ofNat 8 (s.privNum o 1)).signExtend 64) ∧
      Writes (.ldbu d a i) s 4 d (BitVec.ofNat 64 (s.privNum o 1)) ∧
      Writes (.loadImm32 .ldb d e j) s 8 d ((BitVec.ofNat 8 (s.privNum o 1)).signExtend 64) ∧
      Writes (.loadImm32 .ldbu d e j) s 8 d (BitVec.ofNat 64 (s.privNum o 1))) ∧
    (o + 2 ≤ 0x2000 →
      Writes (.ldh d a i) s 4 d ((BitVec.ofNat 16 (s.privNum o 2)).signExtend 64) ∧
      Writes (.ldhu d a i) s 4 d (BitVec.ofNat 64 (s.privNum o 2)) ∧
      Writes (.loadImm32 .ldh d e j) s 8 d ((BitVec.ofNat 16 (s.privNum o 2)).signExtend 64) ∧
      Writes (.loadImm32 .ldhu d e j) s 8 d (BitVec.ofNat 64 (s.privNum o 2))) ∧
    (o + 4 ≤ 0x2000 →
      Writes (.ldw d a i) s 4 d ((BitVec.ofNat 32 (s.privNum o 4)).signExtend 64) ∧
      Writes (.ldwu d a i) s 4 d (BitVec.ofNat 64 (s.privNum o 4)) ∧
      Writes (.loadImm32 .ldw d e j) s 8 d ((BitVec.ofNat 32 (s.privNum o 4)).signExtend 64) ∧
      Writes (.loadImm32 .ldwu d e j) s 8 d (BitVec.ofNat 64 (s.privNum o 4)) ∧
      (s.me.ctl.ldv = true → s.reg s.me.ctl.ld + BitVec.ofNat 64 (4 * k.toNat) = privAddr o → Writes (.cLdw d k) s 2 d ((BitVec.ofNat 32 (s.privNum o 4)).signExtend 64))) ∧
    (o + 8 ≤ 0x2000 →
      Writes (.ldd d a i) s 4 d (BitVec.ofNat 64 (s.privNum o 8)) ∧
      Writes (.loadImm32 .ldd d e j) s 8 d (BitVec.ofNat 64 (s.privNum o 8)) ∧
      (s.me.ctl.ldv = true → s.reg s.me.ctl.ld + BitVec.ofNat 64 (8 * k.toNat) = privAddr o → Writes (.cLdd d k) s 2 d (BitVec.ofNat 64 (s.privNum o 8))))) ∧
  (∀ (s : State) (d a : Reg) (i : BitVec 14) (j : BitVec 32) (k : BitVec 5), s.Open →
    LoadsFrom (.ldb d a i) s 4 d (s.reg a + i.signExtend 64) 1 true ∧
    LoadsFrom (.ldbu d a i) s 4 d (s.reg a + i.signExtend 64) 1 false ∧
    LoadsFrom (.ldh d a i) s 4 d (s.reg a + i.signExtend 64) 2 true ∧
    LoadsFrom (.ldhu d a i) s 4 d (s.reg a + i.signExtend 64) 2 false ∧
    LoadsFrom (.ldw d a i) s 4 d (s.reg a + i.signExtend 64) 4 true ∧
    LoadsFrom (.ldwu d a i) s 4 d (s.reg a + i.signExtend 64) 4 false ∧
    LoadsFrom (.ldd d a i) s 4 d (s.reg a + i.signExtend 64) 8 false ∧
    LoadsFrom (.loadImm32 .ldb d a j) s 8 d (s.reg a + j.signExtend 64) 1 true ∧
    LoadsFrom (.loadImm32 .ldbu d a j) s 8 d (s.reg a + j.signExtend 64) 1 false ∧
    LoadsFrom (.loadImm32 .ldh d a j) s 8 d (s.reg a + j.signExtend 64) 2 true ∧
    LoadsFrom (.loadImm32 .ldhu d a j) s 8 d (s.reg a + j.signExtend 64) 2 false ∧
    LoadsFrom (.loadImm32 .ldw d a j) s 8 d (s.reg a + j.signExtend 64) 4 true ∧
    LoadsFrom (.loadImm32 .ldwu d a j) s 8 d (s.reg a + j.signExtend 64) 4 false ∧
    LoadsFrom (.loadImm32 .ldd d a j) s 8 d (s.reg a + j.signExtend 64) 8 false ∧
    (s.me.ctl.ldv = true → LoadsFrom (.cLdd d k) s 2 d (s.reg s.me.ctl.ld + BitVec.ofNat 64 (8 * k.toNat)) 8 false) ∧
    (s.me.ctl.ldv = true → LoadsFrom (.cLdw d k) s 2 d (s.reg s.me.ctl.ld + BitVec.ofNat 64 (4 * k.toNat)) 4 true))

/-- A store stores the low bytes of s[d], least significant first, at its address, and every other byte reads as before (R83, R17, R31, R84, R48, R321, R369, R371, R373). The model's own choices in it: logs 5, 10. -/
def Obligations.PrivateStoresWrite : Prop :=
  (∀ (s : State) (d a e : Reg) (i : BitVec 14) (j : BitVec 32) (k : BitVec 5) (o : Nat), s.Calm → s.eager = true →
    s.reg a + i.signExtend 64 = privAddr o → s.reg e + j.signExtend 64 = privAddr o →
    (o + 1 ≤ 0x2000 →
      Stores (.stb d a i) s 4 (s.privKey o) 1 (s.reg d) ∧
      Stores (.storeImm32 .stb d e j) s 8 (s.privKey o) 1 (s.reg d)) ∧
    (o + 2 ≤ 0x2000 →
      Stores (.sth d a i) s 4 (s.privKey o) 2 (s.reg d) ∧
      Stores (.storeImm32 .sth d e j) s 8 (s.privKey o) 2 (s.reg d)) ∧
    (o + 4 ≤ 0x2000 →
      Stores (.stw d a i) s 4 (s.privKey o) 4 (s.reg d) ∧
      Stores (.storeImm32 .stw d e j) s 8 (s.privKey o) 4 (s.reg d)) ∧
    (o + 8 ≤ 0x2000 →
      Stores (.std d a i) s 4 (s.privKey o) 8 (s.reg d) ∧
      Stores (.storeImm32 .std d e j) s 8 (s.privKey o) 8 (s.reg d) ∧
      (s.me.ctl.ldv = true → s.reg s.me.ctl.ld + BitVec.ofNat 64 (8 * k.toNat) = privAddr o → Stores (.cStd d k) s 2 (s.privKey o) 8 (s.reg d)))) ∧
  (∀ (s : State) (d a : Reg) (i : BitVec 14) (j : BitVec 32) (k : BitVec 5), s.Open →
    StoresTo (.stb d a i) s 4 (s.reg a + i.signExtend 64) 1 (s.reg d) ∧
    StoresTo (.sth d a i) s 4 (s.reg a + i.signExtend 64) 2 (s.reg d) ∧
    StoresTo (.stw d a i) s 4 (s.reg a + i.signExtend 64) 4 (s.reg d) ∧
    StoresTo (.std d a i) s 4 (s.reg a + i.signExtend 64) 8 (s.reg d) ∧
    StoresTo (.storeImm32 .stb d a j) s 8 (s.reg a + j.signExtend 64) 1 (s.reg d) ∧
    StoresTo (.storeImm32 .sth d a j) s 8 (s.reg a + j.signExtend 64) 2 (s.reg d) ∧
    StoresTo (.storeImm32 .stw d a j) s 8 (s.reg a + j.signExtend 64) 4 (s.reg d) ∧
    StoresTo (.storeImm32 .std d a j) s 8 (s.reg a + j.signExtend 64) 8 (s.reg d) ∧
    (s.me.ctl.ldv = true → StoresTo (.cStd d k) s 2 (s.reg s.me.ctl.ld + BitVec.ofNat 64 (8 * k.toNat)) 8 (s.reg d)))

/-- A 64-bit atomic on an aligned address writes the old doubleword to s[d] and stores the new one (R89, R90, R91, R17, R31, R369, R371, R373). The model's own choices in it: logs 5, 10. -/
def Obligations.PrivateAtomicsExchange64 : Prop :=
  (∀ (s : State) (d a b : Reg) (od : Order) (sc : Scope) (o : Nat), s.Calm → s.reg a = privAddr o → o + 8 ≤ 0x2000 → o % 8 = 0 →
    let old : BitVec 64 := BitVec.ofNat 64 (s.privNum o 8)
    let x : BitVec 64 := s.reg b
    Exchanges (.amoAddD d a b od sc) s od sc d (s.privKey o) 8 old (old + x) ∧
    Exchanges (.amoAndD d a b od sc) s od sc d (s.privKey o) 8 old (old &&& x) ∧
    Exchanges (.amoOrD d a b od sc) s od sc d (s.privKey o) 8 old (old ||| x) ∧
    Exchanges (.amoXorD d a b od sc) s od sc d (s.privKey o) 8 old (old ^^^ x) ∧
    Exchanges (.amoMinD d a b od sc) s od sc d (s.privKey o) 8 old (if old.slt x then old else x) ∧
    Exchanges (.amoMaxD d a b od sc) s od sc d (s.privKey o) 8 old (if old.slt x then x else old) ∧
    Exchanges (.amoMinuD d a b od sc) s od sc d (s.privKey o) 8 old (if old.ult x then old else x) ∧
    Exchanges (.amoMaxuD d a b od sc) s od sc d (s.privKey o) 8 old (if old.ult x then x else old) ∧
    Exchanges (.amoSwapD d a b od sc) s od sc d (s.privKey o) 8 old (x) ∧
    (old = s.reg d → Exchanges (.casD d a b od sc) s od sc d (s.privKey o) 8 old x) ∧
    (old ≠ s.reg d → ReadsOnly (.casD d a b od sc) s od sc d old)) ∧
  (∀ (s : State) (d a b : Reg) (od : Order) (sc : Scope), s.Open → (s.reg a).toNat % 8 = 0 →
    let x : BitVec 64 := s.reg b
    ExchangesAt (.amoAddD d a b od sc) s (.amo .add x) od sc d (s.reg a) 8 (fun old : BitVec 64 => some (old + x)) ∧
    ExchangesAt (.amoAndD d a b od sc) s (.amo .and x) od sc d (s.reg a) 8 (fun old : BitVec 64 => some (old &&& x)) ∧
    ExchangesAt (.amoOrD d a b od sc) s (.amo .or x) od sc d (s.reg a) 8 (fun old : BitVec 64 => some (old ||| x)) ∧
    ExchangesAt (.amoXorD d a b od sc) s (.amo .xor x) od sc d (s.reg a) 8 (fun old : BitVec 64 => some (old ^^^ x)) ∧
    ExchangesAt (.amoMinD d a b od sc) s (.amo .min x) od sc d (s.reg a) 8 (fun old : BitVec 64 => some (if old.slt x then old else x)) ∧
    ExchangesAt (.amoMaxD d a b od sc) s (.amo .max x) od sc d (s.reg a) 8 (fun old : BitVec 64 => some (if old.slt x then x else old)) ∧
    ExchangesAt (.amoMinuD d a b od sc) s (.amo .minu x) od sc d (s.reg a) 8 (fun old : BitVec 64 => some (if old.ult x then old else x)) ∧
    ExchangesAt (.amoMaxuD d a b od sc) s (.amo .maxu x) od sc d (s.reg a) 8 (fun old : BitVec 64 => some (if old.ult x then x else old)) ∧
    ExchangesAt (.amoSwapD d a b od sc) s (.amo .swap x) od sc d (s.reg a) 8 (fun _ : BitVec 64 => some (x)) ∧
    ExchangesAt (.casD d a b od sc) s .cas od sc d (s.reg a) 8 (fun old : BitVec 64 => if old = s.reg d then some x else none))

/-- A 32-bit atomic on an aligned address writes the old word sign-extended to s[d] and stores the new one (R89, R90, R91, R17, R31, R369, R371, R373). The model's own choices in it: logs 5, 10. -/
def Obligations.PrivateAtomicsExchange32 : Prop :=
  (∀ (s : State) (d a b : Reg) (od : Order) (sc : Scope) (o : Nat), s.Calm → s.reg a = privAddr o → o + 4 ≤ 0x2000 → o % 4 = 0 →
    let old : BitVec 32 := BitVec.ofNat 32 (s.privNum o 4)
    let x : BitVec 32 := (s.reg b).setWidth 32
    Exchanges (.amoAddW d a b od sc) s od sc d (s.privKey o) 4 (old.signExtend 64) ((old + x).setWidth 64) ∧
    Exchanges (.amoAndW d a b od sc) s od sc d (s.privKey o) 4 (old.signExtend 64) ((old &&& x).setWidth 64) ∧
    Exchanges (.amoOrW d a b od sc) s od sc d (s.privKey o) 4 (old.signExtend 64) ((old ||| x).setWidth 64) ∧
    Exchanges (.amoXorW d a b od sc) s od sc d (s.privKey o) 4 (old.signExtend 64) ((old ^^^ x).setWidth 64) ∧
    Exchanges (.amoMinW d a b od sc) s od sc d (s.privKey o) 4 (old.signExtend 64) ((if old.slt x then old else x).setWidth 64) ∧
    Exchanges (.amoMaxW d a b od sc) s od sc d (s.privKey o) 4 (old.signExtend 64) ((if old.slt x then x else old).setWidth 64) ∧
    Exchanges (.amoMinuW d a b od sc) s od sc d (s.privKey o) 4 (old.signExtend 64) ((if old.ult x then old else x).setWidth 64) ∧
    Exchanges (.amoMaxuW d a b od sc) s od sc d (s.privKey o) 4 (old.signExtend 64) ((if old.ult x then x else old).setWidth 64) ∧
    Exchanges (.amoSwapW d a b od sc) s od sc d (s.privKey o) 4 (old.signExtend 64) ((x).setWidth 64) ∧
    (old = (s.reg d).setWidth 32 → Exchanges (.casW d a b od sc) s od sc d (s.privKey o) 4 (old.signExtend 64) (x.setWidth 64)) ∧
    (old ≠ (s.reg d).setWidth 32 → ReadsOnly (.casW d a b od sc) s od sc d (old.signExtend 64))) ∧
  (∀ (s : State) (d a b : Reg) (od : Order) (sc : Scope), s.Open → (s.reg a).toNat % 4 = 0 →
    let x : BitVec 32 := (s.reg b).setWidth 32
    ExchangesAt (.amoAddW d a b od sc) s (.amo .add (s.reg b)) od sc d (s.reg a) 4 (fun old : BitVec 32 => some (old + x)) ∧
    ExchangesAt (.amoAndW d a b od sc) s (.amo .and (s.reg b)) od sc d (s.reg a) 4 (fun old : BitVec 32 => some (old &&& x)) ∧
    ExchangesAt (.amoOrW d a b od sc) s (.amo .or (s.reg b)) od sc d (s.reg a) 4 (fun old : BitVec 32 => some (old ||| x)) ∧
    ExchangesAt (.amoXorW d a b od sc) s (.amo .xor (s.reg b)) od sc d (s.reg a) 4 (fun old : BitVec 32 => some (old ^^^ x)) ∧
    ExchangesAt (.amoMinW d a b od sc) s (.amo .min (s.reg b)) od sc d (s.reg a) 4 (fun old : BitVec 32 => some (if old.slt x then old else x)) ∧
    ExchangesAt (.amoMaxW d a b od sc) s (.amo .max (s.reg b)) od sc d (s.reg a) 4 (fun old : BitVec 32 => some (if old.slt x then x else old)) ∧
    ExchangesAt (.amoMinuW d a b od sc) s (.amo .minu (s.reg b)) od sc d (s.reg a) 4 (fun old : BitVec 32 => some (if old.ult x then old else x)) ∧
    ExchangesAt (.amoMaxuW d a b od sc) s (.amo .maxu (s.reg b)) od sc d (s.reg a) 4 (fun old : BitVec 32 => some (if old.ult x then x else old)) ∧
    ExchangesAt (.amoSwapW d a b od sc) s (.amo .swap (s.reg b)) od sc d (s.reg a) 4 (fun _ : BitVec 32 => some (x)) ∧
    ExchangesAt (.casW d a b od sc) s .cas od sc d (s.reg a) 4
      (fun old : BitVec 32 => if old = (s.reg d).setWidth 32 then some x else none))

/-- Addresses of no window, beyond a limit or of another core, misaligned atomics and pages without a page table trap, with the address in TVAL (R31, R32, R88, R90, R138, R142, R320, R386, R388, R84). -/
def Obligations.BadAddressesTrap : Prop :=
  (∀ (s : State) (d a b : Reg) (i : BitVec 14) (j : BitVec 32) (l : LoadOp) (m : StoreOp) (od : Order) (sc : Scope), s.me.waits = false →
      (∀ w, w = s.reg a + i.signExtend 64 → windowOf w = none →
        Traps (.ldb d a i) s 8 w 0 ∧
        Traps (.ldbu d a i) s 8 w 0 ∧
        Traps (.ldh d a i) s 8 w 0 ∧
        Traps (.ldhu d a i) s 8 w 0 ∧
        Traps (.ldw d a i) s 8 w 0 ∧
        Traps (.ldwu d a i) s 8 w 0 ∧
        Traps (.ldd d a i) s 8 w 0 ∧
        Traps (.stb d a i) s 8 w 0 ∧
        Traps (.sth d a i) s 8 w 0 ∧
        Traps (.stw d a i) s 8 w 0 ∧
        Traps (.std d a i) s 8 w 0) ∧
      (∀ w, w = s.reg a + j.signExtend 64 → windowOf w = none →
        Traps (.loadImm32 l d a j) s 8 w 0 ∧ Traps (.storeImm32 m d a j) s 8 w 0) ∧
      (∀ w, w = s.reg a → windowOf w = none →
        (w.toNat % 8 = 0 →
          Traps (.amoAddD d a b od sc) s 8 w 0 ∧
          Traps (.amoAndD d a b od sc) s 8 w 0 ∧
          Traps (.amoOrD d a b od sc) s 8 w 0 ∧
          Traps (.amoXorD d a b od sc) s 8 w 0 ∧
          Traps (.amoMinD d a b od sc) s 8 w 0 ∧
          Traps (.amoMaxD d a b od sc) s 8 w 0 ∧
          Traps (.amoMinuD d a b od sc) s 8 w 0 ∧
          Traps (.amoMaxuD d a b od sc) s 8 w 0 ∧
          Traps (.amoSwapD d a b od sc) s 8 w 0 ∧
          Traps (.casD d a b od sc) s 8 w 0) ∧
        (w.toNat % 4 = 0 →
          Traps (.amoAddW d a b od sc) s 8 w 0 ∧
          Traps (.amoAndW d a b od sc) s 8 w 0 ∧
          Traps (.amoOrW d a b od sc) s 8 w 0 ∧
          Traps (.amoXorW d a b od sc) s 8 w 0 ∧
          Traps (.amoMinW d a b od sc) s 8 w 0 ∧
          Traps (.amoMaxW d a b od sc) s 8 w 0 ∧
          Traps (.amoMinuW d a b od sc) s 8 w 0 ∧
          Traps (.amoMaxuW d a b od sc) s 8 w 0 ∧
          Traps (.amoSwapW d a b od sc) s 8 w 0 ∧
          Traps (.casW d a b od sc) s 8 w 0)) ∧
      ((s.reg a).toNat % 8 ≠ 0 →
        Traps (.amoAddD d a b od sc) s 0x0A (s.reg a) 0 ∧
        Traps (.amoAndD d a b od sc) s 0x0A (s.reg a) 0 ∧
        Traps (.amoOrD d a b od sc) s 0x0A (s.reg a) 0 ∧
        Traps (.amoXorD d a b od sc) s 0x0A (s.reg a) 0 ∧
        Traps (.amoMinD d a b od sc) s 0x0A (s.reg a) 0 ∧
        Traps (.amoMaxD d a b od sc) s 0x0A (s.reg a) 0 ∧
        Traps (.amoMinuD d a b od sc) s 0x0A (s.reg a) 0 ∧
        Traps (.amoMaxuD d a b od sc) s 0x0A (s.reg a) 0 ∧
        Traps (.amoSwapD d a b od sc) s 0x0A (s.reg a) 0 ∧
        Traps (.casD d a b od sc) s 0x0A (s.reg a) 0) ∧
      ((s.reg a).toNat % 4 ≠ 0 →
        Traps (.amoAddW d a b od sc) s 0x0A (s.reg a) 0 ∧
        Traps (.amoAndW d a b od sc) s 0x0A (s.reg a) 0 ∧
        Traps (.amoOrW d a b od sc) s 0x0A (s.reg a) 0 ∧
        Traps (.amoXorW d a b od sc) s 0x0A (s.reg a) 0 ∧
        Traps (.amoMinW d a b od sc) s 0x0A (s.reg a) 0 ∧
        Traps (.amoMaxW d a b od sc) s 0x0A (s.reg a) 0 ∧
        Traps (.amoMinuW d a b od sc) s 0x0A (s.reg a) 0 ∧
        Traps (.amoMaxuW d a b od sc) s 0x0A (s.reg a) 0 ∧
        Traps (.amoSwapW d a b od sc) s 0x0A (s.reg a) 0 ∧
        Traps (.casW d a b od sc) s 0x0A (s.reg a) 0)) ∧
  (∀ (s : State) (d a : Reg) (i : BitVec 14) (va vb : Nat), s.me.waits = false →
      (s.cluster s.tid.cluster).tlb = [] → bitOf (s.rd (rPtroot s.tid.die s.me.ctl.tenant.toNat)) 0 = false →
      let w := s.reg a + i.signExtend 64
      windowOf w = some (.global va) →
      (windowOf (w + 0) = some (.global vb) →
        Traps (.ldb d a i) s 0x0B w 0 ∧
        Traps (.ldbu d a i) s 0x0B w 0 ∧
        Traps (.stb d a i) s 0x0B w 0) ∧
      (windowOf (w + 1) = some (.global vb) →
        Traps (.ldh d a i) s 0x0B w 0 ∧
        Traps (.ldhu d a i) s 0x0B w 0 ∧
        Traps (.sth d a i) s 0x0B w 0) ∧
      (windowOf (w + 3) = some (.global vb) →
        Traps (.ldw d a i) s 0x0B w 0 ∧
        Traps (.ldwu d a i) s 0x0B w 0 ∧
        Traps (.stw d a i) s 0x0B w 0) ∧
      (windowOf (w + 7) = some (.global vb) →
        Traps (.ldd d a i) s 0x0B w 0 ∧
        Traps (.std d a i) s 0x0B w 0)) ∧
  (∀ (s : State) (d a b : Reg) (i : BitVec 14) (j : BitVec 32) (l : LoadOp) (m : StoreOp) (od : Order) (sc : Scope), s.me.waits = false →
    WindowTraps (.ldb d a i) s (s.reg a + i.signExtend 64) 1 ∧
    WindowTraps (.ldbu d a i) s (s.reg a + i.signExtend 64) 1 ∧
    WindowTraps (.ldh d a i) s (s.reg a + i.signExtend 64) 2 ∧
    WindowTraps (.ldhu d a i) s (s.reg a + i.signExtend 64) 2 ∧
    WindowTraps (.ldw d a i) s (s.reg a + i.signExtend 64) 4 ∧
    WindowTraps (.ldwu d a i) s (s.reg a + i.signExtend 64) 4 ∧
    WindowTraps (.ldd d a i) s (s.reg a + i.signExtend 64) 8 ∧
    WindowTraps (.stb d a i) s (s.reg a + i.signExtend 64) 1 ∧
    WindowTraps (.sth d a i) s (s.reg a + i.signExtend 64) 2 ∧
    WindowTraps (.stw d a i) s (s.reg a + i.signExtend 64) 4 ∧
    WindowTraps (.std d a i) s (s.reg a + i.signExtend 64) 8 ∧
    WindowTraps (.loadImm32 l d a j) s (s.reg a + j.signExtend 64) (LoadOp.form l).1 ∧
    WindowTraps (.storeImm32 m d a j) s (s.reg a + j.signExtend 64) (StoreOp.width m) ∧
    ((s.reg a).toNat % 8 = 0 →
      WindowTraps (.amoAddD d a b od sc) s (s.reg a) 8 ∧
      WindowTraps (.amoAndD d a b od sc) s (s.reg a) 8 ∧
      WindowTraps (.amoOrD d a b od sc) s (s.reg a) 8 ∧
      WindowTraps (.amoXorD d a b od sc) s (s.reg a) 8 ∧
      WindowTraps (.amoMinD d a b od sc) s (s.reg a) 8 ∧
      WindowTraps (.amoMaxD d a b od sc) s (s.reg a) 8 ∧
      WindowTraps (.amoMinuD d a b od sc) s (s.reg a) 8 ∧
      WindowTraps (.amoMaxuD d a b od sc) s (s.reg a) 8 ∧
      WindowTraps (.amoSwapD d a b od sc) s (s.reg a) 8 ∧
      WindowTraps (.casD d a b od sc) s (s.reg a) 8) ∧
    ((s.reg a).toNat % 4 = 0 →
      WindowTraps (.amoAddW d a b od sc) s (s.reg a) 4 ∧
      WindowTraps (.amoAndW d a b od sc) s (s.reg a) 4 ∧
      WindowTraps (.amoOrW d a b od sc) s (s.reg a) 4 ∧
      WindowTraps (.amoXorW d a b od sc) s (s.reg a) 4 ∧
      WindowTraps (.amoMinW d a b od sc) s (s.reg a) 4 ∧
      WindowTraps (.amoMaxW d a b od sc) s (s.reg a) 4 ∧
      WindowTraps (.amoMinuW d a b od sc) s (s.reg a) 4 ∧
      WindowTraps (.amoMaxuW d a b od sc) s (s.reg a) 4 ∧
      WindowTraps (.amoSwapW d a b od sc) s (s.reg a) 4 ∧
      WindowTraps (.casW d a b od sc) s (s.reg a) 4))

/-- Where issued work waits, a store to the private window enters the write queue and the strand goes on; memory is not yet changed (R87, R83). -/
def Obligations.StoresEnterTheWriteQueue : Prop :=
  ∀ (s : State) (d a : Reg) (i : BitVec 14) (o : Nat), s.Calm → s.eager = false → s.reg a + i.signExtend 64 = privAddr o →
    let queued := fun (n : Nat) (t : State) =>
      t.me.writes = [wentry s (privAddr o) (privParts s o n) (natLe (s.reg d).toNat n)] ∧ t.agenda = s.agenda ++ [.writeQueueSend s.tid] ∧
        t.me.pc = s.me.pc + 4 ∧ t.mem = s.mem ∧ t.me.regs = s.me.regs ∧ t.others = s.others
    (o + 1 ≤ 0x2000 → ∃ t, exec (.stb d a i) s = .next t ∧ queued 1 t) ∧
    (o + 2 ≤ 0x2000 → ∃ t, exec (.sth d a i) s = .next t ∧ queued 2 t) ∧
    (o + 4 ≤ 0x2000 → ∃ t, exec (.stw d a i) s = .next t ∧ queued 4 t) ∧
    (o + 8 ≤ 0x2000 → ∃ t, exec (.std d a i) s = .next t ∧ queued 8 t)

/-- Scalar floating-point arithmetic completes, writes the result rounded once in the mode in force and ORs its flags into FFLAGS (R96, R97, R24, R18, R61). -/
def Obligations.FloatArithmeticWrites : Prop :=
  ∀ (s : State) (d a b : Reg) (t : FFmt) (r : Rm),
    (∀ v, v = (FF.ofFFmt t).add (s.rmode r) (s.fval t a) (s.fval t b) → WritesFlags (.fadd d a b t r) s 4 d (BitVec.ofNat 64 v.1) v.2 0) ∧
    (∀ v, v = (FF.ofFFmt t).add (s.rmode r) (s.fval t a) (s.fval t b).negate → WritesFlags (.fsub d a b t r) s 4 d (BitVec.ofNat 64 v.1) v.2 0) ∧
    (∀ v, v = (FF.ofFFmt t).mul (s.rmode r) (s.fval t a) (s.fval t b) → WritesFlags (.fmul d a b t r) s 4 d (BitVec.ofNat 64 v.1) v.2 0) ∧
    (∀ v, v = (FF.ofFFmt t).div (s.rmode r) (s.fval t a) (s.fval t b) → WritesFlags (.fdiv d a b t r) s 4 d (BitVec.ofNat 64 v.1) v.2 0) ∧
    (∀ v, v = (FF.ofFFmt t).sqrt (s.rmode r) (s.fval t a) → WritesFlags (.fsqrt d a t r) s 4 d (BitVec.ofNat 64 v.1) v.2 0) ∧
    (∀ v, v = (FF.ofFFmt t).fma (s.rmode r) false (s.fval t a) (s.fval t b) (s.fval t d) → WritesFlags (.fma d a b t r) s 4 d (BitVec.ofNat 64 v.1) v.2 0) ∧
    (∀ v, v = (FF.ofFFmt t).fma (s.rmode r) false (s.fval t a) (s.fval t b) (s.fval t d).negate → WritesFlags (.fms d a b t r) s 4 d (BitVec.ofNat 64 v.1) v.2 0) ∧
    (∀ v, v = (FF.ofFFmt t).fma (s.rmode r) true (s.fval t a) (s.fval t b) (s.fval t d) → WritesFlags (.fnma d a b t r) s 4 d (BitVec.ofNat 64 v.1) v.2 0)

/-- Invalid operations, divisions of zero and by zero, exact zero sums and NaNs give what the table of scalar arithmetic says (R96, R97). -/
def Obligations.FloatSpecialCases : Prop :=
  ∀ (t : FFmt) (mode : RMode) (n k : Bool) (m : Nat) (e g : Int) (x y : FVal) (neg : Bool),
    let f := FF.ofFFmt t
    let invalid : FRes := (f.canon, flagNV)
    let quiet : FRes := (f.canon, 0)
    (f.add mode (.inf n) (.inf (!n)) = invalid ∧
      f.fma mode neg (.inf n) (.inf k) (.inf (!(neg ^^ (n ^^ k)))) = invalid ∧
      (m ≠ 0 → f.fma mode neg (.fin n m e) (.inf k) (.inf (!(neg ^^ (n ^^ k)))) = invalid ∧
        f.fma mode neg (.inf n) (.fin k m e) (.inf (!(neg ^^ (n ^^ k)))) = invalid)) ∧
    (f.mul mode (.fin n 0 e) (.inf k) = invalid ∧ f.mul mode (.inf k) (.fin n 0 e) = invalid ∧
      f.fma mode neg (.fin n 0 e) (.inf k) x = invalid ∧ f.fma mode neg (.inf k) (.fin n 0 e) x = invalid) ∧
    (f.div mode (.fin n 0 e) (.fin k 0 g) = invalid ∧ f.div mode (.inf n) (.inf k) = invalid ∧
      (m ≠ 0 → f.sqrt mode (.fin true m e) = invalid) ∧ f.sqrt mode (.inf true) = invalid) ∧
    (f.add mode (.nan true) x = invalid ∧ f.add mode x (.nan true) = invalid ∧
      f.div mode (.nan true) x = invalid ∧ f.div mode x (.nan true) = invalid ∧
      f.mul mode (.nan true) x = invalid ∧ f.mul mode x (.nan true) = invalid ∧ f.sqrt mode (.nan true) = invalid ∧
      f.fma mode neg (.nan true) x y = invalid ∧ f.fma mode neg x (.nan true) y = invalid ∧ f.fma mode neg x y (.nan true) = invalid) ∧
    (m ≠ 0 → f.div mode (.fin n m e) (.fin k 0 g) = (f.signed (n ^^ k) f.infBits, flagDZ)) ∧
    f.sqrt mode (.fin true 0 e) = (f.signed true 0, 0) ∧
    (x ≠ .nan true → f.add mode (.nan false) x = quiet ∧ f.add mode x (.nan false) = quiet ∧
      f.mul mode (.nan false) x = quiet ∧ f.mul mode x (.nan false) = quiet ∧
      f.div mode (.nan false) x = quiet ∧ f.div mode x (.nan false) = quiet ∧ f.sqrt mode (.nan false) = quiet ∧
      (y ≠ .nan true → f.fma mode neg (.nan false) x y = quiet ∧ f.fma mode neg x (.nan false) y = quiet ∧
        ((∀ p q h, ¬(x = .fin p 0 h ∧ y = .inf q) ∧ ¬(x = .inf q ∧ y = .fin p 0 h)) → f.fma mode neg x y (.nan false) = quiet))) ∧
    f.add mode (.fin n m e) (.fin (!n) m e) = (f.signed (decide (mode = .rdn)) 0, 0) ∧
    f.add mode (.fin n 0 e) (.fin (!n) 0 g) = (f.signed (decide (mode = .rdn)) 0, 0)

/-- FMIN and FMAX give the smaller or larger operand with -0 below +0, the other operand for one NaN, the canonical NaN for two (R98). -/
def Obligations.MinimumAndMaximumPick : Prop :=
  ∀ (s : State) (d a b : Reg) (t : FFmt),
    let f := FF.ofFFmt t
    let x := (s.reg a).toNat % 2 ^ f.width
    let y := (s.reg b).toNat % 2 ^ f.width
    let A := f.value x
    let B := f.value y
    let below := fun (u v : FVal) => u.cmp v = .lt ∨ (u.cmp v = .eq ∧ (u.neg = true ∨ v.neg = false))
    let flags : BitVec 5 := if A.isSig = true ∨ B.isSig = true then flagNV else 0
    let picks := fun (v : Nat) =>
      (A.isNan = true → B.isNan = true → v = f.canon) ∧ (A.isNan = true → B.isNan = false → v = y) ∧
        (A.isNan = false → B.isNan = true → v = x)
    (∃ v, WritesFlags (.fmin d a b t) s 4 d (BitVec.ofNat 64 v) flags 0 ∧ picks v ∧
      (A.isNan = false → B.isNan = false → (v = x ∧ below A B) ∨ (v = y ∧ below B A))) ∧
    (∃ v, WritesFlags (.fmax d a b t) s 4 d (BitVec.ofNat 64 v) flags 0 ∧ picks v ∧
      (A.isNan = false → B.isNan = false → (v = x ∧ below B A) ∨ (v = y ∧ below A B)))

/-- FSGN writes every bit of s[a] but the sign, with the sign of s[b], its inverse or the exclusive or, and sets no flag (R99). -/
def Obligations.SignOperationsCopyEveryOtherBit : Prop :=
  ∀ (s : State) (d a b : Reg) (t : FFmt),
    let p := (FF.ofFFmt t).width - 1
    let result := fun (sign : Bool) (v : Word) =>
      ∀ k, k < 64 → v.getLsbD k = if k < p then (s.reg a).getLsbD k else decide (k = p) && sign
    (∃ v, Writes (.fsgnCopy d a b t) s 4 d v ∧ result ((s.reg b).getLsbD p) v) ∧
    (∃ v, Writes (.fsgnNeg d a b t) s 4 d v ∧ result (!(s.reg b).getLsbD p) v) ∧
    (∃ v, Writes (.fsgnXor d a b t) s 4 d v ∧ result ((s.reg a).getLsbD p ^^ (s.reg b).getLsbD p) v)

/-- FCMP writes 1 if the relation holds and 0 otherwise; a NaN makes it false, EQ raises NV for signalling NaNs only, LT and LE for any (R100). -/
def Obligations.FloatComparisonsWrite : Prop :=
  ∀ (s : State) (d a b : Reg) (t : FFmt),
    let A := s.fval t a
    let B := s.fval t b
    let ordered := A.isNan = false ∧ B.isNan = false
    let sig : BitVec 5 := if A.isSig = true ∨ B.isSig = true then flagNV else 0
    let any : BitVec 5 := if A.isNan = true ∨ B.isNan = true then flagNV else 0
    WritesFlags (.fcmpEq d a b t) s 4 d (if ordered ∧ A.cmp B = .eq then 1 else 0) sig 0 ∧
    WritesFlags (.fcmpLt d a b t) s 4 d (if ordered ∧ A.cmp B = .lt then 1 else 0) any 0 ∧
    WritesFlags (.fcmpLe d a b t) s 4 d (if ordered ∧ (A.cmp B = .lt ∨ A.cmp B = .eq) then 1 else 0) any 0

/-- FCLASS writes a value with exactly one bit set, the bit of the class that sign, exponent and fraction fields give (R101). -/
def Obligations.ClassesAreOneBit : Prop :=
  ∀ (s : State) (d a : Reg) (t : FFmt),
    let f := FF.ofFFmt t
    let x := (s.reg a).toNat % 2 ^ f.width
    let neg : Bool := decide (2 ^ (f.width - 1) ≤ x)
    let ex := x / 2 ^ f.frac % (f.expMax + 1)
    let fr := x % 2 ^ f.frac
    let k : Nat :=
      if ex = f.expMax then (if fr = 0 then (if neg then 0 else 7) else if fr < 2 ^ (f.frac - 1) then 8 else 9)
      else if ex = 0 then (if fr = 0 then (if neg then 3 else 4) else if neg then 2 else 5)
      else if neg then 1 else 6
    Writes (.fclass d a t) s 4 d (BitVec.ofNat 64 (2 ^ k))

/-- FCVT from FP16 or BF16 to FP32 or FP64, and from FP32 to FP64, of a number is exact, keeps its sign and sets no flag (R102). -/
def Obligations.WideningConversionsAreExact : Prop :=
  ∀ (s : State) (d a : Reg) (r : Rm) (c : NumTy) (g t : FFmt),
    (c, g, t) = (.fp16, .fp16, .fp32) ∨ (c, g, t) = (.fp16, .fp16, .fp64) ∨ (c, g, t) = (.bf16, .bf16, .fp32) ∨
      (c, g, t) = (.bf16, .bf16, .fp64) ∨ (c, g, t) = (.fp32, .fp32, .fp64) →
    (s.fval g a).isNan = false →
    ∃ v : Nat, Writes (.fcvtToFloat d a c t r) s 4 d (BitVec.ofNat 64 v) ∧
      ((FF.ofFFmt t).value v).cmp (s.fval g a) = .eq ∧ ((FF.ofFFmt t).value v).neg = (s.fval g a).neg

/-- FCVT completes in both directions; out of range and NaN operands of a conversion to an integer give its bounds and zero with NV (R102, R103, R96). -/
def Obligations.ConversionsWrite : Prop :=
  ∀ (s : State) (d a : Reg) (t : FFmt) (r : Rm),
    let f := FF.ofFFmt t
    let mode := s.rmode r
    (∀ c v, v = f.ofInt mode (s.reg a).toInt → c = NumTy.sint64 → WritesFlags (.fcvtToFloat d a c t r) s 4 d (BitVec.ofNat 64 v.1) v.2 0) ∧
    (∀ c v, v = f.ofInt mode (s.reg a).toNat → c = NumTy.uint64 → WritesFlags (.fcvtToFloat d a c t r) s 4 d (BitVec.ofNat 64 v.1) v.2 0) ∧
    (∀ c v, v = f.ofInt mode ((s.reg a).extractLsb' 0 32).toInt → c = NumTy.sint32 →
      WritesFlags (.fcvtToFloat d a c t r) s 4 d (BitVec.ofNat 64 v.1) v.2 0) ∧
    (∀ c v, v = f.ofInt mode ((s.reg a).extractLsb' 0 32).toNat → c = NumTy.uint32 →
      WritesFlags (.fcvtToFloat d a c t r) s 4 d (BitVec.ofNat 64 v.1) v.2 0) ∧
    (∀ c g v, v = f.ofVal mode (s.fval g a) → c = g.numTy → WritesFlags (.fcvtToFloat d a c t r) s 4 d (BitVec.ofNat 64 v.1) v.2 0) ∧
    (∀ c lo hi, (c, lo, hi) ∈ [(NumTy.sint64, (-(2 ^ 63) : Int), (2 ^ 63 - 1 : Int)), (.uint64, 0, 2 ^ 64 - 1),
        (.sint32, -(2 ^ 31), 2 ^ 31 - 1), (.uint32, 0, 2 ^ 32 - 1)] →
      (∀ x, s.fval t a = .nan x → WritesFlags (.fcvtToInt d a c t r) s 4 d 0 flagNV 0) ∧
      (∀ n, s.fval t a = .inf n → WritesFlags (.fcvtToInt d a c t r) s 4 d (BitVec.ofInt 64 (if n then lo else hi)) flagNV 0) ∧
      (∀ v, v = toInteger mode lo hi (s.fval t a) → WritesFlags (.fcvtToInt d a c t r) s 4 d (BitVec.ofInt 64 v.1) v.2 0))

/-- SPACE writes the window code of an address or all ones, CASTG makes window addresses, CASTS recovers offsets or traps (R93, R94, R95, R31, R32, R320). -/
def Obligations.AddressWindowsAreClassified : Prop :=
  ∀ (s : State) (d a : Reg),
    let x := s.reg a
    let field := fun (lo n : Nat) => x.toNat / 2 ^ lo % 2 ^ n
    let code : Word :=
      if field 56 8 = 0 ∧ field 48 8 = 0 then 0
      else if field 56 8 = 0xE0 ∧ field 13 43 = 0 then 1
      else if field 56 8 = 0xE1 ∧ field 43 13 = 0 ∧ field 16 16 = 0 then 2
      else if field 56 8 = 0xE2 ∧ field 39 17 = 0 ∧ field 21 11 = 0 then 3
      else BitVec.allOnes 64
    Writes (.space d a) s 4 d code ∧
    Writes (.castg d a 1) s 4 d (0xE000000000000000 + x) ∧
    Writes (.castg d a 2) s 4 d (0xE100000000000000 + BitVec.ofNat 64 (s.tid.toNat / 4 * 2 ^ 32) + x) ∧
    Writes (.castg d a 3) s 4 d (0xE200000000000000 + BitVec.ofNat 64 (s.tid.toNat / 64 * 2 ^ 32) + x) ∧
    (code = 0 → Writes (.casts d a 0) s 4 d (BitVec.ofNat 64 (field 0 48))) ∧
    (code = 1 → Writes (.casts d a 1) s 4 d (BitVec.ofNat 64 (field 0 13))) ∧
    (code = 2 → field 32 11 = s.tid.toNat / 4 → Writes (.casts d a 2) s 4 d (BitVec.ofNat 64 (field 0 16))) ∧
    (code = 2 → field 32 11 ≠ s.tid.toNat / 4 → Traps (.casts d a 2) s 9 x 0) ∧
    (code = 3 → field 0 21 < 0x10000 * fld (s.rd (rCswin (field 32 7) s.me.ctl.tenant.toNat)) 0 8 →
      Writes (.casts d a 3) s 4 d (BitVec.ofNat 64 (field 0 21))) ∧
    (code = 3 → 0x10000 * fld (s.rd (rCswin (field 32 7) s.me.ctl.tenant.toNat)) 0 8 ≤ field 0 21 → Traps (.casts d a 3) s 8 x 0) ∧
    (∀ w : BitVec 3, w.toNat < 4 → code ≠ BitVec.ofNat 64 w.toNat → Traps (.casts d a w) s 8 x 0)

/-- RDC writes the value of the control register to s[d], a register of class 0b10 traps at application level and an unassigned number always does (R20, R22, R105, R107, R24, R144, R190). -/
def Obligations.RdcReadsTheRegister : Prop :=
  ∀ (s : State) (d : Reg),
    Writes (.rdc d 0x001) s 4 d (s.me.ctl.es.setWidth 64) ∧
    Writes (.rdc d 0x002) s 4 d (s.me.ctl.seed) ∧
    Writes (.rdc d 0x003) s 4 d (s.me.ctl.sbase) ∧
    Writes (.rdc d 0x005) s 4 d (s.me.ctl.frm.setWidth 64) ∧
    Writes (.rdc d 0x007) s 4 d (s.me.ctl.rnscfg.setWidth 64) ∧
    Writes (.rdc d 0x008) s 4 d (s.me.ctl.trows.setWidth 64) ∧
    Writes (.rdc d 0x009) s 4 d (s.me.ctl.tcols.setWidth 64) ∧
    Writes (.rdc d 0x400) s 4 d (s.me.ctl.vl.setWidth 64) ∧
    Writes (.rdc d 0x401) s 4 d (s.me.ctl.vt.setWidth 64) ∧
    Writes (.rdc d 0x402) s 4 d (s.me.ctl.lg.setWidth 64) ∧
    Writes (.rdc d 0x403) s 4 d (s.me.ctl.shape.setWidth 64) ∧
    Writes (.rdc d 0x404) s 4 d (BitVec.ofNat 64 s.me.vlmax) ∧
    Writes (.rdc d 0x410) s 4 d (s.tid.setWidth 64) ∧
    Writes (.rdc d 0x411) s 4 d (s.me.ctl.tenant.setWidth 64) ∧
    Writes (.rdc d 0x412) s 4 d (s.me.ctl.part.setWidth 64) ∧
    Writes (.rdc d 0x420) s 4 d (BitVec.ofNat 64 s.time) ∧
    Writes (.rdc d 0x421) s 4 d (BitVec.ofNat 64 s.cycle) ∧
    Writes (.rdc d 0x430) s 4 d (s.me.ctl.idx0) ∧
    Writes (.rdc d 0x431) s 4 d (s.me.ctl.idx1) ∧
    Writes (.rdc d 0x432) s 4 d (s.me.ctl.idx2) ∧
    Writes (.rdc d 0x433) s 4 d (s.me.ctl.idx3) ∧
    Writes (.rdc d 0x440) s 4 d (BitVec.ofNat 64 s.me.msgs.length) ∧
    Writes (.rdc d 0x450) s 4 d (BitVec.ofNat 64 s.sys.lull.start) ∧
    Writes (.rdc d 0x451) s 4 d (s.sys.lull.kind) ∧
    ((s.me.ctl.priv = .app → s.me.queue = []) →
      Writes (.rdc d 0x004) s 4 d (s.me.ctl.fflags.setWidth 64) ∧ Writes (.rdc d 0x006) s 4 d (s.me.ctl.iflags.setWidth 64)) ∧
    (s.me.ctl.priv = .app → s.me.queue ≠ [] → exec (.rdc d 0x004) s = .next s ∧ exec (.rdc d 0x006) s = .next s) ∧
    (s.me.queue.length ≤ 8 → ∃ v, Writes (.rdc d 0x405) s 4 d v ∧ v.extractLsb' 0 4 = BitVec.ofNat 4 s.me.queue.length ∧
      v.getLsbD 4 = decide ((s.me.slot 0).phase ≠ .free) ∧ v.getLsbD 5 = decide ((s.me.slot 1).phase ≠ .free) ∧
      v.getLsbD 6 = decide ((s.me.slot 2).phase ≠ .free) ∧ v.getLsbD 7 = decide ((s.me.slot 3).phase ≠ .free) ∧
      v.getLsbD 8 = s.me.ctl.sql ∧ v.extractLsb' 9 55 = 0) ∧
    (s.me.ctl.priv ≠ .app →
      Writes (.rdc d 0x801) s 4 d (s.me.ctl.tvec) ∧
      Writes (.rdc d 0x802) s 4 d (s.me.ctl.epc) ∧
      Writes (.rdc d 0x803) s 4 d (s.me.ctl.cause.setWidth 64) ∧
      Writes (.rdc d 0x804) s 4 d (s.me.ctl.tval) ∧
      Writes (.rdc d 0x805) s 4 d (s.me.ctl.tval2) ∧
      ∃ v, Writes (.rdc d 0x800) s 4 d v ∧ v.extractLsb' 0 2 = BitVec.ofNat 2 s.me.ctl.priv.code ∧
        v.extractLsb' 2 2 = BitVec.ofNat 2 s.me.ctl.ppriv.code ∧ v.extractLsb' 4 4 = 0 ∧ v.getLsbD 8 = s.me.ctl.move ∧
        v.getLsbD 9 = decide (s.me.ctl.lg ≠ 0) ∧ v.getLsbD 10 = s.me.ctl.mt ∧ v.getLsbD 11 = s.me.ctl.rchk ∧
        v.getLsbD 12 = s.me.ctl.ldv ∧ v.extractLsb' 13 5 = s.me.ctl.ld ∧ v.getLsbD 18 = s.me.ctl.pldv ∧
        v.extractLsb' 19 5 = s.me.ctl.pld ∧ v.extractLsb' 24 40 = 0) ∧
    (s.me.ctl.priv = .app → ∀ n : BitVec 12, 0x800 ≤ n → n ≤ 0x805 → Traps (.rdc d n) s 0x03 (Words.enc s.ir) 0) ∧
    (∀ n : BitVec 12, n ∉ [0x001#12, 0x002#12, 0x003#12, 0x004#12, 0x005#12, 0x006#12, 0x007#12, 0x008#12, 0x009#12, 0x400#12, 0x401#12, 0x402#12, 0x403#12, 0x404#12, 0x405#12, 0x410#12, 0x411#12, 0x412#12, 0x420#12, 0x421#12, 0x430#12, 0x431#12, 0x432#12, 0x433#12, 0x440#12, 0x450#12, 0x451#12, 0x800#12, 0x801#12, 0x802#12, 0x803#12, 0x804#12, 0x805#12] →
      Traps (.rdc d n) s 0x02 (Words.enc s.ir) 0)

/-- WRC, SETC and CLRC write the value that would result where the rules allow it, change no other field, and trap where they do not (R105, R20, R7, R22, R24, R25, R26, R106, R144, R310). -/
def Obligations.ControlWritesTakeEffect : Prop :=
  ∀ (s : State) (v : Word),
    ((s.me.ctl.priv = .app → s.me.queue = []) →
      (v.extractLsb' 32 32 = 0 → CtlWrites s 0x001 v (.next (s.withCtl { s.me.ctl with es := v.setWidth 32 }))) ∧ (¬(v.extractLsb' 32 32 = 0) → CtlTraps s 0x001 v 0x02) ∧
      CtlWrites s 0x002 v (.next (s.withCtl { s.me.ctl with seed := v })) ∧
      CtlWrites s 0x003 v (.next (s.withCtl { s.me.ctl with sbase := v })) ∧
      (v.extractLsb' 5 59 = 0 → CtlWrites s 0x004 v (.next (s.withCtl { s.me.ctl with fflags := v.setWidth 5 }))) ∧ (¬(v.extractLsb' 5 59 = 0) → CtlTraps s 0x004 v 0x02) ∧
      (v.toNat ≤ 4 → CtlWrites s 0x005 v (.next (s.withCtl { s.me.ctl with frm := v.setWidth 3 }))) ∧ (¬(v.toNat ≤ 4) → CtlTraps s 0x005 v 0x02) ∧
      (v.extractLsb' 4 60 = 0 → CtlWrites s 0x006 v (.next (s.withCtl { s.me.ctl with iflags := v.setWidth 4 }))) ∧ (¬(v.extractLsb' 4 60 = 0) → CtlTraps s 0x006 v 0x02) ∧
      (1 ≤ v.toNat ∧ v.toNat ≤ 64 → CtlWrites s 0x008 v (.next (s.withCtl { s.me.ctl with trows := v.setWidth 7 }))) ∧ (¬(1 ≤ v.toNat ∧ v.toNat ≤ 64) → CtlTraps s 0x008 v 0x02) ∧
      (1 ≤ v.toNat ∧ v.toNat ≤ 64 → CtlWrites s 0x009 v (.next (s.withCtl { s.me.ctl with tcols := v.setWidth 7 }))) ∧ (¬(1 ≤ v.toNat ∧ v.toNat ≤ 64) → CtlTraps s 0x009 v 0x02) ∧
      (v.extractLsb' 10 54 = 0 → (s.me.ctl.priv = .app → v.extractLsb' 0 8 = s.me.ctl.rnscfg.extractLsb' 0 8) →
        (s.me.ctl.priv ≠ .app → v.extractLsb' 0 8 ∈ [0xFF#8, 0xBF#8, 0x7F#8, 0xFE#8, 0xFD#8, 0xFB#8, 0xF7#8, 0xEF#8, 0xDF#8]) →
        CtlWrites s 0x007 v (.next (s.withCtl { s.me.ctl with rnscfg := v.setWidth 10 }))) ∧
      (v.extractLsb' 10 54 ≠ 0 ∨ (s.me.ctl.priv = .app ∧ v.extractLsb' 0 8 ≠ s.me.ctl.rnscfg.extractLsb' 0 8) ∨
        (s.me.ctl.priv ≠ .app ∧ v.extractLsb' 0 8 ∉ [0xFF#8, 0xBF#8, 0x7F#8, 0xFE#8, 0xFD#8, 0xFB#8, 0xF7#8, 0xEF#8, 0xDF#8]) → CtlTraps s 0x007 v 0x02)) ∧
    (s.me.ctl.priv = .app → s.me.queue ≠ [] → ∀ n : BitVec 12, 1 ≤ n → n ≤ 9 → CtlWrites s n v (.next s)) ∧
    (s.me.ctl.priv ≠ .app →
      (v.extractLsb' 4 60 = 0 → CtlWrites s 0x412 v (.next (s.withCtl { s.me.ctl with part := v.setWidth 4 }))) ∧
      (v.extractLsb' 0 2 = 0 → CtlWrites s 0x801 v (.next (s.withCtl { s.me.ctl with tvec := v }))) ∧ (¬(v.extractLsb' 0 2 = 0) → CtlTraps s 0x801 v 0x02) ∧
      CtlWrites s 0x802 v (.next (s.withCtl { s.me.ctl with epc := v })) ∧
      (v.extractLsb' 7 57 = 0 → CtlWrites s 0x803 v (.next (s.withCtl { s.me.ctl with cause := v.setWidth 7 }))) ∧ (¬(v.extractLsb' 7 57 = 0) → CtlTraps s 0x803 v 0x02) ∧
      CtlWrites s 0x804 v (.next (s.withCtl { s.me.ctl with tval := v })) ∧
      CtlWrites s 0x805 v (.next (s.withCtl { s.me.ctl with tval2 := v })) ∧
      (∀ p : Priv, v &&& 0xFFFFFFFFFF0000F0 = 0 → v.extractLsb' 2 2 = BitVec.ofNat 2 p.code → p.code ≤ s.me.ctl.priv.code →
        CtlWrites s 0x800 v (.next (s.withCtl
          { s.me.ctl with pld := v.extractLsb' 19 5, pldv := v.getLsbD 18, rchk := v.getLsbD 11, ppriv := p }))) ∧
      (v &&& 0xFFFFFFFFFF0000F0 ≠ 0 ∨ v.extractLsb' 2 2 = 2 ∨ s.me.ctl.priv.code < (v.extractLsb' 2 2).toNat →
        CtlTraps s 0x800 v 0x02)) ∧
    (s.me.ctl.priv = .app → ∀ n : BitVec 12, 0x800 ≤ n → n ≤ 0x805 → CtlTraps s n v 0x03) ∧
    (∀ n : BitVec 12, n ∈ [0x400#12, 0x401#12, 0x402#12, 0x403#12, 0x404#12, 0x405#12, 0x410#12, 0x411#12, 0x420#12, 0x421#12, 0x430#12, 0x431#12, 0x432#12, 0x433#12, 0x440#12, 0x450#12, 0x451#12] →
      CtlTraps s n v 0x02) ∧
    (s.me.ctl.priv = .app → CtlTraps s 0x412 v 0x02)

/-- ERET goes to EPC with bit 0 clear at level PPRIV, restores the last destination, and at application level raises privilege violation (R113, R27, R146, R304, R313). The model's own choice in it: log 46. -/
def Obligations.EretReturns : Prop :=
  ∀ s : State,
    (s.me.ctl.priv = .app → Traps .eret s 0x03 (Words.enc s.ir) 0) ∧
    (s.me.ctl.priv ≠ .app →
      ∃ es q v, let t : State := { s with
          me := { s.me with
            pc := s.me.ctl.epc &&& ~~~1
            queue := q
            vec := v
            ctl := { s.me.ctl with
              priv := s.me.ctl.ppriv, ppriv := .app, ld := s.me.ctl.pld, ldv := s.me.ctl.pldv, es := es } } }
        exec .eret s = .next t.unhold ∧ (s.me.queue = [] → q = [] ∧ v = s.me.vec ∧ t.unhold = t) ∧
        (s.me.ctl.ppriv ≠ .app ∨ s.me.ctl.cause.getLsbD 6 = false → es = s.me.ctl.es ∧ q = s.me.queue ∧ v = s.me.vec) ∧
        (s.me.ctl.ppriv = .app → s.me.ctl.cause.getLsbD 6 = true →
          es = 0 ∧ q.tail = s.me.queue.tail ∧ ∀ h r, s.me.queue = h :: r →
            q = { h.giveUp s.me.ctl.es.toNat with first := s.me.ctl.es.toNat, next := s.me.ctl.es.toNat, fault := none } :: r ∧
              v = (match h.op with
                | .tcvt d k => if k ≠ 1 ∧ h.first < h.next ∧ h.total s.me ≤ s.me.ctl.es.toNat then
                    s.me.vec.setWeight d.toNat (2 ^ 64 - 1) else s.me.vec
                | _ => s.me.vec)))

/-- SVC and BRK trap with their causes, EPC at the instruction, TVAL = k and TVAL2 = 0; a supervisor call goes to firmware, an attached debugger takes a breakpoint (R111, R112, R179). The model's own choice in it: log 49. -/
def Obligations.SystemCallsAndBreakpointsTrap : Prop :=
  ∀ (s : State) (k : BitVec 10),
    (s.me.ctl.priv = .app → Traps (.svc k) s 0x06 (k.setWidth 64) 0) ∧
    (s.me.ctl.priv = .sup → exec (.svc k) s = .next { s with
        me := { s.me with
          run := .firmwareCall
          ctl := { s.me.ctl with epc := s.me.pc, cause := 0x06, tval := k.setWidth 64, tval2 := 0 } } }) ∧
    (s.me.ctl.priv = .fw → Traps (.svc k) s 0x02 (Words.enc s.ir) 0) ∧
    (s.me.attach = false ∨ s.me.brken = false → Traps (.brk k) s 0x05 (k.setWidth 64) 0) ∧
    (s.me.attach = true → s.me.brken = true → exec (.brk k) s = .next { s with
        agenda := s.agenda ++ [.debugHalt s.tid]
        me := { s.me with pc := s.me.pc + 4, hcause := 1, ctl := { s.me.ctl with ldv := false } } })

/-- NOP and every other hint only advance the pc and clear LDV; a row-activate hint adds at most its own arrival (R57, R27, R382). -/
def Obligations.HintsOnlyAdvance : Prop :=
  ∀ (s : State) (a b : Reg) (f : BitVec 6) (m : MReg),
    Goes .nop s (s.me.pc + 4) ∧ Goes (.hint a b f m) s (s.me.pc + 4) ∧
    (s.ractTarget (s.reg a) = none → Goes (.ract a) s (s.me.pc + 4)) ∧
    (∀ pa, s.ractTarget (s.reg a) = some pa →
      ∃ t, exec (.ract a) s = .next { t with
          agenda := t.agenda ++ [.ractArrival 0], sys := { t.sys with racts := t.sys.racts ++ [pa] } } ∧
        Went s t (s.me.pc + 4)) ∧
    (windowOf (s.reg a) = none → s.ractTarget (s.reg a) = none)

/-- TRIGGER marks the strand and goes on; EXIT leaves the strand exiting, and above application level discards the held entries (R115, R116, R144, R27). -/
def Obligations.TriggerAndExitIssue : Prop :=
  ∀ s : State,
    (∃ es, exec .trigger s = .next { s with
        agenda := s.agenda ++ es
        fresh := s.fresh + 1
        me := { s.me with
          trigIssued := true, trigAt := if s.me.trigIssued then s.me.trigAt else s.fresh + 1, pc := s.me.pc + 4
          ctl := { s.me.ctl with ldv := false } } } ∧
      (s.me.trigCounted = false → s.me.queue = [] → s.me.writes = [] → s.me.posted = [] → s.me.seen = [] → s.me.pend = [] →
        .triggerMarkCount s.tid ∈ es)) ∧
    (∃ es q p sl sc, exec .exit s = .next { s with
        agenda := s.agenda ++ es, sys := { s.sys with scRun := sc }
        me := { s.me with run := .exiting, queue := q, pend := p, slots := sl } } ∧
      (s.me.ctl.priv = .app → q = s.me.queue ∧ p = s.me.pend ∧ sl = s.me.slots ∧ sc = s.sys.scRun) ∧
      (s.me.ctl.priv ≠ .app → q = [] ∧ sc = (if s.sys.scRun = some s.tid then none else s.sys.scRun) ∧
        (∀ x, x ∈ p ↔ x ∈ s.me.pend ∧ (∀ e ∈ s.me.queue, x.ofEntry e.id = true → x.fail = none ∧ ∃ n o v, x.acc = .amo n o v) ∧
          (x.parts = [] → ∀ e n, x.owner ≠ .elem e n)) ∧ ∀ k : BitVec 2, sl[k.toNat]'(k.isLt) = { s.me.slot k with ahead := 0 }) ∧
      (s.me.queue = [] → s.me.writes = [] → s.me.posted = [] → s.me.seen = [] → s.me.pend = [] → s.me.sends = [] →
        (∀ k : BitVec 2, (s.me.slot k).phase ≠ .busy) → .exitFinish s.tid ∈ es))

/-- LULLQ writes what its selector asks of the calendar, all ones for any other selector, and LULLW parks the strand (R422, R423, R420, R424). -/
def Obligations.LullQueriesAnswer : Prop :=
  ∀ (s : State) (d a : Reg),
    (s.reg a = 0 → Writes (.lullq d a) s 4 d (BitVec.ofNat 64 s.sys.lull.start)) ∧
    (s.reg a = 1 → Writes (.lullq d a) s 4 d s.sys.lull.kind) ∧
    (s.reg a = 2 → Writes (.lullq d a) s 4 d (BitVec.ofNat 64 s.sys.lull.stop)) ∧
    (s.reg a = 3 →
      (s.sys.lull.phase = .clear → Writes (.lullq d a) s 4 d 0) ∧ (s.sys.lull.phase = .drain → Writes (.lullq d a) s 4 d 1) ∧
      (s.sys.lull.phase = .lull → s.sys.lull.late = 0 → Writes (.lullq d a) s 4 d 2) ∧
      (s.sys.lull.phase = .lull → s.sys.lull.late ≠ 0 → Writes (.lullq d a) s 4 d 3)) ∧
    (s.reg a = 4 → Writes (.lullq d a) s 4 d (BitVec.ofNat 64 s.sys.lull.overruns)) ∧
    (s.reg a = 5 → Writes (.lullq d a) s 4 d (BitVec.ofNat 64 s.sys.lull.lastEnd)) ∧
    ((6 : Word) ≤ s.reg a → Writes (.lullq d a) s 4 d (BitVec.allOnes 64)) ∧
    exec .lullw s = .next { s with me := { s.me with run := .parked (.lullw s.sys.lull.spans), parkedAt := s.sys.pool } }

/-- SEND writes 2 for a bad header, 1 when the mailbox is full, and otherwise writes 0 and holds the message with a reservation until it leaves (R163, R166, R165, R172, R174). -/
def Obligations.SendReservesOrReports : Prop :=
  ∀ (s : State) (d a b : Reg),
    ((s.reg a).extractLsb' 13 29 ≠ 0 → Writes (.send d a b) s 4 d 2) ∧
    ((s.reg a).extractLsb' 13 29 = 0 → 32 ≤ s.mailUse s.tid.core → Writes (.send d a b) s 4 d 1) ∧
    ((s.reg a).extractLsb' 13 29 = 0 → s.mailUse s.tid.core < 32 →
      ∃ t es, exec (.send d a b) s = .next t ∧
        Wrote { s with agenda := s.agenda ++ es, me := { s.me with
            resv := s.me.resv + 1, sends := s.me.sends ++ [(s.reg a, s.reg b)] } } t 4 d 0 ∧
        (s.me.sends = [] → s.me.writes = [] → s.me.seen = [] → s.me.waits = false → .sendDepart s.tid ∈ es))

/-- RECV takes the oldest message to s[d] and s[a], or the empty header and 0; a = d ≠ 0 is illegal; POLLMSG only counts (R164, R165, R168, R169, R174, R334). -/
def Obligations.RecvTakesTheOldestMessage : Prop :=
  ∀ (s : State) (d a : Reg),
    (a = d → d ≠ 0 → Traps (.recv d a) s 0x02 (Words.enc s.ir) 0) ∧
    (a ≠ d ∨ d = 0 → s.me.msgs = [] →
      ∃ t, exec (.recv d a) s = .next t ∧ t.reg d = 0 ∧ t.reg a = (if a = 0 then 0 else BitVec.allOnes 64) ∧
        (∀ r, r ≠ d → r ≠ a → t.reg r = s.reg r) ∧ t.me.pc = s.me.pc + 4 ∧ KeptButRegs s t) ∧
    (∀ m r, a ≠ d ∨ d = 0 → s.me.msgs = m :: r → bitOf (s.rd (rDinj s.tid.cluster)) 63 = false → hdrKind m.header ≠ 1 →
      ∃ t es, exec (.recv d a) s = .next t ∧ t.reg d = (if d = 0 then 0 else m.payload) ∧
        t.reg a = (if a = 0 then 0 else m.header) ∧ (∀ q, q ≠ d → q ≠ a → t.reg q = s.reg q) ∧
        t.me.pc = s.me.pc + 4 ∧ t.me.ctl.ldv = decide (d ≠ 0) ∧
        KeptButRegs { (if hdrKind m.header = 0 then s.acquire s.tid.cluster m.scope else s) with
          agenda := s.agenda ++ es, me := { s.me with msgs := r } } t) ∧
    (∀ m r, a ≠ d ∨ d = 0 → s.me.msgs = m :: r → bitOf (s.rd (rDinj s.tid.cluster)) 63 = false → hdrKind m.header = 1 →
      ∃ t, exec (.recv d a) s = .next t ∧ t.reg d = (if d = 0 then 0 else m.payload) ∧
        t.reg a = (if a = 0 then 0 else m.header) ∧ (t.me.slot (m.header.extractLsb' 58 2)).phase = .free ∧
        ∀ x ∈ t.me.msgs, x ∈ r) ∧
    (s.me.msgs = [] → Writes (.pollmsg d) s 4 d 0) ∧
    (∀ m r, s.me.msgs = m :: r → bitOf (s.rd (rDinj s.tid.cluster)) 63 = false → ∃ v, Writes (.pollmsg d) s 4 d v ∧
      (s.me.msgs.length ≤ 32 → v.extractLsb' 0 8 = BitVec.ofNat 8 s.me.msgs.length) ∧
      (s.me.msgs.length ≤ 32 → v.extractLsb' 8 2 = m.header.extractLsb' 40 2) ∧
      (s.me.msgs.length ≤ 32 → v.getLsbD 10 = m.header.getLsbD 47) ∧
      (s.me.msgs.length ≤ 32 → v.extractLsb' 11 53 = 0))

/-- WAITMSG parks on an empty share, delivers a continuation to its register, and completes for any other message; it waits for older results (R170, R174, R27). -/
def Obligations.WaitmsgParksOrDelivers : Prop :=
  ∀ s : State,
    (s.me.waits = true ∨ s.me.scalarDue = true → exec .waitmsg s = .next s) ∧
    (s.me.waits = false → s.me.scalarDue = false →
      (s.me.msgs = [] →
        exec .waitmsg s = .next { s with me := { s.me with run := .parked .waitmsg, parkedAt := s.sys.pool } }) ∧
      (bitOf (s.rd (rDinj s.tid.cluster)) 63 = false → ∀ m r, s.me.msgs = m :: r →
        (m.header.getLsbD 47 = false → Goes .waitmsg s (s.me.pc + 4)) ∧
        (m.header.getLsbD 47 = true →
        ∃ t es, exec .waitmsg s = .next t ∧
          Wrote { s.acquire s.tid.cluster m.scope with
              agenda := s.agenda ++ es, me := { s.me with msgs := r, run := .running, park := none } } t 4
            (m.header.extractLsb' 42 5) m.payload)))

/-- FENCE.SS, FENCE.VS and IFENCE wait for earlier accesses, then advance the pc and the L1 generation, or empty the instruction cache (R108, R110, R122, R144). -/
def Obligations.ScalarFencesHoldOrComplete : Prop :=
  ∀ (s : State) (sc : Scope),
    (s.me.waits = false → s.me.performedAt sc = true →
      ∃ t, exec (.fenceSs sc) s = .next t ∧ Went (s.acquire s.tid.cluster sc) t (s.me.pc + 4)) ∧
    (s.me.writes = [] → s.me.seen = [] → s.me.performedAt sc = true) ∧
    (s.me.posted = [] → s.me.seen = [] → s.me.vectorPerformedAt sc = true) ∧
    (s.me.waits = true ∨ s.me.performedAt sc = false → exec (.fenceSs sc) s = .next s) ∧
    (s.me.ctl.priv = .app → (∀ q ∈ s.me.queue, opIsMem q.op = false) → s.me.vectorPerformedAt sc = true →
      ∃ t, exec (.fenceVs sc) s = .next t ∧ Went (s.acquire s.tid.cluster sc) t (s.me.pc + 4)) ∧
    (s.me.ctl.priv = .app → ((∃ q ∈ s.me.queue, opIsMem q.op = true) ∨ s.me.vectorPerformedAt sc = false) →
      exec (.fenceVs sc) s = .next s) ∧
    (s.me.ctl.priv ≠ .app → Traps (.fenceVs sc) s 0x04 (Words.enc s.ir) 0) ∧
    (s.me.performedAt .cl = true → (∀ q ∈ s.me.queue, opStores q.op = false) →
      ∃ t, exec .ifence s = .next t ∧
        Went ((s.onCore s.tid.core fun c => { c with icache := [] }).onMe fun x => { x with fbuf := none }) t (s.me.pc + 4)) ∧
    (s.me.performedAt .cl = false ∨ (∃ q ∈ s.me.queue, opStores q.op = true) → exec .ifence s = .next s) ∧
    (sc = .st ∨ sc = .co → s.acquire s.tid.cluster sc = s) ∧
    (sc ≠ .st → sc ≠ .co → (s.cluster s.tid.cluster).gen.toNat < 0xFFFF →
      s.acquire s.tid.cluster sc = s.onCluster s.tid.cluster fun c => { c with gen := c.gen + 1 })

/-- VGRANT, VGRANT.NB and VGRANT.Z allocate lane groups by mark, holding, room and free groups, set VL, release at 0, and wait or answer 0 with none (R191, R192, R193, R190, R203, R201, R205, R27, R144). The model's own choices in it: logs 10, 47. -/
def Obligations.GrantFormsGrant : Prop :=
  ∀ (s : State) (d a : Reg) (h : BitVec 5),
    let c := s.tid.cluster
    let n := 8 * 2 ^ (h.toNat / 8)
    let v := 4 + h.toNat / 2 % 4
    let sh : BitVec 6 := BitVec.ofNat 6 (h.toNat % 2 * 32 + v * 4 + h.toNat / 8)
    let sew := 8 * 2 ^ (s.me.ctl.vt.toNat % 8)
    let per := 16 * (512 * v / n) * (64 / sew)
    let want := min 8 (((s.reg a).toNat + per - 1) / per)
    let room := s.room c s.me.ctl.tenant.toNat
    let free := (s.freeGroups c).length
    let g := s.me.vec.lanes.length
    let spare := if (s.cluster c).waiting = [] ∧ (s.cluster c).suspended = [] then min room free else 0
    let vlOf := fun (k : Nat) => min (s.reg a).toNat (per * k)
    let granted := fun (k : Nat) (w : Vec) => { s with me := { s.me.setReg d (BitVec.ofNat 64 (vlOf k)) with
        run := .running, park := none, mark := none, grant := none, pc := s.me.pc + 4, vec := w
        ctl := { s.me.ctl with lg := BitVec.ofNat 4 k, shape := sh, vl := BitVec.ofNat 32 (vlOf k), sql := false, ldv := false } } }
    let released := { s with me := { s.me.setReg d 0 with
        mark := none, grant := none, vec := Vec.empty, pc := s.me.pc + 4
        ctl := { s.me.ctl with lg := 0, vl := 0, shape := 0, mt := false, sql := false, ldv := false } } }
    let W := fun (k : Nat) => (min s.me.ctl.vl.toNat (per * k) * sew + 63) / 64
    let regs := min n (8 * 2 ^ (s.me.ctl.shape.toNat % 4))
    let kept := fun (k : Nat) (ls : List Nat) => { s.me.vec.keep regs (W k) (W k * (64 / sew)) with lanes := ls }
    (h.toNat / 8 = 3 → Traps (.vgrant d a h) s 0x02 (Words.enc s.ir) 0 ∧ Traps (.vgrantNb d a h) s 0x02 (Words.enc s.ir) 0 ∧
      Traps (.vgrantZ d a h) s 0x02 (Words.enc s.ir) 0) ∧
    (h.toNat / 8 ≠ 3 → s.me.ctl.priv ≠ .app ∨ (h.toNat % 2 = 1 ∧ n ≠ 32) ∨ s.me.ctl.mt = true ∨
        (s.me.ctl.vt.getLsbD 11 = true ∧ h.toNat % 2 = 0) →
      Traps (.vgrant d a h) s 0x04 (Words.enc s.ir) 0 ∧ Traps (.vgrantNb d a h) s 0x04 (Words.enc s.ir) 0 ∧
      Traps (.vgrantZ d a h) s 0x04 (Words.enc s.ir) 0) ∧
    (NMap.wf 0 s.me.vec.regs = true → NMap.wf false s.me.vec.masks = true → ∀ r w b,
      ((kept g []).word r w = if w < 65536 then (if r < regs ∧ w < W g then s.me.vec.word r w else 0) else (kept g []).word r w) ∧
      ((kept g []).mask r b = if b < 2 ^ 20 then (if b < W g * (64 / sew) then s.me.vec.mask r b else false) else (kept g []).mask r b)) ∧
    (h.toNat / 8 ≠ 3 → s.me.ctl.priv = .app → (h.toNat % 2 = 1 → n = 32) → s.me.ctl.mt = false →
        (s.me.ctl.vt.getLsbD 11 = true → h.toNat % 2 = 1) → s.me.ctl.vt.toNat % 8 ≤ 3 → s.me.grant = none →
        s.me.vec.regSynd = [] → (s.cluster c).stray = [] → NMap.wf Cluster.reset s.clusters = true → s.me.ctl.lg.toNat = g → g ≤ 8 →
      (s.reg a = 0 → s.me.queue = [] → s.me.regSlotBusy = false →
        (∀ i ∈ [Instr.vgrant d a h, .vgrantNb d a h, .vgrantZ d a h], exec i s = .next (released.assignLanes c s.me.marksFor)) ∧
        ((s.cluster c).waiting = [] → (s.cluster c).suspended = [] → s.me.mark = none →
          released.assignLanes c s.me.marksFor = released)) ∧
      (s.reg a ≠ 0 → s.me.mark = none → g = 0 → room = 0 ∨ free = 0 ∨ s.heldBack c s.me.ctl.tenant.toNat = true →
        exec (.vgrantNb d a h) s = .next { s with me := { s.me.setReg d 0 with
          pc := s.me.pc + 4, ctl := { s.me.ctl with sql := false, ldv := false } } } ∧
        (∃ t, exec (.vgrant d a h) s = .next t ∧ t.me.run = .parked (.grant false d (s.reg a) h) ∧
          (t.cluster c).waiting = (s.cluster c).waiting ++ [s.tid] ∧ t.me.pc = s.me.pc ∧ t.me.ctl = s.me.ctl) ∧
        (∃ t, exec (.vgrantZ d a h) s = .next t ∧ t.me.run = .parked (.grant true d (s.reg a) h) ∧
          (t.cluster c).waiting = (s.cluster c).waiting ++ [s.tid] ∧ t.me.pc = s.me.pc ∧ t.me.ctl = s.me.ctl)) ∧
      (s.reg a ≠ 0 → (∃ m, s.me.mark = some m ∧ m.target = 0) → ∀ i ∈ [Instr.vgrant d a h, .vgrantNb d a h, .vgrantZ d a h], exec i s = .next (s.beginSave s.tid .squall)) ∧
      (∀ k, s.reg a ≠ 0 → 1 ≤ k →
          (∀ m, s.me.mark = some m → k = min want m.target) →
          (s.me.mark = none → 1 ≤ g → k = min want (g + spare)) →
          (s.me.mark = none → g = 0 → s.heldBack c s.me.ctl.tenant.toNat = false ∧ k = min want (min room free)) →
          (∀ p ∈ s.me.vec.lanes, p ∉ s.freeGroups c) → k ≤ g + free →
        (k = g → s.me.ctl.shape = sh → ∀ i ∈ [Instr.vgrant d a h, .vgrantNb d a h, .vgrantZ d a h], exec i s = .next (granted k s.me.vec)) ∧
        (k ≠ g ∨ s.me.ctl.shape ≠ sh → ∃ ls : List Nat, ls.length = k ∧ (∀ p ∈ ls, p ∈ s.me.vec.lanes ∨ p ∈ s.freeGroups c) ∧
          (s.me.queue ≠ [] ∨ s.me.regSlotBusy = true →
            ∀ i ∈ [Instr.vgrant d a h, .vgrantNb d a h, .vgrantZ d a h], exec i s = .next { s with me := { s.me with mark := none, grant := some ⟨ls, s.me.marksFor⟩ } }) ∧
          (s.me.queue = [] → s.me.regSlotBusy = false →
            (s.eager = true →
              exec (.vgrantZ d a h) s = .next ((granted k { Vec.empty with lanes := ls }).giveLanes g ls s.me.marksFor) ∧
              ∀ i ∈ [Instr.vgrant d a h, .vgrantNb d a h], exec i s =
                .next ((granted k (if g = 0 then { Vec.empty with lanes := ls } else kept k ls)).giveLanes g ls s.me.marksFor)) ∧
            (s.eager = false → ∀ z i, (i = Instr.vgrantZ d a h ∧ z = true) ∨ ((i = .vgrant d a h ∨ i = .vgrantNb d a h) ∧ z = false) →
              exec i s = .next { s with
                agenda := s.agenda ++ [.grantComplete s.tid]
                me := { s.me with run := .granting z d (s.reg a) h k, mark := none, grant := some ⟨ls, s.me.marksFor⟩ } }))) ∧
        (∀ (u : State) (ls : List Nat), g ≤ ls.length → u.giveLanes g ls s.me.marksFor = u)))

/-- VTYPE sets VT when it is legal and VL fits, MTENTER enters matrix mode with zero tiles, MTEXIT leaves it, TEDGE sets TROWS and TCOLS (R195, R237, R290, R293, R294, R297, R28, R144). -/
def Obligations.TypeAndMatrixModeChange : Prop :=
  ∀ (s : State) (d a b : Reg),
    let x := s.reg a
    let m := 16 * s.me.ctl.lg.toNat * (512 * shapeVrf s.me.ctl.shape / shapeRegs s.me.ctl.shape) * (64 / (8 * 2 ^ (x.toNat % 8)))
    (s.me.ctl.priv = .app → s.me.ctl.lg ≠ 0 →
      (legalVt x s.me.ctl.shape = true → s.me.ctl.vl.toNat ≤ m →
        exec (.vtype d a) s = .next { s with me := { s.me.setReg d (s.me.ctl.vl.setWidth 64) with
          pc := s.me.pc + 4, ctl := { s.me.ctl with vt := x.setWidth 12, ldv := false } } }) ∧
      (legalVt x s.me.ctl.shape = false ∨ m < s.me.ctl.vl.toNat → Traps (.vtype d a) s 0x04 (Words.enc s.ir) 0) ∧
      (s.me.ctl.mt = false → s.me.queue = [] → s.me.regSlotBusy = false → s.me.ctl.lg = 1 ∨
          (s.me.ctl.lg = 4 ∧ ((s.me.vec.lanes = [0, 1, 4, 5] ∧ s.squareWhole s.tid.cluster 0 = true) ∨
            (s.me.vec.lanes = [2, 3, 6, 7] ∧ s.squareWhole s.tid.cluster 2 = true))) →
        (s.eager = true → (s.cluster s.tid.cluster).stray = [] → ∃ t, exec (.mtenter (decide (s.me.ctl.lg = 4))) s = .next t ∧ t = { s with me := { s.me with
          run := .running, park := none, grant := none, pc := s.me.pc + 4, vec := t.me.vec
          ctl := { s.me.ctl with mt := true, ldv := false } } } ∧
          t.me.vec.tiles = [] ∧ t.me.vec.weights = [] ∧ t.me.vec.regs = s.me.vec.regs ∧ t.me.vec.masks = s.me.vec.masks ∧
          t.me.vec.lanes = s.me.vec.lanes) ∧
        (s.eager = false → exec (.mtenter (decide (s.me.ctl.lg = 4))) s = .next { s with
          agenda := s.agenda ++ [.mtenterComplete s.tid]
          me := { s.me with run := .entering (if s.me.ctl.lg = 4 then 4 else 1) } })) ∧
      (s.me.ctl.mt = true ∨ s.me.ctl.lg ≠ 1 → Traps (.mtenter false) s 0x04 (Words.enc s.ir) 0) ∧
      (s.me.ctl.mt = true ∨ s.me.ctl.lg ≠ 4 → Traps (.mtenter true) s 0x04 (Words.enc s.ir) 0) ∧
      (s.me.ctl.mt = true → s.me.queue = [] → ∃ t, exec .mtexit s = .next t ∧ t = { s with me := { s.me with
          pc := s.me.pc + 4, vec := t.me.vec, ctl := { s.me.ctl with mt := false, ldv := false } } } ∧
        t.me.vec.tiles = [] ∧ t.me.vec.weights = [] ∧ t.me.vec.regs = s.me.vec.regs ∧ t.me.vec.masks = s.me.vec.masks ∧
        t.me.vec.lanes = s.me.vec.lanes) ∧
      (s.me.ctl.mt = true → s.me.queue ≠ [] → exec .mtexit s = .next s) ∧
      (s.me.ctl.mt = false → Traps .mtexit s 0x12 (Words.enc s.ir) 0) ∧
      (1 ≤ x.toNat → x.toNat ≤ 64 → 1 ≤ (s.reg b).toNat → (s.reg b).toNat ≤ 64 →
        exec (.tedge a b) s = .next { s with me := { s.me with
          pc := s.me.pc + 4, ctl := { s.me.ctl with trows := x.setWidth 7, tcols := (s.reg b).setWidth 7, ldv := false } } }) ∧
      (x = 0 ∨ 64 < x.toNat ∨ s.reg b = 0 ∨ 64 < (s.reg b).toNat → Traps (.tedge a b) s 0x02 (Words.enc s.ir) 0)) ∧
    (s.me.ctl.priv ≠ .app ∨ s.me.ctl.lg = 0 → Traps (.vtype d a) s 0x04 (Words.enc s.ir) 0 ∧
      Traps (.mtenter false) s 0x04 (Words.enc s.ir) 0 ∧ Traps (.mtenter true) s 0x04 (Words.enc s.ir) 0 ∧
      Traps .mtexit s 0x04 (Words.enc s.ir) 0 ∧ Traps (.tedge a b) s 0x04 (Words.enc s.ir) 0)

/-- VSTREAM takes its slot with the operands captured and calls the engine, a BUSY slot holds it, and SWAIT and SQUERY consume a DONE slot (R324, R325, R326, R328, R331, R336, R344, R133, R144). The model's own choice in it: log 51. -/
def Obligations.StreamSlotsTakeCopies : Prop :=
  ∀ (s : State) (d a b : Reg) (q : BitVec 2) (k : BitVec 5),
    ((s.me.slot q).phase = .busy → ∀ i ∈ [Instr.vstreamLdv d a b q, .vstreamStv d a b q, .vstreamLds d a b q, .vstreamSts d a b q,
        .vstreamLdb d a b q, .vstreamStb d a b q, .vstreamLdvA q d a b k, .vstreamStvA q d a b k, .vstreamLdsA q d a b k,
        .vstreamStsA q d a b k, .vstreamLdbA q d a b k, .vstreamStbA q d a b k], exec i s = .next s) ∧
    ((s.me.slot q).phase ≠ .busy → s.me.ctl.priv = .app →
      (s.me.ctl.lg ≠ 0 → vtGroup s.me.ctl.vt = 1 → s.me.ctl.regsOk d.toNat 1 = true →
        Copies (.vstreamLdv d a b q) s s 4 .ldv d a b q none ∧ Copies (.vstreamStv d a b q) s s 4 .stv d a b q none ∧
        ((s.barrier s.tid.cluster k.toNat).usable s.me.ctl.tenant = true →
          Copies (.vstreamLdvA q d a b k) s s 8 .ldv d a b q (some k) ∧
          Copies (.vstreamStvA q d a b k) s s 8 .stv d a b q (some k))) ∧
      (s.me.ctl.lg = 0 ∨ vtGroup s.me.ctl.vt ≠ 1 → ∀ i ∈ [Instr.vstreamLdv d a b q, .vstreamStv d a b q,
        .vstreamLdvA q d a b k, .vstreamStvA q d a b k], Traps i s 0x04 (Words.enc s.ir) 0) ∧
      Copies (.vstreamLds d a b q) s s 4 .lds d a b q none ∧ Copies (.vstreamSts d a b q) s s 4 .sts d a b q none ∧
      ((s.barrier s.tid.cluster k.toNat).usable s.me.ctl.tenant = true →
        Copies (.vstreamLdsA q d a b k) s s 8 .lds d a b q (some k) ∧
        Copies (.vstreamStsA q d a b k) s s 8 .sts d a b q (some k)) ∧
      ((s.barrier s.tid.cluster k.toNat).usable s.me.ctl.tenant = false → ∀ i ∈ [Instr.vstreamLdsA q d a b k,
        .vstreamStsA q d a b k, .vstreamLdbA q d a b k, .vstreamStbA q d a b k], Traps i s 0x04 (Words.enc s.ir) 0) ∧
      (∀ u, s.handleCheck (s.reg a) = some (u, false) →
        Copies (.vstreamLdb d a b q) s u 4 .ldb d a b q none ∧ Copies (.vstreamStb d a b q) s u 4 .stb d a b q none ∧
        ((s.barrier s.tid.cluster k.toNat).usable s.me.ctl.tenant = true →
          Copies (.vstreamLdbA q d a b k) s u 8 .ldb d a b q (some k) ∧
          Copies (.vstreamStbA q d a b k) s u 8 .stb d a b q (some k))) ∧
      (∀ i ∈ [Instr.vstreamLdb d a b q, .vstreamStb d a b q, .vstreamLdbA q d a b k, .vstreamStbA q d a b k],
        (i ∈ [Instr.vstreamLdbA q d a b k, .vstreamStbA q d a b k] →
          (s.barrier s.tid.cluster k.toNat).usable s.me.ctl.tenant = true) →
        (bitOf (s.rd (rHtbase s.tid.cluster s.me.ctl.tenant.toNat)) 0 = false ∨ fld (s.reg a) 16 48 ≠ 0 →
          Traps i s 0x13 (s.reg a) (Words.enc s.ir)) ∧
        (∀ u w, HandleRead s (s.reg a) u w → fld (s.reg a) 16 48 = 0 →
          w.testBit 63 = false ∨ w / 2 ^ 48 % 256 ≠ fld (s.reg a) 8 8 →
          ∃ t, exec i s = .next t ∧ Trapped u t 0x13 (s.reg a) (Words.enc s.ir))) ∧
      (∀ u w, HandleRead s (s.reg a) u w → fld (s.reg a) 16 48 = 0 → w.testBit 63 = true →
        w / 2 ^ 48 % 256 = fld (s.reg a) 8 8 → s.handleCheck (s.reg a) = some (u, false))) ∧
    (s.me.ctl.priv = .app →
      ((s.me.slot q).phase = .free → Goes (.swait q) s (s.me.pc + 4)) ∧
      ((s.me.slot q).phase = .busy → exec (.swait q) s = .next s) ∧
      ((s.me.slot q).phase = .done → ∃ t, exec (.swait q) s = .next t ∧
        Went ((s.consume s.tid q).advanceGen s.tid.cluster) t (s.me.pc + 4) ∧ (t.me.slot q).phase = .free ∧
        ∀ m ∈ t.me.msgs, m.isCompletion q = false) ∧
      ((s.me.slot q).phase = .free → WritesV (.squery d q) s 4 d
        (BitVec.ofNat 64 ((s.me.slot q).status * 2 ^ 36 + (s.me.slot q).count % 2 ^ 32))) ∧
      ((s.me.slot q).phase = .busy → WritesV (.squery d q) s 4 d
        (BitVec.ofNat 64 (2 ^ 34 + (s.me.slot q).count % 2 ^ 32))) ∧
      ((s.me.slot q).phase = .done → ∃ t, exec (.squery d q) s = .next t ∧ (t.me.slot q).phase = .free ∧
        WroteV ((s.consume s.tid q).advanceGen s.tid.cluster) t 4 d
          (BitVec.ofNat 64 ((s.me.slot q).status * 2 ^ 36 + 2 * 2 ^ 34 + (s.me.slot q).count % 2 ^ 32))))

/-- BARINIT makes a barrier ACTIVE for the tenant or changes an idle one, and BARW returns on its done mark, else parks with its wait mark set (R340, R341, R343, R134, R144, R27). -/
def Obligations.BarriersInitialiseAndWait : Prop :=
  ∀ (s : State) (a : Reg) (k : BitVec 5), s.me.ctl.priv = .app →
    let c := s.tid.cluster
    let b := s.barrier c k.toNat
    let n := (s.reg a).toNat
    let i := s.tid.toNat % 64
    (256 < n ∨ (b.active = true ∧ b.owner ≠ s.me.ctl.tenant) → Traps (.barinit a k) s 0x04 (Words.enc s.ir) 0) ∧
    (1 ≤ n → n ≤ 256 → b.active = false → ∃ t, exec (.barinit a k) s = .next t ∧
      Went (s.setBarrier c k.toNat { b with active := true, owner := s.me.ctl.tenant, count := n, arrived := 0 }) t (s.me.pc + 4)) ∧
    (n = 0 → b.active = false → ∃ t, exec (.barinit a k) s = .next t ∧ Went (s.setBarrier c k.toNat b) t (s.me.pc + 4)) ∧
    (n ≤ 256 → b.active = true → b.owner = s.me.ctl.tenant → n = b.count → ∃ t, exec (.barinit a k) s = .next t ∧
      Went (s.setBarrier c k.toNat b) t (s.me.pc + 4)) ∧
    (n ≤ 256 → b.active = true → b.owner = s.me.ctl.tenant → n ≠ b.count → b.arrived = 0 → b.wait = 0 → b.done = 0 →
      ∃ t, exec (.barinit a k) s = .next t ∧
        Went (s.setBarrier c k.toNat (if n = 0 then { b with active := false } else { b with count := n })) t (s.me.pc + 4)) ∧
    (n ≤ 256 → b.active = true → b.owner = s.me.ctl.tenant → n ≠ b.count → b.arrived ≠ 0 ∨ b.wait ≠ 0 ∨ b.done ≠ 0 →
      Traps (.barinit a k) s 0x04 (Words.enc s.ir) 0) ∧
    (b.active = false ∨ b.owner ≠ s.me.ctl.tenant → Traps (.barw k) s 0x04 (Words.enc s.ir) 0) ∧
    (b.active = true → b.owner = s.me.ctl.tenant → b.done.getLsbD i = true → ∃ t e, exec (.barw k) s = .next t ∧
      e.done.getLsbD i = false ∧ e = { b with done := e.done } ∧ (∀ j, j ≠ i → e.done.getLsbD j = b.done.getLsbD j) ∧
      Went { (s.setBarrier c k.toNat e).advanceGen c with me := { s.me with run := .running, park := none } } t (s.me.pc + 4)) ∧
    (b.active = true → b.owner = s.me.ctl.tenant → b.done.getLsbD i = false → ∃ e, exec (.barw k) s = .next
        { s.setBarrier c k.toNat e with me := { s.me with run := .parked (.barw k.toNat), parkedAt := s.sys.pool } } ∧
      e.wait.getLsbD i = true ∧ e = { b with wait := e.wait } ∧ (∀ j, j ≠ i → e.wait.getLsbD j = b.wait.getLsbD j))

/-- Each vector load, store and atomic enters the vector queue with the operands the rules name, and ES becomes 0 (R156, R22, R23, R37, R27, R55, R144, R244, R245, R247, R248, R127). -/
def Obligations.VectorMemoryEntersTheQueue : Prop :=
  ∀ (s : State) (m : MReg) (od : Order) (a b d : Reg) (sc : Scope) (fa : VAmoOp) (fl : VLoadOp) (fs : VStoreOp),
    Enters (.vld d a m) s 4 (.load .vld d a 0 m .sy .rlx) (s.reg a) 0 ∧
    Enters (.vldScaled d a b m) s 4 (.load .vld d a b m .sy .rlx) (s.reg a) (s.reg b) ∧
    Enters (.vlds d a b m) s 4 (.load .vlds d a b m .sy .rlx) (s.reg a) (s.reg b) ∧
    Enters (.vldx d a b m) s 4 (.load .vldx d a b m .sy .rlx) (s.reg a) 0 ∧
    Enters (.vldxO d a b m) s 4 (.load .vldxO d a b m .sy .rlx) (s.reg a) 0 ∧
    Enters (.vldff d a m) s 4 (.load .vldff d a 0 m .sy .rlx) (s.reg a) 0 ∧
    Enters (.vst d a m) s 4 (.store .vst d a 0 m .sy .rlx) (s.reg a) 0 ∧
    Enters (.vstScaled d a b m) s 4 (.store .vst d a b m .sy .rlx) (s.reg a) (s.reg b) ∧
    Enters (.vsts d a b m) s 4 (.store .vsts d a b m .sy .rlx) (s.reg a) (s.reg b) ∧
    Enters (.vstx d a b m) s 4 (.store .vstx d a b m .sy .rlx) (s.reg a) 0 ∧
    Enters (.vstxO d a b m) s 4 (.store .vstxO d a b m .sy .rlx) (s.reg a) 0 ∧
    Enters (.vstN d a b m) s 4 (.store .vstN d a b m .sy .rlx) (s.reg a) (s.reg b) ∧
    Enters (.vamoAdd d a b m) s 4 (.amo .add d a b m .sy .rlx) (s.reg a) 0 ∧
    Enters (.vamoAnd d a b m) s 4 (.amo .and d a b m .sy .rlx) (s.reg a) 0 ∧
    Enters (.vamoOr d a b m) s 4 (.amo .or d a b m .sy .rlx) (s.reg a) 0 ∧
    Enters (.vamoXor d a b m) s 4 (.amo .xor d a b m .sy .rlx) (s.reg a) 0 ∧
    Enters (.vamoMin d a b m) s 4 (.amo .min d a b m .sy .rlx) (s.reg a) 0 ∧
    Enters (.vamoMax d a b m) s 4 (.amo .max d a b m .sy .rlx) (s.reg a) 0 ∧
    Enters (.vamoMinu d a b m) s 4 (.amo .minu d a b m .sy .rlx) (s.reg a) 0 ∧
    Enters (.vamoMaxu d a b m) s 4 (.amo .maxu d a b m .sy .rlx) (s.reg a) 0 ∧
    Enters (.vamoSwap d a b m) s 4 (.amo .swap d a b m .sy .rlx) (s.reg a) 0 ∧
    Enters (.vloadOrd fl d a b m sc od) s 8 (.load fl d a b m sc od) (s.reg a) (match fl with | .vld | .vlds => s.reg b | _ => 0) ∧
    Enters (.vstoreOrd fs d a b m sc od) s 8 (.store fs d a b m sc od) (s.reg a) (match fs with | .vst | .vsts | .vstN => s.reg b | _ => 0) ∧
    Enters (.vamoOrd fa d a b m sc od) s 8 (.amo fa d a b m sc od) (s.reg a) 0

/-- Each vector arithmetic and compare instruction enters the vector queue with its operands, and ES becomes 0 (R156, R22, R23, R37, R27, R55, R144, R242, R250, R254, R255, R257). -/
def Obligations.VectorArithmeticEntersTheQueue : Prop :=
  ∀ (s : State) (i : BitVec 5) (m n : MReg) (a b d : Reg),
    Enters (.vaddVv d a b m) s 4 (.arith .add .vv d a b m) 0 0 ∧
    Enters (.vsubVv d a b m) s 4 (.arith .sub .vv d a b m) 0 0 ∧
    Enters (.vmulVv d a b m) s 4 (.arith .mul .vv d a b m) 0 0 ∧
    Enters (.vmulhVv d a b m) s 4 (.arith .mulh .vv d a b m) 0 0 ∧
    Enters (.vdivVv d a b m) s 4 (.arith .div .vv d a b m) 0 0 ∧
    Enters (.vremVv d a b m) s 4 (.arith .rem .vv d a b m) 0 0 ∧
    Enters (.vminVv d a b m) s 4 (.arith .min .vv d a b m) 0 0 ∧
    Enters (.vmaxVv d a b m) s 4 (.arith .max .vv d a b m) 0 0 ∧
    Enters (.vandVv d a b m) s 4 (.arith .and .vv d a b m) 0 0 ∧
    Enters (.vorVv d a b m) s 4 (.arith .or .vv d a b m) 0 0 ∧
    Enters (.vxorVv d a b m) s 4 (.arith .xor .vv d a b m) 0 0 ∧
    Enters (.vshlVv d a b m) s 4 (.arith .shl .vv d a b m) 0 0 ∧
    Enters (.vshrVv d a b m) s 4 (.arith .shr .vv d a b m) 0 0 ∧
    Enters (.vsraVv d a b m) s 4 (.arith .sra .vv d a b m) 0 0 ∧
    Enters (.vfmaVv d a b m) s 4 (.arith .fma .vv d a b m) 0 0 ∧
    Enters (.vfmsVv d a b m) s 4 (.arith .fms .vv d a b m) 0 0 ∧
    Enters (.vfnmaVv d a b m) s 4 (.arith .fnma .vv d a b m) 0 0 ∧
    Enters (.vabs d a m) s 4 (.arith .abs .vv d a 0 m) 0 0 ∧
    Enters (.vneg d a m) s 4 (.arith .neg .vv d a 0 m) 0 0 ∧
    Enters (.vwaddVv d a b m) s 4 (.arith .wadd .vv d a b m) 0 0 ∧
    Enters (.vwmulVv d a b m) s 4 (.arith .wmul .vv d a b m) 0 0 ∧
    Enters (.vnshrVv d a b m) s 4 (.arith .nshr .vv d a b m) 0 0 ∧
    Enters (.vaddVx d a b m) s 4 (.arith .add .vx d a b m) (s.reg b) 0 ∧
    Enters (.vsubVx d a b m) s 4 (.arith .sub .vx d a b m) (s.reg b) 0 ∧
    Enters (.vmulVx d a b m) s 4 (.arith .mul .vx d a b m) (s.reg b) 0 ∧
    Enters (.vmulhVx d a b m) s 4 (.arith .mulh .vx d a b m) (s.reg b) 0 ∧
    Enters (.vdivVx d a b m) s 4 (.arith .div .vx d a b m) (s.reg b) 0 ∧
    Enters (.vremVx d a b m) s 4 (.arith .rem .vx d a b m) (s.reg b) 0 ∧
    Enters (.vminVx d a b m) s 4 (.arith .min .vx d a b m) (s.reg b) 0 ∧
    Enters (.vmaxVx d a b m) s 4 (.arith .max .vx d a b m) (s.reg b) 0 ∧
    Enters (.vandVx d a b m) s 4 (.arith .and .vx d a b m) (s.reg b) 0 ∧
    Enters (.vorVx d a b m) s 4 (.arith .or .vx d a b m) (s.reg b) 0 ∧
    Enters (.vxorVx d a b m) s 4 (.arith .xor .vx d a b m) (s.reg b) 0 ∧
    Enters (.vshlVx d a b m) s 4 (.arith .shl .vx d a b m) (s.reg b) 0 ∧
    Enters (.vshrVx d a b m) s 4 (.arith .shr .vx d a b m) (s.reg b) 0 ∧
    Enters (.vsraVx d a b m) s 4 (.arith .sra .vx d a b m) (s.reg b) 0 ∧
    Enters (.vfmaVx d a b m) s 4 (.arith .fma .vx d a b m) (s.reg b) 0 ∧
    Enters (.vfmsVx d a b m) s 4 (.arith .fms .vx d a b m) (s.reg b) 0 ∧
    Enters (.vfnmaVx d a b m) s 4 (.arith .fnma .vx d a b m) (s.reg b) 0 ∧
    Enters (.vwaddVx d a b m) s 4 (.arith .wadd .vx d a b m) (s.reg b) 0 ∧
    Enters (.vwmulVx d a b m) s 4 (.arith .wmul .vx d a b m) (s.reg b) 0 ∧
    Enters (.vnshrVx d a b m) s 4 (.arith .nshr .vx d a b m) (s.reg b) 0 ∧
    Enters (.vaddVi d a i m) s 4 (.arith .add .vi d a i m) 0 0 ∧
    Enters (.vsubVi d a i m) s 4 (.arith .sub .vi d a i m) 0 0 ∧
    Enters (.vminVi d a i m) s 4 (.arith .min .vi d a i m) 0 0 ∧
    Enters (.vmaxVi d a i m) s 4 (.arith .max .vi d a i m) 0 0 ∧
    Enters (.vandVi d a i m) s 4 (.arith .and .vi d a i m) 0 0 ∧
    Enters (.vorVi d a i m) s 4 (.arith .or .vi d a i m) 0 0 ∧
    Enters (.vxorVi d a i m) s 4 (.arith .xor .vi d a i m) 0 0 ∧
    Enters (.vshlVi d a i m) s 4 (.arith .shl .vi d a i m) 0 0 ∧
    Enters (.vshrVi d a i m) s 4 (.arith .shr .vi d a i m) 0 0 ∧
    Enters (.vsraVi d a i m) s 4 (.arith .sra .vi d a i m) 0 0 ∧
    Enters (.vnshrVi d a i m) s 4 (.arith .nshr .vi d a i m) 0 0 ∧
    Enters (.vcmpEqVv m d a n) s 4 (.cmp .eq .vv m d a n) 0 0 ∧
    Enters (.vcmpNeVv m d a n) s 4 (.cmp .ne .vv m d a n) 0 0 ∧
    Enters (.vcmpLtVv m d a n) s 4 (.cmp .lt .vv m d a n) 0 0 ∧
    Enters (.vcmpLeVv m d a n) s 4 (.cmp .le .vv m d a n) 0 0 ∧
    Enters (.vcmpEqVx m d a n) s 4 (.cmp .eq .vx m d a n) (s.reg a) 0 ∧
    Enters (.vcmpNeVx m d a n) s 4 (.cmp .ne .vx m d a n) (s.reg a) 0 ∧
    Enters (.vcmpLtVx m d a n) s 4 (.cmp .lt .vx m d a n) (s.reg a) 0 ∧
    Enters (.vcmpLeVx m d a n) s 4 (.cmp .le .vx m d a n) (s.reg a) 0 ∧
    Enters (.vcmpEqVi m d i n) s 4 (.cmp .eq .vi m d i n) 0 0 ∧
    Enters (.vcmpNeVi m d i n) s 4 (.cmp .ne .vi m d i n) 0 0 ∧
    Enters (.vcmpLtVi m d i n) s 4 (.cmp .lt .vi m d i n) 0 0 ∧
    Enters (.vcmpLeVi m d i n) s 4 (.cmp .le .vi m d i n) 0 0

/-- Each mask, move, permutation, reduction, conversion, special, residue, fence, barrier and matrix instruction enters the vector queue (R156, R22, R23, R37, R27, R55, R108, R144, R258, R299, R342, R265). -/
def Obligations.OtherVectorWorkEntersTheQueue : Prop :=
  ∀ (s : State) (i : BitVec 5) (x : BitVec 6) (o : Bool) (k m n : MReg) (a b c d : Reg) (sc : Scope) (w : Sew) (vk : VKind),
    Enters (.mand m n k) s 4 (.mlog .and m n k) 0 0 ∧
    Enters (.mor m n k) s 4 (.mlog .or m n k) 0 0 ∧
    Enters (.mxor m n k) s 4 (.mlog .xor m n k) 0 0 ∧
    Enters (.mnot m n) s 4 (.mlog .not m n n) 0 0 ∧
    Enters (.mpop d m) s 4 (.mpop d m) 0 0 ∧
    Enters (.mfirst d m) s 4 (.mfirst d m) 0 0 ∧
    Enters (.mset m d) s 4 (.mset m) (s.reg d) 0 ∧
    Enters (.vsel d a b m) s 4 (.sel d a b m) 0 0 ∧
    Enters (.vbcast d a m) s 4 (.bcast d m) (s.reg a) 0 ∧
    Enters (.vget d a b) s 4 (.get d a) (s.reg b) 0 ∧
    Enters (.vidx d m) s 4 (.idx d m) 0 0 ∧
    Enters (.vgather d a b m) s 4 (.perm .gather d a b m) 0 0 ∧
    Enters (.vslideup d a b m) s 4 (.perm .slideup d a b m) (s.reg b) 0 ∧
    Enters (.vslidedn d a b m) s 4 (.perm .slidedn d a b m) (s.reg b) 0 ∧
    Enters (.vcompress d a m) s 4 (.perm .compress d a 0 m) 0 0 ∧
    Enters (.vexpand d a m) s 4 (.perm .expand d a 0 m) 0 0 ∧
    Enters (.vswappr d a m) s 4 (.perm .swappr d a 0 m) 0 0 ∧
    Enters (.vzip d a b m) s 4 (.perm .zip d a b m) 0 0 ∧
    Enters (.vunzip d a b m) s 4 (.perm .unzip d a b m) 0 0 ∧
    Enters (.vredsumO d a b m) s 4 (.red .sumO d a b m) 0 0 ∧
    Enters (.vredsumT d a b m) s 4 (.red .sumT d a b m) 0 0 ∧
    Enters (.vredmax d a b m) s 4 (.red .max d a b m) 0 0 ∧
    Enters (.vredmin d a b m) s 4 (.red .min d a b m) 0 0 ∧
    Enters (.vredand d a b m) s 4 (.red .and d a b m) 0 0 ∧
    Enters (.vredor d a b m) s 4 (.red .or d a b m) 0 0 ∧
    Enters (.vcvt d a vk w m) s 4 (.cvt false d a vk w m) 0 0 ∧
    Enters (.vcvtSr d a vk w m) s 4 (.cvt true d a vk w m) 0 0 ∧
    Enters (.vrcp d a m) s 4 (.spec .rcp d a m) 0 0 ∧
    Enters (.vrsq d a m) s 4 (.spec .rsq d a m) 0 0 ∧
    Enters (.vsint d a m) s 4 (.spec .sint d a m) 0 0 ∧
    Enters (.vcost d a m) s 4 (.spec .cost d a m) 0 0 ∧
    Enters (.vexp2 d a m) s 4 (.spec .exp2 d a m) 0 0 ∧
    Enters (.vlog2 d a m) s 4 (.spec .log2 d a m) 0 0 ∧
    Enters (.vclmul d a b m) s 4 (.clmul false d a b m) 0 0 ∧
    Enters (.vclmulh d a b m) s 4 (.clmul true d a b m) 0 0 ∧
    Enters (.vcbdec d a m) s 4 (.cbdec d a m) 0 0 ∧
    Enters (.cbload d) s 4 .cbload (s.reg d) 0 ∧
    Enters (.vrnsf d a m) s 4 (.rnsf d a m) 0 0 ∧
    Enters (.vrnsr d a m) s 4 (.rnsr d a m) 0 0 ∧
    Enters (.vrnschk m d n) s 4 (.rnschk m d n) 0 0 ∧
    Enters (.fenceSv sc) s 4 (.fence false sc) 0 0 ∧
    Enters (.fenceVv sc) s 4 (.fence true sc) 0 0 ∧
    Enters (.tzero m) s 4 (.tzero m) 0 0 ∧
    Enters (.topa m d a b c n k) s 8 (.top .topa m d a c n k) (s.reg b) 0 ∧
    Enters (.tops m d a b c n k) s 8 (.top .tops m d a c n k) (s.reg b) 0 ∧
    Enters (.topr m d a b n k) s 8 (.top .topr m d a 0 n k) (s.reg b) 0 ∧
    Enters (.tldrow m x d a) s 8 (.tldrow m x) (s.reg d) (s.reg a) ∧
    Enters (.tstrow m x d a) s 8 (.tstrow m x) (s.reg d) (s.reg a) ∧
    Enters (.tslv d m x o) s 8 (.tslv d m x o) 0 0 ∧
    Enters (.tvsl m d x o) s 8 (.tvsl m d x o) 0 0 ∧
    Enters (.tcvt m i) s 4 (.tcvt m i) 0 0 ∧
    Enters (.tchk m) s 4 (.tchk m) 0 0 ∧
    (∀ kb : BitVec 5, s.MayEnter (.barv kb sc) 0 →
      ∃ e, e = { s.barrier s.tid.cluster kb.toNat with wait := e.wait, done := e.done } ∧
        (∀ j, e.wait.getLsbD j = (decide (j = s.tid.toNat % 64) || (s.barrier s.tid.cluster kb.toNat).wait.getLsbD j)) ∧
        (∀ j, e.done.getLsbD j = (!decide (j = s.tid.toNat % 64) && (s.barrier s.tid.cluster kb.toNat).done.getLsbD j)) ∧
        let u := s.setBarrier s.tid.cluster kb.toNat e
        exec (.barv kb sc) s = .next (if s.eager then (u.entered 4 (.barv kb sc) 0 0).pumpFocus
          else { u.entered 4 (.barv kb sc) 0 0 with agenda := s.agenda ++ [.sequencerHandoff s.tid] }))

/-- A queued instruction above application level, without a grant, of a wrong kind or with wrong registers traps at issue, and waits when the queue is full (R55, R28, R29, R138, R144, R156, R238, R240, R296). -/
def Obligations.QueuedWorkTrapsAtIssue : Prop :=
  ∀ (i : Instr) (op : VOp), Queues i op → ∀ s : State,
    (s.me.ctl.priv ≠ .app ∨ (s.me.ctl.lg = 0 ∧ ∀ v sc, op ≠ .fence v sc) ∨ s.me.ctl.kindOk op = false →
      Traps i s 0x04 (Words.enc s.ir) 0) ∧
    (s.me.ctl.priv = .app → (s.me.ctl.lg ≠ 0 ∨ ∃ v sc, op = .fence v sc) → s.me.ctl.kindOk op = true →
      (s.me.ctl.regsLegal op = false → Traps i s 0x02 (Words.enc s.ir) 0) ∧
      (s.me.ctl.regsLegal op = true → opIsMatrix op = true → s.me.ctl.mt = false → Traps i s 0x12 (Words.enc s.ir) 0) ∧
      (s.me.ctl.regsLegal op = true → (∀ x, s.issueTrap op x = none) → s.me.queue.length = 8 → exec i s = .next s))

/-- Firmware writes of ELOGTAIL, LGSTAT, DSCHK, DINJ, CBOWN, CFENCE, LAMARK and CSPLIT, and the steps they make due, have their stated effects (R7, R182, R202, R203, R283, R319, R356, R359, R360, R361, R362, R363). The model's own choice in it: log 54. -/
def Obligations.ClusterRegisterWritesTakeEffect : Prop :=
  ∀ (s : State) (c : ClusterNo) (p : BitVec 3) (v : Word),
    s.canonical = true →
    (∃ t, exec (.elogtailWrite c v) s = .next t ∧ RegsBecome s t
      (rElogtail c.toNat) (word (min (fld v 0 32) (fld (s.rd (rEloghead c.toNat)) 0 32)))
      (rEloghead c.toNat) (setFld (s.rd (rEloghead c.toNat)) 32 8 0)) ∧
    (bitOf v 15 = false → ∃ t, exec (.lgstatFenreq c p v) s = .next t ∧ exec (.lgstatMark c p v) s = .next t ∧
      RegBecomes s t (rLgstat c.toNat p.toNat) (setBit (s.rd (rLgstat c.toNat p.toNat)) 10 (bitOf v 10))) ∧
    (bitOf v 15 = true → ∃ t, exec (.lgstatMark c p v) s = .next t ∧ exec (.lgstatFenreq c p v) s = .next t ∧
      (let w := setBit (s.rd (rLgstat c.toNat p.toNat)) 10 (bitOf v 10)
       (bitOf w 9 = false → RegBecomes s t (rLgstat c.toNat p.toNat) (setFld (setBit w 9 true) 5 4 (fld v 11 4))) ∧
       (bitOf w 9 = true → fld w 5 4 = fld v 11 4 → RegBecomes s t (rLgstat c.toNat p.toNat) w) ∧
       (bitOf w 9 = true → fld w 5 4 ≠ fld v 11 4 → RegBecomes (s.onCluster c.toNat fun k =>
         { k with fenceNext := k.fenceNext ||| BitVec.ofNat 8 (2 ^ p.toNat) }) t (rLgstat c.toNat p.toNat) w))) ∧
    (bitOf (s.rd (rErrcfg c.toNat)) 0 = true → fld (s.rd (rDsaddr c.toNat)) 60 4 = 0 → bitOf v 63 = true → bitOf v 62 = false →
      ∃ t, exec (.dschkGo c v) s = .next t ∧ RegBecomes { s.onCluster c.toNat fun k => { k with diagDue := true } with
        agenda := s.agenda ++ [.diagnosticStore c] } t (rDschk c.toNat) (word (fld v 0 8))) ∧
    (bitOf (s.rd (rErrcfg c.toNat)) 0 = true → bitOf v 63 = false → bitOf v 62 = true →
      ∃ t, exec (.dschkCalc c v) s = .next t ∧ RegBecomes s t (rDschk c.toNat) ((checkBits (s.rd (rDsdata c.toNat))).setWidth 64)) ∧
    (bitOf (s.rd (rErrcfg c.toNat)) 0 = false → (bitOf v 63 = true ∨ bitOf v 62 = true →
        ∃ t, exec (.dschkGo c v) s = .next t ∧ exec (.dschkCalc c v) s = .next t ∧
          RegBecomes s t (rDschk c.toNat) (setBit (s.rd (rDschk c.toNat)) 61 true)) ∧
      ∃ t, exec (.dinjArm c v) s = .next t ∧ RegBecomes s t (rDschk c.toNat) (setBit (s.rd (rDschk c.toNat)) 61 true)) ∧
    ((s.cluster c.toNat).diagDue = true → fld (s.rd (rDsaddr c.toNat)) 60 4 = 3 →
      fld (s.rd (rDsaddr c.toNat)) 0 21 < 0x18000 → fld (s.rd (rDsaddr c.toNat)) 0 3 = 0 →
      ∃ t, exec (.diagnosticStore c) s = .next t ∧
        let k := tcmKey (16 * c.toNat + fld (s.rd (rDsaddr c.toNat)) 48 4) (fld (s.rd (rDsaddr c.toNat)) 0 21)
        StoredBytes s t.mem k 8 (s.rd (rDsdata c.toNat)) ∧
        t = { s.onCluster c.toNat fun x => { x with diagDue := false } with
          mem := t.mem
          poison := NMap.set false s.poison (k / 8) false
          synd := NMap.set 0 s.synd (k / 8)
            (BitVec.ofNat 8 (fld (s.rd (rDschk c.toNat)) 0 8) ^^^ checkBits (s.rd (rDsdata c.toNat))) }) ∧
    (bitOf (s.rd (rErrcfg c.toNat)) 0 = true → bitOf v 61 = false →
      ∃ t, exec (.dinjArm c v) s = .next t ∧ RegBecomes s t (rDinj c.toNat) (setBit (v &&& 0xB3FFFE0000000000) 62 (bitOf (s.rd (rDinj c.toNat)) 62 && !bitOf v 62))) ∧
    (∃ t, exec (.cbownWrite c v) s = .next t ∧
      RegBecomes (s.onCluster c.toNat fun k => { k with codebook := [] }) t (rCbown c.toNat) (v &&& 0x3F)) ∧
    (∃ t es, exec (.cfenceRequest c v) s = .next { t with agenda := s.agenda ++ es } ∧ RegBecomes s t (rCfence c.toNat) (setFld (s.rd (rCfence c.toNat)) 0 16
      (((s.rd (rCfence c.toNat) >>> 16) &&& s.rd (rCfence c.toNat) &&& 0xFFFF) ||| (v &&& 0xFFFF)).toNat)) ∧
    ((bitOf v 63 = false → exec (.lamark c v) s = .next s) ∧
      (bitOf v 63 = true →
        let t : Tid := BitVec.ofNat 13 (fld v 0 13)
        let g := (s.strand t).vec.lanes.length
        ((g = 0 ∨ t.cluster ≠ c.toNat ∨ (s.strand t).mark ≠ none ∨ g ≤ fld v 16 4) → SetsReg (.lamark c v) s s (rLastat c.toNat) 1) ∧
        (fld v 16 4 < g → t.cluster = c.toNat → (s.strand t).mark = none →
          ∃ a u, exec (.lamark c v) s = .next u ∧
            RegBecomes (s.onStrand t fun x => { x with mark := some ⟨fld v 16 4, s.sys.pool, a⟩ }) u (rLastat c.toNat) 0 ∧
            AttachesTo s c.toNat a))) ∧
    ((s.clusterTids c.toNat).isEmpty = true → fld (s.rd (rCsplit c.toNat)) 0 5 ≠ (s.cluster c.toNat).l1Ways →
      ∃ t, exec (.csplitApply c) s = .next t ∧
        let n := fld (s.rd (rCsplit c.toNat)) 0 5
        let m := (s.cluster c.toNat).l1Ways
        (n ≤ 16 → m ≤ 16 → Wiped s t.mem (2 ^ 53 + 2 ^ 21 * c.toNat + 0x20000 * (16 - max n m)) (0x20000 * (max n m - min n m))) ∧
        t = { s.onCluster c.toNat fun k => { k with l1 := [], l1Ways := n } with
          mem := t.mem, poison := t.poison, synd := t.synd }) ∧
    ((s.cluster c.toNat).copying.getLsbD p.toNat = true →
      let r := rLgstat c.toNat p.toNat
      let u := s.copyLane c.toNat p.toNat (fld (s.rd r) 5 4)
      let w := u.rd r
      (s.holderOf c.toNat p.toNat = none → (s.cluster c.toNat).stray = [] → u = s) ∧
      ∃ t, exec (.substitutionDone c p) s = .next ((t.clusterTids c.toNat).foldl (fun u x => u.goOn x) t) ∧
        RegBecomes (u.onCluster c.toNat fun k => { k with copying := k.copying &&& ~~~(BitVec.ofNat 8 (2 ^ p.toNat)) }) t
          r (setBit (setFld (setBit w 4 true) 0 4 (fld w 5 4)) 9 false)) ∧
    (let A := fun o => BitVec.ofNat 64 (allocBlock c.toNat + o);
      SetsReg (.registerWrite (A 0) v) s s (rLadl c.toNat) (word (min (max (fld v 0 17) 256) 65536)) ∧
      SetsReg (.registerWrite (A 0x340) v) s s (rErrcfg c.toNat) (v &&& 0xF01) ∧
      exec (.registerWrite (A 0x350) v) s = exec (.elogtailWrite c v) s ∧
      exec (.registerWrite (A 0x058) v) s = exec (.cfenceRequest c v) s ∧
      exec (.registerWrite (A 0x7F8) v) s = .next s)

/-- Rows, walks, TLB invalidation, migration, the memory-side scratchpad, DRAM injection, the die log, links and keys change as stated (R380, R421, R390, R391, R392, R393, R394, R384, R398, R399, R400, R405). The model's own choices in it: logs 32, 58, 68. -/
def Obligations.DieEventsTakeEffect : Prop :=
  ∀ (s : State) (d : DieNo) (q : BitVec 2) (v pa : Word) (t : Tid),
    s.canonical = true →
    (∀ b r, dramRow (pa.toNat % 2 ^ 52) = some (b, r) →
      (s.sys.lull.phase = .clear → exec (.dramAccess pa) s = .next { s with sys := { s.sys with rows := NMap.set 0 s.sys.rows b (r + 1) } }) ∧
      (s.sys.lull.phase ≠ .clear → exec (.dramAccess pa) s = .next { s with sys := { s.sys with dramHeld := s.sys.dramHeld ++ [pa.toNat % 2 ^ 52] } }) ∧
      exec (.rowIdleClose pa) s = .next { s with sys := { s.sys with rows := NMap.set 0 s.sys.rows b 0 } }) ∧
    (∀ n, n < s.sys.racts.length → s.sys.lull.phase = .clear →
      exec (.ractArrival n) s = .next ({ s with sys := { s.sys with racts := s.sys.racts.eraseIdx n } }.openRow s.sys.racts[n]!) ∧
      (s.sys.lull.phase ≠ .clear ∨ s.sys.racts.length ≤ n → exec (.ractArrival n) s = .next s)) ∧
    ((s.strand t).run ≠ .unbound →
      (∀ leaf big, s.leafFor (s.agentOf t) (pa.toNat % 2 ^ 48) = .ok (leaf, big) →
        exec (.walkComplete t pa) s = .next ((if (s.tlbHit (s.agentOf t) (pa.toNat % 2 ^ 48)).isSome then s
          else s.walkTouch (s.agentOf t) (pa.toNat % 2 ^ 48)).noteLeaf (s.agentOf t) (pa.toNat % 2 ^ 48) leaf big)) ∧
      (∀ k, s.leafFor (s.agentOf t) (pa.toNat % 2 ^ 48) = .error (.trap k) → exec (.walkComplete t pa) s = .next s) ∧
      (∀ e r, s.leafFor (s.agentOf t) (pa.toNat % 2 ^ 48) = .error (.entry e r) →
        exec (.walkComplete t pa) s = .next { ({ s with ir := s.walkFor t (pa.toNat % 2 ^ 48) } : State).logEntry (s.agentOf t) e r with ir := s.ir })) ∧
    ((NMap.get false s.sys.tlbinv d.toNat = true → exec (.tlbinvGo d v) s = .next s) ∧
      (NMap.get false s.sys.tlbinv d.toNat = false →
        SetsReg (.tlbinvGo d v) s { s with sys := { s.sys with
            tlbinv := if bitOf v 63 then NMap.set false s.sys.tlbinv d.toNat true else s.sys.tlbinv } }
          (rTlbinv d.toNat) (v &&& 0x2000001FFFFFFFFF))) ∧
    (s.tlbinvReady d.toNat = true → s.tlbsCanonical →
      ∃ u, exec (.tlbinvDone d) s = .next u ∧
        let w := s.rd (rTlbinv d.toNat)
        DropsNamed w s.sys.tlb u.sys.tlb ∧
        (∀ c, u.cluster c = { s.cluster c with tlb := (u.cluster c).tlb, laneTlb := (u.cluster c).laneTlb } ∧
          ∀ k, DropsNamed w (NMap.get [] (s.cluster c).tlb k) (NMap.get [] (u.cluster c).tlb k) ∧
            DropsNamed w (NMap.get [] (s.cluster c).laneTlb k) (NMap.get [] (u.cluster c).laneTlb k)) ∧
        u = { s with fresh := s.fresh + 1, clusters := u.clusters, sys := { s.sys with
          tlb := u.sys.tlb, tlbinv := NMap.set false s.sys.tlbinv d.toNat false } }) ∧
    (let i := 4 * d.toNat + q.toNat
     let f := fun r => fld (s.rd r) 16 36
     let src := f (rMigsrc d.toNat q.toNat)
     let dst := f (rMigdst d.toNat q.toNat)
     bitOf v 63 = true → bitOf v 61 = false → bitOf v 60 = false →
      ((i ∈ s.sys.migrating ∨ src = dst ∨ s.frameBusy i src = true ∨ s.frameBusy i dst = true ∨ migratable src = false ∨
          migratable dst = false ∨ s.frameClassed d.toNat src = true) →
        ∃ u, exec (.migctlGo d q v) s = .next u ∧ RegBecomes s u (rMigctl d.toNat q.toNat) (setBit (s.rd (rMigctl d.toNat q.toNat)) 60 true)) ∧
      (i ∉ s.sys.migrating → src ≠ dst → s.frameBusy i src = false → s.frameBusy i dst = false → migratable src = true → migratable dst = true → s.frameClassed d.toNat src = false →
        ∃ u, exec (.migctlGo d q v) s = .next u ∧ RegBecomes { s with sys := { s.sys with migrating := s.sys.migrating ++ [i] } } u
          (rMigctl d.toNat q.toNat) (setBit 0 62 true))) ∧
    (let k := fld (s.rd (rMigctl d.toNat q.toNat)) 0 11
     let fr := fld (s.rd (rMigsrc d.toNat q.toNat)) 16 36 * 1024 + k
     let to_ := fld (s.rd (rMigdst d.toNat q.toNat)) 16 36 * 1024 + k
     bitOf (s.rd (rMigctl d.toNat q.toNat)) 62 = true → s.sys.lull.phase = .clear → k < 1024 →
      ∃ u, exec (.migrationLineDone d q) s = .next u ∧
        (∀ i, i < 64 → u.mem.byte (64 * to_ + i) = s.mem.byte (64 * fr + i)) ∧
        (∀ a, a / 64 ≠ to_ → u.mem.byte a = s.mem.byte a) ∧
        u.rd (rMigctl d.toNat q.toNat) = (let w := setFld (s.rd (rMigctl d.toNat q.toNat)) 0 11 (k + 1)
          if k = 1023 then setBit (setBit w 62 false) 61 true else w)) ∧
    (bitOf (s.rd (rMigctl d.toNat q.toNat)) 61 = true → bitOf v 61 = true → bitOf v 60 = false → bitOf v 63 = false →
      ∃ u, exec (.migctlDoneClear d q v) s = .next u ∧ RegBecomes
        { s with sys := { s.sys with migrating := s.sys.migrating.filter fun j => !decide (j = 4 * d.toNat + q.toNat) } } u
        (rMigctl d.toNat q.toNat) (setBit 0 60 (bitOf (s.rd (rMigctl d.toNat q.toNat)) 60))) ∧
    (let old := fld (s.rd (rMscsp d.toNat)) 0 5
     let n := min (fld v 0 5) 16
     (bitOf (s.rd (rMscsp d.toNat)) 8 = true ∨ n = old → exec (.mscspWrite d v) s = .next s) ∧
      (bitOf (s.rd (rMscsp d.toNat)) 8 = false → n ≠ old →
        ∃ u, exec (.mscspWrite d v) s = .next u ∧
          Wiped s u.mem (0x200000000000 + 0x2000000 * d.toNat + 0x200000 * min n old) (0x200000 * (max n old - min n old)) ∧
          RegBecomes { s with mem := u.mem, poison := u.poison, synd := u.synd } u (rMscsp d.toNat) (word (256 + n)))) ∧
    (bitOf (s.rd (rMscsp d.toNat)) 8 = true → s.sys.lull.phase = .clear →
      ∃ u, exec (.mscspConversionDone d) s = .next u.releaseKept ∧ AsksDram s u ∧
        (∀ k l, Holds u.sys.msc k l ↔ Holds s.sys.msc k l ∧
          ¬ (k / 32768 = d.toNat ∧ 16 - fld (s.rd (rMscsp d.toNat)) 0 5 ≤ l.way)) ∧
        RegBecomes { s with fresh := s.fresh + 1, agenda := u.agenda, sys := { s.sys with msc := u.sys.msc } } u
          (rMscsp d.toNat) (setBit (s.rd (rMscsp d.toNat)) 8 false)) ∧
    (let a := fld (s.rd (rDraddr d.toNat)) 3 49 * 8
     bitOf (s.rd (rDerrcfg d.toNat)) 0 = true → bitOf v 63 = true → bitOf v 62 = false → drTargetOk d.toNat a = true →
      NMap.get 0 s.lineKey (a / 64) = 0 →
      ∃ u, exec (.drchkGo d v) s = .next u ∧ StoredBytes s u.mem a 8 (s.rd (rDrdata d.toNat)) ∧ AsksDram s u ∧
        (∀ k l, Holds u.sys.l2 k l ↔ Holds s.sys.l2 k l ∧ ¬ l.tag = a / 64) ∧
        (∀ k l, Holds u.sys.msc k l ↔ Holds s.sys.msc k l ∧ ¬ l.tag = a / 64) ∧
        RegBecomes { s.dropCopies (a / 64) with
          mem := u.mem
          agenda := u.agenda
          sys := { (s.dropCopies (a / 64)).sys with l2 := u.sys.l2, msc := u.sys.msc }
          poison := NMap.set false s.poison (a / 8) false
          synd := NMap.set 0 s.synd (a / 8) (BitVec.ofNat 8 (fld v 0 8) ^^^ checkBits (s.rd (rDrdata d.toNat))) } u
          (rDrchk d.toNat) (word (fld v 0 8))) ∧
    ((bitOf (s.rd (rDerrcfg d.toNat)) 0 = true → bitOf v 63 = false → bitOf v 62 = true →
        ∃ u, exec (.drchkCalc d v) s = .next u ∧ RegBecomes s u (rDrchk d.toNat) ((checkBits (s.rd (rDrdata d.toNat))).setWidth 64)) ∧
      (bitOf (s.rd (rDerrcfg d.toNat)) 0 = false → bitOf v 63 = true ∨ bitOf v 62 = true →
        ∃ u, exec (.drchkGo d v) s = .next u ∧ exec (.drchkCalc d v) s = .next u ∧
          RegBecomes s u (rDrchk d.toNat) (setBit (s.rd (rDrchk d.toNat)) 61 true))) ∧
    (∃ u, exec (.dlogtailWrite d v) s = .next u ∧ RegsBecome s u
      (rDlogtail d.toNat) (word (min (fld v 0 32) (fld (s.rd (rDloghead d.toNat)) 0 32)))
      (rDloghead d.toNat) (setFld (s.rd (rDloghead d.toNat)) 32 8 0)) ∧
    (let k := 4 * d.toNat + q.toNat
     let n := NMap.get 0 s.sys.replays k
     (n ≠ 7 → exec (.linkFlitReplay d q) s = .next { s with sys := { s.sys with replays := NMap.set 0 s.sys.replays k (n + 1) } }) ∧
      (n = 7 → ∃ u, exec (.linkFlitReplay d q) s = .next u ∧ u.sys.retrain = s.sys.retrain ++ [k] ∧
        u.sys.replays = NMap.set 0 s.sys.replays k 8 ∧
        u = { s with fw := u.fw, sys := { s.sys with replays := u.sys.replays, retrain := u.sys.retrain, events := u.sys.events } })) ∧
    (∃ u, exec (.keycmdGo v) s = .next u ∧
      (bitOf v 63 = true → bitOf (s.rd rKeycmd) 62 = false → fld v 0 7 ≠ 0 →
        RegBecomes { s with sys := { s.sys with keySlot := fld v 0 7 } } u rKeycmd (setBit (word (fld v 0 7)) 62 true)) ∧
      (bitOf v 63 = true → bitOf (s.rd rKeycmd) 62 = true ∨ fld v 0 7 = 0 → RegBecomes s u rKeycmd (setBit (s.rd rKeycmd) 61 true)) ∧
      (bitOf v 63 = false → RegBecomes s u rKeycmd (setBit (setBit (word (fld v 0 7)) 62 (bitOf (s.rd rKeycmd) 62)) 61
        (bitOf (s.rd rKeycmd) 61 && !bitOf v 61)))) ∧
    (bitOf (s.rd rKeycmd) 62 = true →
      let k := s.sys.keySlot
      ∃ u, exec .keyInstallDone s = .next u.releaseKept ∧ AsksDram s u ∧
        (∀ i l, Holds u.sys.l2 i l ↔ Holds s.sys.l2 i l ∧ ¬ l.keyId = k) ∧
        (∀ i l, Holds u.sys.msc i l ↔ Holds s.sys.msc i l ∧ ¬ l.keyId = k) ∧
        RegBecomes { s with fresh := s.fresh + 1, agenda := u.agenda, sys := { s.sys with
          l2 := u.sys.l2, msc := u.sys.msc
          keys := NMap.set 0 s.sys.keys k ((List.range 8).foldl (fun n i => n + (NMap.get 0 s.sys.keyData i).toNat * 2 ^ (64 * i)) 0)
          events := s.sys.events ++ [(word (0x07 + k * 256), 0)] } } u rKeycmd (setBit (s.rd rKeycmd) 62 false))

/-- Slot steps, queued traps, rechecks, sends, acknowledgements, replies, fetch fills, handler faults and requests at homes go on as stated (R143, R154, R148, R87, R371, R373, R196, R199, R348, R350, R351, R342). The model's own choices in it: logs 9, 10, 78. -/
def Obligations.QueueAndStoreEventsTakeEffect : Prop :=
  ∀ (s : State) (t : Tid) (n : Nat) (x : Strand),
    x = s.strand t →
    (∀ a q r, x.queue = a ++ q :: r → a.all QEntry.handed = true → q.handed = false → s.eager = false →
      LeadsTo (.sequencerHandoff t) s (s.onStrand t fun y => { y with queue := a ++ { q with handed := true } :: r })) ∧
    (∀ q, x.queue[n]? = some q → (s.focus t).canStart n = true → s.eager = false →
      (q.rechecks = false → LeadsTo (.slotStepStart t n) s (s.within t fun u => u.setEntry n { q with started := q.startEnd x })) ∧
      (q.rechecks = true → ∃ u r, exec (.slotStepStart t n) s = .next u ∧
        (u.strand t).queue = x.queue.set n { q with started := q.startEnd x, recheck := q.recheck ++ [r] } ∧ r.runs = 1 ∧ r.at_ = s.fresh ∧
        r.lo = (if opIsWhole q.op then q.first else q.started) ∧ r.hi = q.startEnd x ∧ (u.strand t).vec = x.vec ∧ u.mem = s.mem)) ∧
    (∀ q, x.queue[n]? = some q → x.canCommit n = true →
      let u := s.within t fun u => u.commitStep n q
      exec (.slotStepCommit t n) s = .next (if (u.strand t).queue = x.queue then u.nudge t else u.goOn t)) ∧
    (∀ q, opIsWhole q.op = false →
      (q.total s.me ≤ q.next → s.commitStep n q = s.completeEntry n q) ∧
      (q.next < q.total s.me → let hi := min q.started (q.stepEnd s.me q.next)
        (∀ u, s.runStep q hi = (u, .ok) → let r : QEntry := { q with next := hi, left := none }
          s.commitStep n q = if q.total u.me ≤ hi ∧ r.canComplete u.me = true then u.completeEntry n r else u.setEntry n r) ∧
        (∀ u f, s.runStep q hi = (u, .fault f) →
          let v := if n = 0 then u.setEntry n { q.giveUp f.at_ with next := f.at_, fault := some f, recheck := [] }
            else s.setEntry n { q.giveUp q.next with fault := some f, recheck := [] }
          s.commitStep n q = if opIsSc q.op then v.scDone v.tid else v))) ∧
    (∀ q f, t = s.tid → x.queue = [q] → q.fault = some f → x.run = .running → x.ctl.priv = .app → x.held = false → x.waits = false →
      x.grant = none → s.sys.scRun = none →
      ∃ u, exec (.queuedTrap t) s = .next u ∧ u.me.pc = x.ctl.tvec ∧ u.me.regs = x.regs ∧ u.mem = s.mem ∧ u.others = s.others ∧
        u.me.queue = [{ q.giveUp f.at_ with fault := none, next := f.at_, recheck := [] }] ∧
        u.me.ctl = { x.ctl with
          es := BitVec.ofNat 32 f.at_, epc := x.pc, cause := BitVec.ofNat 7 (f.cause + 0x40), tval := f.tval, tval2 := f.tval2
          ppriv := .app, priv := .sup, pld := x.ctl.ld, pldv := x.ctl.ldv, ldv := false }) ∧
    (∀ i e, t = s.tid → x.queue = [] → x.staged 0 = i :: (x.staged 0).tail → x.writes[i]? = some e →
      (∀ p ∈ e.parts, p.1.atOnce t = false ∧ p.1.kind ≠ .remote) → e.parts ≠ [] →
      ∃ u, exec (.writeQueueSend t) s = .next u ∧ u.mem = s.mem ∧ u.others = s.others ∧ .homeRequest t 0 ∈ u.agenda ∧
        u.me = { x with writes := x.writes.set i { e with stage := 1, tags := [], sent := s.fresh } }) ∧
    (∀ i, x.leavable[n]? = some i → x.queue = [] → (t = s.tid ∨ s.eager = false) →
      LeadsTo (.storeAcknowledgement t n) s (s.onStrand t fun y => { y with writes := y.writes.eraseIdx i })) ∧
    (∀ i p, t = s.tid → x.answered[n]? = some i → x.pend[i]? = some p → p.owner = .scalar → x.queue = [] →
      let y := { x with pend := x.pend.eraseIdx i }
      (p.fail = none → LeadsTo (.memoryReply t n) s { (if Order.acquires p.order then s.acquire t.cluster p.scope else s) with
        me := y.setReg p.d p.value }) ∧
      (∀ c, p.fail = some c → ∃ v, LeadsTo (.memoryReply t n) s v ∧
        Trapped { s with me := match p.back with | some b => y.takeBack p.id b | none => y } v (BitVec.ofNat 7 c) p.addr 0)) ∧
    ((x.run ≠ .unbound → ∀ u w, (s.focus t).fetch = (u, .ok w) → exec (.fetchFill t) s = .next (u.focus s.tid)) ∧
      (∀ u b, (s.focus t).fetch = (u, .error b) → exec (.fetchFill t) s = .next s)) ∧
    (∀ u a, t = s.tid → x.run = .running → x.ctl.priv = .sup → x.pc = evenPc x.ctl.tvec → x.grant = none → s.fetch = (u, .error (.fault a)) →
      ∃ v, exec (.handlerFault t) s = .next v ∧ v.me.run = .saving .handlerFault ∧ v.me.held = true ∧ v.me.pc = x.pc ∧
        v.me.regs = x.regs ∧ v.mem = s.mem ∧ .saveComplete t ∈ v.agenda ∧
        v.me.ctl = { x.ctl with cause := 0x1F, tval := x.ctl.tvec, tval2 := x.ctl.cause.setWidth 64 }) ∧
    (∀ q k sc, x.queue[n]? = some q → q.op = .barv k sc → (s.focus t).canArrive n = true →
      exec (.barvArrival t n) s =
        .next ((s.within t fun u => (u.barrierArrive u.tid.cluster k.toNat).completeEntry n q).goOn t)) ∧
    (∀ i e, (s.servableStores t)[n]? = some i → x.writes[i]? = some e →
      (s.copied t e = [] → exec (.homeRequest t n) s = .next (s.performEntry t i e)) ∧
      (s.copied t e ≠ [] → LeadsTo (.homeRequest t n) s (s.onStrand t fun y => y.toStage i 2))) ∧
    (∀ i p, (s.servablePends t)[n]? = some i → s.servableStores t = [] → x.pend[i]? = some p →
      exec (.homeRequest t n) s = .next (s.servePend t i p)) ∧
    (∀ (pa : Word) (die : DieNo), let l := pa.toNat % 2 ^ 52 / 64
      let v := NMap.get 0 s.sys.replicas l
      let k := l2Set die.toNat (64 * l)
      LeadsTo (.replicaInvalidation pa die) s { s with sys := { s.sys with
          l2 := NMap.set [] s.sys.l2 k ((NMap.get [] s.sys.l2 k).filter fun x => !decide (x.tag = l))
          replicas := NMap.set 0 s.sys.replicas l (v &&& ~~~(BitVec.ofNat 4 (2 ^ die.toNat))) } }) ∧
    (∀ i e, (s.cleared t)[n]? = some i → x.writes[i]? = some e → exec (.invalidationAck t n) s = .next (s.performEntry t i e)) ∧
    (∀ q r k, x.queue[n]? = some q → q.recheck.findIdx? (fun r => decide (r.runs = 1)) = some k → q.recheck[k]? = some r →
      x.canRecheck n = true → s.eager = false → LeadsTo (.recheckSecondExecution t n) s (s.putStep t n k q { r with runs := 2 })) ∧
    (∀ q r bad, x.rechecking n 2 = some (q, r) → let b := (x.realLanes (bad ++ (s.focus t).disagree q r)).eraseDups
      (b = [] → exec (.recheckCompare t n bad) s = .next (s.commitChecked t n q)) ∧
      (b ≠ [] → LeadsTo (.recheckCompare t n bad) s (s.putStep t n 0 q { r with runs := 3, bad := b }))) ∧
    (∀ q r bad nomaj, x.rechecking n 3 = some (q, r) →
      let m := (x.realLanes nomaj).filter fun k => r.bad.elem k
      let voted := r.bad.filter fun k => !m.elem k
      (m = [] → exec (.recheckVote t n bad nomaj) s =
        .next (((s.laneRecords t q r 4 false voted).countLanes t voted).commitChecked t n q)) ∧
      (m ≠ [] → opIsWhole q.op = true → exec (.recheckVote t n bad nomaj) s =
        .next ((((s.laneRecords t q r 4 false voted).laneRecords t q r 5 false m).countLanes t r.bad).abandon t n q)) ∧
      (m ≠ [] → opIsWhole q.op = false →
        LeadsTo (.recheckVote t n bad nomaj) s (s.putStep t n 0 q { r with runs := 4, split := m }))) ∧
    (∀ q r nomaj agree, (x.rechecking n 4).or (x.rechecking n 5) = some (q, r) →
      let u := s.markLanes t r.split
      let out := fun (sev : Nat) =>
        ((u.laneRecords t q r 4 false (r.bad.filter fun k => !r.split.elem k)).laneRecords t q r sev true r.split).countLanes t r.bad
      (agree = true → exec (.recheckRollback t n nomaj agree) s = .next ((out 4).commitChecked t n q)) ∧
      (agree = false → r.runs = 4 → LeadsTo (.recheckRollback t n nomaj agree) s (u.putStep t n 0 q { r with runs := 5 })) ∧
      (agree = false → r.runs ≠ 4 → exec (.recheckRollback t n nomaj agree) s = .next ((out 5).abandon t n q)))

/-- Messages depart, arrive or bounce, acknowledgements and bounces free reservations, completion messages enter the share (R163, R164, R165, R167, R170, R172, R173, R174, R334, R335, R338, R453). The model's own choices in it: logs 10, 57, 62. -/
def Obligations.MessageEventsTakeEffect : Prop :=
  ∀ (s : State) (t : Tid) (q : BitVec 2) (m : Net) (n : Nat),
    (∀ h p r, let x := s.strand t
      x.sends = (h, p) :: r → x.sendReady t = true → LeadsTo (.sendDepart t) s { s.onStrand t fun y => { y with sends := r } with
        net := s.net ++ [{ kind := .message, header := h, payload := p, src := t, tenant := x.ctl.tenant }] }) ∧
    (netPick (fun e => e.isMessage && s.netFlows e) s.net n = some m → netBehind s.net Net.isMessage m = false →
      let d : Tid := BitVec.ofNat 13 (fld m.header 0 13)
      let x := s.strand d
      let full := 32 ≤ s.mailUse d.core ∨ 32 ≤ x.block.length + x.msgs.length
      let bounce := fun (k : Nat) => exec (.mailboxArrival n) s =
        .next { s with net := s.net.erase m ++ [{ m with kind := .bounce k }], agenda := s.agenda ++ [.bounceArrival 0] }
      let msg : Msg := { header := word (fld m.header 42 22 * 2 ^ 42 + m.src.toNat), payload := m.payload, scope := scopeOf m.src d }
      (x.run = .unbound ∨ bitOf (s.rd (rCfence (d.core / 16))) (16 + d.core % 16) = true → bounce 2) ∧
      (x.run ≠ .unbound → bitOf (s.rd (rCfence (d.core / 16))) (16 + d.core % 16) = false →
        (x.ctl.tenant ≠ m.tenant → bounce 3) ∧
        (x.ctl.tenant = m.tenant → full → bounce 1) ∧
        (x.ctl.tenant = m.tenant → ¬ full → x.run ≠ .parked .waitmsg → exec (.mailboxArrival n) s =
          .next { s.onStrand d fun y => { y with msgs := y.msgs ++ [msg] } with
            net := s.net.erase m ++ [{ m with kind := .ack }], agenda := s.agenda ++ [.messageAcknowledgement 0] }) ∧
        (x.ctl.tenant = m.tenant → ¬ full → x.run = .parked .waitmsg → bitOf m.header 47 = false →
          exec (.mailboxArrival n) s = .next { s.onStrand d fun y => { y with
              msgs := y.msgs ++ [msg], run := .running, park := none, pc := y.pc + 4, ctl := { y.ctl with ldv := false } } with
            net := s.net.erase m ++ [{ m with kind := .ack }], agenda := s.agenda ++ [.messageAcknowledgement 0] }) ∧
        (x.ctl.tenant = m.tenant → ¬ full → x.run = .parked .waitmsg → bitOf m.header 47 = true →
          let r : Reg := BitVec.ofNat 5 (fld m.header 42 5)
          exec (.mailboxArrival n) s = .next { (s.acquire d.cluster (scopeOf m.src d)).onStrand d fun y => { y with
              regs := (y.setReg r m.payload).regs, run := .running, park := none, pc := y.pc + 4
              ctl := { y.ctl with ld := if r = 0 then y.ctl.ld else r, ldv := decide (r ≠ 0) } } with
            net := s.net.erase m ++ [{ m with kind := .ack }], agenda := s.agenda ++ [.messageAcknowledgement 0] }))) ∧
    (netPick (fun e => e.isAck && s.netFlows e) s.net n = some m → netBehind s.net Net.isAck m = false →
      LeadsTo (.messageAcknowledgement n) s { s.onStrand m.src fun y => { y with resv := y.resv - 1 } with net := s.net.erase m }) ∧
    (∀ k, netPick (fun e => e.isBounce && s.netFlows e) s.net n = some m → netBehind s.net Net.isBounce m = false → m.kind = .bounce k →
      let x := s.strand m.src
      let u : State := { s.onStrand m.src fun y => { y with resv := y.resv - 1 } with net := s.net.erase m }
      ((u.strand m.src).run = .unbound → LeadsTo (.bounceArrival n) s u) ∧
      (x.run ≠ .unbound → x.run ≠ .parked .waitmsg → LeadsTo (.bounceArrival n) s { s.onStrand m.src fun y => { y with
            resv := y.resv - 1
            msgs := y.msgs ++ [{ header := word (fld m.header 42 22 * 2 ^ 42 + 2 * 2 ^ 40 + k * 2 ^ 37 + fld m.header 0 13)
                                 payload := m.payload, scope := .st }] } with net := s.net.erase m })) ∧
    (let x := s.strand t
      let sl := x.slot q
      sl.phase = .done → sl.msgDue = true → s.mailUse t.core < 32 → x.run ≠ .parked .waitmsg →
      exec (.completionMessage t q) s = .next (s.onStrand t fun y => { y with
        slots := y.slots.set q.toNat { sl with msgDue := false } q.isLt
        msgs := y.msgs ++ [{ header := word (sl.status * 2 ^ 60 + q.toNat * 2 ^ 58 + 2 ^ 40 + t.toNat)
                             payload := word (sl.ffl.toNat * 2 ^ 54 + sl.clip % 2 ^ 22 * 2 ^ 32 + sl.count % 2 ^ 32), scope := .st }] })) ∧
    (let x := s.strand t
      let sl := x.slot q
      sl.phase = .busy → sl.ended = true → (∀ p ∈ x.posted, p.own ≠ .engine q.toNat) → sl.arrive = none → x.run = .running → x.queue = [] →
      (t = s.tid ∨ s.eager = false) → ∃ es, .completionMessage t q ∈ es ∧
        exec (.streamCopyDone t q) s = .next { s.onStrand t fun y => { y.raise sl.ffl 0 with
          slots := y.slots.set q.toNat { sl with phase := .done, ended := false, msgDue := true, coll := false, box := [], unmerged := 0 } q.isLt } with
          agenda := s.agenda ++ es }) ∧
    (∀ c, (s.engineStep c.toNat (engineOrder (s.cluster c.toNat).engine) = none → exec (.streamUnit c) s = .next s) ∧
      (∀ u, s.engineStep c.toNat (engineOrder (s.cluster c.toNat).engine) = some u → u.eager = false → LeadsTo (.streamUnit c) s u)) ∧
    (∀ ms, t = s.tid → let x := s.me
      let sl := x.slot q
      let w := wordAt sl.box 0
      let g := s.rd (rFgrpc (fld w 24 8))
      x.run ≠ .unbound → sl.phase = .busy → sl.coll = true → sl.ended = false → sl.members = [] →
      sl.box ≠ [] → (∀ k, k ≤ fld g 0 4 → k ≠ fld g 4 4 → ∃ m ∈ ms, m.rank = k) → (∀ m ∈ ms, m.rank ≠ fld g 4 4 ∧ m.rank ≤ fld g 0 4) →
      (ms.map fun m => m.rank).Nodup →
      let ends := fun (n st : Nat) (f : BitVec 5) => exec (.collectiveComplete t q ms) s = .next { s with
        me := { x.dropSlot q with slots := x.slots.set q.toNat { sl with count := n, ffl := f, status := st, buf := [], ended := true } q.isLt }
        agenda := s.agenda ++ [.streamCopyDone t q] }
      ((∃ m ∈ ms, m.opWord ≠ w ∨ m.seq ≠ wordAt sl.box 3) → ends sl.count 4 sl.ffl) ∧
      ((∀ m ∈ ms, m.opWord = w ∧ m.seq = wordAt sl.box 3 ∧ m.stop = none) → fld w 32 32 = 0 → ends 0 0 0))

/-- Marks, deadlines, saves, restores, grants, matrix mode, relocation, debug control and firmware calls have their stated effects (R204, R205, R207, R209, R211, R194, R293, R36, R178, R179, R441, R140). The model's own choices in it: logs 10, 27, 29, 49, 55, 62. -/
def Obligations.AllocatorSaveAndDebugEventsTakeEffect : Prop :=
  ∀ (s : State) (t : Tid) (x : Strand) (c : ClusterNo) (off : BitVec 10) (v : Word),
    x = s.strand t →
    ((s.markDue t = false → exec (.allocatorMark t) s = .next s) ∧
      (∀ u, s.markDue t = true → s.victimFor t.cluster x.ctl.tenant = some u →
        exec (.allocatorMark t) s = .next ((s.onStrand u fun y => { y with
            mark := some { target := (s.strand u).vec.lanes.length - 1, since := s.sys.pool, attached := some t } }).onStrand t
          fun y => { y with waitAt := s.sys.pool }) ∧
        u ∈ s.clusterTids t.cluster ∧ (s.strand u).markable = true ∧ (s.strand u).vec.lanes ≠ [] ∧
        ∀ w ∈ s.clusterTids t.cluster, (s.strand w).vec.lanes ≠ [] → (s.strand w).ctl.tenant ≠ x.ctl.tenant →
          (s.strand u).ctl.tenant ≠ x.ctl.tenant ∧ ((s.strand w).markable = true →
            s.activeLg t.cluster (s.strand w).ctl.tenant.toNat ≤ s.activeLg t.cluster (s.strand u).ctl.tenant.toNat))) ∧
    (∀ m, x.queue = [] → s.sys.scRun = none → x.grant = none → x.mark = some m → x.canSave = true → m.since + fld (s.rd (rLadl t.cluster)) 0 17 ≤ s.sys.pool →
      LeadsTo (.deadlineExpiry t) s ((s.onCluster t.cluster fun k => { k with waiting := k.waiting.filter fun u => !decide (u = t) }).onStrand t fun y => { y with
          park := y.parkKept, run := .saving .squall, grant := none
          slots := y.slots.map fun (sl : Slot) => if sl.form = .ldv then { sl with buf := [] } else sl })) ∧
    (x.queue = [] → s.sys.scRun = none → x.grant = none → s.parkDue t = true → LeadsTo (.parkExpiry t) s ((s.onCluster t.cluster fun k => { k with waiting := k.waiting.filter fun u => !decide (u = t) }).onStrand t fun y => { y with
          park := y.parkKept, run := .saving .squall, grant := none
          slots := y.slots.map fun (sl : Slot) => if sl.form = .ldv then { sl with buf := [] } else sl })) ∧
    (x.run = .running → x.attach = true → (x.haltreq = true ∨ x.hcause ≠ 0) → x.waits = false → x.grant = none → s.sys.scRun = none →
      exec (.debugHalt t) s = .next (s.onStrand t fun y => { y with
        run := .halted, hcause := if y.hcause = 0 then 2 else y.hcause, parkedAt := s.sys.pool })) ∧
    (∀ w, x.run = .saving w → (w = .preempt ∨ w = .squall) → x.saveReady w = true → x.headFault = none → x.mark = none → x.vec.regSynd = [] →
      (s.cluster t.cluster).fencing = 0 → s.sys.schOp = none → (s.cluster t.cluster).suspended = [] →
      (s.cluster t.cluster).waiting = [] → s.synd = [] → s.mem.wf = true → (x.ctl.lg = 0 ∨ x.held = true) →
      ∃ u y loc, exec (.saveComplete t) s = .next u ∧ u.strand t = y ∧ y.run = .suspended w ∧ y.vec.lanes = [] ∧
        y.savedLg = x.ctl.lg.toNat ∧ y.regs = x.regs ∧ y.pc = x.pc ∧ y.ctl = x.ctl ∧
        (x.ctl.lg = 0 → x.held = false → .restoreComplete t ∈ u.agenda) ∧
        (x.ctl.lg ≠ 0 → (u.cluster t.cluster).suspended = [t]) ∧
        (∀ k i, k < 128 → i < 8 → u.mem.byte (saveSlot x.ctl.tenant.toNat t + 8 * k + i) =
          ((x.savedAs w).recordWord loc k).extractLsb' (8 * i) 8) ∧
        (∀ a, a < saveSlot x.ctl.tenant.toNat t ∨ saveSlot x.ctl.tenant.toNat t + 1024 ≤ a → u.mem.byte a = s.mem.byte a)) ∧
    (∀ w, x.run = .restoring w → s.blockFits t = true → x.park = none → x.hcause = 0 → x.queue = [] →
      (s.cluster t.cluster).stray = [] →
      (∀ sl ∈ x.slots.toList, sl.unmerged = 0) → (t = s.tid ∨ s.eager = false) →
      LeadsTo (.restoreComplete t) s (s.onStrand t fun y => { y with
          run := .running, savedLg := 0, parkedAt := s.sys.pool, msgs := y.block ++ y.msgs, block := []
          ctl := { y.ctl with sql := y.ctl.sql || decide (w = .squall) } })) ∧
    (∀ z d req h n, t = s.tid → x.run = .granting z d req h n → x.grant = none → x.ctl.lg.toNat ≤ x.vec.lanes.length →
      x.vec.regSynd = [] → (s.cluster t.cluster).stray = [] →
      let g := x.vec.lanes.length
      let m := min req.toNat (vlmaxAt g (shapeOf h) (vtSew x.ctl.vt))
      ∃ u, exec (.grantComplete t) s = .next u ∧ u.me.run = .running ∧ u.me.pc = x.pc + 4 ∧ u.me.vec.lanes = x.vec.lanes ∧
        u.me.ctl.lg = BitVec.ofNat 4 g ∧ u.me.ctl.shape = shapeOf h ∧ u.me.ctl.vl = BitVec.ofNat 32 m ∧ u.me.ctl.sql = false ∧
        (∀ r, u.reg r = if r = d ∧ d ≠ 0 then word m else s.reg r) ∧ u.me.grant = none ∧ u.me.mark = x.mark ∧ u = { s with me := u.me }) ∧
    (∀ n, t = s.tid → x.run = .entering n → (s.cluster t.cluster).stray = [] → ∃ u, exec (.mtenterComplete t) s = .next u ∧ u.me.run = .running ∧ u.me.pc = x.pc + 4 ∧
      u.me.ctl = { x.ctl with mt := true, ldv := false } ∧ u.me.vec.tiles = [] ∧ u.me.vec.weights = [] ∧ u.me.vec.lanes = x.vec.lanes ∧
      u.me.vec.regs = x.vec.regs ∧ u.me.vec.masks = x.vec.masks ∧ u.me.regs = x.regs ∧ u = { s with me := u.me }) ∧
    (∀ b, t = s.tid → x.run = .parked .relocate → x.grant = none → s.squareFor t.cluster x.vec.lanes = some b → x.mark = none →
      x.vec.regSynd = [] → (s.cluster t.cluster).stray = [] →
      s.clusterTids t.cluster = [t] → (s.cluster t.cluster).suspended = [] → (s.cluster t.cluster).waiting = [t] →
      ∃ u, exec (.relocate t) s = .next u ∧ u.agenda = s.agenda ++ [.mtenterComplete t] ∧ (u.cluster t.cluster).waiting = [] ∧
        u = { s with agenda := u.agenda, clusters := u.clusters
                     me := { x with run := .entering 4, vec := { x.vec with lanes := squareOf b } } }) ∧
    ((bitOf v 7 = false → exec (.dbgctlHaltreq t v) s = .next { s.onStrand t fun y => { y with
          step := bitOf v 3, haltreq := bitOf v 2, brken := bitOf v 1, attach := bitOf v 0 } with
        agenda := s.agenda ++ if bitOf v 2 && bitOf v 0 then [.debugHalt t] else [] }) ∧
      (bitOf v 7 = true → bitOf v 2 = false → x.run = .halted → x.queue = [] → (t = s.tid ∨ s.eager = false) →
        LeadsTo (.dbgctlResume t v) s (s.onStrand t fun y => { y with
            run := .running, hcause := 0, step := bitOf v 3, haltreq := false, brken := bitOf v 1, attach := bitOf v 0 }))) ∧
    (let d : Tid := BitVec.ofNat 13 (64 * c.toNat + fld (s.rd (rDbgsel c.toNat)) 0 6)
      let k := off.toNat / 8
      let y := s.strand d
      (bitOf (s.rd (rDbgsel c.toNat)) 6 = true → y.isHalted = true →
        exec (.debugWindowAccess c off (some v)) s =
          .next (State.onStrand { s with fresh := s.fresh + 1 } d fun y => y.putRecordWord s.fresh k v) ∧
        (k = 0 → y.putRecordWord s.fresh k v = { y with pc := v &&& ~~~1, fullAt := none }) ∧
        (∀ r : Reg, r ≠ 0 → k = r.toNat → y.putRecordWord s.fresh k v = y.setReg r v) ∧
        (k ≠ 57 → exec (.debugWindowAccess c off none) s = .next { s with sys := { s.sys with
          reply := natLe (y.recordWord 0 k).toNat 8, replyError := 0 } })) ∧
      (bitOf (s.rd (rDbgsel c.toNat)) 6 = false ∨ y.isHalted = false →
        exec (.debugWindowAccess c off (some v)) s = .next s ∧
        exec (.debugWindowAccess c off none) s = .next { s with sys := { s.sys with reply := natLe 0 8, replyError := 0 } })) ∧
    ((s.managed = false → ∀ o w, exec (.mctpDebugRequest c o w) s = .next s) ∧ (s.managed = true →
      (s.canonical = true → SetsReg (.mctpDebugRequest c 0x600 (some v)) s s (rDbgsel c.toNat) (v &&& 0x7F)) ∧
      (∀ w, exec (.mctpDebugRequest c (0x1000 + off.setWidth 16) w) s = exec (.debugWindowAccess c off w) s) ∧
      (∀ i : BitVec 6, exec (.mctpDebugRequest c (0x400 + 8 * i.setWidth 16) (some v)) s =
        exec (.dbgctlHaltreq (BitVec.ofNat 13 (64 * c.toNat + i.toNat)) v) s))) ∧
    (∀ w, (x.run = .firmwareCall → exec (.firmwareCallReturn t v w) s = .next (s.onStrand t fun y =>
        { (y.setReg 4 v).setReg 5 w with run := .running, pc := y.ctl.epc + 4 })) ∧
      (x.run ≠ .firmwareCall → exec (.firmwareCallReturn t v w) s = .next s))

/-- Doorbells, packets, placement, signals, MSI-X, scheduler operations, resets of functions and the fatal state act as stated (R407, R409, R410, R413, R414, R432, R417, R425, R434, R426, R160, R412). The model's own choices in it: logs 28, 33, 61, 81. -/
def Obligations.LaunchAndSchedulerEventsTakeEffect : Prop :=
  ∀ (s : State) (q : BitVec 8) (v : Word) (f : BitVec 5),
    s.canonical = true →
    (let w := (s.rd (rQnotify q.toNat)).toNat
      let lim := (s.rd (rQrd q.toNat)).toNat + 2 ^ fld (s.rd (rQctl q.toNat)) 0 4
      let woken : State := if NMap.get CpState.idle s.sys.cp q.toNat = .waiting then
          { s with agenda := s.agenda ++ [.cpServePacket q], sys := { s.sys with cp := NMap.set CpState.idle s.sys.cp q.toNat .idle } }
        else s
      (s.sys.fatal = true → exec (.qnotifyWrite q v) s = .next s) ∧
      (s.sys.fatal = false →
        (v.toNat ≤ w → exec (.qnotifyWrite q v) s = .next woken) ∧
        (w < v.toNat → lim < v.toNat → SetsReg (.qnotifyWrite q v) s woken (rQstat q.toNat) (setBit (s.rd (rQstat q.toNat)) 56 true)) ∧
        (w < v.toNat → v.toNat ≤ lim →
          SetsReg (.qnotifyWrite q v) s { woken with agenda := woken.agenda ++ [.cpServePacket q] } (rQnotify q.toNat) v))) ∧
    ((s.sys.fatal = true → exec (.qstatRestart q v) s = .next s) ∧
      (s.sys.fatal = false → SetsReg (.qstatRestart q v) s { s with agenda := s.agenda ++ [.cpServePacket q] } (rQstat q.toNat)
        (let w := s.rd (rQstat q.toNat)
         setBit (setBit w 63 (bitOf w 63 && !bitOf v 63)) 56 (bitOf w 56 && !bitOf v 56)))) ∧
    (bitOf (s.rd (rQctl q.toNat)) 63 = false ∨ bitOf (s.rd (rQstat q.toNat)) 63 = true ∨
      (s.rd (rQnotify q.toNat)).toNat ≤ (s.rd (rQrd q.toNat)).toNat ∨ s.sys.fatal = true ∨
      NMap.get CpState.idle s.sys.cp q.toNat = .waiting ∨ NMap.get CpState.idle s.sys.cp q.toNat = .clearing →
      exec (.cpServePacket q) s = .next s) ∧
    (let n := q.toNat
      let ctl := s.rd (rQctl n)
      let r := (s.rd (rQrd n)).toNat
      let tenant := fld ctl 16 5
      let a := cpAgent tenant (fld ctl 12 4)
      let e : Event := .cpServePacket q
      let at_ := word (fld (s.rd (rQbase n)) 12 36 * 4096 + 128 * (r % 2 ^ fld ctl 0 4))
      let ends := fun (u : State) (k : Nat) => exec (.cpServePacket q) s = .next (u.stopQueue n (some (k, (u.rd (rQrd n)).toNat % 2 ^ 48)))
      bitOf ctl 63 = true → bitOf (s.rd (rQstat n)) 63 = false → r < (s.rd (rQnotify n)).toNat → s.sys.fatal = false →
      (∀ ws args, NMap.get CpState.idle s.sys.cp n = .held ws args → exec (.cpServePacket q) s = s.cpStart q ws args) ∧
      (NMap.get CpState.idle s.sys.cp n = .idle →
      (∀ u, s.cpRead a e at_ = (u, .fault) → ends u 4) ∧
      (∀ u, s.cpRead a e at_ = (u, .asked) → exec (.cpServePacket q) s = .next u) ∧
      (∀ u, s.cpRead a e at_ = (u, .wait) → exec (.cpServePacket q) s = .next (s.keep e)) ∧
      (∀ u hs, s.cpRead a e at_ = (u, .data hs) →
        let h := wordAt hs 0
        (bitOf h 0 = false → exec (.cpServePacket q) s = .next { u.clearFar (.step e) with
          sys := { (u.clearFar (.step e)).sys with cp := NMap.set CpState.idle (u.clearFar (.step e)).sys.cp n .waiting } }) ∧
        (bitOf h 0 = true → (∀ u1, u.cpReads a e (at_ + 8) 15 = (u1, .fault) → ends u1 4) ∧
          ∀ u1 bs, u.cpReads a e (at_ + 8) 15 = (u1, .data bs) →
          let ws := (List.range 16).map fun k => wordAt (hs ++ bs) k
          (pktReserved ws = true → ends u1 1) ∧
          (pktReserved ws = false → pktLevels ws = true → ends u1 2) ∧
          (pktReserved ws = false → pktLevels ws = false → pktAddresses ws = true → ends u1 3) ∧
          (pktReserved ws = false → pktLevels ws = false → pktAddresses ws = false →
            (∀ u2, u1.cpReads a e (pktWord ws 2) (fld (pktWord ws 0) 16 9 / 8) = (u2, .fault) → ends u2 4) ∧
            ∀ u2 u3 u4 args b1 b2, u1.cpReads a e (pktWord ws 2) (fld (pktWord ws 0) 16 9 / 8) = (u2, .data args) →
              u2.cpTranslates a .fetch (pktWord ws 1) 2 = (u3, .data b1) →
              (if pktWord ws 3 = 0 then (u3, CpRes.data []) else u3.cpTranslates a (.amo .add (BitVec.allOnes 64)) (pktWord ws 3) 8)
                = (u4, .data b2) →
              (fld (s.rd (rSchq tenant)) 0 14 < groupSize ws → ends u4 5) ∧
              (groupSize ws ≤ fld (s.rd (rSchq tenant)) 0 14 → exec (.cpServePacket q) s = u4.cpStart q ws args)))))) ∧
    (∀ ws args, let n := q.toNat
      let ctl := s.rd (rQctl n)
      let h := pktWord ws 0
      let e : Event := .cpServePacket q
      let held := fun (u : State) => { u with sys := { u.sys with cp := NMap.set CpState.idle u.sys.cp n (.held ws args) } }
      let ready := ∀ l, s.lastLaunch n = some l → l.placing = true ∧ (bitOf h 1 = true → s.hasTriggered l = true)
      let put := s.cpWrite (cpAgent (fld ctl 16 5) (fld ctl 12 4)) e (s.packetAt n) (setBit h 0 false)
      (¬ ready → s.cpStart q ws args = .next (held s)) ∧
      (∀ u, ready → put = (u, .fault) → s.cpStart q ws args = .next (u.stopQueue n (some (4, (u.rd (rQrd n)).toNat % 2 ^ 48)))) ∧
      (∀ u, ready → put = (u, .asked) → s.cpStart q ws args = .next (held u)) ∧
      (∀ u, ready → put = (u, .wait) → s.cpStart q ws args = .next ((held s).keep e)) ∧
      (∀ u0 b, ready → put = (u0, .data b) → (∀ l ∈ u0.sys.launches, l.id ≠ u0.sys.nextLaunch) →
        u0.groupsOf (fld ctl 16 5) ws ≠ [] → groupSize ws ≠ 0 → let u := u0.clearFar (.step e)
        ∃ l, s.cpStart q ws args = .next { u with
            agenda := u.agenda ++ [.packetClearAck q, .groupPlacement 0]
            sys := { u.sys with launches := u.sys.launches ++ [l], nextLaunch := u.sys.nextLaunch + 1
                                cp := NMap.set CpState.idle u.sys.cp n .clearing } } ∧
          l = { id := u0.sys.nextLaunch, queue := n, tenant := BitVec.ofNat 5 (fld ctl 16 5), part := BitVec.ofNat 4 (fld ctl 12 4)
                index := (u0.rd (rQrd n)).toNat, words := ws, args := args, prio := min (fld h 2 3) (fld ctl 9 3)
                groups := u0.groupsOf (fld ctl 16 5) ws, perGroup := groupSize ws, placed := 0, exited := 0, triggered := 0
                ended := false })) ∧
    ((NMap.get CpState.idle s.sys.cp q.toNat = .clearing → SetsReg (.packetClearAck q) s { s with
        agenda := s.agenda ++ [.cpServePacket q]
        sys := { s.sys with cp := NMap.set CpState.idle s.sys.cp q.toNat .idle } } (rQrd q.toNat) (s.rd (rQrd q.toNat) + 1)) ∧
      (NMap.get CpState.idle s.sys.cp q.toNat ≠ .clearing → exec (.packetClearAck q) s = .next s)) ∧
    (∀ n, ((s.placeable [] s.unplaced)[n]? = none → exec (.groupPlacement n) s = .next s) ∧
      (∀ l, (s.placeable [] s.unplaced)[n]? = some l →
        let u := (List.range l.perGroup).foldl (fun (u : State) j => u.bindInstance l l.placed j) s
        exec (.groupPlacement n) s = .next { u with
          agenda := u.agenda ++ [.cpServePacket (BitVec.ofNat 8 l.queue), .groupPlacement 0]
          sys := { u.sys with launches := u.sys.launches.map fun (m : Launch) => if m.id = l.id then { m with placed := m.placed + 1 } else m } })) ∧
    (∀ l g j t, s.nextContext (l.groups.getD g 0) l.tenant = some t →
      let u := s.bindInstance l g j
      let x := u.strand t
      x.run = .running ∧ x.launch = some l.id ∧ x.pc = pktWord l.words 1 ∧ x.queue = [] ∧ x.msgs = [] ∧ x.fbuf = none ∧ x.vec = Vec.empty ∧
      (∀ r, x.reg r = if r = 2 ∨ r = 3 then 0xE000000000001F00 else 0) ∧
      x.ctl = { Ctl.reset with
        tenant := l.tenant, part := l.part, priv := .app, rchk := bitOf (pktWord l.words 0) 6
        move := bitOf (pktWord l.words 0) 5, tvec := s.rd (rTvec l.tenant.toNat), seed := pktWord l.words 4
        idx0 := idxOf l.words g j 0, idx1 := idxOf l.words g j 1, idx2 := idxOf l.words g j 2, idx3 := idxOf l.words g j 3 } ∧
      (∀ i, i < 0x2000 → u.mem.byte (tcmKey t.core (0x10000 + 0x2000 * t.ctx + i)) =
        if i < 0x1F00 then 0 else l.args.getD (i - 0x1F00) 0)) ∧
    (∀ n l p k r u old, s.sys.launches.find? (fun (l : Launch) => decide (l.id = n)) = some l →
      l.groups.length * l.perGroup ≤ l.exited → pktWord l.words 3 ≠ 0 → (∀ e ∈ s.sys.signals, e.2 ≠ n) →
      let a := cpAgent l.tenant.toNat l.part.toNat
      let m : Word := BitVec.allOnes 64
      s.resolve a (.amo .add m) (pktWord l.words 3) 8 = .ok ((p, k) :: r) → s.atomicHeld a p = false →
      (∀ h, region p.key ≠ .host h) → (∀ d va, region p.key ≠ .remote d va) →
      (s.noteAccess a (pktWord l.words 3) [8]).atomicAt a p (.amo 8 .add m) = (u, .ok old) →
      exec (.signalDecrement n) s = .next { u with
        sys := { u.sys with launches := u.sys.launches.filter fun (m : Launch) => !decide (m.id = n) }
        agenda := u.agenda ++ .cpServePacket (BitVec.ofNat 8 l.queue) ::
          (match u.queueSlot l.queue with
           | some p => if bitOf (u.rd (rQfn l.queue)) 10 then [.msixSend (BitVec.ofNat 5 p.1) p.2] else []
           | none => []) }) ∧
    (∀ (t : Tid) n l, let x := s.strand t
      x.trigIssued = true → x.trigCounted = false → x.quietBefore x.trigAt = true →
      (x.launch = none → exec (.triggerMarkCount t) s = .next (s.onStrand t fun y => { y with trigCounted := true })) ∧
      (x.launch = some n → s.sys.launches.find? (fun (l : Launch) => decide (l.id = n)) = some l →
        LeadsTo (.triggerMarkCount t) s { s.onStrand t fun y => { y with trigCounted := true } with sys := { s.sys with
          launches := s.sys.launches.map fun (l : Launch) => if l.id = n then { l with triggered := l.triggered + 1 } else l } })) ∧
    (∀ (t : Tid) n l, let x := s.strand t
      x.exitDue = true → x.launch = some n → s.sys.launches.find? (fun (l : Launch) => decide (l.id = n)) = some l →
      l.ended = false → l.exited + 1 < l.groups.length * l.perGroup →
      ∃ u m, exec (.exitFinish t) s = .next u ∧ u.mem = s.mem ∧ u.strand t = { Strand.unbound with
          resv := x.resv, step := x.step, haltreq := x.haltreq, brken := x.brken, attach := x.attach } ∧
        m ∈ u.sys.launches ∧ m = { l with exited := l.exited + 1, triggered := if x.trigCounted then l.triggered else l.triggered + 1 }) ∧
    (∀ n, let b := n % 17
      let masked := bitOf (s.rd (rMsix f.toNat b 1)) 32 = true ∨ bitOf (s.rd (rMsixCtl f.toNat)) 14 = true ∨ bitOf (s.rd (rMsixCtl f.toNat)) 15 = false
      (masked → SetsReg (.msixSend f n) s s (rPba f.toNat) (setBit (s.rd (rPba f.toNat)) b true)) ∧
      (¬ masked → SetsReg (.msixSend f n) s { s with sys := { s.sys with hostOut := s.sys.hostOut ++ [.msix f.toNat b] } }
        (rPba f.toNat) (setBit (s.rd (rPba f.toNat)) b false))) ∧
    ((∀ i ∈ ([.schcmdPreempt v, .schcmdMove v, .schcmdRelease v, .schcmdSwitchCluster v, .schcmdSwitchPackage v, .schcmdEndLaunch v, .schcmdReserved v] : List Instr), exec i s = exec (.schcmdReserved v) s) ∧
      let t : Tid := BitVec.ofNat 13 (fld v 0 13)
      let x := s.strand t
      let op := fld v 58 3
      let c := fld v 51 7
      let tenant : TenantNo := BitVec.ofNat 5 (fld v 46 5)
      let keep := v &&& 0x1FFFC00000001FFF
      let old := s.rd rSchcmd
      let busy := setBit (setBit keep 62 true) 61 false
      let b : State := { s.wr rSchcmd busy with sys := { s.sys with schOp := some v } }
      (bitOf old 62 = true → exec (.schcmdReserved v) s = .next s) ∧
      (bitOf old 62 = false → bitOf v 63 = false → ∃ u, exec (.schcmdReserved v) s = .next u ∧
        RegBecomes s u rSchcmd (setBit keep 61 (bitOf old 61 && !bitOf v 61))) ∧
      (bitOf old 62 = false → bitOf v 63 = true →
        (op = 0 ∧ x.run = .unbound ∨ op = 1 ∧ (x.run = .unbound ∨ x.ctl.move = false ∨ s.hasMark t = true) ∨ op = 2 ∧ x.held = false ∨
          op = 3 ∧ s.tenantHere c tenant = false ∨ op = 5 ∧ s.launchOf t = none ∨ 6 ≤ op →
          ∃ u, exec (.schcmdReserved v) s = .next u ∧ RegBecomes { s with sys := { s.sys with
            events := s.sys.events ++ [(word (6 + op * 256), setBit keep 61 true)] } } u rSchcmd (setBit keep 61 true)) ∧
        (op = 0 → x.run = .running → exec (.schcmdPreempt v) s =
          .next (((b.onStrand t fun y => { y with held := true }).beginSave t .preempt).push .schcmdComplete)) ∧
        (op = 1 → x.run = .running → s.schRefused v = false → exec (.schcmdMove v) s =
          .next ((b.beginSave t .move).push .schcmdComplete)) ∧
        (op = 2 → x.held = true → (∃ w, x.run = .suspended w) → x.savedLg = 0 → exec (.schcmdRelease v) s =
          .next (((b.onStrand t fun y => { y with held := false }).push (.restoreComplete t)).push .schcmdComplete)) ∧
        (op = 3 → s.tenantHere c tenant = true → exec (.schcmdSwitchCluster v) s =
          .next ((State.switchOff { b with sys := { b.sys with closedAt := b.sys.closedAt ++ [(c, tenant.toNat)] } } c tenant).push
            .schcmdComplete)) ∧
        (op = 4 → exec (.schcmdSwitchPackage v) s = .next ((b.switchOffAll tenant none).push .schcmdComplete)) ∧
        (∀ n, op = 5 → s.launchOf t = some n → exec (.schcmdEndLaunch v) s = .next ((b.endLaunch n).push .schcmdComplete)))) ∧
    (s.sys.flr = [] → (s.sys.schOp = none → exec .schcmdComplete s = .next s) ∧
      (∀ op, s.sys.schOp = some op → schOpOf op ≠ 4 →
        (s.schDone op = false → exec .schcmdComplete s = .next s) ∧
        (s.schDone op = true → let w := setBit (s.rd rSchcmd) 62 false
          SetsReg .schcmdComplete s { s with sys := { s.sys with
            schOp := none, events := s.sys.events ++ [(word (6 + fld op 58 3 * 256), w)] } } rSchcmd w))) ∧
    (let w := s.rd (rFnten f.toNat);
      (f = 0 ∨ bitOf w 7 = false → exec (.vfFlr f) s = .next s) ∧
      (f = 0 ∨ bitOf w 7 = true → exec (.vfFlrIdle f) s = .next s) ∧
      (f ≠ 0 → bitOf w 7 = true → ∀ u, s.switchOffAll (BitVec.ofNat 5 (fld w 0 5)) (some f.toNat) = u →
        exec (.vfFlr f) s = .next { u with agenda := u.agenda ++ [.schcmdComplete], sys := { u.sys with
          flr := if f.toNat ∈ u.sys.flr then u.sys.flr else u.sys.flr ++ [f.toNat] } }) ∧
      (f ≠ 0 → bitOf w 7 = false → ∃ u es, exec (.vfFlrIdle f) s = .next u ∧ u = { s with fw := u.fw, agenda := s.agenda ++ es } ∧
        (∀ k, k < 17 → u.rd (rMsix f.toNat k 0) = 0 ∧ u.rd (rMsix f.toNat k 1) = 0x100000000) ∧ u.rd (rPba f.toNat) = 0 ∧ u.rd (rMsixCtl f.toNat) = 0 ∧
        bitOf (u.rd (rFnevt f.toNat)) 0 = true ∧ bitOf (u.rd (rFnevt f.toNat)) 1 = false)) ∧
    (∀ (c : ClusterNo) (ten : TenantNo), (s.cluster c.toNat).suspended = [] → (s.cluster c.toNat).waiting = [] →
      (∀ e ∈ s.sys.savedBarriers, ¬ (e.1 = c.toNat ∧ e.2.2.owner = ten)) →
      (∀ e ∈ s.sys.saved, ¬ (e.2.ctl.tenant = ten ∧ e.1.cluster = c.toNat)) →
      exec (.tenantSwitchIn c ten) s = .next { s with agenda := s.agenda ++ [.groupPlacement 0], sys := { s.sys with
        closed := s.sys.closed.filter fun k => !decide (k = ten.toNat)
        closedAt := s.sys.closedAt.filter fun k => !decide (k = (c.toNat, ten.toNat)) } }) ∧
    ((s.sys.fatal = true → exec .systemDieError s = .next s) ∧
      (s.sys.fatal = false → ∃ u es, exec .systemDieError s = .next u ∧ u.mem = s.mem ∧ u.agenda = s.agenda ++ es ∧
        u.sys = { s.sys with fatal := true, cp := u.sys.cp, far := u.sys.far, events := s.sys.events ++ [(word (9 + 0xFF * 256), 0)] } ∧
        (∀ k, k < 256 → NMap.get CpState.idle u.sys.cp k =
          if NMap.get CpState.idle s.sys.cp k = .clearing then .clearing else .idle) ∧
        (∀ w ∈ u.sys.far, w ∈ s.sys.far ∧ ∀ k, w.owner ≠ .step (.cpServePacket k)) ∧
        (∀ t ∈ s.boundTids, (u.strand t).held = true) ∧
        (∀ k, k < 256 → bitOf (u.rd (rQstat k)) 63 = true) ∧ (∀ k, k < 32 → bitOf (u.rd (rFnevt k)) 2 = true)))

/-- The lull sequencer, clock steps, BAR4, firmware loading, power and the management path act as stated (R420, R421, R424, R437, R438, R429, R430, R433, R435, R439, R440, R436). The model's own choices in it: logs 21, 24, 25, 35, 36, 38, 39, 59, 82, 89. -/
def Obligations.LullHostAndManagementEventsTakeEffect : Prop :=
  ∀ (s : State) (f : BitVec 5) (off v : Word) (n : Nat) (data : List Byte),
    s.canonical = true →
    (let l := s.sys.lull;
      let put := fun (m : Lull) => ({ s with sys := { s.sys with lull := m } } : State);
      let long := decide (l.start % 983040 = 0);
      let w := s.rd rClkstep;
      (s.time + 256 < l.start ∨ l.phase = .drain ∨ l.phase = .lull ∧ l.joined = true → exec .lullDrainStart s = .next s) ∧
      (l.start ≤ s.time + 256 → l.phase = .clear → exec .lullDrainStart s = .next (put { l with
        phase := .drain, spanLong := long, work := { Chores.none with relock := s.relockReq } })) ∧
      (l.start ≤ s.time + 256 → l.phase = .lull → l.joined = false → exec .lullDrainStart s = .next (put { l with
        joined := true, nextRelock := s.relockReq, stop := if long then l.start + 8640 else l.start + 960
        spanLong := l.spanLong || long })) ∧
      (l.work.relock = none → l.lateWork = [] → s.relockReq =
        if max (fld w 0 2) (fld w 6 2) = fld w 2 2 then none else some (BitVec.ofNat 2 (fld w 0 2))) ∧
      (l.phase = .lull → l.late = 0 → l.ends ≤ s.time → l.overrun = false → 0 < n →
        exec (.lullOverrun n) s = .next (put { l with late := l.ends + n, overrun := true })) ∧
      (l.phase ≠ .lull ∨ 0 < l.late ∨ s.time < l.ends ∨ l.overrun = true ∨ n = 0 → exec (.lullOverrun n) s = .next s)) ∧
    (∀ (hot : Bool), let l := s.sys.lull;
      l.phase = .drain → l.start ≤ s.time → l.hotFrom = none → l.late = 0 →
      (∀ c p, c < 128 → p < 8 → bitOf (s.rd (rLgstat c p)) 9 = false) →
      ∃ u, exec (.lullStart hot n) s = .next u ∧ u.sys.lull.phase = .lull ∧ u.sys.lull.overrun = false ∧ u.sys.rows = [] ∧
        u.sys.replays = [] ∧ u.sys.lull.work.relock = l.work.relock ∧
        u.sys.lull.work.hotSeen = ((hot || bitOf (s.rd rLullcfg) 0) && !l.hot) ∧
        (l.start % 983040 ≠ 0 → u.sys.lull.stop = l.start + 960 ∧ u.sys.lull.ends = l.start + 960 ∧
          u.sys.lull.start = l.start + (if l.hot then 3840 else 7680) ∧ u.sys.lull.work.sweep = none ∧ u.sys.lull.work.cool = false ∧
          AsksDram s u ∧ (∀ k l, Holds u.sys.l2 k l → (NMap.get 0 u.sys.l2Off (k / 65536)).getLsbD l.way = false) ∧
          u = { s with agenda := u.agenda, sys := { s.sys with
            lull := u.sys.lull, rows := [], replays := [], l2Reserved := u.sys.l2Reserved, l2Off := u.sys.l2Off
            l2 := u.sys.l2, msc := u.sys.msc } }) ∧
        (l.start % 983040 = 0 → s.synd = [] → s.boundTids = [] → (∀ e ∈ s.clusters, e.2.stray = []) →
          (∀ c, c < 128 → bitOf (s.rd (rDinj c)) 63 = false) →
          u.sys.lull.stop = l.start + 8640 ∧ u.sys.lull.ends = l.start + 7680 ∧ u.sys.lull.start = l.start + 7680 ∧
          u.sys.lull.work.sweep = some n ∧ u.sys.lull.work.cool = !(hot || bitOf (s.rd rLullcfg) 0) ∧ u.sys.retrain = [] ∧
          ∃ es, (∀ e ∈ es, ∃ p, e = .dramAccess p) ∧ u.agenda = s.agenda ++ es ++ if 115 ≤ n then [.thermtrip] else [])) ∧
    (∀ (hot : Bool), let l := s.sys.lull;
      l.phase = .lull → l.joined = true → s.time < l.late → l.start ≤ s.time →
      ∃ u, exec (.lullStart hot n) s = .next u ∧ u.sys.lull.phase = .lull ∧ u.sys.lull.late = l.late ∧
        u.sys.lull.lateWork = l.lateWork ++ [l.work] ∧ u.sys.lull.work.relock = l.nextRelock ∧ u.sys.lull.joined = false ∧
        u.sys.lull.ends = l.start + if l.start % 983040 = 0 then 7680 else 960) ∧
    (let l := s.sys.lull;
      (∀ a b, l.phase ≠ .lull ∨ l.ended s.time = [] ∨ l.relocks s.time = true ∨ l.late = 0 ∧ l.start ≤ s.time →
        exec (.lullEnd a b) s = .next s) ∧
      (l.phase = .lull → l.relocks s.time = false → l.ends ≤ s.time → s.time + 256 < l.start → (l.late = 0 ∨ l.late ≤ s.time) →
      (∀ c ∈ l.ended s.time, c.cool = false) →
      (∀ c p, c < 128 → p < 8 → bitOf (s.rd (rLgstat c p)) 9 = false ∧ bitOf (s.rd (rLgstat c p)) 10 = false ∧ (s.cluster c).fenceNext = 0) →
      s.sys.linksDown = [] →
      ∃ u, exec (.lullEnd [] []) s = .next u ∧ u.sys.lull.phase = .clear ∧ u.sys.lull.lastEnd = s.time ∧
        u.sys.lull.spans = l.spans + 1 ∧ u.sys.lull.overruns = l.overruns + (if l.late = 0 then 0 else 1) ∧
        u.sys.dramHeld = [] ∧ (∀ p ∈ s.sys.dramHeld, .dramAccess (word p) ∈ u.agenda) ∧
        (∀ k, s.eager = false ∨ s.me.queue = [] → s.me.run = .parked (.lullw k) →
          u.me.run = .running ∧ u.me.pc = s.me.pc + 4 ∧ u.me.regs = s.me.regs))) ∧
    (let l := s.sys.lull;
      let w := s.rd rClkstep;
      (∀ r, l.relocks s.time = true → (l.ended s.time).reverse.findSome? Chores.relock = some r →
        SetsReg .relockDone s { s with sys := { s.sys with lull := { l with
            work := if l.ends ≤ s.time then { l.work with relock := none } else l.work
            lateWork := l.lateWork.map fun c => { c with relock := none } } } } rClkstep
          (setFld w 2 2 (max r.toNat (fld w 6 2)))) ∧
      (l.relocks s.time = false → exec .relockDone s = .next s)) ∧
    (let kept : State := { State.reset with eager := s.eager, fresh := s.fresh, sys := { Sys.reset with raised := s.sys.raised } };
      let img := s.sys.staged;
      exec .thermtrip s = .next { s with agenda := s.agenda ++ [.powerLoss], sys := { s.sys with hostOut := s.sys.hostOut ++ [.thermtrip] } } ∧
      (∀ e, s.imageFault img = some e → exec .packageReset s = .next kept) ∧
      (s.imageFault img = none → SetsReg .packageReset s { kept with sys := { kept.sys with
        firmware := (img.drop 4096, leNat ((img.drop 0x18).take 8)) } } rFwcmd 2) ∧
      exec .powerLoss s = .next { kept with sys := { kept.sys with power := false } }) ∧
    (let w := s.rd (rFnten f.toNat);
      let ans := fun (u : State) (bs : List Byte) (e : Nat) => ({ u with sys := { u.sys with reply := bs, replyError := e } } : State);
      let a := cpAgent (fld w 0 5) 0;
      let e : Event := .hostBar4Read f off n;
      let asked := s.sys.far.filter fun (x : FarWord) => decide (x.owner = .step e);
      let rd := s.hostPlaces a (hostChunks (off.toNat % 2 ^ 48) (min n 4096) 4096) none;
      let wr := s.hostPlaces a (hostChunks (off.toNat % 2 ^ 48) data.length data.length) (some data);
      let waits := asked = [] ∧ s.hostBehind f.toNat = true ∨ ∃ x ∈ asked, x.answer = none;
      exec (.hostAtomicopRequest f off) s = .next (ans s [] 2) ∧
      (bitOf w 7 = false ∨ s.sys.fatal = true → exec (.hostBar4Read f off n) s = .next (ans (s.clearFar (.step e)) [] 2) ∧
        exec (.hostBar4Write f off data) s = .next (ans s [] 2)) ∧
      (bitOf w 7 = true → s.sys.fatal = false →
        (waits → exec (.hostBar4Read f off n) s = .next (s.keep e)) ∧
        (¬ waits → (rd = .error none → exec (.hostBar4Read f off n) s = .next (s.keep e)) ∧
          (∀ u, rd = .error (some u) → exec (.hostBar4Read f off n) s = .next (ans (u.clearFar (.step e)) [] 1)) ∧
          (∀ ps, rd = .ok ps → let held := s.partsHeld a ((ps.filter fun p => !p.2.1.far).map Prod.snd)
            let far := ps.filter fun p => p.2.1.far
            (held = true → exec (.hostBar4Read f off n) s = .next (s.keep e)) ∧
            (held = false → asked = [] → far ≠ [] → exec (.hostBar4Read f off n) s =
              .next (far.foldl (fun u p => u.askWord a (.step e) p.2.1 (word p.1) p.2.2 none) s)) ∧
            (held = false → asked ≠ [] ∨ far = [] → ∀ u r, s.hostReads a e ps = (u, r) → exec (.hostBar4Read f off n) s =
              .next (match r with
                | some bs => (ans (u.clearFar (.step e)) bs 0).unkeep
                | none => (ans (u.clearFar (.step e)) [] 1).unkeep)))) ∧
        (s.hostBehind f.toNat = true → exec (.hostBar4Write f off data) s = .next (s.keep (.hostBar4Write f off data))) ∧
        (s.hostBehind f.toNat = false → (∀ u, wr = .error (some u) → exec (.hostBar4Write f off data) s = .next u) ∧
          (wr = .error none → exec (.hostBar4Write f off data) s = .next (s.keep (.hostBar4Write f off data))) ∧
          (∀ ps, wr = .ok ps → exec (.hostBar4Write f off data) s = .next (if ps.any fun p => s.linkHeld a p.2.1 then
            s.keep (.hostBar4Write f off data) else s.hostWrites f.toNat a ps data))))) ∧
    (let st := fld (s.rd rFwcmd) 0 3;
      let len := (s.rd rFwlen).toNat;
      (bitOf v 63 = false ∨ st = 1 ∨ st = 2 ∨ s.sys.fatal = true → exec (.fwcmdGo v) s = .next s) ∧
      (bitOf v 63 = true → st ≠ 1 → st ≠ 2 → s.sys.fatal = false →
        (fwLenOk len = true → SetsReg (.fwcmdGo v) s { s with fresh := s.fresh + len / 4096, sys := { s.sys with
          hostOut := s.sys.hostOut ++ (List.range (len / 4096)).map fun i =>
            .read 0 (s.fresh + i) ((s.rd rFwaddr).toNat + 4096 * i) 4096 } } rFwcmd 1) ∧
        (fwLenOk len = false → SetsReg (.fwcmdGo v) s s rFwcmd 1))) ∧
    (let len := (s.rd rFwlen).toNat;
      let sets := fun (img : Option (List Byte)) (k : Nat) => SetsReg (.fwImageCheck img) s s rFwcmd (word k);
      (fld (s.rd rFwcmd) 0 3 ≠ 1 → exec (.fwImageCheck (some data)) s = .next s ∧ exec (.fwImageCheck none) s = .next s) ∧
      (fld (s.rd rFwcmd) 0 3 = 1 →
        (fwLenOk len = false → sets (some data) 5 ∧ sets none 5) ∧
        (fwLenOk len = true → sets none 6 ∧ (data.length < len → sets (some data) 6) ∧
          (len ≤ data.length →
            (∀ e, s.imageFault (data.take len) = some e → sets (some data) e) ∧
            (s.imageFault (data.take len) = none → SetsReg (.fwImageCheck (some data)) s { s with sys := { s.sys with
              firmware := ((data.take len).drop 4096, leNat (((data.take len).drop 0x18).take 8)) } } rFwcmd 2))))) ∧
    (∀ (eid : BitVec 8), let up := decide (fld (s.rd rFwcmd) 0 3 = 2) && !s.sys.fatal;
      let tell := fun (y : Sys) => ({ s with fresh := s.fresh + 1, sys := { y with
        hostOut := s.sys.hostOut ++ [.pldm (Config.pldmAnswer s.fresh)] } } : State);
      (s.sys.fatal = true → exec (.pldmBase n) s = .next s ∧ exec (.mctpEndpointIdAssignment eid) s = .next s) ∧
      (s.sys.fatal = false → exec (.pldmBase n) s = .next (tell s.sys) ∧
        exec (.mctpEndpointIdAssignment eid) s = .next { s with sys := { s.sys with eid := eid } }) ∧
      (up = false → exec (.pldmFirmwareUpdate data) s = .next s ∧ ∀ cap, exec (.pldmPlatform n cap) s = .next s) ∧
      (up = true → (s.pldmReading n = none → exec (.pldmPlatform n none) s = .next (tell s.sys)) ∧
        (∀ v, s.pldmReading n = some v →
          exec (.pldmPlatform n none) s = .next { s with sys := { s.sys with hostOut := s.sys.hostOut ++ [.pldm v] } } ∧
          (v = s.rd rClkstep ∨ (∃ c, c < 128 ∧ v = s.rd (rEloghead c)) ∨ (∃ d, d < 4 ∧ v = s.rd (rDloghead d)) ∨ v = word s.sys.cap)) ∧
        (∀ w, exec (.pldmPlatform n (some w)) s =
          .next (tell (if 600 ≤ w ∧ w ≤ 1800 then { s.sys with cap := w } else s.sys))) ∧
        (s.imageFault data ≠ none → exec (.pldmFirmwareUpdate data) s = .next (tell s.sys)) ∧
        (s.imageFault data = none → exec (.pldmFirmwareUpdate data) s = .next (tell { s.sys with
          staged := data
          raised := if Config.raiseAsked data then max s.sys.raised (leNat ((data.drop 0x0C).take 4)) else s.sys.raised }))))

/-- Brulos flits, NAKs, timeouts, links and requests from other nodes, and completions from the host, act as stated (R443, R444, R445, R446, R448, R433, R399). The model's own choices in it: logs 8, 22, 36, 56. -/
def Obligations.FabricAndCompletionEventsTakeEffect : Prop :=
  ∀ (s : State) (p : BitVec 3) (x : Flit) (a : BitVec 12) (t : Tid) (n : Nat) (P : Port),
    P = s.port p.toNat →
    (let put := fun (q : Port) => ({ s with sys := { s.sys with ports := NMap.set Port.reset s.sys.ports p.toNat q } } : State);
      let src := BitVec.ofNat 8 (fld (s.rd rFnode) 0 8);
      let no : Flit := { dst := 0, src := src, tenant := 0, mark := false, tag := 0, seq := 0, ack := P.expect - 1, body := .nak };
      let nak : Result := .next (put { P with control := P.control ++ [no] });
      let left := P.unacked.filter fun y => !decide ((x.ack - y.seq).toNat < 2048);
      let u := put { P with expect := P.expect + 1, unacked := left };
      (s.linksHeld (FlitBody.isRequest x.body) = true → ∀ good, exec (.brulosFlitReceive p good x) s = .next s) ∧
      (s.linksHeld (FlitBody.isRequest x.body) = false →
        exec (.brulosFlitReceive p false x) s = nak ∧
        (x.body ≠ .nak → x.body ≠ .idle → x.seq ≠ P.expect → exec (.brulosFlitReceive p true x) s = nak) ∧
        (P.waiting = [] → NMap.wf Port.reset s.sys.ports = true →
          (x.body = .idle → exec (.brulosFlitReceive p true x) s = .next (put { P with unacked := left })) ∧
          (x.body ≠ .nak → x.body ≠ .idle → x.seq = P.expect →
            (x.dst.toNat ≠ fld (s.rd rFnode) 0 8 → exec (.brulosFlitReceive p true x) s = .next (u.sendFlit x)) ∧
            (x.dst.toNat = fld (s.rd rFnode) 0 8 →
              (FlitBody.isRequest x.body = true → exec (.brulosFlitReceive p true x) s = .next { u with
                agenda := s.agenda ++ [.remoteRequest 0], sys := { u.sys with inbound := s.sys.inbound ++ [x] } }) ∧
              (∀ bs, x.body = .collective bs → exec (.brulosFlitReceive p true x) s = .next u) ∧
              (∀ bs c, x.body = .reply bs ∨ x.body = .replyFault c → exec (.brulosFlitReceive p true x) s = .next (u.remoteReply x))))))) ∧
    (∀ i (d : Pend) pl k, s.boundTids.findSome? (fun c => ((s.strand c).awaits x.tag.toNat).map fun j => (c, j)) = some (t, i) →
      (s.strand t).pend[i]? = some d → d.parts = [(pl, k)] → k ≤ 52 →
      let v := s.replyBack t.cluster (.flit x.mark)
      let put := fun (e : Pend) => { v.onStrand t fun y => { y with pend := y.pend.set i e } with agenda := v.agenda ++ [.memoryReply t 0] }
      (∀ bs, x.body = .reply bs → s.remoteReply x = put { d with got := d.got ++ bs, parts := [], tag := none }) ∧
      (∀ c, x.body = .replyFault c → s.remoteReply x = put { d with fail := some c, addr := d.addr + word d.got.length, tag := none })) ∧
    (let put := fun (q : Port) => ({ s with sys := { s.sys with ports := NMap.set Port.reset s.sys.ports p.toNat q } } : State);
      let left := P.unacked.filter fun y => !decide ((a - y.seq).toNat < 2048);
      P.waiting = [] → NMap.wf Port.reset s.sys.ports = true →
      (left = [] → exec (.linkNak p a) s = .next (put { P with unacked := [] })) ∧
      (left ≠ [] → exec (.linkNak p a) s =
        .next ((put { P with unacked := left }).replay (16 + p.toNat) (p.toNat / 2) (word (2 ^ 63 + p.toNat))))) ∧
    ((P.down = true ∨ P.unacked = [] → exec (.retransmitTimeout p) s = .next s) ∧
      (P.down = false → P.unacked ≠ [] → NMap.get 0 s.sys.replays (16 + p.toNat) ≠ 7 →
        exec (.retransmitTimeout p) s = .next { s with sys := { s.sys with
          replays := NMap.set 0 s.sys.replays (16 + p.toNat) (NMap.get 0 s.sys.replays (16 + p.toNat) + 1) } })) ∧
    (let put := fun (q : Port) => ({ s with sys := { s.sys with ports := NMap.set Port.reset s.sys.ports p.toNat q } } : State);
      let w := s.rd (rFpstat p.toNat);
      exec (.brulosLinkDown p) s = .next (put { P with down := true }) ∧
      (bitOf w 1 = true → exec (.brulosLinkUp p) s = .next s) ∧
      (bitOf w 1 = false → P.waiting = [] → NMap.wf Port.reset s.sys.ports = true → exec (.brulosLinkUp p) s = .next (put { P with down := false })) ∧
      s.portUp p.toNat = (!P.down && !bitOf w 1 && !s.linksHeld false)) ∧
    ((s.sys.inbound[n]? = none → exec (.remoteRequest n) s = .next s) ∧
      (s.sys.inbound[n]? = some x →
        ((∃ y ∈ s.sys.inbound.take n, s.sameLine y x = true) → exec (.remoteRequest n) s = .next s) ∧
        ((∀ y ∈ s.sys.inbound.take n, s.sameLine y x = false) →
          let rest := fun (u : State) => ({ u with sys := { u.sys with inbound := u.sys.inbound.eraseIdx n } } : State)
          let reply := fun (u : State) (b : FlitBody) => (FlitBody.flits b (FlitBody.size b)).foldl (fun (u : State) c => u.sendFlit
            { dst := x.src, src := x.dst, tenant := x.tenant, mark := x.mark, tag := x.tag, seq := 0, ack := 0, body := c }) (rest u)
          (bitOf (s.rd (rFrt x.src.toNat)) 35 = false ∨ bitOf (s.rd (rFrt x.src.toNat)) x.tenant.toNat = false →
            exec (.remoteRequest n) s = .next (reply s (.replyFault 0x0C))) ∧
          (∀ u b, s.serveRemote x = some (u, b) → exec (.remoteRequest n) s = .next (reply u b)) ∧
          (s.serveRemote x = none → exec (.remoteRequest n) s =
            .next { s with sys := { s.sys with kept := s.sys.kept ++ [(s.fresh, .remoteRequest n)] } })))) ∧
    (let b := cpAgent x.tenant.toNat 0;
      bitOf (s.rd (rFrt x.src.toNat)) 35 = true → bitOf (s.rd (rFrt x.src.toNat)) x.tenant.toNat = true →
      (∀ va k ps u r, x.body = .load va k → s.resolve b .load va k = .ok ps → (∀ q ∈ ps, q.1.far = false) → s.partsHeld b ps = false →
        (s.noteAccess b va (ps.map Prod.snd)).readParts b false va ps = (u, r) →
        s.serveRemote x = some (u, match r with | .ok bs => .reply bs | .error _ => .replyFault 0x0D)) ∧
      (∀ va bs ps, x.body = .store va bs → s.resolve b (.store (word (leNat bs))) va bs.length = .ok ps → (∀ q ∈ ps, q.1.far = false) →
        (∀ q ∈ ps, s.linkHeld b q.1 = false) →
        s.serveRemote x = some ((s.noteAccess b va (ps.map Prod.snd)).writeParts b false ps bs, .reply [])) ∧
      (∀ va k op y cmp pl m u r, x.body = .atomic va k (some op) y cmp → s.resolve b (.amo op y) va k = .ok [(pl, m)] → pl.far = false →
        s.atomicHeld b pl = false → (s.noteAccess b va [k]).atomicAt b pl (.amo k op y) = (u, r) →
        s.serveRemote x = some (u, match r with | .ok old => .reply old | .error c => .replyFault c))) ∧
    (∀ i (d : Pend) pl k v, s.answered t n = .pend i d → d.parts = [(pl, k)] →
      let u := s.noteReply t.cluster;
      let put := fun (e : Pend) => (Host.Outcome.next { u.onStrand t fun y => { y with pend := y.pend.set i e } with
          agenda := u.agenda ++ [.memoryReply t 0] } : Result);
      let fails := fun (c : Nat) => put { d with fail := some c, addr := d.addr + word d.got.length, tag := none };
      exec (.hostCompletion t n .success v) s = put { d with got := d.got ++ natLe v.toNat k, parts := [], tag := none } ∧
      exec (.hostCompletion t n .poisoned v) s = fails 0x0D ∧ exec (.hostCompletion t n .unsupported v) s = fails 0x0C ∧
      exec (.hostCompletion t n .aborted v) s = fails 0x0C ∧ exec (.hostCompletionTimeout t n) s = fails 0x0C) ∧
    (∀ v, (s.answered t n = .nothing → exec (.hostCompletion t n .success v) s = .next s ∧ exec (.hostCompletion t n .poisoned v) s = .next s ∧
        exec (.hostCompletion t n .aborted v) s = .next s ∧ exec (.hostCompletionTimeout t n) s = .next s) ∧
      (∀ who h tenant raw, s.answered t n = .posted who h tenant raw →
        let err := accessFailure tenant true (0x8000000000000 + h)
        let r : Result := .next (match who with
          | some c => s.logDie c.die { err with strand := some c, w3 := word (tenant * 2 ^ 32 + raw % 2 ^ 32) }
          | none => s.logDie 0 err)
        exec (.hostCompletion t n .success v) s = .next s ∧ exec (.hostCompletion t n .poisoned v) s = .next s ∧
        exec (.hostCompletion t n .unsupported v) s = r ∧ exec (.hostCompletion t n .aborted v) s = r ∧
        exec (.hostCompletionTimeout t n) s = r) ∧
      (∀ tag, s.answered t n = .system tag →
        exec (.hostCompletion t n .success v) s = .next (s.systemReply tag (some (natLe v.toNat 8))) ∧
        exec (.hostCompletion t n .poisoned v) s = .next (s.systemReply tag none) ∧
        exec (.hostCompletion t n .aborted v) s = .next (s.systemReply tag none) ∧
        exec (.hostCompletionTimeout t n) s = .next (s.systemReply tag none))) ∧
    (∀ tag (l : Launch) bs, (∀ w ∈ s.sys.far, w.tag ≠ tag) → s.sys.signals.find? (fun e => decide (e.1 = tag)) = some (tag, l.id) →
      s.sys.launches.find? (fun (m : Launch) => decide (m.id = l.id)) = some l →
      let u : State := { s with sys := { s.sys with signals := s.sys.signals.filter fun e => !decide (e = (tag, l.id)) } }
      s.systemReply tag (some bs) = u.reported l ∧ s.systemReply tag none = u.unreported l)

/-- Vector arithmetic, compares, moves, special functions and carry-less products write every active element and nothing but its masked-off and tail elements (R250, R241, R242, R251, R252, R253, R257, R259, R278, R279, R280, R281). The model's own choices in it: logs 10, 72. -/
def Obligations.VectorArithmeticWritesItsElements : Prop :=
  ∀ (s : State) (d a b : Reg) (h m : MReg), s.VecReady →
    let sew := vtSew s.me.ctl.vt
    let kind := vtKind s.me.ctl.vt
    let el := fun (r : Reg) (j k : Nat) => s.me.vec.elem sew (r.toNat + j) k
    let on := fun (c : Nat) => s.me.ctl.rnscfg.toNat.testBit c
    let byte := fun (x c : Nat) => x / 256 ^ c % 256
    let kept := fun (x : Nat) => if kind = 8 then ((List.range 8).map fun c => if on c then byte x c * 256 ^ c else 0).sum else x
    (kind ≤ 1 →
    let I := fun (x : Nat) => if kind = 0 then sintOf sew x else (x : Int)
    (s.MayEnter (.arith .add .vv d a b m) 0 → WritesElems (.vaddVv d a b m) s d m fun j k => plain (let x := el a j k; let y := (fun j k => el b j k) j k; (x + y) % 2 ^ sew)) ∧
    (s.MayEnter (.arith .add .vx d a b m) (s.reg b) → WritesElems (.vaddVx d a b m) s d m fun j k => plain (let x := el a j k; let y := (fun _ _ => (s.reg b).toNat % 2 ^ sew) j k; (x + y) % 2 ^ sew)) ∧
    (s.MayEnter (.arith .add .vi d a b m) 0 → WritesElems (.vaddVi d a b m) s d m fun j k => plain (let x := el a j k; let y := (fun _ _ => (b.signExtend 64).toNat % 2 ^ sew) j k; (x + y) % 2 ^ sew)) ∧
    (s.MayEnter (.arith .sub .vv d a b m) 0 → WritesElems (.vsubVv d a b m) s d m fun j k => plain (let x := el a j k; let y := (fun j k => el b j k) j k; (x + 2 ^ sew - y) % 2 ^ sew)) ∧
    (s.MayEnter (.arith .sub .vx d a b m) (s.reg b) → WritesElems (.vsubVx d a b m) s d m fun j k => plain (let x := el a j k; let y := (fun _ _ => (s.reg b).toNat % 2 ^ sew) j k; (x + 2 ^ sew - y) % 2 ^ sew)) ∧
    (s.MayEnter (.arith .sub .vi d a b m) 0 → WritesElems (.vsubVi d a b m) s d m fun j k => plain (let x := el a j k; let y := (fun _ _ => (b.signExtend 64).toNat % 2 ^ sew) j k; (x + 2 ^ sew - y) % 2 ^ sew)) ∧
    (s.MayEnter (.arith .mul .vv d a b m) 0 → WritesElems (.vmulVv d a b m) s d m fun j k => plain (let x := el a j k; let y := (fun j k => el b j k) j k; x * y % 2 ^ sew)) ∧
    (s.MayEnter (.arith .mul .vx d a b m) (s.reg b) → WritesElems (.vmulVx d a b m) s d m fun j k => plain (let x := el a j k; let y := (fun _ _ => (s.reg b).toNat % 2 ^ sew) j k; x * y % 2 ^ sew)) ∧
    (s.MayEnter (.arith .mulh .vv d a b m) 0 → WritesElems (.vmulhVv d a b m) s d m fun j k => plain (let x := el a j k; let y := (fun j k => el b j k) j k; (I x * I y / 2 ^ sew % 2 ^ sew).toNat)) ∧
    (s.MayEnter (.arith .mulh .vx d a b m) (s.reg b) → WritesElems (.vmulhVx d a b m) s d m fun j k => plain (let x := el a j k; let y := (fun _ _ => (s.reg b).toNat % 2 ^ sew) j k; (I x * I y / 2 ^ sew % 2 ^ sew).toNat)) ∧
    (s.MayEnter (.arith .min .vv d a b m) 0 → WritesElems (.vminVv d a b m) s d m fun j k => plain (let x := el a j k; let y := (fun j k => el b j k) j k; if I x ≤ I y then x else y)) ∧
    (s.MayEnter (.arith .min .vx d a b m) (s.reg b) → WritesElems (.vminVx d a b m) s d m fun j k => plain (let x := el a j k; let y := (fun _ _ => (s.reg b).toNat % 2 ^ sew) j k; if I x ≤ I y then x else y)) ∧
    (s.MayEnter (.arith .min .vi d a b m) 0 → WritesElems (.vminVi d a b m) s d m fun j k => plain (let x := el a j k; let y := (fun _ _ => (b.signExtend 64).toNat % 2 ^ sew) j k; if I x ≤ I y then x else y)) ∧
    (s.MayEnter (.arith .max .vv d a b m) 0 → WritesElems (.vmaxVv d a b m) s d m fun j k => plain (let x := el a j k; let y := (fun j k => el b j k) j k; if I x ≤ I y then y else x)) ∧
    (s.MayEnter (.arith .max .vx d a b m) (s.reg b) → WritesElems (.vmaxVx d a b m) s d m fun j k => plain (let x := el a j k; let y := (fun _ _ => (s.reg b).toNat % 2 ^ sew) j k; if I x ≤ I y then y else x)) ∧
    (s.MayEnter (.arith .max .vi d a b m) 0 → WritesElems (.vmaxVi d a b m) s d m fun j k => plain (let x := el a j k; let y := (fun _ _ => (b.signExtend 64).toNat % 2 ^ sew) j k; if I x ≤ I y then y else x)) ∧
    (s.MayEnter (.arith .and .vv d a b m) 0 → WritesElems (.vandVv d a b m) s d m fun j k => plain (let x := el a j k; let y := (fun j k => el b j k) j k; x &&& y)) ∧
    (s.MayEnter (.arith .and .vx d a b m) (s.reg b) → WritesElems (.vandVx d a b m) s d m fun j k => plain (let x := el a j k; let y := (fun _ _ => (s.reg b).toNat % 2 ^ sew) j k; x &&& y)) ∧
    (s.MayEnter (.arith .and .vi d a b m) 0 → WritesElems (.vandVi d a b m) s d m fun j k => plain (let x := el a j k; let y := (fun _ _ => (b.signExtend 64).toNat % 2 ^ sew) j k; x &&& y)) ∧
    (s.MayEnter (.arith .or .vv d a b m) 0 → WritesElems (.vorVv d a b m) s d m fun j k => plain (let x := el a j k; let y := (fun j k => el b j k) j k; x ||| y)) ∧
    (s.MayEnter (.arith .or .vx d a b m) (s.reg b) → WritesElems (.vorVx d a b m) s d m fun j k => plain (let x := el a j k; let y := (fun _ _ => (s.reg b).toNat % 2 ^ sew) j k; x ||| y)) ∧
    (s.MayEnter (.arith .or .vi d a b m) 0 → WritesElems (.vorVi d a b m) s d m fun j k => plain (let x := el a j k; let y := (fun _ _ => (b.signExtend 64).toNat % 2 ^ sew) j k; x ||| y)) ∧
    (s.MayEnter (.arith .xor .vv d a b m) 0 → WritesElems (.vxorVv d a b m) s d m fun j k => plain (let x := el a j k; let y := (fun j k => el b j k) j k; x ^^^ y)) ∧
    (s.MayEnter (.arith .xor .vx d a b m) (s.reg b) → WritesElems (.vxorVx d a b m) s d m fun j k => plain (let x := el a j k; let y := (fun _ _ => (s.reg b).toNat % 2 ^ sew) j k; x ^^^ y)) ∧
    (s.MayEnter (.arith .xor .vi d a b m) 0 → WritesElems (.vxorVi d a b m) s d m fun j k => plain (let x := el a j k; let y := (fun _ _ => (b.signExtend 64).toNat % 2 ^ sew) j k; x ^^^ y)) ∧
    (s.MayEnter (.arith .shl .vv d a b m) 0 → WritesElems (.vshlVv d a b m) s d m fun j k => plain (let x := el a j k; let y := (fun j k => el b j k) j k; x * 2 ^ (y % sew) % 2 ^ sew)) ∧
    (s.MayEnter (.arith .shl .vx d a b m) (s.reg b) → WritesElems (.vshlVx d a b m) s d m fun j k => plain (let x := el a j k; let y := (fun _ _ => (s.reg b).toNat % 2 ^ sew) j k; x * 2 ^ (y % sew) % 2 ^ sew)) ∧
    (s.MayEnter (.arith .shl .vi d a b m) 0 → WritesElems (.vshlVi d a b m) s d m fun j k => plain (let x := el a j k; let y := (fun _ _ => b.toNat) j k; x * 2 ^ (y % sew) % 2 ^ sew)) ∧
    (s.MayEnter (.arith .shr .vv d a b m) 0 → WritesElems (.vshrVv d a b m) s d m fun j k => plain (let x := el a j k; let y := (fun j k => el b j k) j k; x / 2 ^ (y % sew))) ∧
    (s.MayEnter (.arith .shr .vx d a b m) (s.reg b) → WritesElems (.vshrVx d a b m) s d m fun j k => plain (let x := el a j k; let y := (fun _ _ => (s.reg b).toNat % 2 ^ sew) j k; x / 2 ^ (y % sew))) ∧
    (s.MayEnter (.arith .shr .vi d a b m) 0 → WritesElems (.vshrVi d a b m) s d m fun j k => plain (let x := el a j k; let y := (fun _ _ => b.toNat) j k; x / 2 ^ (y % sew))) ∧
    (s.MayEnter (.arith .sra .vv d a b m) 0 → WritesElems (.vsraVv d a b m) s d m fun j k => plain (let x := el a j k; let y := (fun j k => el b j k) j k; (sintOf sew x / 2 ^ (y % sew) % 2 ^ sew).toNat)) ∧
    (s.MayEnter (.arith .sra .vx d a b m) (s.reg b) → WritesElems (.vsraVx d a b m) s d m fun j k => plain (let x := el a j k; let y := (fun _ _ => (s.reg b).toNat % 2 ^ sew) j k; (sintOf sew x / 2 ^ (y % sew) % 2 ^ sew).toNat)) ∧
    (s.MayEnter (.arith .sra .vi d a b m) 0 → WritesElems (.vsraVi d a b m) s d m fun j k => plain (let x := el a j k; let y := (fun _ _ => b.toNat) j k; (sintOf sew x / 2 ^ (y % sew) % 2 ^ sew).toNat)) ∧
    (s.MayEnter (.arith .fma .vv d a b m) 0 → WritesElems (.vfmaVv d a b m) s d m fun j k => plain (let x := el a j k; let y := (fun j k => el b j k) j k; let z := el d j k; ((I x * I y + I z) % 2 ^ sew).toNat)) ∧
    (s.MayEnter (.arith .fma .vx d a b m) (s.reg b) → WritesElems (.vfmaVx d a b m) s d m fun j k => plain (let x := el a j k; let y := (fun _ _ => (s.reg b).toNat % 2 ^ sew) j k; let z := el d j k; ((I x * I y + I z) % 2 ^ sew).toNat)) ∧
    (s.MayEnter (.arith .fms .vv d a b m) 0 → WritesElems (.vfmsVv d a b m) s d m fun j k => plain (let x := el a j k; let y := (fun j k => el b j k) j k; let z := el d j k; ((I x * I y - I z) % 2 ^ sew).toNat)) ∧
    (s.MayEnter (.arith .fms .vx d a b m) (s.reg b) → WritesElems (.vfmsVx d a b m) s d m fun j k => plain (let x := el a j k; let y := (fun _ _ => (s.reg b).toNat % 2 ^ sew) j k; let z := el d j k; ((I x * I y - I z) % 2 ^ sew).toNat)) ∧
    (s.MayEnter (.arith .fnma .vv d a b m) 0 → WritesElems (.vfnmaVv d a b m) s d m fun j k => plain (let x := el a j k; let y := (fun j k => el b j k) j k; let z := el d j k; ((I z - I x * I y) % 2 ^ sew).toNat)) ∧
    (s.MayEnter (.arith .fnma .vx d a b m) (s.reg b) → WritesElems (.vfnmaVx d a b m) s d m fun j k => plain (let x := el a j k; let y := (fun _ _ => (s.reg b).toNat % 2 ^ sew) j k; let z := el d j k; ((I z - I x * I y) % 2 ^ sew).toNat)) ∧
    (s.MayEnter (.arith .div .vv d a b m) 0 → WritesElems (.vdivVv d a b m) s d m fun j k => (let x := el a j k; let y := (fun j k => el b j k) j k; if y = 0 then ⟨2 ^ sew - 1, 0, iflagDZ⟩ else plain ((I x).tdiv (I y) % 2 ^ sew).toNat)) ∧
    (s.MayEnter (.arith .div .vx d a b m) (s.reg b) → WritesElems (.vdivVx d a b m) s d m fun j k => (let x := el a j k; let y := (fun _ _ => (s.reg b).toNat % 2 ^ sew) j k; if y = 0 then ⟨2 ^ sew - 1, 0, iflagDZ⟩ else plain ((I x).tdiv (I y) % 2 ^ sew).toNat)) ∧
    (s.MayEnter (.arith .rem .vv d a b m) 0 → WritesElems (.vremVv d a b m) s d m fun j k => (let x := el a j k; let y := (fun j k => el b j k) j k; if y = 0 then ⟨x, 0, iflagDZ⟩ else plain ((I x).tmod (I y) % 2 ^ sew).toNat)) ∧
    (s.MayEnter (.arith .rem .vx d a b m) (s.reg b) → WritesElems (.vremVx d a b m) s d m fun j k => (let x := el a j k; let y := (fun _ _ => (s.reg b).toNat % 2 ^ sew) j k; if y = 0 then ⟨x, 0, iflagDZ⟩ else plain ((I x).tmod (I y) % 2 ^ sew).toNat)) ∧
    (s.MayEnter (.arith .abs .vv d a 0 m) 0 → WritesElems (.vabs d a m) s d m fun j k => plain (let x := el a j k; (((I x).natAbs : Int) % 2 ^ sew).toNat)) ∧
    (s.MayEnter (.arith .neg .vv d a 0 m) 0 → WritesElems (.vneg d a m) s d m fun j k => plain (let x := el a j k; ((-I x) % 2 ^ sew).toNat)) ∧
    (s.MayEnter (.cmp .eq .vv h a b m) 0 → WritesBits (.vcmpEqVv h a b m) s h m fun k => (let x := el a 0 k; let y := (fun j k => el b j k) 0 k; (decide (I x = I y), 0))) ∧
    (s.MayEnter (.cmp .eq .vx h a b m) (s.reg b) → WritesBits (.vcmpEqVx h a b m) s h m fun k => (let x := el a 0 k; let y := (fun _ _ => (s.reg b).toNat % 2 ^ sew) 0 k; (decide (I x = I y), 0))) ∧
    (s.MayEnter (.cmp .eq .vi h a b m) 0 → WritesBits (.vcmpEqVi h a b m) s h m fun k => (let x := el a 0 k; let y := (fun _ _ => (b.signExtend 64).toNat % 2 ^ sew) 0 k; (decide (I x = I y), 0))) ∧
    (s.MayEnter (.cmp .ne .vv h a b m) 0 → WritesBits (.vcmpNeVv h a b m) s h m fun k => (let x := el a 0 k; let y := (fun j k => el b j k) 0 k; (decide (I x ≠ I y), 0))) ∧
    (s.MayEnter (.cmp .ne .vx h a b m) (s.reg b) → WritesBits (.vcmpNeVx h a b m) s h m fun k => (let x := el a 0 k; let y := (fun _ _ => (s.reg b).toNat % 2 ^ sew) 0 k; (decide (I x ≠ I y), 0))) ∧
    (s.MayEnter (.cmp .ne .vi h a b m) 0 → WritesBits (.vcmpNeVi h a b m) s h m fun k => (let x := el a 0 k; let y := (fun _ _ => (b.signExtend 64).toNat % 2 ^ sew) 0 k; (decide (I x ≠ I y), 0))) ∧
    (s.MayEnter (.cmp .lt .vv h a b m) 0 → WritesBits (.vcmpLtVv h a b m) s h m fun k => (let x := el a 0 k; let y := (fun j k => el b j k) 0 k; (decide (I x < I y), 0))) ∧
    (s.MayEnter (.cmp .lt .vx h a b m) (s.reg b) → WritesBits (.vcmpLtVx h a b m) s h m fun k => (let x := el a 0 k; let y := (fun _ _ => (s.reg b).toNat % 2 ^ sew) 0 k; (decide (I x < I y), 0))) ∧
    (s.MayEnter (.cmp .lt .vi h a b m) 0 → WritesBits (.vcmpLtVi h a b m) s h m fun k => (let x := el a 0 k; let y := (fun _ _ => (b.signExtend 64).toNat % 2 ^ sew) 0 k; (decide (I x < I y), 0))) ∧
    (s.MayEnter (.cmp .le .vv h a b m) 0 → WritesBits (.vcmpLeVv h a b m) s h m fun k => (let x := el a 0 k; let y := (fun j k => el b j k) 0 k; (decide (I x ≤ I y), 0))) ∧
    (s.MayEnter (.cmp .le .vx h a b m) (s.reg b) → WritesBits (.vcmpLeVx h a b m) s h m fun k => (let x := el a 0 k; let y := (fun _ _ => (s.reg b).toNat % 2 ^ sew) 0 k; (decide (I x ≤ I y), 0))) ∧
    (s.MayEnter (.cmp .le .vi h a b m) 0 → WritesBits (.vcmpLeVi h a b m) s h m fun k => (let x := el a 0 k; let y := (fun _ _ => (b.signExtend 64).toNat % 2 ^ sew) 0 k; (decide (I x ≤ I y), 0))) ∧
    (s.MayEnter (.idx d m) 0 → WritesElems (.vidx d m) s d m fun _ k => plain (k % 2 ^ sew)) ∧
    (s.MayEnter (.clmul false d a b m) 0 → WritesElems (.vclmul d a b m) s d m fun j k => plain (let x := el a j k; let y := el b j k; let p := (List.range sew).foldl (fun p t => if y.testBit t then p ^^^ x * 2 ^ t else p) 0; p % 2 ^ sew)) ∧
    (s.MayEnter (.clmul true d a b m) 0 → WritesElems (.vclmulh d a b m) s d m fun j k => plain (let x := el a j k; let y := el b j k; let p := (List.range sew).foldl (fun p t => if y.testBit t then p ^^^ x * 2 ^ t else p) 0; p / 2 ^ sew))) ∧
    (kind = 2 ∨ kind = 3 →
    let f := ffOf kind sew
    let mode := RMode.ofFrm s.me.ctl.frm
    (s.MayEnter (.arith .add .vv d a b m) 0 → WritesElems (.vaddVv d a b m) s d m fun j k => (let x := f.value (el a j k); let y := f.value ((fun j k => el b j k) j k); f.add mode x y).elem) ∧
    (s.MayEnter (.arith .add .vx d a b m) (s.reg b) → WritesElems (.vaddVx d a b m) s d m fun j k => (let x := f.value (el a j k); let y := f.value ((fun _ _ => (s.reg b).toNat % 2 ^ sew) j k); f.add mode x y).elem) ∧
    (s.MayEnter (.arith .sub .vv d a b m) 0 → WritesElems (.vsubVv d a b m) s d m fun j k => (let x := f.value (el a j k); let y := f.value ((fun j k => el b j k) j k); f.add mode x y.negate).elem) ∧
    (s.MayEnter (.arith .sub .vx d a b m) (s.reg b) → WritesElems (.vsubVx d a b m) s d m fun j k => (let x := f.value (el a j k); let y := f.value ((fun _ _ => (s.reg b).toNat % 2 ^ sew) j k); f.add mode x y.negate).elem) ∧
    (s.MayEnter (.arith .mul .vv d a b m) 0 → WritesElems (.vmulVv d a b m) s d m fun j k => (let x := f.value (el a j k); let y := f.value ((fun j k => el b j k) j k); f.mul mode x y).elem) ∧
    (s.MayEnter (.arith .mul .vx d a b m) (s.reg b) → WritesElems (.vmulVx d a b m) s d m fun j k => (let x := f.value (el a j k); let y := f.value ((fun _ _ => (s.reg b).toNat % 2 ^ sew) j k); f.mul mode x y).elem) ∧
    (s.MayEnter (.arith .div .vv d a b m) 0 → WritesElems (.vdivVv d a b m) s d m fun j k => (let x := f.value (el a j k); let y := f.value ((fun j k => el b j k) j k); f.div mode x y).elem) ∧
    (s.MayEnter (.arith .div .vx d a b m) (s.reg b) → WritesElems (.vdivVx d a b m) s d m fun j k => (let x := f.value (el a j k); let y := f.value ((fun _ _ => (s.reg b).toNat % 2 ^ sew) j k); f.div mode x y).elem) ∧
    (s.MayEnter (.arith .fma .vv d a b m) 0 → WritesElems (.vfmaVv d a b m) s d m fun j k => (let x := f.value (el a j k); let y := f.value ((fun j k => el b j k) j k); let z := f.value (el d j k); f.fma mode false x y z).elem) ∧
    (s.MayEnter (.arith .fma .vx d a b m) (s.reg b) → WritesElems (.vfmaVx d a b m) s d m fun j k => (let x := f.value (el a j k); let y := f.value ((fun _ _ => (s.reg b).toNat % 2 ^ sew) j k); let z := f.value (el d j k); f.fma mode false x y z).elem) ∧
    (s.MayEnter (.arith .fms .vv d a b m) 0 → WritesElems (.vfmsVv d a b m) s d m fun j k => (let x := f.value (el a j k); let y := f.value ((fun j k => el b j k) j k); let z := f.value (el d j k); f.fma mode false x y z.negate).elem) ∧
    (s.MayEnter (.arith .fms .vx d a b m) (s.reg b) → WritesElems (.vfmsVx d a b m) s d m fun j k => (let x := f.value (el a j k); let y := f.value ((fun _ _ => (s.reg b).toNat % 2 ^ sew) j k); let z := f.value (el d j k); f.fma mode false x y z.negate).elem) ∧
    (s.MayEnter (.arith .fnma .vv d a b m) 0 → WritesElems (.vfnmaVv d a b m) s d m fun j k => (let x := f.value (el a j k); let y := f.value ((fun j k => el b j k) j k); let z := f.value (el d j k); f.fma mode true x y z).elem) ∧
    (s.MayEnter (.arith .fnma .vx d a b m) (s.reg b) → WritesElems (.vfnmaVx d a b m) s d m fun j k => (let x := f.value (el a j k); let y := f.value ((fun _ _ => (s.reg b).toNat % 2 ^ sew) j k); let z := f.value (el d j k); f.fma mode true x y z).elem) ∧
    (s.MayEnter (.arith .min .vv d a b m) 0 → WritesElems (.vminVv d a b m) s d m fun j k => (f.minmax false (el a j k) ((fun j k => el b j k) j k)).elem) ∧
    (s.MayEnter (.arith .min .vx d a b m) (s.reg b) → WritesElems (.vminVx d a b m) s d m fun j k => (f.minmax false (el a j k) ((fun _ _ => (s.reg b).toNat % 2 ^ sew) j k)).elem) ∧
    (s.MayEnter (.arith .max .vv d a b m) 0 → WritesElems (.vmaxVv d a b m) s d m fun j k => (f.minmax true (el a j k) ((fun j k => el b j k) j k)).elem) ∧
    (s.MayEnter (.arith .max .vx d a b m) (s.reg b) → WritesElems (.vmaxVx d a b m) s d m fun j k => (f.minmax true (el a j k) ((fun _ _ => (s.reg b).toNat % 2 ^ sew) j k)).elem) ∧
    (s.MayEnter (.arith .abs .vv d a 0 m) 0 → WritesElems (.vabs d a m) s d m fun j k => plain (el a j k % 2 ^ (sew - 1))) ∧
    (s.MayEnter (.arith .neg .vv d a 0 m) 0 → WritesElems (.vneg d a m) s d m fun j k => plain (el a j k ^^^ 2 ^ (sew - 1))) ∧
    (s.MayEnter (.cmp .eq .vv h a b m) 0 → WritesBits (.vcmpEqVv h a b m) s h m fun k => fcmp .eq (f.value (el a 0 k)) (f.value ((fun j k => el b j k) 0 k))) ∧
    (s.MayEnter (.cmp .eq .vx h a b m) (s.reg b) → WritesBits (.vcmpEqVx h a b m) s h m fun k => fcmp .eq (f.value (el a 0 k)) (f.value ((fun _ _ => (s.reg b).toNat % 2 ^ sew) 0 k))) ∧
    (s.MayEnter (.cmp .ne .vv h a b m) 0 → WritesBits (.vcmpNeVv h a b m) s h m fun k => fcmp .ne (f.value (el a 0 k)) (f.value ((fun j k => el b j k) 0 k))) ∧
    (s.MayEnter (.cmp .ne .vx h a b m) (s.reg b) → WritesBits (.vcmpNeVx h a b m) s h m fun k => fcmp .ne (f.value (el a 0 k)) (f.value ((fun _ _ => (s.reg b).toNat % 2 ^ sew) 0 k))) ∧
    (s.MayEnter (.cmp .lt .vv h a b m) 0 → WritesBits (.vcmpLtVv h a b m) s h m fun k => fcmp .lt (f.value (el a 0 k)) (f.value ((fun j k => el b j k) 0 k))) ∧
    (s.MayEnter (.cmp .lt .vx h a b m) (s.reg b) → WritesBits (.vcmpLtVx h a b m) s h m fun k => fcmp .lt (f.value (el a 0 k)) (f.value ((fun _ _ => (s.reg b).toNat % 2 ^ sew) 0 k))) ∧
    (s.MayEnter (.cmp .le .vv h a b m) 0 → WritesBits (.vcmpLeVv h a b m) s h m fun k => fcmp .le (f.value (el a 0 k)) (f.value ((fun j k => el b j k) 0 k))) ∧
    (s.MayEnter (.cmp .le .vx h a b m) (s.reg b) → WritesBits (.vcmpLeVx h a b m) s h m fun k => fcmp .le (f.value (el a 0 k)) (f.value ((fun _ _ => (s.reg b).toNat % 2 ^ sew) 0 k))) ∧
    (s.MayEnter (.spec .rcp d a m) 0 → WritesElems (.vrcp d a m) s d m fun j k => (let w := el a j k; let x := f.value w; f.rcp x).elem) ∧
    (s.MayEnter (.spec .rsq d a m) 0 → WritesElems (.vrsq d a m) s d m fun j k => (let w := el a j k; let x := f.value w; f.rsq x).elem) ∧
    (s.MayEnter (.spec .sint d a m) 0 → WritesElems (.vsint d a m) s d m fun j k => (let w := el a j k; let x := f.value w; f.trig mode 0 x w).elem) ∧
    (s.MayEnter (.spec .cost d a m) 0 → WritesElems (.vcost d a m) s d m fun j k => (let w := el a j k; let x := f.value w; f.trig mode 1 x w).elem) ∧
    (s.MayEnter (.spec .exp2 d a m) 0 → WritesElems (.vexp2 d a m) s d m fun j k => (let w := el a j k; let x := f.value w; f.exp2 mode x w).elem) ∧
    (s.MayEnter (.spec .log2 d a m) 0 → WritesElems (.vlog2 d a m) s d m fun j k => (let w := el a j k; let x := f.value w; f.log2 mode x w).elem)) ∧
    (kind = 8 →
    let rns := fun (g : Nat → Nat → Nat → Nat) (x y : Nat → Nat) => ((List.range 8).map fun c =>
      if on c then (if modulus c ≤ x c ∨ modulus c ≤ y c then 255 else g (modulus c) (x c) (y c) % modulus c) * 256 ^ c else 0).sum
    (s.MayEnter (.arith .add .vv d a b m) 0 → WritesElems (.vaddVv d a b m) s d m fun j k => plain (rns (fun _ x y => x + y) (byte (el a j k)) (byte (el b j k)))) ∧
    (s.MayEnter (.arith .add .vx d a b m) (s.reg b) → WritesElems (.vaddVx d a b m) s d m fun j k => plain (rns (fun _ x y => x + y) (byte (el a j k)) (byte (s.reg b).toNat))) ∧
    (s.MayEnter (.arith .add .vi d a b m) 0 → WritesElems (.vaddVi d a b m) s d m fun j k => plain (rns (fun _ x y => x + y) (byte (el a j k)) (fun c => (b.toInt % (modulus c : Int)).toNat))) ∧
    (s.MayEnter (.arith .sub .vv d a b m) 0 → WritesElems (.vsubVv d a b m) s d m fun j k => plain (rns (fun q x y => x + q - y) (byte (el a j k)) (byte (el b j k)))) ∧
    (s.MayEnter (.arith .sub .vx d a b m) (s.reg b) → WritesElems (.vsubVx d a b m) s d m fun j k => plain (rns (fun q x y => x + q - y) (byte (el a j k)) (byte (s.reg b).toNat))) ∧
    (s.MayEnter (.arith .sub .vi d a b m) 0 → WritesElems (.vsubVi d a b m) s d m fun j k => plain (rns (fun q x y => x + q - y) (byte (el a j k)) (fun c => (b.toInt % (modulus c : Int)).toNat))) ∧
    (s.MayEnter (.arith .mul .vv d a b m) 0 → WritesElems (.vmulVv d a b m) s d m fun j k => plain (rns (fun _ x y => x * y) (byte (el a j k)) (byte (el b j k)))) ∧
    (s.MayEnter (.arith .mul .vx d a b m) (s.reg b) → WritesElems (.vmulVx d a b m) s d m fun j k => plain (rns (fun _ x y => x * y) (byte (el a j k)) (byte (s.reg b).toNat))) ∧
    (s.MayEnter (.cmp .eq .vv h a b m) 0 → WritesBits (.vcmpEqVv h a b m) s h m fun k => (let same := (List.range 8).all fun c => !on c || decide (byte (el a 0 k) c = byte (el b 0 k) c); (same, 0))) ∧
    (s.MayEnter (.cmp .eq .vx h a b m) (s.reg b) → WritesBits (.vcmpEqVx h a b m) s h m fun k => (let same := (List.range 8).all fun c => !on c || decide (byte (el a 0 k) c = byte (s.reg b).toNat c); (same, 0))) ∧
    (s.MayEnter (.cmp .eq .vi h a b m) 0 → WritesBits (.vcmpEqVi h a b m) s h m fun k => (let same := (List.range 8).all fun c => !on c || decide (byte (el a 0 k) c = (b.toInt % (modulus c : Int)).toNat); (same, 0))) ∧
    (s.MayEnter (.cmp .ne .vv h a b m) 0 → WritesBits (.vcmpNeVv h a b m) s h m fun k => (let same := (List.range 8).all fun c => !on c || decide (byte (el a 0 k) c = byte (el b 0 k) c); (!same, 0))) ∧
    (s.MayEnter (.cmp .ne .vx h a b m) (s.reg b) → WritesBits (.vcmpNeVx h a b m) s h m fun k => (let same := (List.range 8).all fun c => !on c || decide (byte (el a 0 k) c = byte (s.reg b).toNat c); (!same, 0))) ∧
    (s.MayEnter (.cmp .ne .vi h a b m) 0 → WritesBits (.vcmpNeVi h a b m) s h m fun k => (let same := (List.range 8).all fun c => !on c || decide (byte (el a 0 k) c = (b.toInt % (modulus c : Int)).toNat); (!same, 0)))) ∧
    ((s.MayEnter (.sel d a b m) 0 → WritesElems (.vsel d a b m) s d 0 fun j k => plain (kept (if s.me.vec.mask m.toNat k then el a j k else el b j k))) ∧
    (s.MayEnter (.bcast d m) (s.reg a) → WritesElems (.vbcast d a m) s d m fun _ _ => plain (kept (s.reg a).toNat % 2 ^ sew)))

/-- Permutations, reductions, conversions, residue forms, unit-stride and strided loads, stores, TZERO and TOPR write the elements, bytes and cells their rules give (R241, R244, R267, R268, R269, R271, R273, R232, R233, R276, R286, R303). The model's own choices in it: logs 10, 72. -/
def Obligations.VectorWorkWritesItsResults : Prop :=
  ∀ (s : State) (d a b c : Reg) (g h m n : MReg) (t : VKind) (w : Sew), s.VecReady →
    let sew := vtSew s.me.ctl.vt
    let kind := vtKind s.me.ctl.vt
    let el := fun (r : Reg) (j k : Nat) => s.me.vec.elem sew (r.toNat + j) k
    let on := fun (c : Nat) => s.me.ctl.rnscfg.toNat.testBit c
    let byte := fun (x c : Nat) => x / 256 ^ c % 256
    let kept := fun (x : Nat) => if kind = 8 then ((List.range 8).map fun c => if on c then byte x c * 256 ^ c else 0).sum else x
    let vl := s.me.ctl.vl.toNat
    let put := fun (j k x : Nat) => if k < vl then (if s.me.vec.active m.toNat k then x else if s.me.ctl.vt.getLsbD 10 then 0 else el d j k)
      else if s.me.ctl.vt.getLsbD 9 then 0 else el d j k
    (blockMode s.me.ctl.vt = false →
    (s.MayEnter (.perm .gather d a b m) 0 → Permutes (.vgather d a b m) s d fun j k => put j k (let x := el b j k; if x < vl then kept (el a j (x)) else 0)) ∧
    (s.MayEnter (.perm .slideup d a b m) (s.reg b) → Permutes (.vslideup d a b m) s d fun j k => if k < vl ∧ k < (s.reg b).toNat then el d j k else put j k (kept (el a j (k - (s.reg b).toNat)))) ∧
    (s.MayEnter (.perm .slidedn d a b m) (s.reg b) → Permutes (.vslidedn d a b m) s d fun j k => put j k (if k + (s.reg b).toNat < vl then kept (el a j (k + (s.reg b).toNat)) else 0)) ∧
    (s.MayEnter (.perm .compress d a 0 m) 0 → Permutes (.vcompress d a m) s d fun j k => match (if k < vl then (s.actives m 0)[k]? else none) with | some x => kept (el a j (x)) | none => if s.me.ctl.vt.getLsbD 9 then 0 else el d j k) ∧
    (s.MayEnter (.perm .expand d a 0 m) 0 → Permutes (.vexpand d a m) s d fun j k => put j k (kept (el a j (((s.actives m 0).filter fun i => decide (i < k)).length)))) ∧
    (s.MayEnter (.perm .zip d a b m) 0 → Permutes (.vzip d a b m) s d fun j k => put j k (if k % 2 = 0 then kept (el a j (k / 2)) else kept (el b j (k / 2)))) ∧
    (s.MayEnter (.perm .unzip d a b m) 0 → Permutes (.vunzip d a b m) s d fun j k => put j k (if 2 * k < vl then kept (el a j (2 * k)) else kept (el b j (2 * k - vl)))) ∧
    (s.MayEnter (.perm .swappr d a 0 m) 0 → WritesElems (.vswappr d a m) s d m fun j k => plain (let i := if k % 2 = 0 then k + 1 else k - 1; kept (el a j (if i < vl then i else k))))) ∧
    (kind ≤ 1 →
    let I := fun (x : Nat) => if kind = 0 then sintOf sew x else (x : Int)
    let mode := RMode.ofFrm s.me.ctl.frm
    (s.MayEnter (.red .sumO d a b m) 0 → Reduces (.vredsumO d a b m) s d (let n := ((s.actives m 0).map fun k => el a 0 k).sum; plain ((el b 0 0 + n) % 2 ^ sew))) ∧
    (s.MayEnter (.red .sumT d a b m) 0 → Reduces (.vredsumT d a b m) s d (let n := ((s.actives m 0).map fun k => el a 0 k).sum; plain ((el b 0 0 + n) % 2 ^ sew))) ∧
    (s.MayEnter (.red .max d a b m) 0 → Reduces (.vredmax d a b m) s d (plain ((s.actives m 0).foldl (fun x k => let y := el a 0 k; if I x ≤ I y then y else x) (el b 0 0)))) ∧
    (s.MayEnter (.red .min d a b m) 0 → Reduces (.vredmin d a b m) s d (plain ((s.actives m 0).foldl (fun x k => let y := el a 0 k; if I x ≤ I y then x else y) (el b 0 0)))) ∧
    (s.MayEnter (.red .and d a b m) 0 → Reduces (.vredand d a b m) s d (plain ((s.actives m 0).foldl (fun x k => let y := el a 0 k; x &&& y) (el b 0 0)))) ∧
    (s.MayEnter (.red .or d a b m) 0 → Reduces (.vredor d a b m) s d (plain ((s.actives m 0).foldl (fun x k => let y := el a 0 k; x ||| y) (el b 0 0)))) ∧
    (s.MayEnter (.cvt false d a t w m) 0 → (¬kindSt kind → sewOf w = sew → kindCode t ≤ 1 → WritesElems (.vcvt d a t w m) s d m fun j k => plain (let z := I (el a j k); let lo : Int := if kindCode t = 0 then -2 ^ (sew - 1) else 0; let hi : Int := if kindCode t = 0 then 2 ^ (sew - 1) - 1 else 2 ^ sew - 1; ((if z < lo then lo else if hi < z then hi else z) % 2 ^ sew).toNat))) ∧
    (s.MayEnter (.cvt false d a t w m) 0 → (¬kindSt kind → sewOf w = sew → 2 ≤ kindCode t ∧ kindCode t ≤ 3 → WritesElems (.vcvt d a t w m) s d m fun j k => ((ffOf (kindCode t) sew).ofInt mode (I (el a j k))).elem)) ∧
    (s.MayEnter (.cvt true d a t w m) 0 → (¬kindSt kind → sewOf w = sew → 2 ≤ kindCode t ∧ kindCode t ≤ 3 → WritesElems (.vcvtSr d a t w m) s d m fun j k => (let z := I (el a j k); (ffOf (kindCode t) sew).stochastic (mix s.me.ctl.seed (s.me.ctl.sbase + word k)) (.fin (decide (z < 0)) z.natAbs 0)).elem)) ∧
    (s.MayEnter (.rnsf d a m) 0 → (sew = 64 → s.me.ctl.rnscfg.getLsbD 9 = false → WritesElems (.vrnsf d a m) s d m fun j k => (let z := I (el a j k); ⟨((List.range 8).map fun c => if on c then (z % (modulus c : Int)).toNat * 256 ^ c else 0).sum, 0, if 105252413875823 < z.natAbs then iflagOV else 0⟩)))) ∧
    (kind = 2 ∨ kind = 3 →
    let f := ffOf kind sew
    let mode := RMode.ofFrm s.me.ctl.frm
    (s.MayEnter (.red .sumO d a b m) 0 → Reduces (.vredsumO d a b m) s d ((s.actives m 0).foldl (fun (x : Elem) k => (let r := f.add mode (f.value x.bits) (f.value (el a 0 k)); ⟨r.1, x.ff ||| r.2, 0⟩)) (plain (el b 0 0)))) ∧
    (s.MayEnter (.red .sumT d a b m) 0 → Reduces (.vredsumT d a b m) s d (let n := pairSum f mode (fun k => if k < vl ∧ s.me.vec.active m.toNat k = true then some (el a 0 k) else none) vl.log2.succ 0; match n with | none => plain (el b 0 0) | some x => (let r := f.add mode (f.value (el b 0 0)) (f.value x.bits); ⟨r.1, x.ff ||| r.2, 0⟩))) ∧
    (s.MayEnter (.red .max d a b m) 0 → Reduces (.vredmax d a b m) s d ((s.actives m 0).foldl (fun (x : Elem) k => (let r := f.minmax true x.bits (el a 0 k); ⟨r.1, x.ff ||| r.2, 0⟩)) ⟨el b 0 0, if (f.value (el b 0 0)).isSig then flagNV else 0, 0⟩)) ∧
    (s.MayEnter (.red .min d a b m) 0 → Reduces (.vredmin d a b m) s d ((s.actives m 0).foldl (fun (x : Elem) k => (let r := f.minmax false x.bits (el a 0 k); ⟨r.1, x.ff ||| r.2, 0⟩)) ⟨el b 0 0, if (f.value (el b 0 0)).isSig then flagNV else 0, 0⟩)) ∧
    (s.MayEnter (.cvt false d a t w m) 0 → (sewOf w = sew → kindCode t ≤ 1 → WritesElems (.vcvt d a t w m) s d m fun j k => (let lo : Int := if kindCode t = 0 then -2 ^ (sew - 1) else 0; let hi : Int := if kindCode t = 0 then 2 ^ (sew - 1) - 1 else 2 ^ sew - 1; let r := toInteger mode lo hi (f.value (el a j k)); (⟨(r.1 % 2 ^ sew).toNat, r.2, 0⟩ : Elem)))) ∧
    (s.MayEnter (.cvt false d a t w m) 0 → (sewOf w = sew → 2 ≤ kindCode t ∧ kindCode t ≤ 3 → WritesElems (.vcvt d a t w m) s d m fun j k => ((ffOf (kindCode t) sew).ofVal mode (f.value (el a j k))).elem)) ∧
    (s.MayEnter (.cvt true d a t w m) 0 → (sewOf w = sew → 2 ≤ kindCode t ∧ kindCode t ≤ 3 → WritesElems (.vcvtSr d a t w m) s d m fun j k => ((ffOf (kindCode t) sew).stochastic (mix s.me.ctl.seed (s.me.ctl.sbase + word k)) (f.value (el a j k))).elem))) ∧
    (kind = 8 →
    (s.MayEnter (.red .sumO d a b m) 0 → Reduces (.vredsumO d a b m) s d (plain ((s.actives m 0).foldl (fun x k => (let y := el a 0 k; ((List.range 8).map fun c => if on c then (if modulus c ≤ byte x c ∨ modulus c ≤ byte y c then 255 else (byte x c + byte y c) % modulus c) * 256 ^ c else 0).sum)) (kept (el b 0 0))))) ∧
    (s.MayEnter (.red .sumT d a b m) 0 → Reduces (.vredsumT d a b m) s d (plain ((s.actives m 0).foldl (fun x k => (let y := el a 0 k; ((List.range 8).map fun c => if on c then (if modulus c ≤ byte x c ∨ modulus c ≤ byte y c then 255 else (byte x c + byte y c) % modulus c) * 256 ^ c else 0).sum)) (kept (el b 0 0))))) ∧
    (s.MayEnter (.rnsr d a m) 0 → (∀ z : Nat → Nat → Int, (∀ j k, j < vtGroup s.me.ctl.vt → k ∈ s.actives m s.me.ctl.es.toNat → decideRns (el a j k) (s.me.ctl.rnscfg.toNat % 256) = .exact (z j k)) → WritesElems (.vrnsr d a m) s d m fun j k => plain (z j k % 2 ^ 64).toNat)) ∧
    (s.MayEnter (.rnschk h a m) 0 → WritesBits (.vrnschk h a m) s h m fun k => (match decideRns (el a 0 k) (s.me.ctl.rnscfg.toNat % 256) with | .exact _ => false | _ => true, 0))) ∧
    ((s.MayEnter (.load .vld d a 0 m .sy .rlx) (s.reg a) → (∀ o, s.Calm → s.reg a = privAddr o → o + vtGroup s.me.ctl.vt * vl * (sew / 8) ≤ 0x2000 → WritesElems (.vld d a m) s d m fun j k => plain (s.privNum (o + (j * vl + k) * (sew / 8)) (sew / 8)))) ∧
    (s.MayEnter (.load .vlds d a b m .sy .rlx) (s.reg a) → (∀ o n, s.Calm → s.reg a = privAddr o → s.reg b = word n → o + vtGroup s.me.ctl.vt * vl * n + 8 ≤ 0x2000 → WritesElems (.vlds d a b m) s d m fun j k => plain (s.privNum (o + (j * vl + k) * n) (sew / 8)))) ∧
    (s.MayEnter (.store .vst d a 0 m .sy .rlx) (s.reg a) → (∀ o, s.Calm → s.reg a = privAddr o → o + vtGroup s.me.ctl.vt * vl * (sew / 8) ≤ 0x2000 → StoresElems (.vst d a m) s o (fun j k => decide (j < vtGroup s.me.ctl.vt ∧ k ∈ s.actives m s.me.ctl.es.toNat)) (fun j k => el d j k)))) ∧
    (let I := fun (x : Nat) => if kind = 0 then sintOf sew x else (x : Int)
    let res := fun (z : Int) => ((List.range 8).map fun c => if on c then (z % (modulus c : Int)).toNat * 256 ^ c else 0).sum
    let es := s.me.ctl.es.toNat
    let rest := (s.reg c).toNat - es
    let side := s.me.tileSide
    (s.MayEnter (.tzero g) 0 → WritesCells (.tzero g) 4 s g (if es = 0 then 0 else s.me.vec.weight g.toNat) 0 0 fun i j => if es = 0 then 0 else s.me.vec.cell g.toNat i j) ∧
    (s.MayEnter (.top .topr g a b 0 m n) (s.reg c) → (∃ ra rb : Nat → Nat, (∀ k, ra k = if kind = 8 then el a 0 k else res (I (el a 0 k))) ∧ (∀ k, rb k = if kind = 8 then el b 0 k else res (I (el b 0 k))) ∧ WritesCells (.topr g a b c m n) 8 s g (min (2 ^ 64 - 1) (s.me.vec.weight g.toNat + rest * termWeight kind sew)) 0 (if rest ≠ 0 ∧ halfRange (s.me.ctl.rnscfg.toNat % 256) < min (2 ^ 64 - 1) (s.me.vec.weight g.toNat + rest * termWeight kind sew) then iflagRG else 0) fun i j => if i < s.me.ctl.trows.toNat ∧ j < s.me.ctl.tcols.toNat ∧ s.me.vec.active m.toNat i = true ∧ s.me.vec.active n.toNat j = true then (List.range rest).foldl (fun (x : Word) u => (let p := byte (ra ((es + u) * side + i)); let q := byte (rb ((es + u) * side + j)); let y := byte x.toNat; word ((List.range 8).map fun c => if on c then (if modulus c ≤ y c ∨ modulus c ≤ p c ∨ modulus c ≤ q c then 255 else (y c + p c * q c) % modulus c) * 256 ^ c else 0).sum)) (s.me.vec.cell g.toNat i j) else s.me.vec.cell g.toNat i j)))
end

