-- ==== Sys2Proof/Laws/Caches.lean ====
section
/-! SUPPORT. The laws of the L2 slices and memory-side caches: what a removal of lines leaves, and that what they ask for is DRAM
requests and nothing else. -/

namespace Sys2Proof.Machine

open Sys2Proof

/-- A removal leaves exactly the lines that it does not name, in their sets. -/
theorem holds_cacheDrop (m : NMap (List CacheLine)) (gone : Nat → CacheLine → Bool) (k : Nat) (l : CacheLine) :
    Holds (cacheDrop m gone) k l ↔ Holds m k l ∧ ¬ gone k l = true := by
  unfold Holds cacheDrop
  simp only [List.mem_filter, List.mem_map, Prod.mk.injEq, Prod.exists]
  constructor
  · rintro ⟨x, ⟨⟨a, b, hm, rfl, rfl⟩, -⟩, hl⟩
    obtain ⟨h1, h2⟩ := List.mem_filter.1 hl
    exact ⟨⟨b, hm, h1⟩, by simpa using h2⟩
  · rintro ⟨⟨x, hm, hl⟩, hg⟩
    have hf : l ∈ x.filter fun l => !gone k l := List.mem_filter.2 ⟨hl, by simpa using hg⟩
    exact ⟨_, ⟨⟨k, x, hm, rfl, rfl⟩, by rw [List.isEmpty_eq_false_iff.2 (List.ne_nil_of_mem hf)]; rfl⟩, hf⟩

/-- The request for a line is a DRAM request or nothing. -/
theorem dramAsk_mem {pa : Nat} {e : Event} (h : e ∈ dramAsk pa) : ∃ p, e = Event.dramAccess p := by
  unfold dramAsk at h
  split at h
  · exact ⟨_, List.mem_singleton.1 h⟩
  · cases h

/-- Nothing asked. -/
theorem asksDram_of_eq {s t : State} (h : t.agenda = s.agenda) : AsksDram s t :=
  ⟨[], fun _ h => absurd h List.not_mem_nil, by rw [h, List.append_nil]⟩

/-- Requests for one line more. -/
theorem asksDram_append {s t u : State} {pa : Nat} (h : AsksDram s t) (e : u.agenda = t.agenda ++ dramAsk pa) : AsksDram s u := by
  obtain ⟨es, h1, h2⟩ := h
  refine ⟨es ++ dramAsk pa, fun x hx => ?_, by rw [e, h2, List.append_assoc]⟩
  rcases List.mem_append.1 hx with hx | hx
  · exact h1 x hx
  · exact dramAsk_mem hx

/-- Requests for the lines of a list. -/
theorem asksDram_pushAll {s t : State} {ls : List CacheLine} (e : t.agenda = s.agenda ++ ls.flatMap fun l => dramAsk (64 * l.tag)) :
    AsksDram s t := by
  refine ⟨_, fun x hx => ?_, e⟩
  obtain ⟨l, -, h⟩ := List.mem_flatMap.1 hx
  exact dramAsk_mem h

/-- Requests after requests. -/
theorem AsksDram.trans {s t u : State} (h : AsksDram s t) (g : AsksDram t u) : AsksDram s u := by
  obtain ⟨es, h1, h2⟩ := h
  obtain ⟨fs, g1, g2⟩ := g
  refine ⟨es ++ fs, fun x hx => ?_, by rw [g2, h2, List.append_assoc]⟩
  rcases List.mem_append.1 hx with hx | hx
  exacts [h1 x hx, g1 x hx]

/-- An access to the memory side of L2 changes the memory-side cache and asks for DRAM, and nothing else. -/
theorem mscAccess_shape (s : State) (part pa keyId : Nat) (fills write : Bool) :
    AsksDram s (s.mscAccess part pa keyId fills write) ∧
      s.mscAccess part pa keyId fills write =
        { s with agenda := (s.mscAccess part pa keyId fills write).agenda
                 sys := { s.sys with msc := (s.mscAccess part pa keyId fills write).sys.msc } } := by
  have ask : ∀ (u : State) (p : Nat), AsksDram u (u.pushAll (dramAsk p)) := fun u p => asksDram_append (asksDram_of_eq rfl) rfl
  have same : ∀ {u v : State}, v.agenda = u.agenda → AsksDram u v := asksDram_of_eq
  unfold State.mscAccess
  split
  · dsimp only
    split
    · exact ⟨same rfl, rfl⟩
    · split
      · split <;> (try split) <;> exact ⟨by first | exact (ask _ _).trans (same rfl |>.trans (ask _ _)) | exact (same rfl).trans (ask _ _), rfl⟩
      · refine ⟨?_, ?_⟩
        · repeat' split
          all_goals
            first
            | exact same rfl
            | exact (ask _ _).trans (same rfl)
            | exact ((ask _ _).trans (ask _ _)).trans (same rfl)
            | exact (((ask _ _).trans (ask _ _)).trans (ask _ _)).trans (same rfl)
        · repeat' split
          all_goals rfl
  · exact ⟨ask _ _, rfl⟩

/-- A line that gives way changes the memory-side cache and asks for DRAM, and nothing else. -/
theorem evict_shape (s : State) (l : CacheLine) :
    AsksDram s (s.evict l) ∧
      s.evict l = { s with agenda := (s.evict l).agenda, sys := { s.sys with msc := (s.evict l).sys.msc } } := by
  unfold State.evict
  split
  · exact mscAccess_shape s _ _ _ _ _
  · exact ⟨asksDram_of_eq rfl, rfl⟩

end Sys2Proof.Machine
end

