-- ==== Sys2Proof/Laws/Encoding.lean ====
section
/-! SUPPORT. The fields of a word that the encoder puts together are the fields that the decoder takes out of it, and each code
of the encoding tables is read back as what it stands for. -/

namespace Sys2Proof

/-- A field that lies in the low part of two parts put together. -/
theorem field_low {v w : Nat} (x : BitVec v) (y : BitVec w) (k n : Nat) (h : k + n ≤ w) :
    (x ++ y).extractLsb' k n = y.extractLsb' k n := BitVec.extractLsb'_append_eq_of_add_le h

/-- A field that lies in the high part. -/
theorem field_high {v w : Nat} (x : BitVec v) (y : BitVec w) (k n : Nat) (h : w ≤ k) :
    (x ++ y).extractLsb' k n = x.extractLsb' (k - w) n := BitVec.extractLsb'_append_eq_of_le h

/-- The low part whole. -/
theorem field_low_all {v w : Nat} (x : BitVec v) (y : BitVec w) : (x ++ y).extractLsb' 0 w = y := by
  rw [field_low x y 0 w (by omega), BitVec.extractLsb'_eq_self]

/-- The high part whole. -/
theorem field_high_all {v w : Nat} (x : BitVec v) (y : BitVec w) : (x ++ y).extractLsb' w v = x := by
  rw [field_high x y w v (Nat.le_refl w), Nat.sub_self, BitVec.extractLsb'_eq_self]

/-- Two adjoining fields put together are one field. -/
theorem fields_join {w : Nat} (x : BitVec w) (k m n : Nat) :
    x.extractLsb' (k + m) n ++ x.extractLsb' k m = x.extractLsb' k (n + m) := by
  apply BitVec.eq_of_getLsbD_eq
  intro i h
  rw [BitVec.getLsbD_append]
  simp only [BitVec.getLsbD_extractLsb']
  by_cases hi : i < m
  · simp [hi, h]
  · have e : k + m + (i - m) = k + i := by omega
    have h2 : i - m < n := by omega
    simp [hi, h2, h, e]

theorem mk32_m (b a : BitVec 5) (f : BitVec 6) (cls : BitVec 2) (op : BitVec 6) (d : BitVec 5) (m : BitVec 3) :
    (mk32 b a f cls op d m).extractLsb' 0 3 = m := by
  unfold mk32
  rw [field_low_all _ m]

theorem mk32_d (b a : BitVec 5) (f : BitVec 6) (cls : BitVec 2) (op : BitVec 6) (d : BitVec 5) (m : BitVec 3) :
    (mk32 b a f cls op d m).extractLsb' 3 5 = d := by
  unfold mk32
  rw [field_high _ m _ _ (by decide), field_low_all _ d]

theorem mk32_op (b a : BitVec 5) (f : BitVec 6) (cls : BitVec 2) (op : BitVec 6) (d : BitVec 5) (m : BitVec 3) :
    (mk32 b a f cls op d m).extractLsb' 8 6 = op := by
  unfold mk32
  rw [field_high _ m _ _ (by decide), field_high _ d _ _ (by decide), field_low_all _ op]

theorem mk32_cls (b a : BitVec 5) (f : BitVec 6) (cls : BitVec 2) (op : BitVec 6) (d : BitVec 5) (m : BitVec 3) :
    (mk32 b a f cls op d m).extractLsb' 14 2 = cls := by
  unfold mk32
  rw [field_high _ m _ _ (by decide), field_high _ d _ _ (by decide), field_high _ op _ _ (by decide), field_low_all _ cls]

theorem mk32_f (b a : BitVec 5) (f : BitVec 6) (cls : BitVec 2) (op : BitVec 6) (d : BitVec 5) (m : BitVec 3) :
    (mk32 b a f cls op d m).extractLsb' 16 6 = f := by
  unfold mk32
  rw [field_high _ m _ _ (by decide), field_high _ d _ _ (by decide), field_high _ op _ _ (by decide), field_high _ cls _ _ (by decide), field_low_all _ f]

theorem mk32_a (b a : BitVec 5) (f : BitVec 6) (cls : BitVec 2) (op : BitVec 6) (d : BitVec 5) (m : BitVec 3) :
    (mk32 b a f cls op d m).extractLsb' 22 5 = a := by
  unfold mk32
  rw [field_high _ m _ _ (by decide), field_high _ d _ _ (by decide), field_high _ op _ _ (by decide), field_high _ cls _ _ (by decide), field_high _ f _ _ (by decide), field_low_all _ a]

theorem mk32_b (b a : BitVec 5) (f : BitVec 6) (cls : BitVec 2) (op : BitVec 6) (d : BitVec 5) (m : BitVec 3) :
    (mk32 b a f cls op d m).extractLsb' 27 5 = b := by
  unfold mk32
  rw [field_high _ m _ _ (by decide), field_high _ d _ _ (by decide), field_high _ op _ _ (by decide), field_high _ cls _ _ (by decide), field_high _ f _ _ (by decide), field_high _ a _ _ (by decide), BitVec.extractLsb'_eq_self]

theorem decode32_mk32 (b a : BitVec 5) (f : BitVec 6) (cls : BitVec 2) (op : BitVec 6) (d : BitVec 5) (m : BitVec 3) :
    decode32 (mk32 b a f cls op d m) = decFields cls op b a f d m := by
  unfold decode32
  rw [mk32_m, mk32_d, mk32_op, mk32_cls, mk32_f, mk32_a, mk32_b]

theorem mk16_cop (cop : BitVec 4) (d x : BitVec 5) : (mk16 cop d x).extractLsb' 10 4 = cop := by
  unfold mk16
  rw [field_high _ x _ _ (by decide), field_high _ d _ _ (by decide), field_low_all]

theorem mk16_d (cop : BitVec 4) (d x : BitVec 5) : (mk16 cop d x).extractLsb' 5 5 = d := by
  unfold mk16
  rw [field_high _ x _ _ (by decide), field_low_all]

theorem mk16_x (cop : BitVec 4) (d x : BitVec 5) : (mk16 cop d x).extractLsb' 0 5 = x := by
  unfold mk16
  rw [field_low_all]

theorem mk16_ne (cop : BitVec 4) (d x : BitVec 5) (h : cop ≠ 0#4 ∨ d ≠ 0#5 ∨ x ≠ 0#5) : mk16 cop d x ≠ 0#16 := by
  intro e
  have h1 := mk16_cop cop d x
  have h2 := mk16_d cop d x
  have h3 := mk16_x cop d x
  rw [e] at h1 h2 h3
  rcases h with h | h | h
  · exact h (h1.symm.trans (by decide))
  · exact h (h2.symm.trans (by decide))
  · exact h (h3.symm.trans (by decide))

theorem decode16_mk16 (cop : BitVec 4) (d x : BitVec 5) (h : cop ≠ 0#4 ∨ d ≠ 0#5 ∨ x ≠ 0#5) :
    decode16 (mk16 cop d x) = checked .compactField (decC cop d x) := by
  unfold decode16
  rw [if_neg (mk16_ne cop d x h), mk16_cop, mk16_d, mk16_x]

/-- A prefixed form: the fields of the body are read from it, the kind and the payload from the prefix. -/
theorem decode64_mk32 (p : BitVec 32) (b a : BitVec 5) (f : BitVec 6) (cls : BitVec 2) (op : BitVec 6) (d : BitVec 5) (m : BitVec 3) :
    decode64 p (mk32 b a f cls op d m) =
      decPrefixed (p.extractLsb' 8 6) (p.extractLsb' 16 16 ++ p.extractLsb' 0 8) cls op b a f d m := by
  unfold decode64
  rw [mk32_m, mk32_d, mk32_op, mk32_cls, mk32_f, mk32_a, mk32_b]

theorem pfxImm_kind (i : BitVec 32) : (pfxImm i).extractLsb' 8 6 = 1#6 := by
  unfold pfxImm
  rw [field_high _ _ _ _ (by decide), field_low_all]

theorem pfxOrd_kind (s : Scope) (o : Order) : (pfxOrd s o).extractLsb' 8 6 = 3#6 := by
  cases s <;> cases o <;> decide

theorem pfxExt_kind (c e : BitVec 5) (n : BitVec 3) (x : BitVec 6) (o : BitVec 1) :
    (pfxExt c e n x o).extractLsb' 8 6 = 2#6 := by
  unfold pfxExt
  rw [field_high _ (0#4) _ _ (by decide), field_high _ o _ _ (by decide), field_high _ (x.extractLsb' 0 3) _ _ (by decide),
    field_low_all]

theorem pfxExt_payload (c e : BitVec 5) (n : BitVec 3) (x : BitVec 6) (o : BitVec 1) :
    (pfxExt c e n x o).extractLsb' 16 16 ++ (pfxExt c e n x o).extractLsb' 0 8 =
      (c ++ e ++ n ++ x.extractLsb' 3 3) ++ (x.extractLsb' 0 3 ++ o ++ 0#4) := by
  have h1 : (pfxExt c e n x o).extractLsb' 16 16 = c ++ e ++ n ++ x.extractLsb' 3 3 := by
    unfold pfxExt
    rw [field_high _ (0#4) _ _ (by decide), field_high _ o _ _ (by decide), field_high _ (x.extractLsb' 0 3) _ _ (by decide),
      field_high _ _ _ _ (by decide), field_high _ _ _ _ (by decide)]
    exact BitVec.extractLsb'_eq_self
  have h2 : (pfxExt c e n x o).extractLsb' 0 8 = x.extractLsb' 0 3 ++ o ++ 0#4 := by
    have e : pfxExt c e n x o = (c ++ e ++ n ++ x.extractLsb' 3 3 ++ 3#2 ++ 2#6) ++ (x.extractLsb' 0 3 ++ o ++ 0#4) := by
      apply BitVec.eq_of_toNat_eq
      unfold pfxExt
      simp only [BitVec.toNat_append, Nat.shiftLeft_or_distrib, ← Nat.shiftLeft_add, Nat.or_assoc]
    rw [e, field_low_all]
  rw [h1, h2]

/-- The payload of an IMM prefix is the immediate above its low byte (02 R52). -/
theorem pfxImm_payload (i : BitVec 32) :
    (pfxImm i).extractLsb' 16 16 ++ (pfxImm i).extractLsb' 0 8 = i.extractLsb' 8 24 := by
  have h1 : (pfxImm i).extractLsb' 16 16 = i.extractLsb' 16 16 := by
    unfold pfxImm
    rw [field_high _ _ _ _ (by decide), field_high _ _ _ _ (by decide), field_high _ _ _ _ (by decide)]
    exact BitVec.extractLsb'_eq_self
  have h2 : (pfxImm i).extractLsb' 0 8 = i.extractLsb' 8 8 := by
    unfold pfxImm
    rw [field_low_all]
  rw [h1, h2]
  exact fields_join i 8 8 16

theorem pfxOrd_payload (s : Scope) (o : Order) :
    (pfxOrd s o).extractLsb' 16 16 ++ (pfxOrd s o).extractLsb' 0 8 = s.code ++ o.code ++ 0#18 := by
  cases s <;> cases o <;> decide


/-! ### Fields that are themselves put together of parts (02 R44, R46) -/

@[simp] theorem parts23_lo (x : BitVec 2) (y : BitVec 3) : (x ++ y : BitVec 5).extractLsb' 0 3 = y := field_low_all x y
@[simp] theorem parts23_hi (x : BitVec 2) (y : BitVec 3) : (x ++ y : BitVec 5).extractLsb' 3 2 = x := field_high_all x y
@[simp] theorem parts33_lo (x : BitVec 3) (y : BitVec 3) : (x ++ y : BitVec 6).extractLsb' 0 3 = y := field_low_all x y
@[simp] theorem parts33_hi (x : BitVec 3) (y : BitVec 3) : (x ++ y : BitVec 6).extractLsb' 3 3 = x := field_high_all x y
@[simp] theorem parts42_lo (x : BitVec 4) (y : BitVec 2) : (x ++ y : BitVec 6).extractLsb' 0 2 = y := field_low_all x y
@[simp] theorem parts42_hi (x : BitVec 4) (y : BitVec 2) : (x ++ y : BitVec 6).extractLsb' 2 4 = x := field_high_all x y
@[simp] theorem parts14_lo (x : BitVec 1) (y : BitVec 4) : (x ++ y : BitVec 5).extractLsb' 0 4 = y := field_low_all x y
@[simp] theorem parts14_hi (x : BitVec 1) (y : BitVec 4) : (x ++ y : BitVec 5).extractLsb' 4 1 = x := field_high_all x y
@[simp] theorem parts41_lo (x : BitVec 4) (y : BitVec 1) : (x ++ y : BitVec 5).extractLsb' 0 1 = y := field_low_all x y
@[simp] theorem parts41_hi (x : BitVec 4) (y : BitVec 1) : (x ++ y : BitVec 5).extractLsb' 1 4 = x := field_high_all x y
@[simp] theorem parts32_lo (x : BitVec 3) (y : BitVec 2) : (x ++ y : BitVec 5).extractLsb' 0 2 = y := field_low_all x y
@[simp] theorem parts32_hi (x : BitVec 3) (y : BitVec 2) : (x ++ y : BitVec 5).extractLsb' 2 3 = x := field_high_all x y
@[simp] theorem parts15_lo (x : BitVec 1) (y : BitVec 5) : (x ++ y : BitVec 6).extractLsb' 0 5 = y := field_low_all x y
@[simp] theorem parts15_hi (x : BitVec 1) (y : BitVec 5) : (x ++ y : BitVec 6).extractLsb' 5 1 = x := field_high_all x y
@[simp] theorem parts321_lo (x : BitVec 3) (y : BitVec 2) (z : BitVec 1) :
    (x ++ y ++ z : BitVec 6).extractLsb' 0 1 = z := field_low_all _ z
@[simp] theorem parts321_mid (x : BitVec 3) (y : BitVec 2) (z : BitVec 1) :
    (x ++ y ++ z : BitVec 6).extractLsb' 1 2 = y :=
  (field_high (x ++ y) z 1 2 (by decide)).trans (field_low_all x y)
@[simp] theorem parts321_hi (x : BitVec 3) (y : BitVec 2) (z : BitVec 1) :
    (x ++ y ++ z : BitVec 6).extractLsb' 3 3 = x :=
  (field_high (x ++ y) z 3 3 (by decide)).trans (field_high_all x y)

/-- The immediate of format I is put together from its three fields. -/
@[simp] theorem imm14_I (i : BitVec 14) : (i.extractLsb' 9 5 ++ i.extractLsb' 3 6 ++ i.extractLsb' 0 3 : BitVec 14) = i := by
  rw [show i.extractLsb' 9 5 ++ i.extractLsb' 3 6 = i.extractLsb' 3 (5 + 6) from fields_join i 3 6 5]
  exact (fields_join i 0 3 11).trans BitVec.extractLsb'_eq_self

/-- The offset of format B. -/
@[simp] theorem imm14_B (i : BitVec 14) : (i.extractLsb' 8 6 ++ i.extractLsb' 3 5 ++ i.extractLsb' 0 3 : BitVec 14) = i := by
  rw [show i.extractLsb' 8 6 ++ i.extractLsb' 3 5 = i.extractLsb' 3 (6 + 5) from fields_join i 3 5 6]
  exact (fields_join i 0 3 11).trans BitVec.extractLsb'_eq_self

/-- The immediate of format U. -/
@[simp] theorem imm19_U (i : BitVec 19) :
    (i.extractLsb' 14 5 ++ i.extractLsb' 9 5 ++ i.extractLsb' 3 6 ++ i.extractLsb' 0 3 : BitVec 19) = i := by
  rw [show i.extractLsb' 14 5 ++ i.extractLsb' 9 5 = i.extractLsb' 9 (5 + 5) from fields_join i 9 5 5,
    show i.extractLsb' 9 (5 + 5) ++ i.extractLsb' 3 6 = i.extractLsb' 3 (5 + 5 + 6) from fields_join i 3 6 10]
  exact (fields_join i 0 3 16).trans BitVec.extractLsb'_eq_self

/-- A number in two halves of five bits. -/
@[simp] theorem halves10 (i : BitVec 10) : (i.extractLsb' 5 5 ++ i.extractLsb' 0 5 : BitVec 10) = i :=
  (fields_join i 0 5 5).trans BitVec.extractLsb'_eq_self

/-- A control register number (02 R46). -/
@[simp] theorem ctlNumber (n : BitVec 12) :
    (n.extractLsb' 11 1 ++ n.extractLsb' 5 6 ++ n.extractLsb' 0 5 : BitVec 12) = n := by
  rw [show n.extractLsb' 11 1 ++ n.extractLsb' 5 6 = n.extractLsb' 5 (1 + 6) from fields_join n 5 6 1]
  exact (fields_join n 0 5 7).trans BitVec.extractLsb'_eq_self

/-- A bit in six is read back. -/
@[simp] theorem op38 (n : BitVec 1) : (28#5 ++ n : BitVec 6).extractLsb' 0 1 = n := field_low_all _ n

/-- A 32-bit immediate: its low byte stands in the body, the rest in the prefix (02 R52). -/
theorem imm32 (i : BitVec 32) :
    (i.extractLsb' 8 24 ++ (i.extractLsb' 3 5 ++ i.extractLsb' 0 3) : BitVec 32) = i := by
  rw [show i.extractLsb' 3 5 ++ i.extractLsb' 0 3 = i.extractLsb' 0 (5 + 3) from fields_join i 0 3 5]
  exact (fields_join i 0 8 24).trans BitVec.extractLsb'_eq_self


@[simp] theorem pfxOrd_scope (s : Scope) (o : Order) : (s.code ++ o.code ++ 0#18 : BitVec 24).extractLsb' 21 3 = s.code := by
  cases s <;> cases o <;> decide
@[simp] theorem pfxOrd_order (s : Scope) (o : Order) : (s.code ++ o.code ++ 0#18 : BitVec 24).extractLsb' 18 3 = o.code := by
  cases s <;> cases o <;> decide
@[simp] theorem pfxOrd_zero (s : Scope) (o : Order) : (s.code ++ o.code ++ 0#18 : BitVec 24).extractLsb' 0 18 = 0#18 := by
  cases s <;> cases o <;> decide

@[simp] theorem pfxExt_c (c e : BitVec 5) (n : BitVec 3) (x : BitVec 6) (o : BitVec 1) :
    ((c ++ e ++ n ++ x.extractLsb' 3 3) ++ (x.extractLsb' 0 3 ++ o ++ 0#4) : BitVec 24).extractLsb' 19 5 = c := by
  refine (field_high (c ++ e ++ n ++ x.extractLsb' 3 3) (x.extractLsb' 0 3 ++ o ++ 0#4) 19 5 (by decide)).trans ?_
  rw [field_high _ _ _ _ (by decide), field_high _ _ _ _ (by decide), field_high _ _ _ _ (by decide)]
  exact BitVec.extractLsb'_eq_self
@[simp] theorem pfxExt_e (c e : BitVec 5) (n : BitVec 3) (x : BitVec 6) (o : BitVec 1) :
    ((c ++ e ++ n ++ x.extractLsb' 3 3) ++ (x.extractLsb' 0 3 ++ o ++ 0#4) : BitVec 24).extractLsb' 14 5 = e := by
  refine (field_high (c ++ e ++ n ++ x.extractLsb' 3 3) (x.extractLsb' 0 3 ++ o ++ 0#4) 14 5 (by decide)).trans ?_
  rw [field_high _ _ _ _ (by decide), field_high _ _ _ _ (by decide)]
  exact field_low_all c e
@[simp] theorem pfxExt_n (c e : BitVec 5) (n : BitVec 3) (x : BitVec 6) (o : BitVec 1) :
    ((c ++ e ++ n ++ x.extractLsb' 3 3) ++ (x.extractLsb' 0 3 ++ o ++ 0#4) : BitVec 24).extractLsb' 11 3 = n := by
  refine (field_high (c ++ e ++ n ++ x.extractLsb' 3 3) (x.extractLsb' 0 3 ++ o ++ 0#4) 11 3 (by decide)).trans ?_
  rw [field_high _ _ _ _ (by decide)]
  exact field_low_all (c ++ e) n
@[simp] theorem pfxExt_o (c e : BitVec 5) (n : BitVec 3) (x : BitVec 6) (o : BitVec 1) :
    ((c ++ e ++ n ++ x.extractLsb' 3 3) ++ (x.extractLsb' 0 3 ++ o ++ 0#4) : BitVec 24).extractLsb' 4 1 = o := by
  refine (field_low (c ++ e ++ n ++ x.extractLsb' 3 3) (x.extractLsb' 0 3 ++ o ++ 0#4) 4 1 (by decide)).trans ?_
  rw [field_high _ _ _ _ (by decide)]
  exact field_low_all (x.extractLsb' 0 3) o
@[simp] theorem pfxExt_zero (c e : BitVec 5) (n : BitVec 3) (x : BitVec 6) (o : BitVec 1) :
    ((c ++ e ++ n ++ x.extractLsb' 3 3) ++ (x.extractLsb' 0 3 ++ o ++ 0#4) : BitVec 24).extractLsb' 0 4 = 0#4 :=
  (field_low (c ++ e ++ n ++ x.extractLsb' 3 3) (x.extractLsb' 0 3 ++ o ++ 0#4) 0 4 (by decide)).trans (field_low_all (x.extractLsb' 0 3 ++ o) 0#4)
@[simp] theorem pfxExt_x (c e : BitVec 5) (n : BitVec 3) (x : BitVec 6) (o : BitVec 1) :
    ((c ++ e ++ n ++ x.extractLsb' 3 3) ++ (x.extractLsb' 0 3 ++ o ++ 0#4) : BitVec 24).extractLsb' 5 6 = x := by
  apply BitVec.eq_of_getLsbD_eq
  intro i h
  simp only [BitVec.getLsbD_extractLsb', BitVec.getLsbD_append]
  interval_cases i <;> simp

theorem decExt_payload (c e : BitVec 5) (n : BitVec 3) (x : BitVec 6) (o : BitVec 1) (op : BitVec 6) (b a : BitVec 5) (f : BitVec 6)
    (d : BitVec 5) (m : BitVec 3) :
    decExt (c ++ e ++ n ++ x.extractLsb' 3 3 ++ (x.extractLsb' 0 3 ++ o ++ 0#4)) op b a f d m =
      decExtFields c e n x o 0#4 op b a f d m := by
  unfold decExt
  rw [pfxExt_c, pfxExt_e, pfxExt_n, pfxExt_x, pfxExt_o, pfxExt_zero]

@[simp] theorem ofBool_beq_one (g : Bool) : (BitVec.ofBool g == 1#1) = g := by cases g <;> rfl

@[simp] theorem Scope.ofCode_code (s : Scope) : Scope.ofCode s.code = some s := by cases s <;> rfl
@[simp] theorem Order.ofCode_code (o : Order) : Order.ofCode o.code = some o := by cases o <;> rfl
@[simp] theorem FFmt.ofCode_code (t : FFmt) : FFmt.ofCode t.code = some t := by cases t <;> rfl
@[simp] theorem Rm.ofCode_code (r : Rm) : Rm.ofCode r.code = some r := by cases r <;> rfl
@[simp] theorem NumTy.ofCode_code (t : NumTy) : NumTy.ofCode t.code = some t := by cases t <;> rfl
@[simp] theorem VKind.ofCode_code (k : VKind) : VKind.ofCode k.code = some k := by cases k <;> rfl
@[simp] theorem Sew.ofCode_code (w : Sew) : Sew.ofCode w.code = some w := by cases w <;> rfl

end Sys2Proof
end

