-- ==== Sys2Proof/Laws/Tables.lean ====
section
/-! SUPPORT. The laws of the sparse tables and of the byte memory: read after write, and the canonical form that every operation
keeps; and the columns of the SEC-DED code. -/

namespace Sys2Proof.Machine

open Sys2Proof

variable {α : Type} [DecidableEq α]

theorem NMap.wfFrom_le {d : α} {m : NMap α} {j k : Nat} (h : j ≤ k) (w : NMap.wfFrom d k m = true) : NMap.wfFrom d j m = true := by
  cases m with
  | nil => rfl
  | cons e r =>
    simp only [NMap.wfFrom, Bool.and_eq_true, decide_eq_true_eq] at w ⊢
    exact ⟨⟨by omega, w.1.2⟩, w.2⟩

/-- An entry written at or above the start keeps a table canonical. -/
theorem NMap.wfFrom_set {d : α} {m : NMap α} {j k : Nat} {v : α} (h : j ≤ k) (w : NMap.wfFrom d j m = true) :
    NMap.wfFrom d j (NMap.set d m k v) = true := by
  induction m generalizing j with
  | nil =>
    unfold NMap.set
    split
    · rfl
    · simp [NMap.wfFrom, *]
  | cons e r ih =>
    obtain ⟨i, x⟩ := e
    simp only [NMap.wfFrom, Bool.and_eq_true, decide_eq_true_eq] at w
    obtain ⟨⟨h1, h2⟩, h3⟩ := w
    unfold NMap.set
    split
    · split
      · simp only [NMap.wfFrom, Bool.and_eq_true, decide_eq_true_eq]
        exact ⟨⟨h1, h2⟩, h3⟩
      · rename_i hk hv
        simp only [NMap.wfFrom, Bool.and_eq_true, decide_eq_true_eq, Bool.not_eq_true', decide_eq_false_iff_not] at *
        exact ⟨⟨h, hv⟩, ⟨by omega, h2⟩, h3⟩
    · split
      · split
        · exact NMap.wfFrom_le (by omega) h3
        · rename_i hv
          simp only [NMap.wfFrom, Bool.and_eq_true, decide_eq_true_eq, Bool.not_eq_true', decide_eq_false_iff_not] at *
          exact ⟨⟨h1, hv⟩, h3⟩
      · simp only [NMap.wfFrom, Bool.and_eq_true, decide_eq_true_eq]
        exact ⟨⟨h1, h2⟩, ih (by omega) h3⟩

theorem NMap.wf_set {d : α} {m : NMap α} (k : Nat) (v : α) (w : NMap.wf d m = true) : NMap.wf d (NMap.set d m k v) = true :=
  NMap.wfFrom_set (Nat.zero_le k) w

theorem NMap.wfFrom_filter {d : α} {m : NMap α} {j : Nat} (p : Nat × α → Bool) (w : NMap.wfFrom d j m = true) :
    NMap.wfFrom d j (m.filter p) = true := by
  induction m generalizing j with
  | nil => rfl
  | cons e r ih =>
    simp only [NMap.wfFrom, Bool.and_eq_true, decide_eq_true_eq] at w
    rw [List.filter_cons]
    split
    · simp only [NMap.wfFrom, Bool.and_eq_true, decide_eq_true_eq]
      exact ⟨w.1, ih w.2⟩
    · exact NMap.wfFrom_le (by omega) (ih w.2)

theorem NMap.wf_dropWhere {d : α} {m : NMap α} (p : Nat → Bool) (w : NMap.wf d m = true) : NMap.wf d (NMap.dropWhere p m) = true :=
  NMap.wfFrom_filter _ w

theorem NMap.get_below {d : α} {m : NMap α} {j k : Nat} (h : k < j) (w : NMap.wfFrom d j m = true) : NMap.get d m k = d := by
  cases m with
  | nil => rfl
  | cons e r =>
    simp only [NMap.wfFrom, Bool.and_eq_true, decide_eq_true_eq] at w
    unfold NMap.get
    rw [if_pos (by omega)]

/-- Reading a key gives what was written last there. -/
theorem NMap.get_set_same {d : α} {m : NMap α} {j : Nat} (k : Nat) (v : α) (w : NMap.wfFrom d j m = true) :
    NMap.get d (NMap.set d m k v) k = v := by
  induction m generalizing j with
  | nil =>
    unfold NMap.set
    split
    · simp [NMap.get, *]
    · simp [NMap.get]
  | cons e r ih =>
    obtain ⟨i, x⟩ := e
    simp only [NMap.wfFrom, Bool.and_eq_true, decide_eq_true_eq] at w
    obtain ⟨⟨h1, h2⟩, h3⟩ := w
    unfold NMap.set
    split
    · split
      · rename_i hk hv
        simp [NMap.get, hk, hv]
      · simp [NMap.get]
    · split
      · split
        · rename_i hk he hv
          subst he
          rw [hv]
          exact NMap.get_below (Nat.lt_succ_self k) h3
        · rename_i hk he hv
          simp [NMap.get, he]
      · rename_i hk he
        simp only [NMap.get, if_neg hk, if_neg he]
        exact ih h3

/-- Every other key keeps its value. -/
theorem NMap.get_set_other {d : α} {m : NMap α} {j k l : Nat} {v : α} (h : l ≠ k) (w : NMap.wfFrom d j m = true) :
    NMap.get d (NMap.set d m k v) l = NMap.get d m l := by
  induction m generalizing j with
  | nil =>
    unfold NMap.set
    split
    · rfl
    · simp only [NMap.get]
      rw [if_neg h]; split <;> rfl
  | cons e r ih =>
    obtain ⟨i, x⟩ := e
    simp only [NMap.wfFrom, Bool.and_eq_true, decide_eq_true_eq] at w
    obtain ⟨⟨h1, h2⟩, h3⟩ := w
    unfold NMap.set
    split
    · split
      · rfl
      · rename_i hk hv
        simp only [NMap.get]
        by_cases a : l < k
        · rw [if_pos a, if_pos (by omega)]
        · rw [if_neg a, if_neg h]
    · split
      · rename_i hk he
        subst he
        split
        · simp only [NMap.get, if_neg h]
          by_cases a : l < k
          · rw [if_pos a]
            exact NMap.get_below (by omega) h3
          · rw [if_neg a]
        · simp only [NMap.get, if_neg h]
      · simp only [NMap.get]
        rw [ih h3]

/-- A table rebuilt entry by entry through a function that keeps the default: each key has the function of what it had. -/
theorem NMap.get_rebuild {d : α} {m : NMap α} {g : α → α} (hg : g d = d) (w : NMap.wf d m = true) (k : Nat) :
    NMap.get d (m.foldl (fun r e => NMap.set d r e.1 (g e.2)) []) k = g (NMap.get d m k) := by
  have H : ∀ (m : NMap α) (j : Nat) (r : NMap α), NMap.wfFrom d j m = true → NMap.wf d r = true →
      (∀ i, j ≤ i → NMap.get d r i = d) →
      NMap.get d (m.foldl (fun r e => NMap.set d r e.1 (g e.2)) r) k = if j ≤ k then g (NMap.get d m k) else NMap.get d r k := by
    intro m
    induction m with
    | nil =>
      intro j r _ _ h
      by_cases hk : j ≤ k
      · simp [hk, NMap.get, hg, h k hk]
      · simp [hk]
    | cons e m ih =>
      obtain ⟨i, v⟩ := e
      intro j r hw hr h
      simp only [NMap.wfFrom, Bool.and_eq_true, decide_eq_true_eq] at hw
      rw [List.foldl_cons, ih (i + 1) _ hw.2 (NMap.wf_set _ _ hr) fun l hl => by
        rw [NMap.get_set_other (by omega) hr]; exact h l (by omega)]
      rw [show NMap.get d ((i, v) :: m) k = if k < i then d else if k = i then v else NMap.get d m k from rfl]
      by_cases h1 : i + 1 ≤ k
      · rw [if_pos h1, if_pos (by omega), if_neg (by omega), if_neg (by omega)]
      · rw [if_neg h1]
        by_cases h2 : k = i
        · subst h2; rw [if_pos hw.1.1, if_neg (by omega), if_pos rfl]; exact NMap.get_set_same _ _ hr
        · rw [NMap.get_set_other h2 hr, if_pos (by omega : k < i), hg]
          by_cases h3 : j ≤ k
          · rw [if_pos h3]; exact h k h3
          · rw [if_neg h3]
  simpa [NMap.get] using H m 0 [] w rfl fun _ _ => rfl

theorem Memory.wf_setByte {m : Memory} (k : Nat) (v : Byte) (w : m.wf = true) : (m.setByte k v).wf = true := NMap.wf_set k v w

theorem Memory.wf_setBytes {m : Memory} (k : Nat) (bs : List Byte) (w : m.wf = true) : (m.setBytes k bs).wf = true := by
  induction bs generalizing m k with
  | nil => exact w
  | cons b r ih => exact ih (k + 1) (Memory.wf_setByte k b w)

theorem Memory.wf_clear {m : Memory} (k n : Nat) (w : m.wf = true) : (m.clear k n).wf = true := NMap.wfFrom_filter _ w

theorem Memory.byte_setByte_same {m : Memory} (k : Nat) (v : Byte) (w : m.wf = true) : (m.setByte k v).byte k = v :=
  NMap.get_set_same k v w

theorem Memory.byte_setByte_other {m : Memory} {k l : Nat} {v : Byte} (h : l ≠ k) (w : m.wf = true) :
    (m.setByte k v).byte l = m.byte l := NMap.get_set_other h w

/-- A byte outside the bytes written keeps its value. -/
theorem Memory.byte_setBytes_outside {m : Memory} {k l : Nat} {bs : List Byte} (h : l < k ∨ k + bs.length ≤ l)
    (w : m.wf = true) : (m.setBytes k bs).byte l = m.byte l := by
  induction bs generalizing m k with
  | nil => rfl
  | cons b r ih =>
    simp only [List.length_cons] at h
    unfold Memory.setBytes
    rw [ih (by omega) (Memory.wf_setByte k b w), Memory.byte_setByte_other (by omega) w]

/-- A byte inside the bytes written is the one written there. -/
theorem Memory.byte_setBytes_inside {m : Memory} {k i : Nat} {bs : List Byte} (h : i < bs.length) (w : m.wf = true) :
    (m.setBytes k bs).byte (k + i) = bs[i] := by
  induction bs generalizing m k i with
  | nil => simp at h
  | cons b r ih =>
    unfold Memory.setBytes
    cases i with
    | zero =>
      have := Memory.byte_setBytes_outside (bs := r) (Or.inl (Nat.lt_succ_self k)) (Memory.wf_setByte k b w)
      exact this.trans (Memory.byte_setByte_same k b w)
    | succ i =>
      have := ih (m := m.setByte k b) (k := k + 1) (i := i) (by simpa using h) (Memory.wf_setByte k b w)
      rw [show k + (i + 1) = k + 1 + i by omega, this]
      simp

/-- Bytes read in two runs. -/
theorem Memory.bytes_append (m : Memory) (k a b : Nat) : m.bytes k (a + b) = m.bytes k a ++ m.bytes (k + a) b := by
  induction a generalizing k with
  | zero => simp [Memory.bytes]
  | succ a ih =>
    rw [show a + 1 + b = (a + b) + 1 by omega, Memory.bytes, Memory.bytes, ih, List.cons_append,
      show k + 1 + a = k + (a + 1) by omega]

@[simp] theorem Memory.bytes_length (m : Memory) (k n : Nat) : (m.bytes k n).length = n := by
  induction n generalizing k with
  | zero => rfl
  | succ n ih => simp [Memory.bytes, ih]

theorem Memory.bytes_get (m : Memory) (k n i : Nat) (h : i < (m.bytes k n).length) : (m.bytes k n)[i] = m.byte (k + i) := by
  induction n generalizing k i with
  | zero => simp [Memory.bytes] at h
  | succ n ih =>
    cases i with
    | zero => rfl
    | succ i =>
      simp only [Memory.bytes, List.getElem_cons_succ]
      rw [ih (k + 1) i (by simpa [Memory.bytes] using h), show k + 1 + i = k + (i + 1) by omega]

/-- Bytes read back are the bytes written. -/
theorem Memory.bytes_setBytes {m : Memory} (k : Nat) (bs : List Byte) (w : m.wf = true) :
    (m.setBytes k bs).bytes k bs.length = bs := by
  induction bs generalizing m k with
  | nil => rfl
  | cons b r ih =>
    simp only [List.length_cons, Memory.bytes]
    rw [show (m.setBytes k (b :: r)) = (m.setByte k b).setBytes (k + 1) r from rfl]
    rw [ih (k + 1) (Memory.wf_setByte k b w), Memory.byte_setBytes_outside (Or.inl (Nat.lt_succ_self k)) (Memory.wf_setByte k b w),
      Memory.byte_setByte_same k b w]

@[simp] theorem natLe_length (v n : Nat) : (natLe v n).length = n := by
  induction n generalizing v with
  | zero => rfl
  | succ n ih => simp [natLe, ih]

/-- A number written and read in byte order comes back modulo its width. -/
theorem leNat_natLe (v n : Nat) : leNat (natLe v n) = v % 256 ^ n := by
  induction n generalizing v with
  | zero => simp [natLe, leNat, Nat.mod_one]
  | succ n ih =>
    have h : (BitVec.ofNat 8 v).toNat = v % 256 := by simp
    simp only [natLe, leNat, ih, h]
    rw [Nat.pow_succ, Nat.mul_comm (256 ^ n), Nat.mod_mul]

/-- Bytes written in two runs. -/
theorem Memory.setBytes_append (m : Memory) (k : Nat) (a b : List Byte) :
    m.setBytes k (a ++ b) = (m.setBytes k a).setBytes (k + a.length) b := by
  induction a generalizing m k with
  | nil => rfl
  | cons x a ih =>
    rw [List.cons_append, Memory.setBytes, Memory.setBytes, ih, List.length_cons, show k + 1 + a.length = k + (a.length + 1) by omega]

theorem natLe_get (v n : Nat) {i : Nat} (h : i < (natLe v n).length) : (natLe v n)[i] = BitVec.ofNat 8 (v / 256 ^ i) := by
  induction n generalizing v i with
  | zero => simp [natLe] at h
  | succ n ih =>
    cases i with
    | zero => simp [natLe]
    | succ i =>
      simp only [natLe, List.getElem_cons_succ]
      rw [ih (v / 256) (by simpa [natLe] using h), Nat.div_div_eq_div_mul, Nat.pow_succ, Nat.mul_comm 256]

/-! ### The columns of the SEC-DED code (12 R354) -/

theorem checkPatterns_nodup : Config.checkPatterns.Nodup := by decide +kernel

theorem checkPatterns_length : Config.checkPatterns.length = 246 := by decide +kernel

/-- The columns chosen and the patterns left are the patterns there are. -/
theorem checkColumns_perm : ∀ n, n ≤ 64 →
    ((Config.checkColumns n).1 ++ (Config.checkColumns n).2).Perm Config.checkPatterns ∧ (Config.checkColumns n).1.length = n
  | 0, _ => ⟨List.Perm.refl _, rfl⟩
  | n + 1, h => by
    obtain ⟨p, l⟩ := checkColumns_perm n (by omega)
    have z := p.length_eq
    rw [List.length_append, l, checkPatterns_length] at z
    have k : Config.checkChoice n % (Config.checkColumns n).2.length < (Config.checkColumns n).2.length := Nat.mod_lt _ (by omega)
    have m : (Config.checkColumns n).2.getD (Config.checkChoice n % (Config.checkColumns n).2.length) 0 ∈ (Config.checkColumns n).2 := by
      rw [List.getD_eq_getElem _ _ k]
      exact List.getElem_mem k
    refine ⟨?_, by simp [Config.checkColumns, l]⟩
    have q := ((List.perm_cons_erase m).append_left (Config.checkColumns n).1).symm
    exact (List.perm_middle.symm.trans q).trans p

theorem checkColumn_mem : ∀ n, ∀ b < n, Config.checkColumn b ∈ (Config.checkColumns n).1
  | 0, b, h => absurd h (by omega)
  | n + 1, b, h => by
    by_cases e : b = n
    · subst e
      exact List.mem_cons_self
    · exact List.mem_cons_of_mem _ (checkColumn_mem n b (by omega))

/-- The columns of two data bits differ, and each is a pattern that neither zero nor a single check bit has. -/
theorem checkColumn_distinct {a b : Nat} (ha : a < b) (hb : b < 64) : Config.checkColumn a ≠ Config.checkColumn b := by
  have d := (checkColumns_perm (b + 1) (by omega)).1.symm.nodup checkPatterns_nodup
  have n := (List.nodup_append.mp d).1
  intro e
  have m := checkColumn_mem b a ha
  rw [e] at m
  exact (List.nodup_cons.mp n).1 m

theorem checkColumn_pattern {b : Nat} (h : b < 64) : Config.checkColumn b ∈ Config.checkPatterns :=
  (checkColumns_perm (b + 1) (by omega)).1.subset (List.mem_append_left _ (checkColumn_mem (b + 1) b (by omega)))

end Sys2Proof.Machine
end

