-- ==== Sys2Proof/Laws/Registers.lean ====
section
/-! SUPPORT. The laws of the registers reached by address, and of memory that is wiped. -/

namespace Sys2Proof.Machine

open Sys2Proof

theorem State.canonical_fw {s : State} (h : s.canonical = true) : NMap.wf 0 s.fw = true := by
  simp only [State.canonical, Bool.and_eq_true] at h; exact h.2

theorem State.canonical_mem {s : State} (h : s.canonical = true) : s.mem.wf = true := by
  simp only [State.canonical, Bool.and_eq_true] at h; exact h.1.1.1.1

theorem State.canonical_wr {s : State} (h : s.canonical = true) (r : Nat) (v : Word) : (s.wr r v).canonical = true := by
  simp only [State.canonical, Bool.and_eq_true] at h ⊢
  exact ⟨h.1, NMap.wf_set _ _ h.2⟩

theorem State.rd_congr {s t : State} (h : t.fw = s.fw) (r : Nat) : t.rd r = s.rd r := by unfold State.rd; rw [h]

/-- A register reads back what was written last to it. -/
theorem State.rd_wr_same {s : State} (h : NMap.wf 0 s.fw = true) (r : Nat) (v : Word) : (s.wr r v).rd r = v := by
  show NMap.get 0 (NMap.set 0 s.fw (r / 8) (v ^^^ fwReset r)) (r / 8) ^^^ fwReset r = v
  rw [NMap.get_set_same (j := 0) _ _ h, BitVec.xor_assoc, BitVec.xor_self, BitVec.xor_zero]

/-- A register keeps its value through a write of another. -/
theorem State.rd_wr_other {s : State} (h : NMap.wf 0 s.fw = true) {r q : Nat} (v : Word) (n : q / 8 ≠ r / 8) :
    (s.wr r v).rd q = s.rd q := by
  show NMap.get 0 (NMap.set 0 s.fw (r / 8) _) (q / 8) ^^^ _ = NMap.get 0 s.fw (q / 8) ^^^ _
  rw [NMap.get_set_other (j := 0) n h]

theorem regBecomes_wr {s : State} (h : NMap.wf 0 s.fw = true) (r : Nat) (v : Word) : RegBecomes s (s.wr r v) r v :=
  ⟨rfl, State.rd_wr_same h r v, fun _ n => State.rd_wr_other h v n⟩

theorem setsReg_wr {i : Instr} {s u : State} (h : NMap.wf 0 u.fw = true) {r : Nat} {v w : Word} (e : exec i s = .next (u.wr r v))
    (hv : v = w) : SetsReg i s u r w := ⟨_, e, hv ▸ regBecomes_wr h r v⟩

theorem regsBecome_wr {s : State} (h : NMap.wf 0 s.fw = true) (r : Nat) (v : Word) (q : Nat) (w : Word) (n : r / 8 ≠ q / 8) :
    RegsBecome s ((s.wr r v).wr q w) r v q w := by
  have h1 : NMap.wf 0 (s.wr r v).fw = true := NMap.wf_set _ _ h
  refine ⟨rfl, ?_, State.rd_wr_same h1 q w, fun p a b => ?_⟩
  · rw [State.rd_wr_other h1 w n, State.rd_wr_same h r v]
  · rw [State.rd_wr_other h1 w b, State.rd_wr_other h v a]

theorem NMap.set_set {α : Type} [DecidableEq α] {d : α} {m : NMap α} {j : Nat} (k : Nat) (v w : α) (h : NMap.wfFrom d j m = true) :
    NMap.set d (NMap.set d m k v) k w = NMap.set d m k w := by
  induction m generalizing j with
  | nil =>
    by_cases hv : v = d
    · simp [NMap.set, hv]
    · by_cases hw : w = d <;> simp [NMap.set, hv, hw]
  | cons e r ih =>
    obtain ⟨i, x⟩ := e
    simp only [NMap.wfFrom, Bool.and_eq_true, decide_eq_true_eq] at h
    obtain ⟨⟨h1, h2⟩, h3⟩ := h
    by_cases hk : k < i
    · by_cases hv : v = d
      · simp [NMap.set, hk, hv]
      · by_cases hw : w = d <;> simp [NMap.set, hk, hv, hw]
    · by_cases he : k = i
      · subst he
        by_cases hv : v = d
        · simp only [NMap.set, hv, if_true, if_neg hk]
          cases r with
          | nil => by_cases hw : w = d <;> simp [NMap.set, hw]
          | cons f r =>
            obtain ⟨a, b⟩ := f
            simp only [NMap.wfFrom, Bool.and_eq_true, decide_eq_true_eq] at h3
            have : k < a := by omega
            by_cases hw : w = d <;> simp [NMap.set, hw, this]
        · simp [NMap.set, hv]
      · simp only [NMap.set, hk, he, if_false]
        rw [ih h3]

theorem State.wr_wr {s : State} (h : NMap.wf 0 s.fw = true) (r : Nat) (v w : Word) : (s.wr r v).wr r w = s.wr r w := by
  unfold State.wr; simp only; rw [NMap.set_set (j := 0) _ _ _ h]

theorem State.onStrand_wr (s : State) (r : Nat) (v : Word) (t : Tid) (f : Strand → Strand) :
    (s.wr r v).onStrand t f = (s.onStrand t f).wr r v := by
  by_cases h : t = s.tid <;> simp only [State.onStrand, State.setStrand, State.strand, State.wr, h, if_true, if_false]

theorem State.onStrand_fw (s : State) (t : Tid) (f : Strand → Strand) : (s.onStrand t f).fw = s.fw := by
  unfold State.onStrand State.setStrand; split <;> rfl

theorem State.insertPrio_congr (s u : State) (h : ∀ t, s.prioOf t = u.prioOf t) (t : Tid) (l : List Tid) :
    s.insertPrio t l = u.insertPrio t l := by
  induction l with
  | nil => rfl
  | cons a r ih => unfold State.insertPrio; rw [h, h, ih]

/-- A register write does not change the order of the allocator's candidates. -/
theorem State.firstUnmarked_wr (s : State) (r : Nat) (v : Word) (c : Nat) : (s.wr r v).firstUnmarked c = s.firstUnmarked c := by
  unfold State.firstUnmarked State.requests
  have h : ∀ t l, (s.wr r v).insertPrio t l = s.insertPrio t l :=
    fun t l => State.insertPrio_congr (s.wr r v) s (fun _ => rfl) t l
  simp only [h]
  rfl

/-! ### Error records -/

/-- A record changes registers and the event queue only. -/
theorem ringRecord_shape (s : State) (ring head tail : Nat) (r : ErrRec) :
    ∃ m, (s.ringRecord ring head tail r).1 = { s with fw := m } := by
  unfold State.ringRecord
  simp only
  split <;> exact ⟨_, rfl⟩

theorem logDie_shape (s : State) (d : Nat) (r : ErrRec) :
    ∃ m ev, s.logDie d r = { s with fw := m, sys := { s.sys with events := ev } } := by
  obtain ⟨m, h⟩ := ringRecord_shape s (dieBlock d + 0x1000) (rDloghead d) (rDlogtail d) r
  unfold State.logDie
  simp only
  split <;> rw [h] <;> exact ⟨_, _, rfl⟩

theorem logCluster_shape (s : State) (c : Nat) (r : ErrRec) :
    ∃ m ev, s.logCluster c r = { s with fw := m, sys := { s.sys with events := ev } } := by
  obtain ⟨m, h⟩ := ringRecord_shape s (allocBlock c + 0x800) (rEloghead c) (rElogtail c) r
  unfold State.logCluster
  simp only
  split <;> rw [h] <;> exact ⟨_, _, rfl⟩

/-! ### Bits of register words -/

theorem bitOf_eq (w : Word) (k : Nat) : bitOf w k = w.getLsbD k := rfl

/-- A field replaced, bit by bit. -/
theorem getLsbD_setFld (w : Word) (lo len v i : Nat) :
    (setFld w lo len v).getLsbD i = (decide (i < 64) && if lo ≤ i ∧ i < lo + len then v.testBit (i - lo) else w.getLsbD i) := by
  by_cases hi : i < 64
  · have hm : (((2 ^ len - 1) <<< lo).testBit i) = decide (lo ≤ i ∧ i < lo + len) := by
      rw [Nat.testBit_shiftLeft, Nat.testBit_two_pow_sub_one]
      by_cases h1 : lo ≤ i <;> by_cases h2 : i < lo + len <;> simp [h1, h2] <;> omega
    have hv : ((v <<< lo).testBit i) = (decide (lo ≤ i) && v.testBit (i - lo)) := by rw [Nat.testBit_shiftLeft]
    simp only [setFld, BitVec.getLsbD_or, BitVec.getLsbD_and, BitVec.getLsbD_not, BitVec.getLsbD_ofNat, hi, hm, hv, decide_true,
      Bool.true_and]
    by_cases h : lo ≤ i ∧ i < lo + len
    · simp [h]
    · simp [h]
  · simp [hi, BitVec.getLsbD_of_ge _ _ (Nat.le_of_not_lt hi)]

theorem getLsbD_setBit (w : Word) (k i : Nat) (b : Bool) :
    (setBit w k b).getLsbD i = (decide (i < 64) && if i = k then b else w.getLsbD i) := by
  unfold setBit
  rw [getLsbD_setFld]
  by_cases h : i = k
  · subst h; cases b <;> simp
  · rw [if_neg (by omega), if_neg h]

/-- A field read, bit by bit. -/
theorem testBit_fld (w : Word) (lo len i : Nat) : (fld w lo len).testBit i = (decide (i < len) && w.getLsbD (lo + i)) := by
  unfold fld
  rw [Nat.testBit_mod_two_pow, Nat.testBit_shiftRight]
  rfl

/-! ### Memory wiped -/

theorem NMap.get_filter_drop {α : Type} [DecidableEq α] {d : α} {m : NMap α} {j : Nat} (p : Nat × α → Bool) (q : Nat → Bool)
    (hp : ∀ e, p e = q e.1) (k : Nat) (w : NMap.wfFrom d j m = true) :
    NMap.get d (m.filter p) k = if q k then NMap.get d m k else d := by
  induction m generalizing j with
  | nil => simp [NMap.get]
  | cons e r ih =>
    obtain ⟨i, x⟩ := e
    simp only [NMap.wfFrom, Bool.and_eq_true, decide_eq_true_eq] at w
    obtain ⟨⟨h1, h2⟩, h3⟩ := w
    have hr := ih h3
    rw [List.filter_cons, hp]
    by_cases hq : q i = true
    · simp only [hq, if_true, NMap.get]
      rw [hr]
      by_cases h4 : k < i
      · simp [h4]
      · by_cases h5 : k = i
        · subst h5; simp [hq]
        · simp [h4, h5]
    · simp only [hq, NMap.get]
      rw [if_neg (by simp), hr]
      by_cases h4 : k < i
      · rw [if_pos h4, NMap.get_below (by omega : k < i + 1) h3]
      · by_cases h5 : k = i
        · subst h5; simp [hq]
        · simp [h4, h5]

theorem Memory.byte_clear (m : Memory) (p n k : Nat) (w : m.wf = true) :
    (m.clear p n).byte k = if p ≤ k ∧ k < p + n then 0 else m.byte k := by
  unfold Memory.clear Memory.byte
  rw [NMap.get_filter_drop (j := 0) _ (fun a => !(decide (p ≤ a) && decide (a < p + n))) (fun _ => rfl) k w]
  by_cases h : p ≤ k ∧ k < p + n
  · simp [h]; rfl
  · rw [if_neg h, if_pos]
    simp only [Bool.not_eq_true', Bool.and_eq_false_iff, decide_eq_false_iff_not]
    omega

end Sys2Proof.Machine
end

