-- ==== Sys2Proof/Laws/Events.lean ====
section
/-! SUPPORT. What the shared operations of the events do: contexts changed and follow-up steps added. -/

namespace Sys2Proof.Machine

open Sys2Proof

@[simp] theorem State.strand_self (s : State) : s.strand s.tid = s.me := by simp [State.strand]

@[simp] theorem State.focus_self (s : State) : s.focus s.tid = s := by simp [State.focus]

theorem State.onStrand_self (s : State) (f : Strand → Strand) : s.onStrand s.tid f = { s with me := f s.me } := by
  simp [State.onStrand, State.setStrand]

theorem State.within_self (s : State) (f : State → State) (h : (f s).tid = s.tid) : s.within s.tid f = f s := by
  unfold State.within
  rw [State.focus_self, ← h, State.focus_self]

theorem State.onStrand_agenda (s : State) (t : Tid) (f : Strand → Strand) : (s.onStrand t f).agenda = s.agenda := by
  unfold State.onStrand State.setStrand; split <;> rfl

/-- A follow-up step added after a context has changed. -/
theorem push_onStrand (s : State) (t : Tid) (f : Strand → Strand) (e : Event) :
    (s.onStrand t f).push e = { s.onStrand t f with agenda := s.agenda ++ [e] } := by
  unfold State.push
  rw [State.onStrand_agenda]

/-- A list entry modified is that entry replaced. -/
theorem modify_set {α : Type} {l : List α} {n : Nat} {q : α} {f : α → α} (h : l[n]? = some q) : l.modify n f = l.set n (f q) := by
  induction l generalizing n with
  | nil => simp at h
  | cons a r ih =>
    cases n with
    | zero => simp at h; subst h; rfl
    | succ n => simp at h; rw [List.modify_succ_cons, List.set_cons_succ, ih h]

/-- `s` with nothing changed but steps added to the agenda. -/
def Pushed (s t : State) : Prop := ∃ es, t = { s with agenda := s.agenda ++ es }

theorem Pushed.refl (s : State) : Pushed s s := ⟨[], by simp⟩

theorem Pushed.push (s : State) (e : Event) : Pushed s (s.push e) := ⟨[e], rfl⟩

theorem Pushed.trans {s t u : State} (h : Pushed s t) (k : Pushed t u) : Pushed s u := by
  obtain ⟨a, rfl⟩ := h
  obtain ⟨b, rfl⟩ := k
  exact ⟨a ++ b, by simp⟩

/-- The follow-up steps of a strand's progress change nothing else. -/
theorem pushed_nudge (s : State) (t : Tid) : Pushed s (s.nudge t) := by
  unfold State.nudge
  have p : ∀ (c : Prop) [Decidable c] (u : State) (e : Event), Pushed u (if c then u.push e else u) := by
    intro c _ u e; split
    · exact Pushed.push u e
    · exact Pushed.refl u
  simp only
  refine (p ((s.strand t).triggerDue = true) s (.triggerMarkCount t)).trans ?_
  generalize (if (s.strand t).triggerDue = true then s.push (.triggerMarkCount t) else s) = a
  refine (p ((s.strand t).sendReady t = true) a (.sendDepart t)).trans ?_
  generalize (if (s.strand t).sendReady t = true then a.push (.sendDepart t) else a) = b
  split
  · exact Pushed.push _ _
  · split
    · exact Pushed.push _ _
    · exact Pushed.refl _

/-- Where issued work is taken step by step, a queue that goes on changes nothing but the agenda. -/
theorem pushed_resumeQueue_steps (s : State) (t : Tid) (h : s.eager = false) : Pushed s (s.resumeQueue t) := by
  unfold State.resumeQueue
  rw [if_neg (by simp [h])]
  exact Pushed.trans ⟨_, rfl⟩ (pushed_nudge _ _)

/-- The empty queue of the strand in focus goes on without any change but to the agenda. -/
theorem pushed_resumeQueue_empty (s : State) (hq : s.me.queue = []) : Pushed s (s.resumeQueue s.tid) := by
  unfold State.resumeQueue
  split
  · unfold State.pump
    rw [State.within_self]
    · unfold State.pumpFocus; simp [hq]; exact Pushed.refl s
    · unfold State.pumpFocus; simp [hq]
  · exact Pushed.trans ⟨_, rfl⟩ (pushed_nudge _ _)

theorem pushed_resumeSave (s : State) (t : Tid) : Pushed s (s.resumeSave t) := by
  unfold State.resumeSave
  split
  · exact Pushed.push _ _
  · exact Pushed.refl _

/-- Where issued work is taken step by step, a context that goes on changes nothing but the agenda. -/
theorem pushed_goOn_steps (s : State) (t : Tid) (h : s.eager = false) : Pushed s (s.goOn t) :=
  ((pushed_resumeQueue_steps s t h).trans (pushed_nudge _ t)).trans (pushed_resumeSave _ t)

theorem Pushed.tid {s t : State} (h : Pushed s t) : t.tid = s.tid := by
  obtain ⟨es, rfl⟩ := h
  rfl

/-- The strand in focus goes on with an empty queue without any change but to the agenda. -/
theorem pushed_goOn_empty (s : State) (hq : s.me.queue = []) : Pushed s (s.goOn s.tid) :=
  ((pushed_resumeQueue_empty s hq).trans (pushed_nudge _ s.tid)).trans (pushed_resumeSave _ s.tid)

end Sys2Proof.Machine
end

