-- ==== Sys2Proof/Laws/State.lean ====
section
/-! SUPPORT. One lemma for each field and each named update of the state, true by unfolding. -/

namespace Sys2Proof.Machine

open Sys2Proof

@[simp] theorem State.onMe_tid (s : State) (f : Strand → Strand) : (s.onMe f).tid = s.tid := rfl
@[simp] theorem State.onMe_me (s : State) (f : Strand → Strand) : (s.onMe f).me = f s.me := rfl
@[simp] theorem State.onMe_others (s : State) (f : Strand → Strand) : (s.onMe f).others = s.others := rfl
@[simp] theorem State.onMe_mem (s : State) (f : Strand → Strand) : (s.onMe f).mem = s.mem := rfl
@[simp] theorem State.onMe_poison (s : State) (f : Strand → Strand) : (s.onMe f).poison = s.poison := rfl
@[simp] theorem State.onMe_synd (s : State) (f : Strand → Strand) : (s.onMe f).synd = s.synd := rfl
@[simp] theorem State.onMe_lineKey (s : State) (f : Strand → Strand) : (s.onMe f).lineKey = s.lineKey := rfl
@[simp] theorem State.onMe_fw (s : State) (f : Strand → Strand) : (s.onMe f).fw = s.fw := rfl
@[simp] theorem State.onMe_clusters (s : State) (f : Strand → Strand) : (s.onMe f).clusters = s.clusters := rfl
@[simp] theorem State.onMe_cores (s : State) (f : Strand → Strand) : (s.onMe f).cores = s.cores := rfl
@[simp] theorem State.onMe_sys (s : State) (f : Strand → Strand) : (s.onMe f).sys = s.sys := rfl
@[simp] theorem State.onMe_net (s : State) (f : Strand → Strand) : (s.onMe f).net = s.net := rfl
@[simp] theorem State.onMe_time (s : State) (f : Strand → Strand) : (s.onMe f).time = s.time := rfl
@[simp] theorem State.onMe_cycle (s : State) (f : Strand → Strand) : (s.onMe f).cycle = s.cycle := rfl
@[simp] theorem State.onMe_agenda (s : State) (f : Strand → Strand) : (s.onMe f).agenda = s.agenda := rfl
@[simp] theorem State.onMe_ir (s : State) (f : Strand → Strand) : (s.onMe f).ir = s.ir := rfl
@[simp] theorem State.onMe_eager (s : State) (f : Strand → Strand) : (s.onMe f).eager = s.eager := rfl
@[simp] theorem State.onMe_fresh (s : State) (f : Strand → Strand) : (s.onMe f).fresh = s.fresh := rfl

@[simp] theorem State.onCtl_tid (s : State) (f : Ctl → Ctl) : (s.onCtl f).tid = s.tid := rfl
@[simp] theorem State.onCtl_me (s : State) (f : Ctl → Ctl) : (s.onCtl f).me = { s.me with ctl := f s.me.ctl } := rfl
@[simp] theorem State.onCtl_others (s : State) (f : Ctl → Ctl) : (s.onCtl f).others = s.others := rfl
@[simp] theorem State.onCtl_mem (s : State) (f : Ctl → Ctl) : (s.onCtl f).mem = s.mem := rfl
@[simp] theorem State.onCtl_poison (s : State) (f : Ctl → Ctl) : (s.onCtl f).poison = s.poison := rfl
@[simp] theorem State.onCtl_synd (s : State) (f : Ctl → Ctl) : (s.onCtl f).synd = s.synd := rfl
@[simp] theorem State.onCtl_lineKey (s : State) (f : Ctl → Ctl) : (s.onCtl f).lineKey = s.lineKey := rfl
@[simp] theorem State.onCtl_fw (s : State) (f : Ctl → Ctl) : (s.onCtl f).fw = s.fw := rfl
@[simp] theorem State.onCtl_clusters (s : State) (f : Ctl → Ctl) : (s.onCtl f).clusters = s.clusters := rfl
@[simp] theorem State.onCtl_cores (s : State) (f : Ctl → Ctl) : (s.onCtl f).cores = s.cores := rfl
@[simp] theorem State.onCtl_sys (s : State) (f : Ctl → Ctl) : (s.onCtl f).sys = s.sys := rfl
@[simp] theorem State.onCtl_net (s : State) (f : Ctl → Ctl) : (s.onCtl f).net = s.net := rfl
@[simp] theorem State.onCtl_time (s : State) (f : Ctl → Ctl) : (s.onCtl f).time = s.time := rfl
@[simp] theorem State.onCtl_cycle (s : State) (f : Ctl → Ctl) : (s.onCtl f).cycle = s.cycle := rfl
@[simp] theorem State.onCtl_agenda (s : State) (f : Ctl → Ctl) : (s.onCtl f).agenda = s.agenda := rfl
@[simp] theorem State.onCtl_ir (s : State) (f : Ctl → Ctl) : (s.onCtl f).ir = s.ir := rfl
@[simp] theorem State.onCtl_eager (s : State) (f : Ctl → Ctl) : (s.onCtl f).eager = s.eager := rfl
@[simp] theorem State.onCtl_fresh (s : State) (f : Ctl → Ctl) : (s.onCtl f).fresh = s.fresh := rfl

@[simp] theorem State.onVec_tid (s : State) (f : Vec → Vec) : (s.onVec f).tid = s.tid := rfl
@[simp] theorem State.onVec_me (s : State) (f : Vec → Vec) : (s.onVec f).me = { s.me with vec := f s.me.vec } := rfl
@[simp] theorem State.onVec_others (s : State) (f : Vec → Vec) : (s.onVec f).others = s.others := rfl
@[simp] theorem State.onVec_mem (s : State) (f : Vec → Vec) : (s.onVec f).mem = s.mem := rfl
@[simp] theorem State.onVec_poison (s : State) (f : Vec → Vec) : (s.onVec f).poison = s.poison := rfl
@[simp] theorem State.onVec_synd (s : State) (f : Vec → Vec) : (s.onVec f).synd = s.synd := rfl
@[simp] theorem State.onVec_lineKey (s : State) (f : Vec → Vec) : (s.onVec f).lineKey = s.lineKey := rfl
@[simp] theorem State.onVec_fw (s : State) (f : Vec → Vec) : (s.onVec f).fw = s.fw := rfl
@[simp] theorem State.onVec_clusters (s : State) (f : Vec → Vec) : (s.onVec f).clusters = s.clusters := rfl
@[simp] theorem State.onVec_cores (s : State) (f : Vec → Vec) : (s.onVec f).cores = s.cores := rfl
@[simp] theorem State.onVec_sys (s : State) (f : Vec → Vec) : (s.onVec f).sys = s.sys := rfl
@[simp] theorem State.onVec_net (s : State) (f : Vec → Vec) : (s.onVec f).net = s.net := rfl
@[simp] theorem State.onVec_time (s : State) (f : Vec → Vec) : (s.onVec f).time = s.time := rfl
@[simp] theorem State.onVec_cycle (s : State) (f : Vec → Vec) : (s.onVec f).cycle = s.cycle := rfl
@[simp] theorem State.onVec_agenda (s : State) (f : Vec → Vec) : (s.onVec f).agenda = s.agenda := rfl
@[simp] theorem State.onVec_ir (s : State) (f : Vec → Vec) : (s.onVec f).ir = s.ir := rfl
@[simp] theorem State.onVec_eager (s : State) (f : Vec → Vec) : (s.onVec f).eager = s.eager := rfl
@[simp] theorem State.onVec_fresh (s : State) (f : Vec → Vec) : (s.onVec f).fresh = s.fresh := rfl

@[simp] theorem State.onSys_tid (s : State) (f : Sys → Sys) : (s.onSys f).tid = s.tid := rfl
@[simp] theorem State.onSys_me (s : State) (f : Sys → Sys) : (s.onSys f).me = s.me := rfl
@[simp] theorem State.onSys_others (s : State) (f : Sys → Sys) : (s.onSys f).others = s.others := rfl
@[simp] theorem State.onSys_mem (s : State) (f : Sys → Sys) : (s.onSys f).mem = s.mem := rfl
@[simp] theorem State.onSys_poison (s : State) (f : Sys → Sys) : (s.onSys f).poison = s.poison := rfl
@[simp] theorem State.onSys_synd (s : State) (f : Sys → Sys) : (s.onSys f).synd = s.synd := rfl
@[simp] theorem State.onSys_lineKey (s : State) (f : Sys → Sys) : (s.onSys f).lineKey = s.lineKey := rfl
@[simp] theorem State.onSys_fw (s : State) (f : Sys → Sys) : (s.onSys f).fw = s.fw := rfl
@[simp] theorem State.onSys_clusters (s : State) (f : Sys → Sys) : (s.onSys f).clusters = s.clusters := rfl
@[simp] theorem State.onSys_cores (s : State) (f : Sys → Sys) : (s.onSys f).cores = s.cores := rfl
@[simp] theorem State.onSys_sys (s : State) (f : Sys → Sys) : (s.onSys f).sys = f s.sys := rfl
@[simp] theorem State.onSys_net (s : State) (f : Sys → Sys) : (s.onSys f).net = s.net := rfl
@[simp] theorem State.onSys_time (s : State) (f : Sys → Sys) : (s.onSys f).time = s.time := rfl
@[simp] theorem State.onSys_cycle (s : State) (f : Sys → Sys) : (s.onSys f).cycle = s.cycle := rfl
@[simp] theorem State.onSys_agenda (s : State) (f : Sys → Sys) : (s.onSys f).agenda = s.agenda := rfl
@[simp] theorem State.onSys_ir (s : State) (f : Sys → Sys) : (s.onSys f).ir = s.ir := rfl
@[simp] theorem State.onSys_eager (s : State) (f : Sys → Sys) : (s.onSys f).eager = s.eager := rfl
@[simp] theorem State.onSys_fresh (s : State) (f : Sys → Sys) : (s.onSys f).fresh = s.fresh := rfl

@[simp] theorem State.onCluster_tid (s : State) (c : Nat) (f : Cluster → Cluster) : (s.onCluster c f).tid = s.tid := rfl
@[simp] theorem State.onCluster_me (s : State) (c : Nat) (f : Cluster → Cluster) : (s.onCluster c f).me = s.me := rfl
@[simp] theorem State.onCluster_others (s : State) (c : Nat) (f : Cluster → Cluster) : (s.onCluster c f).others = s.others := rfl
@[simp] theorem State.onCluster_mem (s : State) (c : Nat) (f : Cluster → Cluster) : (s.onCluster c f).mem = s.mem := rfl
@[simp] theorem State.onCluster_poison (s : State) (c : Nat) (f : Cluster → Cluster) : (s.onCluster c f).poison = s.poison := rfl
@[simp] theorem State.onCluster_synd (s : State) (c : Nat) (f : Cluster → Cluster) : (s.onCluster c f).synd = s.synd := rfl
@[simp] theorem State.onCluster_lineKey (s : State) (c : Nat) (f : Cluster → Cluster) : (s.onCluster c f).lineKey = s.lineKey := rfl
@[simp] theorem State.onCluster_fw (s : State) (c : Nat) (f : Cluster → Cluster) : (s.onCluster c f).fw = s.fw := rfl
@[simp] theorem State.onCluster_clusters (s : State) (c : Nat) (f : Cluster → Cluster) : (s.onCluster c f).clusters = NMap.set Cluster.reset s.clusters c (f (s.cluster c)) := rfl
@[simp] theorem State.onCluster_cores (s : State) (c : Nat) (f : Cluster → Cluster) : (s.onCluster c f).cores = s.cores := rfl
@[simp] theorem State.onCluster_sys (s : State) (c : Nat) (f : Cluster → Cluster) : (s.onCluster c f).sys = s.sys := rfl
@[simp] theorem State.onCluster_net (s : State) (c : Nat) (f : Cluster → Cluster) : (s.onCluster c f).net = s.net := rfl
@[simp] theorem State.onCluster_time (s : State) (c : Nat) (f : Cluster → Cluster) : (s.onCluster c f).time = s.time := rfl
@[simp] theorem State.onCluster_cycle (s : State) (c : Nat) (f : Cluster → Cluster) : (s.onCluster c f).cycle = s.cycle := rfl
@[simp] theorem State.onCluster_agenda (s : State) (c : Nat) (f : Cluster → Cluster) : (s.onCluster c f).agenda = s.agenda := rfl
@[simp] theorem State.onCluster_ir (s : State) (c : Nat) (f : Cluster → Cluster) : (s.onCluster c f).ir = s.ir := rfl
@[simp] theorem State.onCluster_eager (s : State) (c : Nat) (f : Cluster → Cluster) : (s.onCluster c f).eager = s.eager := rfl
@[simp] theorem State.onCluster_fresh (s : State) (c : Nat) (f : Cluster → Cluster) : (s.onCluster c f).fresh = s.fresh := rfl

@[simp] theorem State.onCore_tid (s : State) (c : Nat) (f : Core → Core) : (s.onCore c f).tid = s.tid := rfl
@[simp] theorem State.onCore_me (s : State) (c : Nat) (f : Core → Core) : (s.onCore c f).me = s.me := rfl
@[simp] theorem State.onCore_others (s : State) (c : Nat) (f : Core → Core) : (s.onCore c f).others = s.others := rfl
@[simp] theorem State.onCore_mem (s : State) (c : Nat) (f : Core → Core) : (s.onCore c f).mem = s.mem := rfl
@[simp] theorem State.onCore_poison (s : State) (c : Nat) (f : Core → Core) : (s.onCore c f).poison = s.poison := rfl
@[simp] theorem State.onCore_synd (s : State) (c : Nat) (f : Core → Core) : (s.onCore c f).synd = s.synd := rfl
@[simp] theorem State.onCore_lineKey (s : State) (c : Nat) (f : Core → Core) : (s.onCore c f).lineKey = s.lineKey := rfl
@[simp] theorem State.onCore_fw (s : State) (c : Nat) (f : Core → Core) : (s.onCore c f).fw = s.fw := rfl
@[simp] theorem State.onCore_clusters (s : State) (c : Nat) (f : Core → Core) : (s.onCore c f).clusters = s.clusters := rfl
@[simp] theorem State.onCore_cores (s : State) (c : Nat) (f : Core → Core) : (s.onCore c f).cores = NMap.set Core.reset s.cores c (f (s.core c)) := rfl
@[simp] theorem State.onCore_sys (s : State) (c : Nat) (f : Core → Core) : (s.onCore c f).sys = s.sys := rfl
@[simp] theorem State.onCore_net (s : State) (c : Nat) (f : Core → Core) : (s.onCore c f).net = s.net := rfl
@[simp] theorem State.onCore_time (s : State) (c : Nat) (f : Core → Core) : (s.onCore c f).time = s.time := rfl
@[simp] theorem State.onCore_cycle (s : State) (c : Nat) (f : Core → Core) : (s.onCore c f).cycle = s.cycle := rfl
@[simp] theorem State.onCore_agenda (s : State) (c : Nat) (f : Core → Core) : (s.onCore c f).agenda = s.agenda := rfl
@[simp] theorem State.onCore_ir (s : State) (c : Nat) (f : Core → Core) : (s.onCore c f).ir = s.ir := rfl
@[simp] theorem State.onCore_eager (s : State) (c : Nat) (f : Core → Core) : (s.onCore c f).eager = s.eager := rfl
@[simp] theorem State.onCore_fresh (s : State) (c : Nat) (f : Core → Core) : (s.onCore c f).fresh = s.fresh := rfl

@[simp] theorem State.push_tid (s : State) (e : Event) : (s.push e).tid = s.tid := rfl
@[simp] theorem State.push_me (s : State) (e : Event) : (s.push e).me = s.me := rfl
@[simp] theorem State.push_others (s : State) (e : Event) : (s.push e).others = s.others := rfl
@[simp] theorem State.push_mem (s : State) (e : Event) : (s.push e).mem = s.mem := rfl
@[simp] theorem State.push_poison (s : State) (e : Event) : (s.push e).poison = s.poison := rfl
@[simp] theorem State.push_synd (s : State) (e : Event) : (s.push e).synd = s.synd := rfl
@[simp] theorem State.push_lineKey (s : State) (e : Event) : (s.push e).lineKey = s.lineKey := rfl
@[simp] theorem State.push_fw (s : State) (e : Event) : (s.push e).fw = s.fw := rfl
@[simp] theorem State.push_clusters (s : State) (e : Event) : (s.push e).clusters = s.clusters := rfl
@[simp] theorem State.push_cores (s : State) (e : Event) : (s.push e).cores = s.cores := rfl
@[simp] theorem State.push_sys (s : State) (e : Event) : (s.push e).sys = s.sys := rfl
@[simp] theorem State.push_net (s : State) (e : Event) : (s.push e).net = s.net := rfl
@[simp] theorem State.push_time (s : State) (e : Event) : (s.push e).time = s.time := rfl
@[simp] theorem State.push_cycle (s : State) (e : Event) : (s.push e).cycle = s.cycle := rfl
@[simp] theorem State.push_agenda (s : State) (e : Event) : (s.push e).agenda = s.agenda ++ [e] := rfl
@[simp] theorem State.push_ir (s : State) (e : Event) : (s.push e).ir = s.ir := rfl
@[simp] theorem State.push_eager (s : State) (e : Event) : (s.push e).eager = s.eager := rfl
@[simp] theorem State.push_fresh (s : State) (e : Event) : (s.push e).fresh = s.fresh := rfl

@[simp] theorem State.pushAll_tid (s : State) (es : List Event) : (s.pushAll es).tid = s.tid := rfl
@[simp] theorem State.pushAll_me (s : State) (es : List Event) : (s.pushAll es).me = s.me := rfl
@[simp] theorem State.pushAll_others (s : State) (es : List Event) : (s.pushAll es).others = s.others := rfl
@[simp] theorem State.pushAll_mem (s : State) (es : List Event) : (s.pushAll es).mem = s.mem := rfl
@[simp] theorem State.pushAll_poison (s : State) (es : List Event) : (s.pushAll es).poison = s.poison := rfl
@[simp] theorem State.pushAll_synd (s : State) (es : List Event) : (s.pushAll es).synd = s.synd := rfl
@[simp] theorem State.pushAll_lineKey (s : State) (es : List Event) : (s.pushAll es).lineKey = s.lineKey := rfl
@[simp] theorem State.pushAll_fw (s : State) (es : List Event) : (s.pushAll es).fw = s.fw := rfl
@[simp] theorem State.pushAll_clusters (s : State) (es : List Event) : (s.pushAll es).clusters = s.clusters := rfl
@[simp] theorem State.pushAll_cores (s : State) (es : List Event) : (s.pushAll es).cores = s.cores := rfl
@[simp] theorem State.pushAll_sys (s : State) (es : List Event) : (s.pushAll es).sys = s.sys := rfl
@[simp] theorem State.pushAll_net (s : State) (es : List Event) : (s.pushAll es).net = s.net := rfl
@[simp] theorem State.pushAll_time (s : State) (es : List Event) : (s.pushAll es).time = s.time := rfl
@[simp] theorem State.pushAll_cycle (s : State) (es : List Event) : (s.pushAll es).cycle = s.cycle := rfl
@[simp] theorem State.pushAll_agenda (s : State) (es : List Event) : (s.pushAll es).agenda = s.agenda ++ es := rfl
@[simp] theorem State.pushAll_ir (s : State) (es : List Event) : (s.pushAll es).ir = s.ir := rfl
@[simp] theorem State.pushAll_eager (s : State) (es : List Event) : (s.pushAll es).eager = s.eager := rfl
@[simp] theorem State.pushAll_fresh (s : State) (es : List Event) : (s.pushAll es).fresh = s.fresh := rfl

@[simp] theorem State.setReg_tid (s : State) (r : Reg) (v : Word) : (s.setReg r v).tid = s.tid := rfl
@[simp] theorem State.setReg_me (s : State) (r : Reg) (v : Word) : (s.setReg r v).me = s.me.setReg r v := rfl
@[simp] theorem State.setReg_others (s : State) (r : Reg) (v : Word) : (s.setReg r v).others = s.others := rfl
@[simp] theorem State.setReg_mem (s : State) (r : Reg) (v : Word) : (s.setReg r v).mem = s.mem := rfl
@[simp] theorem State.setReg_poison (s : State) (r : Reg) (v : Word) : (s.setReg r v).poison = s.poison := rfl
@[simp] theorem State.setReg_synd (s : State) (r : Reg) (v : Word) : (s.setReg r v).synd = s.synd := rfl
@[simp] theorem State.setReg_lineKey (s : State) (r : Reg) (v : Word) : (s.setReg r v).lineKey = s.lineKey := rfl
@[simp] theorem State.setReg_fw (s : State) (r : Reg) (v : Word) : (s.setReg r v).fw = s.fw := rfl
@[simp] theorem State.setReg_clusters (s : State) (r : Reg) (v : Word) : (s.setReg r v).clusters = s.clusters := rfl
@[simp] theorem State.setReg_cores (s : State) (r : Reg) (v : Word) : (s.setReg r v).cores = s.cores := rfl
@[simp] theorem State.setReg_sys (s : State) (r : Reg) (v : Word) : (s.setReg r v).sys = s.sys := rfl
@[simp] theorem State.setReg_net (s : State) (r : Reg) (v : Word) : (s.setReg r v).net = s.net := rfl
@[simp] theorem State.setReg_time (s : State) (r : Reg) (v : Word) : (s.setReg r v).time = s.time := rfl
@[simp] theorem State.setReg_cycle (s : State) (r : Reg) (v : Word) : (s.setReg r v).cycle = s.cycle := rfl
@[simp] theorem State.setReg_agenda (s : State) (r : Reg) (v : Word) : (s.setReg r v).agenda = s.agenda := rfl
@[simp] theorem State.setReg_ir (s : State) (r : Reg) (v : Word) : (s.setReg r v).ir = s.ir := rfl
@[simp] theorem State.setReg_eager (s : State) (r : Reg) (v : Word) : (s.setReg r v).eager = s.eager := rfl
@[simp] theorem State.setReg_fresh (s : State) (r : Reg) (v : Word) : (s.setReg r v).fresh = s.fresh := rfl

@[simp] theorem State.retire_tid (s : State) (n : Nat) (d : Option Reg) : (s.retire n d).tid = s.tid := rfl
@[simp] theorem State.retire_me (s : State) (n : Nat) (d : Option Reg) : (s.retire n d).me = { s.me with pc := s.me.pc + word n, ctl := s.me.ctl.noteDest d } := rfl
@[simp] theorem State.retire_others (s : State) (n : Nat) (d : Option Reg) : (s.retire n d).others = s.others := rfl
@[simp] theorem State.retire_mem (s : State) (n : Nat) (d : Option Reg) : (s.retire n d).mem = s.mem := rfl
@[simp] theorem State.retire_poison (s : State) (n : Nat) (d : Option Reg) : (s.retire n d).poison = s.poison := rfl
@[simp] theorem State.retire_synd (s : State) (n : Nat) (d : Option Reg) : (s.retire n d).synd = s.synd := rfl
@[simp] theorem State.retire_lineKey (s : State) (n : Nat) (d : Option Reg) : (s.retire n d).lineKey = s.lineKey := rfl
@[simp] theorem State.retire_fw (s : State) (n : Nat) (d : Option Reg) : (s.retire n d).fw = s.fw := rfl
@[simp] theorem State.retire_clusters (s : State) (n : Nat) (d : Option Reg) : (s.retire n d).clusters = s.clusters := rfl
@[simp] theorem State.retire_cores (s : State) (n : Nat) (d : Option Reg) : (s.retire n d).cores = s.cores := rfl
@[simp] theorem State.retire_sys (s : State) (n : Nat) (d : Option Reg) : (s.retire n d).sys = s.sys := rfl
@[simp] theorem State.retire_net (s : State) (n : Nat) (d : Option Reg) : (s.retire n d).net = s.net := rfl
@[simp] theorem State.retire_time (s : State) (n : Nat) (d : Option Reg) : (s.retire n d).time = s.time := rfl
@[simp] theorem State.retire_cycle (s : State) (n : Nat) (d : Option Reg) : (s.retire n d).cycle = s.cycle := rfl
@[simp] theorem State.retire_agenda (s : State) (n : Nat) (d : Option Reg) : (s.retire n d).agenda = s.agenda := rfl
@[simp] theorem State.retire_ir (s : State) (n : Nat) (d : Option Reg) : (s.retire n d).ir = s.ir := rfl
@[simp] theorem State.retire_eager (s : State) (n : Nat) (d : Option Reg) : (s.retire n d).eager = s.eager := rfl
@[simp] theorem State.retire_fresh (s : State) (n : Nat) (d : Option Reg) : (s.retire n d).fresh = s.fresh := rfl

@[simp] theorem State.writeReg_tid (s : State) (n : Nat) (d : Reg) (v : Word) : (s.writeReg n d v).tid = s.tid := rfl
@[simp] theorem State.writeReg_me (s : State) (n : Nat) (d : Reg) (v : Word) : (s.writeReg n d v).me = { s.me.setReg d v with pc := (s.me.setReg d v).pc + word n, ctl := (s.me.setReg d v).ctl.noteDest (some d) } := rfl
@[simp] theorem State.writeReg_others (s : State) (n : Nat) (d : Reg) (v : Word) : (s.writeReg n d v).others = s.others := rfl
@[simp] theorem State.writeReg_mem (s : State) (n : Nat) (d : Reg) (v : Word) : (s.writeReg n d v).mem = s.mem := rfl
@[simp] theorem State.writeReg_poison (s : State) (n : Nat) (d : Reg) (v : Word) : (s.writeReg n d v).poison = s.poison := rfl
@[simp] theorem State.writeReg_synd (s : State) (n : Nat) (d : Reg) (v : Word) : (s.writeReg n d v).synd = s.synd := rfl
@[simp] theorem State.writeReg_lineKey (s : State) (n : Nat) (d : Reg) (v : Word) : (s.writeReg n d v).lineKey = s.lineKey := rfl
@[simp] theorem State.writeReg_fw (s : State) (n : Nat) (d : Reg) (v : Word) : (s.writeReg n d v).fw = s.fw := rfl
@[simp] theorem State.writeReg_clusters (s : State) (n : Nat) (d : Reg) (v : Word) : (s.writeReg n d v).clusters = s.clusters := rfl
@[simp] theorem State.writeReg_cores (s : State) (n : Nat) (d : Reg) (v : Word) : (s.writeReg n d v).cores = s.cores := rfl
@[simp] theorem State.writeReg_sys (s : State) (n : Nat) (d : Reg) (v : Word) : (s.writeReg n d v).sys = s.sys := rfl
@[simp] theorem State.writeReg_net (s : State) (n : Nat) (d : Reg) (v : Word) : (s.writeReg n d v).net = s.net := rfl
@[simp] theorem State.writeReg_time (s : State) (n : Nat) (d : Reg) (v : Word) : (s.writeReg n d v).time = s.time := rfl
@[simp] theorem State.writeReg_cycle (s : State) (n : Nat) (d : Reg) (v : Word) : (s.writeReg n d v).cycle = s.cycle := rfl
@[simp] theorem State.writeReg_agenda (s : State) (n : Nat) (d : Reg) (v : Word) : (s.writeReg n d v).agenda = s.agenda := rfl
@[simp] theorem State.writeReg_ir (s : State) (n : Nat) (d : Reg) (v : Word) : (s.writeReg n d v).ir = s.ir := rfl
@[simp] theorem State.writeReg_eager (s : State) (n : Nat) (d : Reg) (v : Word) : (s.writeReg n d v).eager = s.eager := rfl
@[simp] theorem State.writeReg_fresh (s : State) (n : Nat) (d : Reg) (v : Word) : (s.writeReg n d v).fresh = s.fresh := rfl

@[simp] theorem State.jump_tid (s : State) (w : Word) (d : Option Reg) : (s.jump w d).tid = s.tid := rfl
@[simp] theorem State.jump_me (s : State) (w : Word) (d : Option Reg) : (s.jump w d).me = { s.me with pc := evenPc w, ctl := s.me.ctl.noteDest d } := rfl
@[simp] theorem State.jump_others (s : State) (w : Word) (d : Option Reg) : (s.jump w d).others = s.others := rfl
@[simp] theorem State.jump_mem (s : State) (w : Word) (d : Option Reg) : (s.jump w d).mem = s.mem := rfl
@[simp] theorem State.jump_poison (s : State) (w : Word) (d : Option Reg) : (s.jump w d).poison = s.poison := rfl
@[simp] theorem State.jump_synd (s : State) (w : Word) (d : Option Reg) : (s.jump w d).synd = s.synd := rfl
@[simp] theorem State.jump_lineKey (s : State) (w : Word) (d : Option Reg) : (s.jump w d).lineKey = s.lineKey := rfl
@[simp] theorem State.jump_fw (s : State) (w : Word) (d : Option Reg) : (s.jump w d).fw = s.fw := rfl
@[simp] theorem State.jump_clusters (s : State) (w : Word) (d : Option Reg) : (s.jump w d).clusters = s.clusters := rfl
@[simp] theorem State.jump_cores (s : State) (w : Word) (d : Option Reg) : (s.jump w d).cores = s.cores := rfl
@[simp] theorem State.jump_sys (s : State) (w : Word) (d : Option Reg) : (s.jump w d).sys = s.sys := rfl
@[simp] theorem State.jump_net (s : State) (w : Word) (d : Option Reg) : (s.jump w d).net = s.net := rfl
@[simp] theorem State.jump_time (s : State) (w : Word) (d : Option Reg) : (s.jump w d).time = s.time := rfl
@[simp] theorem State.jump_cycle (s : State) (w : Word) (d : Option Reg) : (s.jump w d).cycle = s.cycle := rfl
@[simp] theorem State.jump_agenda (s : State) (w : Word) (d : Option Reg) : (s.jump w d).agenda = s.agenda := rfl
@[simp] theorem State.jump_ir (s : State) (w : Word) (d : Option Reg) : (s.jump w d).ir = s.ir := rfl
@[simp] theorem State.jump_eager (s : State) (w : Word) (d : Option Reg) : (s.jump w d).eager = s.eager := rfl
@[simp] theorem State.jump_fresh (s : State) (w : Word) (d : Option Reg) : (s.jump w d).fresh = s.fresh := rfl

@[simp] theorem State.raiseF_tid (s : State) (f : BitVec 5) : (s.raiseF f).tid = s.tid := rfl
@[simp] theorem State.raiseF_me (s : State) (f : BitVec 5) : (s.raiseF f).me = s.me.raise f 0 := rfl
@[simp] theorem State.raiseF_others (s : State) (f : BitVec 5) : (s.raiseF f).others = s.others := rfl
@[simp] theorem State.raiseF_mem (s : State) (f : BitVec 5) : (s.raiseF f).mem = s.mem := rfl
@[simp] theorem State.raiseF_poison (s : State) (f : BitVec 5) : (s.raiseF f).poison = s.poison := rfl
@[simp] theorem State.raiseF_synd (s : State) (f : BitVec 5) : (s.raiseF f).synd = s.synd := rfl
@[simp] theorem State.raiseF_lineKey (s : State) (f : BitVec 5) : (s.raiseF f).lineKey = s.lineKey := rfl
@[simp] theorem State.raiseF_fw (s : State) (f : BitVec 5) : (s.raiseF f).fw = s.fw := rfl
@[simp] theorem State.raiseF_clusters (s : State) (f : BitVec 5) : (s.raiseF f).clusters = s.clusters := rfl
@[simp] theorem State.raiseF_cores (s : State) (f : BitVec 5) : (s.raiseF f).cores = s.cores := rfl
@[simp] theorem State.raiseF_sys (s : State) (f : BitVec 5) : (s.raiseF f).sys = s.sys := rfl
@[simp] theorem State.raiseF_net (s : State) (f : BitVec 5) : (s.raiseF f).net = s.net := rfl
@[simp] theorem State.raiseF_time (s : State) (f : BitVec 5) : (s.raiseF f).time = s.time := rfl
@[simp] theorem State.raiseF_cycle (s : State) (f : BitVec 5) : (s.raiseF f).cycle = s.cycle := rfl
@[simp] theorem State.raiseF_agenda (s : State) (f : BitVec 5) : (s.raiseF f).agenda = s.agenda := rfl
@[simp] theorem State.raiseF_ir (s : State) (f : BitVec 5) : (s.raiseF f).ir = s.ir := rfl
@[simp] theorem State.raiseF_eager (s : State) (f : BitVec 5) : (s.raiseF f).eager = s.eager := rfl
@[simp] theorem State.raiseF_fresh (s : State) (f : BitVec 5) : (s.raiseF f).fresh = s.fresh := rfl

@[simp] theorem State.raiseI_tid (s : State) (f : BitVec 4) : (s.raiseI f).tid = s.tid := rfl
@[simp] theorem State.raiseI_me (s : State) (f : BitVec 4) : (s.raiseI f).me = s.me.raise 0 f := rfl
@[simp] theorem State.raiseI_others (s : State) (f : BitVec 4) : (s.raiseI f).others = s.others := rfl
@[simp] theorem State.raiseI_mem (s : State) (f : BitVec 4) : (s.raiseI f).mem = s.mem := rfl
@[simp] theorem State.raiseI_poison (s : State) (f : BitVec 4) : (s.raiseI f).poison = s.poison := rfl
@[simp] theorem State.raiseI_synd (s : State) (f : BitVec 4) : (s.raiseI f).synd = s.synd := rfl
@[simp] theorem State.raiseI_lineKey (s : State) (f : BitVec 4) : (s.raiseI f).lineKey = s.lineKey := rfl
@[simp] theorem State.raiseI_fw (s : State) (f : BitVec 4) : (s.raiseI f).fw = s.fw := rfl
@[simp] theorem State.raiseI_clusters (s : State) (f : BitVec 4) : (s.raiseI f).clusters = s.clusters := rfl
@[simp] theorem State.raiseI_cores (s : State) (f : BitVec 4) : (s.raiseI f).cores = s.cores := rfl
@[simp] theorem State.raiseI_sys (s : State) (f : BitVec 4) : (s.raiseI f).sys = s.sys := rfl
@[simp] theorem State.raiseI_net (s : State) (f : BitVec 4) : (s.raiseI f).net = s.net := rfl
@[simp] theorem State.raiseI_time (s : State) (f : BitVec 4) : (s.raiseI f).time = s.time := rfl
@[simp] theorem State.raiseI_cycle (s : State) (f : BitVec 4) : (s.raiseI f).cycle = s.cycle := rfl
@[simp] theorem State.raiseI_agenda (s : State) (f : BitVec 4) : (s.raiseI f).agenda = s.agenda := rfl
@[simp] theorem State.raiseI_ir (s : State) (f : BitVec 4) : (s.raiseI f).ir = s.ir := rfl
@[simp] theorem State.raiseI_eager (s : State) (f : BitVec 4) : (s.raiseI f).eager = s.eager := rfl
@[simp] theorem State.raiseI_fresh (s : State) (f : BitVec 4) : (s.raiseI f).fresh = s.fresh := rfl

@[simp] theorem State.scDone_tid (s : State) (t : Tid) : (s.scDone t).tid = s.tid := by unfold State.scDone; split <;> rfl
@[simp] theorem State.scDone_others (s : State) (t : Tid) : (s.scDone t).others = s.others := by unfold State.scDone; split <;> rfl
@[simp] theorem State.scDone_mem (s : State) (t : Tid) : (s.scDone t).mem = s.mem := by unfold State.scDone; split <;> rfl
@[simp] theorem State.scDone_poison (s : State) (t : Tid) : (s.scDone t).poison = s.poison := by unfold State.scDone; split <;> rfl
@[simp] theorem State.scDone_synd (s : State) (t : Tid) : (s.scDone t).synd = s.synd := by unfold State.scDone; split <;> rfl
@[simp] theorem State.scDone_lineKey (s : State) (t : Tid) : (s.scDone t).lineKey = s.lineKey := by unfold State.scDone; split <;> rfl
@[simp] theorem State.scDone_fw (s : State) (t : Tid) : (s.scDone t).fw = s.fw := by unfold State.scDone; split <;> rfl
@[simp] theorem State.scDone_clusters (s : State) (t : Tid) : (s.scDone t).clusters = s.clusters := by unfold State.scDone; split <;> rfl
@[simp] theorem State.scDone_cores (s : State) (t : Tid) : (s.scDone t).cores = s.cores := by unfold State.scDone; split <;> rfl
@[simp] theorem State.scDone_net (s : State) (t : Tid) : (s.scDone t).net = s.net := by unfold State.scDone; split <;> rfl
@[simp] theorem State.scDone_time (s : State) (t : Tid) : (s.scDone t).time = s.time := by unfold State.scDone; split <;> rfl
@[simp] theorem State.scDone_cycle (s : State) (t : Tid) : (s.scDone t).cycle = s.cycle := by unfold State.scDone; split <;> rfl
@[simp] theorem State.scDone_ir (s : State) (t : Tid) : (s.scDone t).ir = s.ir := by unfold State.scDone; split <;> rfl
@[simp] theorem State.scDone_eager (s : State) (t : Tid) : (s.scDone t).eager = s.eager := by unfold State.scDone; split <;> rfl
@[simp] theorem State.scDone_fresh (s : State) (t : Tid) : (s.scDone t).fresh = s.fresh := by unfold State.scDone; split <;> rfl
@[simp] theorem State.scDone_me (s : State) (t : Tid) : (s.scDone t).me = s.me := by unfold State.scDone; split <;> rfl
@[simp] theorem State.scDone_sys (s : State) (t : Tid) :
    (s.scDone t).sys = { s.sys with scRun := if s.sys.scRun = some t then none else s.sys.scRun } := by
  unfold State.scDone
  split <;> rfl

/-- A context with no such instruction in progress has nothing to give up. -/
theorem State.scDone_none {s : State} {t : Tid} (h : s.sys.scRun ≠ some t) : s.scDone t = s := if_neg h

theorem State.scDone_agenda (s : State) (t : Tid) : ∃ es, (s.scDone t).agenda = s.agenda ++ es := by
  unfold State.scDone
  split
  · exact ⟨_, rfl⟩
  · exact ⟨[], (List.append_nil _).symm⟩

@[simp] theorem State.takeTrap_tid (s : State) (t : Trap) : (s.takeTrap t).tid = s.tid := State.scDone_tid ..
@[simp] theorem State.takeTrap_others (s : State) (t : Trap) : (s.takeTrap t).others = s.others := State.scDone_others ..
@[simp] theorem State.takeTrap_mem (s : State) (t : Trap) : (s.takeTrap t).mem = s.mem := State.scDone_mem ..
@[simp] theorem State.takeTrap_poison (s : State) (t : Trap) : (s.takeTrap t).poison = s.poison := State.scDone_poison ..
@[simp] theorem State.takeTrap_synd (s : State) (t : Trap) : (s.takeTrap t).synd = s.synd := State.scDone_synd ..
@[simp] theorem State.takeTrap_lineKey (s : State) (t : Trap) : (s.takeTrap t).lineKey = s.lineKey := State.scDone_lineKey ..
@[simp] theorem State.takeTrap_fw (s : State) (t : Trap) : (s.takeTrap t).fw = s.fw := State.scDone_fw ..
@[simp] theorem State.takeTrap_clusters (s : State) (t : Trap) : (s.takeTrap t).clusters = s.clusters := State.scDone_clusters ..
@[simp] theorem State.takeTrap_cores (s : State) (t : Trap) : (s.takeTrap t).cores = s.cores := State.scDone_cores ..
@[simp] theorem State.takeTrap_net (s : State) (t : Trap) : (s.takeTrap t).net = s.net := State.scDone_net ..
@[simp] theorem State.takeTrap_time (s : State) (t : Trap) : (s.takeTrap t).time = s.time := State.scDone_time ..
@[simp] theorem State.takeTrap_cycle (s : State) (t : Trap) : (s.takeTrap t).cycle = s.cycle := State.scDone_cycle ..
@[simp] theorem State.takeTrap_ir (s : State) (t : Trap) : (s.takeTrap t).ir = s.ir := State.scDone_ir ..
@[simp] theorem State.takeTrap_eager (s : State) (t : Trap) : (s.takeTrap t).eager = s.eager := State.scDone_eager ..
@[simp] theorem State.takeTrap_fresh (s : State) (t : Trap) : (s.takeTrap t).fresh = s.fresh := State.scDone_fresh ..
@[simp] theorem State.takeTrap_me (s : State) (t : Trap) : (s.takeTrap t).me = s.me.enterTrap s.me.pc t := by
  unfold State.takeTrap
  rw [State.onMe_me, State.scDone_me]
@[simp] theorem State.takeTrap_sys (s : State) (t : Trap) :
    (s.takeTrap t).sys = { s.sys with scRun := if s.sys.scRun = some s.tid then none else s.sys.scRun } := State.scDone_sys ..
theorem State.takeTrap_agenda (s : State) (t : Trap) : ∃ es, (s.takeTrap t).agenda = s.agenda ++ es := State.scDone_agenda ..

@[simp] theorem State.wr_tid (s : State) (a : Nat) (v : Word) : (s.wr a v).tid = s.tid := rfl
@[simp] theorem State.wr_me (s : State) (a : Nat) (v : Word) : (s.wr a v).me = s.me := rfl
@[simp] theorem State.wr_others (s : State) (a : Nat) (v : Word) : (s.wr a v).others = s.others := rfl
@[simp] theorem State.wr_mem (s : State) (a : Nat) (v : Word) : (s.wr a v).mem = s.mem := rfl
@[simp] theorem State.wr_poison (s : State) (a : Nat) (v : Word) : (s.wr a v).poison = s.poison := rfl
@[simp] theorem State.wr_synd (s : State) (a : Nat) (v : Word) : (s.wr a v).synd = s.synd := rfl
@[simp] theorem State.wr_lineKey (s : State) (a : Nat) (v : Word) : (s.wr a v).lineKey = s.lineKey := rfl
@[simp] theorem State.wr_fw (s : State) (a : Nat) (v : Word) : (s.wr a v).fw = NMap.set 0 s.fw (a / 8) (v ^^^ fwReset a) := rfl
@[simp] theorem State.wr_clusters (s : State) (a : Nat) (v : Word) : (s.wr a v).clusters = s.clusters := rfl
@[simp] theorem State.wr_cores (s : State) (a : Nat) (v : Word) : (s.wr a v).cores = s.cores := rfl
@[simp] theorem State.wr_sys (s : State) (a : Nat) (v : Word) : (s.wr a v).sys = s.sys := rfl
@[simp] theorem State.wr_net (s : State) (a : Nat) (v : Word) : (s.wr a v).net = s.net := rfl
@[simp] theorem State.wr_time (s : State) (a : Nat) (v : Word) : (s.wr a v).time = s.time := rfl
@[simp] theorem State.wr_cycle (s : State) (a : Nat) (v : Word) : (s.wr a v).cycle = s.cycle := rfl
@[simp] theorem State.wr_agenda (s : State) (a : Nat) (v : Word) : (s.wr a v).agenda = s.agenda := rfl
@[simp] theorem State.wr_ir (s : State) (a : Nat) (v : Word) : (s.wr a v).ir = s.ir := rfl
@[simp] theorem State.wr_eager (s : State) (a : Nat) (v : Word) : (s.wr a v).eager = s.eager := rfl
@[simp] theorem State.wr_fresh (s : State) (a : Nat) (v : Word) : (s.wr a v).fresh = s.fresh := rfl

@[simp] theorem Strand.setReg_run (x : Strand) (r : Reg) (v : Word) : (x.setReg r v).run = x.run := by
  unfold Strand.setReg; split <;> rfl
@[simp] theorem Strand.setReg_park (x : Strand) (r : Reg) (v : Word) : (x.setReg r v).park = x.park := by
  unfold Strand.setReg; split <;> rfl
@[simp] theorem Strand.setReg_pc (x : Strand) (r : Reg) (v : Word) : (x.setReg r v).pc = x.pc := by
  unfold Strand.setReg; split <;> rfl
@[simp] theorem Strand.setReg_ctl (x : Strand) (r : Reg) (v : Word) : (x.setReg r v).ctl = x.ctl := by
  unfold Strand.setReg; split <;> rfl
@[simp] theorem Strand.setReg_vec (x : Strand) (r : Reg) (v : Word) : (x.setReg r v).vec = x.vec := by
  unfold Strand.setReg; split <;> rfl
@[simp] theorem Strand.setReg_queue (x : Strand) (r : Reg) (v : Word) : (x.setReg r v).queue = x.queue := by
  unfold Strand.setReg; split <;> rfl
@[simp] theorem Strand.setReg_slots (x : Strand) (r : Reg) (v : Word) : (x.setReg r v).slots = x.slots := by
  unfold Strand.setReg; split <;> rfl
@[simp] theorem Strand.setReg_writes (x : Strand) (r : Reg) (v : Word) : (x.setReg r v).writes = x.writes := by
  unfold Strand.setReg; split <;> rfl
@[simp] theorem Strand.setReg_pend (x : Strand) (r : Reg) (v : Word) : (x.setReg r v).pend = x.pend := by
  unfold Strand.setReg; split <;> rfl
@[simp] theorem Strand.setReg_sends (x : Strand) (r : Reg) (v : Word) : (x.setReg r v).sends = x.sends := by
  unfold Strand.setReg; split <;> rfl
@[simp] theorem Strand.setReg_posted (x : Strand) (r : Reg) (v : Word) : (x.setReg r v).posted = x.posted := by
  unfold Strand.setReg; split <;> rfl
@[simp] theorem Strand.setReg_msgs (x : Strand) (r : Reg) (v : Word) : (x.setReg r v).msgs = x.msgs := by
  unfold Strand.setReg; split <;> rfl
@[simp] theorem Strand.setReg_resv (x : Strand) (r : Reg) (v : Word) : (x.setReg r v).resv = x.resv := by
  unfold Strand.setReg; split <;> rfl
@[simp] theorem Strand.setReg_mark (x : Strand) (r : Reg) (v : Word) : (x.setReg r v).mark = x.mark := by
  unfold Strand.setReg; split <;> rfl
@[simp] theorem Strand.setReg_launch (x : Strand) (r : Reg) (v : Word) : (x.setReg r v).launch = x.launch := by
  unfold Strand.setReg; split <;> rfl
@[simp] theorem Strand.setReg_trigIssued (x : Strand) (r : Reg) (v : Word) : (x.setReg r v).trigIssued = x.trigIssued := by
  unfold Strand.setReg; split <;> rfl
@[simp] theorem Strand.setReg_trigCounted (x : Strand) (r : Reg) (v : Word) : (x.setReg r v).trigCounted = x.trigCounted := by
  unfold Strand.setReg; split <;> rfl
@[simp] theorem Strand.setReg_held (x : Strand) (r : Reg) (v : Word) : (x.setReg r v).held = x.held := by
  unfold Strand.setReg; split <;> rfl
@[simp] theorem Strand.setReg_hcause (x : Strand) (r : Reg) (v : Word) : (x.setReg r v).hcause = x.hcause := by
  unfold Strand.setReg; split <;> rfl
@[simp] theorem Strand.setReg_step (x : Strand) (r : Reg) (v : Word) : (x.setReg r v).step = x.step := by
  unfold Strand.setReg; split <;> rfl
@[simp] theorem Strand.setReg_haltreq (x : Strand) (r : Reg) (v : Word) : (x.setReg r v).haltreq = x.haltreq := by
  unfold Strand.setReg; split <;> rfl
@[simp] theorem Strand.setReg_brken (x : Strand) (r : Reg) (v : Word) : (x.setReg r v).brken = x.brken := by
  unfold Strand.setReg; split <;> rfl
@[simp] theorem Strand.setReg_attach (x : Strand) (r : Reg) (v : Word) : (x.setReg r v).attach = x.attach := by
  unfold Strand.setReg; split <;> rfl
@[simp] theorem Strand.setReg_savedLg (x : Strand) (r : Reg) (v : Word) : (x.setReg r v).savedLg = x.savedLg := by
  unfold Strand.setReg; split <;> rfl
@[simp] theorem Strand.setReg_grant (x : Strand) (r : Reg) (v : Word) : (x.setReg r v).grant = x.grant := by
  unfold Strand.setReg; split <;> rfl
@[simp] theorem Strand.setReg_fbuf (x : Strand) (r : Reg) (v : Word) : (x.setReg r v).fbuf = x.fbuf := by
  unfold Strand.setReg; split <;> rfl
@[simp] theorem Strand.setReg_seen (x : Strand) (r : Reg) (v : Word) : (x.setReg r v).seen = x.seen := by
  unfold Strand.setReg; split <;> rfl
@[simp] theorem Strand.setReg_block (x : Strand) (r : Reg) (v : Word) : (x.setReg r v).block = x.block := by
  unfold Strand.setReg; split <;> rfl
@[simp] theorem Strand.setReg_trigAt (x : Strand) (r : Reg) (v : Word) : (x.setReg r v).trigAt = x.trigAt := by
  unfold Strand.setReg; split <;> rfl
@[simp] theorem Strand.setReg_parkedAt (x : Strand) (r : Reg) (v : Word) : (x.setReg r v).parkedAt = x.parkedAt := by
  unfold Strand.setReg; split <;> rfl
@[simp] theorem Strand.setReg_waitAt (x : Strand) (r : Reg) (v : Word) : (x.setReg r v).waitAt = x.waitAt := by
  unfold Strand.setReg; split <;> rfl

@[simp] theorem Ctl.noteDest_es (c : Ctl) (d : Option Reg) : (c.noteDest d).es = c.es := by
  unfold Ctl.noteDest; split <;> [split <;> rfl; rfl]
@[simp] theorem Ctl.noteDest_seed (c : Ctl) (d : Option Reg) : (c.noteDest d).seed = c.seed := by
  unfold Ctl.noteDest; split <;> [split <;> rfl; rfl]
@[simp] theorem Ctl.noteDest_sbase (c : Ctl) (d : Option Reg) : (c.noteDest d).sbase = c.sbase := by
  unfold Ctl.noteDest; split <;> [split <;> rfl; rfl]
@[simp] theorem Ctl.noteDest_fflags (c : Ctl) (d : Option Reg) : (c.noteDest d).fflags = c.fflags := by
  unfold Ctl.noteDest; split <;> [split <;> rfl; rfl]
@[simp] theorem Ctl.noteDest_frm (c : Ctl) (d : Option Reg) : (c.noteDest d).frm = c.frm := by
  unfold Ctl.noteDest; split <;> [split <;> rfl; rfl]
@[simp] theorem Ctl.noteDest_iflags (c : Ctl) (d : Option Reg) : (c.noteDest d).iflags = c.iflags := by
  unfold Ctl.noteDest; split <;> [split <;> rfl; rfl]
@[simp] theorem Ctl.noteDest_rnscfg (c : Ctl) (d : Option Reg) : (c.noteDest d).rnscfg = c.rnscfg := by
  unfold Ctl.noteDest; split <;> [split <;> rfl; rfl]
@[simp] theorem Ctl.noteDest_trows (c : Ctl) (d : Option Reg) : (c.noteDest d).trows = c.trows := by
  unfold Ctl.noteDest; split <;> [split <;> rfl; rfl]
@[simp] theorem Ctl.noteDest_tcols (c : Ctl) (d : Option Reg) : (c.noteDest d).tcols = c.tcols := by
  unfold Ctl.noteDest; split <;> [split <;> rfl; rfl]
@[simp] theorem Ctl.noteDest_vl (c : Ctl) (d : Option Reg) : (c.noteDest d).vl = c.vl := by
  unfold Ctl.noteDest; split <;> [split <;> rfl; rfl]
@[simp] theorem Ctl.noteDest_vt (c : Ctl) (d : Option Reg) : (c.noteDest d).vt = c.vt := by
  unfold Ctl.noteDest; split <;> [split <;> rfl; rfl]
@[simp] theorem Ctl.noteDest_lg (c : Ctl) (d : Option Reg) : (c.noteDest d).lg = c.lg := by
  unfold Ctl.noteDest; split <;> [split <;> rfl; rfl]
@[simp] theorem Ctl.noteDest_shape (c : Ctl) (d : Option Reg) : (c.noteDest d).shape = c.shape := by
  unfold Ctl.noteDest; split <;> [split <;> rfl; rfl]
@[simp] theorem Ctl.noteDest_sql (c : Ctl) (d : Option Reg) : (c.noteDest d).sql = c.sql := by
  unfold Ctl.noteDest; split <;> [split <;> rfl; rfl]
@[simp] theorem Ctl.noteDest_tenant (c : Ctl) (d : Option Reg) : (c.noteDest d).tenant = c.tenant := by
  unfold Ctl.noteDest; split <;> [split <;> rfl; rfl]
@[simp] theorem Ctl.noteDest_part (c : Ctl) (d : Option Reg) : (c.noteDest d).part = c.part := by
  unfold Ctl.noteDest; split <;> [split <;> rfl; rfl]
@[simp] theorem Ctl.noteDest_idx0 (c : Ctl) (d : Option Reg) : (c.noteDest d).idx0 = c.idx0 := by
  unfold Ctl.noteDest; split <;> [split <;> rfl; rfl]
@[simp] theorem Ctl.noteDest_idx1 (c : Ctl) (d : Option Reg) : (c.noteDest d).idx1 = c.idx1 := by
  unfold Ctl.noteDest; split <;> [split <;> rfl; rfl]
@[simp] theorem Ctl.noteDest_idx2 (c : Ctl) (d : Option Reg) : (c.noteDest d).idx2 = c.idx2 := by
  unfold Ctl.noteDest; split <;> [split <;> rfl; rfl]
@[simp] theorem Ctl.noteDest_idx3 (c : Ctl) (d : Option Reg) : (c.noteDest d).idx3 = c.idx3 := by
  unfold Ctl.noteDest; split <;> [split <;> rfl; rfl]
@[simp] theorem Ctl.noteDest_pld (c : Ctl) (d : Option Reg) : (c.noteDest d).pld = c.pld := by
  unfold Ctl.noteDest; split <;> [split <;> rfl; rfl]
@[simp] theorem Ctl.noteDest_pldv (c : Ctl) (d : Option Reg) : (c.noteDest d).pldv = c.pldv := by
  unfold Ctl.noteDest; split <;> [split <;> rfl; rfl]
@[simp] theorem Ctl.noteDest_rchk (c : Ctl) (d : Option Reg) : (c.noteDest d).rchk = c.rchk := by
  unfold Ctl.noteDest; split <;> [split <;> rfl; rfl]
@[simp] theorem Ctl.noteDest_mt (c : Ctl) (d : Option Reg) : (c.noteDest d).mt = c.mt := by
  unfold Ctl.noteDest; split <;> [split <;> rfl; rfl]
@[simp] theorem Ctl.noteDest_move (c : Ctl) (d : Option Reg) : (c.noteDest d).move = c.move := by
  unfold Ctl.noteDest; split <;> [split <;> rfl; rfl]
@[simp] theorem Ctl.noteDest_ppriv (c : Ctl) (d : Option Reg) : (c.noteDest d).ppriv = c.ppriv := by
  unfold Ctl.noteDest; split <;> [split <;> rfl; rfl]
@[simp] theorem Ctl.noteDest_priv (c : Ctl) (d : Option Reg) : (c.noteDest d).priv = c.priv := by
  unfold Ctl.noteDest; split <;> [split <;> rfl; rfl]
@[simp] theorem Ctl.noteDest_tvec (c : Ctl) (d : Option Reg) : (c.noteDest d).tvec = c.tvec := by
  unfold Ctl.noteDest; split <;> [split <;> rfl; rfl]
@[simp] theorem Ctl.noteDest_epc (c : Ctl) (d : Option Reg) : (c.noteDest d).epc = c.epc := by
  unfold Ctl.noteDest; split <;> [split <;> rfl; rfl]
@[simp] theorem Ctl.noteDest_cause (c : Ctl) (d : Option Reg) : (c.noteDest d).cause = c.cause := by
  unfold Ctl.noteDest; split <;> [split <;> rfl; rfl]
@[simp] theorem Ctl.noteDest_tval (c : Ctl) (d : Option Reg) : (c.noteDest d).tval = c.tval := by
  unfold Ctl.noteDest; split <;> [split <;> rfl; rfl]
@[simp] theorem Ctl.noteDest_tval2 (c : Ctl) (d : Option Reg) : (c.noteDest d).tval2 = c.tval2 := by
  unfold Ctl.noteDest; split <;> [split <;> rfl; rfl]

end Sys2Proof.Machine
end

