-- ==== Sys2Proof/Laws/Ops.lean ====
section
/-! SUPPORT. One lemma for each shared operation: everything it can do, in the terms that claims use. -/

namespace Sys2Proof.Machine

open Sys2Proof

/-! ### Scalar registers (01 R16) -/

@[simp] theorem Strand.reg_zero (x : Strand) : x.reg 0 = 0 := rfl

theorem Strand.reg_setReg_same (x : Strand) (r : Reg) (v : Word) : (x.setReg r v).reg r = (if r = 0 then 0 else v) := by
  unfold Strand.reg Strand.setReg
  split
  · rfl
  · simp

theorem Strand.reg_setReg_other (x : Strand) {r q : Reg} (v : Word) (h : q ≠ r) : (x.setReg r v).reg q = x.reg q := by
  unfold Strand.reg Strand.setReg
  split
  · rfl
  · rename_i hr
    split
    · rfl
    · simp only []
      rw [Vector.getElem_set_ne]
      exact fun e => h (BitVec.eq_of_toNat_eq e.symm)

theorem Strand.reg_congr {x y : Strand} (h : x.regs = y.regs) (r : Reg) : x.reg r = y.reg r := by
  unfold Strand.reg
  rw [h]

/-! ### The last destination (01 R27) -/

@[simp] theorem Ctl.noteDest_none_ldv (c : Ctl) : (c.noteDest none).ldv = false := rfl
@[simp] theorem Ctl.noteDest_none_ld (c : Ctl) : (c.noteDest none).ld = c.ld := rfl

theorem Ctl.noteDest_zero (c : Ctl) : c.noteDest (some 0) = { c with ldv := false } := rfl

theorem Ctl.noteDest_reg (c : Ctl) {d : Reg} (h : d ≠ 0) : c.noteDest (some d) = { c with ld := d, ldv := true } := if_neg h

theorem Ctl.noteDest_some_ldv (c : Ctl) (d : Reg) : (c.noteDest (some d)).ldv = decide (d ≠ 0) := by
  by_cases h : d = 0
  · subst h; rfl
  · rw [Ctl.noteDest_reg c h]; exact (decide_eq_true h).symm

theorem Ctl.noteDest_some_ld (c : Ctl) (d : Reg) : (c.noteDest (some d)).ld = (if d = 0 then c.ld else d) := by
  by_cases h : d = 0
  · subst h; rfl
  · rw [Ctl.noteDest_reg c h, if_neg h]

theorem Strand.setReg_zero (x : Strand) (v : Word) : x.setReg 0 v = x := rfl

theorem Strand.setReg_reg (x : Strand) {r : Reg} (v : Word) (h : r ≠ 0) :
    x.setReg r v = { x with regs := x.regs.set r.toNat v } := if_neg h

/-! ### Past an instruction -/

/-- An instruction that writes a register does this and nothing else. -/
theorem wrote_writeReg (s : State) (n : Nat) (d : Reg) (v : Word) : Wrote s (s.writeReg n d v) n d v := by
  refine ⟨by simp, ?_, ?_, Ctl.noteDest_some_ldv _ d, ?_, ?_⟩
  · exact (Strand.reg_congr (y := s.me.setReg d v) rfl d).trans (Strand.reg_setReg_same _ _ _)
  · intro r h
    exact (Strand.reg_congr (y := s.me.setReg d v) rfl r).trans (Strand.reg_setReg_other _ _ h)
  · exact (Ctl.noteDest_some_ld _ d).trans (by rw [State.setReg_me, Strand.setReg_ctl])
  · by_cases h : d = 0
    · subst h; rfl
    · unfold KeptButRegs State.writeReg State.setReg State.retire State.onMe
      simp only [Strand.setReg_reg _ _ h, Ctl.noteDest_reg _ h]

theorem went_retire (s : State) (n : Nat) : Went s (s.retire n none) (s.me.pc + word n) :=
  ⟨rfl, fun _ => rfl, rfl, rfl, rfl⟩

theorem went_jump (s : State) (w : Word) : Went s (s.jump w none) (evenPc w) :=
  ⟨rfl, fun _ => rfl, rfl, rfl, rfl⟩

theorem linked_jump (s : State) (d : Reg) (v w : Word) : Linked s ((s.setReg d v).jump w (some d)) (evenPc w) d v := by
  refine ⟨rfl, ?_, ?_, Ctl.noteDest_some_ldv _ d, ?_, ?_⟩
  · exact (Strand.reg_congr (y := s.me.setReg d v) rfl d).trans (Strand.reg_setReg_same _ _ _)
  · intro r h
    exact (Strand.reg_congr (y := s.me.setReg d v) rfl r).trans (Strand.reg_setReg_other _ _ h)
  · exact (Ctl.noteDest_some_ld _ d).trans (by rw [State.setReg_me, Strand.setReg_ctl])
  · by_cases h : d = 0
    · subst h; rfl
    · unfold KeptButRegs State.jump State.setReg State.onMe
      simp only [Strand.setReg_reg _ _ h, Ctl.noteDest_reg _ h]

/-- What taking a trap does (04 R142). -/
theorem trapped_takeTrap (s : State) (t : Trap) : Trapped s (s.takeTrap t) (BitVec.ofNat 7 t.cause) t.tval t.tval2 := by
  refine ⟨?_, State.takeTrap_agenda s t, fun h => by rw [State.takeTrap, State.scDone_none h]; rfl⟩
  unfold State.takeTrap State.scDone
  split
  · rfl
  · rfl

/-- The whole frame of a write, of a jump: every byte of memory. -/
theorem KeptButRegs.mem {s t : State} (h : KeptButRegs s t) : t.mem = s.mem := by
  rw [h]

theorem KeptButRegs.others {s t : State} (h : KeptButRegs s t) : t.others = s.others := by
  rw [h]

theorem KeptButRegs.fw {s t : State} (h : KeptButRegs s t) : t.fw = s.fw := by
  rw [h]

/-! ### From an answer to what an instruction does -/

theorem writes_next {i : Instr} {s : State} {n : Nat} {d : Reg} {v : Word} (h : exec i s = .next (s.writeReg n d v)) :
    Writes i s n d v := ⟨_, h, wrote_writeReg ..⟩

theorem goes_retire {i : Instr} {s : State} {n : Nat} (h : exec i s = .next (s.retire n none)) :
    Goes i s (s.me.pc + word n) := ⟨_, h, went_retire ..⟩

theorem goes_jump {i : Instr} {s : State} {w : Word} (h : exec i s = .next (s.jump w none)) : Goes i s (evenPc w) :=
  ⟨_, h, went_jump ..⟩

theorem links_next {i : Instr} {s : State} {n : Nat} {d : Reg} {w : Word} (h : exec i s = s.link d n w) :
    Links i s (evenPc w) d (s.me.pc + word n) := ⟨_, h, linked_jump ..⟩

theorem traps_next {i : Instr} {s : State} {t : Trap} (h : exec i s = s.trap t) :
    Traps i s (BitVec.ofNat 7 t.cause) t.tval t.tval2 := ⟨_, h, trapped_takeTrap ..⟩

/-- A conditional branch, of either length, whose condition is `c`. -/
theorem goes_branch {i : Instr} {s : State} {w : Word} {n : Nat} {t : Bool} {c : Prop} [Decidable c] (hc : t = decide c)
    (h : exec i s = .next (if t then s.jump w none else s.retire n none)) :
    Goes i s (if c then evenPc w else s.me.pc + word n) := by
  subst hc
  refine ⟨_, h, ?_⟩
  by_cases hc : c
  · simp only [hc, decide_true, if_true]
    exact went_jump ..
  · simp only [hc, decide_false, if_false]
    exact went_retire ..

/-! ### Compact forms (02 R48, R49) -/

theorem State.compact_ldv {s : State} (h : s.me.ctl.ldv = true) (f : Word → Result) : s.compact f = f (s.reg s.me.ctl.ld) :=
  if_pos h

theorem State.compact_noLdv {s : State} (h : s.me.ctl.ldv = false) (f : Word → Result) : s.compact f = s.trap s.illegal :=
  if_neg (by rw [h]; exact Bool.false_ne_true)

theorem State.compactOp_ldv {s : State} (h : s.me.ctl.ldv = true) (d : Reg) (f : Word → Word) :
    s.compactOp d f = .next (s.writeReg 2 d (f (s.reg s.me.ctl.ld))) := s.compact_ldv h _

theorem State.compactOp_noLdv {s : State} (h : s.me.ctl.ldv = false) (d : Reg) (f : Word → Word) :
    s.compactOp d f = s.trap s.illegal := s.compact_noLdv h _

/-! ### Division and flags -/

theorem State.opDiv_nonzero (s : State) (d a b : Reg) (f : Word → Word → Word) (h : s.reg b ≠ 0) :
    s.opDiv d a b f = .next (s.writeReg 4 d (f (s.reg a) (s.reg b))) := by
  simp only [State.opDiv, if_neg h]

theorem State.opDiv_zero (s : State) (d a b : Reg) (f : Word → Word → Word) (h : s.reg b = 0) :
    s.opDiv d a b f = .next ((s.writeReg 4 d (f (s.reg a) 0)).raiseI iflagDZ) := by
  simp only [State.opDiv, h, if_true]

/-- A write with flags: the flags raised before or after the write. -/
theorem wrote_raise (s : State) (n : Nat) (d : Reg) (v : Word) (f : BitVec 5) (g : BitVec 4) :
    ((s.writeReg n d v).raiseF f).raiseI g = ((s.raiseF f).raiseI g).writeReg n d v := by
  by_cases h : d = 0
  · subst h; rfl
  · unfold State.raiseF State.raiseI State.writeReg State.setReg State.retire State.onMe Strand.raise Ctl.raise
    simp only [Strand.setReg_reg _ _ h, Ctl.noteDest_reg _ h]

theorem Ctl.raise_zero (c : Ctl) : c.raise 0 0 = c := by
  unfold Ctl.raise
  simp

theorem Strand.raise_zero (x : Strand) : x.raise 0 0 = x := by
  have h : (fun p : Pend => { p with back := p.back.map fun b => { b with ctl := b.ctl.raise 0 0 } }) = id := by
    funext p
    cases p with
    | mk => simp only [Ctl.raise_zero, Option.map_id', id]
  unfold Strand.raise
  rw [h, List.map_id, Ctl.raise_zero]

theorem State.raiseF_zero (s : State) : s.raiseF 0 = s := by
  unfold State.raiseF State.onMe
  simp only [Strand.raise_zero]

theorem State.raiseI_zero (s : State) : s.raiseI 0 = s := by
  unfold State.raiseI State.onMe
  simp only [Strand.raise_zero]

theorem writesFlags_next {i : Instr} {s : State} {n : Nat} {d : Reg} {v : Word} {f : BitVec 5} {g : BitVec 4}
    (h : exec i s = .next (((s.writeReg n d v).raiseF f).raiseI g)) : WritesFlags i s n d v f g := by
  refine ⟨_, h, ?_⟩
  rw [wrote_raise]
  exact wrote_writeReg ..

theorem writesFlags_f {i : Instr} {s : State} {n : Nat} {d : Reg} {v : Word} {f : BitVec 5}
    (h : exec i s = .next ((s.writeReg n d v).raiseF f)) : WritesFlags i s n d v f 0 :=
  writesFlags_next (h.trans (by rw [State.raiseI_zero]))

theorem writesFlags_i {i : Instr} {s : State} {n : Nat} {d : Reg} {v : Word} {g : BitVec 4}
    (h : exec i s = .next ((s.writeReg n d v).raiseI g)) : WritesFlags i s n d v 0 g :=
  writesFlags_next (h.trans (by rw [State.raiseF_zero]))

/-- A floating result (03 R96). -/
theorem writesFlags_writeF {i : Instr} {s : State} {d : Reg} {r : FRes} (h : exec i s = s.writeF d r) :
    WritesFlags i s 4 d (word r.1) r.2 0 := writesFlags_f h

end Sys2Proof.Machine
end

