-- ==== Sys2Proof/Laws/Private.lean ====
section
/-! SUPPORT. Accesses to the private window: how its addresses resolve, and what a load, a store and an atomic there do. -/

namespace Sys2Proof.Machine

open Sys2Proof

theorem fld_lt (w : Word) (lo len : Nat) : fld w lo len < 2 ^ len := Nat.mod_lt _ (Nat.two_pow_pos len)

theorem privAddr_toNat {o : Nat} (h : o < 0x2000) : (privAddr o).toNat = 0xE000000000000000 + o := by
  have e : (0xE000000000000000 : Word).toNat = 0xE000000000000000 := rfl
  unfold privAddr
  rw [BitVec.toNat_add, e]
  simp only [BitVec.toNat_ofNat]
  omega

/-- An address of the private window is classified as such, with its offset (01 R31). -/
theorem windowOf_privAddr {o : Nat} (h : o < 0x2000) : windowOf (privAddr o) = some (.priv o) := by
  have e := privAddr_toNat h
  have h1 : fld (privAddr o) 56 8 = 0xE0 := by
    unfold fld
    rw [e, Nat.shiftRight_eq_div_pow]
    omega
  have h2 : fld (privAddr o) 13 43 = 0 := by
    unfold fld
    rw [e, Nat.shiftRight_eq_div_pow]
    omega
  have h3 : fld (privAddr o) 0 13 = o := by
    unfold fld
    rw [e, Nat.shiftRight_eq_div_pow]
    omega
  unfold windowOf
  rw [h1]
  simp [h2, h3]

theorem privAddr_add (o n : Nat) : privAddr o + word n = privAddr (o + n) := by
  unfold privAddr word
  rw [BitVec.add_assoc, ← BitVec.ofNat_add]

theorem resolve_priv (s : State) (f : Form) {o n : Nat} (h : o + n ≤ 0x2000) (h0 : 0 < n) :
    s.resolve s.agent f (privAddr o) n = .ok (privParts s o n) := by
  have w1 := windowOf_privAddr (o := o) (by omega)
  have w2 : windowOf (privAddr o + word (n - 1)) = some (.priv (o + (n - 1))) := by
    rw [privAddr_add]
    exact windowOf_privAddr (by omega)
  have c : s.checkWindow s.agent (privAddr o) n = .ok (.priv o) := by
    simp only [State.checkWindow, w1, w2, State.inLimit, Window.wrongCore, Window.same]
    rfl
  have hm : (privAddr o).toNat % 8 = o % 8 := by
    rw [privAddr_toNat (by omega)]
    omega
  unfold State.resolve
  rw [c]
  simp only [partLens, hm]
  unfold privParts
  by_cases h8 : n ≤ 8 - o % 8
  · simp only [h8, if_true, State.resolveIn]
    rfl
  · simp only [h8, if_false, State.resolveIn, Window.add]
    rfl

/-- An access to the private window leaves no trace in a TLB. -/
theorem noteAccess_priv (s : State) (a : Agent) (ns : List Nat) {o : Nat} (h : o + ns.sum ≤ 0x2000) (hp : ∀ n ∈ ns, 0 < n) :
    s.noteAccess a (privAddr o) ns = s := by
  induction ns generalizing o with
  | nil => rfl
  | cons n r ih =>
    have hn := hp n (List.mem_cons_self ..)
    simp only [List.sum_cons] at h
    unfold State.noteAccess
    simp only [windowOf_privAddr (o := o) (by omega), privAddr_add]
    exact ih (by omega) fun m hm => hp m (List.mem_cons_of_mem _ hm)

theorem privParts_sum (s : State) (o n : Nat) : ((privParts s o n).map Prod.snd).sum = n := by
  unfold privParts
  split
  · simp
  · simp only [List.map_cons, List.map_nil, List.sum_cons, List.sum_nil]
    omega

theorem privParts_pos (s : State) (o n : Nat) (h : 0 < n) : ∀ m ∈ (privParts s o n).map Prod.snd, 0 < m := by
  unfold privParts
  split
  · simp [h]
  · simp only [List.map_cons, List.map_nil, List.mem_cons, List.not_mem_nil, or_false]
    rintro m (rfl | rfl) <;> omega

theorem noteParts_priv (s : State) {o n : Nat} (h : o + n ≤ 0x2000) (h0 : 0 < n) :
    s.noteAccess s.agent (privAddr o) ((privParts s o n).map Prod.snd) = s :=
  noteAccess_priv s _ _ (by rw [privParts_sum]; exact h) (privParts_pos s o n h0)

theorem privKey_ge (s : State) (o : Nat) : 2 ^ 52 ≤ s.privKey o := by
  unfold State.privKey tcmKey
  omega

theorem privKey_add (s : State) (o n : Nat) : s.privKey (o + n) = s.privKey o + n := by
  unfold State.privKey tcmKey
  omega

theorem privKey_lt (s : State) {o : Nat} (h : o < 0x2000) : s.privKey o < 2 ^ 53 := by
  have := s.tid.isLt
  unfold State.privKey tcmKey Tid.core Tid.ctx
  omega

/-- A word of a TCM names the log of its cluster. -/
theorem wordSource_priv (s : State) {o : Nat} (h : o < 0x2000) :
    s.wordSource (s.privKey o) = (0x11, (s.privKey o - 2 ^ 52) % 2 ^ 17, true, (s.privKey o - 2 ^ 52) / 2 ^ 17 / 16) := by
  unfold State.wordSource
  rw [if_neg (by have := privKey_lt s h; omega), if_pos (privKey_ge s o)]

theorem injected_priv {s : State} (c : s.Calm) (t : Option Tid) {o : Nat} (h : o < 0x2000) :
    s.injected t (s.privKey o) = (s, false) := by
  unfold State.injected
  rw [wordSource_priv s h]
  simp [c.noInjection]

theorem l1Injected_uncached (s : State) (a : Agent) (l1 : Bool) {p : Place} (h : p.cached = false) : s.l1Injected a l1 p = s := by
  unfold State.l1Injected
  simp [h]

theorem l1Ecc_uncached (s : State) (a : Agent) (l1 : Bool) {p : Place} (n : Nat) (h : p.cached = false) : s.l1Ecc a l1 p n = s := by
  unfold State.l1Ecc
  simp [h]

theorem noteSeen_uncached (s : State) (a : Agent) (l1 : Bool) {p : Place} (n : Nat) (h : p.cached = false) :
    s.noteSeen a l1 p n = s := by
  unfold State.noteSeen
  simp [h]

theorem lineBusy_uncached (s : State) (cn : Nat) {p : Place} (h : p.cached = false) : s.lineBusy cn p = false := by
  unfold State.lineBusy
  simp [h]

/-- No link lies between a strand and its private window. -/
theorem linkHeld_priv (s : State) {o : Nat} (h : o < 0x2000) : s.linkHeld s.agent (privPlace s o) = false := by
  have e : s.dieOf (privPlace s o) = s.agent.die := by
    show some ((s.privKey o - 2 ^ 52) / 2 ^ 17 / 512) = some s.tid.die
    have := s.tid.isLt
    unfold State.privKey tcmKey Tid.core Tid.ctx Tid.die
    congr 1
    omega
  unfold State.linkHeld State.cutOff
  rw [e]
  simp

theorem atomicWaits_priv (s : State) {o : Nat} (h : o < 0x2000) : s.atomicWaits s.agent (privPlace s o) = false := by
  unfold State.atomicWaits State.atomicHeld
  rw [lineBusy_uncached s _ rfl, linkHeld_priv s h]
  rfl

theorem storeWaits_priv (s : State) {o : Nat} (h : o < 0x2000) : s.storeWaits s.agent (privPlace s o) = false := by
  unfold State.storeWaits
  rw [lineBusy_uncached s _ rfl, linkHeld_priv s h]
  rfl

/-- A request for the private window does not leave the cluster. -/
theorem replied_priv (s : State) (a : Agent) (o : Nat) : s.replied a (privPlace s o) = s := by
  have e : (privPlace s o).leaves a = false := by
    show (!a.sysDie && false) = false
    simp
  unfold State.replied
  rw [e]
  rfl

theorem ecc_calm {s : State} (h : s.synd = []) (t : Option Tid) (k n : Nat) : s.ecc t k n = s := by
  unfold State.ecc
  rw [if_pos h]

theorem redirect_calm {s : State} (h : s.sys.migrating = []) (k : Nat) : s.redirect k = k := by
  unfold State.redirect
  rw [if_pos h]

theorem plainByte_priv (s : State) (k : Nat) (h : 2 ^ 52 ≤ k) : s.plainByte 0 k = s.mem.byte k := by
  unfold State.plainByte
  rw [if_neg (by omega)]

theorem plainBytes_priv (s : State) (n : Nat) : ∀ k, 2 ^ 52 ≤ k → s.plainBytes 0 k n = s.mem.bytes k n := by
  induction n with
  | zero => intros; rfl
  | succ n ih =>
    intro k h
    unfold State.plainBytes Memory.bytes
    rw [plainByte_priv s k h, ih (k + 1) (by omega)]

theorem poisonedIn_calm {s : State} (h : s.poison = []) (k n : Nat) : s.poisonedIn k n = false := by
  unfold State.poisonedIn
  rw [h]
  simp [NMap.get]

theorem readPart_priv {s : State} (c : s.Calm) (a : Agent) (l1 : Bool) (o n : Nat) :
    s.readPart a l1 (privPlace s o) n = (s.mem.bytes (s.privKey o) n, false) := by
  unfold State.readPart State.readPlace
  have h1 : (privPlace s o).isReg = false := rfl
  have h2 : (privPlace s o).cached = false := rfl
  have h3 : (privPlace s o).key = s.privKey o := rfl
  have h4 : (privPlace s o).keyId = 0 := rfl
  rw [h1]
  simp only [h2, h3, h4, Bool.and_false, Bool.false_eq_true, if_false, redirect_calm c.noMigration,
    plainBytes_priv s n _ (privKey_ge s o), poisonedIn_calm c.noPoison]

theorem readParts_cons_priv {s : State} (c : s.Calm) (a : Agent) (l1 : Bool) (addr : Word) {o n : Nat} (h : o < 0x2000)
    (r : List (Place × Nat)) :
    s.readParts a l1 addr ((privPlace s o, n) :: r) =
      (match s.readParts a l1 (addr + word n) r with
       | (s2, .ok bs) => (s2, .ok (s.mem.bytes (s.privKey o) n ++ bs))
       | (s2, .error e) => (s2, .error e)) := by
  have h1 : (privPlace s o).isReg = false := rfl
  have h2 : (privPlace s o).cached = false := rfl
  have h3 : (privPlace s o).key = s.privKey o := rfl
  rw [State.readParts]
  simp only [l1Injected_uncached s a l1 h2, l1Ecc_uncached s a l1 n h2, noteSeen_uncached s a l1 n h2, h3, injected_priv c _ h, h1,
    Bool.and_false, Bool.false_and, Bool.false_eq_true, if_false, ecc_calm c.noSyndrome, replied_priv, readPart_priv c, Bool.or_self,
    State.afterRead, h2]
  all_goals rfl

/-- What a calm state's private window gives a read. -/
theorem readParts_priv {s : State} (c : s.Calm) (a : Agent) (l1 : Bool) (addr : Word) {o n : Nat} (h : o + n ≤ 0x2000) (h0 : 0 < n) :
    s.readParts a l1 addr (privParts s o n) = (s, .ok (s.mem.bytes (s.privKey o) n)) := by
  unfold privParts
  split
  · rw [readParts_cons_priv c a l1 addr (by omega)]
    simp [State.readParts]
  · rw [readParts_cons_priv c a l1 addr (by omega), readParts_cons_priv c a l1 _ (by omega)]
    simp only [State.readParts, List.append_nil]
    have e : s.mem.bytes (s.privKey o) n
        = s.mem.bytes (s.privKey o) (8 - o % 8) ++ s.mem.bytes (s.privKey (o + (8 - o % 8))) (n - (8 - o % 8)) := by
      rw [privKey_add, ← Memory.bytes_append]
      congr 1
      omega
    rw [e]

theorem privParts_tcm (s : State) (o n : Nat) : ((privParts s o n).all fun q => decide (q.1.kind = .tcm)) = true := by
  unfold privParts
  split <;> rfl

theorem privParts_near (s : State) (o n : Nat) : ((privParts s o n).any fun q => q.1.far) = false := by
  unfold privParts
  split <;> rfl

theorem privParts_here (s : State) {o n : Nat} (h : o + n ≤ 0x2000) (h0 : 0 < n) :
    ((privParts s o n).any fun q => decide (q.1.kind = .remote) || s.storeWaits s.agent q.1) = false := by
  have e : ∀ k, k < 0x2000 → (decide ((privPlace s k).kind = .remote) || s.storeWaits s.agent (privPlace s k)) = false := by
    intro k hk
    rw [storeWaits_priv s hk]
    rfl
  unfold privParts
  split
  · simp [e o (by omega)]
  · simp [e o (by omega), e (o + (8 - o % 8)) (by omega)]

theorem privParts_noCount (s : State) (o n : Nat) : ((privParts s o n).any fun q => decide (q.1.kind = .dieBar)) = false := by
  unfold privParts
  split <;> rfl

theorem privParts_noBell (s : State) (o n : Nat) : ((privParts s o n).any fun q => decide (q.1.kind = .doorbell)) = false := by
  unfold privParts
  split <;> rfl

/-- A load from the private window of a calm state writes its register and does nothing else. -/
theorem loadOp_priv {s : State} (c : s.Calm) (len : Nat) (d : Reg) {o n : Nat} (sg : Bool) (h : o + n ≤ 0x2000) (h0 : 0 < n) :
    s.loadOp len d (privAddr o) n sg = .next (s.writeReg len d (extend n sg (s.mem.bytes (s.privKey o) n))) := by
  unfold State.loadOp
  rw [if_neg (by rw [c.noWait]; exact Bool.false_ne_true), resolve_priv s _ h h0]
  simp only [noteParts_priv s h h0, c.noWrites, List.reverse_nil, forward, privParts_near,
    privParts_tcm, Bool.or_true, Bool.not_false, Bool.and_self, if_true, readParts_priv c _ _ _ h h0]

theorem homeWrite_priv {s : State} (c : s.Calm) (w : Option Tid) (k : Nat) (bs : List Byte) (h : 2 ^ 52 ≤ k) :
    s.homeWrite w 0 k bs = { s with mem := s.mem.setBytes k bs } := by
  unfold State.homeWrite
  simp only [if_neg (show ¬ k < 2 ^ 52 by omega), c.noSyndrome, if_true, if_neg (show ¬ k < 0x120000000000 by omega), c.noPoison, c.noReplica, clearPoison]

theorem writePlace_priv {s : State} (c : s.Calm) (a : Agent) (l1 : Bool) (o : Nat) (bs : List Byte) :
    s.writePlace a l1 (privPlace s o) bs = { s with mem := s.mem.setBytes (s.privKey o) bs } :=
  homeWrite_priv c _ _ _ (privKey_ge s o)

theorem calm_mem {s : State} (c : s.Calm) {m : Memory} (w : m.wf = true) : State.Calm { s with mem := m } :=
  ⟨c.noWait, c.noWrites, c.noSeen, c.noSc, c.noSyndrome, c.noPoison, c.noMigration, c.noReplica, c.noInjection, w⟩

/-- A private key is in no region of another node. -/
theorem writeParts_cons_priv {s : State} (c : s.Calm) (a : Agent) (l1 : Bool) (o n : Nat) (r : List (Place × Nat))
    (bs : List Byte) : s.writeParts a l1 ((privPlace s o, n) :: r) bs =
      State.writeParts { s with mem := s.mem.setBytes (s.privKey o) (bs.take n) } a l1 r (bs.drop n) := by
  rw [State.writeParts]
  have e : s.writePlace a l1 (privPlace s o) (bs.take n) = { s with mem := s.mem.setBytes (s.privKey o) (bs.take n) } :=
    writePlace_priv c a l1 o _
  split
  · next h => cases h
  · rw [e]
    exact congrArg (fun t => State.writeParts t a l1 r (bs.drop n)) (replied_priv _ a o)

theorem writeParts_priv {s : State} (c : s.Calm) (a : Agent) (l1 : Bool) (o n : Nat) (bs : List Byte) (hb : bs.length = n) :
    s.writeParts a l1 (privParts s o n) bs = { s with mem := s.mem.setBytes (s.privKey o) bs } := by
  unfold privParts
  split
  · rw [writeParts_cons_priv c, List.take_of_length_le (by omega)]
    rfl
  · rw [writeParts_cons_priv c]
    have c2 := calm_mem c (Memory.wf_setBytes (s.privKey o) (bs.take (8 - o % 8)) c.memory)
    have p2 : privPlace s (o + (8 - o % 8)) =
        privPlace { s with mem := s.mem.setBytes (s.privKey o) (bs.take (8 - o % 8)) } (o + (8 - o % 8)) := rfl
    have hd : (bs.drop (8 - o % 8)).take (n - (8 - o % 8)) = bs.drop (8 - o % 8) :=
      List.take_of_length_le (by rw [List.length_drop]; omega)
    rw [p2, writeParts_cons_priv c2, hd]
    have k2 : State.privKey { s with mem := s.mem.setBytes (s.privKey o) (bs.take (8 - o % 8)) } (o + (8 - o % 8))
        = s.privKey o + (bs.take (8 - o % 8)).length := by
      rw [List.length_take, Nat.min_eq_left (by omega)]
      exact privKey_add s o _
    rw [State.writeParts, k2]
    simp only []
    rw [← Memory.setBytes_append, List.take_append_drop]

/-- A store to the private window of a calm state performs at once, where the state completes issued work at once. -/
theorem storeOp_priv {s : State} (c : s.Calm) (e : s.eager = true) (len : Nat) {o n : Nat} (v : Word) (h : o + n ≤ 0x2000)
    (h0 : 0 < n) : s.storeOp len (privAddr o) n v =
      .next (State.retire { s with mem := s.mem.setBytes (s.privKey o) (natLe v.toNat n) } len none) := by
  unfold State.storeOp
  rw [if_neg (by rw [c.noWait]; exact Bool.false_ne_true), resolve_priv s _ h h0]
  simp only [noteParts_priv s h h0, privParts_noBell, privParts_noCount, Bool.false_and, Bool.false_or, Bool.or_self, Bool.false_eq_true,
    if_false, e, c.noWrites, List.isEmpty_nil, Bool.and_self, privParts_here s h h0, Bool.not_false, if_true,
    writeParts_priv c _ _ _ _ _ (natLe_length v.toNat n)]

/-- Elsewhere it enters the write queue. -/
theorem storeOp_queue {s : State} (c : s.Calm) (e : s.eager = false) (len : Nat) {o n : Nat} (v : Word) (h : o + n ≤ 0x2000)
    (h0 : 0 < n) : s.storeOp len (privAddr o) n v =
      .next (((State.onMe { s with fresh := s.fresh + 1 } fun x =>
        { x with writes := [wentry s (privAddr o) (privParts s o n) (natLe v.toNat n)], fullAt := none }).retire len none).push
        (.writeQueueSend s.tid)) := by
  unfold State.storeOp
  rw [if_neg (by rw [c.noWait]; exact Bool.false_ne_true), resolve_priv s _ h h0]
  have hh : s.me.storeHeld = false := by
    unfold Strand.storeHeld
    rw [c.noWrites]
    split <;> simp
  simp only [noteParts_priv s h h0, privParts_noBell, privParts_noCount, Bool.false_and, Bool.or_self, Bool.false_eq_true, if_false, e, hh, c.noWrites, List.length_nil, Nat.reduceLeDiff]
  simp only [State.onMe, c.noWrites, List.nil_append]

theorem storedBytes_setBytes {s : State} (w : s.mem.wf = true) (p n : Nat) (v : Word) :
    StoredBytes s (s.mem.setBytes p (natLe v.toNat n)) p n v := by
  refine ⟨Memory.wf_setBytes _ _ w, fun k => ?_⟩
  split
  · next hk =>
    have e : k = p + (k - p) := by omega
    have hl : k - p < (natLe v.toNat n).length := by rw [natLe_length]; omega
    rw [e, Memory.byte_setBytes_inside hl w, natLe_get _ _ (by omega), show p + (k - p) - p = k - p by omega]
    apply BitVec.eq_of_toNat_eq
    simp only [BitVec.toNat_ofNat, BitVec.extractLsb'_toNat, Nat.shiftRight_eq_div_pow]
    rw [show (2 : Nat) ^ (8 * (k - p)) = 256 ^ (k - p) by rw [Nat.pow_mul]]
  · next hk =>
    rw [Memory.byte_setBytes_outside (by rw [natLe_length]; omega) w]

/-! ### Atomics (03 R89 to R91) -/

theorem privParts_one (s : State) {o n : Nat} (hn : n = 4 ∨ n = 8) (h : o % n = 0) : privParts s o n = [(privPlace s o, n)] := by
  unfold privParts
  rw [if_pos (by rcases hn with rfl | rfl <;> omega)]

/-- An access read and written at the private window. -/
theorem atomicAt_priv {s : State} (c : s.Calm) (a : Agent) (acc : Access) {o : Nat} (h : o < 0x2000) :
    s.atomicAt a (privPlace s o) acc =
      (match acc.writes (s.mem.bytes (s.privKey o) acc.size) with
       | some bs => { s with mem := s.mem.setBytes (s.privKey o) bs }
       | none => s, .ok (s.mem.bytes (s.privKey o) acc.size)) := by
  have h2 : (privPlace s o).cached = false := rfl
  have h3 : (privPlace s o).key = s.privKey o := rfl
  have h4 : (privPlace s o).keyId = 0 := rfl
  unfold State.atomicAt
  rw [replied_priv, if_neg (show ¬ (privPlace s o).kind = .dieBar from PlaceKind.noConfusion)]
  simp only [h3, injected_priv c _ h, ecc_calm c.noSyndrome, h2, Bool.false_eq_true, if_false]
  have r : s.readPlace a false (privPlace s o) acc.size = (s.mem.bytes (s.privKey o) acc.size, false) := by
    unfold State.readPlace
    simp only [h3, h4, Bool.false_and, Bool.false_eq_true, if_false, redirect_calm c.noMigration,
      plainBytes_priv s _ _ (privKey_ge s o), poisonedIn_calm c.noPoison]
  rw [r]
  simp only [writePlace_priv c]
  all_goals rfl

/-- An atomic with its operands: it performs at the private window of a calm state, advances the L1 generation if it acquires
at cl or wider, and writes what it read. -/
theorem atomicOp_priv {s : State} (c : s.Calm) (d a : Reg) {o n : Nat} (f : Form) (acc : Access) (od : Order) (sc : Scope)
    (ha : s.reg a = privAddr o) (hn : n = 4 ∨ n = 8) (h : o + n ≤ 0x2000) (hm : o % n = 0) (hz : acc.size = n) :
    s.atomicOp d a n f acc od sc =
      .next ((State.completeAccess
        (match acc.writes (s.mem.bytes (s.privKey o) n) with
         | some bs => { s with mem := s.mem.setBytes (s.privKey o) bs }
         | none => s)
        { id := s.fresh, gen := (s.cluster s.tid.cluster).gen, owner := .scalar, d := d, addr := privAddr o, parts := [(privPlace s o, n)], got := s.mem.bytes (s.privKey o) n
          acc := acc, order := od, scope := sc, tag := none, fail := none, part := s.me.ctl.part, raw := s.bodyEnc
          back := some s.me.backOf }).retire 4 (some d)) := by
  have h0 : 0 < n := by rcases hn with rfl | rfl <;> omega
  have al : (privAddr o).toNat % n = 0 := by
    rw [privAddr_toNat (by omega)]
    rcases hn with rfl | rfl <;> omega
  have pf : (privPlace s o).far = false := rfl
  have pk : (privPlace s o).kind = .tcm := rfl
  have rl : (Order.releases od && !s.me.performedAt sc || s.me.overlaps [(privPlace s o, n)]
      || (decide (od = .sc) && s.sys.scRun.isSome)) = false := by
    unfold Strand.performedAt Strand.overlaps Strand.sawScalar
    rw [c.noWrites, c.noSeen, c.noSc]
    simp
  unfold State.atomicOp
  simp only [ha]
  rw [if_neg (by rw [c.noWait]; exact Bool.false_ne_true), if_neg (by simp [al]), resolve_priv s _ h h0]
  have nt : s.noteAccess s.agent (privAddr o) ([(privPlace s o, n)].map Prod.snd) = s := by
    rw [← privParts_one s hn hm]
    exact noteParts_priv s h h0
  simp only [nt, privParts_one s hn hm, rl, Bool.false_eq_true, if_false, pf, pk, decide_true, Bool.or_true, Bool.not_false,
    Bool.and_self, atomicWaits_priv s (show o < 0x2000 by omega), if_true, atomicAt_priv c _ _ (show o < 0x2000 by omega), hz]
  all_goals rfl

theorem leNat_bytes_lt (m : Memory) (k n : Nat) : leNat (m.bytes k n) < 2 ^ (8 * n) := by
  induction n generalizing k with
  | zero => simp [Memory.bytes, leNat]
  | succ n ih =>
    have h1 := ih (k + 1)
    have h2 := (m.byte k).isLt
    simp only [Memory.bytes, leNat]
    rw [show 8 * (n + 1) = 8 * n + 8 by omega, Nat.pow_add]
    omega

/-- A sign-extended load is the sign extension of its bits (01 R17). -/
theorem extend_sign {w : Nat} (h0 : 0 < w) (h : w ≤ 64) (v : Nat) (hv : v < 2 ^ w) :
    (if (true && v.testBit (w - 1)) = true then word (v + 2 ^ 64 - 2 ^ w) else word v) = (BitVec.ofNat w v).signExtend 64 := by
  have hp : 2 ^ w ≤ 2 ^ 64 := Nat.pow_le_pow_right (by omega) h
  apply BitVec.eq_of_toNat_eq
  rw [BitVec.toNat_signExtend]
  have hm : (BitVec.ofNat w v).msb = v.testBit (w - 1) := by
    rw [BitVec.msb_eq_getLsbD_last, BitVec.getLsbD_ofNat]
    simp [show w - 1 < w by omega]
  rw [hm]
  have hz : ((BitVec.ofNat w v).setWidth 64).toNat = v := by
    rw [BitVec.toNat_setWidth, BitVec.toNat_ofNat, Nat.mod_eq_of_lt hv, Nat.mod_eq_of_lt (by omega)]
  rw [hz]
  by_cases hb : v.testBit (w - 1) = true
  · simp only [hb, Bool.and_self, if_true, BitVec.toNat_ofNat]
    rw [Nat.mod_eq_of_lt (by omega)]
    omega
  · simp only [hb, Bool.and_false, Bool.false_eq_true, if_false, BitVec.toNat_ofNat]
    rw [Nat.mod_eq_of_lt (by omega)]
    omega

theorem extend_signed (m : Memory) (p : Nat) {n : Nat} (h0 : 0 < n) (h : n ≤ 8) :
    extend n true (m.bytes p n) = (BitVec.ofNat (8 * n) (leNat (m.bytes p n))).signExtend 64 :=
  extend_sign (by omega) (by omega) _ (leNat_bytes_lt m p n)

theorem extend_unsigned (m : Memory) (p n : Nat) : extend n false (m.bytes p n) = word (leNat (m.bytes p n)) := rfl

/-! ### What an atomic computes (03 R89) -/

section
variable {w : Nat}

theorem amoLt_slt (n : Nat) (hn : w = 8 * n) (x y : BitVec w) :
    (if x.toNat.testBit (8 * n - 1) = y.toNat.testBit (8 * n - 1) then decide (x.toNat < y.toNat) else x.toNat.testBit (8 * n - 1))
      = x.slt y := by
  subst hn
  have m : ∀ z : BitVec (8 * n), z.toNat.testBit (8 * n - 1) = z.msb := fun z => by
    rw [BitVec.msb_eq_getLsbD_last]
    rfl
  rw [m, m, BitVec.slt_eq_ult]
  unfold BitVec.ult
  by_cases h : x.msb = y.msb
  · simp [h]
  · have := x.isLt
    have := y.isLt
    have hx := BitVec.msb_eq_decide x
    have hy := BitVec.msb_eq_decide y
    simp only [h, if_false]
    cases hxb : x.msb <;> cases hyb : y.msb <;> simp_all <;> omega

theorem amoNew_eq (op : VAmoOp) (n : Nat) (hn : w = 8 * n) (old x : BitVec w) (X : Nat) (hX : X % 2 ^ w = x.toNat) :
    amoNew op n old.toNat X = (match op with
      | .add => old + x
      | .and => old &&& x
      | .or => old ||| x
      | .xor => old ^^^ x
      | .min => if old.slt x then old else x
      | .max => if old.slt x then x else old
      | .minu => if old.ult x then old else x
      | .maxu => if old.ult x then x else old
      | .swap => x).toNat := by
  have ho : old.toNat % 2 ^ (8 * n) = old.toNat := by
    rw [← hn]
    exact Nat.mod_eq_of_lt old.isLt
  have hx : X % 2 ^ (8 * n) = x.toNat := by rw [← hn]; exact hX
  have hl := amoLt_slt n hn old x
  unfold amoNew
  simp only [ho, hx]
  cases op
  · simp only [BitVec.toNat_add, hn]
  · simp only [BitVec.toNat_and]
  · simp only [BitVec.toNat_or]
  · simp only [BitVec.toNat_xor]
  · simp only [hl]
    split <;> simp_all
  · simp only [hl]
    split <;> simp_all
  · simp only [BitVec.ult]
    split
    · next h => simp only [decide_eq_true_eq] at h; exact Nat.min_eq_left (by omega)
    · next h => simp only [decide_eq_true_eq] at h; exact Nat.min_eq_right (by omega)
  · simp only [BitVec.ult]
    split
    · next h => simp only [decide_eq_true_eq] at h; exact Nat.max_eq_right (by omega)
    · next h => simp only [decide_eq_true_eq] at h; exact Nat.max_eq_left (by omega)
  · rfl

end

theorem completeAccess_wrote {s : State} (m : Memory) (p : Pend) :
    Wrote { (if Order.acquires p.order then s.acquire s.tid.cluster p.scope else s) with mem := m }
      ((State.completeAccess { s with mem := m } p).retire 4 (some p.d)) 4 p.d p.value := by
  have e : (if Order.acquires p.order then State.acquire { s with mem := m } s.tid.cluster p.scope else { s with mem := m })
      = { (if Order.acquires p.order then s.acquire s.tid.cluster p.scope else s) with mem := m } := by
    split
    · unfold State.acquire State.advanceGen State.onCluster
      split <;> rfl
    · rfl
  unfold State.completeAccess
  rw [← e]
  exact wrote_writeReg ..

theorem completeAccess_mem {s : State} (m : Memory) (p : Pend) :
    ((State.completeAccess { s with mem := m } p).retire 4 (some p.d)).mem = m := by
  have z := (completeAccess_wrote (s := s) m p).2.2.2.2.2.mem
  exact z

theorem exchanges_of {i : Instr} {s : State} {m : Memory} {p : Pend} {k n : Nat} {new : Word}
    (hx : exec i s = .next ((State.completeAccess { s with mem := m } p).retire 4 (some p.d))) (hm : StoredBytes s m k n new) :
    Exchanges i s p.order p.scope p.d k n p.value new := by
  refine ⟨_, hx, ?_, ?_⟩
  · rw [completeAccess_mem]
    exact hm
  · rw [completeAccess_mem]
    exact completeAccess_wrote m p

/-- An AMO that stores `new` and gives `got`. -/
theorem exchanges_amo {i : Instr} {s : State} (c : s.Calm) (d a b : Reg) (op : VAmoOp) (od : Order) (sc : Scope) {o n : Nat}
    (ha : s.reg a = privAddr o) (hn : n = 4 ∨ n = 8) (h : o + n ≤ 0x2000) (hm : o % n = 0) (got new : Word)
    (hi : exec i s = s.amoOp d a b n op od sc) (hg : extend n (decide (n = 4)) (s.mem.bytes (s.privKey o) n) = got)
    (hv : amoNew op n (s.privNum o n) (s.reg b).toNat = new.toNat) : Exchanges i s od sc d (s.privKey o) n got new := by
  have r := atomicOp_priv c d a (.amo op (s.reg b)) (.amo n op (s.reg b)) od sc ha hn h hm rfl
  have w : (Access.amo n op (s.reg b)).writes (s.mem.bytes (s.privKey o) n) = some (natLe new.toNat n) := by
    rw [← hv]
    rfl
  rw [w] at r
  subst hg
  exact exchanges_of (hi.trans r) (storedBytes_setBytes c.memory _ _ _)

/-- A CAS that finds its comparand stores the new value; one that does not stores nothing. -/
theorem exchanges_cas {i : Instr} {s : State} (c : s.Calm) (d a b : Reg) (od : Order) (sc : Scope) {o n : Nat}
    (ha : s.reg a = privAddr o) (hn : n = 4 ∨ n = 8) (h : o + n ≤ 0x2000) (hm : o % n = 0) (got : Word)
    (hi : exec i s = s.casOp d a b n od sc) (hg : extend n (decide (n = 4)) (s.mem.bytes (s.privKey o) n) = got)
    (hc : s.privNum o n = (s.reg d).toNat % 2 ^ (8 * n)) : Exchanges i s od sc d (s.privKey o) n got (s.reg b) := by
  have r := atomicOp_priv c d a .cas (.cas n (s.reg d) (s.reg b)) od sc ha hn h hm rfl
  have w : (Access.cas n (s.reg d) (s.reg b)).writes (s.mem.bytes (s.privKey o) n) = some (natLe (s.reg b).toNat n) := if_pos hc
  rw [w] at r
  subst hg
  exact exchanges_of (hi.trans r) (storedBytes_setBytes c.memory _ _ _)

theorem readsOnly_cas {i : Instr} {s : State} (c : s.Calm) (d a b : Reg) (od : Order) (sc : Scope) {o n : Nat}
    (ha : s.reg a = privAddr o) (hn : n = 4 ∨ n = 8) (h : o + n ≤ 0x2000) (hm : o % n = 0) (got : Word)
    (hi : exec i s = s.casOp d a b n od sc) (hg : extend n (decide (n = 4)) (s.mem.bytes (s.privKey o) n) = got)
    (hc : s.privNum o n ≠ (s.reg d).toNat % 2 ^ (8 * n)) : ReadsOnly i s od sc d got := by
  have r := atomicOp_priv c d a .cas (.cas n (s.reg d) (s.reg b)) od sc ha hn h hm rfl
  have w : (Access.cas n (s.reg d) (s.reg b)).writes (s.mem.bytes (s.privKey o) n) = none := if_neg hc
  rw [w] at r
  refine ⟨_, hi.trans r, ?_⟩
  have z := completeAccess_wrote (s := s) s.mem
    { id := s.fresh, gen := (s.cluster s.tid.cluster).gen, owner := .scalar, d := d, addr := privAddr o, parts := [(privPlace s o, n)], got := s.mem.bytes (s.privKey o) n
      acc := .cas n (s.reg d) (s.reg b), order := od, scope := sc, tag := none, fail := none, part := s.me.ctl.part, raw := s.bodyEnc
      back := some s.me.backOf }
  subst hg
  have e : (if Order.acquires od then s.acquire s.tid.cluster sc else s).mem = s.mem := by
    split
    · unfold State.acquire State.advanceGen State.onCluster
      split <;> rfl
    · rfl
  have e2 : { (if Order.acquires od then s.acquire s.tid.cluster sc else s) with mem := s.mem }
      = (if Order.acquires od then s.acquire s.tid.cluster sc else s) := by rw [← e]
  rw [show { (if Order.acquires od then s.acquire s.tid.cluster sc else s) with mem := s.mem }
      = (if Order.acquires od then s.acquire s.tid.cluster sc else s) from e2] at z
  exact z

theorem stores_next {i : Instr} {s : State} {len p n : Nat} {v : Word} (w : s.mem.wf = true)
    (h : exec i s = .next (State.retire { s with mem := s.mem.setBytes p (natLe v.toNat n) } len none)) :
    Stores i s len p n v := by
  refine ⟨_, h, storedBytes_setBytes w p n v, ?_⟩
  exact went_retire { s with mem := s.mem.setBytes p (natLe v.toNat n) } len

end Sys2Proof.Machine
end

