-- ==== Sys2Proof/Laws/Reach.lean ====
section
/-! SUPPORT. What an access leaves in the caches, the TLBs and the congestion window, and what a scalar access to memory of this
package does. -/

namespace Sys2Proof.Machine

open Sys2Proof

/-! ### What an access may leave -/

/-- No tag of an L2 slice holds an error, and the table of clusters is canonical. -/
structure State.Tidy (s : State) : Prop where
  tags : ∀ k l, Holds s.sys.l2 k l → l.tagSynd = 0
  clusters : NMap.wf Cluster.reset s.clusters = true

theorem AsksDram.refl (s : State) : AsksDram s s := asksDram_of_eq rfl

theorem Reached.refl (c : Nat) (s : State) : Reached c s s := ⟨rfl, rfl, fun _ _ => rfl, AsksDram.refl s⟩

theorem Reached.trans {c : Nat} {s t u : State} (h : Reached c s t) (g : Reached c t u) : Reached c s u := by
  refine ⟨?_, ?_, fun k hk => (g.others k hk).trans (h.others k hk),
    h.asks.trans g.asks⟩
  · have a := g.same
    rw [h.same] at a
    exact a
  · have a := g.cluster
    rw [h.cluster] at a
    exact a

/-- From a tidy state an access of cluster `c` goes to a tidy one, and leaves no more than an access may. -/
structure Leaves (c : Nat) (s t : State) : Prop where
  reach : s.Tidy → Reached c s t ∧ t.Tidy

theorem Leaves.refl (c : Nat) (s : State) : Leaves c s s := ⟨fun h => ⟨Reached.refl c s, h⟩⟩

theorem Leaves.trans {c : Nat} {s t u : State} (h : Leaves c s t) (g : Leaves c t u) : Leaves c s u :=
  ⟨fun x => ⟨(h.reach x).1.trans (g.reach (h.reach x).2).1, (g.reach (h.reach x).2).2⟩⟩

/-- What is known of the tags may be used. -/
theorem Leaves.of_tags {c : Nat} {s t : State} (h : (∀ k l, Holds s.sys.l2 k l → l.tagSynd = 0) → Leaves c s t) : Leaves c s t :=
  ⟨fun x => (h x.tags).reach x⟩

/-! ### L2 and the memory side -/

/-- A change of cache contents alone. -/
theorem leaves_caches {c : Nat} {s t : State}
    (e : t = { s with agenda := t.agenda, sys := { s.sys with l2 := t.sys.l2, msc := t.sys.msc, replicas := t.sys.replicas } })
    (a : AsksDram s t) (g : (∀ k l, Holds s.sys.l2 k l → l.tagSynd = 0) → ∀ k l, Holds t.sys.l2 k l → l.tagSynd = 0) : Leaves c s t := by
  refine ⟨fun h => ?_⟩
  have k : t.clusters = s.clusters := by rw [e]
  have z : ∀ n, t.cluster n = s.cluster n := fun n => by unfold State.cluster; rw [k]
  refine ⟨⟨?_, by rw [z c], fun n _ => z n, a⟩, g h.tags, by rw [k]; exact h.clusters⟩
  rw [e]

theorem holds_set {m : NMap (List CacheLine)} {k j : Nat} {x : List CacheLine} {l : CacheLine} (h : Holds (NMap.set [] m k x) j l) :
    Holds m j l ∨ l ∈ x := by
  obtain ⟨y, hy, hl⟩ := h
  have key : ∀ m : NMap (List CacheLine), (j, y) ∈ NMap.set [] m k x → (j, y) ∈ m ∨ y = x := by
    intro m
    induction m with
    | nil =>
      intro h
      unfold NMap.set at h
      split at h
      · cases h
      · simp only [List.mem_singleton, Prod.mk.injEq] at h
        exact .inr h.2
    | cons e r ih =>
      obtain ⟨i, w⟩ := e
      intro h
      unfold NMap.set at h
      split at h
      · split at h
        · exact .inl h
        · rcases List.mem_cons.1 h with h | h
          · exact .inr (Prod.mk.injEq .. ▸ h).2
          · exact .inl h
      · split at h
        · split at h
          · exact .inl (List.mem_cons_of_mem _ h)
          · rcases List.mem_cons.1 h with h | h
            · exact .inr (Prod.mk.injEq .. ▸ h).2
            · exact .inl (List.mem_cons_of_mem _ h)
        · rcases List.mem_cons.1 h with h | h
          · exact .inl (h ▸ List.mem_cons_self ..)
          · rcases ih h with h | h
            · exact .inl (List.mem_cons_of_mem _ h)
            · exact .inr h
  rcases key m hy with h | h
  · exact .inl ⟨y, h, hl⟩
  · exact .inr (h ▸ hl)

theorem holds_get {m : NMap (List CacheLine)} {k : Nat} {l : CacheLine} (h : l ∈ NMap.get [] m k) : ∃ j, Holds m j l := by
  induction m with
  | nil => cases h
  | cons e r ih =>
    obtain ⟨i, w⟩ := e
    unfold NMap.get at h
    split at h
    · cases h
    · split at h
      · exact ⟨i, w, List.mem_cons_self .., h⟩
      · obtain ⟨j, x, hx, hl⟩ := ih h
        exact ⟨j, x, List.mem_cons_of_mem _ hx, hl⟩

/-- A set put into the L2 slices, all of whose lines have good tags. -/
theorem tags_set {m : NMap (List CacheLine)} (k : Nat) {x : List CacheLine} (h : ∀ k l, Holds m k l → l.tagSynd = 0)
    (g : ∀ l ∈ x, l.tagSynd = 0) : ∀ j l, Holds (NMap.set [] m k x) j l → l.tagSynd = 0 := by
  intro j l hl
  rcases holds_set hl with hl | hl
  exacts [h j l hl, g l hl]

theorem tags_get {m : NMap (List CacheLine)} (h : ∀ k l, Holds m k l → l.tagSynd = 0) (k : Nat) : ∀ l ∈ NMap.get [] m k, l.tagSynd = 0 := by
  intro l hl
  obtain ⟨j, hj⟩ := holds_get hl
  exact h j l hj

theorem tags_put {set : List CacheLine} {l : CacheLine} (h : ∀ x ∈ set, x.tagSynd = 0) (g : l.tagSynd = 0) :
    ∀ x ∈ cachePut set l, x.tagSynd = 0 := by
  intro x hx
  rcases List.mem_cons.1 hx with rfl | hx
  · exact g
  · exact h x (List.mem_of_mem_filter hx)

theorem tags_filter {set : List CacheLine} (p : CacheLine → Bool) (h : ∀ x ∈ set, x.tagSynd = 0) : ∀ x ∈ set.filter p, x.tagSynd = 0 :=
  fun x hx => h x (List.mem_of_mem_filter hx)

theorem cacheFind_mem {set : List CacheLine} {pa k : Nat} {l : CacheLine} (h : cacheFind set pa k = some l) : l ∈ set :=
  List.mem_of_find?_eq_some h

/-- A set of the L2 slices replaced. -/
theorem leaves_l2 (c : Nat) (s : State) (k : Nat) (x : List CacheLine)
    (g : (∀ k l, Holds s.sys.l2 k l → l.tagSynd = 0) → ∀ l ∈ x, l.tagSynd = 0) :
    Leaves c s (s.onSys fun y => { y with l2 := NMap.set [] y.l2 k x }) :=
  leaves_caches rfl (asksDram_of_eq rfl) fun h => tags_set k h (g h)

theorem leaves_mscAccess (c : Nat) (s : State) (part pa keyId : Nat) (fills write : Bool) :
    Leaves c s (s.mscAccess part pa keyId fills write) := by
  obtain ⟨a, e⟩ := mscAccess_shape s part pa keyId fills write
  refine leaves_caches ?_ a fun h => ?_
  · rw [e]
  · rw [e]; exact h

theorem leaves_evict (c : Nat) (s : State) (l : CacheLine) : Leaves c s (s.evict l) := by
  unfold State.evict
  split
  exacts [leaves_mscAccess .., Leaves.refl ..]

theorem leaves_l2Fill (c : Nat) (s : State) (d part pa keyId : Nat) (dirty : Bool) : Leaves c s (s.l2Fill d part pa keyId dirty).1 := by
  refine Leaves.of_tags fun h => ?_
  unfold State.l2Fill
  dsimp only
  split
  · dsimp only
    split
    exacts [leaves_mscAccess .., Leaves.refl ..]
  · next w _ =>
    have good : ∀ x ∈ cachePut ((NMap.get [] s.sys.l2 (l2Set d pa)).filter fun (l : CacheLine) => !decide (l.tag = pa / 64))
        { way := w, tag := pa / 64, dirty := dirty, part := part, keyId := keyId }, x.tagSynd = 0 :=
      tags_put (tags_filter _ (tags_get h _)) rfl
    dsimp only
    split
    · exact (leaves_evict c s _).trans (leaves_l2 c _ _ _ fun _ => good)
    · exact leaves_l2 c s _ _ fun _ => good

/-- A set without some of its lines. -/
theorem leaves_l2Filter (c : Nat) (s : State) (k : Nat) (p : CacheLine → Bool) :
    Leaves c s (s.onSys fun y => { y with l2 := NMap.set [] y.l2 k ((NMap.get [] s.sys.l2 k).filter p) }) :=
  leaves_l2 c s _ _ fun h => tags_filter _ (tags_get h _)

/-- A line of a set used. -/
theorem leaves_l2Use (c : Nat) (s : State) (k pa keyId : Nat) {l : CacheLine} (dirty : Bool)
    (h : cacheFind (NMap.get [] s.sys.l2 k) pa keyId = some l) :
    Leaves c s (s.onSys fun y => { y with l2 := NMap.set [] y.l2 k (cachePut (NMap.get [] s.sys.l2 k) { l with dirty := dirty }) }) :=
  leaves_l2 c s _ _ fun g => tags_put (tags_get g _) (tags_get (m := s.sys.l2) g _ l (cacheFind_mem h))

theorem leaves_l2Home (c : Nat) (s : State) (part pa keyId : Nat) (fills write : Bool) :
    Leaves c s (s.l2Home part pa keyId fills write) := by
  have rest : ∀ (u : State), Leaves c s u → Leaves c s (if fills then ((u.mscAccess part pa keyId fills false).l2Fill (homeDie pa) part pa keyId write).1
      else if write then (u.mscAccess part pa keyId fills false).mscAccess part pa keyId false true
      else u.mscAccess part pa keyId fills false) := by
    intro u hu
    refine (hu.trans (leaves_mscAccess c u part pa keyId fills false)).trans ?_
    split
    · exact leaves_l2Fill ..
    · split
      exacts [leaves_mscAccess .., Leaves.refl ..]
  unfold State.l2Home
  rcases hl : cacheFind (NMap.get [] s.sys.l2 (l2Set (homeDie pa) pa)) pa keyId with _ | l
  · simp only [hl]
    refine rest _ ?_
    split
    · refine Leaves.of_tags fun h => (leaves_evict c s _).trans (leaves_l2 c _ _ _ fun _ => tags_filter _ (tags_get h _))
    · exact Leaves.refl ..
  · simp only [hl]
    exact leaves_l2Use c s _ pa keyId _ hl

theorem leaves_cacheRead (c : Nat) (s : State) (die : Option Nat) (part pa home keyId : Nat) (fills copies : Bool) :
    Leaves c s (s.cacheRead die part pa home keyId fills copies) := by
  unfold State.cacheRead
  split
  · exact leaves_l2Home ..
  · next d =>
    split
    · exact leaves_l2Home ..
    · rcases hl : cacheFind (NMap.get [] s.sys.l2 (l2Set d pa)) pa keyId with _ | l
      · simp only [hl]
        have rest : ∀ u, Leaves c s u → Leaves c s (if !copies then u else
            match u.l2Fill d part pa keyId false with
            | (s2, true) => s2.onSys fun y => { y with
                replicas := NMap.set 0 y.replicas (pa / 64) (NMap.get 0 y.replicas (pa / 64) ||| BitVec.ofNat 4 (2 ^ d)) }
            | (s2, false) => s2) := by
          intro u hu
          split
          · exact hu
          · have fill := hu.trans (leaves_l2Fill c u d part pa keyId false)
            split
            · next s2 e =>
              rw [e] at fill
              exact fill.trans (leaves_caches rfl (asksDram_of_eq rfl) fun h => h)
            · next s2 e =>
              rw [e] at fill
              exact fill
        refine rest _ (Leaves.trans ?_ (leaves_l2Home ..))
        split
        · exact leaves_l2Filter ..
        · exact Leaves.refl ..
      · simp only [hl]
        exact leaves_l2Use c s _ pa keyId l.dirty hl

theorem leaves_dropReplicas (c : Nat) (s : State) (l : Nat) : Leaves c s (s.dropReplicas l) := by
  have one : ∀ (y : Sys) (d : Nat), y.dropReplica l d = { y with l2 := (y.dropReplica l d).l2 } ∧
      ((∀ k x, Holds y.l2 k x → x.tagSynd = 0) → ∀ k x, Holds (y.dropReplica l d).l2 k x → x.tagSynd = 0) :=
    fun y d => ⟨rfl, fun h => tags_set _ h (tags_filter _ (tags_get h _))⟩
  have many : ∀ (v : BitVec 4) (ds : List Nat) (y : Sys),
      ds.foldl (fun (y : Sys) d => if v.getLsbD d then y.dropReplica l d else y) y
        = { y with l2 := (ds.foldl (fun (y : Sys) d => if v.getLsbD d then y.dropReplica l d else y) y).l2 } ∧
      ((∀ k x, Holds y.l2 k x → x.tagSynd = 0) →
        ∀ k x, Holds (ds.foldl (fun (y : Sys) d => if v.getLsbD d then y.dropReplica l d else y) y).l2 k x → x.tagSynd = 0) := by
    intro v ds
    induction ds with
    | nil => exact fun y => ⟨rfl, fun h => h⟩
    | cons d ds ih =>
      intro y
      simp only [List.foldl_cons]
      split
      · obtain ⟨a, b⟩ := ih (y.dropReplica l d)
        exact ⟨by rw [a]; rfl, fun h => b ((one y d).2 h)⟩
      · exact ih y
  unfold State.dropReplicas State.onSys
  dsimp only
  obtain ⟨a, b⟩ := many (NMap.get 0 s.sys.replicas l) (List.range 4) s.sys
  exact leaves_caches (by dsimp only; rw [a]) (asksDram_of_eq rfl) b

theorem leaves_noteReplica {c : Nat} {s : State} (h : s.synd = []) (a : Agent) (p : Place) : Leaves c s (s.noteReplica a p) := by
  unfold State.noteReplica
  simp only [ecc_calm h, ite_self]
  exact leaves_cacheRead ..

/-! ### Clusters, registers and counters -/

/-- A change of the L1, the cluster TLB and the replies of the cluster. -/
theorem leaves_cluster (c : Nat) (s : State) (f : Cluster → Cluster)
    (e : ∀ x, f x = { x with l1 := (f x).l1, tlb := (f x).tlb, replies := (f x).replies }) : Leaves c s (s.onCluster c f) := by
  refine ⟨fun h => ?_⟩
  have own : (s.onCluster c f).cluster c = f (s.cluster c) := NMap.get_set_same (j := 0) _ _ h.clusters
  refine ⟨⟨rfl, ?_, fun k hk => NMap.get_set_other (j := 0) hk h.clusters, asksDram_of_eq rfl⟩, h.tags, NMap.wf_set _ _ h.clusters⟩
  rw [own]
  exact e _

theorem leaves_fresh (c : Nat) (s : State) (n : Nat) : Leaves c s { s with fresh := n } :=
  ⟨fun h => ⟨⟨rfl, rfl, fun _ _ => rfl, asksDram_of_eq rfl⟩, h.tags, h.clusters⟩⟩

theorem leaves_replyBack (c : Nat) (s : State) (r : Reply) : Leaves c s (s.replyBack c r) := leaves_cluster c s _ fun _ => rfl

theorem leaves_replied (s : State) (a : Agent) (p : Place) : Leaves a.tid.cluster s (s.replied a p) := by
  unfold State.replied
  split
  · exact (leaves_fresh _ s _).trans (leaves_replyBack _ _ _)
  · exact Leaves.refl ..

/-! ### Translation -/

/-- With no error in a tag and none in a word, the check of a line finds nothing. -/
theorem tagCheck_tidy {s : State} (h : ∀ k l, Holds s.sys.l2 k l → l.tagSynd = 0) (t : Option Tid) (d pa : Nat) : s.tagCheck t d pa = s := by
  unfold State.tagCheck
  have n : (NMap.get [] s.sys.l2 (l2Set d pa)).find? (fun (l : CacheLine) => decide (l.tag = pa / 64) && !decide (l.tagSynd = 0)) = none := by
    rw [List.find?_eq_none]
    intro l hl
    simp [tags_get h _ l hl]
  simp only [n]

theorem tagChecks_tidy {s : State} (h : ∀ k l, Holds s.sys.l2 k l → l.tagSynd = 0) (t : Option Tid) (k : Nat) : s.tagChecks t k = s := by
  unfold State.tagChecks
  simp only [tagCheck_tidy h]
  split
  · split <;> rfl
  · rfl

theorem lineCheck_tidy {s : State} (h : ∀ k l, Holds s.sys.l2 k l → l.tagSynd = 0) (e : s.synd = []) (t : Option Tid) (k n : Nat) :
    s.lineCheck t k n = s := by
  unfold State.lineCheck
  simp only [tagChecks_tidy h, ecc_calm e, ite_self]

/-- What an access leaves alone. -/
theorem Reached.synd {c : Nat} {s t : State} (h : Reached c s t) : t.synd = s.synd := by rw [h.same]
theorem Reached.poison {c : Nat} {s t : State} (h : Reached c s t) : t.poison = s.poison := by rw [h.same]
theorem Reached.mem {c : Nat} {s t : State} (h : Reached c s t) : t.mem = s.mem := by rw [h.same]
theorem Reached.lineKey {c : Nat} {s t : State} (h : Reached c s t) : t.lineKey = s.lineKey := by rw [h.same]
theorem Reached.migrating {c : Nat} {s t : State} (h : Reached c s t) : t.sys.migrating = s.sys.migrating := by rw [h.same]
theorem Reached.lull {c : Nat} {s t : State} (h : Reached c s t) : t.sys.lull = s.sys.lull := by rw [h.same]
theorem Reached.tid {c : Nat} {s t : State} (h : Reached c s t) : t.tid = s.tid := by rw [h.same]
theorem Reached.me {c : Nat} {s t : State} (h : Reached c s t) : t.me = s.me := by rw [h.same]

/-- What an access leaves does not depend on what memory holds. -/
theorem Leaves.mem {c : Nat} {s u : State} (h : Leaves c s u) (m : Memory) : Leaves c { s with mem := m } { u with mem := m } := by
  refine ⟨fun y => ?_⟩
  obtain ⟨x, z⟩ := h.reach ⟨y.tags, y.clusters⟩
  refine ⟨⟨?_, x.cluster, x.others, x.asks⟩, ⟨z.tags, z.clusters⟩⟩
  have := x.same
  rw [this]

theorem leaves_foldl {α : Type} (c : Nat) (f : State → α → State) (l : List α)
    (h : ∀ s x, s.synd = [] → Leaves c s (f s x)) (s : State) (e : s.synd = []) : Leaves c s (l.foldl f s) := by
  refine ⟨fun y => ?_⟩
  induction l generalizing s with
  | nil => exact (Leaves.refl c s).reach y
  | cons a r ih =>
    have one := (h s a e).reach y
    have two := ih (f s a) (one.1.synd.trans e) one.2
    exact ⟨one.1.trans two.1, two.2⟩

theorem leaves_walkTouch (c : Nat) (s : State) (e : s.synd = []) (a : Agent) (va : Nat) : Leaves c s (s.walkTouch a va) := by
  unfold State.walkTouch
  dsimp only
  split
  · refine leaves_foldl c _ _ (fun s pa e => Leaves.of_tags fun h => ?_) s e
    rw [lineCheck_tidy h e]
    exact leaves_cacheRead ..
  · exact Leaves.refl ..

/-- The TLB of a strand's cluster after a leaf was used. -/
theorem leaves_noteLeaf (s : State) (a : Agent) (va : Nat) (leaf : Word) (big : Bool) (hl : a.lane = none) (hs : a.sysDie = false) :
    Leaves a.tid.cluster s (s.noteLeaf a va leaf big) := by
  unfold State.noteLeaf
  rw [hs, hl]
  exact leaves_cluster _ s (fun c => { c with tlb := NMap.set [] c.tlb (tlbSet big va) (tlbPut (NMap.get [] c.tlb (tlbSet big va))
    { tenant := a.tenant, vpn := if big then va / 2 ^ 29 else va / 2 ^ 16, big := big, leaf := leaf } 8) }) fun _ => rfl

theorem leaves_noteAccess (s : State) (e : s.synd = []) (a : Agent) (hl : a.lane = none) (hs : a.sysDie = false) (addr : Word) (ns : List Nat) :
    Leaves a.tid.cluster s (s.noteAccess a addr ns) := by
  induction ns generalizing s addr with
  | nil => exact Leaves.refl ..
  | cons n r ih =>
    have one : Leaves a.tid.cluster s (match windowOf addr with
        | some (.global va) => (match s.leafFor a va with
           | .ok (leaf, big) => s.noteWalk a va leaf big
           | .error _ => s.walkTouch a va)
        | _ => s) := by
      split
      · split
        · unfold State.noteWalk
          refine Leaves.trans ?_ (leaves_noteLeaf _ a _ _ _ hl hs)
          split
          exacts [Leaves.refl .., leaves_walkTouch _ s e a _]
        · exact leaves_walkTouch _ s e a _
      · exact Leaves.refl ..
    refine ⟨fun y => ?_⟩
    have x := one.reach y
    have z := (ih _ (x.1.synd.trans e) (addr + word n)).reach x.2
    exact ⟨x.1.trans z.1, z.2⟩

/-- An access changes nothing of what the L1 serves before it reaches it. -/
theorem Reached.l1 {s t : State} {a : Agent} (e : t.clusters = s.clusters) (pa : Nat) :
    (t.cluster a.tid.cluster).l1Find pa = (s.cluster a.tid.cluster).l1Find pa := by unfold State.cluster; rw [e]

/-! ### The L1 -/

theorem leaves_l1Load {s : State} (e : s.synd = []) (a : Agent) (p : Place) : Leaves a.tid.cluster s (s.l1Load a p) := by
  unfold State.l1Load
  simp only [ecc_calm e, ite_self]
  split
  · exact leaves_cluster _ s (fun c => { c with l1 := NMap.set [] c.l1 _ _ }) fun _ => rfl
  · split
    · exact Leaves.refl ..
    · split
      · exact Leaves.refl ..
      · exact leaves_cluster _ s (fun c => { c with l1 := NMap.set [] c.l1 _ _ }) fun _ => rfl

theorem leaves_l1Store (c : Nat) (s : State) (pa : Nat) (bs : List Byte) : Leaves c s (s.l1Store c pa bs) := by
  unfold State.l1Store
  split
  · exact Leaves.refl ..
  · exact leaves_cluster _ s (fun c => { c with l1 := NMap.set [] c.l1 _ _ }) fun _ => rfl

theorem leaves_l1Drop (c : Nat) (s : State) (pa : Nat) : Leaves c s (s.l1Drop c pa) := by
  unfold State.l1Drop
  split
  · exact Leaves.refl ..
  · exact leaves_cluster _ s (fun c => { c with l1 := NMap.set [] c.l1 _ _ }) fun _ => rfl

theorem leaves_afterRead {s : State} (e : s.synd = []) (a : Agent) (l1 : Bool) (p : Place) : Leaves a.tid.cluster s (s.afterRead a l1 p) := by
  have r : Leaves a.tid.cluster s (s.noteReplica a p) := leaves_noteReplica e a p
  have l : ∀ u, Leaves a.tid.cluster s u → Leaves a.tid.cluster s (u.l1Load a p) := fun u hu =>
    ⟨fun y => (hu.trans (leaves_l1Load ((hu.reach y).1.synd.trans e) a p)).reach y⟩
  unfold State.afterRead
  split
  · split
    · refine l _ ?_
      split
      exacts [Leaves.refl .., r]
    · exact r
  · exact Leaves.refl ..

/-! ### What an open state gives -/

/-- What an access of the strand in focus needs of the state that its translation leaves. -/
structure State.Ready (s : State) : Prop where
  tidy : s.Tidy
  synd : s.synd = []
  poison : s.poison = []
  migrating : s.sys.migrating = []
  lineKey : s.lineKey = []
  lull : s.sys.lull.phase = .clear
  injection : ∀ c, bitOf (s.rd (rDinj c)) 63 = false
  stores : ∀ t ∈ s.clusterTids s.tid.cluster, (s.strand t).writes = []

theorem State.Open.ready {s : State} (o : s.Open) : s.Ready :=
  ⟨⟨o.tags, o.clusters⟩, o.noSyndrome, o.noPoison, o.noMigration, o.plain, o.noLull, o.noInjection, o.noStores⟩

theorem Reached.fw {c : Nat} {s t : State} (h : Reached c s t) : t.fw = s.fw := by
  rw [h.same]

theorem Reached.clusterTids {c : Nat} {s t : State} (h : Reached c s t) (k : Nat) : t.clusterTids k = s.clusterTids k := by
  rw [h.same]; rfl

theorem Reached.strand {c : Nat} {s t : State} (h : Reached c s t) (k : Tid) : t.strand k = s.strand k := by
  rw [h.same]; rfl

theorem State.Ready.reached {c : Nat} {s t : State} (r : s.Ready) (h : Reached c s t) (y : t.Tidy) : t.Ready := by
  refine ⟨y, h.synd.trans r.synd, h.poison.trans r.poison, h.migrating.trans r.migrating, h.lineKey.trans r.lineKey,
    by rw [h.lull]; exact r.lull, fun k => by rw [State.rd_congr h.fw]; exact r.injection k, fun k hk => ?_⟩
  rw [h.strand]
  refine r.stores k ?_
  rw [h.tid, h.clusterTids] at hk
  exact hk

theorem injected_ready {s : State} (r : s.Ready) (t : Option Tid) (k : Nat) : s.injected t k = (s, false) := by
  unfold State.injected
  split
  · simp [r.injection]
  · rfl

theorem l1Injected_ready {s : State} (r : s.Ready) (a : Agent) (l1 : Bool) (p : Place) : s.l1Injected a l1 p = s := by
  unfold State.l1Injected
  simp [r.injection]

theorem l1EccWord_good {s : State} {a : Agent} {pa : Nat} (g : ∀ l, (s.cluster a.tid.cluster).l1Find pa = some l → l.synd = []) :
    s.l1EccWord a pa = s := by
  unfold State.l1EccWord
  dsimp only
  split
  · rfl
  · next l h =>
    simp only [g l h, NMap.get, if_true]

theorem lineBusy_ready {s : State} (r : s.Ready) (p : Place) : s.lineBusy s.tid.cluster p = false := by
  unfold State.lineBusy
  rw [Bool.and_eq_false_iff]
  refine .inr (List.any_eq_false.2 fun t ht => ?_)
  rw [r.stores t ht]
  simp

theorem linksHeld_ready {s : State} (r : s.Ready) (b : Bool) : s.linksHeld b = false := by
  unfold State.linksHeld
  rw [r.lull]
  simp

theorem linkHeld_ready {s : State} (r : s.Ready) (a : Agent) (p : Place) : s.linkHeld a p = false := by
  unfold State.linkHeld State.cutOff
  rw [linksHeld_ready r]
  simp

theorem dramHolds_ready {s : State} (r : s.Ready) (d : Option Nat) (k q : Nat) : s.dramHolds d k q = false := by
  unfold State.dramHolds
  rw [r.lull]
  simp

theorem readHeld_ready {s : State} (r : s.Ready) (a : Agent) (p : Place) : s.readHeld a p = false := by
  unfold State.readHeld State.lineHeld State.cutOff
  rw [dramHolds_ready r, linksHeld_ready r, linkHeld_ready r]
  simp

theorem storeWaits_ready {s : State} (r : s.Ready) (p : Place) : s.storeWaits s.agent p = false := by
  have := lineBusy_ready r p
  unfold State.storeWaits
  rw [show s.agent.tid.cluster = s.tid.cluster from rfl, this, linkHeld_ready r]
  rfl

theorem atomicWaits_ready {s : State} (r : s.Ready) (p : Place) : s.atomicWaits s.agent p = false := by
  have := lineBusy_ready r p
  unfold State.atomicWaits State.atomicHeld
  rw [show s.agent.tid.cluster = s.tid.cluster from rfl, this, linkHeld_ready r, dramHolds_ready r]
  simp

theorem behindStores_ready {s : State} (r : s.Ready) (l1 : Bool) (ps : List (Place × Nat)) : s.behindStores s.agent l1 ps = false := by
  unfold State.behindStores
  rw [List.any_eq_false]
  intro p _
  have := lineBusy_ready r p.1
  rw [show s.agent.tid.cluster = s.tid.cluster from rfl, this, readHeld_ready r]
  simp

theorem noteSeen_ready {s : State} (r : s.Ready) (l1 : Bool) (p : Place) (n : Nat) : s.noteSeen s.agent l1 p n = s := by
  have e : ∀ f : Tid → Bool, (((s.clusterTids s.agent.tid.cluster).filter f).flatMap fun t =>
      ((s.strand t).writes.filter fun e => e.onWay && (List.range n).any fun i => (e.byteAt (p.key + i)).isSome).map WEntry.id) = [] := by
    intro f
    rw [List.flatMap_eq_nil_iff]
    intro t ht
    rw [r.stores t (List.mem_of_mem_filter ht)]
    rfl
  unfold State.noteSeen
  split
  · rfl
  · simp only [e, List.isEmpty_nil, if_true]

theorem plainByte_ready {s : State} (r : s.Ready) (k : Nat) : s.plainByte 0 k = s.mem.byte k := by
  unfold State.plainByte State.material
  rw [r.lineKey]
  simp [NMap.get]

theorem plainBytes_ready {s : State} (r : s.Ready) (k n : Nat) : s.plainBytes 0 k n = s.mem.bytes k n := by
  induction n generalizing k with
  | zero => rfl
  | succ n ih =>
    unfold State.plainBytes Memory.bytes
    rw [plainByte_ready r, ih]

theorem Place.plain_key {p : Place} (h : p.plainMemory = true) : p.keyId = 0 := by
  unfold Place.plainMemory at h
  rw [Bool.and_eq_true, decide_eq_true_eq] at h
  exact h.1

theorem Place.plain_kind {p : Place} (h : p.plainMemory = true) :
    p.kind = .tcm ∨ p.kind = .sram ∨ p.kind = .dram ∨ p.kind = .msc ∨ p.kind = .save := by
  unfold Place.plainMemory at h
  rw [Bool.and_eq_true] at h
  have := h.2
  split at this <;> simp_all

theorem Place.plain_reg {p : Place} (h : p.plainMemory = true) : p.isReg = false := by
  unfold Place.isReg
  rcases Place.plain_kind h with e | e | e | e | e <;> rw [e] <;> rfl

theorem Place.plain_far {p : Place} (h : p.plainMemory = true) : p.far = false := by
  unfold Place.far
  rcases Place.plain_kind h with e | e | e | e | e <;> rw [e] <;> rfl

/-! ### Loads -/

theorem l1Ecc_good {s : State} {a : Agent} (g : ∀ pa l, (s.cluster a.tid.cluster).l1Find pa = some l → l.synd = []) (l1 : Bool) (p : Place)
    (n : Nat) : s.l1Ecc a l1 p n = s := by
  unfold State.l1Ecc
  split
  · generalize List.range ((p.key % 8 + n + 7) / 8) = is
    induction is with
    | nil => rfl
    | cons i r ih => rw [List.foldl_cons, l1EccWord_good (g _), ih]
  · rfl

/-- A reply changes nothing that the L1 serves. -/
theorem replied_l1 {s : State} (y : s.Tidy) (a : Agent) (p : Place) (pa : Nat) :
    ((s.replied a p).cluster a.tid.cluster).l1Find pa = (s.cluster a.tid.cluster).l1Find pa := by
  unfold State.replied
  split
  · unfold State.noteReply State.replyBack
    have e := NMap.get_set_same (d := Cluster.reset) (j := 0) a.tid.cluster
      ({ (s.cluster a.tid.cluster) with replies := .own s.fresh :: (s.cluster a.tid.cluster).replies } : Cluster) y.clusters
    have k := congrArg (fun x : Cluster => x.l1Find pa) e
    exact k
  · rfl

/-- What a read finds in a state that an access has left with the same L1. -/
theorem readPart_ready {s u : State} (r : u.Ready) {p : Place} (h : p.plainMemory = true) (n : Nat) (m : u.mem = s.mem)
    (f : (u.cluster s.tid.cluster).l1Find p.key = (s.cluster s.tid.cluster).l1Find p.key) :
    u.readPart s.agent true p n = (s.seenBytes p n, false) := by
  unfold State.readPart State.readPlace State.seenBytes
  have a : s.agent.tid.cluster = s.tid.cluster := rfl
  rw [Place.plain_reg h, Place.plain_key h, a, f]
  simp only [Bool.false_eq_true, if_false, Bool.true_and]
  generalize (if p.cached = true then (s.cluster s.tid.cluster).l1Find p.key else none) = o
  cases o with
  | some l => rfl
  | none => simp only [redirect_calm r.migrating, plainBytes_ready r, poisonedIn_calm r.poison, m]

/-- The bytes of a part and the state that its read leaves. -/
theorem readParts_ready {s : State} (r : s.Ready) (g : ∀ pa l, (s.cluster s.tid.cluster).l1Find pa = some l → l.synd = []) {p : Place}
    (h : p.plainMemory = true) (addr : Word) (n : Nat) :
    ∃ u, s.readParts s.agent true addr [(p, n)] = (u, .ok (s.seenBytes p n)) ∧ Leaves s.tid.cluster s u := by
  have e : s.l1Ecc s.agent true p n = s := l1Ecc_good g true p n
  have lv := leaves_replied s s.agent p
  have x := lv.reach r.tidy
  have one := readPart_ready r h n rfl rfl
  have two := readPart_ready (s := s) (r.reached x.1 x.2) h n x.1.mem (replied_l1 r.tidy s.agent p p.key)
  have fin : ∀ u : State, Leaves s.tid.cluster s u → Leaves s.tid.cluster s (u.afterRead s.agent true p) := fun u hu =>
    ⟨fun y => (hu.trans (leaves_afterRead ((hu.reach y).1.synd.trans r.synd) s.agent true p)).reach y⟩
  rw [State.readParts]
  simp only [l1Injected_ready r, e, noteSeen_ready r, injected_ready r, Place.plain_reg h, lineCheck_tidy r.tidy.tags r.synd,
    ecc_calm r.synd, Bool.false_eq_true, if_false, ite_self]
  split
  · simp only [one, Bool.or_self, Bool.false_eq_true, if_false, State.readParts, List.append_nil]
    exact ⟨_, rfl, fin _ (Leaves.refl ..)⟩
  · simp only [two, Bool.or_self, Bool.false_eq_true, if_false, State.readParts, List.append_nil]
    exact ⟨_, rfl, fin _ lv⟩

/-! ### The L1 and a translation -/

theorem mscAccess_clusters (s : State) (part pa keyId : Nat) (fills write : Bool) :
    (s.mscAccess part pa keyId fills write).clusters = s.clusters := by rw [(mscAccess_shape s part pa keyId fills write).2]

theorem evict_clusters (s : State) (l : CacheLine) : (s.evict l).clusters = s.clusters := by rw [(evict_shape s l).2]

theorem l2Fill_clusters (s : State) (d part pa keyId : Nat) (dirty : Bool) : (s.l2Fill d part pa keyId dirty).1.clusters = s.clusters := by
  unfold State.l2Fill
  dsimp only
  split
  · dsimp only
    split
    exacts [mscAccess_clusters .., rfl]
  · dsimp only
    split
    exacts [evict_clusters .., rfl]

theorem l2Home_clusters (s : State) (part pa keyId : Nat) (fills write : Bool) :
    (s.l2Home part pa keyId fills write).clusters = s.clusters := by
  have rest : ∀ (u : State), u.clusters = s.clusters → (if fills then ((u.mscAccess part pa keyId fills false).l2Fill (homeDie pa) part pa keyId write).1
      else if write then (u.mscAccess part pa keyId fills false).mscAccess part pa keyId false true
      else u.mscAccess part pa keyId fills false).clusters = s.clusters := by
    intro u hu
    split
    · rw [l2Fill_clusters, mscAccess_clusters, hu]
    · split
      · rw [mscAccess_clusters, mscAccess_clusters, hu]
      · rw [mscAccess_clusters, hu]
  unfold State.l2Home
  rcases hl : cacheFind (NMap.get [] s.sys.l2 (l2Set (homeDie pa) pa)) pa keyId with _ | l
  · simp only [hl]
    refine rest _ ?_
    split
    exacts [evict_clusters .., rfl]
  · simp only [hl]
    rfl

theorem cacheRead_clusters (s : State) (die : Option Nat) (part pa home keyId : Nat) (fills copies : Bool) :
    (s.cacheRead die part pa home keyId fills copies).clusters = s.clusters := by
  unfold State.cacheRead
  split
  · exact l2Home_clusters ..
  · next d =>
    split
    · exact l2Home_clusters ..
    · rcases hl : cacheFind (NMap.get [] s.sys.l2 (l2Set d pa)) pa keyId with _ | l
      · simp only [hl]
        have rest : ∀ u : State, u.clusters = s.clusters → State.clusters (if !copies then u else
            match u.l2Fill d part pa keyId false with
            | (s2, true) => s2.onSys fun y => { y with
                replicas := NMap.set 0 y.replicas (pa / 64) (NMap.get 0 y.replicas (pa / 64) ||| BitVec.ofNat 4 (2 ^ d)) }
            | (s2, false) => s2) = s.clusters := by
          intro u hu
          split
          · exact hu
          · have fill := (l2Fill_clusters u d part pa keyId false).trans hu
            split
            · next s2 e =>
              rw [e] at fill
              exact fill
            · next s2 e =>
              rw [e] at fill
              exact fill
        refine rest _ ?_
        rw [l2Home_clusters]
        split <;> rfl
      · simp only [hl]
        rfl

theorem walkTouch_clusters {s : State} (y : s.Tidy) (e : s.synd = []) (a : Agent) (va : Nat) : (s.walkTouch a va).clusters = s.clusters := by
  have fold : ∀ (l : List Nat) (s : State), s.Tidy → s.synd = [] → (l.foldl (fun (s : State) pa =>
      let k := s.redirect pa
      let s := s.lineCheck a.who k 8
      s.cacheRead a.die a.part pa k 0 true (!s.poisonedIn (k / 64 * 64) 64)) s).clusters = s.clusters := by
    intro l
    induction l with
    | nil => intros; rfl
    | cons pa r ih =>
      intro s y e
      rw [List.foldl_cons]
      dsimp only
      rw [lineCheck_tidy y.tags e]
      have x := (leaves_cacheRead 0 s a.die a.part pa (s.redirect pa) 0 true (!s.poisonedIn (s.redirect pa / 64 * 64) 64)).reach y
      exact (ih _ x.2 (x.1.synd.trans e)).trans (cacheRead_clusters ..)
  unfold State.walkTouch
  dsimp only
  split
  · exact fold _ s y e
  · rfl

/-- The L1 of the cluster serves what it did after a translation. -/
theorem noteAccess_l1 {s : State} (y : s.Tidy) (e : s.synd = []) (a : Agent) (hl : a.lane = none) (hs : a.sysDie = false) (addr : Word)
    (ns : List Nat) (pa : Nat) :
    ((s.noteAccess a addr ns).cluster a.tid.cluster).l1Find pa = (s.cluster a.tid.cluster).l1Find pa := by
  induction ns generalizing s addr with
  | nil => rfl
  | cons n r ih =>
    have leaf : ∀ u : State, u.Tidy → u.clusters = s.clusters → ∀ va lf big,
        ((u.noteLeaf a va lf big).cluster a.tid.cluster).l1Find pa = (s.cluster a.tid.cluster).l1Find pa := by
      intro u yu eu va lf big
      unfold State.noteLeaf
      rw [hs, hl]
      have e3 : ∀ f : Cluster → Cluster, (u.onCluster a.tid.cluster f).cluster a.tid.cluster = f (u.cluster a.tid.cluster) :=
        fun f => NMap.get_set_same (j := 0) _ _ yu.clusters
      rw [if_neg Bool.false_ne_true, e3]
      unfold State.cluster
      rw [eu]
      rfl
    have one : Leaves a.tid.cluster s (s.noteAccess a addr [n]) := leaves_noteAccess s e a hl hs addr [n]
    have x := one.reach y
    have z := ih x.2 (x.1.synd.trans e) (addr + word n)
    refine Eq.trans z ?_
    unfold State.noteAccess State.noteAccess
    dsimp only
    split
    · split
      · unfold State.noteWalk
        split
        · exact leaf s y rfl _ _ _
        · exact leaf _ ((leaves_walkTouch 0 s e a _).reach y).2 (walkTouch_clusters y e a _) _ _ _
      · unfold State.cluster
        rw [walkTouch_clusters y e]
    · rfl

theorem loadsFrom_open {i : Instr} {s : State} (o : s.Open) {len : Nat} {d : Reg} {w : Word} {n : Nat} {sg : Bool}
    (hi : exec i s = s.loadOp len d w n sg) : LoadsFrom i s len d w n sg := by
  intro p hr hp
  have lv : Leaves s.tid.cluster s (s.noteAccess s.agent w [n]) := leaves_noteAccess s o.noSyndrome s.agent rfl rfl w [n]
  have x := lv.reach o.ready.tidy
  have r := o.ready.reached x.1 x.2
  have l1 : ∀ pa, ((s.noteAccess s.agent w [n]).cluster s.tid.cluster).l1Find pa = (s.cluster s.tid.cluster).l1Find pa :=
    fun pa => noteAccess_l1 o.ready.tidy o.noSyndrome s.agent rfl rfl w [n] pa
  have ag : (s.noteAccess s.agent w [n]).agent = s.agent := by rw [x.1.same]; rfl
  have sb : (s.noteAccess s.agent w [n]).seenBytes p n = s.seenBytes p n := by
    unfold State.seenBytes
    rw [x.1.tid, l1, x.1.mem]
  obtain ⟨u, hu, lu⟩ := readParts_ready r (by intro pa l hl; rw [x.1.tid, l1] at hl; exact o.lines pa l hl) hp w n
  have bs := behindStores_ready r true [(p, n)]
  rw [ag] at hu bs
  rw [sb] at hu
  rw [x.1.tid] at lu
  refine ⟨_, u, hi.trans ?_, ((lv.trans lu).reach o.ready.tidy).1, wrote_writeReg u len d _⟩
  unfold State.loadOp
  rw [if_neg (by rw [o.noWait]; exact Bool.false_ne_true), hr]
  simp only [List.map_cons, List.map_nil, o.noWrites, List.reverse_nil, forward, o.eager, bs, Place.plain_far hp, List.any_cons, List.any_nil,
    Bool.or_self, Bool.not_false, Bool.and_self, Bool.true_or, if_true, hu]

/-! ### Stores -/

theorem rekey_ready {s : State} (e : s.lineKey = []) (k : Nat) : s.rekey (s.material 0) k = s := by
  unfold State.rekey State.material
  rw [e]
  simp [NMap.get]

/-- Bytes written at a place: memory holds them, and an access has left no more than it may. -/
theorem writePlace_ready {s : State} (r : s.Ready) {p : Place} (h : p.plainMemory = true) (a : Agent) (l1 : Bool) (bs : List Byte) :
    Leaves a.tid.cluster { s with mem := s.mem.setBytes p.key bs } (s.writePlace a l1 p bs) := by
  have home : ∀ (u : State) (k : Nat), u.Ready → k = p.key →
      Leaves a.tid.cluster { u with mem := u.mem.setBytes p.key bs } (u.homeWrite a.who p.keyId k bs) := by
    intro u k ru hk
    subst hk
    unfold State.homeWrite
    have e1 : (if p.key < 2 ^ 52 then u.tagChecks a.who p.key else u) = u := by rw [tagChecks_tidy ru.tidy.tags, ite_self]
    simp only [e1, ru.synd, if_true, Place.plain_key h, rekey_ready ru.lineKey, ite_self, ru.poison, clearPoison]
    split
    · exact Leaves.refl ..
    · exact leaves_dropReplicas ..
  have dram : p.kind ≠ .tcm → p.kind ≠ .sram → s.writePlace a l1 p bs =
      ((if l1 && p.cached then s.l1Store a.tid.cluster p.key bs else s).homeWrite a.who p.keyId (s.redirect p.key) bs).storeLine a p := by
    intro h1 h2
    unfold State.writePlace
    rcases Place.plain_kind h with e | e | e | e | e
    · exact absurd e h1
    · exact absurd e h2
    all_goals rw [e]
  have line : ∀ u : State, u.sys.migrating = [] → u.sys.lull.phase = .clear → u.synd = [] → Leaves a.tid.cluster u (u.storeLine a p) := by
    intro u h1 h2 h3
    unfold State.storeLine
    have e : ∀ k, u.dramHolds none k p.keyId = false := fun k => by
      unfold State.dramHolds
      rw [h2]
      simp
    simp only [e, Bool.false_eq_true, if_false, ecc_calm h3, ite_self]
    exact leaves_l2Home ..
  have all : Leaves a.tid.cluster { s with mem := s.mem.setBytes p.key bs }
      (((if l1 && p.cached then s.l1Store a.tid.cluster p.key bs else s).homeWrite a.who p.keyId (s.redirect p.key) bs).storeLine a p) := by
    have k : s.redirect p.key = p.key := redirect_calm r.migrating _
    have one : Leaves a.tid.cluster s (if l1 && p.cached then s.l1Store a.tid.cluster p.key bs else s) := by
      split
      exacts [leaves_l1Store .., Leaves.refl ..]
    refine ⟨fun y => ?_⟩
    have x := one.reach r.tidy
    have ru := r.reached x.1 x.2
    have two := (one.mem (s.mem.setBytes p.key bs)).trans (x.1.mem ▸ home _ _ ru k)
    have w := two.reach y
    have three := line _ (w.1.migrating.trans r.migrating) (by rw [w.1.lull]; exact r.lull) (w.1.synd.trans r.synd)
    exact (two.trans three).reach y
  rcases Place.plain_kind h with e | e | e | e | e
  · have e2 : s.writePlace a l1 p bs = s.homeWrite a.who p.keyId p.key bs := by unfold State.writePlace; rw [e]
    rw [e2]
    exact home s _ r rfl
  · have e2 : s.writePlace a l1 p bs = s.homeWrite a.who p.keyId p.key bs := by unfold State.writePlace; rw [e]
    rw [e2]
    exact home s _ r rfl
  all_goals
    rw [dram (by rw [e]; exact PlaceKind.noConfusion) (by rw [e]; exact PlaceKind.noConfusion)]
    exact all

theorem storesTo_open {i : Instr} {s : State} (o : s.Open) {len : Nat} {w : Word} {n : Nat} {v : Word}
    (hi : exec i s = s.storeOp len w n v) : StoresTo i s len w n v := by
  intro p hr hp
  have lv : Leaves s.tid.cluster s (s.noteAccess s.agent w [n]) := leaves_noteAccess s o.noSyndrome s.agent rfl rfl w [n]
  have x := lv.reach o.ready.tidy
  have r := o.ready.reached x.1 x.2
  have wp : Leaves s.tid.cluster { s.noteAccess s.agent w [n] with mem := (s.noteAccess s.agent w [n]).mem.setBytes p.key (natLe v.toNat n) }
      (((s.noteAccess s.agent w [n]).writePlace s.agent true p (natLe v.toNat n)).replied s.agent p) :=
    (writePlace_ready r hp s.agent true (natLe v.toNat n)).trans (leaves_replied _ s.agent p)
  rw [x.1.mem] at wp
  have all := ((lv.mem (s.mem.setBytes p.key (natLe v.toNat n))).trans wp).reach ⟨o.tags, o.clusters⟩
  have m : (((s.noteAccess s.agent w [n]).writePlace s.agent true p (natLe v.toNat n)).replied s.agent p).mem
      = s.mem.setBytes p.key (natLe v.toNat n) := all.1.mem
  have wr : (s.noteAccess s.agent w [n]).writeParts s.agent true [(p, n)] (natLe v.toNat n)
      = ((s.noteAccess s.agent w [n]).writePlace s.agent true p (natLe v.toNat n)).replied s.agent p := by
    rw [State.writeParts, List.take_of_length_le (by rw [natLe_length])]
    split
    · next h => rcases Place.plain_kind hp with e | e | e | e | e <;> rw [e] at h <;> cases h
    · rfl
  have kinds : decide (p.kind = .doorbell) = false ∧ decide (p.kind = .dieBar) = false ∧ decide (p.kind = .remote) = false := by
    rcases Place.plain_kind hp with e | e | e | e | e <;> rw [e] <;> exact ⟨rfl, rfl, rfl⟩
  have me : (((s.noteAccess s.agent w [n]).writePlace s.agent true p (natLe v.toNat n)).replied s.agent p).me = s.me := all.1.me
  refine ⟨_, _, hi.trans ?_, ?_, ?_, went_retire (((s.noteAccess s.agent w [n]).writePlace s.agent true p (natLe v.toNat n)).replied s.agent p) len |> fun h => by rw [me] at h; exact h⟩
  · unfold State.storeOp
    rw [if_neg (by rw [o.noWait]; exact Bool.false_ne_true), hr]
    simp only [List.map_cons, List.map_nil, o.eager, o.noWrites, List.isEmpty_nil, kinds, storeWaits_ready o.ready, List.any_cons, List.any_nil,
      Bool.false_and, Bool.or_self, Bool.false_eq_true, if_false, Bool.and_self, Bool.false_or, Bool.not_false, if_true, wr]
  · show StoredBytes s (((s.noteAccess s.agent w [n]).writePlace s.agent true p (natLe v.toNat n)).replied s.agent p).mem p.key n v
    rw [m]
    exact storedBytes_setBytes o.memory ..
  · show Reached s.tid.cluster { s with mem := (((s.noteAccess s.agent w [n]).writePlace s.agent true p (natLe v.toNat n)).replied s.agent p).mem } _
    rw [m]
    exact all.1

/-! ### Atomics -/

/-- An atomic at a place gives the bytes of memory, stores what it writes, and leaves no more than an access may. -/
theorem atomicAt_ready {s : State} {c : Nat} (hc : s.tid.cluster = c) (r : s.Ready) {p : Place} (h : p.plainMemory = true) (acc : Access) :
    ∃ u, s.atomicAt s.agent p acc = (u, .ok (s.mem.bytes p.key acc.size)) ∧
      Leaves c { s with mem := match acc.writes (s.mem.bytes p.key acc.size) with
        | some bs => s.mem.setBytes p.key bs
        | none => s.mem } u := by
  subst hc
  have lv : Leaves s.tid.cluster s (s.replied s.agent p) := leaves_replied s s.agent p
  have x := lv.reach r.tidy
  have r1 := r.reached x.1 x.2
  have drop : Leaves s.tid.cluster (s.replied s.agent p)
      (if p.cached then (s.replied s.agent p).l1Drop s.agent.tid.cluster p.key else s.replied s.agent p) := by
    split
    exacts [leaves_l1Drop .., Leaves.refl ..]
  have y := drop.reach x.2
  have r2 := r1.reached y.1 y.2
  have kind : p.kind ≠ .dieBar := by
    rcases Place.plain_kind h with e | e | e | e | e <;> rw [e] <;> exact PlaceKind.noConfusion
  have mm : (if p.cached then (s.replied s.agent p).l1Drop s.agent.tid.cluster p.key else s.replied s.agent p).mem = s.mem := y.1.mem.trans x.1.mem
  have two := lv.trans drop
  unfold State.atomicAt
  simp only [if_neg kind, injected_ready r1, lineCheck_tidy r1.tidy.tags r1.synd, ecc_calm r1.synd, ite_self]
  generalize hu : (if p.cached then (s.replied s.agent p).l1Drop s.agent.tid.cluster p.key else s.replied s.agent p) = u at *
  have rd : u.readPlace s.agent false p acc.size = (s.mem.bytes p.key acc.size, false) := by
    unfold State.readPlace
    simp only [Bool.false_and, Bool.false_eq_true, if_false, Place.plain_key h, redirect_calm r2.migrating, plainBytes_ready r2,
      poisonedIn_calm r2.poison, mm]
  rcases hw : acc.writes (s.mem.bytes p.key acc.size) with _ | bs
  · simp only [rd, hw, Bool.false_eq_true, if_false]
    refine ⟨_, rfl, two.trans ?_⟩
    split
    exacts [leaves_cacheRead .., Leaves.refl ..]
  · simp only [rd, hw, Bool.false_eq_true, if_false]
    refine ⟨_, rfl, (two.mem (s.mem.setBytes p.key bs)).trans ?_⟩
    have w := writePlace_ready r2 h s.agent false bs
    rw [mm] at w
    exact w

/-- Eight bytes are extended to themselves. -/
theorem extend_full (bs : List Byte) : extend 8 false bs = extend 8 true bs := by
  unfold extend
  simp only [Bool.false_and, Bool.true_and, Bool.false_eq_true, if_false]
  split
  · rw [Nat.add_sub_cancel]
  · rfl

theorem exchangesAt_open {i : Instr} {s : State} (o : s.Open) {d a : Reg} {n : Nat} (hn : n = 4 ∨ n = 8) {f : Form} {acc : Access}
    {od : Order} {sc : Scope} (hz : acc.size = n) (al : (s.reg a).toNat % n = 0)
    (hi : exec i s = s.atomicOp d a n f acc od sc) (new : BitVec (8 * n) → Option (BitVec (8 * n)))
    (hv : ∀ bs : List Byte, leNat bs < 2 ^ (8 * n) →
      acc.writes bs = (new (BitVec.ofNat (8 * n) (leNat bs))).map fun v => natLe v.toNat n)
    (hg : ∀ p : Pend, p.acc = acc → p.value = extend n true p.got) :
    ExchangesAt i s f od sc d (s.reg a) n new := by
  intro p hr hp old
  have lv : Leaves s.tid.cluster s (s.noteAccess s.agent (s.reg a) [n]) := leaves_noteAccess s o.noSyndrome s.agent rfl rfl _ [n]
  have x := lv.reach o.ready.tidy
  have r := o.ready.reached x.1 x.2
  have ag : (s.noteAccess s.agent (s.reg a) [n]).agent = s.agent := by rw [x.1.same]; rfl
  obtain ⟨u, hu, lu⟩ := atomicAt_ready (congrArg Tid.cluster x.1.tid) r hp acc
  rw [ag, x.1.mem, hz] at hu
  rw [x.1.mem, hz, hv _ (leNat_bytes_lt _ _ _)] at lu
  have wt := atomicWaits_ready r p
  rw [ag] at wt
  have all := ((lv.mem _).trans lu).reach ⟨o.tags, o.clusters⟩
  have rl : (Order.releases od && !s.me.performedAt sc || s.me.overlaps [(p, n)] || (decide (od = .sc) && s.sys.scRun.isSome)) = false := by
    unfold Strand.performedAt Strand.overlaps Strand.sawScalar
    rw [o.noWrites, o.noSeen, o.noSc]
    simp
  have hx : exec i s = .next ((u.completeAccess { (s.noteAccess s.agent (s.reg a) [n]).pendOf d (s.reg a) [(p, n)] acc od sc with
      got := s.mem.bytes p.key n }).retire 4 (some d)) := by
    rw [hi]
    unfold State.atomicOp
    dsimp only
    rw [if_neg (by rw [o.noWait]; exact Bool.false_ne_true), if_neg (by simp [al]), hr]
    simp only [rl, Bool.false_eq_true, if_false, List.map_cons, List.map_nil, o.eager, Bool.true_or, Place.plain_far hp, Bool.not_false,
      Bool.and_self, wt, if_true, hu]
  have wrote : Wrote (if Order.acquires od then u.acquire s.tid.cluster sc else u)
      ((u.completeAccess { (s.noteAccess s.agent (s.reg a) [n]).pendOf d (s.reg a) [(p, n)] acc od sc with
        got := s.mem.bytes p.key n }).retire 4 (some d)) 4 d (old.signExtend 64) := by
    have z := wrote_writeReg (if Order.acquires od then u.acquire u.tid.cluster sc else u) 4 d
      (Pend.value { (s.noteAccess s.agent (s.reg a) [n]).pendOf d (s.reg a) [(p, n)] acc od sc with got := s.mem.bytes p.key n })
    rw [hg _ rfl] at z
    have tt : u.tid = s.tid := all.1.tid
    have e := extend_signed s.mem p.key (n := n) (by rcases hn with h | h <;> omega) (by rcases hn with h | h <;> omega)
    rw [tt] at z
    rw [← e]
    unfold State.completeAccess
    rw [hg _ rfl, tt]
    exact z
  have tm : ((u.completeAccess { (s.noteAccess s.agent (s.reg a) [n]).pendOf d (s.reg a) [(p, n)] acc od sc with
        got := s.mem.bytes p.key n }).retire 4 (some d)).mem = u.mem := by
    rw [wrote.2.2.2.2.2.mem]
    split
    · unfold State.acquire State.advanceGen State.onCluster
      split <;> rfl
    · rfl
  have um := all.1.mem
  refine ⟨_, u, hx, ?_, ?_, wrote⟩
  · rw [tm, um]
    rcases hnew : new old with _ | v
    · simp only [old] at hnew
      simp only [Option.map_none]
    · simp only [old] at hnew
      simp only [Option.map_some]
      have e : v.toNat = (v.setWidth 64).toNat := by
        rw [BitVec.toNat_setWidth, Nat.mod_eq_of_lt]
        exact Nat.lt_of_lt_of_le v.isLt (Nat.pow_le_pow_right (by omega) (by rcases hn with h | h <;> omega))
      rw [e]
      exact storedBytes_setBytes o.memory ..
  · rw [tm, um]
    exact all.1

end Sys2Proof.Machine
end

