-- ==== Sys2Proof/Tests/Slice0.lean ====
section
/-! SUPPORT. The smoke test of well-formedness, words written out from the spec's encodings, small results worked by hand from the
rules, and for every statement with hypotheses a state and operands that meet them. -/

namespace Sys2Proof.Tests

set_option Elab.async false

open Sys2Proof Sys2Proof.Machine

/-! ### Well-formedness: a term that each check refuses (02 R45, R46, R49, R51, R55) -/

theorem test_wf_compactZero : wellFormed (.cAddi 0 0) = false ∧ wellFormed (.cAddi 0 1) = true := by decide
theorem test_wf_addsc : wellFormed (.addsc 1 2 3 5) = false ∧ wellFormed (.addsc 1 2 3 4) = true := by decide
theorem test_wf_castg : wellFormed (.castg 1 2 0) = false ∧ wellFormed (.castg 1 2 4) = false ∧ wellFormed (.castg 1 2 3) = true := by decide
theorem test_wf_casts : wellFormed (.casts 1 2 4) = false ∧ wellFormed (.casts 1 2 0) = true := by decide
theorem test_wf_fcvtToFloat : wellFormed (.fcvtToFloat 1 2 .fp32 .fp32 .rne) = false ∧ wellFormed (.fcvtToFloat 1 2 .fp16 .fp32 .rne) = true := by decide
theorem test_wf_fcvtToInt : wellFormed (.fcvtToInt 1 2 .fp64 .fp32 .rne) = false ∧ wellFormed (.fcvtToInt 1 2 .sint32 .fp32 .rne) = true := by decide
theorem test_wf_recv : wellFormed (.recv 3 3) = false ∧ wellFormed (.recv 0 0) = true := by decide
theorem test_wf_hint : wellFormed (.hint 0 0 0 0) = false ∧ wellFormed (.hint 3 0 1 0) = false ∧ wellFormed (.hint 3 0 1 1) = true := by decide
theorem test_wf_vgrant : wellFormed (.vgrant 1 2 24) = false ∧ wellFormed (.vgrantNb 1 2 31) = false ∧ wellFormed (.vgrantZ 1 2 24) = false ∧
    wellFormed (.vgrant 1 2 23) = true := by decide
theorem test_wf_scaled : wellFormed (.vldScaled 1 2 0 0) = false ∧ wellFormed (.vstScaled 1 2 0 0) = false ∧ wellFormed (.vldScaled 1 2 3 0) = true := by decide
theorem test_wf_orderedLoad : wellFormed (.vloadOrd .vld 1 2 0 0 .cl .rel) = false ∧ wellFormed (.vloadOrd .vldff 1 2 3 0 .cl .acq) = false ∧
    wellFormed (.vloadOrd .vld 1 2 0 0 .cl .acq) = true := by decide
theorem test_wf_orderedStore : wellFormed (.vstoreOrd .vst 1 2 0 0 .cl .acq) = false ∧ wellFormed (.vstoreOrd .vst 1 2 0 0 .cl .rel) = true := by decide
theorem test_wf_maskSources : wellFormed (.mand 1 0 2) = false ∧ wellFormed (.mor 1 2 0) = false ∧ wellFormed (.mxor 1 0 0) = false ∧
    wellFormed (.mnot 1 0) = false ∧ wellFormed (.mpop 1 0) = false ∧ wellFormed (.mfirst 1 0) = false ∧ wellFormed (.mand 0 1 2) = true := by decide
theorem test_wf_requiredMask : wellFormed (.vsel 1 2 3 0) = false ∧ wellFormed (.vcompress 1 2 0) = false ∧ wellFormed (.vexpand 1 2 0) = false ∧
    wellFormed (.vsel 1 2 3 1) = true := by decide
theorem test_wf_barv : wellFormed (.barv 1 .st) = false ∧ wellFormed (.barv 1 .co) = false ∧ wellFormed (.barv 1 .cl) = true := by decide
theorem test_wf_tcvt : wellFormed (.tcvt 1 5) = false ∧ wellFormed (.tcvt 1 4) = true := by decide

/-! ### Words of every group, assembled by hand from the field rules (02 R43, R44, R48, R51 to R53, R57 to R67) -/

/-- cop 0xC, d 9, x 31. -/
theorem test_decode_compact : decodeWords (.w16 0x313F#16) = .ok (.cLdw 9 31) := by decide +kernel
/-- cop 0xD, off10 = d:x. -/
theorem test_decode_compactBranch : decodeWords (.w16 0x3603#16) = .ok (.cBeqz 0x203) := by decide +kernel
/-- cop 0xF, d 1, x 0. -/
theorem test_decode_compactJump : decodeWords (.w16 0x3C20#16) = .ok (.cJalr 1) := by decide +kernel
/-- OPR f 0x0F. -/
theorem test_decode_opr : decodeWords (.w32 0x398F4028#32) = .ok (.rotr 5 6 7) := by decide +kernel
/-- OPR f 0x10, k = m. -/
theorem test_decode_addsc : decodeWords (.w32 0x3990402C#32) = .ok (.addsc 5 6 7 4) := by decide +kernel
/-- MULDIV f 5. -/
theorem test_decode_muldiv : decodeWords (.w32 0x52454140#32) = .ok (.rem 8 9 10) := by decide +kernel
/-- BITS f 4, b 0. -/
theorem test_decode_bits : decodeWords (.w32 0x02444240#32) = .ok (.bswap 8 9) := by decide +kernel
/-- op 0x0C, the least imm14. -/
theorem test_decode_immediate : decodeWords (.w32 0x81404C20#32) = .ok (.slti 4 5 0x2000) := by decide +kernel
/-- f = shift, m 2. -/
theorem test_decode_shift : decodeWords (.w32 0x017F4D22#32) = .ok (.srai 4 5 63) := by decide +kernel
/-- format U. -/
theorem test_decode_upper : decodeWords (.w32 0xB4B44E3D#32) = .ok (.lih 7 0x5A5A5) := by decide +kernel
/-- format B, imm = -2 parcels. -/
theorem test_decode_branch : decodeWords (.w32 0x20FF55FE#32) = .ok (.bgeu 3 4 0x3FFE) := by decide +kernel
/-- format J. -/
theorem test_decode_jump : decodeWords (.w32 0xFFFF560C#32) = .ok (.jal 1 0x7FFFC) := by decide +kernel
/-- op 0x17: ret. -/
theorem test_decode_jumpRegister : decodeWords (.w32 0x00405700#32) = .ok (.jalr 0 1 0) := by decide +kernel
/-- op 0x1D. -/
theorem test_decode_load : decodeWords (.w32 0x78BF5D4F#32) = .ok (.ldwu 9 2 0x1FFF) := by decide +kernel
/-- op 0x22, format S. -/
theorem test_decode_store : decodeWords (.w32 0xF8BF624C#32) = .ok (.stw 9 2 0x3FFC) := by decide +kernel
/-- IMM prefix, op 0x1E. -/
theorem test_decode_prefixedLoad : decodeWords (.w64 0xABCDC1EF#32 0x01025E1A#32) = .ok (.loadImm32 .ldd 3 4 0xABCDEF12) := by decide +kernel
/-- IMM prefix, op 0x0E. -/
theorem test_decode_prefixedUpper : decodeWords (.w64 0x8000C100#32 0x001F4E1F#32) = .ok (.lihImm32 3 0x800000FF) := by decide +kernel
/-- IMM prefix, op 0x23. -/
theorem test_decode_prefixedStore : decodeWords (.w64 0x0000C101#32 0x01006318#32) = .ok (.storeImm32 .std 3 4 0x100) := by decide +kernel
/-- op 0x26, f = scope 4, order 3, m 7. -/
theorem test_decode_amo : decodeWords (.w32 0x31E3662F#32) = .ok (.amoMaxuW 5 7 6 .ar .pk) := by decide +kernel
/-- op 0x25, m 1. -/
theorem test_decode_cas : decodeWords (.w32 0x31EC6529#32) = .ok (.casD 5 7 6 .sc .sy) := by decide +kernel
/-- ADDR f 2, w = m. -/
theorem test_decode_casts : decodeWords (.w32 0x01C2682B#32) = .ok (.casts 5 7 3) := by decide +kernel
/-- FP f[5:2] 4, format 3, m 4. -/
theorem test_decode_float : decodeWords (.w32 0x01D3702C#32) = .ok (.fsqrt 5 7 .fp64 .rmm) := by decide +kernel
/-- FP f[5:2] 7, m 2. -/
theorem test_decode_floatSign : decodeWords (.w32 0x49DC702A#32) = .ok (.fsgnXor 5 7 9 .fp16) := by decide +kernel
/-- FP f[5:2] 8, m 1. -/
theorem test_decode_floatCompare : decodeWords (.w32 0x49E17029#32) = .ok (.fcmpLt 5 7 9 .bf16) := by decide +kernel
/-- FP f[5:2] 10, b = source type. -/
theorem test_decode_convertTo : decodeWords (.w32 0x21EA702F#32) = .ok (.fcvtToFloat 5 7 .sint64 .fp32 .dyn) := by decide +kernel
/-- FP f[5:2] 11, b = target type. -/
theorem test_decode_convertFrom : decodeWords (.w32 0x31EF7029#32) = .ok (.fcvtToInt 5 7 .sint32 .fp64 .rtz) := by decide +kernel
/-- FMA f[5:2] 1. -/
theorem test_decode_fused : decodeWords (.w32 0x49C67128#32) = .ok (.fms 5 7 9 .fp32 .rne) := by decide +kernel
/-- CTH, number 0x802: f 0, b 2. -/
theorem test_decode_controlHigh : decodeWords (.w32 0x11807901#32) = .ok (.wrc 6 0x802) := by decide +kernel
/-- CTL, number 0x441: f 0x22, b 1. -/
theorem test_decode_controlLow : decodeWords (.w32 0x09A27802#32) = .ok (.setc 6 0x441) := by decide +kernel
/-- MSG f 1. -/
theorem test_decode_message : decodeWords (.w32 0x01817A28#32) = .ok (.recv 5 6) := by decide +kernel
/-- LULL f 0. -/
theorem test_decode_lull : decodeWords (.w32 0x01807B28#32) = .ok (.lullq 5 6) := by decide +kernel
/-- SYS f 2, k = b:a. -/
theorem test_decode_system : decodeWords (.w32 0xFFC27C00#32) = .ok (.brk 1023) := by decide +kernel
/-- SYS f 1. -/
theorem test_decode_return : decodeWords (.w32 0x00017C00#32) = .ok (.eret) := by decide +kernel
/-- HINT f 1. -/
theorem test_decode_rowActivate : decodeWords (.w32 0x01817F00#32) = .ok (.ract 6) := by decide +kernel
/-- HINT f 1 with b. -/
theorem test_decode_hint : decodeWords (.w32 0x11817F00#32) = .ok (.hint 6 2 1 0) := by decide +kernel
/-- VCFG f 2: n 16, v 7, scaled. -/
theorem test_decode_grant : decodeWords (.w32 0x79428020#32) = .ok (.vgrantZ 4 5 15) := by decide +kernel
/-- VCFG f 3. -/
theorem test_decode_vtype : decodeWords (.w32 0x01438020#32) = .ok (.vtype 4 5) := by decide +kernel
/-- VLOAD 3. -/
theorem test_decode_vload : decodeWords (.w32 0x31438821#32) = .ok (.vldxO 4 5 6 1) := by decide +kernel
/-- VSTORE 4. -/
theorem test_decode_vstore : decodeWords (.w32 0x31448920#32) = .ok (.vstN 4 5 6 0) := by decide +kernel
/-- VAMO 8. -/
theorem test_decode_vamo : decodeWords (.w32 0x31488A27#32) = .ok (.vamoSwap 4 5 6 7) := by decide +kernel
/-- ORD pk, ar; VAMO 5. -/
theorem test_decode_orderedVamo : decodeWords (.w64 0x8C00C300#32 0x31458A21#32) = .ok (.vamoOrd .max 4 5 6 1 .pk .ar) := by decide +kernel
/-- ORD di, acq; VLOAD 0. -/
theorem test_decode_orderedLoad : decodeWords (.w64 0x6400C300#32 0x01408820#32) = .ok (.vloadOrd .vld 4 5 0 0 .di .acq) := by decide +kernel
/-- VOPVV f 0x0E. -/
theorem test_decode_vectorVector : decodeWords (.w32 0x314E9020#32) = .ok (.vfmaVv 4 5 6 0) := by decide +kernel
/-- VOPVX f 5. -/
theorem test_decode_vectorScalar : decodeWords (.w32 0x31459120#32) = .ok (.vremVx 4 5 6 0) := by decide +kernel
/-- VOPVI f 0x15. -/
theorem test_decode_vectorImmediate : decodeWords (.w32 0xF9559223#32) = .ok (.vnshrVi 4 5 31 3) := by decide +kernel
/-- VCMP form 2, lt, immediate -1. -/
theorem test_decode_compare : decodeWords (.w32 0xF9629419#32) = .ok (.vcmpLtVi 3 5 31 1) := by decide +kernel
/-- MLOG f 2, destination m0. -/
theorem test_decode_maskLogic : decodeWords (.w32 0x10429500#32) = .ok (.mxor 0 1 2) := by decide +kernel
/-- MLOG f 5. -/
theorem test_decode_maskCount : decodeWords (.w32 0x01C59548#32) = .ok (.mfirst 9 7) := by decide +kernel
/-- VMOVE f 2. -/
theorem test_decode_move : decodeWords (.w32 0x39829628#32) = .ok (.vget 5 6 7) := by decide +kernel
/-- VPERM f 4. -/
theorem test_decode_permute : decodeWords (.w32 0x0184982A#32) = .ok (.vexpand 5 6 2) := by decide +kernel
/-- VRED f 1. -/
theorem test_decode_reduce : decodeWords (.w32 0x39819928#32) = .ok (.vredsumT 5 6 7 0) := by decide +kernel
/-- VCONV SR, SEW code 1, KIND code 3. -/
theorem test_decode_vconvert : decodeWords (.w32 0x19859A28#32) = .ok (.vcvtSr 5 6 .bf16 .w16 0) := by decide +kernel
/-- VSPEC f 4. -/
theorem test_decode_special : decodeWords (.w32 0x01849B28#32) = .ok (.vexp2 5 6 0) := by decide +kernel
/-- VSPEC f 9. -/
theorem test_decode_codebook : decodeWords (.w32 0x01899B00#32) = .ok (.cbload 6) := by decide +kernel
/-- VRNS f 2. -/
theorem test_decode_residue : decodeWords (.w32 0x01829C18#32) = .ok (.vrnschk 3 6 0) := by decide +kernel
/-- VSTREAM form 3, slot 2. -/
theorem test_decode_stream : decodeWords (.w32 0x399CA028#32) = .ok (.vstreamSts 5 6 7 2) := by decide +kernel
/-- EXT x 5; form 4, arrive. -/
theorem test_decode_streamArrive : decodeWords (.w64 0x0000C2A0#32 0x7361A060#32) = .ok (.vstreamLdbA 0 12 13 14 5) := by decide +kernel
/-- SCTL f 1. -/
theorem test_decode_slot : decodeWords (.w32 0x1801A128#32) = .ok (.squery 5 3) := by decide +kernel
/-- SYNC type 3, scope 5. -/
theorem test_decode_fence : decodeWords (.w32 0x1805A200#32) = .ok (.fenceVv .sy) := by decide +kernel
/-- SYNC f[5:3] 1. -/
theorem test_decode_barrier : decodeWords (.w32 0xF988A200#32) = .ok (.barinit 6 31) := by decide +kernel
/-- SYNC f[5:3] 2. -/
theorem test_decode_barrierVector : decodeWords (.w32 0xF812A200#32) = .ok (.barv 31 .cl) := by decide +kernel
/-- MAT f 0, b[0] 1. -/
theorem test_decode_matrix : decodeWords (.w32 0x0800B000#32) = .ok (.mtenter true) := by decide +kernel
/-- EXT x 63; MAT f 8. -/
theorem test_decode_matrixRow : decodeWords (.w64 0x0007C2E0#32 0x3148B038#32) = .ok (.tldrow 7 63 5 6) := by decide +kernel
/-- EXT x 9, O 1; MAT f 0xA. -/
theorem test_decode_matrixSlice : decodeWords (.w64 0x0001C230#32 0x01CAB028#32) = .ok (.tslv 5 7 9 true) := by decide +kernel

/-! ### Words that stand for no instruction -/

/-- op 0x03. -/
theorem test_refuse_opUnassigned : (decodeWords (.w32 0x00004300#32)).isOk = false := by decide +kernel
/-- ERET with a = 1. -/
theorem test_refuse_fieldNotZero : (decodeWords (.w32 0x00417C00#32)).isOk = false := by decide +kernel
/-- scope code 6. -/
theorem test_refuse_reservedScope : (decodeWords (.w32 0x31F06428#32)).isOk = false := by decide +kernel
/-- order code 5. -/
theorem test_refuse_reservedOrder : (decodeWords (.w32 0x31C56428#32)).isOk = false := by decide +kernel
/-- m 5. -/
theorem test_refuse_reservedRounding : (decodeWords (.w32 0x3982702D#32)).isOk = false := by decide +kernel
/-- barrier 32. -/
theorem test_refuse_barrierNumber : (decodeWords (.w64 0x0004C200#32 0x7341A060#32)).isOk = false := by decide +kernel
/-- VSEL with m 0. -/
theorem test_refuse_maskMissing : (decodeWords (.w32 0x39809628#32)).isOk = false := by decide +kernel
/-- TOPA without EXT. -/
theorem test_refuse_prefixMissing : (decodeWords (.w32 0x4004B008#32)).isOk = false := by decide +kernel
/-- IMM before ADD. -/
theorem test_refuse_prefixRefused : (decodeWords (.w64 0x0000C100#32 0x39804028#32)).isOk = false := by decide +kernel
/-- prefix kind 4. -/
theorem test_refuse_prefixKind : (decodeWords (.w64 0x0000C400#32 0x00404808#32)).isOk = false := by decide +kernel
/-- HINT with d 1. -/
theorem test_refuse_hintDestination : (decodeWords (.w32 0x00007F08#32)).isOk = false := by decide +kernel

/-! ### Small states -/

/-- Scalar registers given by number and value. -/
def regsOf (x : Strand) (rs : List (Nat × Word)) : Strand := rs.foldl (fun y r => y.setReg (BitVec.ofNat 5 r.1) r.2) x

/-- A strand at application level in context 0, its pc at 0x1000 and its trap vector at 0x4000. -/
def app (rs : List (Nat × Word)) : State :=
  { State.reset with me := regsOf { Strand.unbound with run := .running, pc := 0x1000, ctl := { Ctl.reset with tvec := 0x4000 } } rs }

/-- The same strand at supervisor level. -/
def sup (rs : List (Nat × Word)) : State := (app rs).onCtl fun c => { c with priv := .sup }

/-- The last destination of a strand. -/
def led (s : State) (r : Reg) : State := s.onCtl fun c => { c with ld := r, ldv := true }

/-- A state that holds issued work for later steps. -/
def lazy (s : State) : State := { s with eager := false }

/-- A granted strand: one lane group, VL elements of SEW 32 signed integers with 8 registers of 4 words a lane. -/
def granted (rs : List (Nat × Word)) (vl : BitVec 32) : State :=
  ((app rs).onCtl fun c => { c with lg := 1, vl := vl, vt := 2, shape := 16 }).onVec fun v => { v with lanes := [0] }

/-- The outcome is a next state of which `p` holds. -/
def next (r : Result) (p : State → Bool) : Bool :=
  match r with
  | .next t => p t
  | _ => false

/-- The register `d` after the instruction, with its pc moved past it. -/
def gives (i : Instr) (s : State) (d : Reg) (v : Word) : Bool := next (exec i s) fun t => decide (t.reg d = v ∧ t.me.pc = s.me.pc + 4)

/-! ### Integers: the worked figures of 03 R76 and corners of R75, R78, R79 -/

theorem test_add_wraps : gives (.add 6 6 7) (app [(6, -1), (7, 2)]) 6 1 = true := by decide +kernel
theorem test_sra_shifts_modulo_64 : gives (.sra 5 6 7) (app [(6, -8), (7, 65)]) 5 (-4) = true := by decide +kernel
theorem test_min_signed : gives (.min 5 6 7) (app [(6, -1), (7, 1)]) 5 (-1) = true ∧ gives (.minu 5 6 7) (app [(6, -1), (7, 1)]) 5 1 = true := by
  decide +kernel
theorem test_rotl_zero : gives (.rotl 5 6 0) (app [(6, 9)]) 5 9 = true := by decide +kernel
theorem test_addsc : gives (.addsc 5 6 7 3) (app [(6, 100), (7, 5)]) 5 140 = true := by decide +kernel
theorem test_s0_discards : gives (.add 0 6 6) (app [(6, 3)]) 0 0 = true := by decide +kernel
theorem test_mulh : gives (.mulh 5 6 7) (app [(6, -1), (7, 2)]) 5 (-1) = true ∧ gives (.mulhu 5 6 7) (app [(6, -1), (7, 2)]) 5 1 = true := by
  decide +kernel
theorem test_clmul : gives (.clmul 5 6 6) (app [(6, 3)]) 5 5 = true ∧
    gives (.clmulh 5 6 7) (app [(6, 0x8000000000000000), (7, 2)]) 5 1 = true := by decide +kernel
theorem test_rem : gives (.rem 5 6 7) (app [(6, -7), (7, 2)]) 5 (-1) = true ∧
    gives (.rem 5 6 7) (app [(6, 0x8000000000000000), (7, -1)]) 5 0 = true := by decide +kernel
theorem test_div : gives (.div 5 6 7) (app [(6, 0x8000000000000000), (7, -1)]) 5 0x8000000000000000 = true ∧
    gives (.div 5 6 7) (app [(6, -7), (7, 2)]) 5 (-3) = true := by decide +kernel
theorem test_div_zero : next (exec (.divu 5 6 7) (app [(6, 9)])) (fun t => decide (t.reg 5 = -1 ∧ t.me.ctl.iflags = 8)) = true := by decide +kernel
theorem test_clz : gives (.clz 5 0) (app []) 5 64 = true ∧ gives (.ctz 5 6) (app [(6, 0x100)]) 5 8 = true := by decide +kernel
theorem test_brev : gives (.brev 5 6) (app [(6, 1)]) 5 0x8000000000000000 = true ∧
    gives (.bswap 5 6) (app [(6, 0x0102030405060708)]) 5 0x0807060504030201 = true := by decide +kernel
theorem test_slti : gives (.slti 5 6 0x3FFF) (app [(6, -2)]) 5 1 = true := by decide +kernel
theorem test_lih : gives (.lih 5 0x7FFFF) (app []) 5 0xFFFFFFFFFFFFE000 = true := by decide +kernel
/-- The 64-bit case of `li` for 0x7FFF_FFFF_8000_0000 (02 R72). -/
theorem test_li : next (exec (.lihImm32 5 0x80000000) (app [])) (fun t => decide (t.reg 5 = 0x8000000000000000 ∧ t.me.pc = 0x1008)) = true ∧
    next (exec (.addiImm32 .addi 5 5 0x80000000) (app [(5, 0x8000000000000000)])) (fun t => decide (t.reg 5 = 0x7FFFFFFF80000000)) = true := by
  decide +kernel
theorem test_compact : next (exec (.cSub 5 7) (led (app [(6, 3), (7, 5)]) 6)) (fun t => decide (t.reg 5 = -2 ∧ t.me.pc = 0x1002 ∧ t.me.ctl.ld = 5)) = true := by
  decide +kernel
theorem test_compact_without_destination : next (exec (.cMv 5) (app [])) (fun t => decide (t.me.pc = 0x4000 ∧ t.me.ctl.cause = 2 ∧ t.me.ctl.epc = 0x1000)) = true := by
  decide +kernel
theorem test_branch : next (exec (.blt 5 6 0x3FFF) (app [(5, -1)])) (fun t => decide (t.me.pc = 0xFFE)) = true ∧
    next (exec (.bltu 5 6 0x3FFF) (app [(5, -1)])) (fun t => decide (t.me.pc = 0x1004)) = true := by decide +kernel
/-- The target is read before the link is written (03 R73). -/
theorem test_jalr_same : next (exec (.jalr 5 5 1) (app [(5, 0x2002)])) (fun t => decide (t.me.pc = 0x2002 ∧ t.reg 5 = 0x1004)) = true := by decide +kernel

/-! ### Memory: the private window (01 R17, R31, 03 R83, R89) -/

theorem test_store_little_endian : next (exec (.stw 5 6 0x3FFE) (app [(5, 0x1122334455667788), (6, 0xE000000000000002)]))
    (fun t => decide (t.mem = [(tcmKey 0 0x10000, 0x88), (tcmKey 0 0x10001, 0x77), (tcmKey 0 0x10002, 0x66), (tcmKey 0 0x10003, 0x55)])) = true := by
  decide +kernel
theorem test_load_sign : next (exec (.ldh 5 6 0) { app [(6, 0xE000000000000007)] with mem := [(tcmKey 0 0x10007, 0x34), (tcmKey 0 0x10008, 0x92)] })
    (fun t => decide (t.reg 5 = 0xFFFFFFFFFFFF9234)) = true := by decide +kernel
theorem test_load_past_window : next (exec (.ldd 5 6 0) (app [(6, 0xE000000000001FF9)]))
    (fun t => decide (t.me.ctl.cause = 8 ∧ t.me.ctl.tval = 0xE000000000001FF9 ∧ t.reg 5 = 0)) = true := by decide +kernel
theorem test_amo : next (exec (.amoMaxW 5 6 7 .rlx .st) { app [(6, 0xE000000000000004), (7, 1)] with mem := [(tcmKey 0 0x10007, 0x80)] })
    (fun t => decide (t.reg 5 = 0xFFFFFFFF80000000 ∧ t.mem = [(tcmKey 0 0x10004, 1)])) = true := by decide +kernel
theorem test_cas : next (exec (.casD 5 6 7 .rlx .st) (app [(5, 1), (6, 0xE000000000000000), (7, 9)]))
    (fun t => decide (t.reg 5 = 0 ∧ t.mem = [])) = true ∧
    next (exec (.casD 5 6 7 .rlx .st) (app [(6, 0xE000000000000000), (7, 9)])) (fun t => decide (t.reg 5 = 0 ∧ t.mem = [(tcmKey 0 0x10000, 9)])) = true := by
  decide +kernel
theorem test_amo_misaligned : next (exec (.amoAddD 5 6 7 .rlx .st) (app [(6, 0xE000000000000004)]))
    (fun t => decide (t.me.ctl.cause = 0x0A ∧ t.me.ctl.tval = 0xE000000000000004)) = true := by decide +kernel
theorem test_castg : gives (.castg 5 6 1) (app [(6, 0x10)]) 5 0xE000000000000010 = true ∧ gives (.space 5 6) (app [(6, 0xE300000000000000)]) 5 (-1) = true := by
  decide +kernel

/-! ### Floating point: the worked figures of 03 R97, R103 and corners of R96 to R102 -/

theorem test_fadd_tie : next (exec (.fadd 5 6 7 .bf16 .rne) (app [(6, 0x3F80), (7, 0x3B80)])) (fun t => decide (t.reg 5 = 0x3F80 ∧ t.me.ctl.fflags = 1)) = true ∧
    gives (.fadd 5 6 7 .bf16 .rup) (app [(6, 0x3F80), (7, 0x3B80)]) 5 0x3F81 = true := by decide +kernel
theorem test_fsub_zero : gives (.fsub 5 6 6 .fp32 .rdn) (app [(6, 0x3F800000)]) 5 0x80000000 = true := by decide +kernel
theorem test_fmul_overflow : next (exec (.fmul 5 6 6 .fp16 .rtz) (app [(6, 0x7BFF)])) (fun t => decide (t.reg 5 = 0x7BFF ∧ t.me.ctl.fflags = 5)) = true := by
  decide +kernel
theorem test_fdiv_zero : next (exec (.fdiv 5 6 7 .fp64 .rne) (app [(6, 0x3FF0000000000000), (7, 0x8000000000000000)]))
    (fun t => decide (t.reg 5 = 0xFFF0000000000000 ∧ t.me.ctl.fflags = 8)) = true := by decide +kernel
theorem test_fsqrt_two : next (exec (.fsqrt 5 6 .fp64 .rne) (app [(6, 0x4000000000000000)])) (fun t => decide (t.reg 5 = 0x3FF6A09E667F3BCD ∧ t.me.ctl.fflags = 1)) = true := by
  decide +kernel
theorem test_fma_once : next (exec (.fma 5 6 6 .fp32 .rne) (app [(5, 0xBF800002), (6, 0x3F800001)])) (fun t => decide (t.reg 5 = 0x28800000 ∧ t.me.ctl.fflags = 0)) = true := by
  decide +kernel
theorem test_fmin_zeros : gives (.fmin 5 6 7 .fp16) (app [(6, 0), (7, 0x8000)]) 5 0x8000 = true ∧ gives (.fmax 5 6 7 .fp16) (app [(6, 0x7E00), (7, 0x3C00)]) 5 0x3C00 = true := by
  decide +kernel
theorem test_fcmp_nan : next (exec (.fcmpEq 5 6 6 .fp32) (app [(6, 0x7FC00000)])) (fun t => decide (t.reg 5 = 0 ∧ t.me.ctl.fflags = 0)) = true ∧
    next (exec (.fcmpLe 5 6 6 .fp32) (app [(6, 0x7FC00000)])) (fun t => decide (t.reg 5 = 0 ∧ t.me.ctl.fflags = 16)) = true := by decide +kernel
theorem test_fcvt_integer : next (exec (.fcvtToInt 5 6 .sint32 .fp64 .rne) (app [(6, 0xC00C000000000000)])) (fun t => decide (t.reg 5 = -4 ∧ t.me.ctl.fflags = 1)) = true ∧
    next (exec (.fcvtToInt 5 6 .sint32 .fp64 .rne) (app [(6, 0x41E65A0BC0000000)])) (fun t => decide (t.reg 5 = 0x7FFFFFFF ∧ t.me.ctl.fflags = 16)) = true := by
  decide +kernel
theorem test_fcvt_small : next (exec (.fcvtToInt 5 6 .sint32 .fp64 .rne) (app [(6, 0xBFD999999999999A)])) (fun t => decide (t.reg 5 = 0 ∧ t.me.ctl.fflags = 1)) = true := by
  decide +kernel

/-! ### Control registers, traps and returns (01 R20 to R26, 03 R105, R111 to R113) -/

theorem test_rdc_vt : gives (.rdc 4 0x401) (granted [] 8) 4 2 = true := by decide +kernel
theorem test_wrc_frm : next (exec (.wrc 6 0x005) (app [(6, 5)])) (fun t => decide (t.me.ctl.cause = 2 ∧ t.me.ctl.frm = 0)) = true ∧
    next (exec (.wrc 6 0x005) (app [(6, 4)])) (fun t => decide (t.me.ctl.frm = 4 ∧ t.me.pc = 0x1004)) = true := by decide +kernel
theorem test_setc : next (exec (.setc 6 0x004) ((app [(6, 0x11)]).raiseF 2)) (fun t => decide (t.me.ctl.fflags = 0x13)) = true := by decide +kernel
theorem test_privilege : next (exec (.rdc 5 0x802) (app [])) (fun t => decide (t.me.ctl.cause = 3 ∧ t.me.ctl.priv = .sup ∧ t.me.ctl.ppriv = .app)) = true := by decide +kernel
theorem test_svc : next (exec (.svc 17) (led (app []) 9)) (fun t => decide (t.me.pc = 0x4000 ∧ t.me.ctl.cause = 6 ∧ t.me.ctl.tval = 17 ∧ t.me.ctl.epc = 0x1000 ∧
    t.me.ctl.pld = 9 ∧ t.me.ctl.pldv = true ∧ t.me.ctl.ldv = false)) = true := by decide +kernel
theorem test_eret : next (exec .eret ((sup []).onCtl fun c => { c with epc := 0x2003, ppriv := .app, pld := 7, pldv := true }))
    (fun t => decide (t.me.pc = 0x2002 ∧ t.me.ctl.priv = .app ∧ t.me.ctl.ld = 7 ∧ t.me.ctl.ldv = true)) = true := by decide +kernel
theorem test_lullq : gives (.lullq 5 6) (app [(6, 2)]) 5 8640 = true ∧ gives (.lullq 5 6) (app [(6, 6)]) 5 (-1) = true := by decide +kernel

/-! ### Vectors: grants, arithmetic, masks and the tail (06 R191 to R193, 08 R241, R242, R250) -/

/-- Register words of the granted strand, by register, word and value. -/
def words (s : State) (ws : List (Nat × Nat × Word)) : State :=
  s.onVec fun v => { v with regs := ws.foldl (fun r w => NMap.set 0 r (65536 * w.1 + w.2.1) w.2.2) v.regs }

/-- A carry stays inside its element, the tail keeps its value, and ES counts up from its start. -/
theorem test_vadd : next (exec (.vaddVv 2 4 6 0) (words (granted [] 3) [(2, 1, 0x7777777766666666), (4, 0, 0x00000001FFFFFFFF), (4, 1, 5), (6, 0, 0x0000000200000001), (6, 1, 0x900000007)]))
    (fun t => decide (t.me.vec.word 2 0 = 0x0000000300000000 ∧ t.me.vec.word 2 1 = 0x777777770000000C ∧ t.me.pc = 0x1004 ∧ t.me.ctl.es = 0 ∧ t.me.queue = [])) = true := by
  decide +kernel

theorem test_vsub_masked : next (exec (.vsubVx 2 4 6 1) ((words (granted [(6, 1)] 2) [(2, 0, 0x5555555544444444)]).onVec fun v => { v with masks := [(2 ^ 20 + 1, true)] }))
    (fun t => decide (t.me.vec.word 2 0 = 0xFFFFFFFF44444444)) = true := by decide +kernel

theorem test_vcmp : next (exec (.vcmpLtVi 3 4 1 0) (words (granted [] 2) [(4, 0, 0x00000005FFFFFFFF)])) (fun t => decide (t.me.vec.mask 3 0 = true ∧ t.me.vec.mask 3 1 = false)) = true := by
  decide +kernel

theorem test_vredsum : next (exec (.vredsumO 2 4 6 0) (words (granted [] 3) [(4, 0, 0x0000000200000001), (4, 1, 3), (6, 0, 10)]))
    (fun t => decide (t.me.vec.elem 32 2 0 = 16)) = true := by decide +kernel

theorem test_mtenter : next (exec (.mtenter false) (granted [] 0)) (fun t => decide (t.me.ctl.mt = true ∧ t.me.pc = 0x1004)) = true ∧
    next (exec (.mtenter true) (granted [] 0)) (fun t => decide (t.me.ctl.cause = 4)) = true := by decide +kernel

/-! ### A step of a booted package, and what the statements about steps assume -/

/-- The package after a launch, about to execute the words of `w`. -/
def boot (nbits w : Nat) : State := State.reset.withFetchWord nbits w

/-- `ADD s5, s6, s7` with its operands. -/
def bootAdd : State := (boot 32 0x39804028).onMe fun x => regsOf x [(6, 40), (7, 2)]

theorem test_step_add : next (step bootAdd) (fun t => decide (t.reg 5 = 42 ∧ t.me.pc = 0x10004)) = true := by decide +kernel
theorem test_step_illegal : next (step (boot 16 0)) (fun t => decide (t.me.ctl.cause = 2 ∧ t.me.ctl.epc = 0x10000 ∧ t.me.pc = 0)) = true := by decide +kernel
theorem test_step_event : next (step { State.reset with agenda := [.powerLoss] }) (fun t => !t.sys.power) = true := by decide +kernel
theorem test_decode_table_word : decodeTableWord 32 0x39804028 = some (.add 5 6 7) ∧ decodeTableWord 64 0x4004B00A4818C200 = some (.topa 1 0 8 9 0 2 3) := by
  decide +kernel

/-- The first context that core 0 examines, with nothing else in the way of its turn. -/
def Examines (s s0 s1 : State) (w : Words) : Prop :=
  ∃ t ts, s.sys.power = true ∧ s.agenda = [] ∧ s.dueNow = none ∧ s.pick = some 0 ∧ s.examined 0 = t :: ts ∧ (s.focus t).turn = (s0, false) ∧
    s0.me.haltDue = false ∧ (s0.me.waits = false ∨ s0.me.step = false) ∧ ({ s0 with ir := .event } : State).fetch = (s1, .ok w) ∧ s1.me.interlocked w = false ∧
    (∀ d, s1.me.dueReg = some d → d = 0 ∨ d ∉ namedRegs s1.me.ctl w)

/-- A state whose fetch needs no hypothesis of its own examines the strand in focus. -/
theorem examines_of (s : State) (w : Words) (s0 s1 : State) (hs : (s.focus s.tid).turn.1 = s0) (hf : ({ s0 with ir := .event } : State).fetch.1 = s1)
    (h : s.sys.power = true ∧ s.agenda = [] ∧ s.dueNow = none ∧ s.pick = some 0 ∧ s.examined 0 = [s.tid] ∧ (s.focus s.tid).turn.2 = false ∧
      s0.me.haltDue = false ∧ (s0.me.waits = false ∨ s0.me.step = false) ∧ ({ s0 with ir := .event } : State).fetch.2.toOption = some w ∧ s1.me.interlocked w = false ∧
      s1.me.dueReg.all (fun d => !(namedRegs s1.me.ctl w).elem d) = true) : Examines s s0 s1 w := by
  obtain ⟨power, idle, due, core, alone, plain, ready, steps, fetched, clear, free⟩ := h
  have word : ({ s0 with ir := .event } : State).fetch = (s1, .ok w) := by
    refine Prod.ext hf ?_
    revert fetched
    cases ({ s0 with ir := .event } : State).fetch.2 <;> simp [Except.toOption]
  exact ⟨s.tid, [], power, idle, due, core, alone, Prod.ext hs plain, ready, steps, word, clear, fun d hd => .inr (by simpa [hd] using free)⟩

/-- `bootAdd` while the data of a load to s9 is out. -/
def bootWaits : State := bootAdd.onMe fun x => { x with pend := [⟨0, 0, .scalar, 9, 0, [], [], .load 8 false, .rlx, .st, some 1, none, 0, 0, none⟩] }

/-- What `StepRunsTheDecodedInstruction` assumes: an instruction, a fence that is held, one beside an access that is out, one that needs
memory meanwhile, and words that decode to nothing. -/
theorem witness_StepRunsTheDecodedInstruction : ∃ s0 s1 u, Examines bootAdd s0 s1 (.w32 0x39804028) ∧
    decodeWords (.w32 0x39804028) = .ok (.add 5 6 7) ∧ exec (.add 5 6 7) { s1 with ir := .w32 0x39804028 } = .next u ∧
    s1.me.waits = false ∧ s1.me.step = false ∧ hasIssued { s1 with ir := .w32 0x39804028 } u = true :=
  ⟨_, _, _, examines_of _ _ _ _ rfl rfl (by decide +kernel), by decide +kernel, rfl, by decide +kernel⟩

theorem witness_StepRunsTheDecodedInstruction_held : ∃ s s0 s1 u, Examines s s0 s1 (.w32 0x0005A200) ∧
    decodeWords (.w32 0x0005A200) = .ok (.fenceSs .sy) ∧ exec (.fenceSs .sy) { s1 with ir := .w32 0x0005A200 } = .next u ∧
    hasIssued { s1 with ir := .w32 0x0005A200 } u = false :=
  ⟨(boot 32 0x0005A200).onMe fun x => { x with writes := [⟨0, 0x10000, [(⟨.dram, 0x10000, 0, true, true, false, true⟩, [1])], 1, 0, 0, [], 0⟩] }, _, _, _,
    examines_of _ _ _ _ rfl rfl (by decide +kernel), by decide +kernel, rfl, by decide +kernel⟩

theorem witness_StepRunsTheDecodedInstruction_waits : (∃ s0 s1 u, Examines bootWaits s0 s1 (.w32 0x39804028) ∧
    decodeWords (.w32 0x39804028) = .ok (.add 5 6 7) ∧ exec (.add 5 6 7) { s1 with ir := .w32 0x39804028 } = .next u ∧
    s1.me.waits = true ∧ hasIssued { s1 with ir := .w32 0x39804028 } u = true ∧ onlyLocal { s1 with ir := .w32 0x39804028 } u = true) ∧
    (∃ s s0 s1 u, Examines s s0 s1 (.w32 0x04407C00) ∧ decodeWords (.w32 0x04407C00) = .ok (.svc 17) ∧
      exec (.svc 17) { s1 with ir := .w32 0x04407C00 } = .next u ∧ s1.me.waits = true ∧
      hasIssued { s1 with ir := .w32 0x04407C00 } u = true ∧ onlyLocal { s1 with ir := .w32 0x04407C00 } u = false) :=
  ⟨⟨_, _, _, examines_of _ _ _ _ rfl rfl (by decide +kernel), by decide +kernel, rfl, by decide +kernel⟩,
    { boot 32 0x04407C00 with me := { (boot 32 0x04407C00).me with pend := bootWaits.me.pend } }, _, _, _,
    examines_of _ _ _ _ rfl rfl (by decide +kernel), by decide +kernel, rfl, by decide +kernel⟩

theorem witness_StepRunsTheDecodedInstruction_none : ∃ s0 s1 e, Examines (boot 16 0) s0 s1 (.w16 0) ∧ s1.me.waits = false ∧
    decodeWords (.w16 0) = .error e :=
  ⟨_, _, _, examines_of _ _ _ _ rfl rfl (by decide +kernel), by decide +kernel, rfl⟩

/-- What `StepRunsTheNextEvent` assumes: an event at the head, packets of two queues, an event that is due, and no power. -/
theorem witness_StepRunsTheNextEvent : (({ State.reset with agenda := [.thermtrip] } : State).agenda = .thermtrip :: [] ∧ State.reset.sys.power = true) ∧
    (∃ s : State, s.agenda = .cpServePacket 200 :: [.cpServePacket 3] ∧ s.sys.power = true ∧ .cpServePacket 3 ∈ s.agenda ∧
      ∀ j, .cpServePacket j ∈ s.agenda → (3 : BitVec 8).toNat ≤ j.toNat) ∧
    (State.reset.agenda = [] ∧ ∃ e, State.reset.dueNow = some e) ∧
    (∃ s : State, s.sys.power = false ∧ s.agenda.head? ≠ some .packageReset) :=
  ⟨by decide +kernel, ⟨{ State.reset with agenda := [.cpServePacket 200, .cpServePacket 3] }, rfl, rfl, .tail _ (.head _), fun j h => by
      simp only [List.mem_cons, Event.cpServePacket.injEq, List.not_mem_nil, or_false] at h
      rcases h with rfl | rfl <;> decide⟩,
    ⟨rfl, Option.isSome_iff_exists.1 (by decide +kernel)⟩, { State.reset with sys := { Sys.reset with power := false } }, by decide +kernel⟩

/-- What `EveryStepAnswersANextState` assumes. -/
theorem witness_EveryStepAnswersANextState : State.reset.sys.power = true := rfl

/-- What `FetchFramesParcels` assumes: a place of the code page, and framings of one, two and four parcels and of a fault. -/
theorem witness_FetchFramesParcels_place : ∃ p, (boot 32 0x39804028).fetchPlace 0x10000 = .ok p ∧ p.keyId = 0 ∧ p.key % 2 = 0 ∧
    (boot 32 0x39804028).me.fbuf = none ∧ ((boot 32 0x39804028).core 0).icacheFind p.key = none ∧ (boot 32 0x39804028).poison = [] ∧
    (boot 32 0x39804028).synd = [] ∧ (boot 32 0x39804028).lineKey = [] ∧
    (boot 32 0x39804028).sys.migrating = [] ∧ (boot 32 0x39804028).sys.lull.phase = .clear :=
  ⟨⟨.dram, 0x10000, 0, true, true, false, true⟩, by decide +kernel⟩

/-- The first parcels fetched from the booted package. -/
def parcels (s : State) (n : Nat) : Option (List (BitVec 16)) :=
  match n with
  | 0 => some []
  | k + 1 =>
    match s.fetchParcel (s.me.pc + word (2 * k)) with
    | (_, .ok a) => (parcels s k).map fun l => l ++ [a]
    | (_, .error _) => none

theorem witness_FetchFramesParcels_lengths : parcels (boot 16 0x04C7) 1 = some [0x04C7] ∧ (0x04C7 : BitVec 16).extractLsb' 14 2 = 0#2 ∧
    parcels (boot 32 0x39804028) 2 = some [0x4028, 0x3980] ∧ (0x4028 : BitVec 16).extractLsb' 14 2 = 1#2 ∧
    (0x9011 : BitVec 16).extractLsb' 14 2 = 2#2 ∧
    parcels (boot 64 0x4004B00A4818C200) 4 = some [0xC200, 0x4818, 0xB00A, 0x4004] ∧ (0xC200 : BitVec 16).extractLsb' 14 2 = 3#2 := by decide +kernel

/-- The word stands at the end of the mapped page: its second parcel cannot be fetched. -/
theorem witness_FetchFramesParcels_fault : ∃ t a t1 e, let s : State := { boot 32 0 with me := { (boot 32 0).me with pc := 0x1FFFE }, mem := (boot 32 0).mem.setBytes 0x1FFFE [0x28, 0x40] }
    s.fetchParcel s.me.pc = (t, .ok a) ∧ a.extractLsb' 14 2 ≠ 0#2 ∧ t.fetchParcel (s.me.pc + 2) = (t1, .error e) :=
  ⟨_, 0x4028, _, .fault 0x20000, Prod.ext rfl (by decide +kernel), by decide +kernel, Prod.ext rfl (by decide +kernel)⟩

theorem witness_DecodingUndoesEncoding : wellFormed (.topa 7 31 31 31 31 7 7) = true ∧ encode (.topa 7 31 31 31 31 7 7) ≠ .event ∧
    wellFormed (.addiImm32 .slti 31 31 0xFFFFFFFF) = true ∧ encode (.addiImm32 .slti 31 31 0xFFFFFFFF) ≠ .event := by decide +kernel

theorem witness_StepKeepsTablesCanonical : bootAdd.canonical = true ∧ next (step bootAdd) (fun t => t.canonical) = true ∧
    ((app []).canonical = true) := by decide +kernel


/-! ### L2 slices and the memory-side cache -/

/-- The worked figure of 13 R370. -/
theorem test_l2_place : l2Slice 0x400123440 = 5 ∧ l2Set 0 0x400123440 = 5 * 2048 + 582 := by decide

/-- A free way first, then the least recently used of those that the mask allows (13 R371). -/
theorem test_way : wayFor [3, 1, 0] 4 0b1011 = some 0 ∧ wayFor [3, 0] 4 0b1011 = some 1 ∧ wayFor [3, 1, 0] 4 0b0100 = some 2 ∧ wayFor [] 4 0 = none ∧
    wayFor [3, 0, 1] 4 0b1011 = some 1 := by decide

/-- A capacity-tier line: a read miss asks DRAM once and then hits both caches; a store makes L2 dirty; another key writes it back to the
memory-side cache, which writes it back to DRAM; class 3 leaves no line (13 R371, R381, R383, R385). -/
theorem test_caches :
    (let pa := 0x100000000000
     let s1 := State.reset.cacheRead (some 0) 3 pa pa 5 true false
     let s2 := (s1.cacheWrite 3 pa 5 true)
     let s3 := s2.cacheRead (some 0) 3 pa pa 6 true false
     let s4 := State.reset.cacheRead none 3 pa pa 5 false false
     s1.agenda.length = 1 ∧ s1.inMsc pa = true ∧ s2.agenda.length = 1 ∧
     NMap.get [] s2.sys.l2 (l2Set 0 pa) = [⟨0, pa / 64, true, 3, 5, 0⟩] ∧ NMap.get [] s3.sys.l2 (l2Set 0 pa) = [⟨0, pa / 64, false, 3, 6, 0⟩] ∧
     s3.agenda.length = 3 ∧ s4.inMsc pa = false ∧ s4.sys.l2 = [] ∧ s4.agenda.length = 1) := by decide +kernel

/-- A read from die 1 leaves a replica in its slice and a bit in the vector; later reads stay there; a store drops both (13 R372, R373). -/
theorem test_replica :
    (let s1 := State.reset.cacheRead (some 1) 0 0x40 0x40 0 true true
     let s2 := s1.cacheRead (some 1) 0 0x40 0x40 0 true true
     let s3 := s1.dropReplicas 1
     NMap.get 0 s1.sys.replicas 1 = 2 ∧ NMap.get [] s1.sys.l2 (l2Set 1 0x40) = [⟨0, 1, false, 0, 0, 0⟩] ∧ s2 = s1 ∧
     NMap.get 0 s3.sys.replicas 1 = 0 ∧ NMap.get [] s3.sys.l2 (l2Set 1 0x40) = [] ∧ (NMap.get [] s3.sys.l2 (l2Set 0 0x40)).length = 1) := by decide +kernel
/-! ### What the statements about scalar instructions assume -/

/-- No injection is armed where no register has been written. -/
theorem no_injection (s : State) (h : s.fw = []) (r : Nat) : bitOf (s.rd r) 63 = false := by
  unfold State.rd fwReset
  have e : NMap.get (0 : Word) [] (r / 8) = 0 := rfl
  rw [h, e]
  repeat' split
  all_goals decide

/-- A state in which nothing stands in the way of the private window. -/
theorem calm_of (s : State) (h : s.me.waits = false ∧ s.me.writes = [] ∧ s.me.seen = [] ∧ s.sys.scRun = none ∧ s.synd = [] ∧ s.poison = [] ∧
    s.sys.migrating = [] ∧ s.sys.replicas = [] ∧ s.fw = [] ∧ s.mem.wf = true) : s.Calm :=
  match h with
  | ⟨waits, writes, seen, sc, synd, poison, migrating, replicas, fw, mem⟩ =>
    { noWait := waits, noWrites := writes, noSeen := seen, noSc := sc, noSyndrome := synd, noPoison := poison, noMigration := migrating
      noReplica := replicas, noInjection := fun _ => no_injection s fw _, memory := mem }

/-- A strand whose s6 and s7 hold an offset of the private window, s6 the last destination. -/
def priv (o : Nat) : State := led (app [(6, privAddr o), (7, privAddr o), (8, 0x1122334455667788)]) 6

theorem witness_DivisionsWrite : (app [(7, -1)]).reg 7 ≠ 0 ∧ (app []).reg 7 = 0 := by decide +kernel
theorem witness_CompactOperationsWrite : (led (app []) 6).me.ctl.ldv = true ∧ (app []).me.ctl.ldv = false := by decide +kernel
theorem witness_JumpsLink : (led (app []) 6).me.ctl.ldv = true := by decide +kernel

/-- At the last offset of each size. -/
theorem witness_PrivateLoadsRead (o : Nat) (h : o ∈ [0x1FFF, 0x1FFE, 0x1FFC, 0x1FF8]) : (priv o).Calm ∧
    (priv o).reg 6 + (0 : BitVec 14).signExtend 64 = privAddr o ∧ (priv o).reg 7 + (0 : BitVec 32).signExtend 64 = privAddr o ∧
    (priv o).me.ctl.ldv = true ∧ (priv o).reg (priv o).me.ctl.ld + BitVec.ofNat 64 (4 * (0 : BitVec 5).toNat) = privAddr o ∧
    (priv o).reg (priv o).me.ctl.ld + BitVec.ofNat 64 (8 * (0 : BitVec 5).toNat) = privAddr o ∧
    (o + 1 ≤ 0x2000 ∨ o + 2 ≤ 0x2000 ∨ o + 4 ≤ 0x2000 ∨ o + 8 ≤ 0x2000) := by
  simp only [List.mem_cons, List.not_mem_nil, or_false] at h
  rcases h with rfl | rfl | rfl | rfl <;> exact ⟨calm_of _ (by decide +kernel), by decide +kernel⟩

theorem witness_PrivateStoresWrite : (priv 0x1FF8).Calm ∧ (priv 0x1FF8).eager = true ∧ (priv 0x1FF8).reg 6 + (0 : BitVec 14).signExtend 64 = privAddr 0x1FF8 ∧
    (priv 0x1FF8).reg 7 + (0 : BitVec 32).signExtend 64 = privAddr 0x1FF8 ∧ 0x1FF8 + 8 ≤ 0x2000 ∧ (priv 0x1FF8).me.ctl.ldv = true ∧
    (priv 0x1FF8).reg (priv 0x1FF8).me.ctl.ld + BitVec.ofNat 64 (8 * (0 : BitVec 5).toNat) = privAddr 0x1FF8 :=
  ⟨calm_of _ (by decide +kernel), by decide +kernel⟩

theorem witness_PrivateStoresWrite_sizes : (priv 0x1FFF).Calm ∧ 0x1FFF + 1 ≤ 0x2000 ∧ (priv 0x1FFE).Calm ∧ 0x1FFE + 2 ≤ 0x2000 ∧ (priv 0x1FFC).Calm ∧ 0x1FFC + 4 ≤ 0x2000 :=
  ⟨calm_of _ (by decide +kernel), by decide, calm_of _ (by decide +kernel), by decide, calm_of _ (by decide +kernel), by decide⟩

theorem witness_PrivateAtomicsExchange64 : (priv 0x1FF8).Calm ∧ (priv 0x1FF8).reg 6 = privAddr 0x1FF8 ∧ 0x1FF8 + 8 ≤ 0x2000 ∧ 0x1FF8 % 8 = 0 ∧
    BitVec.ofNat 64 ((priv 0x1FF8).privNum 0x1FF8 8) = (priv 0x1FF8).reg 5 ∧ BitVec.ofNat 64 ((priv 0x1FF8).privNum 0x1FF8 8) ≠ (priv 0x1FF8).reg 8 :=
  ⟨calm_of _ (by decide +kernel), by decide +kernel⟩

theorem witness_PrivateAtomicsExchange32 : (priv 0x1FFC).Calm ∧ (priv 0x1FFC).reg 6 = privAddr 0x1FFC ∧ 0x1FFC + 4 ≤ 0x2000 ∧ 0x1FFC % 4 = 0 ∧
    BitVec.ofNat 32 ((priv 0x1FFC).privNum 0x1FFC 4) = ((priv 0x1FFC).reg 5).setWidth 32 ∧
    BitVec.ofNat 32 ((priv 0x1FFC).privNum 0x1FFC 4) ≠ ((priv 0x1FFC).reg 8).setWidth 32 := ⟨calm_of _ (by decide +kernel), by decide +kernel⟩

/-- A window with a must-be-zero bit set, an unassigned tag, misaligned addresses, and a global page of a tenant without a table. -/
theorem witness_BadAddressesTrap : let s := app [(6, 0xE000000000002000), (7, 0xE400000000000000), (8, 0xE000000000000004), (9, 0xE000000000000002), (10, 0xFFF8)]
    s.me.waits = false ∧ windowOf (s.reg 6 + (0 : BitVec 14).signExtend 64) = none ∧ windowOf (s.reg 7 + (0 : BitVec 32).signExtend 64) = none ∧
    windowOf (s.reg 6) = none ∧ (s.reg 6).toNat % 8 = 0 ∧ (s.reg 6).toNat % 4 = 0 ∧ (s.reg 8).toNat % 8 ≠ 0 ∧ (s.reg 9).toNat % 4 ≠ 0 ∧
    (s.cluster s.tid.cluster).tlb = [] ∧ bitOf (s.rd (rPtroot s.tid.die s.me.ctl.tenant.toNat)) 0 = false ∧
    windowOf (s.reg 10) = some (.global 0xFFF8) ∧ windowOf (s.reg 10 + 0) = some (.global 0xFFF8) ∧ windowOf (s.reg 10 + 1) = some (.global 0xFFF9) ∧
    windowOf (s.reg 10 + 3) = some (.global 0xFFFB) ∧ windowOf (s.reg 10 + 7) = some (.global 0xFFFF) := by decide +kernel

theorem witness_StoresEnterTheWriteQueue (o : Nat) (h : o ∈ [0x1FFF, 0x1FFE, 0x1FFC, 0x1FF8]) : (lazy (priv o)).Calm ∧ (lazy (priv o)).eager = false ∧
    (lazy (priv o)).reg 6 + (0 : BitVec 14).signExtend 64 = privAddr o ∧ (o + 1 ≤ 0x2000 ∨ o + 2 ≤ 0x2000 ∨ o + 4 ≤ 0x2000 ∨ o + 8 ≤ 0x2000) := by
  simp only [List.mem_cons, List.not_mem_nil, or_false] at h
  rcases h with rfl | rfl | rfl | rfl <;> exact ⟨calm_of _ (by decide +kernel), by decide +kernel⟩

theorem witness_FloatSpecialCases : (1 : Nat) ≠ 0 := by decide
theorem witness_MinimumAndMaximumPick : let f := FF.ofFFmt .fp32
    (f.value 0x7FC00000).isNan = true ∧ (f.value 0x3F800000).isNan = false := by decide +kernel
theorem witness_WideningConversionsAreExact : ((app [(6, 0x8000)]).fval .fp16 6).isNan = false ∧ ((app [(6, 0x3F80)]).fval .bf16 6).isNan = false ∧
    ((app [(6, 0x00000001)]).fval .fp32 6).isNan = false := by decide +kernel
theorem witness_ConversionsWrite : FFmt.fp16.numTy = .fp16 ∧ (∃ x, (app [(6, 0x7E00)]).fval .fp16 6 = .nan x) ∧ (∃ n, (app [(6, 0xFC00)]).fval .fp16 6 = .inf n) :=
  ⟨rfl, ⟨_, rfl⟩, ⟨_, rfl⟩⟩

/-- An address of each window, one of none, and an offset of another core. -/
theorem witness_AddressWindowsAreClassified : windowOf 0xFFFFFFFFFFFF = some (.global 0xFFFFFFFFFFFF) ∧ windowOf 0xE000000000001FFF = some (.priv 0x1FFF) ∧
    (∃ w, windowOf 0xE10000000000FFFF = some w) ∧ (∃ w, windowOf 0xE2000000001FFFFF = some w) ∧ windowOf 0xE000000000002000 = none ∧
    (0xE100000100000000 : Word).toNat / 2 ^ 32 % 2 ^ 11 ≠ (app []).tid.toNat / 4 ∧
    ((app []).wr (rCswin 0 0) 1).inLimit 0 (.shared 0 0) = true :=
  ⟨by decide +kernel, by decide +kernel, ⟨_, rfl⟩, ⟨_, rfl⟩, by decide +kernel, by decide +kernel, by decide +kernel⟩

/-- A vector queue entry. -/
def entry (op : VOp) : QEntry := captured (granted [] 4) op 0 0

/-- A strand with a queued instruction. -/
def queued (s : State) (op : VOp) : State := s.onMe fun x => { x with queue := [entry op] }

/-- Levels, an empty and a held queue, and a control register of every case. -/
theorem witness_RdcReadsTheRegister : (app []).me.ctl.priv = .app ∧ (app []).me.queue = [] ∧ (queued (app []) .cbload).me.queue ≠ [] ∧
    (queued (app []) .cbload).me.queue.length ≤ 8 ∧ (sup []).me.ctl.priv ≠ .app ∧ (0x800 : BitVec 12) ≤ 0x805 ∧
    (0x00A : BitVec 12) ∉ [0x001#12, 0x002#12, 0x003#12, 0x004#12, 0x005#12, 0x006#12, 0x007#12, 0x008#12, 0x009#12, 0x400#12] := by decide +kernel

theorem witness_ControlWritesTakeEffect : (app []).me.ctl.priv = .app ∧ (app []).me.queue = [] ∧ (sup []).me.ctl.priv ≠ .app ∧
    (0xFFFFFFFF : Word).extractLsb' 32 32 = 0 ∧ ¬ (0x100000000 : Word).extractLsb' 32 32 = 0 ∧ (4 : Word).toNat ≤ 4 ∧ ¬ (5 : Word).toNat ≤ 4 ∧
    (31 : Word).extractLsb' 5 59 = 0 ∧ ¬ (32 : Word).extractLsb' 5 59 = 0 ∧ (15 : Word).extractLsb' 4 60 = 0 ∧ ¬ (16 : Word).extractLsb' 4 60 = 0 ∧
    (1 ≤ (64 : Word).toNat ∧ (64 : Word).toNat ≤ 64) ∧ ¬ (1 ≤ (0 : Word).toNat) ∧
    ((0x3FF : Word).extractLsb' 10 54 = 0 ∧ (0x3FF : Word).extractLsb' 0 8 = (app []).me.ctl.rnscfg.extractLsb' 0 8) ∧
    (0x37F : Word).extractLsb' 0 8 ∈ [0xFF#8, 0xBF#8, 0x7F#8] ∧ (0x400 : Word).extractLsb' 10 54 ≠ 0 ∧
    (0xFE : Word).extractLsb' 0 8 ≠ (app []).me.ctl.rnscfg.extractLsb' 0 8 ∧ (0x3F : Word).extractLsb' 0 8 ∉ [0xFF#8, 0xBF#8, 0x7F#8, 0xFE#8] ∧
    (0x4000 : Word).extractLsb' 0 2 = 0 ∧ ¬ (0x4001 : Word).extractLsb' 0 2 = 0 ∧ (127 : Word).extractLsb' 7 57 = 0 ∧ ¬ (128 : Word).extractLsb' 7 57 = 0 ∧
    ((0x804 : Word) &&& 0xFFFFFFFFFF0000F0 = 0 ∧ (0x804 : Word).extractLsb' 2 2 = BitVec.ofNat 2 Priv.sup.code ∧ Priv.sup.code ≤ (sup []).me.ctl.priv.code) ∧
    (0x10 : Word) &&& 0xFFFFFFFFFF0000F0 ≠ 0 ∧ (0x8 : Word).extractLsb' 2 2 = 2 ∧ (sup []).me.ctl.priv.code < ((0xC : Word).extractLsb' 2 2).toNat := by
  decide +kernel

/-- A supervisor that returns to a trapped vector instruction, and one that does not. -/
theorem witness_EretReturns : (app []).me.ctl.priv = .app ∧ (let s := (queued (sup []) .cbload).onCtl fun c => { c with cause := 0x48, es := 3 }
    s.me.ctl.priv ≠ .app ∧ s.me.ctl.ppriv = .app ∧ s.me.ctl.cause.getLsbD 6 = true ∧ s.me.queue ≠ []) ∧
    ((sup []).me.queue = [] ∧ (sup []).me.ctl.cause.getLsbD 6 = false ∧ ((sup []).onCtl fun c => { c with ppriv := .sup }).me.ctl.ppriv ≠ .app) := by decide +kernel

/-- A strand with a debugger attached. -/
def attached (s : State) : State := s.onMe fun x => { x with attach := true, brken := true }

theorem witness_SystemCallsAndBreakpointsTrap : (app []).me.ctl.priv = .app ∧ (sup []).me.ctl.priv = .sup ∧
    ((app []).onCtl fun c => { c with priv := .fw }).me.ctl.priv = .fw ∧ (app []).me.attach = false ∧
    (attached (app [])).me.attach = true ∧ (attached (app [])).me.brken = true := by decide +kernel

/-- A TLB entry that maps page 1 of tenant 0 to the DRAM. -/
def mapped (s : State) : State := s.onCluster 0 fun c => { c with tlb := [(1, [⟨0, 1, false, bootLeaf⟩])] }

theorem witness_HintsOnlyAdvance : (app []).ractTarget ((app []).reg 6) = none ∧ windowOf ((app [(6, -1)]).reg 6) = none ∧
    (mapped (app [(6, 0x10040)])).ractTarget ((mapped (app [(6, 0x10040)])).reg 6) = some 0x10040 := by decide +kernel

theorem witness_TriggerAndExitIssue : let s := app []
    s.me.trigCounted = false ∧ s.me.queue = [] ∧ s.me.writes = [] ∧ s.me.posted = [] ∧ s.me.seen = [] ∧ s.me.pend = [] ∧ s.me.sends = [] ∧ s.me.ctl.priv = .app ∧
    (∀ k : BitVec 2, (s.me.slot k).phase ≠ .busy) ∧ (sup []).me.ctl.priv ≠ .app := by decide +kernel

/-- The lull sequencer in a phase. -/
def lulled (s : State) (l : Lull) : State := { s with sys := { s.sys with lull := l } }

theorem witness_LullQueriesAnswer : ((app [(6, 1)]).reg 6 = 1 ∧ (app [(6, 5)]).reg 6 = 5 ∧ (6 : Word) ≤ (app [(6, 6)]).reg 6) ∧
    (app []).sys.lull.phase = .drain ∧ (lulled (app []) { Lull.reset with phase := .clear }).sys.lull.phase = .clear ∧
    (let s := lulled (app []) { Lull.reset with phase := .lull }
     s.sys.lull.phase = .lull ∧ s.sys.lull.late = 0) ∧
    (let s := lulled { app [] with time := 9000 } { Lull.reset with phase := .lull, late := 3, start := 15360 }
     s.sys.lull.phase = .lull ∧ s.sys.lull.late ≠ 0) := by decide +kernel

/-- Messages in the share of the strand in focus. -/
def mail (s : State) (hs : List Word) : State := s.onMe fun x => { x with msgs := hs.map fun h => ⟨h, 7, .co⟩ }

theorem witness_SendReservesOrReports : let full := mail (app []) (List.replicate 32 0)
    (app [(6, 0x2000)]).reg 6 = 0x2000 ∧ ((0x2000 : Word)).extractLsb' 13 29 ≠ 0 ∧ ((0x1FFF : Word)).extractLsb' 13 29 = 0 ∧ 32 ≤ full.mailUse full.tid.core ∧
    (mail (app []) (List.replicate 31 0)).mailUse 0 < 32 ∧ (app []).me.sends = [] ∧ (app []).me.writes = [] ∧ (app []).me.seen = [] ∧ (app []).me.waits = false := by
  decide +kernel

/-- A program's message of kind 0, and a completion message of slot 1. -/
theorem witness_RecvTakesTheOldestMessage : (5 : Reg) ≠ 0 ∧ ((6 : Reg) ≠ 5 ∧ (app []).me.msgs = []) ∧
    (∃ m r, (mail (app []) [0x40000000000]).me.msgs = m :: r ∧ bitOf ((app []).rd (rDinj 0)) 63 = false ∧ hdrKind m.header = 0) ∧
    (∃ m r, (mail (app []) [0x400010000000000]).me.msgs = m :: r ∧ bitOf ((app []).rd (rDinj 0)) 63 = false ∧ hdrKind m.header = 1) ∧ (mail (app []) (List.replicate 32 0)).me.msgs.length ≤ 32 :=
  ⟨by decide, by decide +kernel, ⟨_, _, rfl, by decide +kernel, by decide +kernel⟩, ⟨_, _, rfl, by decide +kernel, by decide +kernel⟩, by decide +kernel⟩

/-- An outstanding load of a strand. -/
def waiting (s : State) : State := s.onMe fun x => { x with pend := [⟨0, 0, .scalar, 5, 0x10000, [], [], .load 8 false, .rlx, .sy, some 4, none, 0, 0, none⟩] }

theorem witness_WaitmsgParksOrDelivers : (waiting (app [])).me.waits = true ∧ (queued (app []) (.mpop 5 1)).me.scalarDue = true ∧ (app []).me.waits = false ∧
    (app []).me.scalarDue = false ∧ (app []).me.msgs = [] ∧ (0 : Word).getLsbD 47 = false ∧ (0x8A0000000000 : Word).getLsbD 47 = true ∧
    bitOf ((mail (app []) [0x8A0000000000]).rd (rDinj 0)) 63 = false ∧
    (mail (app []) [0x8A0000000000]).me.msgs = [⟨0x8A0000000000, 7, .co⟩] := by decide +kernel

/-- A store that waits in the write queue. -/
def storing (s : State) : State := s.onMe fun x => { x with writes := [⟨0, 0x10000, [(⟨.dram, 0x10000, 0, true, true, false, true⟩, [1])], 0, 0, 0, [], 0⟩] }

theorem witness_ScalarFencesHoldOrComplete : (app []).me.waits = false ∧ (app []).me.performedAt .cl = true ∧ (app []).me.writes = [] ∧ (app []).me.posted = [] ∧
    (app []).me.seen = [] ∧ (app []).me.vectorPerformedAt .sy = true ∧ (waiting (app [])).me.waits = true ∧
    ((app []).onMe fun x => { x with posted := [⟨7, 0x40, .vector 1⟩] }).me.vectorPerformedAt .sy = false ∧
    (storing (app [])).me.performedAt .cl = false ∧ (∀ q ∈ (app []).me.queue, opIsMem q.op = false) ∧ (app []).me.ctl.priv = .app ∧ (sup []).me.ctl.priv ≠ .app ∧
    (let s := queued (app []) (.store .vst 1 6 0 0 .st .rlx); (∃ q ∈ s.me.queue, opIsMem q.op = true) ∧ ∃ q ∈ s.me.queue, opStores q.op = true) ∧
    (Scope.cl ≠ .st ∧ Scope.cl ≠ .co ∧ ((app []).cluster 0).gen.toNat < 0xFFFF) := by decide +kernel

/-! ### What the statements about grants, vector types and the vector queue assume -/

/-- The named premises of `MayEnter`. -/
def mayEnter (s : State) (op : VOp) (x : Word) : Bool :=
  decide (s.me.ctl.priv = .app) && (decide (s.me.ctl.lg ≠ 0) || (match op with | .fence .. => true | _ => false)) &&
    s.me.ctl.kindOk op && s.me.ctl.regsLegal op && decide (s.issueTrap op x = none) && decide (s.me.queue.length < 8)

theorem mayEnter_of (s : State) (op : VOp) (x : Word) (h : mayEnter s op x = true) : s.MayEnter op x := by
  unfold mayEnter at h
  rw [Bool.and_eq_true, decide_eq_true_eq] at h
  constructor
  case room => exact h.2
  case grant =>
    by_cases g : s.me.ctl.lg = 0
    · cases op <;> first | exact .inr ⟨_, _, rfl⟩ | simp [g] at h
    · exact .inl g
  all_goals simp_all

/-- A granted strand with the given VT and SHAPE, in matrix mode. -/
def typed (vt : BitVec 12) (shape : BitVec 6) : State := (granted [] 0).onCtl fun c => { c with vt := vt, shape := shape, mt := true }

/-- Signed integers of 32, 16 and 64 bits, FP32, residue values, codebook and scaled E4M3 elements. -/
def types : List State := [typed 2 16, typed 1 16, typed 3 16, typed 18 16, typed 67 16, typed 57 17, typed 0x820 50]

/-- Some of those strands may enter the operation. -/
def enterable (op : VOp) : Bool := types.any fun s => mayEnter s op 0

/-- Every vector memory operation may enter the queue in some state. -/
theorem witness_VectorMemoryEntersTheQueue :
    ([VLoadOp.vld, .vlds, .vldx, .vldxO, .vldff].all fun f => enterable (.load f 1 2 0 1 .st .rlx) && enterable (.load f 1 2 0 0 .sy .sc)) = true ∧
    ([VStoreOp.vst, .vsts, .vstx, .vstxO, .vstN].all fun f => enterable (.store f 1 2 0 1 .st .rlx) && enterable (.store f 1 2 0 0 .sy .rel)) = true ∧
    enterable (.load .vld 15 2 3 0 .st .rlx) = true ∧ enterable (.store .vst 15 2 3 0 .st .rlx) = true ∧
    ([VAmoOp.add, .and, .or, .xor, .min, .max, .minu, .maxu, .swap].all fun f => enterable (.amo f 1 2 3 1 .st .rlx) && enterable (.amo f 1 2 3 0 .pk .ar)) = true := by
  decide +kernel

theorem witness_VectorArithmeticEntersTheQueue :
    ([ArithOp.add, .sub, .mul, .mulh, .div, .rem, .min, .max, .and, .or, .xor, .shl, .shr, .sra, .fma, .fms, .fnma, .wadd, .wmul, .nshr].all fun o =>
      enterable (.arith o .vv 2 4 6 1) && enterable (.arith o .vx 2 4 6 1)) = true ∧
    ([ArithOp.abs, .neg].all fun o => enterable (.arith o .vv 2 4 0 1)) = true ∧
    ([ArithOp.add, .sub, .min, .max, .and, .or, .xor, .shl, .shr, .sra, .nshr].all fun o => enterable (.arith o .vi 2 4 31 1)) = true ∧
    ([Pred.eq, .ne, .lt, .le].all fun p => enterable (.cmp p .vv 3 4 6 1) && enterable (.cmp p .vx 3 4 6 1) && enterable (.cmp p .vi 3 4 31 1)) = true := by
  decide +kernel

theorem witness_OtherVectorWorkEntersTheQueue :
    ([MaskOp.and, .or, .xor, .not].all fun o => enterable (.mlog o 1 2 3)) = true ∧ enterable (.mpop 5 1) = true ∧ enterable (.mfirst 5 1) = true ∧
    enterable (.mset 1) = true ∧ enterable (.sel 1 2 3 1) = true ∧ enterable (.bcast 1 0) = true ∧ enterable (.get 5 1) = true ∧ enterable (.idx 1 0) = true ∧
    ([PermOp.gather, .slideup, .slidedn, .compress, .expand, .swappr, .zip, .unzip].all fun o => enterable (.perm o 2 4 6 1)) = true ∧
    ([RedOp.sumO, .sumT, .max, .min, .and, .or].all fun o => enterable (.red o 2 4 6 1)) = true ∧
    enterable (.cvt false 1 2 .fp .w32 0) = true ∧ enterable (.cvt true 1 2 .bf16 .w16 0) = true ∧
    ([SpecOp.rcp, .rsq, .sint, .cost, .exp2, .log2].all fun o => enterable (.spec o 1 2 0)) = true ∧ enterable (.clmul true 1 2 3 0) = true ∧
    enterable (.cbdec 8 2 0) = true ∧ mayEnter ((granted [] 4).wr (rCbown 0) 0x20) .cbload 64 = true ∧ enterable (.rnsf 4 2 0) = true ∧ enterable (.rnsr 1 2 0) = true ∧
    enterable (.rnschk 1 2 0) = true ∧ mayEnter (app []) (.fence false .cl) 0 = true ∧ mayEnter (app []) (.fence true .sy) 0 = true ∧ enterable (.tzero 1) = true ∧
    ([TopOp.topa, .tops].all fun o => enterable (.top o 1 2 3 0 1 2)) = true ∧ enterable (.top .topr 1 2 3 0 1 2) = true ∧ enterable (.tldrow 1 31) = true ∧
    enterable (.tstrow 1 31) = true ∧ enterable (.tslv 1 1 31 true) = true ∧ enterable (.tvsl 1 1 31 false) = true ∧ enterable (.tcvt 1 4) = true ∧ enterable (.tchk 1) = true ∧
    mayEnter ((granted [] 4).setBarrier 0 31 { Barrier.reset with active := true, count := 4 }) (.barv 31 .cl) 0 = true := by decide +kernel

/-- Each reason to trap at issue, a full queue, and an instruction that the reasons do not hold for. -/
theorem witness_QueuedWorkTrapsAtIssue : Queues (.vaddVv 2 4 6 0) (.arith .add .vv 2 4 6 0) ∧ Queues (.fenceSv .cl) (.fence false .cl) ∧ (sup []).me.ctl.priv ≠ .app ∧
    (app []).me.ctl.lg = 0 ∧ (granted [] 4).me.ctl.kindOk (.rnsr 1 2 0) = false ∧
    ((granted [] 4).me.ctl.kindOk (.arith .add .vv 2 4 6 0) = true ∧ (granted [] 4).me.ctl.regsLegal (.arith .add .vv 2 4 6 0) = true) ∧
    (granted [] 4).me.ctl.regsLegal (.arith .add .vv 8 4 6 0) = false ∧
    ((granted [] 4).me.ctl.regsLegal (.tzero 1) = true ∧ opIsMatrix (.tzero 1) = true ∧ (granted [] 4).me.ctl.mt = false) ∧
    ((granted [] 4).onMe fun x => { x with queue := List.replicate 8 (entry (.mset 1)) }).me.queue.length = 8 :=
  ⟨.inl rfl, .inr ⟨.fenceSv .cl, rfl, rfl⟩, by decide +kernel⟩

/-- An ungranted strand whose tenant may hold two lane groups. -/
def asking (n : Word) : State := ((app [(6, n)]).onCtl fun c => { c with vt := 2 }).wr (rLaqt 0 0) 2

/-- 8 registers of 4 words (16 words a lane in a register at SEW 32), a plain shape: every case of a grant form. -/
theorem witness_GrantFormsGrant : let s := asking 100000
    (24 : BitVec 5).toNat / 8 = 3 ∧ (0 : BitVec 5).toNat / 8 ≠ 3 ∧ (sup []).me.ctl.priv ≠ .app ∧ ((1 : BitVec 5).toNat % 2 = 1) ∧ (typed 2 16).me.ctl.mt = true ∧
    (typed 0x820 50).me.ctl.vt.getLsbD 11 = true ∧
    (s.me.ctl.priv = .app ∧ s.me.ctl.mt = false ∧ s.me.ctl.vt.getLsbD 11 = false ∧ s.me.ctl.vt.toNat % 8 ≤ 3 ∧ s.me.mark = none ∧ s.me.grant = none ∧ (s.cluster 0).waiting = [] ∧
      (s.cluster 0).suspended = [] ∧ s.me.queue = [] ∧ s.me.regSlotBusy = false ∧ s.reg 6 ≠ 0 ∧ s.me.vec.lanes = [] ∧ s.me.ctl.lg = 0 ∧ s.eager = true ∧
      s.room 0 0 = 2 ∧ (s.freeGroups 0).length = 8) ∧
    (asking 0).reg 6 = 0 ∧ (app [(6, 1)]).room 0 0 = 0 ∧
    (let g := (granted [(6, 40)] 40).wr (rLaqt 0 0) 2
     1 ≤ g.me.vec.lanes.length ∧ g.me.vec.lanes.length = min 8 (((g.reg 6).toNat + 8192 - 1) / 8192) ∧ g.me.ctl.lg.toNat = 1 ∧ g.me.ctl.shape = 16) := by decide +kernel

/-- Every outcome of a grant form: a grant of two of the three groups asked, a release, an answer of 0 and a wait. -/
theorem test_grants : next (exec (.vgrant 5 6 0) (asking 20000)) (fun t => decide (t.me.ctl.lg = 2 ∧ t.reg 5 = 16384 ∧ t.me.vec.lanes.length = 2)) = true ∧
    next (exec (.vgrantZ 5 6 0) (asking 0)) (fun t => decide (t.me.ctl.lg = 0 ∧ t.reg 5 = 0 ∧ t.me.pc = 0x1004)) = true ∧
    next (exec (.vgrantNb 5 6 0) (app [(6, 1)])) (fun t => decide (t.reg 5 = 0 ∧ t.me.pc = 0x1004)) = true ∧
    next (exec (.vgrant 5 6 0) (app [(6, 1)])) (fun t => decide (t.me.run = .parked (.grant false 5 1 0) ∧ t.me.pc = 0x1000)) = true := by decide +kernel

/-- Legal and illegal types, matrix mode on and off, a square for four lane groups. -/
theorem witness_TypeAndMatrixModeChange : (granted [] 4).me.ctl.priv = .app ∧ (granted [] 4).me.ctl.lg ≠ 0 ∧ legalVt 18 16 = true ∧
    (granted [] 4).me.ctl.vl.toNat ≤ 16 * 1 * (512 * 4 / 8) * (64 / 32) ∧ legalVt 0x1000 16 = false ∧ legalVt 3 16 = true ∧
    16 * 1 * (512 * 4 / 8) * (64 / 64) < (granted [] 4097).me.ctl.vl.toNat ∧ (granted [] 4).me.ctl.mt = false ∧ (granted [] 4).me.queue = [] ∧ (granted [] 4).me.regSlotBusy = false ∧
    (granted [] 4).me.ctl.lg = 1 ∧ (granted [] 4).eager = true ∧ (lazy (granted [] 4)).eager = false ∧
    (let s := ((granted [] 4).onCtl fun c => { c with lg := 4 }).onVec fun v => { v with lanes := [0, 1, 4, 5] }
     s.me.ctl.lg = 4 ∧ s.me.vec.lanes = [0, 1, 4, 5] ∧ s.squareWhole 0 0 = true) ∧
    (typed 2 16).me.ctl.mt = true ∧ (typed 2 16).me.queue = [] ∧ (queued (typed 2 16) .cbload).me.queue ≠ [] ∧
    (1 ≤ (64 : Word).toNat ∧ (64 : Word).toNat ≤ 64) ∧ 64 < (65 : Word).toNat ∧ (app []).me.ctl.lg = 0 := by decide +kernel

/-- The lanes of a strand are calm and a vector instruction of it may start, each premise checked. -/
theorem vecReady_of (s : State) (h : s.eager = true ∧ s.me.run = .running ∧ s.me.ctl.priv = .app ∧ s.me.held = false ∧ s.me.queue = [] ∧
    (∀ q, (s.me.slot q).phase ≠ .busy) ∧ s.me.sends = [] ∧ s.me.trigIssued = false ∧ s.me.vec.regPoison = [] ∧ s.me.vec.regSynd = [])
    (l : bitOf (s.rd (rDinj s.tid.cluster)) 63 = false ∧ s.me.ctl.rchk = false ∧ s.laneCopying = false ∧ s.me.pend = [] ∧
      NMap.wf 0 s.me.vec.regs = true ∧ NMap.wf false s.me.vec.masks = true)
    (v : s.me.ctl.vt.toNat % 8 ≤ 3 ∧ (∀ q, (s.me.slot q).ahead = 0) ∧ s.me.ctl.es.toNat ≤ s.me.ctl.vl.toNat ∧
      s.me.ctl.vl.toNat ≤ s.me.capacity (vtSew s.me.ctl.vt) ∧ s.me.capacity (vtSew s.me.ctl.vt) ≤ 65536 * (64 / vtSew s.me.ctl.vt)) : s.VecReady where
  eager := h.1
  running := h.2.1
  level := h.2.2.1
  free := h.2.2.2.1
  noQueue := h.2.2.2.2.1
  noSlot := h.2.2.2.2.2.1
  noSend := h.2.2.2.2.2.2.1
  noTrigger := h.2.2.2.2.2.2.2.1
  noPoison := h.2.2.2.2.2.2.2.2.1
  noSyndrome := h.2.2.2.2.2.2.2.2.2
  noInjection := l.1
  noRecheck := l.2.1
  noCopy := l.2.2.1
  noStale := by simp [l.2.2.2.1]
  registers := l.2.2.2.2.1
  masks := l.2.2.2.2.2
  width := v.1
  slots := v.2.1
  first := v.2.2.1
  length := v.2.2.2.1
  words := v.2.2.2.2

/-- A strand at VL = VLMAX from ES = 0, its s6 at the base of the private window and s7 a stride of 1. -/
def readyAt (vt : BitVec 12) : State := let s := (granted [(6, privAddr 0), (7, 1)] 0).onCtl fun c => { c with vt := vt }
  s.onCtl fun c => { c with vl := BitVec.ofNat 32 (s.me.capacity (vtSew vt)) }

/-- Signed and unsigned integers, FP32, BF16 and residue values, the last with ES = VL. -/
theorem witness_VectorArithmeticWritesItsElements_ready : (readyAt 2).VecReady ∧ (readyAt 11).VecReady ∧ (readyAt 18).VecReady ∧
    ((readyAt 67).onCtl fun c => { c with es := c.vl, rnscfg := 0x0FF }).VecReady ∧
    [2, 11, 18, 25, 67].map vtKind = [0, 1, 2, 3, 8] :=
  ⟨vecReady_of _ (by decide +kernel) (by decide +kernel) (by decide +kernel), vecReady_of _ (by decide +kernel) (by decide +kernel) (by decide +kernel),
    vecReady_of _ (by decide +kernel) (by decide +kernel) (by decide +kernel), vecReady_of _ (by decide +kernel) (by decide +kernel) (by decide +kernel), by decide +kernel⟩

/-- Every operation and form of the statement may enter the queue at some kind of each of its parts. -/
theorem witness_VectorArithmeticWritesItsElements_forms :
    (let s := readyAt 2
     ([ArithOp.add, .sub, .mul, .mulh, .div, .rem, .min, .max, .and, .or, .xor, .shl, .shr, .sra, .fma, .fms, .fnma].all fun o =>
       mayEnter s (.arith o .vv 2 4 6 1) 0 && mayEnter s (.arith o .vx 2 4 6 1) (s.reg 6)) = true ∧
     ([ArithOp.add, .sub, .min, .max, .and, .or, .xor, .shl, .shr, .sra].all fun o => mayEnter s (.arith o .vi 2 4 31 1) 0) = true ∧
     ([ArithOp.abs, .neg].all fun o => mayEnter s (.arith o .vv 2 4 0 1) 0) = true ∧
     ([Pred.eq, .ne, .lt, .le].all fun p => mayEnter s (.cmp p .vv 3 4 6 1) 0 && mayEnter s (.cmp p .vx 3 4 6 1) (s.reg 6) && mayEnter s (.cmp p .vi 3 4 31 1) 0) = true ∧
     mayEnter s (.idx 2 1) 0 = true ∧ mayEnter s (.sel 2 4 6 1) 0 = true ∧ mayEnter s (.bcast 2 1) (s.reg 6) = true ∧ mayEnter s (.clmul false 2 4 6 1) 0 = true) ∧
    ([18, 25].all fun vt => let s := readyAt vt
      ([ArithOp.add, .sub, .mul, .div, .fma, .fms, .fnma, .min, .max].all fun o => mayEnter s (.arith o .vv 2 4 6 1) 0 && mayEnter s (.arith o .vx 2 4 6 1) (s.reg 6)) &&
      ([ArithOp.abs, .neg].all fun o => mayEnter s (.arith o .vv 2 4 0 1) 0) &&
      ([Pred.eq, .ne, .lt, .le].all fun p => mayEnter s (.cmp p .vv 3 4 6 1) 0) &&
      ([SpecOp.rcp, .rsq, .sint, .cost, .exp2, .log2].all fun o => vt != 18 || mayEnter s (.spec o 2 4 1) 0)) = true ∧
    (let s := readyAt 67
     ([ArithOp.add, .sub, .mul].all fun o => mayEnter s (.arith o .vv 2 4 6 1) 0 && mayEnter s (.arith o .vx 2 4 6 1) (s.reg 6)) = true ∧
     ([ArithOp.add, .sub].all fun o => mayEnter s (.arith o .vi 2 4 31 1) 0) = true ∧
     ([Pred.eq, .ne].all fun p => mayEnter s (.cmp p .vv 3 4 6 1) 0 && mayEnter s (.cmp p .vi 3 4 31 1) 0) = true) := by decide +kernel

/-- Permutations, reductions, conversions, residue work, matrix steps, and accesses to the private window. -/
theorem witness_VectorWorkWritesItsResults : (let s := readyAt 2
      blockMode s.me.ctl.vt = false ∧ ([PermOp.gather, .slideup, .slidedn, .zip, .unzip].all fun o => mayEnter s (.perm o 2 4 6 1) (s.reg 6)) = true ∧
      ([PermOp.compress, .expand, .swappr].all fun o => mayEnter s (.perm o 2 4 0 1) 0) = true ∧
      ([RedOp.sumO, .sumT, .max, .min, .and, .or].all fun o => mayEnter s (.red o 2 4 6 1) 0) = true ∧
      mayEnter s (.cvt false 2 4 .uint .w32 1) 0 = true ∧ mayEnter s (.cvt true 2 4 .fp .w32 1) 0 = true ∧ ¬ kindSt (vtKind s.me.ctl.vt) ∧ sewOf .w32 = 32) ∧
    (let s := readyAt 3; mayEnter s (.rnsf 2 4 1) 0 = true ∧ vtSew s.me.ctl.vt = 64 ∧ s.me.ctl.rnscfg.getLsbD 9 = false) ∧
    (let s := readyAt 18
     ([RedOp.sumO, .sumT, .max, .min].all fun o => mayEnter s (.red o 2 4 6 1) 0) = true ∧ mayEnter s (.cvt false 2 4 .sint .w32 1) 0 = true ∧
       mayEnter s (.cvt false 2 4 .fp .w32 1) 0 = true) ∧
    (let s := readyAt 67
     mayEnter s (.red .sumO 2 4 6 1) 0 = true ∧ mayEnter s (.rnsr 2 4 1) 0 = true ∧ mayEnter s (.rnschk 3 4 1) 0 = true ∧ decideRns 0 255 = .exact 0) ∧
    (let s := (readyAt 1).onCtl fun c => { c with mt := true, trows := 1, tcols := 1, rnscfg := 0x0FF }
     mayEnter s (.tzero 1) 0 = true ∧ mayEnter s (.top .topr 1 2 3 0 1 2) (s.reg 7) = true) := by decide +kernel

/-- A vector load and a strided one that end at the top of the private window, and a store that ends there. -/
theorem witness_VectorWorkWritesItsResults_memory : let s := (readyAt 2).onCtl fun c => { c with vl := 4 }
    s.VecReady ∧ s.Calm ∧ mayEnter s (.load .vld 2 6 0 1 .sy .rlx) (s.reg 6) = true ∧ mayEnter s (.load .vlds 2 6 7 1 .sy .rlx) (s.reg 6) = true ∧
    mayEnter s (.store .vst 2 6 0 1 .sy .rlx) (s.reg 6) = true ∧ s.reg 6 = privAddr 0 ∧ s.reg 7 = word 1 ∧ 0x1FF0 + 1 * 4 * (32 / 8) ≤ 0x2000 ∧
    0x1FF4 + 1 * 4 * 1 + 8 ≤ 0x2000 :=
  ⟨vecReady_of _ (by decide +kernel) (by decide +kernel) (by decide +kernel), calm_of _ (by decide +kernel), by decide +kernel⟩

/-- The element results of that statement's tail, mask and body cases, by hand: SEW 16, VL 3 from ES 1, mask bits 1 and not 2, tail zeroed. -/
theorem test_vector_cases : next (exec (.vmulVv 2 4 6 1) (words ((granted [] 3).onCtl fun c => { c with vt := 0x201, es := 1 })
      [(2, 0, 0x4444333322221111), (4, 0, 0x0005000400030002), (6, 0, 0x0003000380010007)] |>.onVec fun v => { v with masks := [(2 ^ 20 + 1, true)] }))
    (fun t => decide (t.me.vec.word 2 0 = 0x0000333380031111 ∧ t.me.ctl.es = 0)) = true := by decide +kernel

/-- A barrier in a state. -/
def barred (s : State) (b : Barrier) : State := s.setBarrier 0 31 b

theorem witness_BarriersInitialiseAndWait : let b : Barrier := { Barrier.reset with active := true, count := 4 }
    (app []).me.ctl.priv = .app ∧ 256 < (257 : Word).toNat ∧ 1 ≤ (256 : Word).toNat ∧ (256 : Word).toNat ≤ 256 ∧ ((app []).barrier 0 31).active = false ∧
    (let s := barred (app []) { b with owner := 3 }; (s.barrier 0 31).active = true ∧ (s.barrier 0 31).owner ≠ s.me.ctl.tenant) ∧
    (let s := barred (app []) b; (s.barrier 0 31).active = true ∧ (s.barrier 0 31).owner = s.me.ctl.tenant ∧ (s.barrier 0 31).count = 4 ∧
      (s.barrier 0 31).arrived = 0 ∧ (s.barrier 0 31).wait = 0 ∧ (s.barrier 0 31).done = 0 ∧ (s.barrier 0 31).done.getLsbD 0 = false) ∧
    ((barred (app []) { b with arrived := 1 }).barrier 0 31).arrived ≠ 0 ∧ ((barred (app []) { b with done := 1 }).barrier 0 31).done.getLsbD 0 = true := by decide +kernel

/-- A slot of a strand. -/
def slotted (s : State) (p : SlotPhase) : State := s.onMe fun x => x.setSlot 1 { Slot.empty with phase := p, count := 5, status := 3 }

theorem some_pair {α β : Type} {o : Option (α × β)} {b : β} (h : o.map Prod.snd = some b) : ∃ u, o = some (u, b) := by
  cases o with
  | none => simp at h
  | some x => exact ⟨x.1, by simp at h; rw [← h]⟩

/-- Free, busy and finished slots; a grant; a usable and an unusable barrier; a handle that is a handle of the table and a tenant without one. -/
theorem witness_StreamSlotsTakeCopies : ((slotted (app []) .busy).me.slot 1).phase = .busy ∧ ((slotted (app []) .done).me.slot 1).phase = .done ∧
    ((app []).me.slot 1).phase = .free ∧ (app []).me.ctl.priv = .app ∧
    ((granted [] 4).me.ctl.lg ≠ 0 ∧ vtGroup (granted [] 4).me.ctl.vt = 1 ∧ (granted [] 4).me.ctl.regsOk 7 1 = true) ∧ (app []).me.ctl.lg = 0 ∧
    vtGroup (0x082 : BitVec 12) ≠ 1 ∧
    ((barred (app []) { Barrier.reset with active := true, count := 4 }).barrier 0 31).usable 0 = true ∧ ((app []).barrier 0 31).usable 0 = false ∧
    bitOf ((app []).rd (rHtbase 0 0)) 0 = false ∧
    (∃ u, (({ mapped (app []) with mem := Memory.setBytes [] 0x10140 (natLe 0x8000000000000000 8) } : State).wr (rHtbase 0 0) 0x10001).handleCheck 5 = some (u, false)) := by
  have handle : ∃ u, (({ mapped (app []) with mem := Memory.setBytes [] 0x10140 (natLe 0x8000000000000000 8) } : State).wr (rHtbase 0 0) 0x10001).handleCheck 5
      = some (u, false) := some_pair (by decide +kernel)
  simp only [handle, and_true]
  decide +kernel

/-! ### What the statements about registers and events assume -/

/-- A package whose lull sequencer stands between lulls. -/
def cleared (s : State) : State := lulled s { Lull.reset with phase := .clear, start := 7680 }

theorem witness_ClusterRegisterWritesTakeEffect : State.reset.canonical = true ∧ bitOf (0x400 : Word) 15 = false ∧ bitOf (0x8000 : Word) 15 = true ∧
    bitOf (State.reset.rd (rLgstat 0 7)) 9 = false ∧
    (let s := State.reset.wr (rErrcfg 0) 0x801;
     s.canonical = true ∧ bitOf (s.rd (rErrcfg 0)) 0 = true ∧ fld (s.rd (rDsaddr 0)) 60 4 = 0 ∧ bitOf (0x8000000000000000 : Word) 63 = true ∧ bitOf (0x8000000000000000 : Word) 62 = false ∧
       bitOf (0x4000000000000000 : Word) 63 = false ∧ bitOf (0x4000000000000000 : Word) 62 = true ∧ bitOf (0x8000000000000000 : Word) 61 = false) ∧
    bitOf (State.reset.rd (rErrcfg 127)) 0 = false ∧
    (let s := (State.reset.wr (rDsaddr 0) 0x3000000000017FF8).onCluster 0 fun k => { k with diagDue := true };
     s.canonical = true ∧ (s.cluster 0).diagDue = true ∧ fld (s.rd (rDsaddr 0)) 60 4 = 3 ∧ fld (s.rd (rDsaddr 0)) 0 21 < 0x18000 ∧ fld (s.rd (rDsaddr 0)) 0 3 = 0) ∧
    (let s := granted [] 4;
     s.canonical = true ∧ bitOf (0x8000000000000000 : Word) 63 = true ∧ fld (0x8000000000000000 : Word) 16 4 < (s.strand 0).vec.lanes.length ∧ (0 : Tid).cluster = 0 ∧
       (s.strand 0).mark = none ∧ s.resumable 0 = [] ∧ s.requests 0 = []) ∧
    ((app []).strand 0).vec.lanes.length = 0 ∧ (64 : Tid).cluster ≠ 0 ∧ (granted [] 4).me.vec.lanes.length ≤ fld (0x8000000000010000 : Word) 16 4 ∧
    (let s := State.reset.wr (rLgstat 0 7) 0x200; s.canonical = true ∧ bitOf (setBit (s.rd (rLgstat 0 7)) 10 (bitOf (0x8800 : Word) 10)) 9 = true ∧
      fld (setBit (s.rd (rLgstat 0 7)) 10 (bitOf (0x8800 : Word) 10)) 5 4 ≠ fld (0x8800 : Word) 11 4 ∧
      fld (setBit (s.rd (rLgstat 0 7)) 10 (bitOf (0x8000 : Word) 10)) 5 4 = fld (0x8000 : Word) 11 4) ∧
    (let s := State.reset.wr (rCsplit 0) 16;
     s.canonical = true ∧ (s.clusterTids 0).isEmpty = true ∧ fld (s.rd (rCsplit 0)) 0 5 ≠ (s.cluster 0).l1Ways ∧ fld (s.rd (rCsplit 0)) 0 5 ≤ 16 ∧ (s.cluster 0).l1Ways ≤ 16) ∧
    ((State.reset.onCluster 0 fun k => { k with copying := 0x80 }).cluster 0).copying.getLsbD (7 : BitVec 3).toNat = true := by decide +kernel

/-- A migration channel that has begun. -/
def migrating (k : Nat) : State := ((cleared State.reset).wr (rMigctl 0 3) (word (2 ^ 62 + k))).wr (rMigsrc 0 3) 0x10000

theorem ok_of {ε α : Type} {e : Except ε α} (h : e.isOk = true) : ∃ x, e = .ok x := by
  cases e with
  | ok x => exact ⟨x, rfl⟩
  | error _ => cases h

theorem witness_DieEventsTakeEffect : State.reset.canonical = true ∧ (∃ b r, dramRow ((0 : Word).toNat % 2 ^ 52) = some (b, r)) ∧
    (cleared State.reset).sys.lull.phase = .clear ∧ State.reset.sys.lull.phase ≠ .clear ∧ (bootAdd.strand 0).run ≠ .unbound ∧
    (∃ x, bootAdd.leafFor (bootAdd.agentOf 0) ((0x10000 : Word).toNat % 2 ^ 48) = .ok x) ∧ bootAdd.canonical = true ∧
    (∃ k, bootAdd.leafFor (bootAdd.agentOf 0) ((0x20000 : Word).toNat % 2 ^ 48) = .error (.trap k)) ∧
    (∃ e r, ({ bootAdd with poison := [(0x40010 / 8, true)] } : State).leafFor (bootAdd.agentOf 0) ((0x20000 : Word).toNat % 2 ^ 48) = .error (.entry e r)) ∧
    ({ cleared State.reset with sys := { (cleared State.reset).sys with racts := [0x40] } } : State).sys.racts.length = 1 :=
  ⟨by decide +kernel, ⟨_, _, rfl⟩, by decide +kernel, by decide +kernel, by decide +kernel, ok_of (by decide +kernel), by decide +kernel, ⟨0x0B, by decide +kernel⟩,
    ⟨_, _, rfl⟩, rfl⟩

theorem witness_DieEventsTakeEffect_registers : (let s : State := { State.reset with sys := { Sys.reset with tlbinv := [(3, true)] } };
      NMap.get false s.sys.tlbinv 3 = true ∧ NMap.get false s.sys.tlbinv 0 = false ∧ s.tlbinvReady 3 = true) ∧
    (let s : State := { State.reset.wr (rMigdst 0 3) 0x10000 with sys := { Sys.reset with migrating := [3] } };
      bitOf (0x8000000000000000 : Word) 63 = true ∧ bitOf (0x8000000000000000 : Word) 61 = false ∧ bitOf (0x8000000000000000 : Word) 60 = false ∧ 3 ∈ s.sys.migrating ∧
      2 ∉ s.sys.migrating) ∧
    (let s := State.reset.wr (rMigdst 0 3) 0x10000;
      s.canonical = true ∧ fld (s.rd (rMigsrc 0 3)) 16 36 ≠ fld (s.rd (rMigdst 0 3)) 16 36 ∧ s.frameBusy 3 0 = false ∧ s.frameBusy 3 1 = false ∧ migratable 0 = true ∧ migratable 1 = true ∧ migratable (2 ^ 36 - 1) = false ∧
      fld (s.rd (rMigsrc 0 2)) 16 36 = fld (s.rd (rMigdst 0 2)) 16 36) ∧
    ((migrating 1023).canonical = true ∧ bitOf ((migrating 1023).rd (rMigctl 0 3)) 62 = true ∧ (migrating 1023).sys.lull.phase = .clear ∧
      fld ((migrating 1023).rd (rMigctl 0 3)) 0 11 < 1024) ∧
    (bitOf ((State.reset.wr (rMigctl 0 3) 0x2000000000000400).rd (rMigctl 0 3)) 61 = true ∧ bitOf (0x2000000000000000 : Word) 61 = true ∧
      bitOf (0x2000000000000000 : Word) 60 = false ∧ bitOf (0x2000000000000000 : Word) 63 = false) ∧
    (let s := (cleared State.reset).wr (rMscsp 0) 0x104;
      s.canonical = true ∧ bitOf (s.rd (rMscsp 0)) 8 = true ∧ s.sys.lull.phase = .clear ∧ bitOf (State.reset.rd (rMscsp 0)) 8 = false ∧
        min (fld (16 : Word) 0 5) 16 ≠ fld (State.reset.rd (rMscsp 0)) 0 5 ∧ min (fld (0 : Word) 0 5) 16 = fld (State.reset.rd (rMscsp 0)) 0 5) ∧
    (let s := (State.reset.wr (rDerrcfg 0) 1).wr (rDraddr 0) 0x10040;
      s.canonical = true ∧ bitOf (s.rd (rDerrcfg 0)) 0 = true ∧ drTargetOk 0 (fld (s.rd (rDraddr 0)) 3 49 * 8) = true ∧
        NMap.get 0 s.lineKey (fld (s.rd (rDraddr 0)) 3 49 * 8 / 64) = 0 ∧ bitOf (State.reset.rd (rDerrcfg 0)) 0 = false) ∧
    (NMap.get 0 State.reset.sys.replays 3 ≠ 7 ∧ NMap.get 0 ({ Sys.reset with replays := [(3, 7)] } : Sys).replays 3 = 7) ∧
    (bitOf (State.reset.rd rKeycmd) 62 = false ∧ fld (0x800000000000007F : Word) 0 7 ≠ 0 ∧ fld (0x8000000000000000 : Word) 0 7 = 0 ∧
      bitOf ((State.reset.wr rKeycmd 0x4000000000000001).rd rKeycmd) 62 = true) := by decide +kernel

/-- The strand with queued work of a given progress. -/
def holding (op : VOp) (f : QEntry → QEntry) : State := (granted [] 4).onMe fun x => { x with queue := [f { entry op with handed := true }] }

/-- VADD of integers. -/
def vadd : VOp := .arith .add .vv 2 4 6 0

theorem witness_QueueAndStoreEventsTakeEffect_queue :
    ((holding vadd id).me.queue[0]? = some { entry vadd with handed := true } ∧ ((holding vadd id).focus 0).canStart 0 = true ∧
       ((granted [] 4).onMe fun x => { x with queue := [entry vadd] }).me.queue = [] ++ entry vadd :: [] ∧ (entry vadd).handed = false ∧ (lazy (granted [] 4)).eager = false) ∧
    (let s : State := holding vadd fun q => { q with started := 4 };
     s.me.canCommit 0 = true ∧ opIsWhole vadd = false ∧ { entry vadd with started := 4 }.next < { entry vadd with started := 4 }.total s.me ∧
       (s.runStep { entry vadd with handed := true, started := 4 } 4).2 = .ok) ∧
    ({ entry vadd with next := 4 }.total (granted [] 4).me ≤ { entry vadd with next := 4 }.next) ∧
    (let q : QEntry := { entry vadd with handed := true, rchk := true };
     ((holding vadd fun _ => q).focus 0).canStart 0 = true ∧ q.rechecks = true) ∧
    (let s : State := holding (.load .vld 2 6 0 0 .st .rlx) fun q => { q with started := 4, x := 0xE400000000000000 };
     ∃ f, (s.runStep { entry (.load .vld 2 6 0 0 .st .rlx) with handed := true, started := 4, x := 0xE400000000000000 } 4).2 = .fault f) ∧
    (let s : State := holding vadd fun q => { q with fault := some ⟨0, 8, 5, 0⟩ };
     s.me.run = .running ∧ s.me.ctl.priv = .app ∧ s.me.held = false ∧ s.me.waits = false ∧ s.me.grant = none ∧ s.sys.scRun = none ∧ ∃ q f, s.me.queue = [q] ∧ q.fault = some f) ∧
    (let s : State := holding (.barv 5 .cl) id;
     (s.me.queue[0]?.map QEntry.op) = some (.barv 5 .cl) ∧ (s.focus 0).canArrive 0 = true) := by
  refine ⟨by decide +kernel, by decide +kernel, by decide +kernel, by decide +kernel, ?_, ?_, by decide +kernel⟩
  · exact ⟨_, rfl⟩
  · exact ⟨by decide +kernel, by decide +kernel, by decide +kernel, by decide +kernel, rfl, rfl, _, _, rfl, rfl⟩

/-- Rechecked entries after one, two and three executions, with a lane that disagrees. -/
theorem witness_QueueAndStoreEventsTakeEffect_recheck :
    let q := fun (n : Nat) => ({ entry vadd with handed := true, rchk := true, started := 4, recheck := [⟨0, 4, 0, n, [0], [0], [], []⟩] } : QEntry)
    ((holding vadd fun _ => q 1).me.rechecking 0 1 = some (q 1, ⟨0, 4, 0, 1, [0], [0], [], []⟩)) ∧
    ((holding vadd fun _ => q 2).me.rechecking 0 2 = some (q 2, ⟨0, 4, 0, 2, [0], [0], [], []⟩)) ∧
    ((holding vadd fun _ => q 3).me.rechecking 0 3 = some (q 3, ⟨0, 4, 0, 3, [0], [0], [], []⟩)) ∧
    (granted [] 4).me.realLanes [] = [] ∧ (granted [] 4).me.realLanes [0] ≠ [] ∧ (((granted [] 4).me.realLanes [0]).filter fun k => [0].elem k) ≠ [] ∧
    (holding vadd fun _ => q 1).me.canRecheck 0 = true ∧ opIsWhole (.mset 1) = true ∧ opIsWhole vadd = false ∧
    (let x := (holding vadd fun _ => q 4).me; (x.rechecking 0 4).or (x.rechecking 0 5) = some (q 4, ⟨0, 4, 0, 4, [0], [0], [], []⟩)) ∧
    (let x := (holding vadd fun _ => q 5).me; (x.rechecking 0 4).or (x.rechecking 0 5) = some (q 5, ⟨0, 4, 0, 5, [0], [0], [], []⟩)) := by decide +kernel

/-- A store at each stage, and an access outstanding at its home and answered. -/
def storedAt (n : Nat) : State := (storing (app [])).onMe fun x => { x with writes := x.writes.map fun e => { e with stage := n } }

/-- An outstanding load of eight bytes. -/
def loading (parts : List (Place × Nat)) (got : List Byte) (fail : Option Nat) : State :=
  (app []).onMe fun x => { x with pend := [⟨0, 0, .scalar, 5, 0x10000, parts, got, .load 8 false, .rlx, .sy, none, fail, 0, 0, none⟩] }

theorem witness_QueueAndStoreEventsTakeEffect_memory :
    ((storedAt 3).me.staged 3)[0]? = some 0 ∧ (storedAt 3).me.queue = [] ∧
    (let x := (storedAt 0).me; x.queue = [] ∧ x.staged 0 = 0 :: (x.staged 0).tail ∧
      (x.writes[0]?.map fun e => e.parts.all (fun p => !p.1.atOnce 0 && !decide (p.1.kind = .remote)) && !e.parts.isEmpty) = some true) ∧
    ((loading [] (natLe 7 8) none).me.answered[0]? = some 0 ∧ (loading [] (natLe 7 8) none).me.run = .running ∧ (loading [] (natLe 7 8) none).me.queue = []) ∧
    (loading [] [] (some 0x0C)).me.answered[0]? = some 0 ∧
    ((app []).me.run ≠ .unbound ∧ (bootAdd.focus 0).fetch.2 = .ok (.w32 0x39804028) ∧ ((app []).focus 0).fetch.2 = .error (.fault 0x1000)) ∧
    (let s := (sup []).onMe fun x => { x with pc := 0x4000 };
     s.me.run = .running ∧ s.me.ctl.priv = .sup ∧ s.me.pc = evenPc s.me.ctl.tvec ∧ s.fetch.2 = .error (.fault 0x4000)) ∧
    ((storedAt 1).servableStores 0)[0]? = some 0 ∧ ((storedAt 1).me.writes[0]?.map fun e => (storedAt 1).copied 0 e) = some [] ∧
    (let s : State := { storedAt 1 with sys := { Sys.reset with replicas := [(0x10000 / 64, 2)] } };
     (s.me.writes[0]?.map fun e => s.copied 0 e) = some [0x10000 / 64] ∧ (NMap.get 0 s.sys.replicas (0x10000 / 64)).getLsbD 1 = true ∧ (NMap.get 0 s.sys.replicas 0).getLsbD 1 = false) ∧
    (let s := cleared (loading [(⟨.dram, 0x10000, 0, true, true, false, true⟩, 8)] [] none); s.servableStores 0 = [] ∧ (s.servablePends 0)[0]? = some 0) ∧
    ((storedAt 2).cleared 0)[0]? = some 0 := by decide +kernel

/-! ### What the statements about messages, saves, launches, lulls and the fabric assume -/

/-- A message in flight from context 4 to context 0. -/
def flying (k : NetKind) (h : Word) : Net := { kind := k, header := h, payload := 9, src := 4, tenant := 0 }

/-- The strand in focus, with something in flight to it. -/
def meets (s : State) (n : Net) : State := { s with net := [n] }

theorem witness_MessageEventsTakeEffect :
    (let s := meets (cleared (app [])) (flying .message 0); netPick (fun e => e.isMessage && s.netFlows e) s.net 0 = some (flying .message 0) ∧ netBehind s.net Net.isMessage (flying .message 0) = false ∧ (BitVec.ofNat 13 (fld (flying .message 0).header 0 13) : Tid) = 0) ∧
    (State.reset.strand 0).run = .unbound ∧ bitOf (((app []).wr (rCfence 0) 0x10000).rd (rCfence 0)) 16 = true ∧ bitOf ((app []).rd (rCfence 0)) 16 = false ∧
    ((app []).strand 0).run ≠ .unbound ∧ ((app []).strand 0).ctl.tenant = (flying .message 0).tenant ∧ (((app []).onCtl fun c => { c with tenant := 1 }).strand 0).ctl.tenant ≠ (flying .message 0).tenant ∧
    32 ≤ (mail (app []) (List.replicate 32 0)).mailUse 0 ∧ (app []).mailUse 0 < 32 ∧ ((app []).strand 0).run ≠ .parked .waitmsg ∧
    (((app []).onMe fun x => { x with run := .parked .waitmsg }).strand 0).run = .parked .waitmsg ∧ bitOf (flying .message 0).header 47 = false ∧ bitOf (flying .message 0x800000000000).header 47 = true ∧
    (let s := meets (cleared (app [])) (flying .ack 0); netPick (fun e => e.isAck && s.netFlows e) s.net 0 = some (flying .ack 0) ∧ netBehind s.net Net.isAck (flying .ack 0) = false) ∧
    (let m := { flying (.bounce 2) 0 with src := 0 }; let s := meets (cleared (app [])) m; netPick (fun e => e.isBounce && s.netFlows e) s.net 0 = some m ∧ netBehind s.net Net.isBounce m = false ∧ m.kind = .bounce 2) ∧
    (let m := flying (.bounce 2) 0; netPick (fun e => e.isBounce && (cleared (app [])).netFlows e) [m] 0 = some m ∧ netBehind [m] Net.isBounce m = false ∧
      (({ (app []).onStrand m.src (fun y => { y with resv := y.resv - 1 }) with net := [] } : State).strand m.src).run = .unbound) ∧
    (let s := (app []).onMe fun x => { x with sends := [(4, 9)] }; (s.strand 0).sends = (4, 9) :: [] ∧ (s.strand 0).sendReady 0 = true) ∧
    (let s := (app []).onMe fun x => x.setSlot 1 { Slot.empty with phase := .done, msgDue := true };
     (s.me.slot 1).phase = .done ∧ (s.me.slot 1).msgDue = true ∧ s.mailUse 0 < 32 ∧ s.me.run ≠ .parked .waitmsg) ∧
    (let s := (app []).onMe fun x => x.setSlot 1 { Slot.empty with phase := .busy, ended := true };
     (s.me.slot 1).phase = .busy ∧ (s.me.slot 1).ended = true ∧ s.me.posted = [] ∧ (s.me.slot 1).arrive = none ∧ s.me.run = .running ∧ s.me.queue = []) ∧ ((app []).cluster 0).stray = [] ∧ (granted [] 4).me.vec.regSynd = [] ∧
    (app []).engineStep 0 (engineOrder ((app []).cluster 0).engine) = none := by decide +kernel

/-- A copy in progress moves an element; a collective of two ranks whose other member agrees, or brings another operation. -/
theorem witness_MessageEventsTakeEffect_engine :
    (∃ u, (lazy ((app []).onMe fun x => x.setSlot 1 { Slot.empty with phase := .busy, form := .lds, a := 0xE000000000000000, b := 8, sd := 0xE200000000000000 })).engineStep 0 (engineOrder 255) = some u ∧ u.eager = false) ∧
    (let box := natLe 0 8 ++ natLe 0 8 ++ natLe 0 8 ++ natLe 3 8;
     let s := ((app []).onMe fun x => x.setSlot 1 { Slot.empty with phase := .busy, coll := true, box := box }).wr (rFgrpc 0) 1;
     let g := s.rd (rFgrpc (fld (wordAt box 0) 24 8));
     s.me.run ≠ .unbound ∧ (s.me.slot 1).phase = .busy ∧ (s.me.slot 1).coll = true ∧ (s.me.slot 1).ended = false ∧ (s.me.slot 1).members = [] ∧ fld g 0 4 = 1 ∧ fld g 4 4 = 0 ∧ wordAt box 0 = 0 ∧ wordAt box 3 = 3 ∧
       fld (wordAt box 0) 32 32 = 0 ∧ box ≠ [] ∧
       (let ms : List Member := [⟨1, 0, 3, [], none⟩]; (∀ k, k ≤ 1 → k ≠ 0 → ∃ m ∈ ms, m.rank = k) ∧ (∀ m ∈ ms, m.rank ≠ 0 ∧ m.rank ≤ 1) ∧ (ms.map fun m => m.rank).Nodup ∧
         (∀ m ∈ ms, m.opWord = wordAt box 0 ∧ m.seq = wordAt box 3 ∧ m.stop = none) ∧ ∃ m ∈ [(⟨1, 1, 3, [], none⟩ : Member)], m.opWord ≠ wordAt box 0)) := by
  refine ⟨?_, by decide +kernel⟩
  have h : ((lazy ((app []).onMe fun x => x.setSlot 1 { Slot.empty with phase := .busy, form := .lds, a := 0xE000000000000000, b := 8, sd := 0xE200000000000000 })).engineStep 0
      (engineOrder 255)).map State.eager = some false := by decide +kernel
  cases e : (lazy ((app []).onMe fun x => x.setSlot 1 { Slot.empty with phase := .busy, form := .lds, a := 0xE000000000000000, b := 8, sd := 0xE200000000000000 })).engineStep 0
      (engineOrder 255) with
  | none => rw [e] at h; cases h
  | some u => rw [e] at h; exact ⟨u, rfl, by simpa using h⟩

/-- A strand that waits for a grant of tenant 1, beside a granted strand of tenant 0. -/
def contested : State :=
  let x := { Strand.unbound with run := .parked (.grant false 5 9 0), ctl := { Ctl.reset with tenant := 1 } }
  let s := ((granted [] 4).wr (rLaqt 0 0) 0x11).onCluster 0 fun c => { c with waiting := [4] }
  { s with others := [(4, x)] }

theorem witness_AllocatorSaveAndDebugEventsTakeEffect_marks : (app []).markDue 0 = false ∧
    (let s := granted [] 4 |>.onMe fun x => { x with mark := some ⟨0, 0, none⟩ };
     let late := { s with sys := { s.sys with pool := 2048 } };
     s.me.mark = some ⟨0, 0, none⟩ ∧ s.me.canSave = true ∧ s.me.queue = [] ∧ s.sys.scRun = none ∧ 0 + fld (late.rd (rLadl 0)) 0 17 ≤ late.sys.pool) := by decide +kernel

theorem witness_AllocatorSaveAndDebugEventsTakeEffect_saves :
    (let s := (app []).onMe fun x => { x with run := .saving .preempt };
     s.me.run = .saving .preempt ∧ s.me.saveReady .preempt = true ∧ s.me.headFault = none ∧ s.me.mark = none ∧ (s.cluster 0).fencing = 0 ∧ s.sys.schOp = none ∧
       (s.cluster 0).suspended = [] ∧ (s.cluster 0).waiting = [] ∧ s.synd = [] ∧ s.mem.wf = true ∧ s.me.ctl.lg = 0) ∧
    (let s := (granted [] 4).onMe fun x => { x with run := .saving .squall, held := true };
     s.me.run = .saving .squall ∧ s.me.held = true ∧ s.me.saveReady .squall = true ∧ s.me.ctl.lg ≠ 0) ∧
    (let s := mail ((app []).onMe fun x => { x with run := .restoring .squall, block := [⟨0, 7, .co⟩] }) (List.replicate 31 0);
     s.me.run = .restoring .squall ∧ s.blockFits 0 = true ∧ s.me.park = none ∧ s.me.hcause = 0 ∧ s.me.queue = [] ∧ (s.me.slots.toList.all fun sl => decide (sl.unmerged = 0)) = true) ∧
    (let s := attached ((app []).onMe fun x => { x with haltreq := true });
     s.me.run = .running ∧ s.me.attach = true ∧ s.me.haltreq = true ∧ s.me.waits = false ∧ s.me.grant = none ∧ s.sys.scRun = none) ∧
    (let s := (app []).onMe fun x => { x with run := .granting false 5 4 0 1, vec := { Vec.empty with lanes := [0] } };
     s.me.run = .granting false 5 4 0 1 ∧ s.me.ctl.lg.toNat ≤ s.me.vec.lanes.length) ∧
    (let s := (((app []).onCtl fun c => { c with lg := 4 }).onMe fun x => { x with run := .parked .relocate, vec := { Vec.empty with lanes := [0, 1, 2, 3] } }).onCluster 0
       fun c => { c with waiting := [0] };
     s.me.run = .parked .relocate ∧ s.squareFor 0 s.me.vec.lanes = some 0 ∧ s.me.mark = none ∧ s.clusterTids 0 = [0] ∧ (s.cluster 0).suspended = [] ∧ (s.cluster 0).waiting = [0]) := by
  decide +kernel

theorem witness_AllocatorSaveAndDebugEventsTakeEffect_debug : bitOf (4 : Word) 7 = false ∧ (bitOf (0x80 : Word) 7 = true ∧ bitOf (0x80 : Word) 2 = false) ∧
    (let s := ((app []).onMe fun x => { x with run := .halted }).wr (rDbgsel 0) 0x40;
     s.me.run = .halted ∧ s.me.queue = [] ∧ bitOf (s.rd (rDbgsel 0)) 6 = true ∧ (s.strand (BitVec.ofNat 13 (fld (s.rd (rDbgsel 0)) 0 6))).isHalted = true ∧ s.canonical = true) ∧
    (bitOf ((app []).rd (rDbgsel 0)) 6 = false ∧ (app []).me.isHalted = false) ∧
    ((app []).onMe fun x => { x with run := .firmwareCall }).me.run = .firmwareCall ∧ (app []).me.run ≠ .firmwareCall := by decide +kernel

/-- A queue of the command processor: enabled, 16 packets, one of them waiting. -/
def queue0 : State := ((State.reset.wr (rQctl 0) 0x8000000000000004).wr (rQnotify 0) 1).wr (rQbase 0) 0x10000

theorem witness_LaunchAndSchedulerEventsTakeEffect_queues : State.reset.canonical = true ∧ queue0.canonical = true ∧ (1 : Word).toNat ≤ (queue0.rd (rQnotify 0)).toNat ∧
    ((queue0.rd (rQnotify 0)).toNat < (17 : Word).toNat ∧ (queue0.rd (rQrd 0)).toNat + 2 ^ fld (queue0.rd (rQctl 0)) 0 4 < (17 : Word).toNat) ∧
    (2 : Word).toNat ≤ (queue0.rd (rQrd 0)).toNat + 2 ^ fld (queue0.rd (rQctl 0)) 0 4 ∧ bitOf (State.reset.rd (rQctl 0)) 63 = false ∧
    (bitOf (queue0.rd (rQctl 0)) 63 = true ∧ bitOf (queue0.rd (rQstat 0)) 63 = false ∧ (queue0.rd (rQrd 0)).toNat < (queue0.rd (rQnotify 0)).toNat ∧ queue0.sys.fatal = false ∧
      NMap.get CpState.idle queue0.sys.cp 0 = .idle) ∧
    (queue0.cpRead (cpAgent 0 0) (.cpServePacket 0) (word (16 * 4096))).2 = .fault ∧
    NMap.get CpState.idle ({ Sys.reset with cp := [(0, .waiting)] } : Sys).cp 0 = .waiting ∧
    NMap.get CpState.idle ({ Sys.reset with cp := [(0, .clearing)] } : Sys).cp 0 = .clearing ∧ NMap.get CpState.idle State.reset.sys.cp 0 ≠ .clearing := by decide +kernel

/-- A packet that launches one strand at 0x10000 in one cluster group, its words in order. -/
def packet : List Word := [1, 0x10000, 0x20000, 0] ++ List.replicate 12 0

/-- The package of `boot` with that packet at the base of queue 0. -/
def launchable : State :=
  let s := boot 32 0
  ((({ s with mem := s.mem.setBytes 0x10000 (packet.flatMap fun w => natLe w.toNat 8) } : State).wr (rQctl 0) 0x8000000000000004).wr (rQnotify 0) 1).wr (rQbase 0) 0x10000
    |>.wr (rSchq 0) 1

/-- The command processor reads the packet and its arguments, translates its entry and clears its VALID bit; each check passes, or fails on another packet. -/
theorem witness_LaunchAndSchedulerEventsTakeEffect_packet : let a := cpAgent 0 0
    let e : Event := .cpServePacket 0
    let h0 := launchable.cpRead a e 0x10000
    let r0 := h0.1.cpReads a e (0x10000 + 8) 15
    let r1 := r0.1.cpReads a e (pktWord packet 2) (fld (pktWord packet 0) 16 9 / 8)
    let r2 := r1.1.cpTranslates a .fetch (pktWord packet 1) 2
    let r3 := r2.1.cpWrite a e 0x10000 (setBit (pktWord packet 0) 0 false)
    launchable.canonical = true ∧ bitOf (launchable.rd (rQctl 0)) 63 = true ∧ (launchable.rd (rQrd 0)).toNat < (launchable.rd (rQnotify 0)).toNat ∧
      launchable.sys.fatal = false ∧ h0.2 = .data (natLe 1 8) ∧ r0.2 = .data ((packet.drop 1).flatMap fun w => natLe w.toNat 8) ∧
      ((({ launchable with poison := [(0x10010 / 8, true)] } : State).cpRead a e 0x10000).1.cpReads a e (0x10000 + 8) 15).2 = .fault ∧ bitOf (pktWord packet 0) 0 = true ∧ pktReserved packet = false ∧
      pktLevels packet = false ∧ pktAddresses packet = false ∧ r1.2 = .data [] ∧ r2.2 = .data [] ∧ pktWord packet 3 = 0 ∧
      groupSize packet ≤ fld (launchable.rd (rSchq 0)) 0 14 ∧ launchable.lastLaunch 0 = none ∧ r3.2 = .data [] ∧ r3.1.sys.launches = [] ∧ r3.1.groupsOf 0 packet ≠ [] ∧
      groupSize packet ≠ 0 ∧ bitOf (pktWord (List.replicate 16 0) 0) 0 = false ∧ pktReserved (packet.set 9 1) = true ∧ pktLevels (packet.set 6 1) = true ∧
      pktAddresses (packet.set 1 1) = true := by decide +kernel

/-- A launch of one strand into cluster 0, not yet placed. -/
def launch0 : Launch := { id := 0, queue := 0, tenant := 0, part := 0, index := 0, words := packet, args := [], prio := 0, groups := [0], perGroup := 1, placed := 0, exited := 0, triggered := 0, ended := false }

/-- A package with that launch. -/
def launching (l : Launch) : State := ({ cleared State.reset with sys := { (cleared State.reset).sys with launches := [l], nextLaunch := 1 } } : State).wr (rSchq 0) 1

theorem witness_LaunchAndSchedulerEventsTakeEffect_placement : (launching launch0).canonical = true ∧ ((launching launch0).placeable [] (launching launch0).unplaced)[0]? = some launch0 ∧
    launch0.perGroup = 1 ∧ ((launching launch0).nextContext (launch0.groups.getD launch0.placed 0) launch0.tenant).isSome = true ∧
    (State.reset.placeable [] State.reset.unplaced)[0]? = none := by decide +kernel

/-- The placed strand starts at its entry with its stack and argument pointers (01 R34, 14 R414). -/
theorem test_placement : next (exec (.groupPlacement 0) (launching launch0)) (fun t => decide
    ((t.strand 0).run = .running ∧ (t.strand 0).pc = 0x10000 ∧ (t.strand 0).reg 2 = 0xE000000000001F00 ∧ (t.strand 0).reg 1 = 0 ∧ (t.strand 0).launch = some 0)) = true := by decide +kernel

/-- The launch has ended and its SIGNAL stands in mapped memory. -/
def signalling : State :=
  let s := boot 32 0
  { s with sys := { s.sys with launches := [{ launch0 with placed := 1, exited := 1, words := packet.set 3 0x10100 }] } }

theorem witness_LaunchAndSchedulerEventsTakeEffect_signal : let a := cpAgent 0 0
    let p : Place := ⟨.dram, 0x10100, 0, true, true, false, true⟩
    let m : Word := BitVec.allOnes 64
    (signalling.sys.launches.find? fun l => decide (l.id = 0)).isSome = true ∧ 1 * 1 ≤ (1 : Nat) ∧ signalling.resolve a (.amo .add m) 0x10100 8 = .ok [(p, 8)] ∧
      signalling.sys.signals = [] ∧ signalling.atomicHeld a p = false ∧ region p.key = .hbm 0 0x10100 ∧ ((signalling.noteAccess a 0x10100 [8]).atomicAt a p (.amo 8 .add m)).2.toOption = some (List.replicate 8 0) := by decide +kernel

/-- A strand of launch 0, which has two strands: its trigger mark is due, or its exit. -/
theorem witness_LaunchAndSchedulerEventsTakeEffect_ends :
    (let s := (app []).onMe fun x => { x with trigIssued := true, trigAt := 3 };
     s.me.trigIssued = true ∧ s.me.trigCounted = false ∧ s.me.quietBefore s.me.trigAt = true ∧ s.me.launch = none) ∧
    (let s := signalling.onMe fun x => { x with trigIssued := true, launch := some 0 };
     s.me.trigCounted = false ∧ s.me.quietBefore s.me.trigAt = true ∧ s.me.launch = some 0 ∧
       (s.sys.launches.find? fun l => decide (l.id = 0)).isSome = true) ∧
    (let l := { launch0 with groups := [0, 1], placed := 2 };
     let s := (launching l).onMe fun x => { x with run := .exiting, launch := some 0 };
     s.me.exitDue = true ∧ s.me.launch = some 0 ∧ s.sys.launches.find? (fun (l : Launch) => decide (l.id = 0)) = some l ∧ l.ended = false ∧
       l.exited + 1 < l.groups.length * l.perGroup) := by decide +kernel

theorem witness_LaunchAndSchedulerEventsTakeEffect_registers : bitOf (State.reset.rd (rMsix 3 16 1)) 32 = true ∧ bitOf ((State.reset.wr (rMsix 3 16 1) 0).rd (rMsix 3 16 1)) 32 = false ∧
    bitOf ((State.reset.wr rSchcmd 0x4000000000000000).rd rSchcmd) 62 = true ∧ bitOf (State.reset.rd rSchcmd) 62 = false ∧ bitOf (0x2000000000000000 : Word) 63 = false ∧
    bitOf (0x8000000000000000 : Word) 63 = true ∧ fld (0x8000000000000000 : Word) 58 3 = 0 ∧ (State.reset.strand 0).run = .unbound ∧ ((app []).strand 0).run = .running ∧
    (let s := (app []).onCtl fun c => { c with move := true };
     fld (0x8400000000000000 : Word) 58 3 = 1 ∧ s.me.run = .running ∧ s.schRefused 0x8400000000000000 = false ∧ (app []).me.ctl.move = false) ∧
    (let s := (app []).onMe fun x => { x with run := .suspended .preempt, held := true };
     fld (0x8800000000000000 : Word) 58 3 = 2 ∧ s.me.held = true ∧ s.me.savedLg = 0 ∧ s.me.run = .suspended .preempt ∧ (app []).me.held = false) ∧
    (fld (0x8C00000000000000 : Word) 58 3 = 3 ∧ (app []).tenantHere (fld (0x8C00000000000000 : Word) 51 7) (BitVec.ofNat 5 (fld (0x8C00000000000000 : Word) 46 5)) = true ∧
      State.reset.tenantHere 0 0 = false) ∧
    fld (0x9000000000000000 : Word) 58 3 = 4 ∧ (fld (0x9400000000000000 : Word) 58 3 = 5 ∧ ((app []).onMe fun x => { x with launch := some 0 }).launchOf 0 = some 0 ∧ (app []).launchOf 0 = none) ∧
    6 ≤ fld (0x9800000000000000 : Word) 58 3 ∧
    (State.reset.sys.flr = [] ∧ State.reset.sys.schOp = none ∧ State.reset.schDone 0x8000000000000000 = true ∧
      ((app []).onMe fun x => { x with run := .saving .preempt }).schDone 0x8000000000000000 = false ∧ schOpOf 0x8000000000000000 ≠ 4) ∧
    (bitOf (State.reset.rd (rFnten 1)) 7 = false ∧ bitOf ((State.reset.wr (rFnten 1) 0x80).rd (rFnten 1)) 7 = true ∧ (1 : BitVec 5) ≠ 0) ∧
    ((State.reset.cluster 127).suspended = [] ∧ (State.reset.cluster 127).waiting = [] ∧ State.reset.sys.savedBarriers = [] ∧ State.reset.sys.saved = []) ∧
    State.reset.sys.fatal = false ∧ ({ Sys.reset with fatal := true } : Sys).fatal = true := by decide +kernel

theorem witness_AllocatorSaveAndDebugEventsTakeEffect_contested :
    (let s := { ((contested.onCluster 0 fun c => c).wr (rLgstat 0 1) 0x10000) with sys := { contested.sys with pool := 2048 } };
     let u := (((((s.wr (rLgstat 0 2) 0x10000).wr (rLgstat 0 3) 0x10000).wr (rLgstat 0 4) 0x10000).wr (rLgstat 0 5) 0x10000).wr (rLgstat 0 6) 0x10000).wr (rLgstat 0 7) 0x10000
       |>.wr (rLaqt 0 0) 0x11;
     u.markDue 4 = true ∧ u.victimFor 0 1 = some 0) ∧
    (let s := { contested.onMe fun x => { x with run := .parked .waitmsg } with sys := { contested.sys with pool := 2048 } };
     s.parkDue 0 = true) := by decide +kernel

/-- A lull sequencer at a tick. -/
def ticking (n : Nat) (l : Lull) : State := lulled { State.reset with time := n } l

theorem witness_LullHostAndManagementEventsTakeEffect_lull : State.reset.canonical = true ∧
    ((ticking 7424 { Lull.reset with phase := .clear, start := 7680 }).sys.lull.phase = .clear ∧ 7680 ≤ 7424 + 256 ∧ 7423 + 256 < 7680) ∧
    (let s := ticking 8640 { Lull.reset with phase := .lull, start := 15360, ends := 8640 };
     s.sys.lull.phase = .lull ∧ s.sys.lull.ends ≤ s.time ∧ s.sys.lull.overrun = false ∧ s.sys.lull.late = 0 ∧ s.sys.lull.relocks s.time = false ∧
       s.time + 256 < s.sys.lull.start ∧ (s.sys.lull.ended s.time).map Chores.cool = [false] ∧ s.sys.linksDown = []) ∧
    (let s := ticking 8640 { Lull.reset with phase := .lull, start := 15360, ends := 8600, late := 8640, overrun := true };
     s.sys.lull.ends ≤ s.time ∧ s.sys.lull.late ≤ s.time ∧ 0 < s.sys.lull.late) ∧
    (let s := ticking 15360 { Lull.reset with phase := .drain, start := 15360 };
     s.sys.lull.phase = .drain ∧ s.sys.lull.start ≤ s.time ∧ s.sys.lull.hotFrom = none ∧ s.sys.lull.late = 0 ∧ s.sys.lull.start % 983040 ≠ 0 ∧ s.synd = [] ∧ s.boundTids = []) ∧
    ((ticking 0 Lull.reset).sys.lull.start % 983040 = 0 ∧ State.reset.clusters = []) ∧
    (let s := ticking 8640 { Lull.reset with phase := .lull, start := 15360, ends := 8640, work := { Chores.none with relock := some 1 } };
     s.sys.lull.relocks s.time = true ∧ (s.sys.lull.ended s.time).reverse.findSome? Chores.relock = some 1) ∧
    ((app []).onMe fun x => { x with run := .parked (.lullw 0) }).me.run = .parked (.lullw 0) := by decide +kernel

/-- No lane group is marked for a fence or fenced in any cluster after reset. -/
theorem witness_LullHostAndManagementEventsTakeEffect_fences : ∀ c, c < 128 → ∀ p, p < 8 →
    bitOf (State.reset.rd (rLgstat c p)) 9 = false ∧ bitOf (State.reset.rd (rLgstat c p)) 10 = false ∧ (State.reset.cluster c).fenceNext = 0 := by decide +kernel

/-! ### What the statements assume of memory outside the private window, and of cases that stand beside the plain ones -/

/-- A strand with an address in s6, between lulls, and page 1 of its tenant mapped. -/
def openAt (w : Word) : State := cleared (mapped (app [(6, w)]))

theorem open_of (s : State) (c : s.Calm) (h : s.eager = true ∧ s.sys.lull.phase = .clear ∧ s.lineKey = [] ∧ s.sys.l2 = [] ∧
    (∀ t ∈ s.clusterTids s.tid.cluster, (s.strand t).writes = []) ∧ (s.cluster s.tid.cluster).l1 = [] ∧ NMap.wf Cluster.reset s.clusters = true) : s.Open :=
  { c with
    eager := h.1
    noLull := h.2.1
    plain := h.2.2.1
    tags := fun k l x => by obtain ⟨_, x, _⟩ := x; rw [h.2.2.2.1] at x; cases x
    noStores := h.2.2.2.2.1
    lines := fun pa l x => by unfold Cluster.l1Find at x; rw [h.2.2.2.2.2.1] at x; cases x
    clusters := h.2.2.2.2.2.2 }

/-- A global address, the strand's own scratchpad, and the last bytes under the limit of its cluster's shared window. -/
theorem witness_PrivateLoadsRead_open :
    (let s := openAt 0x10008; s.Open ∧ s.resolve s.agent .load 0x10008 8 = .ok [(⟨.dram, 0x10008, 0, true, true, false, true⟩, 8)]) ∧
    (let s := openAt 0xE100000000000000; s.Open ∧
      ((s.resolve s.agent .load 0xE100000000000000 8).toOption.map fun ps => ps.map fun p => (p.1.plainMemory, p.2)) = some [(true, 8)]) ∧
    (let s := (openAt 0xE20000000000FFF8).wr (rCswin 0 0) 1;
      ((s.resolve s.agent .load 0xE20000000000FFF8 8).toOption.map fun ps => ps.map fun p => (p.1.plainMemory, p.2)) = some [(true, 8)]) :=
  ⟨⟨open_of _ (calm_of _ (by decide +kernel)) (by decide +kernel), by decide +kernel⟩, ⟨open_of _ (calm_of _ (by decide +kernel)) (by decide +kernel), by decide +kernel⟩,
    by decide +kernel⟩

theorem witness_PrivateStoresWrite_open : let s := openAt 0x10008
    s.Open ∧ s.resolve s.agent (.store 5) 0x10008 8 = .ok [(⟨.dram, 0x10008, 0, true, true, false, true⟩, 8)] ∧
    (⟨.dram, 0x10008, 0, true, true, false, true⟩ : Place).plainMemory = true :=
  ⟨open_of _ (calm_of _ (by decide +kernel)) (by decide +kernel), by decide +kernel⟩

theorem witness_PrivateAtomicsExchange64_open : let s := openAt 0x10008
    s.Open ∧ (s.reg 6).toNat % 8 = 0 ∧ s.resolve s.agent (.amo .add 5) 0x10008 8 = .ok [(⟨.dram, 0x10008, 0, true, true, false, true⟩, 8)] ∧
    s.resolve s.agent .cas 0x10008 8 = .ok [(⟨.dram, 0x10008, 0, true, true, false, true⟩, 8)] :=
  ⟨open_of _ (calm_of _ (by decide +kernel)) (by decide +kernel), by decide +kernel⟩

/-- A load from a page that the cluster's TLB maps, by hand from 03 R84: it reads the memory the leaf names. -/
theorem test_global_load : next (exec (.ldd 5 6 0) { openAt 0x10008 with mem := Memory.setBytes [] 0x10008 (natLe 0x1122334455667788 8) })
    (fun t => decide (t.reg 5 = 0x1122334455667788 ∧ t.me.pc = 0x1004)) = true := by decide +kernel

/-- At the limit of the shared window, and in the scratchpad of core 1. -/
theorem witness_BadAddressesTrap_windows : (app []).beyondLimit 0xE200000000000000 ∧ ((app []).wr (rCswin 0 0) 1).beyondLimit 0xE200000000010000 ∧
    (app []).otherCore 0xE100000100000000 8 :=
  ⟨⟨0, 0, by decide +kernel⟩, ⟨0, 0x10000, by decide +kernel⟩, ⟨1, 0, 7, by decide +kernel⟩⟩

theorem witness_FloatSpecialCases_operands : (FVal.fin false 1 0) ≠ .nan true ∧ (FVal.nan false) ≠ .nan true ∧ (1 : Nat) ≠ 0 ∧
    (∀ p q h, ¬(FVal.fin false 1 0 = .fin p 0 h ∧ FVal.inf true = .inf q) ∧ ¬(FVal.fin false 1 0 = .inf q ∧ FVal.inf true = .fin p 0 h)) := by
  refine ⟨by decide, by decide, by decide, fun p q h => ⟨?_, ?_⟩⟩ <;> simp

/-- A clock stopped for a change of step, and a line that a drain keeps from a fetch. -/
theorem witness_StepRunsTheNextEvent_stopped : let l : Lull :=
      { Lull.reset with phase := .lull, start := 15360, ends := 8640, work := { Chores.none with relock := some 1 } }
    let s := lulled { State.reset with time := 8240, agenda := [.tlbinvDone 0, .thermtrip] } l
    s.sys.lull.stopped s.time = true ∧ s.sys.power = true ∧
    s.agenda.find? (fun x => decide (x ∈ [.packageReset, .powerLoss, .thermtrip])) = some .thermtrip ∧ State.reset.sys.lull.stopped State.reset.time = false := by
  decide +kernel

/-- A strand held at its fetch, one whose first parcel cannot be fetched, and a cached line. -/
theorem witness_FetchFramesParcels_step : (∃ s1, ({ (((lulled (boot 32 0x39804028) { Lull.reset with phase := .lull, start := 7680 })).focus 0).turn.1 with ir := .event } : State).fetch = (s1, .error .hold)) ∧
    (∃ s1 a, ({ (((boot 32 0).onMe fun x => { x with pc := 0x20000 }).focus 0).turn.1 with ir := .event } : State).fetch = (s1, .error (.fault a)) ∧ s1.me.waits = false) ∧
    (∃ l, (((boot 32 0x39804028).fetch.1.core 0).icacheFind 0x10000) = some l) :=
  ⟨⟨_, Prod.ext rfl (by decide +kernel)⟩, ⟨_, 0x20000, Prod.ext rfl (by decide +kernel), by decide +kernel⟩, Option.isSome_iff_exists.1 (by decide +kernel)⟩

/-- A return to a TCVT that has begun and to one that has not. -/
theorem witness_EretReturns_tcvt : let q := fun (n : Nat) => { entry (.tcvt 1 2) with next := n }
    let s := (sup []).onMe fun x => { x with queue := [q 4], ctl := { x.ctl with cause := 0x48, es := 0x1000 } }
    s.me.ctl.priv ≠ .app ∧ s.me.ctl.ppriv = .app ∧ s.me.ctl.cause.getLsbD 6 = true ∧ s.me.queue = q 4 :: [] ∧ (q 4).first < (q 4).next ∧
    (q 4).total s.me ≤ s.me.ctl.es.toNat ∧ ¬ (q 0).first < (q 0).next := by decide +kernel

/-- Marks of a grant form: one that gives all back, one that caps the request; a busy queue; and a request held back by another. -/
theorem witness_GrantFormsGrant_marks : let m := fun (n : Nat) => (asking 20000).onMe fun x => { x with mark := some ⟨n, 0, none⟩ }
    (m 0).reg 6 ≠ 0 ∧ ((m 0).me.mark.map Mark.target) = some 0 ∧ ((m 1).me.mark.map Mark.target) = some 1 ∧ 1 ≤ min 3 1 ∧
    (asking 20000).heldBack 0 0 = false ∧ (asking 20000).me.vec.regSynd = [] ∧ ((asking 20000).cluster 0).stray = [] ∧
    NMap.wf Cluster.reset (asking 20000).clusters = true ∧ (asking 20000).me.ctl.lg.toNat = (asking 20000).me.vec.lanes.length ∧
    (lazy (asking 20000)).eager = false ∧ (queued (granted [(6, 40)] 40) .cbload).me.queue ≠ [] ∧ NMap.wf 0 (granted [] 4).me.vec.regs = true ∧
    NMap.wf false (granted [] 4).me.vec.masks = true := by decide +kernel

/-- A handle that is read and good, one whose serial is stale, and one with a bit above its fields. -/
theorem witness_StreamSlotsTakeCopies_handles : let s := ({ mapped (app [(6, 5), (7, 0x105), (8, 0x10000)]) with mem := Memory.setBytes [] 0x10140 (natLe 0x8000000000000000 8) } : State).wr (rHtbase 0 0) 0x10001
    (∃ u, HandleRead s (s.reg 6) u 0x8000000000000000) ∧ (∃ u, HandleRead s (s.reg 7) u 0x8000000000000000) ∧
    fld (s.reg 6) 16 48 = 0 ∧ (0x8000000000000000 : Nat).testBit 63 = true ∧ 0x8000000000000000 / 2 ^ 48 % 256 = fld (s.reg 6) 8 8 ∧
    0x8000000000000000 / 2 ^ 48 % 256 ≠ fld (s.reg 7) 8 8 ∧ fld (s.reg 8) 16 48 ≠ 0 := by
  refine ⟨⟨_, _, _, _, _, rfl, rfl, ?_, Prod.ext rfl (by decide +kernel), rfl, ?_⟩, ⟨_, _, _, _, _, rfl, rfl, ?_, Prod.ext rfl (by decide +kernel), rfl, ?_⟩, ?_⟩
  all_goals decide +kernel

/-- The TLBs of a package with a mapped page are canonical. -/
theorem witness_DieEventsTakeEffect_tlbs : (mapped (app [])).tlbsCanonical := by
  refine ⟨by decide +kernel, fun c => ?_⟩
  by_cases h : c = 0
  · subst h; decide +kernel
  · have e : (mapped (app [])).cluster c = Cluster.reset := by
      show NMap.get Cluster.reset [(0, _)] c = _
      unfold NMap.get
      split
      · exact absurd (by omega) h
      · rfl
    rw [e]
    decide
/-- A package whose function 1 serves tenant 0, with its page of tenant 0 mapped. -/
def hosted : State := (boot 32 0).wr (rFnten 1) 0x80

/-- BAR4 accesses to a mapped page, to a page without a mapping, and of a function that serves no tenant. -/
theorem witness_LullHostAndManagementEventsTakeEffect_bar4 : let a := cpAgent (fld (hosted.rd (rFnten 1)) 0 5) 0
    let rd := fun (off n : Nat) => hosted.hostPlaces a (hostChunks off n 4096) none
    let bad : Option State → Bool := fun e => e.isSome
    bitOf (hosted.rd (rFnten 1)) 7 = true ∧ hosted.sys.fatal = false ∧ bitOf (State.reset.rd (rFnten 1)) 7 = false ∧
    hosted.hostBehind 1 = false ∧
    (match rd 0x10008 8 with | .ok ps => !hosted.partsHeld a (ps.map Prod.snd) && (hosted.hostReads a (.hostBar4Read 1 0x10008 8) ps).2 == some (List.replicate 8 0) | .error _ => false) = true ∧
    (match rd 0x20008 8 with | .ok _ => false | .error e => bad e) = true ∧
    (match hosted.hostPlaces a (hostChunks 0x10008 8 8) (some (List.replicate 8 0)) with | .ok _ => true | .error _ => false) = true ∧
    (match hosted.hostPlaces a (hostChunks 0x20008 8 8) (some (List.replicate 8 0)) with | .ok _ => false | .error e => bad e) = true ∧
    (let s := hosted;
     let t := { s with poison := [(0x10008 / 8, true)] };
     match t.hostPlaces a (hostChunks 0x10008 8 4096) none with | .ok ps => (t.hostReads a (.hostBar4Read 1 0x10008 8) ps).2 == none | .error _ => false) = true := by decide +kernel

/-- Firmware loading at each state, lengths that are and are not legal, and an image that is refused by its length. -/
theorem witness_LullHostAndManagementEventsTakeEffect_firmware : fld (State.reset.rd rFwcmd) 0 3 ≠ 1 ∧ fld (State.reset.rd rFwcmd) 0 3 ≠ 2 ∧ bitOf (0x8000000000000000 : Word) 63 = true ∧
    fld ((State.reset.wr rFwcmd 1).rd rFwcmd) 0 3 = 1 ∧ fld ((State.reset.wr rFwcmd 2).rd rFwcmd) 0 3 = 2 ∧ fwLenOk 4097 = false ∧ fwLenOk 8192 = true ∧ State.reset.sys.fatal = false ∧
    State.reset.imageFault [1, 2, 3] = some 5 ∧ ([1, 2, 3] : List Byte).length < 8192 ∧ 600 ≤ 600 ∧ 1800 ≤ 1800 ∧ ¬ 1801 ≤ 1800 := by decide +kernel

/-- An image passes the check when its header is well formed and the hash and the signature are what the fuses ask for. The spec gives neither function, so both
are hypotheses (log 19). -/
theorem witness_LullHostAndManagementEventsTakeEffect_image (s : State) (img : List Byte) (hl : fwLenOk img.length = true) (hm : imgNum img 0 8 = 0x43584C494D574631) (hv : imgNum img 8 4 = 1)
    (hs : s.minVersion ≤ imgNum img 0x0C 4) (hb : imgNum img 0x10 8 = img.length - 4096) (he : imgNum img 0x18 8 < (img.drop 4096).length) (ha : imgNum img 0x18 8 % 4 = 0)
    (hh : imgNum img 0x20 48 = Config.sha384 (img.drop 4096)) (hk : Config.sha384 ((img.drop 0x50).take 97) = Config.fusedKeyHash)
    (hg : Config.ecdsaValid (img.take 0xB1) ((img.drop 0x50).take 97) ((img.drop 0xB1).take 96) = true) (hz : (((img.drop 0x111).take 3823).any fun b => !decide (b = 0)) = false) :
    s.imageFault img = none := by
  unfold State.imageFault
  simp only [hl, hm, hv, hb, he, ha, hh, hk, hg, hz, Nat.not_lt.2 hs]
  simp

/-! ### What the statements about the fabric assume -/

/-- A flit of a read from node 3 to node 0. -/
def flit (b : FlitBody) (n : BitVec 12) : Flit := { dst := 0, src := 3, tenant := 0, mark := false, tag := 0, seq := n, ack := 0, body := b }

/-- A package with a port in a given state. -/
def ported (p : Port) : State := { State.reset with sys := { Sys.reset with ports := NMap.set Port.reset [] 2 p } }

/-- A package that has received flits and routes tenant 0 of node 3. -/
def received (s : State) (xs : List Flit) : State := ({ s with sys := { s.sys with inbound := xs } } : State).wr (rFrt 3) 0x800000001

theorem witness_FabricAndCompletionEventsTakeEffect : State.reset.canonical = true ∧ (State.reset.port 2).waiting = [] ∧ NMap.wf Port.reset State.reset.sys.ports = true ∧
    (flit .idle 0).body = .idle ∧ (flit (.load 0x10000 8) 1).seq ≠ (State.reset.port 2).expect ∧ (flit (.load 0x10000 8) 0).seq = (State.reset.port 2).expect ∧
    (flit (.load 0x10000 8) 0).dst.toNat = fld (State.reset.rd rFnode) 0 8 ∧
    ((ported { Port.reset with down := false, unacked := [flit .idle 0] }).port 2).waiting = [] ∧
    ((((ported { Port.reset with down := false, unacked := [flit .idle 0] }).port 2).unacked.filter fun y => !decide (((0 : BitVec 12) - y.seq).toNat < 2048)) = []) ∧
    ((((ported { Port.reset with down := false, unacked := [flit .idle 1] }).port 2).unacked.filter fun y => !decide (((0 : BitVec 12) - y.seq).toNat < 2048)) ≠ []) ∧
    (let P := (ported { Port.reset with down := false, unacked := [flit .idle 1] }).port 2; P.down = false ∧ P.unacked ≠ []) ∧ NMap.get 0 (ported Port.reset).sys.replays 18 ≠ 7 ∧
    (State.reset.port 2).unacked = [] ∧ (State.reset.port 2).down = true ∧ (cleared State.reset).linksHeld true = false ∧
    (lulled State.reset { Lull.reset with phase := .lull, spanLong := true }).linksHeld false = true ∧ bitOf (State.reset.rd (rFpstat 2)) 1 = false ∧ bitOf ((State.reset.wr (rFpstat 2) 2).rd (rFpstat 2)) 1 = true := by decide +kernel

theorem witness_FabricAndCompletionEventsTakeEffect_requests : let x := flit (.load 0x10000 8) 0
    (received (boot 32 0) [x]).sys.inbound[0]? = some x ∧ State.reset.sys.inbound[0]? = none ∧ (∀ y ∈ (received (boot 32 0) [x]).sys.inbound.take 0, (boot 32 0).sameLine y x = false) ∧
    (∃ y ∈ (received (boot 32 0) [x, x]).sys.inbound.take 1, (boot 32 0).sameLine y x = true) ∧ bitOf (State.reset.rd (rFrt 3)) 35 = false ∧
    ((received (boot 32 0) [x]).serveRemote x).isSome = true ∧ ((received (lulled (boot 32 0) Lull.reset) [x]).serveRemote x).isNone = true := by decide +kernel

/-- What the statement assumes of a load, a store and an atomic that another node sends: they name a plain place here, and none waits. -/
theorem witness_FabricAndCompletionEventsTakeEffect_served : let s := received (boot 32 0) []
    let b := cpAgent 0 0
    let p : Place := ⟨.dram, 0x10000, 0, true, true, false, true⟩
    bitOf (s.rd (rFrt 3)) 35 = true ∧ bitOf (s.rd (rFrt 3)) 0 = true ∧ p.far = false ∧ s.partsHeld b [(p, 8)] = false ∧ s.linkHeld b p = false ∧
    s.atomicHeld b p = false ∧ s.resolve b .load 0x10000 8 = .ok [(p, 8)] ∧ s.resolve b (.store (word (leNat (List.replicate 8 1)))) 0x10000 8 = .ok [(p, 8)] ∧
    s.resolve b (.amo .add 1) 0x10000 8 = .ok [(p, 8)] := by decide +kernel

/-- A strand that waits for another node's reply under tag 0. -/
theorem witness_FabricAndCompletionEventsTakeEffect_reply : let d : Pend :=
      ⟨0, 0, .scalar, 5, 0x10000, [(⟨.remote, 0x4000000010000, 0, false, false, false, false⟩, 8)], [], .load 8 false, .rlx, .sy, some 0, none, 0, 0, none⟩
    let s := (app []).onMe fun x => { x with pend := [d] }
    (s.boundTids.findSome? fun c => ((s.strand c).awaits 0).map fun j => (c, j)) = some (0, 0) ∧ (s.strand 0).pend[0]? = some d ∧ d.parts.map Prod.snd = [8] := by decide +kernel

/-- An outstanding read of the host, and completions with none outstanding. -/
def hostRead : Pend :=
  ⟨0, 0, .scalar, 5, 0x10000, [(⟨.host, 0x8000000010000, 0, false, false, false, false⟩, 8)], [], .load 8 false, .rlx, .sy, some 0, none, 0, 0, none⟩

/-- What the answers concern: an access, a posted write, a completion signal, and nothing. -/
theorem witness_FabricAndCompletionEventsTakeEffect_completions :
    (let s := (app []).onMe fun x => { x with pend := [hostRead] };
     s.answered 0 0 = .pend 0 hostRead ∧ hostRead.parts = [(⟨.host, 0x8000000010000, 0, false, false, false, false⟩, 8)]) ∧
    (let s := app []; ({ s with sys := { s.sys with hostOut := [.write 0 0x10000 [1] (some 0) 3 7] } } : State).answered 0 0 = .posted (some 0) 0x10000 3 7) ∧
    (let s := app []; let t : State := { s with sys := { s.sys with signals := [(2, 0)], launches := [launch0] } }; t.answered 0 0 = .system 2 ∧ (∀ w ∈ t.sys.far, w.tag ≠ 2) ∧
      t.sys.signals.find? (fun e => decide (e.1 = 2)) = some (2, launch0.id) ∧ t.sys.launches.find? (fun (m : Launch) => decide (m.id = launch0.id)) = some launch0) ∧
    (app []).answered 0 0 = .nothing := by decide +kernel

end Sys2Proof.Tests
end

section
/-! SUPPORT. The turn of a core: what its first context does with it, and how time passes after an instruction. -/

namespace Sys2Proof.Machine

open Sys2Proof

/-! ### Up to the instruction -/

/-- With power, an empty agenda and no event due, a step is the turn of the core that `pick` names (05 R150). -/
theorem step_coreTurn {s : State} {c : Nat} (power : s.sys.power = true) (idle : s.agenda = []) (due : s.dueNow = none)
    (core : s.pick = some c) : step s = s.coreTurn execWords c := by
  have quiet : s.nextStep = none := by
    unfold State.nextStep
    rw [idle]
    split <;> rfl
  unfold step
  simp [quiet, power, due, core]

theorem execWords_ok {w : Words} {i : Instr} (h : decodeWords w = .ok i) (s : State) : execWords w s = some (exec i s) := by
  unfold execWords
  rw [h]

theorem execWords_error {w : Words} {e : DecodeError} (h : decodeWords w = .error e) (s : State) : execWords w s = none := by
  unfold execWords
  rw [h]

/-- The strand in focus of `s` has its turn and reads the words `w` in `s1`: nothing takes the place of an instruction, none of the
registers that `w` names is still to be written, and no debugger's step waits for an access (03 R74, 05 R157, R178). -/
structure State.Reads (s s0 s1 : State) (w : Words) : Prop where
  turn : s.turn = (s0, false)
  ready : s0.me.haltDue = false
  steps : s0.me.waits = false ∨ s0.me.step = false
  fetched : ({ s0 with ir := .event } : State).fetch = (s1, .ok w)
  clear : s1.me.interlocked w = false
  free : ∀ d, s1.me.dueReg = some d → d = 0 ∨ d ∉ namedRegs s1.me.ctl w

/-- A strand that reads words executes them, or traps where they decode to nothing. -/
theorem attempt_reads {s s0 s1 : State} {w : Words} (h : s.Reads s0 s1 w) (run : Words → State → Option Result) :
    s.attempt run = (run w { s1 with ir := w }).elim
      (({ s1 with ir := w } : State).trapTurn (({ s1 with ir := w } : State).takeTrap ({ s1 with ir := w } : State).illegal))
      ({ s1 with ir := w } : State).outcome := by
  obtain ⟨turn, ready, steps, fetched, clear, free⟩ := h
  have goes : (s0.me.haltDue || (s0.me.step && s0.me.attach && s0.me.waits)) = false := by
    rcases steps with waits | step
    · simp [ready, waits]
    · simp [ready, step]
  unfold State.attempt
  simp only [turn, goes, fetched, clear, Bool.false_or, Bool.false_eq_true, if_false]
  cases due : s1.me.dueReg with
  | none => cases run w { s1 with ir := w } <;> rfl
  | some d =>
    have other : (!decide (d = 0) && (namedRegs s1.me.ctl w).elem d) = false := by
      rcases free d due with zero | unnamed
      · simp [zero]
      · simp [unnamed]
    simp only [other]
    cases run w { s1 with ir := w } <;> rfl

theorem tryAll_issues {run : Words → State → Option Result} {s : State} {t : Tid} {r : Result} (ts : List Tid)
    (h : (s.focus t).attempt run = .issues r) : s.tryAll run (t :: ts) = r := by
  unfold State.tryAll
  rw [h]

theorem tryAll_passes {run : Words → State → Option Result} {s s1 : State} {t : Tid} (ts : List Tid)
    (h : (s.focus t).attempt run = .passes s1) : s.tryAll run (t :: ts) = State.tryAll run s1 ts := by
  rw [State.tryAll, h]

/-! ### The outcome of an instruction -/

theorem outcome_held {b t : State} (h : hasIssued b t = false) : b.outcome (.next t) = .passes t := by
  simp [State.outcome, h]

theorem outcome_issued {b t : State} (h : hasIssued b t = true) (waits : b.me.waits = false) :
    b.outcome (.next t) = .issues (.next ((t.pointed b.tid).afterIssue b)) := by
  simp [State.outcome, h, waits]

theorem outcome_local {b t : State} (h : hasIssued b t = true) (waits : b.me.waits = true) (l : onlyLocal b t = true) :
    b.outcome (.next t) = .issues (.next (((t.onMe fun x => x.noteUndo b.me).pointed b.tid).afterIssue b)) := by
  simp [State.outcome, h, waits, l]

theorem outcome_notLocal {b t : State} (h : hasIssued b t = true) (waits : b.me.waits = true) (l : onlyLocal b t = false) :
    b.outcome (.next t) = .passes b := by
  simp [State.outcome, h, waits, l]

/-! ### Time (log 3) -/

/-- Time that passes changes the clocks, the timebase and the allocators' count, and draws one free value; no clock goes back. -/
theorem tick_shape (s : State) : ∃ c k n, s.tick = { s with cycle := c, time := n, fresh := s.fresh + 1, sys := { s.sys with pool := k } } ∧
    s.cycle ≤ c ∧ s.time ≤ n :=
  ⟨_, _, _, rfl, Nat.le_add_right _ _, le_min (Nat.le_add_right _ _) (le_max_left _ _)⟩

/-- After the instruction of a strand that no debugger steps only time passes (05 R178). -/
theorem afterIssue_unstepped {b : State} (s : State) (h : b.me.step = false) : s.afterIssue b = s.tick := by
  simp [State.afterIssue, h]

end Sys2Proof.Machine
end

section
/-! The statement about a step that runs an instruction. -/

namespace Sys2Proof.Machine

open Sys2Proof

/-- Settles O1: the core's turn is that of its first context, which executes what it reads (`attempt_reads`); the outcome then says
whether it issues, is held, or is passed over for an access that is out. -/
theorem stepRunsTheDecodedInstruction : Obligations.StepRunsTheDecodedInstruction := by
  intro s c t ts s0 s1 w power idle due core first turn ready steps fetched clear free
  have reads : (s.focus t).Reads s0 s1 w := ⟨turn, ready, steps, fetched, clear, free⟩
  have tries : step s = s.tryAll execWords (t :: ts) := by
    rw [step_coreTurn power idle due core, State.coreTurn, first]
  refine ⟨fun i u decoded ran => ?_, fun e undecoded calm => ?_⟩
  · have tried : (s.focus t).attempt execWords = ({ s1 with ir := w } : State).outcome (.next u) := by
      rw [attempt_reads reads, execWords_ok decoded, ran]
      rfl
    refine ⟨fun calm issued => ⟨?_, fun unstepped => ?_⟩, fun held => ?_, fun out issued => ⟨fun near => ?_, fun far => ?_⟩⟩
    · exact tries.trans (tryAll_issues ts (tried.trans (outcome_issued issued calm)))
    · rw [afterIssue_unstepped (b := { s1 with ir := w }) _ unstepped]
      exact tick_shape (u.pointed s1.tid)
    · exact tries.trans (tryAll_passes ts (tried.trans (outcome_held held)))
    · exact tries.trans (tryAll_issues ts (tried.trans (outcome_local issued out near)))
    · exact tries.trans (tryAll_passes ts (tried.trans (outcome_notLocal issued out far)))
  · have tried : (s.focus t).attempt execWords = .issues (.next (((({ s1 with ir := w } : State).takeTrap
        ({ s1 with ir := w } : State).illegal).pointed s1.tid).afterIssue { s1 with ir := w })) := by
      rw [attempt_reads reads, execWords_error undecoded]
      exact if_neg (Bool.eq_false_iff.mp calm)
    exact ⟨_, trapped_takeTrap _ _, tries.trans (tryAll_issues ts tried)⟩

end Sys2Proof.Machine
end

section
/-! SUPPORT. Error records, lane counters and reads of lane storage keep the tables canonical. -/

namespace Sys2Proof.Machine

open Sys2Proof

theorem State.canonical_upd {s : State} (h : s.canonical = true) (r : Nat) (f : Word → Word) : (s.upd r f).canonical = true :=
  State.canonical_wr h r _

theorem State.canonical_onVec {s : State} (h : s.canonical = true) (f : Vec → Vec) : (s.onVec f).canonical = true := h

theorem State.canonical_onCluster {s : State} (h : s.canonical = true) (c : Nat) (f : Cluster → Cluster) :
    (s.onCluster c f).canonical = true := h

theorem State.canonical_post {s : State} (h : s.canonical = true) (code source : Nat) (v : Word) : (s.post code source v).canonical = true := h

theorem State.canonical_ite {p : Prop} [Decidable p] {s t : State} (hs : s.canonical = true) (ht : t.canonical = true) :
    (if p then s else t).canonical = true := by
  split
  · exact hs
  · exact ht

theorem State.canonical_focus {s : State} (h : s.canonical = true) (t : Tid) : (s.focus t).canonical = true := by
  unfold State.focus
  split
  · exact h
  · exact h

theorem State.canonical_within {s : State} (h : s.canonical = true) (t : Tid) {f : State → State}
    (keeps : ∀ u : State, u.canonical = true → (f u).canonical = true) : (s.within t f).canonical = true :=
  State.canonical_focus (keeps _ (State.canonical_focus h t)) _

theorem State.canonical_foldl {α : Type} {f : State → α → State} (keeps : ∀ u a, u.canonical = true → (f u a).canonical = true)
    (l : List α) {s : State} (h : s.canonical = true) : (l.foldl f s).canonical = true := by
  induction l generalizing s with
  | nil => exact h
  | cons a l ih => exact ih (keeps s a h)

/-! ### Error records (12 R356) -/

theorem State.canonical_ringRecord {s : State} (h : s.canonical = true) (ring head tail : Nat) (r : ErrRec) :
    (s.ringRecord ring head tail r).1.canonical = true := by
  unfold State.ringRecord
  simp only
  split
  · refine State.canonical_upd ?_ _ _
    exact State.canonical_wr (State.canonical_wr (State.canonical_wr (State.canonical_wr h _ _) _ _) _ _) _ _
  · exact State.canonical_upd h _ _

theorem State.canonical_logCluster {s : State} (h : s.canonical = true) (c : Nat) (r : ErrRec) : (s.logCluster c r).canonical = true := by
  have written := State.canonical_ringRecord h (allocBlock c + 0x800) (rEloghead c) (rElogtail c) r
  exact State.canonical_ite (State.canonical_post written ..) written

theorem State.canonical_logLane {s : State} (h : s.canonical = true) (inj : Bool) (sev unit lane chan : Nat) (roll : Bool) (syn : Nat)
    (w2 : Word) : (s.logLane inj sev unit lane chan roll syn w2).canonical = true := State.canonical_logCluster h _ _

/-! ### Failing lanes (12 R358, R360) -/

theorem State.canonical_markLane {s : State} (h : s.canonical = true) (c p l : Nat) : (s.markLane c p l).canonical = true :=
  State.canonical_ite (State.canonical_wr h _ _) (State.canonical_ite h (State.canonical_onCluster h c _))

theorem State.canonical_countLane {s : State} (h : s.canonical = true) (c p l : Nat) : (s.countLane c p l).canonical = true := by
  have counted := State.canonical_upd h (rLecnt c p) fun w => setFld w (4 * l) 4 (fld (s.rd (rLecnt c p)) (4 * l) 4 + 1)
  exact State.canonical_ite h (State.canonical_ite (State.canonical_markLane counted c p l) counted)

/-! ### Reads of lane storage (12 R354, R355, R361) -/

theorem State.canonical_laneWord {s : State} (h : s.canonical = true) (k lane : Nat) : (s.laneWord k lane).canonical = true := by
  unfold State.laneWord
  simp only
  split
  · exact h
  · split
    · exact State.canonical_countLane (State.canonical_logLane (State.canonical_onVec h _) ..) ..
    · exact State.canonical_countLane (State.canonical_logLane (State.canonical_onVec (State.canonical_onVec h _) _) ..) ..
    · exact State.canonical_markLane (State.canonical_onVec (State.canonical_onVec h _) _) ..

theorem State.canonical_scrubWords {s : State} (h : s.canonical = true) (f : Nat → Bool) : (s.scrubWords f).canonical = true := by
  refine State.canonical_foldl (fun u e hu => ?_) _ h
  have read := State.canonical_laneWord hu e.1 (u.me.laneOfWord e.1)
  exact State.canonical_ite (State.canonical_logLane read ..) read

theorem State.canonical_strayRead {s : State} (h : s.canonical = true) (c : Nat) (f : Nat → Bool) : (s.strayRead c f).canonical = true := by
  refine State.canonical_ite h (State.canonical_onCluster (State.canonical_foldl (fun u e hu => ?_) _ h) _ _)
  have logged := fun r => State.canonical_logCluster hu c r
  exact State.canonical_ite (State.canonical_markLane (logged _) ..)
    (State.canonical_ite (State.canonical_countLane (logged _) ..) (logged _))

theorem State.canonical_copyLane {s : State} (h : s.canonical = true) (c p l : Nat) : (s.copyLane c p l).canonical = true := by
  have copied : ∀ u : State, u.canonical = true → ∀ f g, (if ((u.strayRead c f).cluster c).stray.isEmpty then u.strayRead c f
      else (u.strayRead c f).onCluster c g).canonical = true := fun u hu f g =>
    State.canonical_ite (State.canonical_strayRead hu c f) (State.canonical_onCluster (State.canonical_strayRead hu c f) c g)
  unfold State.copyLane
  cases s.holderOf c p with
  | none => exact copied s h _ _
  | some t => exact copied _ (State.canonical_within h t.1 fun u hu => State.canonical_scrubWords hu _) _ _

end Sys2Proof.Machine
end

section
/-! SUPPORT. What firmware's writes to the registers of a cluster do, and the steps that they make due. -/

namespace Sys2Proof.Machine

open Sys2Proof

/-! ### Writes by address (00 R7) -/

/-- The allocator blocks of the clusters in the address map (14 R403). -/
theorem region_allocBlock {c o : Nat} (hc : c < 128) (ho : o < 0x10000) : region (allocBlock c + o) = .alloc c o := by
  unfold region allocBlock
  rw [if_neg (by omega), if_neg (by omega), if_neg (by omega), if_neg (by omega), if_neg (by omega), if_neg (by omega), if_neg (by omega),
    if_neg (by omega), if_neg (by omega), if_pos (by omega)]
  congr 1
  · omega
  · omega

/-- A write at an offset of the allocator block of a cluster is a write of that block's register. -/
theorem registerWrite_alloc (c : ClusterNo) {o : Nat} (ho : o < 0x10000) (aligned : o % 8 = 0) (v : Word) (s : State) :
    exec (.registerWrite (BitVec.ofNat 64 (allocBlock c.toNat + o)) v) s = s.writeAlloc c.toNat o v := by
  have hc := c.isLt
  have pa : (BitVec.ofNat 64 (allocBlock c.toNat + o)).toNat = allocBlock c.toNat + o := by
    rw [BitVec.toNat_ofNat, Nat.mod_eq_of_lt (by unfold allocBlock; omega)]
  have dword : (allocBlock c.toNat + o) % 8 = 0 := by unfold allocBlock; omega
  show execRegisterWrite _ _ _ = _
  unfold execRegisterWrite
  rw [pa, if_pos dword, region_allocBlock hc ho]

/-! ### The error log (12 R356) -/

theorem elogtailWrite_becomes {s : State} (h : s.canonical = true) (c : ClusterNo) (v : Word) :
    ∃ t, exec (.elogtailWrite c v) s = .next t ∧ RegsBecome s t
      (rElogtail c.toNat) (word (min (fld v 0 32) (fld (s.rd (rEloghead c.toNat)) 0 32)))
      (rEloghead c.toNat) (setFld (s.rd (rEloghead c.toNat)) 32 8 0) := by
  have apart : rEloghead c.toNat / 8 ≠ rElogtail c.toNat / 8 := by unfold rEloghead rElogtail allocBlock; omega
  refine ⟨_, rfl, ?_⟩
  unfold State.upd
  rw [State.rd_wr_other (State.canonical_fw h) _ apart]
  exact regsBecome_wr (State.canonical_fw h) _ _ _ _ apart.symm

/-! ### Failing lanes (12 R360) -/

theorem markLane_first {s : State} {c p l : Nat} (none_ : bitOf (s.rd (rLgstat c p)) 9 = false) (hl : l < 16) :
    s.markLane c p l = s.wr (rLgstat c p) (setFld (setBit (s.rd (rLgstat c p)) 9 true) 5 4 l) := by
  simp [State.markLane, none_, hl]

theorem markLane_again {s : State} {c p l : Nat} (failed : bitOf (s.rd (rLgstat c p)) 9 = true) (same : fld (s.rd (rLgstat c p)) 5 4 = l) :
    s.markLane c p l = s := by
  simp [State.markLane, failed, same]

theorem markLane_second {s : State} {c p l : Nat} (failed : bitOf (s.rd (rLgstat c p)) 9 = true) (other : fld (s.rd (rLgstat c p)) 5 4 ≠ l) :
    s.markLane c p l = s.onCluster c fun k => { k with fenceNext := k.fenceNext ||| BitVec.ofNat 8 (2 ^ p) } := by
  simp [State.markLane, failed, other]

theorem writeLgstat_unmarked {s : State} (h : s.canonical = true) (c p : Nat) {v : Word} (unmarked : bitOf v 15 = false) :
    RegBecomes s (s.writeLgstat c p v) (rLgstat c p) (setBit (s.rd (rLgstat c p)) 10 (bitOf v 10)) := by
  unfold State.writeLgstat
  rw [if_neg (by simp [unmarked])]
  exact regBecomes_wr (State.canonical_fw h) _ _

/-- A write with MARK: the failing lane of a group without one, the lane that is marked already, and a second one (12 R361). -/
theorem writeLgstat_marked {s : State} (h : s.canonical = true) (c p : Nat) {v : Word} (marked : bitOf v 15 = true) :
    let w := setBit (s.rd (rLgstat c p)) 10 (bitOf v 10)
    (bitOf w 9 = false → RegBecomes s (s.writeLgstat c p v) (rLgstat c p) (setFld (setBit w 9 true) 5 4 (fld v 11 4))) ∧
    (bitOf w 9 = true → fld w 5 4 = fld v 11 4 → RegBecomes s (s.writeLgstat c p v) (rLgstat c p) w) ∧
    (bitOf w 9 = true → fld w 5 4 ≠ fld v 11 4 → RegBecomes (s.onCluster c fun k =>
      { k with fenceNext := k.fenceNext ||| BitVec.ofNat 8 (2 ^ p) }) (s.writeLgstat c p v) (rLgstat c p) w) := by
  intro w
  have fw := State.canonical_fw h
  have holds : (s.wr (rLgstat c p) w).rd (rLgstat c p) = w := State.rd_wr_same fw _ _
  have marks : s.writeLgstat c p v = (s.wr (rLgstat c p) w).markLane c p (fld v 11 4) := if_pos marked
  rw [marks]
  refine ⟨fun first => ?_, fun failed same => ?_, fun failed other => ?_⟩
  · rw [markLane_first (by rw [holds]; exact first) (fld_lt v 11 4), holds, State.wr_wr fw]
    exact regBecomes_wr fw _ _
  · rw [markLane_again (by rw [holds]; exact failed) (by rw [holds]; exact same)]
    exact regBecomes_wr fw _ _
  · rw [markLane_second (by rw [holds]; exact failed) (by rw [holds]; exact other)]
    exact regBecomes_wr (s := s.onCluster c _) fw _ _

/-! ### Diagnostic stores and injection (12 R362, R363) -/

theorem writeDschk_go {s : State} (h : s.canonical = true) (c : ClusterNo) {v : Word} (enabled : bitOf (s.rd (rErrcfg c.toNat)) 0 = true)
    (sram : fld (s.rd (rDsaddr c.toNat)) 60 4 = 0) (go : bitOf v 63 = true) (calc_ : bitOf v 62 = false) :
    RegBecomes { s.onCluster c.toNat fun k => { k with diagDue := true } with agenda := s.agenda ++ [.diagnosticStore c] }
      (s.writeDschk c.toNat v) (rDschk c.toNat) (word (fld v 0 8)) := by
  have stores : s.writeDschk c.toNat v = (((s.wr (rDschk c.toNat) (word (fld v 0 8))).onCluster c.toNat fun k =>
      { k with diagDue := true }).push (.diagnosticStore c)) := by
    simp [State.writeDschk, State.injEn, dsTargetOk, enabled, sram, go, calc_]
  rw [stores]
  exact regBecomes_wr (s := { s.onCluster c.toNat _ with agenda := _ }) (State.canonical_fw h) _ _

theorem writeDschk_calc {s : State} (h : s.canonical = true) (c : Nat) {v : Word} (enabled : bitOf (s.rd (rErrcfg c)) 0 = true)
    (go : bitOf v 63 = false) (calc_ : bitOf v 62 = true) :
    RegBecomes s (s.writeDschk c v) (rDschk c) ((checkBits (s.rd (rDsdata c))).setWidth 64) := by
  have checks : s.writeDschk c v = s.wr (rDschk c) ((checkBits (s.rd (rDsdata c))).setWidth 64) := by
    simp [State.writeDschk, State.injEn, enabled, go, calc_, BitVec.ofNat_toNat]
  rw [checks]
  exact regBecomes_wr (State.canonical_fw h) _ _

theorem writeDschk_disabled {s : State} (h : s.canonical = true) (c : Nat) {v : Word} (disabled : bitOf (s.rd (rErrcfg c)) 0 = false)
    (asks : bitOf v 63 = true ∨ bitOf v 62 = true) :
    RegBecomes s (s.writeDschk c v) (rDschk c) (setBit (s.rd (rDschk c)) 61 true) := by
  have refuses : s.writeDschk c v = s.wr (rDschk c) (setBit (s.rd (rDschk c)) 61 true) := by
    rcases asks with go | check
    · simp [State.writeDschk, State.injEn, disabled, go]
    · simp [State.writeDschk, State.injEn, disabled, check]
  rw [refuses]
  exact regBecomes_wr (State.canonical_fw h) _ _

theorem dinjArm_disabled {s : State} (h : s.canonical = true) (c : ClusterNo) (v : Word)
    (disabled : bitOf (s.rd (rErrcfg c.toNat)) 0 = false) :
    SetsReg (.dinjArm c v) s s (rDschk c.toNat) (setBit (s.rd (rDschk c.toNat)) 61 true) := by
  refine setsReg_wr (State.canonical_fw h) ?_ rfl
  show execDinjArm c v s = _
  simp [execDinjArm, State.injEn, disabled, State.upd]

/-- A write of ARM as given changes nothing where the bits kept have it. -/
theorem setBit_arm_kept (v : Word) {m : Word} (kept : m.getLsbD 63 = true) : setBit (v &&& m) 63 (bitOf v 63) = v &&& m := by
  refine BitVec.eq_of_getLsbD_eq fun i hi => ?_
  rw [getLsbD_setBit]
  by_cases arm : i = 63
  · subst arm
    simp [bitOf, kept]
  · simp [arm, hi]

theorem dinjArm_report {s : State} (h : s.canonical = true) (c : ClusterNo) {v : Word} (enabled : bitOf (s.rd (rErrcfg c.toNat)) 0 = true)
    (report : bitOf v 61 = false) :
    SetsReg (.dinjArm c v) s s (rDinj c.toNat)
      (setBit (v &&& 0xB3FFFE0000000000) 62 (bitOf (s.rd (rDinj c.toNat)) 62 && !bitOf v 62)) := by
  refine setsReg_wr (State.canonical_fw h) ?_ rfl
  show execDinjArm c v s = _
  simp [execDinjArm, State.injEn, enabled, report, setBit_arm_kept]

theorem diagnosticStore_tcm {s : State} (h : s.canonical = true) (c : ClusterNo) (due : (s.cluster c.toNat).diagDue = true)
    (tcm : fld (s.rd (rDsaddr c.toNat)) 60 4 = 3) :
    ∃ t, exec (.diagnosticStore c) s = .next t ∧
      let k := tcmKey (16 * c.toNat + fld (s.rd (rDsaddr c.toNat)) 48 4) (fld (s.rd (rDsaddr c.toNat)) 0 21)
      StoredBytes s t.mem k 8 (s.rd (rDsdata c.toNat)) ∧
      t = { s.onCluster c.toNat fun x => { x with diagDue := false } with
        mem := t.mem
        poison := NMap.set false s.poison (k / 8) false
        synd := NMap.set 0 s.synd (k / 8)
          (BitVec.ofNat 8 (fld (s.rd (rDschk c.toNat)) 0 8) ^^^ checkBits (s.rd (rDsdata c.toNat))) } := by
  have plants : exec (.diagnosticStore c) s = .next ((s.plant
      (tcmKey (16 * c.toNat + fld (s.rd (rDsaddr c.toNat)) 48 4) (fld (s.rd (rDsaddr c.toNat)) 0 21)) (s.rd (rDsdata c.toNat))
      (BitVec.ofNat 8 (fld (s.rd (rDschk c.toNat)) 0 8) ^^^ checkBits (s.rd (rDsdata c.toNat)))).onCluster c.toNat
        fun k => { k with diagDue := false }) := by
    show execDiagnosticStore c s = _
    rw [execDiagnosticStore, if_pos due, State.diagStore]
    simp only [tcm]
  exact ⟨_, plants, storedBytes_setBytes (State.canonical_mem h) _ _ _, rfl⟩

/-! ### CFENCE (05 R182) -/

/-- Groups that are tried again leave everything else as it was. -/
theorem pushed_retryGroups (s : State) : Pushed s s.retryGroups := by
  unfold State.retryGroups
  split
  · exact Pushed.push s _
  · exact Pushed.refl s

/-- The bits of REQ that stay, those whose DONE bit is set, joined with those written. -/
theorem cfence_bits (w v : Word) : ((w >>> 16) &&& 0xFFFF).toNat &&& (w.toNat % 65536) ||| v.toNat % 65536
    = (((w >>> 16) &&& w &&& 0xFFFF) ||| (v &&& 0xFFFF)).toNat := by
  have low : ∀ n : Nat, n % 65536 = n &&& 65535 := fun n => (Nat.and_two_pow_sub_one_eq_mod n 16).symm
  have ones : (0xFFFF : Word).toNat = 65535 := rfl
  rw [BitVec.toNat_or, BitVec.toNat_and, BitVec.toNat_and, BitVec.toNat_and, BitVec.toNat_and, ones, low, low]
  congr 1
  rw [Nat.and_assoc, Nat.and_comm 65535, Nat.and_assoc w.toNat, Nat.and_self, Nat.and_assoc]

theorem cfenceRequest_becomes {s : State} (h : s.canonical = true) (c : ClusterNo) (v : Word) :
    ∃ t es, exec (.cfenceRequest c v) s = .next { t with agenda := s.agenda ++ es } ∧
      RegBecomes s t (rCfence c.toNat) (setFld (s.rd (rCfence c.toNat)) 0 16
        (((s.rd (rCfence c.toNat) >>> 16) &&& s.rd (rCfence c.toNat) &&& 0xFFFF) ||| (v &&& 0xFFFF)).toNat) := by
  obtain ⟨es, tried⟩ := pushed_retryGroups (s.upd (rCfence c.toNat) fun w =>
    setFld w 0 16 (((w >>> 16) &&& 0xFFFF).toNat &&& (w.toNat % 65536) ||| v.toNat % 65536))
  refine ⟨_, es, congrArg Host.Outcome.next tried, ?_⟩
  rw [← cfence_bits]
  exact regBecomes_wr (State.canonical_fw h) _ _

/-! ### Marks (06 R203) -/

/-- What the allocator finds is what a mark attaches to. -/
theorem attachesTo_firstUnmarked (s : State) (c : Nat) : AttachesTo s c (s.firstUnmarked c) := by
  cases found : s.firstUnmarked c with
  | none => exact fun u waits => by simpa using List.find?_eq_none.mp found u waits
  | some t =>
    obtain ⟨unmarked, l, r, split_, before⟩ := List.find?_eq_some_iff_append.mp found
    exact ⟨l, r, split_, by simpa using unmarked, by simpa using before⟩

/-- With GO, LAMARK refuses a strand that holds no lane groups, is of another cluster, has a mark or holds no more than TARGET. -/
theorem exec_lamark_go (s : State) (c : ClusterNo) {v : Word} (go : bitOf v 63 = true) {t : Tid} (named : t = BitVec.ofNat 13 (fld v 0 13)) :
    exec (.lamark c v) s = .next (if (s.strand t).vec.lanes.length = 0 ∨ t.cluster ≠ c.toNat ∨ (s.strand t).mark ≠ none ∨
        (s.strand t).vec.lanes.length ≤ fld v 16 4 then s.wr (rLastat c.toNat) 1
      else (s.wr (rLastat c.toNat) 0).setMark t (fld v 16 4) (s.firstUnmarked c.toNat)) := by
  have refuses : (decide ((s.strand t).vec.lanes.length = 0) || !decide (t.cluster = c.toNat) || (s.strand t).mark.isSome
      || decide ((s.strand t).vec.lanes.length ≤ fld v 16 4)) = decide ((s.strand t).vec.lanes.length = 0 ∨ t.cluster ≠ c.toNat ∨
        (s.strand t).mark ≠ none ∨ (s.strand t).vec.lanes.length ≤ fld v 16 4) := by
    simp [Bool.or_assoc, ← Option.isSome_iff_ne_none]
  show execLamark c v s = _
  unfold execLamark
  simp only [← named, go, Bool.not_true, Bool.false_eq_true, if_false, refuses, State.firstUnmarked_wr, boolWord, decide_eq_true_eq]
  congr 1
  split
  · rfl
  · rfl

theorem lamark_refused {s : State} (h : s.canonical = true) (c : ClusterNo) {v : Word} (go : bitOf v 63 = true) {t : Tid}
    (named : t = BitVec.ofNat 13 (fld v 0 13))
    (bad : (s.strand t).vec.lanes.length = 0 ∨ t.cluster ≠ c.toNat ∨ (s.strand t).mark ≠ none ∨
      (s.strand t).vec.lanes.length ≤ fld v 16 4) : SetsReg (.lamark c v) s s (rLastat c.toNat) 1 :=
  setsReg_wr (State.canonical_fw h) ((exec_lamark_go s c go named).trans (by rw [if_pos bad])) rfl

theorem lamark_accepted {s : State} (h : s.canonical = true) (c : ClusterNo) {v : Word} (go : bitOf v 63 = true) {t : Tid}
    (named : t = BitVec.ofNat 13 (fld v 0 13)) (more : fld v 16 4 < (s.strand t).vec.lanes.length) (here : t.cluster = c.toNat)
    (unmarked : (s.strand t).mark = none) :
    ∃ a u, exec (.lamark c v) s = .next u ∧
      RegBecomes (s.onStrand t fun x => { x with mark := some ⟨fld v 16 4, s.sys.pool, a⟩ }) u (rLastat c.toNat) 0 ∧
      AttachesTo s c.toNat a := by
  have good : ¬ ((s.strand t).vec.lanes.length = 0 ∨ t.cluster ≠ c.toNat ∨ (s.strand t).mark ≠ none ∨
      (s.strand t).vec.lanes.length ≤ fld v 16 4) := by
    simp only [here, unmarked, ne_eq, not_true_eq_false, false_or]
    omega
  refine ⟨_, _, (exec_lamark_go s c go named).trans (by rw [if_neg good]), ?_, attachesTo_firstUnmarked s c.toNat⟩
  rw [State.setMark, State.onStrand_wr]
  exact regBecomes_wr (by rw [State.onStrand_fw]; exact State.canonical_fw h) _ _

/-! ### CSPLIT (11 R319) -/

/-- The lowest way that changes role starts inside the SRAM. -/
theorem sramKey_changedWays (c : Nat) {n m : Nat} (changes : n ≠ m) :
    sramKey c (0x20000 * (16 - max n m)) = 2 ^ 53 + 2 ^ 21 * c + 0x20000 * (16 - max n m) := by
  unfold sramKey
  omega

/-- The ways that change role are those between the old and the new boundary. -/
theorem changedWays_count {n m : Nat} (hn : n ≤ 16) (hm : m ≤ 16) : 16 - min n m - (16 - max n m) = max n m - min n m := by
  omega

theorem csplitApply_idle {s : State} (h : s.canonical = true) (c : ClusterNo) (idle : (s.clusterTids c.toNat).isEmpty = true)
    (changes : fld (s.rd (rCsplit c.toNat)) 0 5 ≠ (s.cluster c.toNat).l1Ways) :
    ∃ t, exec (.csplitApply c) s = .next t ∧
      let n := fld (s.rd (rCsplit c.toNat)) 0 5
      let m := (s.cluster c.toNat).l1Ways
      (n ≤ 16 → m ≤ 16 → Wiped s t.mem (2 ^ 53 + 2 ^ 21 * c.toNat + 0x20000 * (16 - max n m)) (0x20000 * (max n m - min n m))) ∧
      t = { s.onCluster c.toNat fun k => { k with l1 := [], l1Ways := n } with
        mem := t.mem, poison := t.poison, synd := t.synd } := by
  have applies : exec (.csplitApply c) s = _ := if_pos (by simp [idle, changes])
  refine ⟨_, applies, fun hn hm k => ?_, rfl⟩
  rw [← sramKey_changedWays c.toNat changes, ← changedWays_count hn hm]
  exact Memory.byte_clear _ _ _ _ (State.canonical_mem h)

/-! ### Substitution (12 R361) -/

/-- A lane group that nobody holds, in a cluster without words outside every context, has nothing to copy. -/
theorem copyLane_none {s : State} {c p : Nat} (l : Nat) (free : s.holderOf c p = none) (clean : (s.cluster c).stray = []) :
    s.copyLane c p l = s := by
  have unread : ∀ f, s.strayRead c f = s := fun f => if_pos (by rw [clean]; rfl)
  unfold State.copyLane
  simp only [free, unread]
  exact if_pos (by rw [clean]; rfl)

theorem substitutionDone_becomes {s : State} (h : s.canonical = true) (c : ClusterNo) (p : BitVec 3)
    (copying : (s.cluster c.toNat).copying.getLsbD p.toNat = true) :
    let r := rLgstat c.toNat p.toNat
    let u := s.copyLane c.toNat p.toNat (fld (s.rd r) 5 4)
    let w := u.rd r
    (s.holderOf c.toNat p.toNat = none → (s.cluster c.toNat).stray = [] → u = s) ∧
    ∃ t, exec (.substitutionDone c p) s = .next ((t.clusterTids c.toNat).foldl (fun u x => u.goOn x) t) ∧
      RegBecomes (u.onCluster c.toNat fun k => { k with copying := k.copying &&& ~~~(BitVec.ofNat 8 (2 ^ p.toNat)) }) t
        r (setBit (setFld (setBit w 4 true) 0 4 (fld w 5 4)) 9 false) := by
  intro r u w
  have fw : NMap.wf 0 u.fw = true := State.canonical_fw (State.canonical_copyLane h _ _ _)
  refine ⟨copyLane_none _, _, if_pos copying, ?_⟩
  exact regBecomes_wr (s := u.onCluster c.toNat _) fw _ _

end Sys2Proof.Machine
end

section
/-! The statement about the registers of a cluster. -/

namespace Sys2Proof.Machine

open Sys2Proof

/-- Settles O51: each clause is the lemma above about its register or its step. The substitution needs more than its own register: the reads
of the lane that it copies keep the table of registers canonical (`State.canonical_copyLane`). -/
theorem clusterRegisterWritesTakeEffect : Obligations.ClusterRegisterWritesTakeEffect := by
  intro s c p v h
  refine ⟨elogtailWrite_becomes h c v,
    fun unmarked => ⟨_, rfl, rfl, writeLgstat_unmarked h _ _ unmarked⟩,
    fun marked => ⟨_, rfl, rfl, writeLgstat_marked h _ _ marked⟩,
    fun enabled sram go calc_ => ⟨_, rfl, writeDschk_go h c enabled sram go calc_⟩,
    fun enabled go calc_ => ⟨_, rfl, writeDschk_calc h _ enabled go calc_⟩,
    fun disabled => ⟨fun asks => ⟨_, rfl, rfl, writeDschk_disabled h _ disabled asks⟩, dinjArm_disabled h c v disabled⟩,
    fun due tcm _ _ => diagnosticStore_tcm h c due tcm,
    dinjArm_report h c,
    ⟨_, rfl, regBecomes_wr (s := s.onCluster c.toNat _) (State.canonical_fw h) _ _⟩,
    cfenceRequest_becomes h c v,
    ⟨fun idle => if_pos (by simp [idle]), fun go => ⟨lamark_refused h c go rfl, lamark_accepted h c go rfl⟩⟩,
    csplitApply_idle h c,
    substitutionDone_becomes h c p,
    ?_⟩
  have own : BitVec.ofNat 7 c.toNat = c := by simp
  have writes := fun o ho aligned => registerWrite_alloc c (o := o) ho aligned v s
  have fw := State.canonical_fw h
  refine ⟨setsReg_wr fw (writes 0 (by decide) rfl) rfl, setsReg_wr fw (writes 0x340 (by decide) rfl) rfl, ?_, ?_,
    writes 0x7F8 (by decide) rfl⟩
  · rw [writes 0x350 (by decide) rfl]
    show execElogtailWrite (BitVec.ofNat 7 c.toNat) v s = execElogtailWrite c v s
    rw [own]
  · rw [writes 0x058 (by decide) rfl]
    show execCfenceRequest (BitVec.ofNat 7 c.toNat) v s = execCfenceRequest c v s
    rw [own]

end Sys2Proof.Machine
end

section
/-! SUPPORT. What it means that the states within an answer have their tables in canonical form, and the rules by which the form passes
through records, choices and folds. Each lemma `canonical_<function>` below says that the function of this name keeps the form. -/

namespace Sys2Proof.Machine

open Sys2Proof

/-- The state that an answer holds, if it holds one, is canonical. -/
def Result.Canonical : Result → Prop
  | .next t => t.canonical = true
  | _ => True

/-- A state, if there is one, is canonical. -/
def CanonicalOption : Option State → Prop
  | some t => t.canonical = true
  | none => True

/-- The state in which the work on an index ends is canonical. -/
def IdxRes.Canonical : IdxRes → Prop
  | .done t | .bad t _ | .wait t | .stop t => t.canonical = true

/-- The state in which the turn of a younger entry ends, if it does not stop the queue, is canonical. -/
def Younger.Canonical : Younger → Prop
  | .went t | .waits t => t.canonical = true
  | .stops => True

/-- The state in which an attempt to issue ends, if it has one, is canonical. -/
def Attempt.Canonical : Attempt → Prop
  | .issues r => Result.Canonical r
  | .passes t => t.canonical = true

theorem NMap.wf_foldl_set {α β : Type} [DecidableEq α] {d : α} {m : NMap α} (l : List β) (k : β → Nat) (v : β → α)
    (w : NMap.wf d m = true) : NMap.wf d (l.foldl (fun m b => NMap.set d m (k b) (v b)) m) = true := by
  induction l generalizing m with
  | nil => exact w
  | cons b l ih => exact ih (NMap.wf_set _ _ w)

theorem NMap.wf_foldl_copy {α β : Type} [DecidableEq α] {d : α} {m : NMap α} (l : List β) (k : β → Nat)
    (v : NMap α → β → α) (w : NMap.wf d m = true) : NMap.wf d (l.foldl (fun m b => NMap.set d m (k b) (v m b)) m) = true := by
  induction l generalizing m with
  | nil => exact w
  | cons b l ih => exact ih (NMap.wf_set _ _ w)

namespace State

variable {s : State}

theorem canonical_fst {α : Type} {p : State × α} {t : State} {a : α} (e : p = (t, a)) (h : p.1.canonical = true) : t.canonical = true := by
  rw [e] at h; exact h

theorem canonical_some {o : Option State} {t : State} (e : o = some t) (h : CanonicalOption o) : t.canonical = true := by
  rw [e] at h; exact h

theorem canonical_next {r : Result} {t : State} (e : r = .next t) (h : Result.Canonical r) : t.canonical = true := by
  rw [e] at h; exact h

theorem canonical_done {r : IdxRes} {t : State} (e : r = .done t) (h : r.Canonical) : t.canonical = true := by
  rw [e] at h; exact h

theorem canonical_bad {r : IdxRes} {t : State} {f : QFault} (e : r = .bad t f) (h : r.Canonical) : t.canonical = true := by
  rw [e] at h; exact h

theorem canonical_wait {r : IdxRes} {t : State} (e : r = .wait t) (h : r.Canonical) : t.canonical = true := by
  rw [e] at h; exact h

theorem canonical_stop {r : IdxRes} {t : State} (e : r = .stop t) (h : r.Canonical) : t.canonical = true := by
  rw [e] at h; exact h

theorem canonical_went {r : Younger} {t : State} (e : r = .went t) (h : r.Canonical) : t.canonical = true := by
  rw [e] at h; exact h

theorem canonical_waits {r : Younger} {t : State} (e : r = .waits t) (h : r.Canonical) : t.canonical = true := by
  rw [e] at h; exact h

/-- An update of fields other than the five tables. -/
theorem canonical_update {tid me others clusters cores sys net time cycle agenda ir eager fresh} (h : s.canonical = true) :
    State.canonical ⟨tid, me, others, s.mem, s.poison, s.synd, s.lineKey, s.fw, clusters, cores, sys, net, time, cycle, agenda, ir, eager,
      fresh⟩ = true := h

/-- A write to the tables: each new table has the form. -/
theorem canonical_of_wf {tid me others clusters cores sys net time cycle agenda ir eager fresh} {m : Memory} {p : NMap Bool} {y : NMap Byte}
    {l : NMap Nat} {f : NMap Word} (mem : m.wf = true) (poison : NMap.wf false p = true) (synd : NMap.wf 0 y = true)
    (lineKey : NMap.wf 0 l = true) (fw : NMap.wf 0 f = true) :
    State.canonical ⟨tid, me, others, m, p, y, l, f, clusters, cores, sys, net, time, cycle, agenda, ir, eager, fresh⟩ = true := by
  simp only [State.canonical, Bool.and_eq_true]
  exact ⟨⟨⟨⟨mem, poison⟩, synd⟩, lineKey⟩, fw⟩

theorem canonical_poison (h : s.canonical = true) : NMap.wf false s.poison = true := by
  simp only [State.canonical, Bool.and_eq_true] at h; exact h.1.1.1.2

theorem canonical_synd (h : s.canonical = true) : NMap.wf 0 s.synd = true := by
  simp only [State.canonical, Bool.and_eq_true] at h; exact h.1.1.2

theorem canonical_lineKey (h : s.canonical = true) : NMap.wf 0 s.lineKey = true := by
  simp only [State.canonical, Bool.and_eq_true] at h; exact h.1.2

/-- `canonical_foldl` with the list and the function taken from the goal. -/
theorem canonical_folded {α : Type} {f : State → α → State} {l : List α} (h : s.canonical = true)
    (keeps : ∀ u a, u.canonical = true → (f u a).canonical = true) : (l.foldl f s).canonical = true := canonical_foldl keeps l h

/-- `canonical_within` with the context and the function taken from the goal. -/
theorem canonical_inside {t : Tid} {f : State → State} (h : s.canonical = true)
    (keeps : ∀ u : State, u.canonical = true → (f u).canonical = true) : (s.within t f).canonical = true := canonical_within h t keeps

theorem canonical_iteFst {α : Type} {p : Prop} [Decidable p] {a b : State × α} (ha : a.1.canonical = true) (hb : b.1.canonical = true) :
    (if p then a else b).1.canonical = true := by
  split
  · exact ha
  · exact hb

theorem canonical_choice {p : Prop} [Decidable p] {a b : Result} (ha : Result.Canonical a) (hb : Result.Canonical b) :
    Result.Canonical (if p then a else b) := by
  split
  · exact ha
  · exact hb

theorem canonical_iteOption {p : Prop} [Decidable p] {a b : Option State} (ha : CanonicalOption a) (hb : CanonicalOption b) :
    CanonicalOption (if p then a else b) := by
  split
  · exact ha
  · exact hb

theorem canonical_iteSome {p : Prop} [Decidable p] {a b : State} (ha : a.canonical = true) (hb : b.canonical = true) :
    CanonicalOption (some (if p then a else b)) := canonical_ite ha hb

theorem canonical_foldedPair {α β : Type} {f : State × β → α → State × β} {l : List α} {b : β} (h : s.canonical = true)
    (keeps : ∀ (u : State × β) a, u.1.canonical = true → (f u a).1.canonical = true) : (l.foldl f (s, b)).1.canonical = true := by
  generalize hp : (s, b) = p
  replace h : p.1.canonical = true := by rw [← hp]; exact h
  clear hp
  induction l generalizing p with
  | nil => exact h
  | cons a l ih => exact ih _ (keeps _ a h)

theorem canonical_map {o : Option State} {f : State → State} (h : CanonicalOption o)
    (keeps : ∀ u : State, u.canonical = true → (f u).canonical = true) : CanonicalOption (o.map f) := by
  cases o with
  | none => trivial
  | some t => exact keeps t h

theorem canonical_mapFst {α : Type} {o : Option (State × α)} {f : State × α → State}
    (h : ∀ t a, o = some (t, a) → t.canonical = true) (keeps : ∀ (t : State) a, t.canonical = true → (f (t, a)).canonical = true) :
    CanonicalOption (o.map f) := by
  cases o with
  | none => trivial
  | some t => exact keeps t.1 t.2 (h t.1 t.2 rfl)

end State

end Sys2Proof.Machine
end

section
/-! SUPPORT. Register updates, caches, error correction, translation and accesses keep the tables canonical. -/

namespace Sys2Proof.Machine.State

open Sys2Proof

variable {s : State}

theorem canonical_setStrand {t x} (h : s.canonical = true) : (s.setStrand t x).canonical = true := canonical_ite h h

theorem canonical_onStrand {t f} (h : s.canonical = true) : (s.onStrand t f).canonical = true := canonical_setStrand h

theorem canonical_onMe {f} (h : s.canonical = true) : (s.onMe f).canonical = true := h

theorem canonical_onCore {c f} (h : s.canonical = true) : (s.onCore c f).canonical = true := h

theorem canonical_onSys {f} (h : s.canonical = true) : (s.onSys f).canonical = true := h

theorem canonical_push {e} (h : s.canonical = true) : (s.push e).canonical = true := h

theorem canonical_pushFront {es} (h : s.canonical = true) : (s.pushFront es).canonical = true := h

theorem canonical_pushAll {es} (h : s.canonical = true) : (s.pushAll es).canonical = true := h

theorem canonical_free (h : s.canonical = true) : s.free.2.canonical = true := h

theorem canonical_setReg {r v} (h : s.canonical = true) : (s.setReg r v).canonical = true := h

theorem canonical_onCtl {f} (h : s.canonical = true) : (s.onCtl f).canonical = true := h

theorem canonical_retire {len d} (h : s.canonical = true) : (s.retire len d).canonical = true := h

theorem canonical_writeReg {len d v} (h : s.canonical = true) : (s.writeReg len d v).canonical = true := h

theorem canonical_writeRegV {len d v} (h : s.canonical = true) : (s.writeRegV len d v).canonical = true := h

theorem canonical_raiseF {f} (h : s.canonical = true) : (s.raiseF f).canonical = true := h

theorem canonical_raiseI {f} (h : s.canonical = true) : (s.raiseI f).canonical = true := h

theorem canonical_scDone {t} (h : s.canonical = true) : (s.scDone t).canonical = true := canonical_ite h h

theorem canonical_takeTrap {t} (h : s.canonical = true) : (s.takeTrap t).canonical = true :=
  canonical_onMe (canonical_scDone h)

theorem canonical_trap {t} (h : s.canonical = true) : Result.Canonical (s.trap t) := canonical_takeTrap h

theorem canonical_takeQueuedTrap {t f} (h : s.canonical = true) : (s.takeQueuedTrap t f).canonical = true :=
  canonical_onStrand h

theorem canonical_setFnevt {f k} (h : s.canonical = true) : (s.setFnevt f k).canonical = true :=
  canonical_ite (canonical_push (canonical_wr h ..)) (canonical_wr h ..)

theorem canonical_logDie {d r} (h : s.canonical = true) : (s.logDie d r).canonical = true :=
  canonical_ite (canonical_onSys (canonical_ringRecord h ..)) (canonical_ringRecord h ..)

theorem canonical_mscAccess {part pa keyId fills write} (h : s.canonical = true) :
    (s.mscAccess part pa keyId fills write).canonical = true := by
  unfold State.mscAccess
  split
  · extract_lets k set put old s1 rest s2
    clear_value old
    have h1 : s1.canonical = true := by
      unfold s1
      split
      · exact canonical_ite (canonical_pushAll h) h
      · exact h
    have h2 : s2.canonical = true := canonical_ite h1 (canonical_pushAll h1)
    split
    · exact canonical_onSys h
    split
    · exact canonical_pushAll (canonical_onSys h1)
    · extract_lets s3
      have h3 : s3.canonical = true := by
        unfold s3
        split
        · exact canonical_ite (canonical_pushAll h2) h2
        · exact h2
      exact canonical_onSys h3
  · exact canonical_pushAll h

theorem canonical_evict {l} (h : s.canonical = true) : (s.evict l).canonical = true :=
  canonical_ite (canonical_mscAccess h) h

theorem canonical_l2Fill {d part pa keyId dirty} (h : s.canonical = true) : (s.l2Fill d part pa keyId dirty).1.canonical = true := by
  unfold State.l2Fill
  simp only
  split
  · exact canonical_ite (canonical_mscAccess h) h
  split
  · exact canonical_evict h
  · exact h

theorem canonical_l2Home {part pa keyId fills write} (h : s.canonical = true) :
    (s.l2Home part pa keyId fills write).canonical = true := by
  unfold State.l2Home
  simp only
  split
  · exact h
  split
  · refine canonical_l2Fill ?_
    refine canonical_mscAccess ?_
    split
    · exact canonical_onSys (canonical_evict h)
    · exact h
  split
  · refine canonical_mscAccess ?_
    refine canonical_mscAccess ?_
    split
    · exact canonical_onSys (canonical_evict h)
    · exact h
  · refine canonical_mscAccess ?_
    split
    · exact canonical_onSys (canonical_evict h)
    · exact h

theorem canonical_cacheRead {die part pa home keyId fills copies} (h : s.canonical = true) :
    (s.cacheRead die part pa home keyId fills copies).canonical = true := by
  unfold State.cacheRead
  simp only
  split
  · exact canonical_l2Home h
  split
  · exact canonical_l2Home h
  split
  · exact h
  split
  · exact canonical_l2Home (canonical_ite h h)
  split
  · next e => exact canonical_onSys (canonical_fst e (canonical_l2Fill (canonical_l2Home (canonical_ite h h))))
  · next e => exact canonical_fst e (canonical_l2Fill (canonical_l2Home (canonical_ite h h)))

theorem canonical_cacheWrite {part pa keyId fills} (h : s.canonical = true) : (s.cacheWrite part pa keyId fills).canonical = true :=
  canonical_l2Home h

theorem canonical_dropReplicas {l} (h : s.canonical = true) : (s.dropReplicas l).canonical = true := h

theorem canonical_flushLines {gone} (h : s.canonical = true) : (s.flushLines gone).canonical = true := h

theorem canonical_flushMscWays {d w} (h : s.canonical = true) : (s.flushMscWays d w).canonical = true := h

theorem canonical_flushL2Off (h : s.canonical = true) : s.flushL2Off.canonical = true :=
  canonical_onSys (canonical_folded h fun _ _ hu => canonical_evict hu)

theorem canonical_moveLine {fr to_} (h : s.canonical = true) : (s.moveLine fr to_).canonical = true := h

theorem canonical_logWord {t sev syn k enc} (h : s.canonical = true) : (s.logWord t sev syn k enc).canonical = true :=
  canonical_ite (canonical_logCluster h ..) (canonical_logDie h)

theorem canonical_eccWord {t k} (h : s.canonical = true) : (s.eccWord t k).canonical = true := by
  unfold State.eccWord
  extract_lets w y cleared
  split
  · exact h
  · have hc : cleared.canonical = true :=
      canonical_of_wf (canonical_mem h) (canonical_poison h) (NMap.wf_set _ _ (canonical_synd h)) (canonical_lineKey h) (canonical_fw h)
    split
    · exact canonical_logWord hc
    · exact canonical_logWord (canonical_of_wf (Memory.wf_setByte _ _ (canonical_mem hc)) (canonical_poison hc) (canonical_synd hc)
        (canonical_lineKey hc) (canonical_fw hc))
    · exact canonical_logWord (canonical_of_wf (canonical_mem hc) (NMap.wf_set _ _ (canonical_poison hc)) (canonical_synd hc)
        (canonical_lineKey hc) (canonical_fw hc))

theorem canonical_logTag {t d sev syn pa} (h : s.canonical = true) : (s.logTag t d sev syn pa).canonical = true :=
  canonical_logDie h

theorem canonical_tagCheck {t d pa} (h : s.canonical = true) : (s.tagCheck t d pa).canonical = true := by
  unfold State.tagCheck
  simp only
  split
  · exact h
  split
  · split
    · exact canonical_logTag (canonical_onSys (canonical_of_wf (canonical_mem h) (NMap.wf_foldl_set _ _ _ (canonical_poison h))
        (canonical_synd h) (canonical_lineKey h) (canonical_fw h)))
    · exact canonical_logTag h
  · exact canonical_logTag h

theorem canonical_ecc {t k n} (h : s.canonical = true) : (s.ecc t k n).canonical = true :=
  canonical_ite h (canonical_folded h fun _ _ hu => canonical_eccWord hu)

theorem canonical_tagChecks {t k} (h : s.canonical = true) : (s.tagChecks t k).canonical = true := by
  unfold State.tagChecks
  simp only
  split
  · exact canonical_ite (canonical_tagCheck h) (canonical_tagCheck (canonical_tagCheck h))
  · exact canonical_tagCheck h

theorem canonical_lineCheck {t k n} (h : s.canonical = true) : (s.lineCheck t k n).canonical = true :=
  canonical_ite (canonical_ecc (canonical_tagChecks h)) (canonical_ecc (canonical_tagChecks h))

theorem canonical_noteLeaf {a va leaf big} (h : s.canonical = true) : (s.noteLeaf a va leaf big).canonical = true :=
  canonical_ite h h

theorem canonical_walkTouch {a va} (h : s.canonical = true) : (s.walkTouch a va).canonical = true :=
  canonical_ite (canonical_folded h fun _ _ hu => canonical_cacheRead (canonical_lineCheck hu)) h

theorem canonical_noteWalk {a va leaf big} (h : s.canonical = true) : (s.noteWalk a va leaf big).canonical = true :=
  canonical_noteLeaf (canonical_ite h (canonical_walkTouch h))

theorem canonical_noteAccess {a addr ns} (h : s.canonical = true) : (s.noteAccess a addr ns).canonical = true := by
  induction ns generalizing s addr with
  | nil => exact h
  | cons n ns ih =>
    refine ih ?_
    split
    · split
      · exact canonical_noteWalk h
      · exact canonical_walkTouch h
    · exact h

theorem canonical_logEntry {a die pa} (h : s.canonical = true) : (s.logEntry a die pa).canonical = true :=
  canonical_logDie h

theorem canonical_noteFailed {a addr len a'} (h : s.canonical = true) : (s.noteFailed a addr len a').canonical = true := by
  unfold State.noteFailed
  split
  · exact canonical_ite h (canonical_noteAccess h)
  · exact canonical_noteAccess h

theorem canonical_failure {a addr len b t c} (h : s.canonical = true) (e : s.failure a addr len b = some (t, c)) :
    t.canonical = true := by
  unfold State.failure at e
  split at e
  · cases e
    exact canonical_noteFailed h
  · cases e
    exact canonical_logEntry (canonical_noteFailed h)
  · cases e

theorem canonical_failScalar {addr len f} (h : s.canonical = true) : Result.Canonical (s.failScalar addr len f) := by
  unfold State.failScalar
  split
  · next e => exact canonical_trap (canonical_failure h e)
  · exact h

theorem canonical_injected {t k} (h : s.canonical = true) : (s.injected t k).1.canonical = true := by
  unfold State.injected
  simp only
  split
  · split
    · exact canonical_logCluster (canonical_wr h ..) ..
    · exact h
  · exact h

theorem canonical_eccEdges {who k n} (h : s.canonical = true) : (s.eccEdges who k n).canonical = true := by
  unfold State.eccEdges
  extract_lets whole s1
  have checked : s1.canonical = true := canonical_foldl (fun _ _ hu => canonical_eccWord hu) _ h
  exact canonical_of_wf (canonical_mem checked) (canonical_poison checked) (NMap.wfFrom_filter _ (canonical_synd checked))
    (canonical_lineKey checked) (canonical_fw checked)

theorem canonical_rekey {mat k} (h : s.canonical = true) : (s.rekey mat k).canonical = true :=
  canonical_ite h (canonical_of_wf (Memory.wf_setBytes _ _ (canonical_mem h)) (canonical_poison h) (canonical_synd h)
    (NMap.wf_set _ _ (canonical_lineKey h)) (canonical_fw h))

theorem wf_clearPoison {m : NMap Bool} (k n : Nat) (w : NMap.wf false m = true) : NMap.wf false (clearPoison m k n) = true := by
  unfold clearPoison
  split
  · exact w
  · exact NMap.wfFrom_filter _ w

theorem canonical_homeWrite {who keyId k bs} (h : s.canonical = true) : (s.homeWrite who keyId k bs).canonical = true := by
  unfold State.homeWrite
  extract_lets s0 s1 s2 s3
  have looked : s0.canonical = true := canonical_ite (canonical_tagChecks h) h
  have checked : s1.canonical = true := canonical_ite looked (canonical_eccEdges looked)
  have keyed : s2.canonical = true := canonical_ite (canonical_rekey checked) checked
  have written : s3.canonical = true := canonical_of_wf (Memory.wf_setBytes _ _ (canonical_mem keyed))
    (wf_clearPoison _ _ (canonical_poison keyed)) (canonical_synd keyed) (canonical_lineKey keyed) (canonical_fw keyed)
  exact canonical_ite written (canonical_dropReplicas written)

theorem canonical_l1Load {a p} (h : s.canonical = true) : (s.l1Load a p).canonical = true := by
  unfold State.l1Load
  extract_lets cn c k set filled
  split
  · exact h
  · have hf : filled.canonical = true := canonical_ite (canonical_ecc h) h
    split
    · exact hf
    split
    · exact hf
    · exact canonical_onCluster hf ..

theorem canonical_logL1 {a inj pa l syn} (h : s.canonical = true) : (s.logL1 a inj pa l syn).canonical = true :=
  canonical_logCluster h ..

theorem canonical_l1Store {cn pa bs} (h : s.canonical = true) : (s.l1Store cn pa bs).canonical = true := by
  unfold State.l1Store
  split
  · exact h
  · exact h

theorem canonical_l1Drop {cn pa} (h : s.canonical = true) : (s.l1Drop cn pa).canonical = true := canonical_ite h h

theorem canonical_l1EccWord {a pa} (h : s.canonical = true) : (s.l1EccWord a pa).canonical = true := by
  unfold State.l1EccWord
  simp only
  split
  · exact h
  split
  · exact h
  split
  · exact canonical_logL1 h
  · exact canonical_logL1 h
  · exact canonical_l1Drop (canonical_logL1 h)

theorem canonical_l1Ecc {a l1 p n} (h : s.canonical = true) : (s.l1Ecc a l1 p n).canonical = true :=
  canonical_ite (canonical_folded h fun _ _ hu => canonical_l1EccWord hu) h

theorem canonical_advanceGen {cn} (h : s.canonical = true) : (s.advanceGen cn).canonical = true := h

theorem canonical_acquire {cn sc} (h : s.canonical = true) : (s.acquire cn sc).canonical = true := canonical_ite h h

theorem canonical_replyBack {c r} (h : s.canonical = true) : (s.replyBack c r).canonical = true := h

theorem canonical_replied {a p} (h : s.canonical = true) : (s.replied a p).canonical = true := canonical_ite h h

theorem canonical_noteReplica {a p} (h : s.canonical = true) : (s.noteReplica a p).canonical = true :=
  canonical_cacheRead (canonical_ite (canonical_ecc h) h)

theorem canonical_afterRead {a l1 p} (h : s.canonical = true) : (s.afterRead a l1 p).canonical = true :=
  canonical_ite (canonical_ite (canonical_l1Load (canonical_ite h (canonical_noteReplica h))) (canonical_noteReplica h)) h

theorem canonical_storeLine {a p} (h : s.canonical = true) : (s.storeLine a p).canonical = true :=
  canonical_ite h (canonical_cacheWrite (canonical_ite h (canonical_ecc h)))

theorem canonical_mergeAll (h : s.canonical = true) : s.mergeAll.canonical = true := by
  unfold State.mergeAll
  refine canonical_foldl (fun u m hu => ?_) _ (canonical_onSys h)
  exact canonical_cacheWrite (canonical_update (canonical_ecc hu))

theorem canonical_writePlace {a l1 p bs} (h : s.canonical = true) : (s.writePlace a l1 p bs).canonical = true := by
  unfold State.writePlace
  split
  · exact canonical_wr h ..
  · split
    · exact h
    · exact h
    · exact h
  · exact h
  · exact canonical_homeWrite h
  · exact canonical_homeWrite h
  · exact h
  · exact h
  · exact canonical_storeLine (canonical_homeWrite (canonical_ite (canonical_l1Store h) h))
  · exact canonical_storeLine (canonical_homeWrite (canonical_ite (canonical_l1Store h) h))
  · exact canonical_storeLine (canonical_homeWrite (canonical_ite (canonical_l1Store h) h))

end Sys2Proof.Machine.State
end

section
/-! SUPPORT. Barriers, fetch, traps, control registers and the assignment of lanes keep the tables canonical. -/

namespace Sys2Proof.Machine.State

open Sys2Proof

variable {s : State}

theorem canonical_barwReturn {t k} (h : s.canonical = true) : (s.barwReturn t k).canonical = true :=
  canonical_onStrand h

theorem canonical_wakeBarw {k ts} (h : s.canonical = true) : (s.wakeBarw k ts).canonical = true := by
  induction ts generalizing s with
  | nil => exact h
  | cons t ts ih => exact ih (canonical_ite (canonical_barwReturn h) h)

theorem canonical_barrierArrive {c k} (h : s.canonical = true) : (s.barrierArrive c k).canonical = true :=
  canonical_ite h (canonical_wakeBarw h)

theorem canonical_barrierMark {t k} (h : s.canonical = true) : (s.barrierMark t k).canonical = true := h

theorem canonical_clearMarks {t} (h : s.canonical = true) : (s.clearMarks t).canonical = true := h

theorem canonical_fetchLine {p} (h : s.canonical = true) : (s.fetchLine p).1.canonical = true := by
  unfold State.fetchLine
  simp only
  split
  · exact h
  · exact canonical_replied (canonical_lineCheck h)

theorem canonical_fetchParcel {pc} (h : s.canonical = true) : (s.fetchParcel pc).1.canonical = true := by
  have h0 : (s.noteAccess s.agent pc [2]).canonical = true := canonical_noteAccess h
  unfold State.fetchParcel
  split
  · exact h
  · exact canonical_logEntry h0
  · exact canonical_ite h0 h
  · extract_lets s0 parcel
    split
    · exact h0
    · refine canonical_iteFst h0 ?_
      split
      · next e => exact canonical_fst e (canonical_fetchLine h0)
      · next e =>
        have h1 := canonical_fst e (canonical_fetchLine h0)
        exact canonical_onMe (canonical_onCore (canonical_ite h1 (canonical_noteReplica h1)))

theorem canonical_fetchParcels {pc n} (h : s.canonical = true) : (s.fetchParcels pc n).1.canonical = true := by
  induction n generalizing s pc with
  | zero => exact h
  | succ n ih =>
    unfold State.fetchParcels
    split
    · next e => exact canonical_fst e (canonical_fetchParcel h)
    · next e =>
      have h1 := canonical_fst e (canonical_fetchParcel h)
      split
      · next e1 => exact canonical_fst e1 (ih h1)
      · next e1 => exact canonical_fst e1 (ih h1)

theorem canonical_fetch (h : s.canonical = true) : s.fetch.1.canonical = true := by
  unfold State.fetch
  split
  · next e => exact canonical_fst e (canonical_fetchParcel h)
  · next e =>
    split
    · next e1 => exact canonical_fst e1 (canonical_fetchParcels (canonical_fst e (canonical_fetchParcel h)))
    · next e1 => exact canonical_fst e1 (canonical_fetchParcels (canonical_fst e (canonical_fetchParcel h)))

theorem canonical_fetchFault {addr} (h : s.canonical = true) : (s.fetchFault addr).canonical = true :=
  canonical_ite h (canonical_takeTrap h)

theorem canonical_tick (h : s.canonical = true) : s.tick.canonical = true := h

theorem canonical_ctlWrite {n f} (h : s.canonical = true) : Result.Canonical (s.ctlWrite n f) := by
  unfold State.ctlWrite
  simp only
  split
  · exact canonical_trap h
  split
  · exact h
  split
  · exact h
  · exact canonical_trap h

theorem canonical_execRdc {d n} (h : s.canonical = true) : Result.Canonical (execRdc d n s) := by
  unfold execRdc
  split
  · exact canonical_trap h
  split
  · exact h
  · exact h

theorem canonical_execFcvtToInt {d a c t r} (h : s.canonical = true) : Result.Canonical (execFcvtToInt d a c t r s) := by
  unfold execFcvtToInt
  simp only
  split
  · exact h
  · exact canonical_trap h

theorem canonical_leaveSuspended {t} (h : s.canonical = true) : (s.leaveSuspended t).canonical = true := h

theorem canonical_detach {t} (h : s.canonical = true) : (s.detach t).canonical = true :=
  canonical_folded h fun _ _ hu => canonical_onStrand hu

theorem canonical_leaveWaiting {t} (h : s.canonical = true) : (s.leaveWaiting t).canonical = true := h

theorem canonical_reserve {t ls} (h : s.canonical = true) : (s.reserve t ls).canonical = true :=
  canonical_push (canonical_onStrand h)

theorem canonical_serve {t first} (h : s.canonical = true) : (s.serve t first).canonical = true := by
  unfold State.serve
  extract_lets x
  generalize x.run = r
  cases r with
  | suspended w =>
    refine canonical_ite h ?_
    split
    · exact canonical_push (canonical_detach (canonical_leaveSuspended (canonical_onStrand h)))
    · exact h
  | parked p =>
    cases p with
    | grant =>
      dsimp only
      split
      · exact canonical_push (canonical_detach (canonical_leaveWaiting (canonical_onStrand h)))
      · exact h
    | relocate =>
      dsimp only
      split
      · exact canonical_detach (canonical_leaveWaiting (canonical_reserve h))
      · exact h
    | _ => exact h
  | _ => exact h

theorem canonical_assignLanes {c first} (h : s.canonical = true) : (s.assignLanes c first).canonical = true := by
  unfold State.assignLanes
  simp only
  refine canonical_folded ?_ fun u a hu => ?_
  · refine canonical_folded ?_ fun u a hu => ?_
    · split
      · exact canonical_serve h
      · exact h
    · exact canonical_serve hu
  · exact canonical_serve hu

theorem canonical_noteWait {c} (h : s.canonical = true) : (s.noteWait c).canonical = true := by
  unfold State.noteWait
  extract_lets n s1
  have h1 : s1.canonical = true := canonical_folded h fun _ _ hu => canonical_onStrand hu
  exact canonical_ite h1 (canonical_onCluster h1 ..)

end Sys2Proof.Machine.State
end

section
/-! SUPPORT. Scalar accesses, atomics, lanes and their checks keep the tables canonical. -/

namespace Sys2Proof.Machine.State

open Sys2Proof

variable {s : State}

theorem canonical_onPort {p f} (h : s.canonical = true) : (s.onPort p f).canonical = true := h

theorem canonical_sendFlit {x} (h : s.canonical = true) : (s.sendFlit x).canonical = true := by
  unfold State.sendFlit
  split
  · exact h
  · exact h

theorem canonical_request {n tenant tag b} (h : s.canonical = true) : (s.request n tenant tag b).canonical = true :=
  canonical_sendFlit h

theorem canonical_l1Injected {a l1 p} (h : s.canonical = true) : (s.l1Injected a l1 p).canonical = true := by
  unfold State.l1Injected
  simp only
  split
  · exact h
  split
  · exact h
  · exact canonical_ite (canonical_l1Drop (canonical_logL1 (canonical_wr h ..))) (canonical_logL1 (canonical_wr h ..))

theorem canonical_noteSeen {a l1 p n} (h : s.canonical = true) : (s.noteSeen a l1 p n).canonical = true :=
  canonical_ite h (canonical_ite h (canonical_onStrand h))

theorem canonical_readParts {a l1 addr ps} (h : s.canonical = true) : (s.readParts a l1 addr ps).1.canonical = true := by
  induction ps generalizing s addr with
  | nil => exact h
  | cons part r ih =>
    unfold State.readParts
    extract_lets i s1 q
    have hi : i.1.canonical = true := canonical_injected (canonical_noteSeen (canonical_l1Ecc (canonical_l1Injected h)))
    have h1 : s1.canonical = true := canonical_ite (canonical_replied h) (canonical_ite hi
      (canonical_ite (canonical_replied (canonical_lineCheck hi)) (canonical_replied (canonical_ecc hi))))
    split
    · exact h1
    split
    · next e => exact canonical_fst e (ih (canonical_afterRead h1))
    · next e => exact canonical_fst e (ih (canonical_afterRead h1))

theorem canonical_sendStore {a node va bs} (h : s.canonical = true) : (s.sendStore a node va bs).1.canonical = true :=
  canonical_update (canonical_request h)

theorem canonical_notePosted {a tag pa} (h : s.canonical = true) : (s.notePosted a tag pa).canonical = true := by
  unfold State.notePosted
  split
  · exact canonical_onStrand h
  · exact canonical_onStrand h
  · exact h

theorem canonical_writeParts {a l1 ps bs} (h : s.canonical = true) : (s.writeParts a l1 ps bs).canonical = true := by
  induction ps generalizing s bs with
  | nil => exact h
  | cons part r ih =>
    refine ih ?_
    split
    · exact canonical_notePosted (canonical_sendStore h)
    · exact canonical_replied (canonical_writePlace h)

theorem canonical_sendPend {a p} (h : s.canonical = true) : (s.sendPend a p).1.canonical = true := by
  unfold State.sendPend
  simp only
  split
  · split
    · split
      · exact h
      · exact h
    · exact canonical_request h
    · exact h
  · exact h

theorem canonical_beginWait {a p} (h : s.canonical = true) : (s.beginWait a p).canonical = true :=
  canonical_onStrand (canonical_sendPend h)

theorem canonical_issued {len p} (h : s.canonical = true) : (s.issued len p).canonical = true :=
  canonical_retire (canonical_ite (canonical_beginWait h) (canonical_push (canonical_onMe (canonical_update h))))

theorem canonical_loadOp {len d addr n signed} (h : s.canonical = true) : Result.Canonical (s.loadOp len d addr n signed) := by
  unfold State.loadOp
  simp only
  split
  · exact h
  split
  · exact canonical_failScalar h
  split
  · exact h
  · exact canonical_writeReg (canonical_noteAccess h)
  split
  · split
    · next e => exact canonical_writeReg (canonical_fst e (canonical_readParts (canonical_noteAccess h)))
    · next e => exact canonical_trap (canonical_fst e (canonical_readParts (canonical_noteAccess h)))
  · exact canonical_issued (canonical_noteAccess h)

theorem canonical_sendParts {a ps} (h : s.canonical = true) : (s.sendParts a ps).1.canonical = true := by
  induction ps generalizing s with
  | nil => exact h
  | cons part r ih =>
    unfold State.sendParts
    split
    · exact ih (canonical_writeParts h)
    split
    · exact ih (canonical_sendStore h)
    · exact ih (canonical_ite (canonical_l1Store h) h)

theorem canonical_sendEntry {t i e} (h : s.canonical = true) : (s.sendEntry t i e).canonical = true := by
  unfold State.sendEntry
  extract_lets r here s1 s2
  have h2 : s2.canonical = true := canonical_update (canonical_onStrand (canonical_sendParts h))
  exact canonical_ite (canonical_push h2) (canonical_ite (canonical_push h2) h2)

theorem canonical_storeOp {len addr n v} (h : s.canonical = true) : Result.Canonical (s.storeOp len addr n v) := by
  unfold State.storeOp
  refine canonical_choice h ?_
  split
  · exact canonical_failScalar h
  · extract_lets s1 bs bell count here e s2
    have h1 : s1.canonical = true := canonical_noteAccess h
    have h2 : s2.canonical = true := canonical_retire (canonical_onMe (canonical_update h1))
    refine canonical_choice h (canonical_choice (canonical_retire (canonical_writeParts h1)) (canonical_choice h
      (canonical_choice (canonical_onMe h) ?_)))
    exact canonical_ite (canonical_sendEntry h2) (canonical_push h2)

theorem canonical_execCLdd {d k} (h : s.canonical = true) : Result.Canonical (execCLdd d k s) := by
  unfold execCLdd
  split
  · exact canonical_loadOp h
  · exact canonical_trap h

theorem canonical_execCLdw {d k} (h : s.canonical = true) : Result.Canonical (execCLdw d k s) := by
  unfold execCLdw
  split
  · exact canonical_loadOp h
  · exact canonical_trap h

theorem canonical_execCStd {d k} (h : s.canonical = true) : Result.Canonical (execCStd d k s) := by
  unfold execCStd
  split
  · exact canonical_storeOp h
  · exact canonical_trap h

theorem canonical_dieBarAtomic {p acc} (h : s.canonical = true) : (s.dieBarAtomic p acc).1.canonical = true := by
  unfold State.dieBarAtomic
  simp only
  split
  · exact canonical_ite (canonical_wr h ..) (canonical_wr h ..)
  · exact h

theorem canonical_atomicAt {a p acc} (h : s.canonical = true) : (s.atomicAt a p acc).1.canonical = true := by
  unfold State.atomicAt
  extract_lets s0 r i s1 s2
  have h0 : s0.canonical = true := canonical_replied h
  have hi : i.1.canonical = true := canonical_injected h0
  have h1 : s1.canonical = true := canonical_ite (canonical_lineCheck hi) (canonical_ecc hi)
  have h2 : s2.canonical = true := canonical_ite (canonical_l1Drop h1) h1
  refine canonical_iteFst (canonical_iteFst (canonical_dieBarAtomic h0) h0) ?_
  split
  · exact h2
  · refine canonical_iteFst h2 ?_
    dsimp only
    split
    · exact canonical_writePlace h2
    · exact canonical_ite (canonical_cacheRead h2) h2

theorem canonical_completeAccess {p} (h : s.canonical = true) : (s.completeAccess p).canonical = true :=
  canonical_setReg (canonical_ite (canonical_acquire h) h)

theorem canonical_atomicOp {d a n f acc o sc} (h : s.canonical = true) : Result.Canonical (s.atomicOp d a n f acc o sc) := by
  unfold State.atomicOp
  simp only
  split
  · exact h
  split
  · exact canonical_trap h
  split
  · exact canonical_failScalar h
  split
  · exact h
  split
  · split
    · split
      · next e => exact canonical_retire (canonical_completeAccess (canonical_fst e (canonical_atomicAt (canonical_noteAccess h))))
      · next e => exact canonical_trap (canonical_fst e (canonical_atomicAt (canonical_noteAccess h)))
    · exact canonical_issued (canonical_noteAccess h)
  · exact canonical_noteAccess h

theorem canonical_amoOp {d a b n op o sc} (h : s.canonical = true) : Result.Canonical (s.amoOp d a b n op o sc) :=
  canonical_atomicOp h

theorem canonical_casOp {d a b n o sc} (h : s.canonical = true) : Result.Canonical (s.casOp d a b n o sc) :=
  canonical_atomicOp h

theorem canonical_fire (h : s.canonical = true) : s.fire.canonical = true := canonical_upd h ..

theorem canonical_decideAt {unit lane x en} (h : s.canonical = true) : (s.decideAt unit lane x en).1.canonical = true := by
  unfold State.decideAt
  simp only
  split
  · split
    · split
      · exact canonical_fire h
      · exact canonical_fire h
    · exact h
  · exact h

theorem canonical_reportLocated {unit lane chan at_ inj} (h : s.canonical = true) :
    (s.reportLocated unit lane chan at_ inj).canonical = true :=
  canonical_ite (canonical_countLane (canonical_logLane h ..) ..) (canonical_upd (canonical_countLane (canonical_logLane h ..) ..) ..)

theorem canonical_reportUnresolved {unit lane at_ inj} (h : s.canonical = true) :
    (s.reportUnresolved unit lane at_ inj).canonical = true :=
  canonical_logLane h ..

theorem canonical_unitReport {unit w2} (h : s.canonical = true) : (s.unitReport unit w2).1.canonical = true := by
  unfold State.unitReport
  split
  · exact h
  · exact canonical_logCluster (canonical_fire h) ..

theorem canonical_recheckReport {lanes first whole} (h : s.canonical = true) :
    (s.recheckReport lanes first whole).1.canonical = true := by
  unfold State.recheckReport
  extract_lets corrupt
  split
  · exact h
  · extract_lets d inj unc p s1
    split
    · exact canonical_countLane (canonical_logLane (canonical_fire h) ..) ..
    · have h1 : s1.canonical = true := canonical_countLane (canonical_logLane (canonical_fire h) ..) ..
      exact canonical_ite (canonical_markLane h1 ..) h1

theorem canonical_laneRead {ks} (h : s.canonical = true) : (s.laneRead ks).1.canonical = true := by
  unfold State.laneRead
  simp only
  split
  · exact h
  split
  · refine canonical_logLane ?_ ..
    split
    · exact canonical_logLane (canonical_fire (canonical_folded h fun _ _ hu => canonical_laneWord hu ..)) ..
    · exact canonical_folded h fun _ _ hu => canonical_laneWord hu ..
  split
  · exact canonical_logLane (canonical_fire (canonical_folded h fun _ _ hu => canonical_laneWord hu ..)) ..
  · exact canonical_folded h fun _ _ hu => canonical_laneWord hu ..

theorem canonical_overwriteStray {c ps f} (h : s.canonical = true) : (s.overwriteStray c ps f).canonical = true :=
  canonical_ite h h

end Sys2Proof.Machine.State
end

section
/-! SUPPORT. Vector accesses, element operations and tiles keep the tables canonical. -/

namespace Sys2Proof.Machine.State

open Sys2Proof

variable {s : State}

theorem canonical_noteElemFail {q r} (h : s.canonical = true) : (s.noteElemFail q r).canonical = true := by
  unfold State.noteElemFail
  extract_lets a
  split
  · exact h
  split
  · split
    · next e => exact canonical_failure h e
    · exact h
  · exact h

theorem canonical_lookElem {q r} (h : s.canonical = true) : (s.lookElem q r).1.canonical = true := by
  unfold State.lookElem
  simp only
  split
  · split
    · exact canonical_noteAccess h
    split
    · next e =>
      split
      · exact canonical_noteAccess h
      · exact canonical_fst e (canonical_readParts (canonical_noteAccess h))
    · next e => exact canonical_fst e (canonical_readParts (canonical_noteAccess h))
  · exact canonical_noteElemFail h
  · exact h

theorem canonical_askElem {q enc r parts} (h : s.canonical = true) : (s.askElem q enc r parts).canonical = true :=
  canonical_beginWait (canonical_noteAccess h)

theorem canonical_lookAll {q rs} (h : s.canonical = true) : (s.lookAll q rs).1.canonical = true := by
  induction rs generalizing s with
  | nil => exact h
  | cons r rs ih => exact ih (canonical_lookElem h)

theorem canonical_askFar {q enc ls} (h : s.canonical = true) : (s.askFar q enc ls).1.canonical = true := by
  induction ls generalizing s with
  | nil => exact h
  | cons l rs ih =>
    unfold State.askFar
    split
    · exact h
    · next e =>
      cases e
      extract_lets asked
      split
      · exact canonical_askElem h
      · exact ih (canonical_askElem h)
    · exact h
    · next e =>
      cases e
      exact ih h

theorem canonical_doElem {q r l} (h : s.canonical = true) : (s.doElem q r l).1.canonical = true := by
  unfold State.doElem
  simp only
  split
  · exact h
  · exact canonical_writeParts h
  · exact canonical_atomicAt h
  · exact h

theorem canonical_doAll {q ls} (h : s.canonical = true) : (s.doAll q ls).1.canonical = true := by
  induction ls generalizing s with
  | nil => exact h
  | cons l ls ih => exact ih (canonical_doElem h)

theorem canonical_accessAll {q i rs go} (h : s.canonical = true)
    (keeps : ∀ (u : State) bs, u.canonical = true → (go u bs).canonical = true) : (s.accessAll q i rs go).Canonical := by
  have asked := canonical_askFar (q := q) (enc := s.bodyEnc) (ls := (s.lookAll q rs).2) (canonical_lookAll h (q := q) (rs := rs))
  unfold State.accessAll
  simp only
  split
  · exact canonical_onMe (canonical_lookAll h)
  · exact asked
  split
  · exact asked
  · exact keeps _ _ (canonical_onMe (canonical_doAll asked))

theorem canonical_loadIdx {q f d b m i} (h : s.canonical = true) : (s.loadIdx q f d b m i).Canonical := by
  unfold State.loadIdx
  simp only
  split
  · exact h
  split
  · next e =>
    have h1 := canonical_bad e (canonical_accessAll h fun _ _ hu => hu)
    split
    · exact canonical_onMe h1
    · exact h1
  · exact canonical_accessAll h fun _ _ hu => hu

theorem canonical_storeIdx {q f d b m sc i} (h : s.canonical = true) : (s.storeIdx q f d b m sc i).Canonical := by
  unfold State.storeIdx
  split
  · split
    · exact h
    split
    · exact h
    · exact canonical_accessAll h fun _ _ hu => hu
  split
  · exact h
  · exact canonical_accessAll h fun _ _ hu => hu

theorem canonical_landGot {q d i rs} (h : s.canonical = true) : (s.landGot q d i rs).canonical = true := h

theorem canonical_amoIdx {q op d b m i} (h : s.canonical = true) : (s.amoIdx q op d b m i).Canonical := by
  unfold State.amoIdx
  simp only
  split
  · exact h
  split
  · next e => exact canonical_landGot (canonical_bad e (canonical_accessAll h fun _ _ hu => hu))
  · exact canonical_accessAll h fun _ _ hu => hu

theorem canonical_cbloadRead {q n k acc} (h : s.canonical = true) : (s.cbloadRead q n k acc).1.Canonical := by
  induction n generalizing s k acc with
  | zero => exact h
  | succ n ih =>
    unfold State.cbloadRead
    extract_lets r
    split
    · next e => exact canonical_onMe (canonical_fst e (canonical_lookElem h))
    · next e => exact canonical_askElem (canonical_fst e (canonical_lookElem h))
    · next e => exact ih (canonical_fst e (canonical_lookElem h))
    · next e => exact canonical_fst e (canonical_lookElem h)

theorem canonical_keepTable {cn} (h : s.canonical = true) : (s.keepTable cn).canonical = true :=
  canonical_folded h fun _ _ hu => canonical_onStrand hu

theorem canonical_cbloadAll {q} (h : s.canonical = true) : (s.cbloadAll q).Canonical := by
  have read := canonical_cbloadRead h (q := q) (n := 64) (k := 0) (acc := [])
  unfold State.cbloadAll
  split
  · next e =>
    rw [e] at read
    exact canonical_onCluster (canonical_keepTable (canonical_onMe read)) ..
  · next e =>
    rw [e] at read
    exact read

theorem canonical_tldrowStep {q d x u ec lane} (h : s.canonical = true) : (s.tldrowStep q d x u ec lane).Canonical :=
  canonical_accessAll h fun _ _ hu => hu

theorem canonical_tstrowStep {q d x u ec lane} (h : s.canonical = true) : (s.tstrowStep q d x u ec lane).Canonical :=
  canonical_accessAll h fun _ _ hu => hu

theorem canonical_putElem {sew n i e} (h : s.canonical = true) : (s.putElem sew n i e).canonical = true :=
  canonical_ite h h

theorem canonical_corruptElem {lane x en} (h : s.canonical = true) : (s.corruptElem lane x en).1.canonical = true := by
  unfold State.corruptElem
  split
  · split
    · exact canonical_fire h
    · exact h
  · exact h

theorem canonical_arithAt {q op form d a b j i} (h : s.canonical = true) : (s.arithAt q op form d a b j i).canonical = true := by
  unfold State.arithAt
  simp only
  split
  · exact canonical_putElem h
  · exact canonical_putElem h
  · exact canonical_putElem h
  · exact canonical_ite (canonical_putElem (canonical_corruptElem h)) (canonical_putElem h)

theorem canonical_eachReg {g f} (h : s.canonical = true) (keeps : ∀ (u : State) j, u.canonical = true → (f u j).canonical = true) :
    (s.eachReg g f).canonical = true := canonical_foldl keeps _ h

theorem canonical_maskedWide {q d r sew i} (h : s.canonical = true) : (s.maskedWide q d r sew i).canonical = true :=
  canonical_ite (canonical_eachReg h fun _ _ hu => hu) h

theorem canonical_maskedBit {q d i} (h : s.canonical = true) : (s.maskedBit q d i).canonical = true := canonical_ite h h

theorem canonical_cbdecAt {q d a i} (h : s.canonical = true) : (s.cbdecAt q d a i).canonical = true :=
  canonical_folded h fun _ _ hu => canonical_ite (canonical_putElem hu) (canonical_putElem hu)

theorem canonical_rnsfAt {q d a i} (h : s.canonical = true) : (s.rnsfAt q d a i).Canonical := by
  unfold State.rnsfAt
  simp only
  split
  · exact h
  · exact canonical_folded h fun _ _ hu => canonical_putElem (canonical_corruptElem hu)

theorem canonical_rnsrLook {q a i} (h : s.canonical = true) : (s.rnsrLook q a i).1.canonical = true := by
  unfold State.rnsrLook
  exact canonical_foldedPair h fun _ _ hu => canonical_decideAt hu

theorem canonical_rnsrAt {q d a i} (h : s.canonical = true) : (s.rnsrAt q d a i).Canonical := by
  unfold State.rnsrAt
  simp only
  split
  · exact canonical_rnsrLook h
  split
  · exact canonical_rnsrLook h
  · refine canonical_folded (canonical_rnsrLook h) fun u a hu => ?_
    split
    · exact canonical_putElem hu
    · exact canonical_putElem (canonical_reportLocated hu)
    · exact canonical_putElem (canonical_ite (canonical_reportUnresolved hu) hu)

theorem canonical_putVal {kind sew n i e} (h : s.canonical = true) : (s.putVal kind sew n i e).canonical = true :=
  canonical_ite h h

theorem canonical_cvtAt {q sr d a tk tsew m i} (h : s.canonical = true) : (s.cvtAt q sr d a tk tsew m i).canonical = true :=
  canonical_ite h (canonical_eachReg h fun _ _ hu => canonical_folded hu fun _ _ hu => canonical_putVal hu)

theorem canonical_cvtBlock {q sr d a tk m b h' r} (h : s.canonical = true) : (s.cvtBlock q sr d a tk m b h' r).canonical = true := by
  unfold State.cvtBlock
  extract_lets ps pt v live act off srcs vals e sig zeroed s1 s2 n u k
  have hz : zeroed.canonical = true := canonical_folded h fun _ _ hu => canonical_putVal hu
  have h1 : s1.canonical = true :=
    canonical_ite (canonical_ite (canonical_raiseF hz) hz) (canonical_folded h fun _ _ hu => canonical_putVal hu)
  have h2 : s2.canonical = true := canonical_ite (canonical_folded h1 fun _ _ hu => canonical_putVal hu) h1
  exact canonical_ite (canonical_ite (canonical_onMe h2) (canonical_ite (canonical_onMe h2) h2)) (canonical_onMe h2)

theorem canonical_cvtScaledAt {q sr d a tk m i} (h : s.canonical = true) : (s.cvtScaledAt q sr d a tk m i).canonical = true :=
  canonical_ite (canonical_folded h fun _ _ hu => canonical_cvtBlock hu) h

theorem canonical_swapprAt {q d a m i} (h : s.canonical = true) : (s.swapprAt q d a m i).canonical = true :=
  canonical_ite (canonical_ite h (canonical_ite h (canonical_ite h h))) (canonical_ite (canonical_eachReg h fun _ _ hu => hu) h)

theorem canonical_writeIdx {q d m i f} (h : s.canonical = true) (keeps : ∀ (u : State) j, u.canonical = true → (f u j).canonical = true) :
    (s.writeIdx q d m i f).canonical = true := canonical_ite (canonical_eachReg h keeps) h

theorem canonical_elemIdx {q i} (h : s.canonical = true) : (s.elemIdx q i).Canonical := by
  unfold State.elemIdx
  simp only
  split
  · exact canonical_loadIdx h
  · exact canonical_storeIdx h
  · exact canonical_amoIdx h
  · split
    · exact canonical_eachReg h fun _ _ hu => canonical_arithAt hu
    split
    · exact canonical_maskedWide h
    · exact canonical_maskedWide h
    · exact h
  · exact canonical_ite h (canonical_maskedBit h)
  · exact canonical_eachReg h fun _ _ hu => hu
  · exact canonical_writeIdx h fun _ _ hu => canonical_putElem hu
  · exact canonical_writeIdx h fun _ _ hu => canonical_putElem hu
  · exact canonical_swapprAt h
  · exact canonical_ite (canonical_cvtScaledAt h) (canonical_cvtAt h)
  · exact canonical_writeIdx h fun _ _ hu => canonical_putElem hu
  · exact canonical_writeIdx h fun _ _ hu => canonical_putElem hu
  · exact canonical_ite (canonical_cbdecAt h) h
  · split
    · exact canonical_rnsfAt h
    · exact canonical_maskedWide h
  · split
    · exact canonical_rnsrAt h
    · exact h
  · exact canonical_ite h (canonical_maskedBit h)
  · exact h

theorem canonical_wholeOp {q} (h : s.canonical = true) : (s.wholeOp q).canonical = true := by
  unfold State.wholeOp
  simp only
  split
  · exact canonical_ite h h
  · exact canonical_ite h h
  · exact h
  · exact h
  · exact h
  · exact canonical_ite h h
  · exact canonical_ite h h
  · exact h

theorem canonical_corruptCell {q d cells} (h : s.canonical = true) : (s.corruptCell q d cells).canonical = true := by
  unfold State.corruptCell
  split
  · exact h
  split
  · exact canonical_ite (canonical_onMe (canonical_fire h)) h
  · exact h

theorem canonical_toprStep {q d a b m n k} (h : s.canonical = true) : (s.toprStep q d a b m n k).canonical = true :=
  canonical_corruptCell (canonical_ite h h)

theorem canonical_decideCell {q d u put} (h : s.canonical = true) : (s.decideCell q d u put).Canonical := by
  unfold State.decideCell
  extract_lets i j lane at_ w r s1 inj guard write
  have h1 : s1.canonical = true := canonical_decideAt h
  have wrote : ∀ v : State, v.canonical = true → (write v).canonical = true := by
    intro v hv
    unfold write
    split
    · exact hv
    · exact hv
  split
  · exact wrote _ h1
  · split
    · exact h1
    · exact canonical_raiseI (wrote _ (canonical_reportLocated h1))
  split
  · exact h1
  split
  · exact canonical_raiseI (wrote _ (canonical_reportUnresolved h1))
  · exact canonical_raiseI (wrote _ h1)

theorem canonical_tcvtStep {q d code u} (h : s.canonical = true) : (s.tcvtStep q d code u).Canonical := by
  unfold State.tcvtStep
  simp only
  split
  · exact canonical_decideCell h
  · split
    · exact h
    · exact canonical_ite h h
  · exact h
  · exact h
  · exact h

theorem canonical_tchkStep {q d u} (h : s.canonical = true) : (s.tchkStep q d u).Canonical := canonical_decideCell h

theorem canonical_matStep {q u} (h : s.canonical = true) : (s.matStep q u).Canonical := by
  unfold State.matStep
  simp only
  split
  · exact h
  · exact canonical_toprStep h
  · exact h
  · exact canonical_tldrowStep h
  · exact canonical_tstrowStep h
  · exact h
  · exact h
  · split
    · exact canonical_ite h h
    · exact canonical_tcvtStep (canonical_ite h h)
  · split
    · exact h
    · exact canonical_tchkStep h
  · exact h

theorem canonical_matFinish {q} (h : s.canonical = true) : (s.matFinish q).canonical = true := by
  unfold State.matFinish
  split
  · exact canonical_ite h h
  · exact h

end Sys2Proof.Machine.State
end

section
/-! SUPPORT. The vector queue, the sequencer and the allocators keep the tables canonical. -/

namespace Sys2Proof.Machine.State

open Sys2Proof

variable {s : State}

theorem canonical_oneIdx {q i} (h : s.canonical = true) : (s.oneIdx q i).Canonical := by
  unfold State.oneIdx
  split
  · exact canonical_matStep h
  · exact canonical_elemIdx h

theorem canonical_runList {q is} (h : s.canonical = true) : (s.runList q is).1.canonical = true := by
  induction is generalizing s with
  | nil => exact h
  | cons i is ih =>
    unfold State.runList
    split
    · next e => exact ih (canonical_done e (canonical_oneIdx h))
    · next e => exact canonical_bad e (canonical_oneIdx h)
    · next e => exact canonical_wait e (canonical_oneIdx h)
    · next e => exact canonical_stop e (canonical_oneIdx h)

theorem canonical_leaveStray {f} (h : s.canonical = true) : (s.leaveStray f).canonical = true := canonical_ite h h

theorem canonical_clearWritten {q lo hi} (h : s.canonical = true) : (s.clearWritten q lo hi).canonical = true :=
  canonical_ite h h

theorem canonical_clearTail {q} (h : s.canonical = true) : (s.clearTail q).canonical = true := by
  unfold State.clearTail
  simp only
  split
  · exact h
  split
  · exact h
  · exact h
  · exact canonical_ite h h

theorem canonical_stepInject {q} (h : s.canonical = true) : (s.stepInject q).1.canonical = true := by
  unfold State.stepInject
  split
  · exact h
  · extract_lets r unc
    have hr : r.1.canonical = true := by
      unfold r
      split
      · exact canonical_unitReport h
      · exact h
    split
    · exact hr
    split
    · exact hr
    split
    · exact hr
    · extract_lets w2 found
      have h1 : found.canonical = true := canonical_logLane (canonical_fire hr) ..
      exact canonical_ite (canonical_logLane h1 ..) h1

theorem canonical_runOrdered {q is} (h : s.canonical = true) : (s.runOrdered q is).1.canonical = true := by
  induction is generalizing s with
  | nil => exact h
  | cons i is ih =>
    unfold State.runOrdered
    split
    · exact h
    split
    · next e => exact ih (canonical_done e (canonical_oneIdx h))
    · next e => exact canonical_bad e (canonical_oneIdx h)
    · next e => exact canonical_wait e (canonical_oneIdx h)
    · next e => exact canonical_stop e (canonical_oneIdx h)

theorem canonical_runStep {q hi} (h : s.canonical = true) : (s.runStep q hi).1.canonical = true := by
  unfold State.runStep
  extract_lets ir s0 r0 r1 r poisoned s1 o s2
  split
  · exact h
  · have h0 : r0.1.canonical = true := canonical_laneRead (canonical_update h)
    have h1 : r1.1.canonical = true := canonical_iteFst h0 (canonical_stepInject h0)
    have hr : r.1.canonical = true := canonical_iteFst (canonical_recheckReport h1) h1
    split
    · exact canonical_update hr
    · have hs1 : s1.canonical = true := canonical_ite (canonical_onSys hr) hr
      have hs2 : s2.canonical = true := canonical_ite (canonical_update hs1) hs1
      have ran := canonical_iteFst (p := opInOrder q.op = true) (canonical_runOrdered hs2 (q := q) (is := o.1))
        (canonical_runList hs2 (q := q) (is := o.1))
      split
      · next e => exact canonical_update (canonical_clearWritten (canonical_fst e ran))
      · next e => exact canonical_update (canonical_fst e ran)

theorem canonical_wholeEntry {q} (h : s.canonical = true) : (s.wholeEntry q).1.canonical = true := by
  unfold State.wholeEntry
  extract_lets ir s0 idle r0 r1 r poisoned ended
  split
  · split
    · exact h
    split
    · next e => exact canonical_update (canonical_done e (canonical_cbloadAll (canonical_update h)))
    · next e => exact canonical_update (canonical_stop e (canonical_cbloadAll (canonical_update h)))
    · next e => exact canonical_update (canonical_bad e (canonical_cbloadAll (canonical_update h)))
    · next e => exact canonical_update (canonical_wait e (canonical_cbloadAll (canonical_update h)))
  · exact canonical_iteFst h h
  · exact canonical_iteFst (canonical_barrierArrive h) h
  · refine canonical_iteFst (canonical_update (canonical_wholeOp (canonical_update h))) ?_
    have h0 : r0.1.canonical = true := canonical_laneRead (canonical_update h)
    have h1 : r1.1.canonical = true := canonical_iteFst h0 (canonical_stepInject h0)
    have hr : r.1.canonical = true := canonical_iteFst (canonical_recheckReport h1) h1
    exact canonical_iteFst (canonical_update hr)
      (canonical_update (canonical_clearTail (canonical_clearWritten (canonical_wholeOp hr))))

theorem canonical_setEntry {n q} (h : s.canonical = true) : (s.setEntry n q).canonical = true := h

theorem canonical_completeEntry {n q} (h : s.canonical = true) : (s.completeEntry n q).canonical = true := by
  unfold State.completeEntry
  simp only
  split
  · refine canonical_scDone ?_
    split
    · exact canonical_acquire (canonical_ite h (canonical_ite (canonical_matFinish h) (canonical_clearTail h)))
    · exact canonical_ite h (canonical_ite (canonical_matFinish h) (canonical_clearTail h))
  split
  · exact canonical_acquire (canonical_ite h (canonical_ite (canonical_matFinish h) (canonical_clearTail h)))
  · exact canonical_ite h (canonical_ite (canonical_matFinish h) (canonical_clearTail h))

theorem canonical_undefine {q k} (h : s.canonical = true) : (s.undefine q k).canonical = true := by
  unfold State.undefine
  simp only
  split
  · exact h
  · exact h
  · exact h

theorem canonical_tryYounger {n} (h : s.canonical = true) : (s.tryYounger n).Canonical := by
  unfold State.tryYounger
  simp only
  split
  · trivial
  split
  · trivial
  split
  · split
    · split
      · next e => exact canonical_completeEntry (canonical_fst e (canonical_wholeEntry h))
      · next e => exact canonical_fst e (canonical_wholeEntry h)
      · trivial
    · trivial
  split
  · split
    · exact canonical_completeEntry h
    · trivial
  split
  · split
    · next e => exact canonical_setEntry (canonical_fst e (canonical_runStep h))
    · next e => exact canonical_setEntry (canonical_fst e (canonical_runStep h))
    · trivial
  · trivial

theorem canonical_runYounger {n len fuel} (h : s.canonical = true) : (s.runYounger n len fuel).1.canonical = true := by
  induction fuel generalizing s with
  | zero => exact h
  | succ fuel ih =>
    unfold State.runYounger
    split
    · next e => exact canonical_iteFst (canonical_went e (canonical_tryYounger h)) (ih (canonical_went e (canonical_tryYounger h)))
    · next e => exact canonical_waits e (canonical_tryYounger h)
    · exact h

theorem canonical_runYoungers {n k} (h : s.canonical = true) : (s.runYoungers n k).1.canonical = true := by
  induction k generalizing s n with
  | zero => exact h
  | succ k ih => exact ih (canonical_runYounger h)

theorem canonical_dropGrant {t} (h : s.canonical = true) : (s.dropGrant t).canonical = true :=
  canonical_ite (canonical_assignLanes (canonical_onStrand h)) h

theorem canonical_trapHead {q f} (h : s.canonical = true) : (s.trapHead q f).canonical = true :=
  canonical_takeQueuedTrap (canonical_dropGrant (canonical_scDone (canonical_onMe (canonical_undefine h))))

theorem canonical_trapOrWait {q f} (h : s.canonical = true) : (s.trapOrWait q f).canonical = true :=
  canonical_ite (canonical_trapHead h) (canonical_ite (canonical_runYoungers h) (canonical_trapHead (canonical_runYoungers h)))

theorem canonical_beginSave {t w} (h : s.canonical = true) : (s.beginSave t w).canonical = true :=
  canonical_pushAll (canonical_push (canonical_onStrand (canonical_dropGrant (canonical_scDone h))))

theorem canonical_saveHeld (h : s.canonical = true) : s.saveHeld.canonical = true :=
  canonical_ite h (canonical_beginSave h)

theorem canonical_settle {n q hi r} (h : s.canonical = true) : (s.settle n q hi r).canonical = true := by
  unfold State.settle
  simp only
  split
  · exact canonical_ite (canonical_completeEntry h) (canonical_ite (canonical_completeEntry h) h)
  · exact canonical_ite (canonical_completeEntry h) (canonical_ite (canonical_completeEntry h) h)
  · exact canonical_ite h h
  · exact canonical_ite (canonical_scDone h) h
  · exact canonical_saveHeld h

theorem canonical_settleStep {before : State} {n q hi r} (hb : before.canonical = true) (h : s.canonical = true) :
    (before.settleStep s n q hi r).canonical = true := by
  unfold State.settleStep
  split
  · exact canonical_ite (canonical_settle h) (canonical_ite (canonical_scDone (canonical_setEntry hb)) (canonical_setEntry hb))
  · exact canonical_settle h

theorem canonical_commitStep {n q} (h : s.canonical = true) : (s.commitStep n q).canonical = true := by
  unfold State.commitStep
  refine canonical_ite ?_ (canonical_ite (canonical_completeEntry h) ?_)
  · exact canonical_settleStep h (canonical_wholeEntry h)
  · exact canonical_settleStep h (canonical_runStep h)

theorem canonical_runSteps {q n} (h : s.canonical = true) : (s.runSteps q n).1.canonical = true := by
  induction n generalizing s q with
  | zero => exact h
  | succ n ih =>
    unfold State.runSteps
    refine canonical_iteFst h ?_
    extract_lets one hi
    refine canonical_iteFst h ?_
    split
    · next e => exact ih (canonical_fst e (canonical_runStep h))
    · next e => exact canonical_fst e (canonical_runStep h)
    · next e => exact canonical_fst e (canonical_runStep h)
    · next e => exact canonical_fst e (canonical_runStep h)
    · next e => exact canonical_fst e (canonical_runStep h)

theorem canonical_pumpHead (h : s.canonical = true) : s.pumpHead.1.canonical = true := by
  unfold State.pumpHead
  split
  · exact h
  split
  · exact canonical_iteFst h (canonical_trapOrWait h)
  extract_lets w r
  have hr : r.1.canonical = true := by
    unfold r
    split
    · exact canonical_iteFst (canonical_wholeEntry h) h
    · exact canonical_runSteps h
  clear_value r
  rcases r with ⟨s1, q1, _ | f | i | _ | _⟩
  · exact canonical_iteFst (canonical_completeEntry (canonical_setEntry hr)) (canonical_setEntry hr)
  · exact canonical_iteFst (canonical_setEntry hr) (canonical_trapOrWait (canonical_setEntry hr))
  · exact canonical_setEntry hr
  · exact canonical_iteFst (canonical_completeEntry (canonical_setEntry hr)) (canonical_setEntry hr)
  · exact canonical_saveHeld (canonical_setEntry hr)

theorem canonical_pumpMe {n} (h : s.canonical = true) : (s.pumpMe n).canonical = true := by
  induction n generalizing s with
  | zero => exact h
  | succ n ih =>
    unfold State.pumpMe
    refine canonical_ite h ?_
    split
    · next e => exact ih (canonical_fst e (canonical_pumpHead h))
    · next e => exact canonical_fst e (canonical_pumpHead h)

theorem canonical_nudge {t} (h : s.canonical = true) : (s.nudge t).canonical = true := by
  unfold State.nudge
  extract_lets x a b
  have ha : a.canonical = true := canonical_ite (canonical_push h) h
  have hb : b.canonical = true := canonical_ite (canonical_push ha) ha
  exact canonical_ite (canonical_push hb) (canonical_ite (canonical_push hb) hb)

theorem canonical_pumpFocus (h : s.canonical = true) : s.pumpFocus.canonical = true :=
  canonical_ite (canonical_nudge (canonical_pumpMe h)) h

theorem canonical_pump {t} (h : s.canonical = true) : (s.pump t).canonical = true :=
  canonical_inside h fun _ hu => canonical_pumpFocus hu

theorem canonical_resumeQueue {t} (h : s.canonical = true) : (s.resumeQueue t).canonical = true :=
  canonical_ite (canonical_pump h) (canonical_nudge h)

theorem canonical_resumeSave {t} (h : s.canonical = true) : (s.resumeSave t).canonical = true := canonical_ite h h

theorem canonical_goOn {t} (h : s.canonical = true) : (s.goOn t).canonical = true :=
  canonical_resumeSave (canonical_nudge (canonical_resumeQueue h))

theorem canonical_migrate {ls sh kept} (h : s.canonical = true) : (s.migrate ls sh kept).canonical = true :=
  canonical_overwriteStray (canonical_leaveStray (canonical_scrubWords h ..))

theorem canonical_finishGrant {z d req h' ls} (h : s.canonical = true) : (s.finishGrant z d req h' ls).canonical = true :=
  canonical_writeRegV (canonical_update (canonical_ite h (canonical_migrate h)))

theorem canonical_waitLanes {p} (h : s.canonical = true) : (s.waitLanes p).canonical = true :=
  canonical_onCluster (canonical_onMe (canonical_noteWait h)) ..

theorem canonical_giveLanes {n ls first} (h : s.canonical = true) : (s.giveLanes n ls first).canonical = true :=
  canonical_ite (canonical_assignLanes h) h

theorem canonical_takeGrant {z d req h' k} (h : s.canonical = true) : (s.takeGrant z d req h' k).canonical = true :=
  canonical_ite (canonical_finishGrant h) (canonical_ite h (canonical_ite (canonical_giveLanes (canonical_finishGrant h)) h))

theorem canonical_grantForm {z nb d a h'} (h : s.canonical = true) : Result.Canonical (s.grantForm z nb d a h') := by
  unfold State.grantForm
  simp only
  split
  · exact canonical_trap h
  split
  · exact canonical_trap h
  split
  · split
    · exact h
    · exact canonical_assignLanes (canonical_onCtl (canonical_writeRegV (canonical_onMe (canonical_leaveStray h))))
  split
  · exact canonical_takeGrant h
  split
  · split
    · exact h
    · exact canonical_waitLanes h
  · exact canonical_beginSave h
  · exact canonical_takeGrant h

theorem canonical_execVtype {d a} (h : s.canonical = true) : Result.Canonical (execVtype d a s) := by
  unfold execVtype
  simp only
  split
  · exact canonical_trap h
  split
  · exact canonical_trap h
  · exact h

theorem canonical_finishEnter {ls} (h : s.canonical = true) : (s.finishEnter ls).canonical = true :=
  canonical_retire (canonical_onMe (canonical_overwriteStray h))

theorem canonical_execMtenter {g} (h : s.canonical = true) : Result.Canonical (execMtenter g s) := by
  unfold execMtenter
  extract_lets x c n
  refine canonical_choice (canonical_trap h) (canonical_choice (canonical_trap h) (canonical_choice h (canonical_choice ?_ ?_)))
  · exact canonical_choice (canonical_finishEnter h) (canonical_push (canonical_onMe h))
  split
  · exact canonical_choice (canonical_assignLanes (canonical_finishEnter h) ..) (canonical_reserve (canonical_onMe h))
  · exact canonical_waitLanes h

theorem canonical_execMtexit (h : s.canonical = true) : Result.Canonical (execMtexit s) := by
  unfold execMtexit
  simp only
  split
  · exact canonical_trap h
  split
  · exact canonical_trap h
  split
  · exact h
  · exact h

theorem canonical_execTedge {a b} (h : s.canonical = true) : Result.Canonical (execTedge a b s) := by
  unfold execTedge
  simp only
  split
  · exact canonical_trap h
  split
  · exact canonical_trap h
  · exact h

end Sys2Proof.Machine.State
end

section
/-! SUPPORT. The stream slots and their engines keep the tables canonical. -/

namespace Sys2Proof.Machine.State

open Sys2Proof

variable {s : State}

theorem canonical_wakeMail {core} (h : s.canonical = true) : (s.wakeMail core).canonical = true := by
  unfold State.wakeMail
  simp only
  refine canonical_folded h fun u a hu => ?_
  split
  · exact canonical_ite (canonical_push (canonical_ite (canonical_push hu) hu)) (canonical_ite hu hu)
  · exact canonical_ite hu hu

theorem canonical_consume {t q} (h : s.canonical = true) : (s.consume t q).canonical = true :=
  canonical_wakeMail (canonical_onStrand h)

theorem canonical_engLook {q i addr n} (h : s.canonical = true) : (s.engLook q i addr n).1.canonical = true := by
  unfold State.engLook
  simp only
  split
  · split
    · exact h
    split
    · exact h
    · exact h
  split
  · split
    · next e => exact canonical_failure h e
    · exact h
  split
  · exact canonical_beginWait (canonical_noteAccess h)
  split
  · exact h
  split
  · next e => exact canonical_fst e (canonical_readParts (canonical_noteAccess h))
  · next e => exact canonical_fst e (canonical_readParts (canonical_noteAccess h))

theorem canonical_engRead {q i addr n} (h : s.canonical = true) : (s.engRead q i addr n).1.canonical = true := by
  unfold State.engRead
  split
  · next e => exact canonical_onMe (canonical_fst e (canonical_engLook h))
  · exact canonical_engLook h

theorem canonical_engWrite {q i addr bs} (h : s.canonical = true) : (s.engWrite q i addr bs).1.canonical = true := by
  unfold State.engWrite
  simp only
  split
  · split
    · next e => exact canonical_failure h e
    · exact h
  split
  · exact h
  · exact canonical_writeParts (canonical_noteAccess h)

theorem canonical_engReads {q i addr n} (h : s.canonical = true) : (s.engReads q i addr n).1.canonical = true := by
  induction n generalizing s i addr with
  | zero => exact h
  | succ n ih =>
    unfold State.engReads
    split
    · next e =>
      have h1 := canonical_fst e (canonical_engLook h)
      split
      · next e1 => exact canonical_fst e1 (ih h1)
      · exact ih h1
    · exact canonical_engLook h

theorem canonical_onSlot {q f} (h : s.canonical = true) : (s.onSlot q f).canonical = true := h

theorem canonical_endCopy {q status} (h : s.canonical = true) : (s.endCopy q status).canonical = true := h

theorem canonical_land {sl lo bs} (h : s.canonical = true) : (s.land sl lo bs).canonical = true := h

theorem canonical_loadElems {q blk hi fuel} (h : s.canonical = true) : (s.loadElems q blk hi fuel).1.canonical = true := by
  induction fuel generalizing s with
  | zero => exact h
  | succ fuel ih =>
    unfold State.loadElems
    extract_lets sl i addr
    refine canonical_iteFst h ?_
    split
    · next e => exact ih (canonical_onSlot (canonical_fst e (canonical_engRead h)))
    · exact canonical_engRead h

theorem canonical_ldvUnit {q} (h : s.canonical = true) : CanonicalOption (s.ldvUnit q) := by
  unfold State.ldvUnit
  extract_lets sl hi blk
  split
  · next e =>
    have h1 := canonical_fst e (canonical_loadElems h)
    extract_lets t s2
    have h2 : s2.canonical = true := canonical_onSlot (canonical_land h1)
    exact canonical_iteOption (canonical_iteSome (canonical_endCopy h2) h2) h1
  · next e =>
    have h1 := canonical_fst e (canonical_loadElems h)
    exact canonical_endCopy (canonical_onSlot (canonical_onMe (canonical_update (canonical_land h1))))
  · next e => exact canonical_fst e (canonical_loadElems h)
  · trivial

theorem canonical_storeElems {q blk hi fuel} (h : s.canonical = true) : (s.storeElems q blk hi fuel).1.canonical = true := by
  induction fuel generalizing s with
  | zero => exact h
  | succ fuel ih =>
    unfold State.storeElems
    extract_lets sl i addr r
    refine canonical_iteFst h ?_
    have hr : r.1.canonical = true := canonical_laneRead h
    refine canonical_iteFst hr ?_
    split
    · next e => exact ih (canonical_onSlot (canonical_fst e (canonical_engWrite hr)))
    · exact canonical_engWrite hr

theorem canonical_stvUnit {q} (h : s.canonical = true) : CanonicalOption (s.stvUnit q) := by
  unfold State.stvUnit
  extract_lets sl hi blk
  split
  · next e => exact canonical_endCopy (canonical_fst e (canonical_storeElems h))
  · next e =>
    split
    · trivial
    · exact canonical_fst e (canonical_storeElems h)
  · next e =>
    have h1 := canonical_fst e (canonical_storeElems h)
    extract_lets t s2
    have h2 : s2.canonical = true := by
      refine canonical_ite ?_ h1
      split
      · exact canonical_push h1
      · exact h1
    exact canonical_ite (canonical_endCopy h2) h2

theorem canonical_sramElems {q blk fuel} (h : s.canonical = true) : (s.sramElems q blk fuel).1.canonical = true := by
  induction fuel generalizing s with
  | zero => exact h
  | succ fuel ih =>
    unfold State.sramElems
    extract_lets sl far near load
    refine canonical_iteFst h ?_
    split
    · next e =>
      have h1 := canonical_fst e (canonical_engRead h)
      split
      · next e1 => exact ih (canonical_onSlot (canonical_fst e1 (canonical_engWrite h1)))
      · exact canonical_engWrite h1
    · exact canonical_engRead h

theorem canonical_collStart {q} (h : s.canonical = true) : CanonicalOption (s.collStart q) := by
  unfold State.collStart
  simp only
  split
  · trivial
  split
  · next e =>
    split
    · exact canonical_onSlot (canonical_onMe (canonical_fst e (canonical_engReads h)))
    · exact canonical_endCopy (canonical_fst e (canonical_engReads h))
  · next e => exact canonical_endCopy (canonical_fst e (canonical_engReads h))
  · next e => exact canonical_fst e (canonical_engReads h)
  · trivial

theorem canonical_sramUnit {q} (h : s.canonical = true) : CanonicalOption (s.sramUnit q) := by
  unfold State.sramUnit
  simp only
  split
  · split
    · exact canonical_collStart h
    · exact h
  split
  · next e => exact canonical_endCopy (canonical_fst e (canonical_sramElems h))
  · next e =>
    split
    · trivial
    · exact canonical_fst e (canonical_sramElems h)
  · next e => exact canonical_fst e (canonical_sramElems h)
  · next e => exact canonical_ite (canonical_endCopy (canonical_fst e (canonical_sramElems h))) (canonical_fst e (canonical_sramElems h))

theorem canonical_boxStale {q i} (h : s.canonical = true) : (s.boxStale q i).1.canonical = true := by
  unfold State.boxStale
  extract_lets sl
  split
  · exact h
  split
  · next e => exact canonical_fst e (canonical_engRead h)
  · next e => exact canonical_fst e (canonical_engRead h)

theorem canonical_boxStart {q} (h : s.canonical = true) : CanonicalOption (s.boxStart q) := by
  unfold State.boxStart
  simp only
  split
  · exact h
  split
  · exact h
  split
  · next e =>
    split
    · exact canonical_endCopy (canonical_fst e (canonical_engReads h))
    split
    · next e1 =>
      split
      · exact canonical_endCopy (canonical_fst e1 (canonical_engReads (canonical_fst e (canonical_engReads h))))
      split
      · exact canonical_endCopy (canonical_fst e1 (canonical_engReads (canonical_fst e (canonical_engReads h))))
      · exact canonical_onSlot (canonical_onMe (canonical_fst e1 (canonical_engReads (canonical_fst e (canonical_engReads h)))))
    · next e1 => exact canonical_endCopy (canonical_fst e1 (canonical_engReads (canonical_fst e (canonical_engReads h))))
    · next e1 => exact canonical_fst e1 (canonical_engReads (canonical_fst e (canonical_engReads h)))
    · trivial
  · next e => exact canonical_endCopy (canonical_fst e (canonical_engReads h))
  · next e => exact canonical_fst e (canonical_engReads h)
  · trivial

theorem canonical_boxLoads {q b hi blk fuel} (h : s.canonical = true) : (s.boxLoads q b hi blk fuel).1.canonical = true := by
  induction fuel generalizing s blk with
  | zero => exact h
  | succ fuel ih =>
    unfold State.boxLoads
    extract_lets sl i
    refine canonical_iteFst h ?_
    split
    · exact ih (canonical_onSlot h)
    · extract_lets goes
      refine canonical_iteFst h ?_
      split
      · next e => exact ih (canonical_onSlot (canonical_fst e (canonical_engRead h)))
      · exact canonical_engRead h

theorem canonical_boxStores {q b hi blk fuel} (h : s.canonical = true) : (s.boxStores q b hi blk fuel).1.canonical = true := by
  induction fuel generalizing s blk with
  | zero => exact h
  | succ fuel ih =>
    unfold State.boxStores
    extract_lets sl i drop
    refine canonical_iteFst h ?_
    split
    · exact ih (canonical_onSlot h)
    · extract_lets goes
      refine canonical_iteFst h ?_
      split
      · next e => exact ih (canonical_onSlot (canonical_fst e (canonical_engWrite h)))
      · exact canonical_engWrite h

theorem canonical_boxGroup {q b hi} (h : s.canonical = true) : (s.boxGroup q b hi).canonical = true := canonical_ite h h

theorem canonical_shareWrites {q i a z bs n} (h : s.canonical = true) : (s.shareWrites q i a z bs n).1.canonical = true := by
  induction n generalizing s i a bs with
  | zero => exact h
  | succ n ih =>
    unfold State.shareWrites
    split
    · next e => exact ih (canonical_fst e (canonical_engWrite h))
    · exact canonical_engWrite h

theorem canonical_shareReads {q i a z n} (h : s.canonical = true) : (s.shareReads q i a z n).1.canonical = true := by
  induction n generalizing s i a with
  | zero => exact h
  | succ n ih =>
    unfold State.shareReads
    split
    · next e =>
      have h1 := canonical_fst e (canonical_engRead h)
      split
      · next e1 => exact canonical_fst e1 (ih h1)
      · exact ih h1
    · exact canonical_engRead h

theorem canonical_boxMove {q b} (h : s.canonical = true) : CanonicalOption (s.boxMove q b) := by
  unfold State.boxMove
  extract_lets sl hi
  split
  · split
    · next e => exact canonical_endCopy (canonical_fst e (canonical_boxLoads h))
    · trivial
    · next e => exact canonical_fst e (canonical_boxLoads h)
    · next e =>
      have h1 := canonical_fst e (canonical_boxLoads h)
      extract_lets t
      split
      · split
        · next e1 => exact canonical_endCopy (canonical_fst e1 (canonical_shareWrites h1))
        · trivial
        · next e1 => exact canonical_boxGroup (canonical_fst e1 (canonical_shareWrites h1))
      · exact h1
  split
  · next e => exact canonical_endCopy (canonical_fst e (canonical_boxStores h))
  · trivial
  · next e =>
    have h1 := canonical_fst e (canonical_boxStores h)
    exact canonical_iteSome (canonical_boxGroup h1) h1

theorem canonical_boxUnit {q} (h : s.canonical = true) : CanonicalOption (s.boxUnit q) := by
  unfold State.boxUnit
  extract_lets sl b n
  refine canonical_iteOption (canonical_boxStart h) (canonical_iteOption (canonical_boxMove h) ?_)
  split
  · next e => exact canonical_endCopy (canonical_fst e (canonical_boxStale h))
  · next e => exact canonical_endCopy (canonical_fst e (canonical_boxStale h))
  · next e => exact canonical_fst e (canonical_boxStale h)
  · trivial
  · next e =>
    have h1 := canonical_fst e (canonical_boxStale h)
    refine canonical_iteOption (canonical_boxMove h1) ?_
    split
    · next e1 => exact canonical_boxMove (canonical_onSlot (canonical_fst e1 (canonical_shareReads h1)))
    · next e1 => exact canonical_endCopy (canonical_fst e1 (canonical_shareReads h1))
    · next e1 => exact canonical_fst e1 (canonical_shareReads h1)
    · trivial

theorem canonical_collReads {q c blk fuel} (h : s.canonical = true) : (s.collReads q c blk fuel).1.canonical = true := by
  induction fuel generalizing s with
  | zero => exact h
  | succ fuel ih =>
    unfold State.collReads
    extract_lets sl r own
    split
    · exact h
    · extract_lets i addr
      refine canonical_iteFst h ?_
      split
      · next e => exact ih (canonical_onSlot (canonical_fst e (canonical_engRead h)))
      · next e => exact canonical_onSlot (canonical_fst e (canonical_engRead h))
      · exact canonical_engRead h

theorem canonical_collWrites {q dst b vs} (h : s.canonical = true) : (s.collWrites q dst b vs).1.canonical = true := by
  induction vs generalizing s with
  | nil => exact h
  | cons v vs ih =>
    unfold State.collWrites
    extract_lets i
    split
    · next e => exact ih (canonical_onSlot (canonical_fst e (canonical_engWrite h)))
    · exact canonical_engWrite h

theorem canonical_collEnd {q c res stop} (h : s.canonical = true) : (s.collEnd q c res stop).canonical = true := by
  unfold State.collEnd
  simp only
  split
  · exact h
  · exact canonical_endCopy (canonical_onSlot (canonical_collWrites h))

theorem canonical_collUnit {q} (h : s.canonical = true) : CanonicalOption (s.collUnit q) := by
  unfold State.collUnit
  extract_lets sl w c read i stop k res
  refine canonical_iteOption (canonical_endCopy h) ?_
  refine canonical_iteOption ?_ ?_
  · split
    · next e => exact canonical_iteOption trivial (canonical_fst e (canonical_collReads h))
    · next e => exact canonical_fst e (canonical_collReads h)
  split
  · next e => exact canonical_collEnd (canonical_fst e (canonical_collWrites h))
  · next e => exact canonical_collEnd (canonical_fst e (canonical_collWrites h))
  · next e => exact canonical_iteOption trivial (canonical_fst e (canonical_collWrites h))

theorem canonical_collRun {q fuel} (h : s.canonical = true) : (s.collRun q fuel).canonical = true := by
  induction fuel generalizing s with
  | zero => exact h
  | succ fuel ih =>
    unfold State.collRun
    refine canonical_ite h ?_
    split
    · next e => exact ih (canonical_some e (canonical_collUnit h))
    · exact h

theorem canonical_execCollectiveComplete {t q members} (h : s.canonical = true) :
    Result.Canonical (execCollectiveComplete t q members s) := by
  unfold execCollectiveComplete
  simp only
  split
  · exact canonical_inside h fun _ hu => canonical_collRun hu
  · exact h

theorem canonical_unitOf {q} (h : s.canonical = true) : CanonicalOption (s.unitOf q) := by
  unfold State.unitOf
  extract_lets sl ir s0 r
  split
  · trivial
  · have h0 : s0.canonical = true := canonical_update h
    have hr : CanonicalOption r := by
      unfold r
      split
      · exact canonical_collUnit h0
      split
      · exact canonical_ldvUnit h0
      · exact canonical_stvUnit h0
      · exact canonical_sramUnit h0
      · exact canonical_sramUnit h0
      · exact canonical_boxUnit h0
      · exact canonical_boxUnit h0
    exact canonical_map hr fun _ hu => canonical_update hu

theorem canonical_engineStep {c ks} (h : s.canonical = true) : CanonicalOption (s.engineStep c ks) := by
  induction ks with
  | nil => trivial
  | cons k ks ih =>
    unfold State.engineStep
    extract_lets t q
    split
    · split
      · next e => exact canonical_onCluster (canonical_focus (canonical_some e (canonical_unitOf (canonical_focus h _))) _) ..
      · exact ih
    · exact ih

theorem canonical_execStreamUnit {c} (h : s.canonical = true) : Result.Canonical (execStreamUnit c s) := by
  unfold execStreamUnit
  split
  · next e =>
    have h1 := canonical_some e (canonical_engineStep h)
    exact canonical_push (canonical_ite h1 (canonical_resumeQueue h1))
  · exact h

theorem canonical_execStreamCopyDone {t q} (h : s.canonical = true) : Result.Canonical (execStreamCopyDone t q s) := by
  unfold execStreamCopyDone
  extract_lets x sl saved s1 s2
  have h1 : s1.canonical = true := canonical_onStrand h
  have h2 : s2.canonical = true := by
    unfold s2
    split
    · exact canonical_barrierArrive h1
    · exact h1
  exact canonical_choice (canonical_goOn (canonical_push h2)) h

theorem canonical_startCopy {q sl} (h : s.canonical = true) : (s.startCopy q sl).canonical = true := by
  unfold State.startCopy
  extract_lets s1 s2
  have h1 : s1.canonical = true := by
    unfold s1
    split
    · exact canonical_barrierMark h
    · exact h
  have h2 : s2.canonical = true := canonical_wakeMail (canonical_onMe h1)
  exact canonical_ite (canonical_endCopy h2) (canonical_ite (canonical_endCopy h2) (canonical_push h2))

theorem canonical_handleCheck {w t b} (h : s.canonical = true) (e : s.handleCheck w = some (t, b)) : t.canonical = true := by
  unfold State.handleCheck at e
  split at e
  · cases e; exact h
  · split at e
    · cases e; exact h
    · extract_lets a at e
      split at e
      · split at e
        · cases e
        · cases e; exact h
      · split at e
        · cases e; exact h
        · split at e
          · next e1 =>
            cases e
            exact canonical_noteAccess (canonical_fst e1 (canonical_readParts h))
          · next e1 =>
            cases e
            exact canonical_fst e1 (canonical_readParts h)

theorem canonical_vstream {len form d a b q arrive} (h : s.canonical = true) : Result.Canonical (s.vstream len form d a b q arrive) := by
  unfold State.vstream
  extract_lets x c sl
  refine canonical_choice h (canonical_choice (canonical_trap h) (canonical_choice (canonical_trap h)
    (canonical_choice (canonical_trap h) (canonical_choice ?_ ?_))))
  · split
    · exact h
    · next e => exact canonical_trap (canonical_handleCheck h e)
    · next e => exact canonical_retire (canonical_startCopy (canonical_handleCheck h e))
  · exact canonical_retire (canonical_startCopy h)

theorem canonical_execSwait {q} (h : s.canonical = true) : Result.Canonical (execSwait q s) := by
  unfold execSwait
  split
  · exact canonical_trap h
  split
  · exact h
  · exact h
  · exact canonical_retire (canonical_advanceGen (canonical_consume h))

theorem canonical_execSquery {d q} (h : s.canonical = true) : Result.Canonical (execSquery d q s) := by
  unfold execSquery
  simp only
  split
  · exact canonical_trap h
  · exact canonical_writeRegV (canonical_ite (canonical_advanceGen (canonical_consume h)) h)

theorem canonical_execFenceSs {sc} (h : s.canonical = true) : Result.Canonical (execFenceSs sc s) := by
  unfold execFenceSs
  split
  · exact h
  · exact canonical_retire (canonical_acquire h)

theorem canonical_execFenceVs {sc} (h : s.canonical = true) : Result.Canonical (execFenceVs sc s) := by
  unfold execFenceVs
  split
  · exact canonical_trap h
  split
  · exact h
  · exact canonical_retire (canonical_acquire h)

theorem canonical_execBarinit {a k} (h : s.canonical = true) : Result.Canonical (execBarinit a k s) := by
  unfold execBarinit
  simp only
  split
  · exact canonical_trap h
  split
  · exact canonical_trap h
  split
  · split
    · exact h
    · exact h
  split
  · exact h
  split
  · exact h
  · exact canonical_trap h

theorem canonical_execBarw {k} (h : s.canonical = true) : Result.Canonical (execBarw k s) := by
  unfold execBarw
  simp only
  split
  · exact canonical_trap h
  split
  · exact canonical_trap h
  split
  · exact canonical_barwReturn h
  · exact h

end Sys2Proof.Machine.State
end

section
/-! SUPPORT. Messages, system calls and the stages of stores and replies keep the tables canonical. -/

namespace Sys2Proof.Machine.State

open Sys2Proof

variable {s : State}

theorem canonical_takeCont {t m} (h : s.canonical = true) : (s.takeCont t m).canonical = true :=
  canonical_onStrand (canonical_acquire h)

theorem canonical_deliver {t m} (h : s.canonical = true) : (s.deliver t m).canonical = true :=
  canonical_ite (canonical_ite (canonical_takeCont h) (canonical_onStrand h)) (canonical_onStrand h)

theorem canonical_execMailboxArrival {n} (h : s.canonical = true) : Result.Canonical (execMailboxArrival n s) := by
  unfold execMailboxArrival
  simp only
  split
  · exact h
  split
  · exact h
  split
  · exact h
  · exact canonical_push (canonical_deliver h)

theorem canonical_execMessageAcknowledgement {n} (h : s.canonical = true) : Result.Canonical (execMessageAcknowledgement n s) := by
  unfold execMessageAcknowledgement
  simp only
  split
  · exact h
  split
  · exact h
  split
  · exact canonical_push (canonical_wakeMail (canonical_onStrand h))
  · exact canonical_wakeMail (canonical_onStrand h)

theorem canonical_execBounceArrival {n} (h : s.canonical = true) : Result.Canonical (execBounceArrival n s) := by
  unfold execBounceArrival
  simp only
  split
  · exact h
  split
  · exact h
  split
  · exact canonical_push (canonical_ite (canonical_deliver (canonical_onStrand h)) (canonical_wakeMail (canonical_onStrand h)))
  · exact canonical_ite (canonical_deliver (canonical_onStrand h)) (canonical_wakeMail (canonical_onStrand h))

theorem canonical_execSendDepart {t} (h : s.canonical = true) : Result.Canonical (execSendDepart t s) := by
  unfold execSendDepart
  simp only
  split
  · exact h
  split
  · exact canonical_nudge (canonical_push (canonical_onStrand h))
  · exact h

theorem canonical_execCompletionMessage {t q} (h : s.canonical = true) : Result.Canonical (execCompletionMessage t q s) := by
  unfold execCompletionMessage
  simp only
  split
  · exact canonical_deliver (canonical_onStrand h)
  · exact h

theorem canonical_execSend {d a b} (h : s.canonical = true) : Result.Canonical (execSend d a b s) := by
  unfold execSend
  simp only
  split
  · exact h
  split
  · exact h
  · exact canonical_nudge h

theorem canonical_mailRead (h : s.canonical = true) : s.mailRead.canonical = true := by
  unfold State.mailRead
  split
  · exact h
  · extract_lets f u
    have hu : u.1.canonical = true := canonical_iteFst (canonical_unitReport (canonical_free h)) h
    exact canonical_ite (canonical_onMe hu) hu

theorem canonical_execRecv {d a} (h : s.canonical = true) : Result.Canonical (execRecv d a s) := by
  unfold execRecv
  extract_lets s0
  have h0 : s0.canonical = true := canonical_mailRead h
  refine canonical_choice (canonical_trap h) ?_
  split
  · exact canonical_writeReg (canonical_setReg h0)
  · extract_lets s1 s2
    have h1 : s1.canonical = true := canonical_onMe h0
    have h2 : s2.canonical = true := canonical_ite (canonical_advanceGen (canonical_consume h1)) (canonical_ite (canonical_acquire h1) h1)
    exact canonical_wakeMail (canonical_writeReg (canonical_setReg h2))

theorem canonical_waitmsg (h : s.canonical = true) : s.waitmsg.canonical = true := by
  unfold State.waitmsg
  extract_lets s0
  have h0 : s0.canonical = true := canonical_mailRead h
  split
  · exact canonical_onMe h0
  · exact canonical_ite (canonical_wakeMail (canonical_takeCont (canonical_onMe h0))) (canonical_retire h0)

theorem canonical_execWaitmsg (h : s.canonical = true) : Result.Canonical (execWaitmsg s) := by
  unfold execWaitmsg
  split
  · exact h
  · exact canonical_waitmsg h

theorem canonical_execSvc {k} (h : s.canonical = true) : Result.Canonical (execSvc k s) := by
  unfold execSvc
  simp only
  split
  · exact canonical_trap h
  · exact h
  · exact canonical_trap h

theorem canonical_unhold (h : s.canonical = true) : s.unhold.canonical = true :=
  canonical_ite (canonical_pumpFocus h) (canonical_ite h (canonical_resumeQueue h))

theorem canonical_execEret (h : s.canonical = true) : Result.Canonical (execEret s) := by
  unfold execEret
  simp only
  split
  · exact canonical_trap h
  · exact canonical_unhold (canonical_ite h h)

theorem canonical_execBrk {k} (h : s.canonical = true) : Result.Canonical (execBrk k s) := by
  unfold execBrk
  split
  · exact h
  · exact canonical_trap h

theorem canonical_execIfence (h : s.canonical = true) : Result.Canonical (execIfence s) := by
  unfold execIfence
  split
  · exact h
  · exact h

theorem canonical_execRact {a} (h : s.canonical = true) : Result.Canonical (execRact a s) := by
  unfold execRact
  simp only
  split
  · exact h
  · exact h

theorem canonical_pokeHome {t} (h : s.canonical = true) : (s.pokeHome t).canonical = true := canonical_ite h h

theorem canonical_homeAt {cn id} (h : s.canonical = true) : (s.homeAt cn id).canonical = true := by
  unfold State.homeAt
  extract_lets s1
  have h1 : s1.canonical = true := canonical_folded h fun _ _ hu => canonical_goOn (canonical_pokeHome (canonical_onStrand hu))
  exact canonical_ite (canonical_push h1) h1

theorem canonical_execSequencerHandoff {t} (h : s.canonical = true) : Result.Canonical (execSequencerHandoff t s) := by
  unfold execSequencerHandoff
  simp only
  refine canonical_pokeHome ?_
  refine canonical_resumeQueue ?_
  split
  · exact h
  · exact canonical_onStrand h

theorem canonical_corruptFirst {r} (h : s.canonical = true) : (s.corruptFirst r).1.canonical = true := by
  unfold State.corruptFirst
  split
  · exact canonical_fire h
  · exact h

theorem canonical_startStep {n} (h : s.canonical = true) : (s.startStep n).canonical = true := by
  unfold State.startStep
  simp only
  split
  · exact h
  · exact canonical_ite (canonical_setEntry (canonical_corruptFirst h)) h

theorem canonical_execSlotStepStart {t n} (h : s.canonical = true) : Result.Canonical (execSlotStepStart t n s) := by
  unfold execSlotStepStart
  split
  · exact canonical_resumeQueue (canonical_inside h fun _ hu => canonical_startStep hu)
  · exact h

theorem canonical_execSlotStepCommit {t n} (h : s.canonical = true) : Result.Canonical (execSlotStepCommit t n s) := by
  unfold execSlotStepCommit
  extract_lets x
  refine canonical_choice h ?_
  split
  · exact h
  · extract_lets s1
    have h1 : s1.canonical = true := canonical_inside h fun _ hu => canonical_commitStep hu
    exact canonical_ite (canonical_nudge h1) (canonical_goOn h1)

theorem canonical_execQueuedTrap {t} (h : s.canonical = true) : Result.Canonical (execQueuedTrap t s) := by
  unfold execQueuedTrap
  simp only
  split
  · exact h
  split
  · exact h
  split
  · exact canonical_inside h fun _ hu => canonical_trapOrWait hu
  · exact h

theorem canonical_execBarvArrival {t n} (h : s.canonical = true) : Result.Canonical (execBarvArrival t n s) := by
  unfold execBarvArrival
  split
  · split
    · exact canonical_goOn (canonical_inside h fun _ hu => canonical_commitStep hu)
    · exact h
  · exact h

theorem canonical_execWriteQueueSend {t} (h : s.canonical = true) : Result.Canonical (execWriteQueueSend t s) := by
  unfold execWriteQueueSend
  simp only
  split
  · exact h
  split
  · exact h
  · exact canonical_goOn (canonical_sendEntry h)

theorem canonical_performEntry {t i e} (h : s.canonical = true) : (s.performEntry t i e).canonical = true := by
  unfold State.performEntry
  extract_lets a s1 s2 s3
  have h1 : s1.canonical = true := canonical_folded (canonical_update h) fun _ _ hu => canonical_writeParts hu
  have h2 : s2.canonical = true := canonical_onStrand (canonical_update h1)
  exact canonical_homeAt (canonical_ite (canonical_push h2) h2)

theorem canonical_recall {l} (h : s.canonical = true) : (s.recall l).canonical = true := h

theorem canonical_servePend {t i p} (h : s.canonical = true) : (s.servePend t i p).canonical = true := by
  unfold State.servePend
  simp only
  split
  · exact h
  split
  · split
    · next e => exact canonical_push (canonical_onStrand (canonical_update (canonical_fst e (canonical_readParts h))))
    · next e => exact canonical_push (canonical_onStrand (canonical_update (canonical_fst e (canonical_readParts h))))
  split
  · next e => exact canonical_push (canonical_onStrand (canonical_update (canonical_fst e (canonical_atomicAt h))))
  · next e => exact canonical_push (canonical_onStrand (canonical_update (canonical_fst e (canonical_atomicAt h))))

theorem canonical_execHomeRequest {t n} (h : s.canonical = true) : Result.Canonical (execHomeRequest t n s) := by
  unfold execHomeRequest
  simp only
  split
  · split
    · exact h
    · exact canonical_ite (canonical_performEntry h) (canonical_folded (canonical_onStrand h) fun _ _ hu => hu)
  split
  · exact h
  split
  · exact canonical_servePend h
  · exact h

theorem canonical_execInvalidationAck {t n} (h : s.canonical = true) : Result.Canonical (execInvalidationAck t n s) := by
  unfold execInvalidationAck
  split
  · refine canonical_folded h fun u a hu => ?_
    split
    · exact canonical_folded hu fun _ _ hu => hu
    · exact hu
  split
  · exact canonical_performEntry h
  · exact h

theorem canonical_execStoreAcknowledgement {t n} (h : s.canonical = true) : Result.Canonical (execStoreAcknowledgement t n s) := by
  unfold execStoreAcknowledgement
  simp only
  split
  · exact h
  · exact canonical_goOn (canonical_ite (canonical_onStrand h) (canonical_push (canonical_onStrand h)))

theorem canonical_execMemoryReply {t n} (h : s.canonical = true) : Result.Canonical (execMemoryReply t n s) := by
  unfold execMemoryReply
  simp only
  split
  · exact h
  split
  · exact h
  split
  · refine canonical_goOn ?_
    split
    · refine canonical_inside (canonical_onStrand h) fun _ hu => ?_
      split
      · refine canonical_takeTrap ?_
        split
        · exact hu
        · exact hu
      · exact canonical_completeAccess hu
    · refine canonical_inside (canonical_onStrand h) fun _ hu => ?_
      split
      · refine canonical_takeTrap ?_
        split
        · exact hu
        · exact hu
      · exact canonical_completeAccess hu
  · exact canonical_goOn (canonical_ite h (canonical_onStrand h))
  · exact canonical_goOn h

theorem canonical_execFetchFill {t} (h : s.canonical = true) : Result.Canonical (execFetchFill t s) := by
  unfold execFetchFill
  split
  · exact h
  split
  · next e => exact canonical_focus (canonical_fst e (canonical_fetch (canonical_focus h ..))) ..
  · exact h

theorem canonical_execHandlerFault {t} (h : s.canonical = true) : Result.Canonical (execHandlerFault t s) := by
  unfold execHandlerFault
  simp only
  split
  · split
    · exact canonical_beginSave (canonical_onStrand h)
    · exact h
  · exact h

end Sys2Proof.Machine.State
end

section
/-! SUPPORT. Saves and restores, debug and error registers keep the tables canonical. -/

namespace Sys2Proof.Machine.State

open Sys2Proof

variable {s : State}

theorem canonical_writeRecord {t} (h : s.canonical = true) : (s.writeRecord t).canonical = true :=
  canonical_homeWrite (canonical_ite h h)

theorem canonical_readOut {k n} (h : s.canonical = true) : (s.readOut k n).1.canonical = true := canonical_ecc h

theorem canonical_putIn {k n w} (h : s.canonical = true) : (s.putIn k n w).canonical = true :=
  canonical_of_wf (Memory.wf_setBytes _ _ (Memory.wf_clear _ _ (canonical_mem h)))
    (NMap.wf_foldl_set _ _ _ (NMap.wf_dropWhere _ (canonical_poison h))) (NMap.wf_dropWhere _ (canonical_synd h)) (canonical_lineKey h)
    (canonical_fw h)

theorem canonical_privateWindow {t} (h : s.canonical = true) : (s.privateWindow t).1.canonical = true :=
  canonical_readOut h

theorem canonical_putWindow {t w} (h : s.canonical = true) : (s.putWindow t w).canonical = true := canonical_putIn h

theorem canonical_saveAt {k w} (h : s.canonical = true) : (s.saveAt k w).canonical = true := h

theorem canonical_leaveCore {core} (h : s.canonical = true) : (s.leaveCore core).canonical = true := by
  unfold State.leaveCore
  simp only
  split
  · exact h
  · exact canonical_onCore (canonical_saveAt (canonical_readOut h))

theorem canonical_giveCore {core tenant} (h : s.canonical = true) : (s.giveCore core tenant).canonical = true :=
  canonical_ite h (canonical_onCore (canonical_saveAt (canonical_putIn (canonical_leaveCore h))))

theorem canonical_dropBarriers {c tenant} (h : s.canonical = true) : (s.dropBarriers c tenant).canonical = true :=
  canonical_ite h h

theorem canonical_saveBarriers {c tenant} (h : s.canonical = true) : (s.saveBarriers c tenant).canonical = true :=
  canonical_ite h (canonical_dropBarriers h)

theorem canonical_retryGroups (h : s.canonical = true) : s.retryGroups.canonical = true := canonical_ite h h

theorem canonical_freed {c} (h : s.canonical = true) : (s.freed c).canonical = true :=
  canonical_retryGroups (canonical_ite h h)

theorem canonical_suspend {t} (h : s.canonical = true) : (s.suspend t).canonical = true :=
  canonical_ite (canonical_ite h h) (canonical_onCluster (canonical_onStrand (canonical_ite (canonical_noteWait h) h)) ..)

theorem canonical_unbind {t} (h : s.canonical = true) : (s.unbind t).1.canonical = true := by
  unfold State.unbind
  extract_lets s1 x ms s2
  have h1 : s1.canonical = true := canonical_onStrand h
  have h2 : s2.canonical = true := canonical_homeWrite (canonical_writeRecord h1)
  clear_value s2
  exact canonical_onStrand h2

theorem canonical_bindSaved {u x window keep} (h : s.canonical = true) : (s.bindSaved u x window keep).canonical = true := by
  unfold State.bindSaved
  extract_lets s1 s2
  have h1 : s1.canonical = true := canonical_onCore (canonical_putWindow (canonical_giveCore h))
  have h2 : s2.canonical = true := canonical_onStrand h1
  exact canonical_suspend (canonical_advanceGen (canonical_ite h2 (canonical_clearMarks h2)))

theorem canonical_fenceFreed {c} (h : s.canonical = true) : (s.fenceFreed c).canonical = true :=
  canonical_folded h fun _ _ hu => canonical_ite (canonical_onCluster (canonical_upd hu ..) ..) hu

theorem canonical_execSaveComplete {t} (h : s.canonical = true) : Result.Canonical (execSaveComplete t s) := by
  unfold execSaveComplete
  extract_lets x c first
  split
  · refine canonical_choice h ?_
    split
    · exact canonical_push (canonical_inside h fun _ hu => canonical_trapHead hu)
    extract_lets s1 win r saved left cleared apart told
    have h1 : s1.canonical = true :=
      canonical_fenceFreed (canonical_onStrand (canonical_inside h fun _ hu => canonical_scrubWords hu ..))
    have hr : r.1.canonical = true := canonical_unbind (canonical_privateWindow h1)
    have hsaved : saved.canonical = true := canonical_onSys (canonical_saveAt hr)
    have hleft : left.canonical = true := canonical_ite hsaved (canonical_leaveCore hsaved)
    have hcleared : cleared.canonical = true := canonical_saveBarriers hleft
    have hapart : apart.canonical = true := canonical_assignLanes (canonical_suspend (canonical_writeRecord h1))
    have htold : told.canonical = true := canonical_ite (canonical_post hapart ..) hapart
    clear_value r cleared told
    split
    · split
      · exact canonical_push (canonical_assignLanes (canonical_suspend (canonical_writeRecord h1)))
      · exact canonical_push (canonical_freed (canonical_assignLanes (canonical_assignLanes (canonical_dropBarriers
          (canonical_bindSaved hr)))))
    · exact canonical_push (canonical_freed (canonical_assignLanes hcleared))
    · exact canonical_ite (canonical_push htold) htold
  · exact h

theorem canonical_rejoin {t} (h : s.canonical = true) : (s.rejoin t).canonical = true :=
  canonical_onCluster (canonical_noteWait h) ..

theorem canonical_rewait {t p} (h : s.canonical = true) : (s.rewait t p).canonical = true := by
  unfold State.rewait
  simp only
  split
  · exact canonical_inside (canonical_onStrand h) fun _ hu => canonical_waitmsg hu
  · exact canonical_ite (canonical_barwReturn h) (canonical_onStrand h)
  · exact canonical_ite (canonical_onStrand h) (canonical_onStrand h)
  · exact canonical_assignLanes (canonical_rejoin (canonical_onStrand h))
  · exact canonical_onStrand h
  · exact canonical_onStrand h
  · exact canonical_onStrand h

theorem canonical_goesOn {t w} (h : s.canonical = true) : (s.goesOn t w).canonical = true := by
  unfold State.goesOn
  simp only
  refine canonical_goOn ?_
  refine canonical_wakeMail ?_
  split
  · exact canonical_onStrand (canonical_overwriteStray h)
  split
  · exact canonical_rewait (canonical_onStrand (canonical_overwriteStray h))
  · exact canonical_onStrand (canonical_overwriteStray h)

theorem canonical_execRestoreComplete {t} (h : s.canonical = true) : Result.Canonical (execRestoreComplete t s) := by
  unfold execRestoreComplete
  simp only
  split
  · split
    · exact canonical_goesOn h
    · exact h
  · split
    · split
      · exact canonical_goesOn h
      · exact canonical_onStrand h
    · exact h
  · exact h

theorem canonical_settleGrant {t} (h : s.canonical = true) : (s.settleGrant t).canonical = true := by
  unfold State.settleGrant
  extract_lets x ls
  split
  · extract_lets s1
    have h1 : s1.canonical = true := canonical_inside h fun _ hu => canonical_finishGrant hu
    exact canonical_ite (canonical_assignLanes h1) h1
  · exact canonical_inside h fun _ hu => canonical_finishEnter hu
  · exact h

theorem canonical_execGrantComplete {t} (h : s.canonical = true) : Result.Canonical (execGrantComplete t s) := by
  unfold execGrantComplete
  split
  · exact canonical_settleGrant h
  · exact h

theorem canonical_moveLanes {ls} (h : s.canonical = true) : (s.moveLanes ls).canonical = true :=
  canonical_overwriteStray (canonical_scrubWords h ..)

theorem canonical_execRelocate {t} (h : s.canonical = true) : Result.Canonical (execRelocate t s) := by
  unfold execRelocate
  extract_lets x
  split
  · extract_lets s1
    have h1 : s1.canonical = true := canonical_leaveWaiting (canonical_onStrand (canonical_inside h fun _ hu => canonical_moveLanes hu))
    exact canonical_push (canonical_assignLanes (canonical_detach h1))
  · exact h

theorem canonical_execMtenterComplete {t} (h : s.canonical = true) : Result.Canonical (execMtenterComplete t s) := by
  unfold execMtenterComplete
  split
  · exact canonical_settleGrant h
  · exact h

theorem canonical_setMark {t target a} (h : s.canonical = true) : (s.setMark t target a).canonical = true :=
  canonical_onStrand h

theorem canonical_execLamark {c v} (h : s.canonical = true) : Result.Canonical (execLamark c v s) := by
  unfold execLamark
  simp only
  split
  · exact h
  · exact canonical_ite (canonical_wr h ..) (canonical_setMark (canonical_wr h ..))

theorem canonical_execAllocatorMark {t} (h : s.canonical = true) : Result.Canonical (execAllocatorMark t s) := by
  unfold execAllocatorMark
  split
  · exact h
  split
  · exact canonical_onStrand (canonical_setMark h)
  · exact h

theorem canonical_execDeadlineExpiry {t} (h : s.canonical = true) : Result.Canonical (execDeadlineExpiry t s) := by
  unfold execDeadlineExpiry
  split
  · exact canonical_beginSave h
  · exact h

theorem canonical_execParkExpiry {t} (h : s.canonical = true) : Result.Canonical (execParkExpiry t s) := by
  unfold execParkExpiry
  split
  · exact canonical_beginSave h
  · exact h

theorem canonical_halt {t} (h : s.canonical = true) : (s.halt t).canonical = true :=
  canonical_onStrand (canonical_scDone (canonical_dropGrant h))

theorem canonical_execDebugHalt {t} (h : s.canonical = true) : Result.Canonical (execDebugHalt t s) := by
  unfold execDebugHalt
  simp only
  split
  · exact canonical_halt h
  · exact h

theorem canonical_debugResume {t} (h : s.canonical = true) : (s.debugResume t).canonical = true := by
  unfold State.debugResume
  simp only
  split
  · exact h
  split
  · exact canonical_goOn (canonical_pushAll (canonical_onStrand h))
  · exact canonical_onStrand h

theorem canonical_writeDbgctl {t v} (h : s.canonical = true) : (s.writeDbgctl t v).canonical = true := by
  unfold State.writeDbgctl
  extract_lets s1 s2
  have h1 : s1.canonical = true := canonical_onStrand h
  have h2 : s2.canonical = true := canonical_ite (canonical_debugResume h1) h1
  exact canonical_ite (canonical_push h2) h2

theorem canonical_answer {v} (h : s.canonical = true) : (s.answer v).canonical = true := h

theorem canonical_debugWindow {c k w} (h : s.canonical = true) : (s.debugWindow c k w).canonical = true := by
  unfold State.debugWindow
  simp only
  split
  · exact canonical_answer (canonical_ite (canonical_free h) h)
  · exact canonical_ite (canonical_onStrand h) h

theorem canonical_execMctpDebugRequest {c off w} (h : s.canonical = true) : Result.Canonical (execMctpDebugRequest c off w s) := by
  unfold execMctpDebugRequest
  simp only
  split
  · exact h
  split
  · split
    · exact canonical_writeDbgctl h
    · exact h
  split
  · split
    · exact canonical_wr h ..
    · exact h
  · exact canonical_ite (canonical_debugWindow h) h

theorem canonical_execFirmwareCallReturn {t r0 r1} (h : s.canonical = true) : Result.Canonical (execFirmwareCallReturn t r0 r1 s) := by
  unfold execFirmwareCallReturn
  simp only
  split
  · exact canonical_onStrand h
  · exact h

theorem canonical_putStep {t n k q r} (h : s.canonical = true) : (s.putStep t n k q r).canonical = true :=
  canonical_onStrand h

theorem canonical_commitChecked {t n q} (h : s.canonical = true) : (s.commitChecked t n q).canonical = true :=
  canonical_goOn (canonical_inside h fun _ hu => canonical_commitStep hu)

theorem canonical_laneRecords {t q r sev roll lanes} (h : s.canonical = true) : (s.laneRecords t q r sev roll lanes).canonical = true :=
  canonical_inside h fun _ hu => canonical_update (canonical_folded hu fun _ _ hu => canonical_logLane hu ..)

theorem canonical_countLanes {t lanes} (h : s.canonical = true) : (s.countLanes t lanes).canonical = true :=
  canonical_inside h fun _ hu => canonical_folded hu fun _ _ hu => canonical_countLane hu ..

theorem canonical_markLanes {t lanes} (h : s.canonical = true) : (s.markLanes t lanes).canonical = true :=
  canonical_inside h fun _ hu => canonical_folded hu fun _ _ hu => canonical_markLane hu ..

theorem canonical_abandon {t n q} (h : s.canonical = true) : (s.abandon t n q).canonical = true :=
  canonical_goOn (canonical_inside h fun _ hu => canonical_saveHeld hu)

theorem canonical_execRecheckSecondExecution {t n} (h : s.canonical = true) : Result.Canonical (execRecheckSecondExecution t n s) := by
  unfold execRecheckSecondExecution
  simp only
  split
  · exact h
  split
  · exact h
  split
  · exact h
  split
  · exact canonical_resumeQueue (canonical_push (canonical_putStep h))
  · exact h

theorem canonical_execRecheckCompare {t n bad} (h : s.canonical = true) : Result.Canonical (execRecheckCompare t n bad s) := by
  unfold execRecheckCompare
  simp only
  split
  · exact canonical_ite (canonical_commitChecked h) (canonical_push (canonical_putStep h))
  · exact h

theorem canonical_execRecheckVote {t n _bad nomaj} (h : s.canonical = true) : Result.Canonical (execRecheckVote t n _bad nomaj s) := by
  unfold execRecheckVote
  simp only
  split
  · split
    · exact canonical_commitChecked (canonical_countLanes (canonical_laneRecords h))
    split
    · exact canonical_abandon (canonical_countLanes (canonical_laneRecords (canonical_laneRecords h)))
    · exact canonical_push (canonical_putStep h)
  · exact h

theorem canonical_execRecheckRollback {t n _nomaj agree} (h : s.canonical = true) :
    Result.Canonical (execRecheckRollback t n _nomaj agree s) := by
  unfold execRecheckRollback
  simp only
  split
  · exact h
  split
  · exact canonical_commitChecked (canonical_countLanes (canonical_laneRecords (canonical_laneRecords (canonical_markLanes h))))
  split
  · exact canonical_push (canonical_putStep (canonical_markLanes h))
  · exact canonical_abandon (canonical_countLanes (canonical_laneRecords (canonical_laneRecords (canonical_markLanes h))))

theorem canonical_writeLgstat {c p v} (h : s.canonical = true) : (s.writeLgstat c p v).canonical = true :=
  canonical_ite (canonical_markLane (canonical_upd h ..) ..) (canonical_upd h ..)

theorem canonical_execSubstitutionDone {c p} (h : s.canonical = true) : Result.Canonical (execSubstitutionDone c p s) := by
  unfold execSubstitutionDone
  simp only
  split
  · exact canonical_folded (canonical_onCluster (canonical_upd (canonical_copyLane h ..) ..) ..) fun _ _ hu => canonical_goOn hu
  · exact h

theorem canonical_writeDschk {c v} (h : s.canonical = true) : (s.writeDschk c v).canonical = true := by
  unfold State.writeDschk
  extract_lets old chk go check err put
  have written : ∀ e k, (put e k).canonical = true := fun _ _ => canonical_wr h ..
  exact canonical_ite (written ..) (canonical_ite (canonical_wr h ..) (canonical_ite (written ..) (canonical_ite (written ..)
    (canonical_ite (written ..) (canonical_push (canonical_onCluster (written ..) ..))))))

theorem canonical_plant {k d y} (h : s.canonical = true) : (s.plant k d y).canonical = true :=
  canonical_of_wf (Memory.wf_setBytes _ _ (canonical_mem h)) (NMap.wf_set _ _ (canonical_poison h)) (NMap.wf_set _ _ (canonical_synd h))
    (canonical_lineKey h) (canonical_fw h)

theorem canonical_diagStore {c} (h : s.canonical = true) : (s.diagStore c).canonical = true := by
  unfold State.diagStore
  simp only
  split
  · exact canonical_ite (canonical_plant h) h
  · exact canonical_plant h
  split
  · exact h
  split
  · split
    · exact canonical_onStrand h
    · exact h
  · exact canonical_onStrand h

theorem canonical_execDiagnosticStore {c} (h : s.canonical = true) : Result.Canonical (execDiagnosticStore c s) := by
  unfold execDiagnosticStore
  split
  · exact canonical_onCluster (canonical_diagStore h) ..
  · exact h

theorem canonical_execDinjArm {c v} (h : s.canonical = true) : Result.Canonical (execDinjArm c v s) := by
  unfold execDinjArm
  simp only
  split
  · exact canonical_upd h ..
  · exact canonical_wr h ..

theorem canonical_issueInject (h : s.canonical = true) : s.issueInject.1.canonical = true := by
  unfold State.issueInject
  refine canonical_iteFst h ?_
  split
  · exact h
  · extract_lets way a s1 f b
    have ha : a.1.canonical = true := canonical_unitReport h
    have h1 : s1.canonical = true := canonical_ite (canonical_onCore ha) ha
    have hb : b.1.canonical = true := canonical_unitReport (canonical_free h1)
    exact canonical_iteFst h1 (canonical_iteFst (canonical_onMe hb) hb)

theorem canonical_wipe {k n} (h : s.canonical = true) : (s.wipe k n).canonical = true :=
  canonical_of_wf (Memory.wf_clear _ _ (canonical_mem h)) (NMap.wf_dropWhere _ (canonical_poison h))
    (NMap.wf_dropWhere _ (canonical_synd h)) (canonical_lineKey h) (canonical_fw h)

theorem canonical_execCsplitApply {c} (h : s.canonical = true) : Result.Canonical (execCsplitApply c s) := by
  unfold execCsplitApply
  simp only
  split
  · exact canonical_onCluster (canonical_wipe h) ..
  · exact h

end Sys2Proof.Machine.State
end

section
/-! SUPPORT. The die controls, the command processor and the scheduler keep the tables canonical. -/

namespace Sys2Proof.Machine.State

open Sys2Proof

variable {s : State}

theorem canonical_sendHeld {t} (h : s.canonical = true) : (s.sendHeld t).canonical = true := by
  unfold State.sendHeld
  simp only
  refine canonical_folded h fun u a hu => ?_
  split
  · exact canonical_ite (canonical_onStrand (canonical_sendPend hu)) hu
  · exact hu

theorem canonical_releaseKept (h : s.canonical = true) : s.releaseKept.canonical = true := by
  unfold State.releaseKept
  extract_lets s1 held s2 s3
  have h1 : s1.canonical = true := canonical_folded h fun _ _ hu => canonical_sendHeld hu
  have h2 : s2.canonical = true := canonical_pushFront (canonical_onSys h1)
  exact canonical_pushAll (canonical_folded h2 fun _ _ hu => canonical_goOn hu)

theorem canonical_openRow {pa} (h : s.canonical = true) : (s.openRow pa).canonical = true := by
  unfold State.openRow
  split
  · exact h
  · exact h

theorem canonical_execRowIdleClose {pa} (h : s.canonical = true) : Result.Canonical (execRowIdleClose pa s) := by
  unfold execRowIdleClose
  split
  · exact h
  · exact h

theorem canonical_execRactArrival {n} (h : s.canonical = true) : Result.Canonical (execRactArrival n s) := by
  unfold execRactArrival
  split
  · exact h
  split
  · exact canonical_openRow h
  · exact h

theorem canonical_execWalkComplete {t va} (h : s.canonical = true) : Result.Canonical (execWalkComplete t va s) := by
  unfold execWalkComplete
  simp only
  split
  · exact h
  split
  · exact canonical_noteWalk h
  · exact canonical_update (canonical_logEntry h)
  · exact h

theorem canonical_writeTlbinv {d v} (h : s.canonical = true) : (s.writeTlbinv d v).canonical = true :=
  canonical_ite h (canonical_ite (canonical_onSys (canonical_wr h ..)) (canonical_wr h ..))

theorem canonical_execTlbinvDone {die} (h : s.canonical = true) : Result.Canonical (execTlbinvDone die s) := by
  unfold execTlbinvDone
  simp only
  split
  · exact h
  · exact h

theorem canonical_writeMigctl {d n v} (h : s.canonical = true) : (s.writeMigctl d n v).canonical = true := by
  unfold State.writeMigctl
  extract_lets r i done s1 s2 src dst
  have h1 : s1.canonical = true := canonical_ite (canonical_onSys (canonical_wr h ..)) h
  have h2 : s2.canonical = true := canonical_ite (canonical_upd h1 ..) h1
  exact canonical_ite h2 (canonical_ite (canonical_upd h2 ..) (canonical_onSys (canonical_wr h2 ..)))

theorem canonical_copyLine {fr to_} (h : s.canonical = true) : (s.copyLine fr to_).canonical = true := by
  exact canonical_of_wf (Memory.wf_setBytes _ _ (canonical_mem h)) (NMap.wf_foldl_copy _ _ _ (canonical_poison h))
    (NMap.wf_foldl_copy _ _ _ (canonical_synd h)) (NMap.wf_set _ _ (canonical_lineKey h)) (canonical_fw h)

theorem canonical_execMigrationLineDone {die q} (h : s.canonical = true) : Result.Canonical (execMigrationLineDone die q s) := by
  unfold execMigrationLineDone
  simp only
  split
  · exact canonical_wr (canonical_update (canonical_moveLine (canonical_copyLine h))) ..
  · exact h

theorem canonical_writeMscsp {d v} (h : s.canonical = true) : (s.writeMscsp d v).canonical = true :=
  canonical_ite h (canonical_wr (canonical_wipe h) ..)

theorem canonical_execMscspConversionDone {die} (h : s.canonical = true) : Result.Canonical (execMscspConversionDone die s) := by
  unfold execMscspConversionDone
  simp only
  split
  · exact canonical_releaseKept (canonical_flushMscWays (canonical_upd (canonical_update h) ..))
  · exact h

theorem canonical_drStore {pa d chk} (h : s.canonical = true) : (s.drStore pa d chk).canonical = true :=
  canonical_plant h

theorem canonical_dropCopies {l} (h : s.canonical = true) : (s.dropCopies l).canonical = true :=
  canonical_dropReplicas (canonical_folded (canonical_folded h fun _ _ hu => hu) fun _ _ hu => hu)

theorem canonical_writeDrchk {d v} (h : s.canonical = true) : (s.writeDrchk d v).canonical = true := by
  unfold State.writeDrchk
  extract_lets r old go check pa put
  have written : ∀ e k, (put e k).canonical = true := fun _ _ => canonical_wr h ..
  refine canonical_ite (written ..) (canonical_ite (canonical_wr h ..) (canonical_ite (written ..) (canonical_ite (written ..)
    (canonical_ite (written ..) ?_))))
  exact canonical_pushAll (canonical_flushLines (canonical_dropCopies (canonical_drStore (written ..))))

theorem canonical_replay {key die w2} (h : s.canonical = true) : (s.replay key die w2).canonical = true :=
  canonical_ite (canonical_onSys (canonical_logDie h)) h

theorem canonical_writeKeycmd {v} (h : s.canonical = true) : (s.writeKeycmd v).canonical = true :=
  canonical_ite (canonical_wr h ..) (canonical_ite (canonical_onSys (canonical_wr h ..)) (canonical_wr h ..))

theorem canonical_execKeyInstallDone (h : s.canonical = true) : Result.Canonical (execKeyInstallDone s) := by
  unfold execKeyInstallDone
  simp only
  split
  · exact canonical_releaseKept (canonical_flushLines (canonical_onSys (canonical_wr (canonical_onSys (canonical_update h)) ..)))
  · exact h

theorem canonical_clearFar {o} (h : s.canonical = true) : (s.clearFar o).canonical = true := canonical_ite h h

theorem canonical_cpReset {q} (h : s.canonical = true) : (s.cpReset q).canonical = true :=
  canonical_ite (canonical_clearFar h) (canonical_onSys (canonical_clearFar h))

theorem canonical_stopQueue {q why} (h : s.canonical = true) : (s.stopQueue q why).canonical = true := by
  unfold State.stopQueue
  simp only
  split
  · exact canonical_setFnevt (canonical_cpReset (canonical_onSys (canonical_upd h ..)))
  · exact canonical_cpReset (canonical_onSys (canonical_upd h ..))

theorem canonical_wakeQueue {n} (h : s.canonical = true) : (s.wakeQueue n).canonical = true := canonical_ite h h

theorem canonical_execQnotifyWrite {q v} (h : s.canonical = true) : Result.Canonical (execQnotifyWrite q v s) := by
  unfold execQnotifyWrite
  simp only
  split
  · exact h
  split
  · exact canonical_wakeQueue h
  split
  · exact canonical_wakeQueue (canonical_upd h ..)
  · exact canonical_push (canonical_wakeQueue (canonical_wr h ..))

theorem canonical_execQstatRestart {q v} (h : s.canonical = true) : Result.Canonical (execQstatRestart q v s) := by
  unfold execQstatRestart
  simp only
  split
  · exact h
  · exact canonical_push (canonical_upd h ..)

theorem canonical_cpFail {a addr n f} (h : s.canonical = true) : (s.cpFail a addr n f).1.canonical = true := by
  unfold State.cpFail
  split
  · next e => exact canonical_failure h e
  · exact h

theorem canonical_askWord {a o p addr n data} (h : s.canonical = true) : (s.askWord a o p addr n data).canonical = true := by
  unfold State.askWord
  simp only
  split
  · exact h
  · exact canonical_onSys (canonical_request h)
  · exact h

theorem canonical_cpFar {a e p addr data} (h : s.canonical = true) : (s.cpFar a e p addr data).1.canonical = true := by
  unfold State.cpFar
  split
  · exact canonical_askWord h
  split
  · exact h
  · exact h
  · exact h

theorem canonical_cpRead {a e addr} (h : s.canonical = true) : (s.cpRead a e addr).1.canonical = true := by
  unfold State.cpRead
  simp only
  split
  · split
    · exact canonical_cpFar (canonical_noteAccess h)
    split
    · exact h
    split
    · next e => exact canonical_fst e (canonical_readParts (canonical_noteAccess h))
    · next e => exact canonical_fst e (canonical_readParts (canonical_noteAccess h))
  · exact canonical_cpFail h

theorem canonical_cpReads {a e addr n} (h : s.canonical = true) : (s.cpReads a e addr n).1.canonical = true := by
  induction n generalizing s addr with
  | zero => exact h
  | succ n ih =>
    unfold State.cpReads
    split
    · next read =>
      have h1 := canonical_fst read (canonical_cpRead h)
      split
      · next rest => exact canonical_fst rest (ih h1)
      · exact ih h1
    · exact canonical_cpRead h

theorem canonical_cpWrite {a e addr v} (h : s.canonical = true) : (s.cpWrite a e addr v).1.canonical = true := by
  unfold State.cpWrite
  simp only
  split
  · split
    · exact canonical_cpFar (canonical_noteAccess h)
    split
    · exact h
    · exact canonical_writeParts (canonical_noteAccess h)
  · exact canonical_cpFail h

theorem canonical_cpTranslates {a f addr n} (h : s.canonical = true) : (s.cpTranslates a f addr n).1.canonical = true := by
  unfold State.cpTranslates
  split
  · exact canonical_noteAccess h
  · exact canonical_cpFail h

theorem canonical_keep {e} (h : s.canonical = true) : (s.keep e).canonical = true := h

theorem canonical_unkeep (h : s.canonical = true) : s.unkeep.canonical = true := h

theorem canonical_onLaunch {n f} (h : s.canonical = true) : (s.onLaunch n f).canonical = true := h

theorem canonical_lookAt {q} (h : s.canonical = true) : (s.lookAt q).canonical = true := h

theorem canonical_checkDone {n} (h : s.canonical = true) : (s.checkDone n).canonical = true := by
  unfold State.checkDone
  split
  · exact canonical_ite (canonical_ite h h) h
  · exact h

theorem canonical_reported {l} (h : s.canonical = true) : (s.reported l).canonical = true := by
  unfold State.reported
  simp only
  split
  · exact canonical_ite h h
  · exact h

theorem canonical_unreported {l} (h : s.canonical = true) : (s.unreported l).canonical = true := canonical_stopQueue h

theorem canonical_signalReply {tag ok} (h : s.canonical = true) : (s.signalReply tag ok).canonical = true := by
  unfold State.signalReply
  simp only
  split
  · exact h
  split
  · exact canonical_ite (canonical_reported h) (canonical_unreported h)
  · exact h

theorem canonical_execSignalDecrement {n} (h : s.canonical = true) : Result.Canonical (execSignalDecrement n s) := by
  unfold execSignalDecrement
  split
  · exact h
  refine canonical_choice h ?_
  extract_lets a addr minus sent s1 tag
  have h1 : s1.canonical = true := canonical_noteAccess h
  split
  · split
    · exact canonical_onSys (canonical_onSys (canonical_update h1))
    · exact canonical_onSys (canonical_request (canonical_update h1))
    · refine canonical_choice (canonical_keep h) ?_
      split
      · next e => exact canonical_reported (canonical_fst e (canonical_atomicAt h1))
      · next e => exact canonical_unreported (canonical_fst e (canonical_atomicAt h1))
  · exact h
  split
  · next e => exact canonical_unreported (canonical_failure h e)
  · exact canonical_keep h

theorem canonical_farReply {tag v} (h : s.canonical = true) : (s.farReply tag v).canonical = true := by
  unfold State.farReply
  simp only
  split
  · exact h
  split
  · exact canonical_unkeep (canonical_ite (canonical_onSys h) (canonical_logDie h))
  · exact canonical_ite h h

theorem canonical_systemReply {tag v} (h : s.canonical = true) : (s.systemReply tag v).canonical = true :=
  canonical_ite (canonical_farReply h) (canonical_signalReply h)

theorem canonical_cpStop {n e} (h : s.canonical = true) : (s.cpStop n e).canonical = true := canonical_stopQueue h

theorem canonical_cpStart {q ws args} (h : s.canonical = true) : Result.Canonical (s.cpStart q ws args) := by
  unfold State.cpStart
  extract_lets n ctl tenant hd set held ready
  split
  · exact canonical_onSys h
  split
  · next e => exact canonical_cpStop (canonical_fst e (canonical_cpWrite h))
  · exact canonical_keep (canonical_onSys h)
  · next e => exact canonical_onSys (canonical_fst e (canonical_cpWrite h))
  · next e =>
    exact canonical_checkDone (canonical_push (canonical_push (canonical_onSys (canonical_onSys
      (canonical_clearFar (canonical_fst e (canonical_cpWrite h)))))))

theorem canonical_execCpServePacket {q} (h : s.canonical = true) : Result.Canonical (execCpServePacket q s) := by
  unfold execCpServePacket
  extract_lets n ctl a e at_ andThen
  have goesOn : ∀ (r : State × CpRes) (k : State → List Byte → Result), r.1.canonical = true →
      (∀ (u : State) bs, u.canonical = true → Result.Canonical (k u bs)) → Result.Canonical (andThen r k) := by
    rintro ⟨s1, bs | _ | _ | _⟩ k hr keeps
    · exact keeps _ _ hr
    · exact canonical_cpStop hr
    · exact canonical_keep h
    · exact hr
  clear_value andThen
  refine canonical_choice h ?_
  split
  · exact h
  · exact h
  · exact canonical_cpStart h
  refine goesOn _ _ (canonical_cpRead h) fun s0 hs h0 => canonical_choice (canonical_onSys (canonical_clearFar h0)) ?_
  refine goesOn _ _ (canonical_cpReads h0) fun s1 bs h1 => ?_
  extract_lets ws sig
  refine canonical_choice (canonical_cpStop h1) (canonical_choice (canonical_cpStop h1) (canonical_choice (canonical_cpStop h1) ?_))
  refine goesOn _ _ (canonical_cpReads h1) fun s2 args h2 => goesOn _ _ (canonical_cpTranslates h2) fun s3 _ h3 => ?_
  refine goesOn _ _ (canonical_iteFst h3 (canonical_cpTranslates h3)) fun s4 _ h4 => ?_
  exact canonical_choice (canonical_cpStop h4) (canonical_cpStart h4)

theorem canonical_execPacketClearAck {q} (h : s.canonical = true) : Result.Canonical (execPacketClearAck q s) := by
  unfold execPacketClearAck
  simp only
  split
  · exact canonical_lookAt (canonical_upd (canonical_onSys h) ..)
  · exact h

theorem canonical_bindInstance {l g j} (h : s.canonical = true) : (s.bindInstance l g j).canonical = true := by
  unfold State.bindInstance
  simp only
  split
  · exact h
  · exact canonical_advanceGen (canonical_clearMarks (canonical_onStrand (canonical_onCore (canonical_putWindow (canonical_giveCore h)))))

theorem canonical_execGroupPlacement {n} (h : s.canonical = true) : Result.Canonical (execGroupPlacement n s) := by
  unfold execGroupPlacement
  simp only
  split
  · exact h
  · exact canonical_push (canonical_lookAt (canonical_onLaunch (canonical_folded h fun _ _ hu => canonical_bindInstance hu)))

theorem canonical_countTrigger {t} (h : s.canonical = true) : (s.countTrigger t).canonical = true := by
  unfold State.countTrigger
  simp only
  split
  · exact h
  split
  · exact canonical_onStrand h
  split
  · exact canonical_ite (canonical_lookAt (canonical_onLaunch (canonical_onStrand h))) (canonical_onLaunch (canonical_onStrand h))
  · exact canonical_onLaunch (canonical_onStrand h)

theorem canonical_execTriggerMarkCount {t} (h : s.canonical = true) : Result.Canonical (execTriggerMarkCount t s) := by
  unfold execTriggerMarkCount
  split
  · exact canonical_countTrigger h
  · exact h

theorem canonical_freeContext {t} (h : s.canonical = true) : (s.freeContext t).canonical = true := by
  unfold State.freeContext
  extract_lets x c first s0 s1
  have h0 : s0.canonical = true := canonical_inside h fun _ hu => canonical_leaveStray hu
  have h1 : s1.canonical = true := canonical_onStrand (canonical_leaveSuspended (canonical_leaveWaiting (canonical_clearMarks h0)))
  exact canonical_freed (canonical_wakeMail (canonical_assignLanes (canonical_fenceFreed (canonical_dropBarriers h1))))

theorem canonical_execExitFinish {t} (h : s.canonical = true) : Result.Canonical (execExitFinish t s) := by
  unfold execExitFinish
  extract_lets x s1
  have h1 : s1.canonical = true := canonical_freeContext (canonical_countTrigger h)
  refine canonical_choice ?_ h
  split
  · extract_lets s2
    have h2 : s2.canonical = true := canonical_checkDone (canonical_onLaunch h1)
    exact canonical_ite (canonical_push h2) h2
  · exact h1

theorem canonical_execMsixSend {f n} (h : s.canonical = true) : Result.Canonical (execMsixSend f n s) := by
  unfold execMsixSend
  simp only
  split
  · exact canonical_upd h ..
  · exact canonical_onSys (canonical_upd h ..)

theorem canonical_sendPending {f} (h : s.canonical = true) : (s.sendPending f).canonical = true := h

theorem canonical_withdraw {t} (h : s.canonical = true) : (s.withdraw t).canonical = true := by
  unfold State.withdraw
  simp only
  split
  · exact canonical_onCluster (canonical_onStrand h) ..
  · exact canonical_ite (canonical_rejoin (canonical_onStrand h)) h
  · exact canonical_ite (canonical_rejoin (canonical_onStrand h)) h
  · exact h

theorem canonical_saveFor {t w} (h : s.canonical = true) : (s.saveFor t w).canonical = true := by
  unfold State.saveFor
  simp only
  split
  · exact canonical_push (canonical_leaveSuspended (canonical_onStrand (canonical_withdraw h)))
  · exact canonical_onStrand (canonical_withdraw h)
  · exact canonical_withdraw h
  · exact canonical_beginSave (canonical_withdraw h)

theorem canonical_preempt {t} (h : s.canonical = true) : (s.preempt t).canonical = true := by
  unfold State.preempt
  simp only
  split
  · exact canonical_onStrand (canonical_withdraw h)
  · exact canonical_onStrand (canonical_withdraw h)
  · exact canonical_onStrand (canonical_withdraw h)
  · exact canonical_beginSave (canonical_onStrand (canonical_withdraw h))

theorem canonical_releaseHeld {t} (h : s.canonical = true) : (s.releaseHeld t).canonical = true := by
  unfold State.releaseHeld
  extract_lets s0 s1 x
  have h1 : s1.canonical = true := canonical_onStrand (canonical_ite h (canonical_noteWait h))
  split
  · exact canonical_ite (canonical_push h1) (canonical_assignLanes h1)
  · exact h1

theorem canonical_switchOff {c tenant} (h : s.canonical = true) : (s.switchOff c tenant).canonical = true := by
  unfold State.switchOff
  extract_lets s1 s2
  have h1 : s1.canonical = true := canonical_folded h fun _ _ hu => canonical_saveFor hu
  exact canonical_saveBarriers (canonical_folded h1 fun _ _ hu => canonical_ite hu (canonical_leaveCore hu))

theorem canonical_switchOffAll {tenant fn} (h : s.canonical = true) : (s.switchOffAll tenant fn).canonical = true :=
  canonical_folded (canonical_onSys (canonical_folded h fun _ _ hu => canonical_stopQueue hu)) fun _ _ hu => canonical_switchOff hu

theorem canonical_dropTenant {tenant} (h : s.canonical = true) : (s.dropTenant tenant).canonical = true := h

theorem canonical_endInstance {t} (h : s.canonical = true) : (s.endInstance t).canonical = true := by
  unfold State.endInstance
  extract_lets s1
  have h1 : s1.canonical = true := canonical_onStrand (canonical_scDone (canonical_leaveSuspended (canonical_leaveWaiting
    (canonical_dropGrant h))))
  exact canonical_nudge (canonical_pokeHome (canonical_wakeMail h1))

theorem canonical_endLaunch {n} (h : s.canonical = true) : (s.endLaunch n).canonical = true :=
  canonical_checkDone (canonical_onSys (canonical_folded (canonical_folded h fun _ _ hu => canonical_endInstance hu) fun _ _ hu => hu))

theorem canonical_schStart {v} (h : s.canonical = true) : (s.schStart v).canonical = true := by
  unfold State.schStart
  simp only
  split
  · exact canonical_preempt h
  · exact canonical_saveFor h
  · exact canonical_releaseHeld h
  · exact canonical_switchOff h
  · exact canonical_switchOffAll h
  · split
    · exact canonical_endLaunch h
    · exact h
  · exact h

theorem canonical_writeSchcmd {v} (h : s.canonical = true) : (s.writeSchcmd v).canonical = true :=
  canonical_ite h (canonical_ite (canonical_wr h ..) (canonical_ite (canonical_onSys (canonical_wr h ..))
    (canonical_push (canonical_schStart (canonical_onSys (canonical_wr h ..))))))

theorem canonical_clearMsix {f} (h : s.canonical = true) : (s.clearMsix f).canonical = true :=
  canonical_wr (canonical_wr (canonical_folded h fun _ _ hu => canonical_wr (canonical_wr hu ..) ..) ..) ..

theorem canonical_finishFlr (h : s.canonical = true) : s.finishFlr.canonical = true :=
  canonical_folded h fun _ _ hu => canonical_ite (canonical_setFnevt (canonical_onSys (canonical_clearMsix hu))) hu

theorem canonical_execSchcmdComplete (h : s.canonical = true) : Result.Canonical (execSchcmdComplete s) := by
  unfold execSchcmdComplete
  extract_lets s0
  have h0 : s0.canonical = true := canonical_finishFlr h
  split
  · exact h0
  · refine canonical_choice h0 ?_
    extract_lets s1 w
    have h1 : s1.canonical = true := canonical_ite (canonical_dropTenant h0) h0
    exact canonical_post (canonical_onSys (canonical_wr h1 ..)) ..

theorem canonical_execVfFlr {f} (h : s.canonical = true) : Result.Canonical (execVfFlr f s) := by
  unfold execVfFlr
  simp only
  split
  · exact h
  · exact canonical_push (canonical_onSys (canonical_switchOffAll h))

theorem canonical_execVfFlrIdle {f} (h : s.canonical = true) : Result.Canonical (execVfFlrIdle f s) := by
  unfold execVfFlrIdle
  simp only
  split
  · exact h
  · exact canonical_setFnevt (canonical_upd (canonical_clearMsix h) ..)

theorem canonical_returnStrand {c marks e} (h : s.canonical = true) : (s.returnStrand c marks e).canonical = true := by
  unfold State.returnStrand
  simp only
  split
  · exact h
  · exact canonical_bindSaved h

theorem canonical_returnBarriers {c tenant} (h : s.canonical = true) : (s.returnBarriers c tenant).canonical = true :=
  canonical_onSys (canonical_folded h fun _ _ hu => hu)

theorem canonical_enterFatal {source} (h : s.canonical = true) : (s.enterFatal source).canonical = true := by
  unfold State.enterFatal
  extract_lets s1 s2 s3
  have h1 : s1.canonical = true := canonical_folded h fun _ _ hu => canonical_onStrand hu
  have h2 : s2.canonical = true := canonical_folded h1 fun _ _ hu => canonical_cpReset (canonical_upd hu ..)
  exact canonical_folded (canonical_post (canonical_onSys h2) ..) fun _ _ hu => canonical_setFnevt hu

end Sys2Proof.Machine.State
end

section
/-! SUPPORT. The lull, the links and the host keep the tables canonical. -/

namespace Sys2Proof.Machine.State

open Sys2Proof

variable {s : State}

theorem canonical_applySweep {sweep} (h : s.canonical = true) : (s.applySweep sweep).canonical = true := by
  unfold State.applySweep
  split
  · exact h
  · exact canonical_wr h ..

theorem canonical_scrubInject {c} (h : s.canonical = true) : (s.scrubInject c).canonical = true :=
  canonical_ite (canonical_logCluster (canonical_wr h ..) ..) h

theorem canonical_scrub (h : s.canonical = true) : s.scrub.canonical = true := by
  unfold State.scrub
  extract_lets s1 s2 s3
  have h1 : s1.canonical = true := canonical_folded h fun _ _ hu => canonical_eccWord hu
  have h2 : s2.canonical = true :=
    canonical_folded h1 fun _ _ hu => canonical_ite hu (canonical_inside hu fun _ hv => canonical_scrubWords hv ..)
  have h3 : s3.canonical = true := canonical_folded h2 fun _ _ hu => canonical_strayRead hu ..
  exact canonical_folded h3 fun _ _ hu => canonical_scrubInject hu

theorem canonical_substitute (h : s.canonical = true) : s.substitute.canonical = true :=
  canonical_folded h fun _ _ hu => canonical_ite hu hu

theorem canonical_fenceGroup {c p} (h : s.canonical = true) : (s.fenceGroup c p).canonical = true := by
  unfold State.fenceGroup
  extract_lets s1 s2 bit
  have h1 : s1.canonical = true := canonical_folded h fun _ _ hu => canonical_withdraw hu
  have h2 : s2.canonical = true := by
    refine canonical_folded h1 fun u t hu => ?_
    split
    · exact hu
    · exact hu
    · exact hu
    · exact canonical_beginSave hu
  exact canonical_assignLanes (canonical_fenceFreed (canonical_onCluster h2 ..))

theorem canonical_fenceGroups (h : s.canonical = true) : s.fenceGroups.canonical = true :=
  canonical_folded h fun _ _ hu => canonical_ite (canonical_fenceGroup hu) hu

theorem canonical_fenceCores (h : s.canonical = true) : s.fenceCores.canonical = true :=
  canonical_folded h fun _ _ hu => canonical_upd hu ..

theorem canonical_failLinks {ls} (h : s.canonical = true) : (s.failLinks ls).canonical = true := by
  unfold State.failLinks
  extract_lets s1
  have h1 : s1.canonical = true := canonical_folded h fun _ _ hu => canonical_ite (canonical_post (canonical_onSys hu) ..) hu
  split
  · exact canonical_ite h1 (canonical_enterFatal h1)
  · exact h1

theorem canonical_failPorts {ps} (h : s.canonical = true) : (s.failPorts ps).canonical = true :=
  canonical_folded h fun _ _ hu => canonical_ite (canonical_onSys (canonical_upd hu ..)) hu

theorem canonical_execLullDrainStart (h : s.canonical = true) : Result.Canonical (execLullDrainStart s) := by
  unfold execLullDrainStart
  simp only
  split
  · exact h
  split
  · exact h
  split
  · exact h
  · exact h

theorem canonical_endOfLull {links ports c} (h : s.canonical = true) : (s.endOfLull links ports c).canonical = true := by
  unfold State.endOfLull
  extract_lets s1 s2 s3 s4
  have h1 : s1.canonical = true := canonical_applySweep h
  have h2 : s2.canonical = true := canonical_ite (canonical_fenceGroups h1) h1
  have h3 : s3.canonical = true := canonical_fenceCores h2
  exact canonical_onSys (canonical_ite (canonical_failLinks (canonical_failPorts h3)) h3)

theorem canonical_clearCounts (h : s.canonical = true) : s.clearCounts.canonical = true :=
  canonical_of_wf (canonical_mem h) (canonical_poison h) (canonical_synd h) (canonical_lineKey h) (NMap.wfFrom_filter _ (canonical_fw h))

theorem canonical_execLullStart {hot tj} (h : s.canonical = true) : Result.Canonical (execLullStart hot tj s) := by
  unfold execLullStart
  extract_lets l0 n s1 long hotNow qual s2 s3 s4
  have h1 : s1.canonical = true := canonical_ite (canonical_endOfLull h) h
  have h2 : s2.canonical = true := canonical_flushL2Off (canonical_onSys h1)
  have h3 : s3.canonical = true := canonical_ite (canonical_scrub (canonical_clearCounts h2)) h2
  have h4 : s4.canonical = true := canonical_ite (canonical_substitute h3) h3
  exact canonical_choice (canonical_ite (canonical_push h4) h4) h

theorem canonical_execLullOverrun {late} (h : s.canonical = true) : Result.Canonical (execLullOverrun late s) := by
  unfold execLullOverrun
  simp only
  split
  · exact h
  · exact h

theorem canonical_endOfSpan (h : s.canonical = true) : s.endOfSpan.canonical = true := by
  unfold State.endOfSpan
  simp only
  refine canonical_releaseKept ?_
  split
  · refine canonical_folded h fun u a hu => ?_
    split
    · exact canonical_onStrand hu
    · exact hu
  · refine canonical_mergeAll ?_
    refine canonical_folded h fun u a hu => ?_
    split
    · exact canonical_onStrand hu
    · exact hu

theorem canonical_execLullEnd {links ports} (h : s.canonical = true) : Result.Canonical (execLullEnd links ports s) := by
  unfold execLullEnd
  extract_lets l done s1 s2
  have h1 : s1.canonical = true := canonical_ite (canonical_post (canonical_onSys h) ..) h
  have h2 : s2.canonical = true := canonical_folded h1 fun _ _ hu => canonical_endOfLull hu
  exact canonical_choice (canonical_choice h2 (canonical_choice (canonical_onSys h2) (canonical_endOfSpan h2))) h

theorem canonical_execRelockDone (h : s.canonical = true) : Result.Canonical (execRelockDone s) := by
  unfold execRelockDone
  simp only
  split
  · split
    · exact canonical_onSys (canonical_upd h ..)
    · exact h
  · exact h

theorem canonical_ackPort {p a} (h : s.canonical = true) : (s.ackPort p a).canonical = true := h

theorem canonical_resend {p} (h : s.canonical = true) : (s.resend p).canonical = true :=
  canonical_ite h (canonical_replay h)

theorem canonical_control {p b} (h : s.canonical = true) : (s.control p b).canonical = true := h

theorem canonical_execBrulosLinkUp {p} (h : s.canonical = true) : Result.Canonical (execBrulosLinkUp p s) := by
  unfold execBrulosLinkUp
  simp only
  split
  · exact h
  · exact h

theorem canonical_answerPend {t i p bs} (h : s.canonical = true) : (s.answerPend t i p bs).canonical = true := by
  unfold State.answerPend
  simp only
  split
  · exact canonical_onStrand h
  split
  · exact canonical_push (canonical_onStrand h)
  · exact canonical_ite (canonical_onStrand (canonical_sendPend h)) (canonical_push (canonical_onStrand h))

theorem canonical_failPend {t i p c} (h : s.canonical = true) : (s.failPend t i p c).canonical = true :=
  canonical_push (canonical_onStrand h)

theorem canonical_logDropped {t tenant pa} (h : s.canonical = true) : (s.logDropped t tenant pa).canonical = true :=
  canonical_logDie h

theorem canonical_ackEntry {t i tag e} (h : s.canonical = true) : (s.ackEntry t i tag e).canonical = true :=
  canonical_goOn (canonical_ite (canonical_push (canonical_onStrand h)) (canonical_onStrand h))

theorem canonical_ackPosted {t tag p} (h : s.canonical = true) : (s.ackPosted t tag p).canonical = true := by
  unfold State.ackPosted
  simp only
  split
  · exact canonical_ite (canonical_push (canonical_goOn (canonical_onStrand h))) (canonical_goOn (canonical_onStrand h))
  · exact canonical_goOn (canonical_onStrand h)

theorem canonical_ackWrite {t x} (h : s.canonical = true) : CanonicalOption (s.ackWrite t x) := by
  unfold State.ackWrite
  simp only
  split
  · refine canonical_ackEntry ?_
    split
    · exact canonical_logDropped h
    · exact h
  split
  · refine canonical_ackPosted ?_
    split
    · exact canonical_logDropped h
    · exact h
  · trivial

theorem canonical_remoteReply {x} (h : s.canonical = true) : (s.remoteReply x).canonical = true := by
  unfold State.remoteReply
  extract_lets tag
  split
  · split
    · exact h
    split
    · exact canonical_answerPend (canonical_replyBack h)
    · exact canonical_failPend (canonical_replyBack h)
    · exact h
  split
  · next e =>
    obtain ⟨u, -, found⟩ := List.exists_of_findSome?_eq_some e
    obtain ⟨s1, acked, same⟩ := Option.map_eq_some_iff.mp found
    cases same
    exact canonical_replyBack (canonical_some acked (canonical_ackWrite h))
  · exact canonical_systemReply h

theorem canonical_execBrulosFlitReceive {p good x} (h : s.canonical = true) : Result.Canonical (execBrulosFlitReceive p good x s) := by
  unfold execBrulosFlitReceive
  extract_lets n s1
  have h1 : s1.canonical = true := canonical_ackPort (canonical_onPort h)
  refine canonical_choice h (canonical_choice (canonical_control h) ?_)
  split
  · exact canonical_resend (canonical_ackPort h)
  · exact canonical_ackPort h
  · refine canonical_choice (canonical_control h) (canonical_choice (canonical_sendFlit h1) ?_)
    split
    · exact canonical_remoteReply h1
    · exact canonical_remoteReply h1
    · exact h1
    · exact canonical_push (canonical_onSys h1)

theorem canonical_serveRemote {x t b} (h : s.canonical = true) (e : s.serveRemote x = some (t, b)) : t.canonical = true := by
  have failed : ∀ {va n w}, ((s.failure (Flit.agent x) va n w).map fun (e : State × Nat) => (e.1, FlitBody.replyFault e.2)) = some (t, b) →
      t.canonical = true := by
    intro va n w e
    obtain ⟨⟨u, c⟩, fails, same⟩ := Option.map_eq_some_iff.mp e
    cases same
    exact canonical_failure h fails
  unfold State.serveRemote at e
  extract_lets r a fail far at e
  split at e
  · cases e; exact h
  · split at e
    · split at e
      · exact failed e
      · split at e
        · cases e; exact h
        · split at e
          · cases e
          · split at e
            · next read => cases e; exact canonical_fst read (canonical_readParts (canonical_noteAccess h))
            · next read => cases e; exact canonical_fst read (canonical_readParts (canonical_noteAccess h))
    · split at e
      · exact failed e
      · split at e
        · cases e; exact h
        · split at e
          · cases e
          · cases e; exact canonical_writeParts (canonical_noteAccess h)
    · split at e
      · exact failed e
      · split at e
        · cases e; exact h
        · split at e
          · cases e
          · split at e
            · next done => cases e; exact canonical_fst done (canonical_atomicAt (canonical_noteAccess h))
            · next done => cases e; exact canonical_fst done (canonical_atomicAt (canonical_noteAccess h))
      · cases e; exact h
    · cases e; exact h

theorem canonical_execRemoteRequest {n} (h : s.canonical = true) : Result.Canonical (execRemoteRequest n s) := by
  unfold execRemoteRequest
  simp only
  split
  · exact h
  split
  · exact h
  split
  · exact h
  · next e => exact canonical_folded (canonical_onSys (canonical_serveRemote h e)) fun _ _ hu => canonical_sendFlit hu

theorem canonical_hostFault {a va n b} (h : s.canonical = true) : CanonicalOption (s.hostFault a va n b) := by
  unfold State.hostFault
  split
  · trivial
  · exact canonical_mapFst (fun _ _ e => canonical_failure h e) fun _ _ hu => hu
  · exact canonical_mapFst (fun _ _ e => canonical_failure h e) fun _ _ hu => canonical_logDie hu

theorem canonical_hostPlaces {a ps data t} (h : s.canonical = true) (e : s.hostPlaces a ps data = .error (some t)) :
    t.canonical = true := by
  induction ps generalizing data with
  | nil => cases e
  | cons p r ih =>
    unfold State.hostPlaces at e
    split at e
    · injection e with e
      exact canonical_some e (canonical_hostFault h)
    · split at e
      · cases e
      · next rest =>
        cases e
        exact ih rest
    · cases e

theorem canonical_hostReads {a e ps} (h : s.canonical = true) : (s.hostReads a e ps).1.canonical = true := by
  induction ps generalizing s with
  | nil => exact h
  | cons p r ih =>
    unfold State.hostReads
    extract_lets s0 one
    have h0 : s0.canonical = true := canonical_noteAccess h
    have h1 : one.1.canonical = true := by
      refine canonical_iteFst h0 ?_
      split
      · next read => exact canonical_fst read (canonical_readParts h0)
      · next read => exact canonical_fst read (canonical_readParts h0)
    clear_value one
    rcases one with ⟨s1, _ | bs⟩
    · exact canonical_logDie h1
    · dsimp only
      split
      · next rest => exact canonical_fst rest (ih h1)
      · next rest => exact canonical_fst rest (ih h1)

theorem canonical_hostWrites {f a ps bs} (h : s.canonical = true) : (s.hostWrites f a ps bs).canonical = true := by
  induction ps generalizing s bs with
  | nil => exact h
  | cons p r ih => exact ih (canonical_ite (canonical_askWord (canonical_noteAccess h)) (canonical_writeParts (canonical_noteAccess h)))

theorem canonical_hostAnswer {bs e} (h : s.canonical = true) : (s.hostAnswer bs e).canonical = true := h

theorem canonical_execHostBar4Read {f off n} (h : s.canonical = true) : Result.Canonical (execHostBar4Read f off n s) := by
  unfold execHostBar4Read
  extract_lets e later asked done a
  split
  · exact canonical_hostAnswer (canonical_clearFar h)
  split
  · exact canonical_keep h
  split
  · exact canonical_keep h
  · next bad => exact canonical_hostAnswer (canonical_clearFar (canonical_hostPlaces h bad))
  · extract_lets far
    split
    · exact canonical_keep h
    split
    · exact canonical_folded h fun _ _ hu => canonical_askWord hu
    split
    · next read => exact canonical_unkeep (canonical_hostAnswer (canonical_clearFar (canonical_fst read (canonical_hostReads h))))
    · next read => exact canonical_unkeep (canonical_hostAnswer (canonical_clearFar (canonical_fst read (canonical_hostReads h))))

theorem canonical_execHostBar4Write {f off data} (h : s.canonical = true) : Result.Canonical (execHostBar4Write f off data s) := by
  unfold execHostBar4Write
  extract_lets later a
  split
  · exact canonical_hostAnswer h
  split
  · exact canonical_keep h
  split
  · exact canonical_keep h
  · next bad => exact canonical_hostPlaces h bad
  split
  · exact canonical_keep h
  · exact canonical_hostWrites h

theorem canonical_hostFailed {t n cause} (h : s.canonical = true) : (s.hostFailed t n cause).canonical = true := by
  unfold State.hostFailed
  simp only
  split
  · exact canonical_failPend h
  · exact canonical_logDie h
  · exact canonical_logDie h
  · exact canonical_systemReply h
  · exact h

theorem canonical_execHostCompletion {t n st v} (h : s.canonical = true) : Result.Canonical (execHostCompletion t n st v s) := by
  unfold execHostCompletion
  split
  · split
    · exact canonical_answerPend h
    · exact canonical_systemReply h
    · exact h
  · split
    · exact h
    · exact canonical_hostFailed h
  · exact canonical_hostFailed h
  · exact canonical_hostFailed h

theorem canonical_setFwStatus {n} (h : s.canonical = true) : (s.setFwStatus n).canonical = true := canonical_wr h ..

theorem canonical_execFwcmdGo {v} (h : s.canonical = true) : Result.Canonical (execFwcmdGo v s) := by
  unfold execFwcmdGo
  simp only
  split
  · exact h
  · exact canonical_onSys (canonical_update (canonical_setFwStatus h))

theorem canonical_loadImage {img} (h : s.canonical = true) : (s.loadImage img).canonical = true :=
  canonical_onSys (canonical_setFwStatus h)

theorem canonical_execFwImageCheck {img} (h : s.canonical = true) : Result.Canonical (execFwImageCheck img s) := by
  unfold execFwImageCheck
  simp only
  split
  · exact h
  split
  · exact canonical_setFwStatus h
  split
  · exact canonical_setFwStatus h
  split
  · exact canonical_setFwStatus h
  split
  · exact canonical_setFwStatus h
  · exact canonical_loadImage h

theorem canonical_resetTo : s.resetTo.canonical = true := rfl

theorem canonical_packageReset : s.packageReset.canonical = true := by
  unfold State.packageReset
  split
  · exact canonical_resetTo
  · exact canonical_loadImage canonical_resetTo

theorem canonical_pldm (h : s.canonical = true) : s.pldm.canonical = true := h

theorem canonical_execPldmPlatform {n cap} (h : s.canonical = true) : Result.Canonical (execPldmPlatform n cap s) := by
  unfold execPldmPlatform
  split
  · exact h
  split
  · exact canonical_pldm (canonical_ite (canonical_onSys h) h)
  · exact h
  · exact h

theorem canonical_execPldmFirmwareUpdate {img} (h : s.canonical = true) : Result.Canonical (execPldmFirmwareUpdate img s) := by
  unfold execPldmFirmwareUpdate
  split
  · exact h
  split
  · exact h
  · exact h

end Sys2Proof.Machine.State
end

section
/-! SUPPORT. Integer and vector instructions and writes to addressed registers keep the tables canonical. -/

namespace Sys2Proof.Machine.State

open Sys2Proof

variable {s : State}

theorem canonical_compact {f} (h : s.canonical = true) (keeps : ∀ w, Result.Canonical (f w)) : Result.Canonical (s.compact f) := by
  unfold State.compact
  split
  · exact keeps _
  · exact canonical_trap h

theorem canonical_compactOp {d f} (h : s.canonical = true) : Result.Canonical (s.compactOp d f) :=
  canonical_compact h fun _ => canonical_writeReg h

theorem canonical_opDiv {d a b f} (h : s.canonical = true) : Result.Canonical (s.opDiv d a b f) := canonical_ite h h

theorem canonical_branch {i taken} (h : s.canonical = true) : Result.Canonical (s.branch i taken) := canonical_ite h h

theorem canonical_branchC {o taken} (h : s.canonical = true) : Result.Canonical (s.branchC o taken) := canonical_ite h h

theorem canonical_writeCswin {c t v} (h : s.canonical = true) : (s.writeCswin c t v).canonical = true :=
  canonical_ite h (canonical_folded (canonical_wr h ..) fun _ _ hu => canonical_wipe hu)

theorem canonical_writeAlloc {c o v} (h : s.canonical = true) : Result.Canonical (s.writeAlloc c o v) := by
  unfold State.writeAlloc
  extract_lets cn a
  refine canonical_choice (canonical_wr h ..) ?_
  refine canonical_choice (canonical_assignLanes (canonical_wr h ..)) ?_
  refine canonical_choice (canonical_execLamark h) ?_
  refine canonical_choice (canonical_ite (canonical_wr h ..) h) ?_
  refine canonical_choice (canonical_onCluster (canonical_wr h ..) ..) ?_
  refine canonical_choice (canonical_wr h ..) ?_
  refine canonical_choice (canonical_push (canonical_wr h ..)) ?_
  refine canonical_choice (canonical_retryGroups (canonical_upd h ..)) ?_
  refine canonical_choice (canonical_wr h ..) ?_
  refine canonical_choice (canonical_wr h ..) ?_
  refine canonical_choice (canonical_writeLgstat h) ?_
  refine canonical_choice (canonical_wr h ..) ?_
  refine canonical_choice (canonical_upd (canonical_wr h ..) ..) ?_
  refine canonical_choice (canonical_execDinjArm h) ?_
  refine canonical_choice (canonical_wr h ..) ?_
  refine canonical_choice (canonical_wr h ..) ?_
  refine canonical_choice (canonical_writeDschk h) ?_
  refine canonical_choice (canonical_wr h ..) ?_
  refine canonical_choice (canonical_writeDbgctl h) ?_
  refine canonical_choice (canonical_wr h ..) ?_
  refine canonical_choice (canonical_debugWindow h) ?_
  refine canonical_choice (canonical_writeCswin h) ?_
  exact h

theorem canonical_writeDie {d o v} (h : s.canonical = true) : Result.Canonical (s.writeDie d o v) := by
  unfold State.writeDie
  extract_lets a
  refine canonical_choice (canonical_wr h ..) ?_
  refine canonical_choice (canonical_wr h ..) ?_
  refine canonical_choice (canonical_wr h ..) ?_
  refine canonical_choice (canonical_wr h ..) ?_
  refine canonical_choice (canonical_writeMscsp h) ?_
  refine canonical_choice (canonical_wr h ..) ?_
  refine canonical_choice (canonical_writeTlbinv h) ?_
  refine canonical_choice ?_ ?_
  · refine canonical_choice (canonical_wr h ..) ?_
    refine canonical_choice (canonical_writeMigctl h) ?_
    exact h
  refine canonical_choice (canonical_wr h ..) ?_
  refine canonical_choice (canonical_upd (canonical_wr h ..) ..) ?_
  refine canonical_choice (canonical_wr h ..) ?_
  refine canonical_choice (canonical_wr h ..) ?_
  refine canonical_choice (canonical_writeDrchk h) ?_
  exact h

theorem canonical_writeSysCtl {o v} (h : s.canonical = true) : Result.Canonical (s.writeSysCtl o v) := by
  unfold State.writeSysCtl
  extract_lets a
  refine canonical_choice h ?_
  refine canonical_choice (canonical_writeKeycmd h) ?_
  refine canonical_choice (canonical_wr h ..) ?_
  refine canonical_choice ?_ ?_
  · refine canonical_choice (canonical_wr h ..) ?_
    exact canonical_lookAt (canonical_wr h ..)
  refine canonical_choice (canonical_wr h ..) ?_
  refine canonical_choice (canonical_push (canonical_wr h ..)) ?_
  refine canonical_choice (canonical_writeSchcmd h) ?_
  refine canonical_choice (canonical_wr h ..) ?_
  refine canonical_choice (canonical_wr h ..) ?_
  refine canonical_choice (canonical_wr h ..) ?_
  refine canonical_choice (canonical_upd h ..) ?_
  refine canonical_choice (canonical_wr h ..) ?_
  refine canonical_choice (canonical_wr h ..) ?_
  refine canonical_choice (canonical_wr h ..) ?_
  refine canonical_choice (canonical_wr h ..) ?_
  exact h

theorem canonical_writeMsix {f k i v} (h : s.canonical = true) : (s.writeMsix f k i v).canonical = true :=
  canonical_ite (canonical_wr h ..) (canonical_sendPending (canonical_wr h ..))

theorem canonical_writeMsixCtl {f v} (h : s.canonical = true) : (s.writeMsixCtl f v).canonical = true :=
  canonical_sendPending (canonical_wr h ..)

theorem canonical_writeBar0 {f o v} (h : s.canonical = true) : Result.Canonical (s.writeBar0 f o v) := by
  unfold State.writeBar0
  simp only
  split
  · exact canonical_ite (canonical_upd h ..) h
  split
  · exact h
  split
  · exact h
  split
  · exact canonical_wr h ..
  split
  · exact canonical_execFwcmdGo h
  split
  · exact canonical_writeMsix h
  · exact h

theorem canonical_writeDoorbell {q o v} (h : s.canonical = true) : Result.Canonical (s.writeDoorbell q o v) := by
  unfold State.writeDoorbell
  split
  · exact canonical_execQnotifyWrite h
  split
  · exact canonical_execQstatRestart h
  · exact h

theorem canonical_doorbellFault {f q o} (h : s.canonical = true) : (s.doorbellFault f q o).canonical = true :=
  canonical_logDie h

theorem canonical_writeBar2 {f o v} (h : s.canonical = true) : Result.Canonical (s.writeBar2 f o v) := by
  unfold State.writeBar2
  split
  · exact h
  split
  · exact h
  split
  · split
    · exact canonical_writeDoorbell h
    · exact canonical_doorbellFault h
  · exact h

theorem canonical_execRegisterWrite {pa v} (h : s.canonical = true) : Result.Canonical (execRegisterWrite pa v s) := by
  unfold execRegisterWrite
  split
  · split
    · exact canonical_writeAlloc h
    · exact canonical_writeDie h
    · exact canonical_writeSysCtl h
    · exact canonical_writeBar0 h
    · exact canonical_writeBar2 h
    · exact canonical_writeMsixCtl h
    · exact canonical_writeDoorbell h
    · exact canonical_ite (canonical_wr h ..) h
    · exact h
  · exact h

theorem canonical_markAtIssue {op} (h : s.canonical = true) : (s.markAtIssue op).canonical = true := by
  unfold State.markAtIssue
  split
  · exact h
  · exact h

theorem canonical_issueV {len op x y} (h : s.canonical = true) : Result.Canonical (s.issueV len op x y) := by
  unfold State.issueV
  simp only
  split
  · exact canonical_trap h
  split
  · exact canonical_trap h
  split
  · exact canonical_trap h
  split
  · exact h
  split
  · exact canonical_pumpFocus (canonical_retire (canonical_onMe (canonical_update (canonical_markAtIssue h))))
  · exact canonical_push (canonical_retire (canonical_onMe (canonical_update (canonical_markAtIssue h))))

theorem canonical_vload {len f d a b m sc o} (h : s.canonical = true) : Result.Canonical (s.vload len f d a b m sc o) :=
  canonical_issueV h

theorem canonical_vstore {len f d a b m sc o} (h : s.canonical = true) : Result.Canonical (s.vstore len f d a b m sc o) :=
  canonical_issueV h

theorem canonical_vamo {len op d a b m sc o} (h : s.canonical = true) : Result.Canonical (s.vamo len op d a b m sc o) :=
  canonical_issueV h

theorem canonical_varith {op f d a b m} (h : s.canonical = true) : Result.Canonical (s.varith op f d a b m) :=
  canonical_issueV h

theorem canonical_vcmp {p f d a b m} (h : s.canonical = true) : Result.Canonical (s.vcmp p f d a b m) :=
  canonical_issueV h

theorem canonical_execCasts {d a w} (h : s.canonical = true) : Result.Canonical (execCasts d a w s) := by
  unfold execCasts
  simp only
  split
  · exact canonical_trap h
  split
  · exact canonical_trap h
  split
  · exact canonical_trap h
  · exact h

end Sys2Proof.Machine.State
end

section
/-! SUPPORT. Every instruction and event, the turn of a core and the step keep the tables canonical (O8). -/

namespace Sys2Proof.Machine.State

open Sys2Proof

variable {s : State}

theorem canonical_execReplicaInvalidation {pa die} (h : s.canonical = true) : Result.Canonical (execReplicaInvalidation pa die s) := by
  unfold execReplicaInvalidation
  extract_lets l v s1 s2
  have h2 : s2.canonical = true := canonical_pushAll (canonical_onSys h)
  exact canonical_ite (canonical_recall h2) h2

theorem canonical_exec {i} (h : s.canonical = true) : Result.Canonical (exec i s) := by
  unfold exec
  cases i with
  | cAddi | cAdd | cSub | cAnd | cOr | cXor | cShli | cShri | cSrai | cMv => exact canonical_compactOp h
  | cLdd => exact canonical_execCLdd h
  | cStd => exact canonical_execCStd h
  | cLdw => exact canonical_execCLdw h
  | cBeqz | cBnez => exact canonical_compact h fun _ => canonical_branchC h
  | cJalr => exact canonical_compact h fun _ => h
  | add | sub | and | or | xor | shl | shr | sra | min | max | minu | maxu | slt | sltu | rotl | rotr | addsc | mul | mulh | mulhu
    | clmul | clmulh | clz | ctz | popc | brev | bswap | addi | andi | ori | xori | slti | shli | shri | srai | lih | addpc | jal
    | jalr | addiImm32 | lihImm32 | addpcImm32 | jalrImm32 | space | castg | fadd | fsub | fmul | fdiv | fsqrt | fmin | fmax | fsgnCopy
    | fsgnNeg | fsgnXor | fcmpEq | fcmpLt | fcmpLe | fclass | fcvtToFloat | fma | fms | fnma | lullq | lullw | nop | hint | thermtrip
    | hostAtomicopRequest | brulosLinkDown => exact h
  | div | divu | rem | remu => exact canonical_opDiv h
  | beq | bne | blt | bge | bltu | bgeu => exact canonical_branch h
  | ldb | ldbu | ldh | ldhu | ldw | ldwu | ldd | loadImm32 => exact canonical_loadOp h
  | stb | sth | stw | std | storeImm32 => exact canonical_storeOp h
  | amoAddD | amoAndD | amoOrD | amoXorD | amoMinD | amoMaxD | amoMinuD | amoMaxuD | amoSwapD | amoAddW | amoAndW | amoOrW | amoXorW
    | amoMinW | amoMaxW | amoMinuW | amoMaxuW | amoSwapW => exact canonical_amoOp h
  | casD | casW => exact canonical_casOp h
  | casts => exact canonical_execCasts h
  | fcvtToInt => exact canonical_execFcvtToInt h
  | rdc => exact canonical_execRdc h
  | wrc | setc | clrc => exact canonical_ctlWrite h
  | send => exact canonical_execSend h
  | recv => exact canonical_execRecv h
  | waitmsg => exact canonical_execWaitmsg h
  | pollmsg => exact canonical_writeReg (canonical_mailRead h)
  | svc => exact canonical_execSvc h
  | eret => exact canonical_execEret h
  | brk => exact canonical_execBrk h
  | ifence => exact canonical_execIfence h
  | trigger => exact canonical_nudge h
  | exit => exact canonical_nudge (canonical_onMe (canonical_ite (canonical_scDone h) h))
  | ract => exact canonical_execRact h
  | vgrant | vgrantNb | vgrantZ => exact canonical_grantForm h
  | vtype => exact canonical_execVtype h
  | vld | vldScaled | vlds | vldx | vldxO | vldff | vloadOrd => exact canonical_vload h
  | vst | vstScaled | vsts | vstx | vstxO | vstN | vstoreOrd => exact canonical_vstore h
  | vamoAdd | vamoAnd | vamoOr | vamoXor | vamoMin | vamoMax | vamoMinu | vamoMaxu | vamoSwap | vamoOrd => exact canonical_vamo h
  | vaddVv | vsubVv | vmulVv | vmulhVv | vdivVv | vremVv | vminVv | vmaxVv | vandVv | vorVv | vxorVv | vshlVv | vshrVv | vsraVv
    | vfmaVv | vfmsVv | vfnmaVv | vabs | vneg | vwaddVv | vwmulVv | vnshrVv | vaddVx | vsubVx | vmulVx | vmulhVx | vdivVx | vremVx
    | vminVx | vmaxVx | vandVx | vorVx | vxorVx | vshlVx | vshrVx | vsraVx | vfmaVx | vfmsVx | vfnmaVx | vwaddVx | vwmulVx | vnshrVx
    | vaddVi | vsubVi | vminVi | vmaxVi | vandVi | vorVi | vxorVi | vshlVi | vshrVi | vsraVi | vnshrVi => exact canonical_varith h
  | vcmpEqVv | vcmpNeVv | vcmpLtVv | vcmpLeVv | vcmpEqVx | vcmpNeVx | vcmpLtVx | vcmpLeVx | vcmpEqVi | vcmpNeVi | vcmpLtVi | vcmpLeVi =>
      exact canonical_vcmp h
  | mand | mor | mxor | mnot | mpop | mfirst | mset | vsel | vbcast | vget | vidx | vgather | vslideup | vslidedn | vcompress | vexpand
    | vswappr | vzip | vunzip | vredsumO | vredsumT | vredmax | vredmin | vredand | vredor | vcvt | vcvtSr | vrcp | vrsq | vsint
    | vcost | vexp2 | vlog2 | vclmul | vclmulh | vcbdec | cbload | vrnsf | vrnsr | vrnschk | fenceSv | fenceVv | barv | tzero | topa
    | tops | topr | tldrow | tstrow | tslv | tvsl | tcvt | tchk => exact canonical_issueV h
  | vstreamLdv | vstreamStv | vstreamLds | vstreamSts | vstreamLdb | vstreamStb | vstreamLdvA | vstreamStvA | vstreamLdsA | vstreamStsA
    | vstreamLdbA | vstreamStbA => exact canonical_vstream h
  | swait => exact canonical_execSwait h
  | squery => exact canonical_execSquery h
  | fenceSs => exact canonical_execFenceSs h
  | fenceVs => exact canonical_execFenceVs h
  | barinit => exact canonical_execBarinit h
  | barw => exact canonical_execBarw h
  | mtenter => exact canonical_execMtenter h
  | mtexit => exact canonical_execMtexit h
  | tedge => exact canonical_execTedge h
  | sequencerHandoff => exact canonical_execSequencerHandoff h
  | slotStepStart => exact canonical_execSlotStepStart h
  | slotStepCommit => exact canonical_execSlotStepCommit h
  | queuedTrap => exact canonical_execQueuedTrap h
  | writeQueueSend => exact canonical_execWriteQueueSend h
  | storeAcknowledgement => exact canonical_execStoreAcknowledgement h
  | memoryReply => exact canonical_execMemoryReply h
  | fetchFill => exact canonical_execFetchFill h
  | handlerFault => exact canonical_execHandlerFault h
  | sendDepart => exact canonical_execSendDepart h
  | mailboxArrival => exact canonical_execMailboxArrival h
  | messageAcknowledgement => exact canonical_execMessageAcknowledgement h
  | bounceArrival => exact canonical_execBounceArrival h
  | dbgctlHaltreq | dbgctlResume => exact canonical_writeDbgctl h
  | debugHalt => exact canonical_execDebugHalt h
  | debugWindowAccess => exact canonical_debugWindow h
  | cfenceRequest => exact canonical_retryGroups (canonical_upd h ..)
  | lamark => exact canonical_execLamark h
  | allocatorMark => exact canonical_execAllocatorMark h
  | deadlineExpiry => exact canonical_execDeadlineExpiry h
  | parkExpiry => exact canonical_execParkExpiry h
  | saveComplete => exact canonical_execSaveComplete h
  | grantComplete => exact canonical_execGrantComplete h
  | restoreComplete => exact canonical_execRestoreComplete h
  | relocate => exact canonical_execRelocate h
  | recheckSecondExecution => exact canonical_execRecheckSecondExecution h
  | recheckCompare => exact canonical_execRecheckCompare h
  | recheckVote => exact canonical_execRecheckVote h
  | recheckRollback => exact canonical_execRecheckRollback h
  | elogtailWrite | dlogtailWrite => exact canonical_upd (canonical_wr h ..) ..
  | lgstatMark | lgstatFenreq => exact canonical_writeLgstat h
  | substitutionDone => exact canonical_execSubstitutionDone h
  | dschkGo | dschkCalc => exact canonical_writeDschk h
  | diagnosticStore => exact canonical_execDiagnosticStore h
  | dinjArm => exact canonical_execDinjArm h
  | cbownWrite => exact canonical_onCluster (canonical_wr h ..) ..
  | csplitApply => exact canonical_execCsplitApply h
  | streamUnit => exact canonical_execStreamUnit h
  | streamCopyDone => exact canonical_execStreamCopyDone h
  | completionMessage => exact canonical_execCompletionMessage h
  | barvArrival => exact canonical_execBarvArrival h
  | homeRequest => exact canonical_execHomeRequest h
  | dramAccess => exact canonical_ite (canonical_openRow h) (canonical_ite (canonical_onSys h) h)
  | rowIdleClose => exact canonical_execRowIdleClose h
  | ractArrival => exact canonical_execRactArrival h
  | replicaInvalidation => exact canonical_execReplicaInvalidation h
  | invalidationAck => exact canonical_execInvalidationAck h
  | walkComplete => exact canonical_execWalkComplete h
  | tlbinvGo => exact canonical_writeTlbinv h
  | tlbinvDone => exact canonical_execTlbinvDone h
  | migctlGo | migctlDoneClear => exact canonical_writeMigctl h
  | migrationLineDone => exact canonical_execMigrationLineDone h
  | mscspWrite => exact canonical_writeMscsp h
  | mscspConversionDone => exact canonical_execMscspConversionDone h
  | drchkGo | drchkCalc => exact canonical_writeDrchk h
  | linkFlitReplay => exact canonical_replay h
  | keycmdGo => exact canonical_writeKeycmd h
  | keyInstallDone => exact canonical_execKeyInstallDone h
  | qnotifyWrite => exact canonical_execQnotifyWrite h
  | qstatRestart => exact canonical_execQstatRestart h
  | cpServePacket => exact canonical_execCpServePacket h
  | packetClearAck => exact canonical_execPacketClearAck h
  | groupPlacement => exact canonical_execGroupPlacement h
  | triggerMarkCount => exact canonical_execTriggerMarkCount h
  | exitFinish => exact canonical_execExitFinish h
  | signalDecrement => exact canonical_execSignalDecrement h
  | msixSend => exact canonical_execMsixSend h
  | schcmdPreempt | schcmdMove | schcmdRelease | schcmdSwitchCluster | schcmdSwitchPackage | schcmdEndLaunch | schcmdReserved =>
      exact canonical_writeSchcmd h
  | schcmdComplete => exact canonical_execSchcmdComplete h
  | lullDrainStart => exact canonical_execLullDrainStart h
  | lullStart => exact canonical_execLullStart h
  | lullEnd => exact canonical_execLullEnd h
  | lullOverrun => exact canonical_execLullOverrun h
  | relockDone => exact canonical_execRelockDone h
  | hostBar4Read => exact canonical_execHostBar4Read h
  | hostBar4Write => exact canonical_execHostBar4Write h
  | hostCompletion => exact canonical_execHostCompletion h
  | fwcmdGo => exact canonical_execFwcmdGo h
  | fwImageCheck => exact canonical_execFwImageCheck h
  | packageReset => exact canonical_packageReset
  | vfFlr => exact canonical_execVfFlr h
  | vfFlrIdle => exact canonical_execVfFlrIdle h
  | powerLoss => exact canonical_onSys canonical_resetTo
  | pldmBase => exact canonical_ite h (canonical_pldm h)
  | pldmPlatform => exact canonical_execPldmPlatform h
  | pldmFirmwareUpdate => exact canonical_execPldmFirmwareUpdate h
  | mctpDebugRequest => exact canonical_execMctpDebugRequest h
  | brulosFlitReceive => exact canonical_execBrulosFlitReceive h
  | linkNak => exact canonical_resend h
  | retransmitTimeout => exact canonical_ite h (canonical_resend h)
  | remoteRequest => exact canonical_execRemoteRequest h
  | collectiveComplete => exact canonical_execCollectiveComplete h
  | registerWrite => exact canonical_execRegisterWrite h
  | mtenterComplete => exact canonical_execMtenterComplete h
  | systemDieError => exact canonical_ite h (canonical_enterFatal h)
  | hostCompletionTimeout => exact canonical_hostFailed h
  | firmwareCallReturn => exact canonical_execFirmwareCallReturn h
  | brulosLinkUp => exact canonical_execBrulosLinkUp h
  | tenantSwitchIn =>
      exact canonical_push (canonical_assignLanes (canonical_folded (canonical_onSys (canonical_returnBarriers h)) fun _ _ hu =>
        canonical_returnStrand hu))
  | mctpEndpointIdAssignment => exact canonical_ite h (canonical_onSys h)

theorem canonical_turn (h : s.canonical = true) : s.turn.1.canonical = true := by
  unfold State.turn
  simp only
  split
  · exact canonical_halt h
  split
  · exact canonical_pumpFocus h
  · exact canonical_issueInject h

theorem canonical_afterIssue {before} (h : s.canonical = true) : (s.afterIssue before).canonical = true :=
  canonical_ite (canonical_ite (canonical_onStrand h) (canonical_push (canonical_onStrand h))) h

theorem canonical_pointed {t} (h : s.canonical = true) : (s.pointed t).canonical = true := h

theorem canonical_iteAttempt {p : Prop} [Decidable p] {a b : Attempt} (ha : a.Canonical) (hb : b.Canonical) :
    Attempt.Canonical (if p then a else b) := by
  split
  · exact ha
  · exact hb

theorem canonical_outcome {before : State} {r : Result} (hb : before.canonical = true) (hr : Result.Canonical r) :
    (before.outcome r).Canonical := by
  cases r with
  | next t =>
    exact canonical_iteAttempt hr (canonical_iteAttempt (canonical_afterIssue (canonical_pointed hr))
      (canonical_iteAttempt (canonical_afterIssue (canonical_pointed (canonical_onMe hr))) hb))
  | _ => trivial

theorem canonical_trapTurn {before after : State} (hb : before.canonical = true) (ha : after.canonical = true) :
    (before.trapTurn after).Canonical := by
  unfold State.trapTurn
  split
  · exact hb
  · exact canonical_afterIssue (canonical_pointed ha)

/-- Running the words of an instruction keeps the tables canonical. -/
def RunKeepsCanonical (run : Words → State → Option Result) : Prop :=
  ∀ w (u : State) r, u.canonical = true → run w u = some r → Result.Canonical r

theorem canonical_attempt {run} (keeps : RunKeepsCanonical run) (h : s.canonical = true) : (s.attempt run).Canonical := by
  unfold State.attempt
  split
  · next e => exact canonical_tick (canonical_fst e (canonical_turn h))
  next e =>
  have h0 := canonical_fst e (canonical_turn h)
  refine canonical_iteAttempt h0 ?_
  split
  · next e1 => exact canonical_fst e1 (canonical_fetch (canonical_update h0))
  · next e1 =>
    have h1 := canonical_fst e1 (canonical_fetch (canonical_update h0))
    exact canonical_trapTurn (canonical_update h1) (canonical_fetchFault h1)
  · next e1 =>
    have h1 := canonical_fst e1 (canonical_fetch (canonical_update h0))
    extract_lets s2
    have h2 : s2.canonical = true := canonical_update h1
    refine canonical_iteAttempt h1 ?_
    split
    · exact canonical_trapTurn h2 (canonical_takeTrap h2)
    · next ran => exact canonical_outcome h2 (keeps _ _ _ h2 ran)

theorem canonical_tryAll {run ts} (keeps : RunKeepsCanonical run) (h : s.canonical = true) : Result.Canonical (s.tryAll run ts) := by
  induction ts generalizing s with
  | nil => exact canonical_tick h
  | cons t ts ih =>
    have tried := canonical_attempt keeps (canonical_focus h t)
    unfold State.tryAll
    split
    · next e =>
      rw [e] at tried
      exact tried
    · next e =>
      rw [e] at tried
      exact ih tried

theorem canonical_coreTurn {run c} (keeps : RunKeepsCanonical run) (h : s.canonical = true) : Result.Canonical (s.coreTurn run c) :=
  canonical_tryAll keeps h

theorem canonical_execWords : RunKeepsCanonical execWords := by
  intro w u r h ran
  unfold execWords at ran
  split at ran
  · cases ran
  · cases ran
    exact canonical_exec h

theorem canonical_step (h : s.canonical = true) : Result.Canonical (step s) := by
  unfold step
  split
  · split
    · exact canonical_exec (canonical_update h)
    · trivial
  split
  · trivial
  split
  · exact canonical_exec (canonical_update h)
  split
  · exact canonical_coreTurn canonical_execWords (canonical_update h)
  · exact h

end Sys2Proof.Machine.State
end

section
/-! CERTIFICATE. The form of the tables (O8). -/

namespace Sys2Proof.Machine

open Sys2Proof

/-- Settles O8: the few functions that write one of the five tables do so by `set`, `clear` or a filter, which keep its form
(`State.canonical_of_wf`); every other function is built from functions that keep them. -/
theorem stepKeepsTablesCanonical : Obligations.StepKeepsTablesCanonical :=
  fun _ _ h stepped => State.canonical_next stepped (State.canonical_step h)

end Sys2Proof.Machine
end

section
/-! SUPPORT. What RDC answers (03 R105), and the fields of a word that is a sum of fields. -/

namespace Sys2Proof.Machine

open Sys2Proof

/-! ### Fields of a word -/

theorem word_field {n lo len m : Nat} (fits : lo + len ≤ 64) (h : n / 2 ^ lo % 2 ^ len = m) :
    (word n).extractLsb' lo len = BitVec.ofNat len m := by
  apply BitVec.eq_of_toNat_eq
  have split_ : 2 ^ 64 = 2 ^ lo * 2 ^ (64 - lo) := by rw [← Nat.pow_add]; congr 1; omega
  have inner : 2 ^ len ∣ 2 ^ (64 - lo) := Nat.pow_dvd_pow 2 (by omega)
  rw [BitVec.extractLsb'_toNat, word, BitVec.toNat_ofNat, BitVec.toNat_ofNat, Nat.shiftRight_eq_div_pow, split_,
    Nat.mod_mul_right_div_self, Nat.mod_mod_of_dvd _ inner, ← h, Nat.mod_mod]

theorem word_field_reg {n lo len : Nat} {x : BitVec len} (fits : lo + len ≤ 64) (h : n / 2 ^ lo % 2 ^ len = x.toNat) :
    (word n).extractLsb' lo len = x := by
  rw [word_field fits h, BitVec.ofNat_toNat, BitVec.setWidth_eq]

theorem word_bit {n k : Nat} {b : Bool} (fits : k < 64) (h : n / 2 ^ k % 2 = b.toNat) : (word n).getLsbD k = b := by
  rw [word, BitVec.getLsbD_ofNat, Nat.testBit_eq_decide_div_mod_eq, h, decide_eq_true fits]
  cases b <;> rfl

/-! ### The access rules (01 R20) -/

/-- The numbers of the control registers (01 R21). -/
def assignedNumbers : List Nat :=
  [0x001, 0x002, 0x003, 0x004, 0x005, 0x006, 0x007, 0x008, 0x009, 0x400, 0x401, 0x402, 0x403, 0x404, 0x405, 0x410, 0x411, 0x412, 0x420,
    0x421, 0x430, 0x431, 0x432, 0x433, 0x440, 0x450, 0x451, 0x800, 0x801, 0x802, 0x803, 0x804, 0x805]

theorem State.assigned_of_ctlValue {s : State} {n : Nat} {v : Word} (h : s.ctlValue n = some v) : n ∈ assignedNumbers := by
  unfold State.ctlValue at h
  split at h
  case h_34 => cases h
  all_goals decide

theorem State.ctlValue_unassigned {s : State} {n : Nat} (h : n ∉ assignedNumbers) : s.ctlValue n = none := by
  cases e : s.ctlValue n with
  | none => rfl
  | some v => exact absurd (State.assigned_of_ctlValue e) h

theorem State.ctlValue_supervisor (s : State) {n : Nat} (lo : 0x800 ≤ n) (hi : n ≤ 0x805) : ∃ v, s.ctlValue n = some v := by
  interval_cases n <;> exact ⟨_, rfl⟩

theorem State.ctlAccess_read {s : State} {n : Nat} {v : Word} (h : s.ctlValue n = some v) (level : n / 1024 = 2 → s.me.ctl.priv ≠ .app) :
    s.ctlAccess n false = none := by
  unfold State.ctlAccess
  rw [h]
  have allowed : ¬ (n / 1024 = 2 ∧ s.isApp = true) := fun ⟨two, app⟩ => level two (of_decide_eq_true app)
  simp [allowed]

/-! ### RDC (03 R105) -/

theorem rdc_next {s : State} {d : Reg} {n : BitVec 12} {v : Word} (h : s.ctlValue n.toNat = some v)
    (level : n.toNat / 1024 = 2 → s.me.ctl.priv ≠ .app) (idle : n = 0x004 ∨ n = 0x006 → s.me.queueBusy = false) :
    Writes (.rdc d n) s 4 d v := by
  apply writes_next
  show execRdc d n s = _
  unfold execRdc
  rw [State.ctlAccess_read h level, h]
  exact if_neg fun ⟨flags, busy⟩ => by simp [idle flags] at busy

theorem rdc_waits {s : State} {d : Reg} {n : BitVec 12} {v : Word} (h : s.ctlValue n.toNat = some v) (level : n.toNat / 1024 ≠ 2)
    (flags : n = 0x004 ∨ n = 0x006) (busy : s.me.queueBusy = true) : exec (.rdc d n) s = .next s := by
  show execRdc d n s = _
  unfold execRdc
  rw [State.ctlAccess_read h fun two => absurd two level]
  exact if_pos ⟨flags, busy⟩

/-- A register that neither the level nor the vector queue guards. -/
theorem rdc_plain {s : State} {d : Reg} {n : BitVec 12} {v : Word} (h : s.ctlValue n.toNat = some v)
    (plain : n.toNat / 1024 ≠ 2 ∧ n ≠ 0x004 ∧ n ≠ 0x006 := by decide) : Writes (.rdc d n) s 4 d v :=
  rdc_next h (fun two => absurd two plain.1) fun flags => absurd flags (not_or.mpr plain.2)

/-- A register of class 0b10. -/
theorem rdc_supervisor {s : State} {d : Reg} {n : BitVec 12} {v : Word} (level : s.me.ctl.priv ≠ .app) (h : s.ctlValue n.toNat = some v)
    (plain : n ≠ 0x004 ∧ n ≠ 0x006 := by decide) : Writes (.rdc d n) s 4 d v :=
  rdc_next h (fun _ => level) fun flags => absurd flags (not_or.mpr plain)

theorem rdc_traps {s : State} {d : Reg} {n : BitVec 12} {t : Trap} (h : s.ctlAccess n.toNat false = some t) :
    Traps (.rdc d n) s (BitVec.ofNat 7 t.cause) t.tval t.tval2 := by
  apply traps_next
  show execRdc d n s = _
  unfold execRdc
  rw [h]

theorem rdc_unassigned {s : State} {d : Reg} {n : BitVec 12} (h : n.toNat ∉ assignedNumbers) :
    Traps (.rdc d n) s 0x02 (Words.enc s.ir) 0 :=
  rdc_traps (t := s.illegal) (by rw [State.ctlAccess, State.ctlValue_unassigned h])

theorem rdc_unprivileged {s : State} {d : Reg} {n : BitVec 12} (app : s.me.ctl.priv = .app) (lo : 0x800 ≤ n) (hi : n ≤ 0x805) :
    Traps (.rdc d n) s 0x03 (Words.enc s.ir) 0 := by
  have lo : 0x800 ≤ n.toNat := lo
  have hi : n.toNat ≤ 0x805 := hi
  obtain ⟨v, h⟩ := s.ctlValue_supervisor lo hi
  refine rdc_traps (t := s.privViolation) ?_
  rw [State.ctlAccess, h]
  exact if_pos ⟨by omega, decide_eq_true app⟩

/-! ### STATUS and VQSTAT (01 R21, R22) -/

theorem Priv.code_lt (p : Priv) : p.code < 4 := by cases p <;> decide

/-- STATUS holds its fields where 01 R21 puts them, and zero elsewhere. -/
theorem Ctl.status_fields (c : Ctl) :
    c.status.extractLsb' 0 2 = BitVec.ofNat 2 c.priv.code ∧ c.status.extractLsb' 2 2 = BitVec.ofNat 2 c.ppriv.code ∧
    c.status.extractLsb' 4 4 = 0 ∧ c.status.getLsbD 8 = c.move ∧ c.status.getLsbD 9 = decide (c.lg ≠ 0) ∧ c.status.getLsbD 10 = c.mt ∧
    c.status.getLsbD 11 = c.rchk ∧ c.status.getLsbD 12 = c.ldv ∧ c.status.extractLsb' 13 5 = c.ld ∧ c.status.getLsbD 18 = c.pldv ∧
    c.status.extractLsb' 19 5 = c.pld ∧ c.status.extractLsb' 24 40 = 0 := by
  have priv := c.priv.code_lt
  have ppriv := c.ppriv.code_lt
  have move := Bool.toNat_lt c.move
  have held := Bool.toNat_lt (decide (c.lg ≠ 0))
  have mt := Bool.toNat_lt c.mt
  have rchk := Bool.toNat_lt c.rchk
  have ldv := Bool.toNat_lt c.ldv
  have pldv := Bool.toNat_lt c.pldv
  have ld := c.ld.isLt
  have pld := c.pld.isLt
  refine ⟨word_field (by decide) ?_, word_field (by decide) ?_, word_field (m := 0) (by decide) ?_, word_bit (by decide) ?_,
    word_bit (by decide) ?_, word_bit (by decide) ?_, word_bit (by decide) ?_, word_bit (by decide) ?_, word_field_reg (by decide) ?_,
    word_bit (by decide) ?_, word_field_reg (by decide) ?_, word_field (m := 0) (by decide) ?_⟩
  all_goals omega

/-- A slot of VQSTAT is busy while it is not free. -/
theorem Strand.busy_slot (x : Strand) (q : BitVec 2) :
    decide ((x.slots[q.toNat]?.map Slot.phase).getD .free ≠ .free) = decide ((x.slot q).phase ≠ .free) := by
  rw [Strand.slot, Vector.getElem?_eq_getElem q.isLt]
  rfl

theorem Strand.vqstat_eq (x : Strand) :
    x.vqstat = word (x.ctl.sql.toNat * 2 ^ 8 + (decide ((x.slot 3).phase ≠ .free)).toNat * 2 ^ 7
      + (decide ((x.slot 2).phase ≠ .free)).toNat * 2 ^ 6 + (decide ((x.slot 1).phase ≠ .free)).toNat * 2 ^ 5
      + (decide ((x.slot 0).phase ≠ .free)).toNat * 2 ^ 4 + x.queue.length) := by
  rw [← x.busy_slot 0, ← x.busy_slot 1, ← x.busy_slot 2, ← x.busy_slot 3]
  rfl

/-- VQSTAT holds its fields where 01 R21 puts them, and zero elsewhere. -/
theorem Strand.vqstat_fields (x : Strand) (short : x.queue.length ≤ 8) :
    x.vqstat.extractLsb' 0 4 = BitVec.ofNat 4 x.queue.length ∧ x.vqstat.getLsbD 4 = decide ((x.slot 0).phase ≠ .free) ∧
    x.vqstat.getLsbD 5 = decide ((x.slot 1).phase ≠ .free) ∧ x.vqstat.getLsbD 6 = decide ((x.slot 2).phase ≠ .free) ∧
    x.vqstat.getLsbD 7 = decide ((x.slot 3).phase ≠ .free) ∧ x.vqstat.getLsbD 8 = x.ctl.sql ∧ x.vqstat.extractLsb' 9 55 = 0 := by
  have busy := fun q => Bool.toNat_lt (decide ((x.slot q).phase ≠ .free))
  have b0 := busy 0
  have b1 := busy 1
  have b2 := busy 2
  have b3 := busy 3
  have sql := Bool.toNat_lt x.ctl.sql
  rw [x.vqstat_eq]
  refine ⟨word_field (by decide) ?_, word_bit (by decide) ?_, word_bit (by decide) ?_, word_bit (by decide) ?_, word_bit (by decide) ?_,
    word_bit (by decide) ?_, word_field (m := 0) (by decide) ?_⟩
  all_goals omega

end Sys2Proof.Machine
end

section
/-! The statement about RDC. -/

namespace Sys2Proof.Machine

open Sys2Proof

/-- Settles O32: each number by what `ctlValue` gives for it and the rule of its class. -/
theorem rdcReadsTheRegister : Obligations.RdcReadsTheRegister := by
  intro s d
  refine ⟨rdc_plain rfl, rdc_plain rfl, rdc_plain rfl, rdc_plain rfl, rdc_plain rfl, rdc_plain rfl, rdc_plain rfl, rdc_plain rfl,
    rdc_plain rfl, rdc_plain rfl, rdc_plain rfl, rdc_plain rfl, rdc_plain rfl, rdc_plain rfl, rdc_plain rfl, rdc_plain rfl, rdc_plain rfl,
    rdc_plain rfl, rdc_plain rfl, rdc_plain rfl, rdc_plain rfl, rdc_plain rfl, rdc_plain rfl, rdc_plain rfl, ?_, ?_, ?_, ?_, ?_, ?_⟩
  · intro idle
    have free : s.me.queueBusy = false := by
      by_cases app : s.me.ctl.priv = .app
      · simp [Strand.queueBusy, idle app]
      · simp [Strand.queueBusy, app]
    exact ⟨rdc_next rfl (fun two => absurd two (by decide)) fun _ => free, rdc_next rfl (fun two => absurd two (by decide)) fun _ => free⟩
  · intro app held
    have busy : s.me.queueBusy = true := by simp [Strand.queueBusy, app, held]
    exact ⟨rdc_waits rfl (by decide) (.inl rfl) busy, rdc_waits rfl (by decide) (.inr rfl) busy⟩
  · intro short
    exact ⟨_, rdc_plain rfl, s.me.vqstat_fields short⟩
  · intro level
    exact ⟨rdc_supervisor level rfl, rdc_supervisor level rfl, rdc_supervisor level rfl, rdc_supervisor level rfl,
      rdc_supervisor level rfl, _, rdc_supervisor level rfl, s.me.ctl.status_fields⟩
  · exact fun app n lo hi => rdc_unprivileged app lo hi
  · intro n unassigned
    refine rdc_unassigned fun h => unassigned ?_
    have h := List.mem_map_of_mem (f := BitVec.ofNat 12) h
    rwa [BitVec.ofNat_toNat, BitVec.setWidth_eq] at h

end Sys2Proof.Machine
end

section
/-! SUPPORT. Scalar accesses that fail before they reach memory: why the address does not resolve, and the trap (01 R32, 03 R88, R90,
13 R388). -/

namespace Sys2Proof.Machine

open Sys2Proof

/-! ### Why an address does not resolve -/

/-- A scalar access of `n` bytes at `w`, of whatever form, fails with cause `c`, and the failure leaves no trace in TLBs and caches. -/
structure State.AccessFails (s : State) (w : Word) (n c : Nat) : Prop where
  unresolved : ∀ f, s.resolve s.agent f w n = .error ⟨.trap c, w⟩
  traceless : s.noteFailed s.agent w n (.trap c) = s

theorem resolve_of_checkWindow {s : State} {a : Agent} {w : Word} {n c : Nat} (h : s.checkWindow a w n = .error c) (f : Form) :
    s.resolve a f w n = .error ⟨.trap c, w⟩ := by
  unfold State.resolve
  rw [h]

/-- A check of the window fails: nothing has been translated. -/
theorem State.AccessFails.of_window {s : State} {w : Word} {n c : Nat} (h : s.checkWindow s.agent w n = .error c)
    (early : c = 8 ∨ c = 9) : s.AccessFails w n c :=
  ⟨resolve_of_checkWindow h, if_pos early⟩

theorem checkWindow_none {s : State} {a : Agent} {w : Word} (n : Nat) (h : windowOf w = none) : s.checkWindow a w n = .error 8 := by
  unfold State.checkWindow
  rw [h]

theorem checkWindow_none_last {s : State} {a : Agent} {w : Word} {n : Nat} (h : windowOf (w + word (n - 1)) = none) :
    s.checkWindow a w n = .error 8 := by
  unfold State.checkWindow
  rw [h]
  cases windowOf w <;> rfl

theorem checkWindow_outside {s : State} {a : Agent} {w : Word} {n : Nat} {x y : Window} (first : windowOf w = some x)
    (last : windowOf (w + word (n - 1)) = some y) (h : s.inLimit a.tenant x = false ∨ s.inLimit a.tenant y = false) :
    s.checkWindow a w n = .error 8 := by
  unfold State.checkWindow
  rw [first, last]
  exact if_pos (by rcases h with h | h <;> simp [h])

theorem inLimit_beyond {s : State} {w : Word} (h : s.beyondLimit w) :
    ∃ x, windowOf w = some x ∧ s.inLimit s.agent.tenant x = false := by
  obtain ⟨c, o, at_, beyond⟩ := h
  exact ⟨_, at_, decide_eq_false (Nat.not_lt.mpr beyond)⟩

theorem checkWindow_beyond {s : State} {w : Word} {n : Nat} (h : s.beyondLimit w ∨ s.beyondLimit (w + word (n - 1))) :
    s.checkWindow s.agent w n = .error 8 := by
  rcases h with h | h
  · obtain ⟨x, first, out⟩ := inLimit_beyond h
    cases last : windowOf (w + word (n - 1)) with
    | none => exact checkWindow_none_last last
    | some y => exact checkWindow_outside first last (.inl out)
  · obtain ⟨y, last, out⟩ := inLimit_beyond h
    cases first : windowOf w with
    | none => exact checkWindow_none n first
    | some x => exact checkWindow_outside first last (.inr out)

theorem checkWindow_otherCore {s : State} {w : Word} {n : Nat} (h : s.otherCore w n) : s.checkWindow s.agent w n = .error 9 := by
  obtain ⟨c, o, p, first, last, other⟩ := h
  unfold State.checkWindow
  rw [first, last]
  have wrong : (Window.core c o).wrongCore s.agent.tid = true := by
    show (!decide (c = s.tid.core)) = true
    simp [other]
  simp [State.inLimit, wrong]

/-! ### No page table (13 R386, R388) -/

/-- No TLB entry of the cluster is held, and the page-table root of the tenant on the die of the strand is invalid. -/
structure State.NoTable (s : State) : Prop where
  tlb : (s.cluster s.tid.cluster).tlb = []
  root : bitOf (s.rd (rPtroot s.tid.die s.me.ctl.tenant.toNat)) 0 = false

theorem State.NoTable.leafFor {s : State} (h : s.NoTable) (va : Nat) : s.leafFor s.agent va = .error (.trap 0x0B) := by
  have miss : s.tlbHit s.agent va = none := by
    show (none : Option TlbEntry).or ((s.cluster s.tid.cluster).tlbFind s.agent.tenant va) = none
    unfold Cluster.tlbFind
    rw [h.tlb]
    rfl
  unfold State.leafFor
  rw [miss]
  exact if_neg (Bool.eq_false_iff.mp h.root)

theorem State.NoTable.resolveGlobal {s : State} (h : s.NoTable) (f : Form) (va n : Nat) :
    s.resolveGlobal s.agent f va n = .error (.trap 0x0B) := by
  unfold State.resolveGlobal
  rw [h.leafFor]

theorem State.NoTable.walkTouch {s : State} (h : s.NoTable) (va : Nat) : s.walkTouch s.agent va = s :=
  if_neg (Bool.eq_false_iff.mp h.root)

/-- A walk that ends at the root reads no entry. -/
theorem State.NoTable.noteAccess {s : State} (h : s.NoTable) (w : Word) (ns : List Nat) : s.noteAccess s.agent w ns = s := by
  induction ns generalizing w with
  | nil => rfl
  | cons n ns ih =>
    unfold State.noteAccess
    split
    · simp only [h.leafFor, h.walkTouch]
      exact ih _
    · exact ih _

theorem checkWindow_global {s : State} {a : Agent} {w : Word} {n va vb : Nat} (first : windowOf w = some (.global va))
    (last : windowOf (w + word (n - 1)) = some (.global vb)) : s.checkWindow a w n = .ok (.global va) := by
  unfold State.checkWindow
  rw [first, last]
  rfl

theorem partLens_ne_nil (w : Word) (n : Nat) : partLens w n ≠ [] := by
  unfold partLens
  dsimp only
  split
  · exact List.cons_ne_nil _ _
  · exact List.cons_ne_nil _ _

theorem State.NoTable.resolve {s : State} (h : s.NoTable) {w : Word} {n va vb : Nat} (first : Machine.windowOf w = some (.global va))
    (last : Machine.windowOf (w + word (n - 1)) = some (.global vb)) (f : Form) : s.resolve s.agent f w n = .error ⟨.trap 0x0B, w⟩ := by
  have fails : ∀ k, s.resolveIn s.agent f (.global va) k = .error (.trap 0x0B) := h.resolveGlobal f va
  unfold State.resolve
  rw [checkWindow_global first last]
  cases parts : partLens w n with
  | nil => exact absurd parts (partLens_ne_nil w n)
  | cons k ks =>
    cases ks with
    | nil => simp only [fails]
    | cons => simp only [fails]

theorem State.NoTable.accessFails {s : State} (h : s.NoTable) {w : Word} {n va vb : Nat}
    (first : Machine.windowOf w = some (.global va)) (last : Machine.windowOf (w + word (n - 1)) = some (.global vb)) :
    s.AccessFails w n 0x0B :=
  ⟨h.resolve first last, h.noteAccess w _⟩

/-! ### The trap -/

theorem State.AccessFails.failScalar {s : State} {w : Word} {n c : Nat} (h : s.AccessFails w n c) :
    s.failScalar w n ⟨.trap c, w⟩ = s.trap ⟨c, w, 0⟩ := by
  unfold State.failScalar State.failure
  rw [h.traceless]

theorem State.AccessFails.loadOp {s : State} {w : Word} {n c : Nat} (h : s.AccessFails w n c) (free : s.me.waits = false) (len : Nat)
    (d : Reg) (signed : Bool) : s.loadOp len d w n signed = s.trap ⟨c, w, 0⟩ := by
  unfold State.loadOp
  rw [free, h.unresolved]
  exact h.failScalar

theorem State.AccessFails.storeOp {s : State} {w : Word} {n c : Nat} (h : s.AccessFails w n c) (free : s.me.waits = false) (len : Nat)
    (v : Word) : s.storeOp len w n v = s.trap ⟨c, w, 0⟩ := by
  unfold State.storeOp
  rw [free, h.unresolved]
  exact h.failScalar

theorem State.AccessFails.atomicOp {s : State} {a : Reg} {n c : Nat} (h : s.AccessFails (s.reg a) n c) (free : s.me.waits = false)
    (aligned : (s.reg a).toNat % n = 0) (d : Reg) (f : Form) (acc : Access) (o : Order) (sc : Scope) :
    s.atomicOp d a n f acc o sc = s.trap ⟨c, s.reg a, 0⟩ := by
  unfold State.atomicOp
  dsimp only
  rw [free, h.unresolved, if_neg Bool.false_ne_true, if_neg (not_not.mpr aligned)]
  exact h.failScalar

theorem atomicOp_misaligned {s : State} {a : Reg} {n : Nat} (free : s.me.waits = false) (h : (s.reg a).toNat % n ≠ 0) (d : Reg) (f : Form)
    (acc : Access) (o : Order) (sc : Scope) : s.atomicOp d a n f acc o sc = s.trap ⟨0x0A, s.reg a, 0⟩ := by
  unfold State.atomicOp
  dsimp only
  rw [free, if_neg Bool.false_ne_true, if_pos h]

/-- Instruction `i` makes a scalar access of `n` bytes at `w`: it traps with the cause with which that access fails. -/
def Faults (i : Instr) (s : State) (w : Word) (n : Nat) : Prop :=
  ∀ c, s.AccessFails w n c → Traps i s (BitVec.ofNat 7 c) w 0

theorem Faults.load {i : Instr} {s : State} {w : Word} {n len : Nat} {d : Reg} {signed : Bool}
    (h : exec i s = s.loadOp len d w n signed) (free : s.me.waits = false) : Faults i s w n :=
  fun c fails => traps_next (t := ⟨c, w, 0⟩) (h.trans (fails.loadOp free ..))

theorem Faults.store {i : Instr} {s : State} {w v : Word} {n len : Nat} (h : exec i s = s.storeOp len w n v) (free : s.me.waits = false) :
    Faults i s w n :=
  fun c fails => traps_next (t := ⟨c, w, 0⟩) (h.trans (fails.storeOp free ..))

theorem Faults.noWindow {i : Instr} {s : State} {w : Word} {n : Nat} (h : Faults i s w n) (none_ : windowOf w = none) : Traps i s 8 w 0 :=
  h 8 (.of_window (checkWindow_none n none_) (.inl rfl))

theorem Faults.windowTraps {i : Instr} {s : State} {w : Word} {n : Nat} (h : Faults i s w n) : WindowTraps i s w n :=
  ⟨fun beyond => h 8 (.of_window (checkWindow_beyond beyond) (.inl rfl)),
    fun other => h 9 (.of_window (checkWindow_otherCore other) (.inr rfl))⟩

theorem Faults.noTable {i : Instr} {s : State} {w : Word} {n va vb : Nat} (h : Faults i s w n) (unmapped : s.NoTable)
    (first : windowOf w = some (.global va)) (last : windowOf (w + word (n - 1)) = some (.global vb)) : Traps i s 0x0B w 0 :=
  h 0x0B (unmapped.accessFails first last)

/-- Instruction `i` is a scalar atomic of `n` bytes at s[a]. -/
def IsAtomic (i : Instr) (s : State) (a : Reg) (n : Nat) : Prop :=
  ∃ d f acc o sc, exec i s = s.atomicOp d a n f acc o sc

theorem IsAtomic.amo {i : Instr} {s : State} {d a b : Reg} {n : Nat} {op : VAmoOp} {o : Order} {sc : Scope}
    (h : exec i s = s.amoOp d a b n op o sc) : IsAtomic i s a n := ⟨_, _, _, _, _, h⟩

theorem IsAtomic.cas {i : Instr} {s : State} {d a b : Reg} {n : Nat} {o : Order} {sc : Scope} (h : exec i s = s.casOp d a b n o sc) :
    IsAtomic i s a n := ⟨_, _, _, _, _, h⟩

theorem IsAtomic.faults {i : Instr} {s : State} {a : Reg} {n : Nat} (h : IsAtomic i s a n) (free : s.me.waits = false)
    (aligned : (s.reg a).toNat % n = 0) : Faults i s (s.reg a) n := by
  obtain ⟨d, f, acc, o, sc, runs⟩ := h
  exact fun c fails => traps_next (t := ⟨c, s.reg a, 0⟩) (runs.trans (fails.atomicOp free aligned ..))

theorem IsAtomic.misaligned {i : Instr} {s : State} {a : Reg} {n : Nat} (h : IsAtomic i s a n) (free : s.me.waits = false)
    (off : (s.reg a).toNat % n ≠ 0) : Traps i s 0x0A (s.reg a) 0 := by
  obtain ⟨d, f, acc, o, sc, runs⟩ := h
  exact traps_next (t := ⟨0x0A, s.reg a, 0⟩) (runs.trans (atomicOp_misaligned free off ..))

/-! ### The instructions (03 R83, R89) -/

theorem scalar_faults {s : State} (free : s.me.waits = false) (d a : Reg) (i : BitVec 14) :
    Faults (.ldb d a i) s (s.reg a + i.signExtend 64) 1 ∧ Faults (.ldbu d a i) s (s.reg a + i.signExtend 64) 1 ∧
    Faults (.ldh d a i) s (s.reg a + i.signExtend 64) 2 ∧ Faults (.ldhu d a i) s (s.reg a + i.signExtend 64) 2 ∧
    Faults (.ldw d a i) s (s.reg a + i.signExtend 64) 4 ∧ Faults (.ldwu d a i) s (s.reg a + i.signExtend 64) 4 ∧
    Faults (.ldd d a i) s (s.reg a + i.signExtend 64) 8 ∧ Faults (.stb d a i) s (s.reg a + i.signExtend 64) 1 ∧
    Faults (.sth d a i) s (s.reg a + i.signExtend 64) 2 ∧ Faults (.stw d a i) s (s.reg a + i.signExtend 64) 4 ∧
    Faults (.std d a i) s (s.reg a + i.signExtend 64) 8 :=
  ⟨.load rfl free, .load rfl free, .load rfl free, .load rfl free, .load rfl free, .load rfl free, .load rfl free, .store rfl free,
   .store rfl free, .store rfl free, .store rfl free⟩

theorem scalarImm_faults {s : State} (free : s.me.waits = false) (d a : Reg) (j : BitVec 32) (l : LoadOp) (m : StoreOp) :
    Faults (.loadImm32 l d a j) s (s.reg a + j.signExtend 64) (LoadOp.form l).1 ∧
    Faults (.storeImm32 m d a j) s (s.reg a + j.signExtend 64) (StoreOp.width m) :=
  ⟨.load rfl free, .store rfl free⟩

theorem atomics64 (s : State) (d a b : Reg) (o : Order) (sc : Scope) :
    IsAtomic (.amoAddD d a b o sc) s a 8 ∧ IsAtomic (.amoAndD d a b o sc) s a 8 ∧ IsAtomic (.amoOrD d a b o sc) s a 8 ∧
    IsAtomic (.amoXorD d a b o sc) s a 8 ∧ IsAtomic (.amoMinD d a b o sc) s a 8 ∧ IsAtomic (.amoMaxD d a b o sc) s a 8 ∧
    IsAtomic (.amoMinuD d a b o sc) s a 8 ∧ IsAtomic (.amoMaxuD d a b o sc) s a 8 ∧ IsAtomic (.amoSwapD d a b o sc) s a 8 ∧
    IsAtomic (.casD d a b o sc) s a 8 :=
  ⟨.amo rfl, .amo rfl, .amo rfl, .amo rfl, .amo rfl, .amo rfl, .amo rfl, .amo rfl, .amo rfl, .cas rfl⟩

theorem atomics32 (s : State) (d a b : Reg) (o : Order) (sc : Scope) :
    IsAtomic (.amoAddW d a b o sc) s a 4 ∧ IsAtomic (.amoAndW d a b o sc) s a 4 ∧ IsAtomic (.amoOrW d a b o sc) s a 4 ∧
    IsAtomic (.amoXorW d a b o sc) s a 4 ∧ IsAtomic (.amoMinW d a b o sc) s a 4 ∧ IsAtomic (.amoMaxW d a b o sc) s a 4 ∧
    IsAtomic (.amoMinuW d a b o sc) s a 4 ∧ IsAtomic (.amoMaxuW d a b o sc) s a 4 ∧ IsAtomic (.amoSwapW d a b o sc) s a 4 ∧
    IsAtomic (.casW d a b o sc) s a 4 :=
  ⟨.amo rfl, .amo rfl, .amo rfl, .amo rfl, .amo rfl, .amo rfl, .amo rfl, .amo rfl, .amo rfl, .cas rfl⟩

end Sys2Proof.Machine
end

section
/-! The statement about addresses that trap. -/

namespace Sys2Proof.Machine

open Sys2Proof

/-- Settles O21: each instruction makes one scalar access (`Faults`, `IsAtomic`), which fails at the check of its window, of its
alignment or of its page table. -/
theorem badAddressesTrap : Obligations.BadAddressesTrap := by
  refine ⟨?_, ?_, ?_⟩
  · intro s d a b i j l m o sc free
    obtain ⟨ldb, ldbu, ldh, ldhu, ldw, ldwu, ldd, stb, sth, stw, std⟩ := scalar_faults free d a i
    obtain ⟨loadImm, storeImm⟩ := scalarImm_faults free d a j l m
    obtain ⟨addD, andD, orD, xorD, minD, maxD, minuD, maxuD, swapD, casD⟩ := atomics64 s d a b o sc
    obtain ⟨addW, andW, orW, xorW, minW, maxW, minuW, maxuW, swapW, casW⟩ := atomics32 s d a b o sc
    refine ⟨?_, ?_, ?_, fun off => ?_, fun off => ?_⟩
    · rintro _ rfl no
      exact ⟨ldb.noWindow no, ldbu.noWindow no, ldh.noWindow no, ldhu.noWindow no, ldw.noWindow no, ldwu.noWindow no, ldd.noWindow no,
        stb.noWindow no, sth.noWindow no, stw.noWindow no, std.noWindow no⟩
    · rintro _ rfl no
      exact ⟨loadImm.noWindow no, storeImm.noWindow no⟩
    · rintro _ rfl no
      refine ⟨fun at_ => ?_, fun at_ => ?_⟩
      · exact ⟨(addD.faults free at_).noWindow no, (andD.faults free at_).noWindow no, (orD.faults free at_).noWindow no,
          (xorD.faults free at_).noWindow no, (minD.faults free at_).noWindow no, (maxD.faults free at_).noWindow no,
          (minuD.faults free at_).noWindow no, (maxuD.faults free at_).noWindow no, (swapD.faults free at_).noWindow no,
          (casD.faults free at_).noWindow no⟩
      · exact ⟨(addW.faults free at_).noWindow no, (andW.faults free at_).noWindow no, (orW.faults free at_).noWindow no,
          (xorW.faults free at_).noWindow no, (minW.faults free at_).noWindow no, (maxW.faults free at_).noWindow no,
          (minuW.faults free at_).noWindow no, (maxuW.faults free at_).noWindow no, (swapW.faults free at_).noWindow no,
          (casW.faults free at_).noWindow no⟩
    · exact ⟨addD.misaligned free off, andD.misaligned free off, orD.misaligned free off, xorD.misaligned free off,
        minD.misaligned free off, maxD.misaligned free off, minuD.misaligned free off, maxuD.misaligned free off,
        swapD.misaligned free off, casD.misaligned free off⟩
    · exact ⟨addW.misaligned free off, andW.misaligned free off, orW.misaligned free off, xorW.misaligned free off,
        minW.misaligned free off, maxW.misaligned free off, minuW.misaligned free off, maxuW.misaligned free off,
        swapW.misaligned free off, casW.misaligned free off⟩
  · intro s d a i va vb free tlb root w first
    have unmapped : s.NoTable := ⟨tlb, root⟩
    obtain ⟨ldb, ldbu, ldh, ldhu, ldw, ldwu, ldd, stb, sth, stw, std⟩ := scalar_faults free d a i
    refine ⟨fun last => ⟨?_, ?_, ?_⟩, fun last => ⟨?_, ?_, ?_⟩, fun last => ⟨?_, ?_, ?_⟩, fun last => ⟨?_, ?_⟩⟩
    · exact ldb.noTable unmapped first last
    · exact ldbu.noTable unmapped first last
    · exact stb.noTable unmapped first last
    · exact ldh.noTable unmapped first last
    · exact ldhu.noTable unmapped first last
    · exact sth.noTable unmapped first last
    · exact ldw.noTable unmapped first last
    · exact ldwu.noTable unmapped first last
    · exact stw.noTable unmapped first last
    · exact ldd.noTable unmapped first last
    · exact std.noTable unmapped first last
  · intro s d a b i j l m o sc free
    obtain ⟨ldb, ldbu, ldh, ldhu, ldw, ldwu, ldd, stb, sth, stw, std⟩ := scalar_faults free d a i
    obtain ⟨loadImm, storeImm⟩ := scalarImm_faults free d a j l m
    obtain ⟨addD, andD, orD, xorD, minD, maxD, minuD, maxuD, swapD, casD⟩ := atomics64 s d a b o sc
    obtain ⟨addW, andW, orW, xorW, minW, maxW, minuW, maxuW, swapW, casW⟩ := atomics32 s d a b o sc
    refine ⟨ldb.windowTraps, ldbu.windowTraps, ldh.windowTraps, ldhu.windowTraps, ldw.windowTraps, ldwu.windowTraps, ldd.windowTraps,
      stb.windowTraps, sth.windowTraps, stw.windowTraps, std.windowTraps, loadImm.windowTraps, storeImm.windowTraps, fun at_ => ?_,
      fun at_ => ?_⟩
    · exact ⟨(addD.faults free at_).windowTraps, (andD.faults free at_).windowTraps, (orD.faults free at_).windowTraps,
        (xorD.faults free at_).windowTraps, (minD.faults free at_).windowTraps, (maxD.faults free at_).windowTraps,
        (minuD.faults free at_).windowTraps, (maxuD.faults free at_).windowTraps, (swapD.faults free at_).windowTraps,
        (casD.faults free at_).windowTraps⟩
    · exact ⟨(addW.faults free at_).windowTraps, (andW.faults free at_).windowTraps, (orW.faults free at_).windowTraps,
        (xorW.faults free at_).windowTraps, (minW.faults free at_).windowTraps, (maxW.faults free at_).windowTraps,
        (minuW.faults free at_).windowTraps, (maxuW.faults free at_).windowTraps, (swapW.faults free at_).windowTraps,
        (casW.faults free at_).windowTraps⟩

end Sys2Proof.Machine
end

section
/-! SUPPORT. A word decodes to the instruction that its row of the opcode map gives: one rule for each form of word (02 R39, R43, R47,
R50). -/

namespace Sys2Proof

/-- A late row is in range exactly when its instruction is. -/
theorem Late.wellFormed_instr (l : Late) : Sys2Proof.wellFormed l.instr = l.wellFormed := by
  cases l <;> rfl

theorem Decoded.wellFormed_instr (x : Decoded) : Sys2Proof.wellFormed x.instr = x.wellFormed := by
  cases x with
  | early i => rfl
  | late l => exact l.wellFormed_instr

/-- A row that gives a well-formed instruction passes the check of its operands. -/
theorem checked_of_row {e : DecodeError} {o : Option Decoded} {i : Instr} (row : o.map Decoded.instr = some i)
    (wf : wellFormed i = true) : (checked e o).map Decoded.instr = .ok i := by
  obtain ⟨x, rfl, rfl⟩ := Option.map_eq_some_iff.1 row
  rw [Decoded.wellFormed_instr] at wf
  simp only [checked, wf, if_true, Except.map]

section
variable {b a d : BitVec 5} {f op : BitVec 6} {m : BitVec 3} {i : Instr}
  {rows : BitVec 5 → BitVec 5 → BitVec 6 → BitVec 5 → BitVec 3 → Option Decoded}

theorem decodeWords_compact {cop : BitVec 4} {x : BitVec 5} (wf : wellFormed i = true) (nonzero : cop ≠ 0#4 ∨ d ≠ 0#5 ∨ x ≠ 0#5)
    (row : (decC cop d x).map Decoded.instr = some i) : decodeWords (.w16 (mk16 cop d x)) = .ok i := by
  unfold decodeWords decodeOp
  simp only [decode16_mk16 cop d x nonzero]
  exact checked_of_row row wf

/-- Class S: `rows` is what the opcode map holds under `op`. -/
theorem decodeWords_scalar (wf : wellFormed i = true) (under : decS op = rows) (row : (rows b a f d m).map Decoded.instr = some i) :
    decodeWords (.w32 (mk32 b a f 1#2 op d m)) = .ok i := by
  unfold decodeWords decodeOp
  simp only [decode32_mk32]
  rw [decFields, if_pos rfl, under]
  exact checked_of_row row wf

/-- Class V: as class S, for a body that stands alone. -/
theorem decodeWords_vector (wf : wellFormed i = true) (under : decV op = rows) (bare : bodyNeedsPrefix op f = false)
    (row : (rows b a f d m).map Decoded.instr = some i) : decodeWords (.w32 (mk32 b a f 2#2 op d m)) = .ok i := by
  unfold decodeWords decodeOp
  simp only [decode32_mk32]
  rw [decFields, if_neg (by decide), if_pos rfl, bare, if_neg Bool.false_ne_true, under]
  exact checked_of_row row wf

theorem decodeWords_imm {imm : BitVec 32} (wf : wellFormed i = true)
    (row : (decImm (imm.extractLsb' 8 24) op b a f d m).map Decoded.instr = some i) :
    decodeWords (.w64 (pfxImm imm) (mk32 b a f 1#2 op d m)) = .ok i := by
  unfold decodeWords decodeOp
  simp only [decode64_mk32, pfxImm_kind, pfxImm_payload]
  rw [decPrefixed, if_pos (by decide)]
  exact checked_of_row row wf

theorem decodeWords_ext {c e : BitVec 5} {n : BitVec 3} {x : BitVec 6} {o : BitVec 1} (wf : wellFormed i = true)
    (row : (decExtFields c e n x o 0#4 op b a f d m).map Decoded.instr = some i) :
    decodeWords (.w64 (pfxExt c e n x o) (mk32 b a f 2#2 op d m)) = .ok i := by
  unfold decodeWords decodeOp
  simp only [decode64_mk32, pfxExt_kind, pfxExt_payload]
  rw [decPrefixed, if_neg (by decide), if_pos (by decide), decExt_payload]
  exact checked_of_row row wf

theorem decodeWords_ord {s : Scope} {o : Order} (wf : wellFormed i = true)
    (row : (decOrd (s.code ++ o.code ++ 0#18) op b a f d m).map Decoded.instr = some i) :
    decodeWords (.w64 (pfxOrd s o) (mk32 b a f 2#2 op d m)) = .ok i := by
  unfold decodeWords decodeOp
  simp only [decode64_mk32, pfxOrd_kind, pfxOrd_payload]
  rw [decPrefixed, if_neg (by decide), if_neg (by decide), if_pos (by decide)]
  exact checked_of_row row wf

end

/-- The highest bit of a control register's number stands in the lowest bit of the op (02 R46). -/
theorem decS_control (hi : BitVec 1) : decS (28#5 ++ hi) = fun b a f d m => decS38 b a f d m hi := by
  obtain rfl | rfl : hi = 0#1 ∨ hi = 1#1 := by revert hi; decide
  · rfl
  · rfl

/-- BARV shares its op with BARINIT, whose f is 8. -/
theorem barv_ne_barinit (s : Scope) : (2#3 ++ s.code : BitVec 6) ≠ 8#6 := by
  cases s <;> decide

end Sys2Proof
end

section
/-! The statement about the encoder and the decoder. -/

namespace Sys2Proof

/-- Settles O5, by the row of each instruction: the fields that the encoder writes select the row in the tables of its class
and op, and the row reads its operands out of the same fields. -/
theorem decodingUndoesEncoding : Obligations.DecodingUndoesEncoding := by
  intro i wf encoded
  cases i with
  -- Compact forms (02 R48); c.addi 0, 0 would be the zero parcel.
  | cAdd | cSub | cAnd | cOr | cXor | cShli | cShri | cSrai | cMv | cLdd | cStd | cLdw | cJalr =>
      exact decodeWords_compact wf (.inl (by decide)) rfl
  | cBeqz | cBnez => exact decodeWords_compact wf (.inl (by decide)) (by simp [decC, Decoded.instr])
  | cAddi => exact decodeWords_compact wf (.inr (Decidable.not_and_iff_or_not.1 (of_decide_eq_true wf))) rfl
  -- Class S rows without a field that is put together of parts (02 R58 to R60).
  | add | sub | and | or | xor | shl | shr | sra | min | max | minu | maxu | slt | sltu | rotl | rotr | addsc | mul | mulh | mulhu
    | div | divu | rem | remu | clmul | clmulh | clz | ctz | popc | brev | bswap | shli | shri | srai | space | castg | casts
    | send | recv | waitmsg | pollmsg | lullq | lullw | eret | ifence | trigger | exit | nop =>
      exact decodeWords_scalar wf rfl rfl
  -- Formats I, U and B: the immediate is put together again (02 R44).
  | addi | andi | ori | xori | slti | lih | addpc | beq | bne | blt | bge | bltu | bgeu | jal | jalr | ldb | ldbu | ldh | ldhu | ldw
    | ldwu | ldd | stb | sth | stw | std =>
      exact decodeWords_scalar wf rfl (congrArg some (by simp [Decoded.instr]))
  -- Scope and order, format and rounding, or a number in two fields (02 R45, R46, R61).
  | amoAddD | amoAndD | amoOrD | amoXorD | amoMinD | amoMaxD | amoMinuD | amoMaxuD =>
      exact decodeWords_scalar (rows := decS24) wf rfl (by simp [decS24, Decoded.instr])
  | amoSwapD | casD => exact decodeWords_scalar (rows := decS25) wf rfl (by simp [decS25, Decoded.instr])
  | amoAddW | amoAndW | amoOrW | amoXorW | amoMinW | amoMaxW | amoMinuW | amoMaxuW =>
      exact decodeWords_scalar (rows := decS26) wf rfl (by simp [decS26, Decoded.instr])
  | amoSwapW | casW => exact decodeWords_scalar (rows := decS27) wf rfl (by simp [decS27, Decoded.instr])
  | fadd | fsub | fmul | fdiv | fsqrt | fmin | fmax | fsgnCopy | fsgnNeg | fsgnXor | fcmpEq | fcmpLt | fcmpLe | fclass | fcvtToFloat
    | fcvtToInt => exact decodeWords_scalar (rows := decS30) wf rfl (by simp [decS30, Decoded.instr])
  | fma | fms | fnma => exact decodeWords_scalar (rows := decS31) wf rfl (by simp [decS31, Decoded.instr])
  | rdc | wrc | setc | clrc => exact decodeWords_scalar wf (decS_control _) (by simp [decS38, Decoded.instr])
  | svc | brk => exact decodeWords_scalar (rows := decS3C) wf rfl (by simp [decS3C, Decoded.instr])
  -- A hint is what op 0x3F holds beside NOP and RACT (02 R57).
  | ract => exact decodeWords_scalar (rows := decS3F) wf rfl (by simp [decS3F, Decoded.instr])
  | hint b a f m =>
      obtain ⟨notNop, notRact⟩ := Bool.and_eq_true_iff.1 wf
      refine decodeWords_scalar (rows := decS3F) wf rfl ?_
      rw [decS3F, if_neg fun ⟨hb, ha, hf, _, hm⟩ => of_decide_eq_true notNop ⟨hb, ha, hf, hm⟩,
        if_neg fun ⟨hb, hf, _, hm⟩ => of_decide_eq_true notRact ⟨hf, hb, hm⟩, if_pos rfl]
      rfl
  -- IMM prefixes (02 R51, R52).
  | addiImm32 op | loadImm32 op | storeImm32 op =>
      cases op <;> exact decodeWords_imm wf (by simpa [decImm, ImmOp.op, LoadOp.op, StoreOp.op, Decoded.instr] using imm32 _)
  | lihImm32 | addpcImm32 | jalrImm32 => exact decodeWords_imm wf (by simpa [decImm, Decoded.instr] using imm32 _)
  -- Vector memory (02 R63); a scaled transfer is told from a plain one by b.
  | vld | vlds | vldx | vldxO | vldff => exact decodeWords_vector (rows := decV08) wf rfl rfl (by simp [decV08, Decoded.instr])
  | vst | vsts | vstx | vstxO | vstN => exact decodeWords_vector (rows := decV09) wf rfl rfl (by simp [decV09, Decoded.instr])
  | vldScaled d a b =>
      have scaled : b ≠ 0#5 := of_decide_eq_true wf
      exact decodeWords_vector (rows := decV08) wf rfl rfl (by simp [decV08, scaled, Decoded.instr])
  | vstScaled d a b =>
      have scaled : b ≠ 0#5 := of_decide_eq_true wf
      exact decodeWords_vector (rows := decV09) wf rfl rfl (by simp [decV09, scaled, Decoded.instr])
  -- ORD prefixes (02 R51).
  | vloadOrd op | vstoreOrd op | vamoOrd op =>
      cases op <;> exact decodeWords_ord wf (by simp [decOrd, VLoadOp.code, VStoreOp.code, VAmoOp.code, Decoded.instr])
  -- Class V rows without a field that is put together of parts (02 R62 to R65).
  | vgrant | vgrantNb | vgrantZ | vtype | vamoAdd | vamoAnd | vamoOr | vamoXor | vamoMin | vamoMax | vamoMinu | vamoMaxu | vamoSwap
    | vaddVx | vsubVx | vmulVx | vmulhVx | vdivVx | vremVx | vminVx | vmaxVx | vandVx | vorVx | vxorVx | vshlVx | vshrVx | vsraVx
    | vfmaVx | vfmsVx | vfnmaVx | vwaddVx | vwmulVx | vnshrVx | vaddVi | vsubVi | vminVi | vmaxVi | vandVi | vorVi | vxorVi | vshlVi
    | vshrVi | vsraVi | vnshrVi | vredsumO | vredsumT | vredmax | vredmin | vredand | vredor =>
      exact decodeWords_vector wf rfl rfl rfl
  | vaddVv | vsubVv | vmulVv | vmulhVv | vdivVv | vremVv | vminVv | vmaxVv | vandVv | vorVv | vxorVv | vshlVv | vshrVv | vsraVv
    | vfmaVv | vfmsVv | vfnmaVv | vabs | vneg | vwaddVv | vwmulVv | vnshrVv =>
      exact decodeWords_vector (rows := decV10) wf rfl rfl (by simp [decV10, Decoded.instr])
  -- Mask registers in fields of five bits, kinds, widths, slots and scopes (02 R44, R64 to R66).
  | vcmpEqVv | vcmpNeVv | vcmpLtVv | vcmpLeVv | vcmpEqVx | vcmpNeVx | vcmpLtVx | vcmpLeVx | vcmpEqVi | vcmpNeVi | vcmpLtVi | vcmpLeVi =>
      exact decodeWords_vector (rows := decV14) wf rfl rfl (by simp [decV14, Decoded.instr])
  | mand | mor | mxor | mnot | mpop | mfirst | mset =>
      exact decodeWords_vector (rows := decV15) wf rfl rfl (by simp [decV15, Decoded.instr])
  | vsel | vbcast | vget | vidx => exact decodeWords_vector (rows := decV16) wf rfl rfl (by simp [decV16, Decoded.instr, Late.instr])
  | vgather | vslideup | vslidedn | vcompress | vexpand | vswappr | vzip | vunzip =>
      exact decodeWords_vector (rows := decV18) wf rfl rfl (by simp [decV18, Decoded.instr, Late.instr])
  | vcvt | vcvtSr => exact decodeWords_vector (rows := decV1A) wf rfl rfl (by simp [decV1A, Decoded.instr, Late.instr])
  | vrcp | vrsq | vsint | vcost | vexp2 | vlog2 | vclmul | vclmulh | vcbdec | cbload =>
      exact decodeWords_vector (rows := decV1B) wf rfl rfl (by simp [decV1B, Decoded.instr, Late.instr])
  | vrnsf | vrnsr | vrnschk => exact decodeWords_vector (rows := decV1C) wf rfl rfl (by simp [decV1C, Decoded.instr, Late.instr])
  | vstreamLdv | vstreamStv | vstreamLds | vstreamSts | vstreamLdb | vstreamStb =>
      exact decodeWords_vector (rows := decV20) wf rfl (by simp [bodyNeedsPrefix]) (by simp [decV20, Decoded.instr, Late.instr])
  | swait | squery => exact decodeWords_vector (rows := decV21) wf rfl rfl (by simp [decV21, Decoded.instr, Late.instr])
  | fenceSs | fenceSv | fenceVs | fenceVv | barinit | barw =>
      exact decodeWords_vector (rows := decV22) wf rfl rfl (by simp [decV22, Decoded.instr, Late.instr])
  | barv k s =>
      exact decodeWords_vector (rows := decV22) wf rfl (by cases s <;> rfl)
        (by simp [decV22, barv_ne_barinit, Decoded.instr, Late.instr])
  | mtenter | mtexit | tzero | tedge | tcvt | tchk =>
      exact decodeWords_vector (rows := decV30) wf rfl rfl (by simp [decV30, Decoded.instr, Late.instr])
  -- EXT prefixes (02 R51, R53, R67).
  | vstreamLdvA | vstreamStvA | vstreamLdsA | vstreamStsA | vstreamLdbA | vstreamStbA | topa | tops | topr | tldrow | tstrow | tslv
    | tvsl => exact decodeWords_ext wf (by simp [decExtFields, Decoded.instr, Late.instr])
  -- An event has no encoding.
  | _ => exact absurd rfl encoded

end Sys2Proof
end

section
/-! The statement about the worked encodings. -/

namespace Sys2Proof

/-- Words that the encoder gives for a well-formed instruction decode to it. -/
theorem decodeWords_of_encode {i : Instr} {w : Words} (code : encode i = w) (wf : wellFormed i = true) (words : w ≠ .event) :
    decodeWords w = .ok i := by
  subst code
  exact decodingUndoesEncoding i wf words

/-- Settles O6: each word is the encoding of its instruction, from which it decodes (O5); two words are refused. -/
theorem workedEncodingsDecode : Obligations.WorkedEncodingsDecode := by
  refine ⟨?_, ?_, ?_, ?_, ?_, ?_, ?_, ?_, ?_, ?_, ?_, ?_, ?_, ?_, ?_, ?_, ?_, ?_, ?_, ?_, ?_, ?_, ?_, ?_, ⟨_, rfl⟩, ⟨_, rfl⟩⟩
  all_goals exact decodeWords_of_encode rfl rfl Words.noConfusion

end Sys2Proof
end

section
/-! The statements about compact operations and hints. -/

namespace Sys2Proof.Machine

open Sys2Proof

/-- The target of a branch, whose offset counts parcels (02 R48). -/
theorem evenPc_offset (pc : Word) {n : Nat} (o : BitVec n) :
    evenPc (pc + (o.signExtend 64 <<< 1)) = (pc + 2 * o.signExtend 64) &&& ~~~1 := by
  have twice : o.signExtend 64 <<< 1 = 2 * o.signExtend 64 := by
    rw [BitVec.shiftLeft_eq_mul_twoPow, BitVec.mul_comm]
    rfl
  rw [twice]
  rfl

/-- A compact operation whose last destination is valid writes its result on it. -/
theorem writes_compactOp {i : Instr} {s : State} {d : Reg} {f : Word → Word} (ldv : s.me.ctl.ldv = true)
    (h : exec i s = s.compactOp d f) : Writes i s 2 d (f (s.reg s.me.ctl.ld)) :=
  writes_next (h.trans (State.compactOp_ldv ldv d f))

/-- A compact branch on the last destination. -/
theorem goes_branchC {i : Instr} {s : State} {o : BitVec 10} {t : Word → Bool} {c : Prop} [Decidable c] (ldv : s.me.ctl.ldv = true)
    (hc : t (s.reg s.me.ctl.ld) = decide c) (h : exec i s = s.compact fun l => s.branchC o (t l)) :
    Goes i s (if c then (s.me.pc + 2 * o.signExtend 64) &&& ~~~1 else s.me.pc + 2) := by
  rw [← evenPc_offset]
  exact goes_branch hc (h.trans (State.compact_ldv ldv _))

/-- A form that needs a last destination traps without one (02 R49). -/
theorem traps_noLdv {i : Instr} {s : State} {r : Result} (noLdv : s.me.ctl.ldv = false)
    (h : exec i s = if s.me.ctl.ldv then r else s.trap s.illegal) : Traps i s 2 (Words.enc s.ir) 0 :=
  traps_next (h.trans (if_neg (Bool.eq_false_iff.1 noLdv)))

/-- Settles O14: every compact form asks for the last destination first; with it, the form is an operation on it or a branch. -/
theorem compactOperationsWrite : Obligations.CompactOperationsWrite := by
  intro s d x i o
  refine ⟨fun ldv => ⟨?_, ?_, ?_, ?_, ?_, ?_, ?_, ?_, ?_, ?_, ?_, ?_⟩, fun noLdv => ?_⟩
  · exact writes_compactOp (f := fun l => l + i.signExtend 64) ldv rfl
  · exact writes_compactOp (f := fun l => l + s.reg x) ldv rfl
  · exact writes_compactOp (f := fun l => l - s.reg x) ldv rfl
  · exact writes_compactOp (f := fun l => l &&& s.reg x) ldv rfl
  · exact writes_compactOp (f := fun l => l ||| s.reg x) ldv rfl
  · exact writes_compactOp (f := fun l => l ^^^ s.reg x) ldv rfl
  · exact writes_compactOp (f := fun l => l <<< i.toNat) ldv rfl
  · exact writes_compactOp (f := fun l => l >>> i.toNat) ldv rfl
  · exact writes_compactOp (f := fun l => l.sshiftRight i.toNat) ldv rfl
  · exact writes_compactOp (f := fun l => l) ldv rfl
  · exact goes_branchC (t := fun l => decide (l = 0)) ldv rfl rfl
  · exact goes_branchC (t := fun l => !decide (l = 0)) ldv decide_not.symm rfl
  · refine ⟨?_, ?_, ?_, ?_, ?_, ?_, ?_, ?_, ?_, ?_, ?_, ?_, ?_, ?_, ?_, ?_⟩
    all_goals exact traps_noLdv noLdv rfl

theorem execRact_none {s : State} {a : Reg} (h : s.ractTarget (s.reg a) = none) : exec (.ract a) s = .next (s.retire 4 none) := by
  show execRact a s = _
  rw [execRact, h]

theorem execRact_some {s : State} {a : Reg} {pa : Nat} (h : s.ractTarget (s.reg a) = some pa) :
    exec (.ract a) s = .next (((s.retire 4 none).onSys fun y => { y with racts := y.racts ++ [pa] }).push (.ractArrival 0)) := by
  show execRact a s = _
  rw [execRact, h]

/-- Settles O36: a hint retires and nothing else; RACT with a target adds its arrival to that. -/
theorem hintsOnlyAdvance : Obligations.HintsOnlyAdvance := by
  intro s a b f m
  refine ⟨goes_retire rfl, goes_retire rfl, fun dropped => goes_retire (execRact_none dropped), fun pa target => ?_, fun outside => ?_⟩
  · exact ⟨s.retire 4 none, execRact_some target, went_retire s 4⟩
  · unfold State.ractTarget
    rw [outside]

end Sys2Proof.Machine
end

section
/-! SUPPORT. The checks that a queued instruction meets at issue, in their order (02 R55, 04 R144, 10 R296). -/

namespace Sys2Proof.Machine

open Sys2Proof

/-- An instruction with a queued operation issues it, whatever its length and its captured operands (05 R156). -/
theorem Queues.issues {i : Instr} {op : VOp} (h : Queues i op) (s : State) : ∃ len x y, exec i s = s.issueV len op x y := by
  rcases h with early | ⟨l, rfl, late⟩
  · cases i with
    | vld | vldScaled | vlds | vldx | vldxO | vldff | vst | vstScaled | vsts | vstx | vstxO | vstN | vamoAdd | vamoAnd | vamoOr
      | vamoXor | vamoMin | vamoMax | vamoMinu | vamoMaxu | vamoSwap | vloadOrd | vstoreOrd | vamoOrd | vaddVv | vsubVv | vmulVv
      | vmulhVv | vdivVv | vremVv | vminVv | vmaxVv | vandVv | vorVv | vxorVv | vshlVv | vshrVv | vsraVv | vfmaVv | vfmsVv
      | vfnmaVv | vabs | vneg | vwaddVv | vwmulVv | vnshrVv | vaddVx | vsubVx | vmulVx | vmulhVx | vdivVx | vremVx | vminVx
      | vmaxVx | vandVx | vorVx | vxorVx | vshlVx | vshrVx | vsraVx | vfmaVx | vfmsVx | vfnmaVx | vwaddVx | vwmulVx | vnshrVx
      | vaddVi | vsubVi | vminVi | vmaxVi | vandVi | vorVi | vxorVi | vshlVi | vshrVi | vsraVi | vnshrVi | vcmpEqVv | vcmpNeVv
      | vcmpLtVv | vcmpLeVv | vcmpEqVx | vcmpNeVx | vcmpLtVx | vcmpLeVx | vcmpEqVi | vcmpNeVi | vcmpLtVi | vcmpLeVi | mand | mor
      | mxor | mnot | mpop | mfirst | mset | vsel => cases early; exact ⟨_, _, _, rfl⟩
    | _ => cases early
  · cases l with
    | vstreamLdv | vstreamStv | vstreamLds | vstreamSts | vstreamLdb | vstreamStb | vstreamLdvA | vstreamStvA | vstreamLdsA
      | vstreamStsA | vstreamLdbA | vstreamStbA | swait | squery | fenceSs | fenceVs | barinit | barw | mtenter | mtexit
      | tedge => cases late
    | _ => cases late; exact ⟨_, _, _, rfl⟩

/-- The vector context is there: application level, a grant unless the instruction is a fence, and a kind that the operation
accepts. -/
theorem Ctl.vecOk_iff {c : Ctl} {op : VOp} :
    c.vecOk op = true ↔ c.priv = .app ∧ (c.lg ≠ 0 ∨ ∃ v sc, op = .fence v sc) ∧ c.kindOk op = true := by
  cases op with
  | fence => simp [Ctl.vecOk]
  | _ => simp [Ctl.vecOk, and_assoc]

section
variable {s : State} {len : Nat} {op : VOp} {x y : Word}

theorem issueV_noContext (context : s.me.ctl.vecOk op = false) : s.issueV len op x y = s.trap s.badVec := by
  simp [State.issueV, context]

theorem issueV_badRegisters (context : s.me.ctl.vecOk op = true) (registers : s.me.ctl.regsLegal op = false) :
    s.issueV len op x y = s.trap s.illegal := by
  simp [State.issueV, context, registers]

theorem issueV_ownTrap {t : Trap} (context : s.me.ctl.vecOk op = true) (registers : s.me.ctl.regsLegal op = true)
    (own : s.issueTrap op x = some t) : s.issueV len op x y = s.trap t := by
  simp [State.issueV, context, registers, own]

theorem issueV_full (context : s.me.ctl.vecOk op = true) (registers : s.me.ctl.regsLegal op = true) (own : s.issueTrap op x = none)
    (full : 8 ≤ s.me.queue.length) : s.issueV len op x y = .next s := by
  simp [State.issueV, context, registers, own, full]

/-- A matrix instruction out of matrix mode (10 R296). -/
theorem issueTrap_tileDisabled (matrix : opIsMatrix op = true) (off : s.me.ctl.mt = false) :
    s.issueTrap op x = some s.tileDisabled := by
  have tile : s.matrixTrap op x = some s.tileDisabled := by simp [State.matrixTrap, matrix, off]
  cases op with
  | cbload | barv => cases matrix
  | _ => exact tile

end

end Sys2Proof.Machine
end

section
/-! The statement about queued work that stops at issue. -/

namespace Sys2Proof.Machine

open Sys2Proof

/-- Settles O50: a queued instruction issues its operation (`Queues.issues`), which the checks stop in their order. -/
theorem queuedWorkTrapsAtIssue : Obligations.QueuedWorkTrapsAtIssue := by
  intro i op queues s
  obtain ⟨len, x, y, runs⟩ := queues.issues s
  refine ⟨fun lacks => ?_, fun level grant kind => ?_⟩
  · have context : s.me.ctl.vecOk op = false := by
      refine Bool.eq_false_iff.2 fun ok => ?_
      obtain ⟨level, grant, kind⟩ := Ctl.vecOk_iff.1 ok
      rcases lacks with above | ⟨none_, notFence⟩ | wrong
      · exact above level
      · exact grant.elim (· none_) fun ⟨v, sc, fence⟩ => notFence v sc fence
      · exact Bool.false_ne_true (wrong.symm.trans kind)
    exact traps_next (runs.trans (issueV_noContext context))
  · have context : s.me.ctl.vecOk op = true := Ctl.vecOk_iff.2 ⟨level, grant, kind⟩
    refine ⟨fun bad => ?_, fun registers matrix off => ?_, fun registers own full => ?_⟩
    · exact traps_next (runs.trans (issueV_badRegisters context bad))
    · exact traps_next (runs.trans (issueV_ownTrap context registers (issueTrap_tileDisabled matrix off)))
    · exact runs.trans (issueV_full context registers (own x) (Nat.le_of_eq full.symm))

end Sys2Proof.Machine
end

section
/-! SUPPORT. A fetch whose line the check of its L2 tag poisons (05 R152, 13 R397). -/

namespace Sys2Proof.Machine

open Sys2Proof

/-- The syndrome of all ones names no bit: it is no single check bit, and no column of the code (12 R354, 13 R397). -/
theorem decodeSyn_ones : decodeSyn 0xFF = .bad := by
  have noColumn : (List.range 64).find? (fun b => decide ((0xFF : Byte) = Config.checkColumn b)) = none := by
    rw [List.find?_eq_none]
    intro b lt
    have pattern := checkColumn_pattern (List.mem_range.1 lt)
    have ones : (0xFF : Byte) ∉ Config.checkPatterns := by decide +kernel
    rw [decide_eq_true_iff]
    exact fun e => ones (e ▸ pattern)
  have noCheck : (List.range 8).find? (fun k => decide ((0xFF : Byte) = BitVec.ofNat 8 (2 ^ k))) = none := by decide
  rw [decodeSyn, noCheck, noColumn]

/-- The poison that an uncorrectable tag of a dirty line leaves in the eight words of the line. -/
def State.linePoison (s : State) (tag : Nat) : NMap Bool :=
  (List.range 8).foldl (fun m i => NMap.set false m (8 * tag + i) true) s.poison

/-- A dirty line with an uncorrectable tag is poisoned as the slice looks at it; the memory system's registers and tables change
beside. -/
theorem tagCheck_bad {s : State} {d pa : Nat} {l : CacheLine} (t : Option Tid)
    (found : (NMap.get [] s.sys.l2 (l2Set d pa)).find? (fun (l : CacheLine) => decide (l.tag = pa / 64) && !decide (l.tagSynd = 0)) = some l)
    (bad : decodeSyn l.tagSynd = .bad) (dirty : l.dirty = true) :
    ∃ m y, s.tagCheck t d pa = { s with poison := s.linePoison l.tag, fw := m, sys := y } := by
  unfold State.tagCheck
  simp only [found, bad, dirty, if_true]
  obtain ⟨m, ev, e⟩ := logDie_shape _ d _
  exact ⟨_, _, e⟩

theorem replied_poison (s : State) (a : Agent) (p : Place) : (s.replied a p).poison = s.poison := by
  unfold State.replied
  split
  · rfl
  · rfl

/-- A line that no instruction cache holds cannot be fetched when the check of its tag poisons it. -/
theorem fetchLine_bad {s : State} {p : Place} {l : CacheLine} (uncached : (s.core s.tid.core).icacheFind p.key = none)
    (still : s.sys.migrating = []) (noSynd : s.synd = []) (near : s.tid.die = homeDie (p.key / 64 * 64))
    (found : (NMap.get [] s.sys.l2 (l2Set (homeDie (p.key / 64 * 64)) (p.key / 64 * 64))).find?
      (fun (l : CacheLine) => decide (l.tag = p.key / 64 * 64 / 64) && !decide (l.tagSynd = 0)) = some l)
    (bad : decodeSyn l.tagSynd = .bad) (dirty : l.dirty = true)
    (poisons : ({ s with poison := s.linePoison l.tag } : State).poisonedIn (p.key / 64 * 64) 64 = true) : (s.fetchLine p).2 = none := by
  obtain ⟨m, y, tagged⟩ := tagCheck_bad (some s.tid) found bad dirty
  have checked : s.lineCheck (some s.tid) (p.key / 64 * 64) 64 = { s with poison := s.linePoison l.tag, fw := m, sys := y } := by
    have calm : ({ s with poison := s.linePoison l.tag, fw := m, sys := y } : State).synd = [] := noSynd
    unfold State.lineCheck State.tagChecks
    simp only [near, if_true, tagged, ecc_calm calm, ite_self]
  unfold State.fetchLine
  simp only [uncached, redirect_calm still, checked]
  rw [if_pos]
  rw [State.poisonedIn, replied_poison]
  exact poisons

/-- A fetch of a parcel whose line is not delivered faults at the parcel. -/
theorem fetchParcel_undelivered {s : State} {pc : Word} {p : Place} (place : s.fetchPlace pc = .ok p)
    (unbuffered : (s.noteAccess s.agent pc [2]).fetchBuffered p = none)
    (free : (s.noteAccess s.agent pc [2]).lineHeld (some (s.noteAccess s.agent pc [2]).tid.die)
      ((s.noteAccess s.agent pc [2]).redirect p.key) p.keyId = false)
    (line : ((s.noteAccess s.agent pc [2]).fetchLine p).2 = none) : (s.fetchParcel pc).2 = .error (.fault pc) := by
  unfold State.fetchParcel
  simp only [place, unbuffered, free, Bool.and_false, Bool.false_eq_true, if_false]
  split
  · rfl
  · next e =>
    rw [e] at line
    cases line

/-- A booted package whose table of L2 sets lists its keys in falling order. The set of the code line is listed behind a greater key and
does not read; it comes to light as the walk of the page tables empties the set before it, whose line another key has left. -/
def shadowedSet : State :=
  (State.reset.withFetchWord 32 0x39804028).onSys fun y => { y with l2 := [
    (l2Set 0 0x20000, [{ way := 0, tag := 0x20000 / 64, dirty := false, part := 0, keyId := 1 }]),
    (l2Set 0 0x10000, [{ way := 0, tag := 0x10000 / 64, dirty := true, part := 0, keyId := 0, tagSynd := 0xFF }])] }

/-- The code line of the booted package. -/
def codePlace : Place := { kind := .dram, key := 0x10000, keyId := 0, cached := true, alloc := true, replica := false, fills := true }

theorem shadowedSet_place : shadowedSet.fetchPlace 0x10000 = .ok codePlace := by decide +kernel

/-- Every set that reads holds lines with good tags. -/
theorem shadowedSet_tags (k : Nat) : ∀ l ∈ NMap.get [] shadowedSet.sys.l2 k, l.tagSynd = 0 := by
  show ∀ l ∈ NMap.get [] [(4160, [_]), (2080, [_])] k, CacheLine.tagSynd l = 0
  simp only [NMap.get]
  split
  · simp
  split
  · simp
  · rw [if_neg (by omega), if_neg (by omega)]
    simp

theorem shadowedSet_faults : (shadowedSet.fetchParcel 0x10000).2 = .error (.fault 0x10000) := by
  refine fetchParcel_undelivered shadowedSet_place (by decide +kernel) (by decide +kernel) ?_
  exact fetchLine_bad (l := ⟨0, 0x10000 / 64, true, 0, 0, 0xFF⟩) (by decide +kernel) (by decide +kernel) (by decide +kernel)
    (by decide +kernel) (by decide +kernel) decodeSyn_ones rfl (by decide +kernel)

end Sys2Proof.Machine
end

section
/-! The statement about the framing of parcels. -/

namespace Sys2Proof.Machine

open Sys2Proof

/-- Refutes O4: in a state whose table of L2 sets is not in canonical form (`shadowedSet`) every line that the table reads has a good tag,
and the fetch faults all the same: its page walk removes a set, behind which a dirty line with an uncorrectable tag comes to light. -/
theorem not_fetchFramesParcels : ¬ Obligations.FetchFramesParcels := by
  intro framed
  have fetched := ((framed.1 shadowedSet 0x10000 codePlace shadowedSet_place rfl).2 (fun b buffered => nomatch buffered)).2
  have delivered := (fetched (by decide +kernel)).1 rfl rfl rfl rfl (fun k l => shadowedSet_tags k l) rfl rfl
  rw [shadowedSet_faults] at delivered
  cases delivered

end Sys2Proof.Machine
end

section
/-! SUPPORT. What it means that an answer is a next state, and the operations that the instructions and events of the opcode table share
(R56, R138, R142). -/

namespace Sys2Proof.Machine

open Sys2Proof

/-- The answer is a next state: no fault and no refusal. -/
def Result.Completes (r : Result) : Prop := ∃ t, r = .next t

/-- An attempt to issue that issues answers a next state. -/
def Attempt.Completes : Attempt → Prop
  | .issues r => r.Completes
  | .passes _ => True

theorem completes_next {t : State} : Result.Completes (.next t) := ⟨t, rfl⟩

theorem completes_ite {p : Prop} [Decidable p] {a b : Result} (ha : a.Completes) (hb : b.Completes) :
    Result.Completes (if p then a else b) := by
  split
  · exact ha
  · exact hb

theorem completes_iteAttempt {p : Prop} [Decidable p] {a b : Attempt} (ha : a.Completes) (hb : b.Completes) :
    Attempt.Completes (if p then a else b) := by
  split
  · exact ha
  · exact hb

namespace State

variable {s : State}

theorem completes_trap {t : Trap} : Result.Completes (s.trap t) := completes_next

/-! ### Registers and branches -/

theorem completes_compact {f : Word → Result} (h : ∀ w, Result.Completes (f w)) : Result.Completes (s.compact f) := by
  unfold State.compact
  split
  · exact h _
  · exact completes_trap

theorem completes_compactOp {d f} : Result.Completes (s.compactOp d f) := completes_compact fun _ => completes_next

theorem completes_opDiv {d a b f} : Result.Completes (s.opDiv d a b f) := completes_next

theorem completes_branch {i taken} : Result.Completes (s.branch i taken) := by
  unfold State.branch
  split <;> exact completes_next

theorem completes_branchC {o taken} : Result.Completes (s.branchC o taken) := by
  unfold State.branchC
  split <;> exact completes_next

theorem completes_ctlWrite {n f} : Result.Completes (s.ctlWrite n f) := by
  simp only [State.ctlWrite]
  repeat' split
  all_goals exact completes_next

/-! ### Memory -/

theorem completes_failScalar {addr len f} : Result.Completes (s.failScalar addr len f) := by
  unfold State.failScalar
  split <;> exact completes_next

theorem completes_loadOp {len d addr n signed} : Result.Completes (s.loadOp len d addr n signed) := by
  simp only [State.loadOp]
  split
  · exact completes_next
  split
  · exact completes_failScalar
  · repeat' split
    all_goals exact completes_next

theorem completes_storeOp {len addr n v} : Result.Completes (s.storeOp len addr n v) := by
  simp only [State.storeOp]
  split
  · exact completes_next
  split
  · exact completes_failScalar
  · repeat' split
    all_goals exact completes_next

theorem completes_atomicOp {d a n f acc o sc} : Result.Completes (s.atomicOp d a n f acc o sc) := by
  simp only [State.atomicOp]
  split
  · exact completes_next
  split
  · exact completes_trap
  split
  · exact completes_failScalar
  · repeat' split
    all_goals exact completes_next

/-! ### Grants, the vector queue and streams -/

theorem completes_grantForm {z nb d a h} : Result.Completes (s.grantForm z nb d a h) := by
  simp only [State.grantForm]
  repeat' split
  all_goals exact completes_next

theorem completes_issueV {len op x y} : Result.Completes (s.issueV len op x y) := by
  simp only [State.issueV]
  repeat' split
  all_goals exact completes_next

theorem completes_vstream {len form d a b q arrive} : Result.Completes (s.vstream len form d a b q arrive) := by
  simp only [State.vstream]
  repeat' split
  all_goals exact completes_next

/-! ### The command processor -/

theorem completes_cpStart {n ws args} : Result.Completes (s.cpStart n ws args) := by
  simp only [State.cpStart]
  repeat' split
  all_goals exact completes_next

/-- What a read or a translation of the command processor gives ends the event or goes on (`andThen`). -/
theorem completes_execCpServePacket {q} : Result.Completes (execCpServePacket q s) := by
  unfold execCpServePacket
  extract_lets n ctl a e at_ andThen
  have goesOn : ∀ r k, (∀ u bs, Result.Completes (k u bs)) → Result.Completes (andThen r k) := by
    rintro ⟨u, bs | _ | _ | _⟩ k h
    · exact h _ _
    all_goals exact completes_next
  clear_value andThen
  refine completes_ite completes_next ?_
  split
  · exact completes_next
  · exact completes_next
  · exact completes_cpStart
  refine goesOn _ _ fun _ _ => completes_ite completes_next (goesOn _ _ fun _ _ => ?_)
  refine completes_ite completes_next (completes_ite completes_next (completes_ite completes_next ?_))
  refine goesOn _ _ fun _ _ => goesOn _ _ fun _ _ => goesOn _ _ fun _ _ => ?_
  exact completes_ite completes_next completes_cpStart

/-! ### Writes of registers -/

theorem completes_writeAlloc {c o v} : Result.Completes (s.writeAlloc c o v) := by
  unfold State.writeAlloc
  extract_lets cn a
  repeat' apply completes_ite
  all_goals exact completes_next

theorem completes_writeDie {d o v} : Result.Completes (s.writeDie d o v) := by
  unfold State.writeDie
  extract_lets a
  repeat' apply completes_ite
  all_goals exact completes_next

theorem completes_writeSysCtl {o v} : Result.Completes (s.writeSysCtl o v) := by
  unfold State.writeSysCtl
  extract_lets a
  repeat' apply completes_ite
  all_goals exact completes_next

theorem completes_writeBar0 {f o v} : Result.Completes (s.writeBar0 f o v) := by
  unfold State.writeBar0
  extract_lets serves
  repeat' apply completes_ite
  all_goals exact completes_next

theorem completes_writeDoorbell {q o v} : Result.Completes (s.writeDoorbell q o v) := by
  unfold State.writeDoorbell
  repeat' apply completes_ite
  all_goals exact completes_next

theorem completes_writeBar2 {f o v} : Result.Completes (s.writeBar2 f o v) := by
  unfold State.writeBar2
  refine completes_ite completes_next (completes_ite completes_next ?_)
  split
  · exact completes_ite completes_writeDoorbell completes_next
  · exact completes_next

/-- The block of registers that the address lies in decides what the write does. -/
theorem completes_execRegisterWrite {pa v} : Result.Completes (execRegisterWrite pa v s) := by
  unfold execRegisterWrite
  refine completes_ite ?_ completes_next
  split
  · exact completes_writeAlloc
  · exact completes_writeDie
  · exact completes_writeSysCtl
  · exact completes_writeBar0
  · exact completes_writeBar2
  · exact completes_next
  · exact completes_writeDoorbell
  · exact completes_next
  · exact completes_next

end State
end Sys2Proof.Machine
end

section
/-! SUPPORT. Every instruction and event answers a next state, and so do the turn of a core and a step with power. -/

namespace Sys2Proof.Machine.State

open Sys2Proof

variable {s : State}

/-- An instruction or event either answers one next state, is an operation shared with others, or distinguishes cases each of which names
its next state. -/
theorem completes_exec {i} : Result.Completes (exec i s) := by
  unfold exec
  cases i with
  | cAddi | cAdd | cSub | cAnd | cOr | cXor | cShli | cShri | cSrai | cMv => exact completes_compactOp
  | cLdd | cLdw => exact completes_ite completes_loadOp completes_trap
  | cStd => exact completes_ite completes_storeOp completes_trap
  | cBeqz | cBnez => exact completes_compact fun _ => completes_branchC
  | cJalr => exact completes_compact fun _ => completes_next
  | div | divu | rem | remu => exact completes_opDiv
  | beq | bne | blt | bge | bltu | bgeu => exact completes_branch
  | ldb | ldbu | ldh | ldhu | ldw | ldwu | ldd | loadImm32 => exact completes_loadOp
  | stb | sth | stw | std | storeImm32 => exact completes_storeOp
  | amoAddD | amoAndD | amoOrD | amoXorD | amoMinD | amoMaxD | amoMinuD | amoMaxuD | amoSwapD | amoAddW | amoAndW | amoOrW | amoXorW
    | amoMinW | amoMaxW | amoMinuW | amoMaxuW | amoSwapW | casD | casW => exact completes_atomicOp
  | wrc | setc | clrc => exact completes_ctlWrite
  | vgrant | vgrantNb | vgrantZ => exact completes_grantForm
  | vld | vldScaled | vlds | vldx | vldxO | vldff | vloadOrd | vst | vstScaled | vsts | vstx | vstxO | vstN | vstoreOrd | vamoAdd
    | vamoAnd | vamoOr | vamoXor | vamoMin | vamoMax | vamoMinu | vamoMaxu | vamoSwap | vamoOrd | vaddVv | vsubVv | vmulVv | vmulhVv
    | vdivVv | vremVv | vminVv | vmaxVv | vandVv | vorVv | vxorVv | vshlVv | vshrVv | vsraVv | vfmaVv | vfmsVv | vfnmaVv | vabs | vneg
    | vwaddVv | vwmulVv | vnshrVv | vaddVx | vsubVx | vmulVx | vmulhVx | vdivVx | vremVx | vminVx | vmaxVx | vandVx | vorVx | vxorVx
    | vshlVx | vshrVx | vsraVx | vfmaVx | vfmsVx | vfnmaVx | vwaddVx | vwmulVx | vnshrVx | vaddVi | vsubVi | vminVi | vmaxVi | vandVi
    | vorVi | vxorVi | vshlVi | vshrVi | vsraVi | vnshrVi | vcmpEqVv | vcmpNeVv | vcmpLtVv | vcmpLeVv | vcmpEqVx | vcmpNeVx
    | vcmpLtVx | vcmpLeVx | vcmpEqVi | vcmpNeVi | vcmpLtVi | vcmpLeVi | mand | mor | mxor | mnot | mpop | mfirst | mset | vsel | vbcast
    | vget | vidx | vgather | vslideup | vslidedn | vcompress | vexpand | vswappr | vzip | vunzip | vredsumO | vredsumT | vredmax
    | vredmin | vredand | vredor | vcvt | vcvtSr | vrcp | vrsq | vsint | vcost | vexp2 | vlog2 | vclmul | vclmulh | vcbdec | cbload
    | vrnsf | vrnsr | vrnschk | fenceSv | fenceVv | barv | tzero | topa | tops | topr | tldrow | tstrow | tslv | tvsl | tcvt | tchk =>
      exact completes_issueV
  | vstreamLdv | vstreamStv | vstreamLds | vstreamSts | vstreamLdb | vstreamStb | vstreamLdvA | vstreamStvA | vstreamLdsA | vstreamStsA
    | vstreamLdbA | vstreamStbA => exact completes_vstream
  | cpServePacket => exact completes_execCpServePacket
  | registerWrite => exact completes_execRegisterWrite
  | casts | fcvtToInt | rdc | svc | eret | brk | ifence | send | recv | waitmsg | fenceSs | fenceVs | vtype | swait | squery
    | barinit | barw | mtenter | mtexit | tedge =>
    simp only [execCasts, execFcvtToInt, execRdc, execSvc, execEret, execBrk, execIfence, execSend, execRecv, execWaitmsg,
      execFenceSs, execFenceVs, execVtype, execSwait, execSquery, execBarinit, execBarw, execMtenter, execMtexit, execTedge]
    repeat' split
    all_goals exact completes_next
  | slotStepStart | slotStepCommit | queuedTrap | recheckSecondExecution | recheckCompare | recheckVote | recheckRollback
    | barvArrival | writeQueueSend | storeAcknowledgement | memoryReply | fetchFill | handlerFault | homeRequest
    | invalidationAck | walkComplete | sendDepart | mailboxArrival | messageAcknowledgement | bounceArrival | completionMessage
    | collectiveComplete | streamUnit | streamCopyDone | debugHalt | allocatorMark | deadlineExpiry | parkExpiry
    | saveComplete | grantComplete | restoreComplete | relocate | mtenterComplete | firmwareCallReturn | lamark
    | substitutionDone | diagnosticStore | dinjArm | csplitApply | rowIdleClose | ractArrival | tlbinvDone | migrationLineDone
    | mscspConversionDone | keyInstallDone =>
    simp only [execSlotStepStart, execSlotStepCommit, execQueuedTrap, execRecheckSecondExecution, execRecheckCompare,
      execRecheckVote, execRecheckRollback, execBarvArrival, execWriteQueueSend, execStoreAcknowledgement, execMemoryReply,
      execFetchFill, execHandlerFault, execHomeRequest, execInvalidationAck, execWalkComplete, execSendDepart,
      execMailboxArrival, execMessageAcknowledgement, execBounceArrival, execCompletionMessage, execCollectiveComplete,
      execStreamUnit, execStreamCopyDone, execDebugHalt, execAllocatorMark, execDeadlineExpiry, execParkExpiry,
      execSaveComplete, execGrantComplete, execRestoreComplete, execRelocate, execMtenterComplete, execFirmwareCallReturn,
      execLamark, execSubstitutionDone, execDiagnosticStore, execDinjArm, execCsplitApply, execRowIdleClose, execRactArrival,
      execTlbinvDone, execMigrationLineDone, execMscspConversionDone, execKeyInstallDone]
    repeat' split
    all_goals exact completes_next
  | qnotifyWrite | qstatRestart | packetClearAck | groupPlacement | triggerMarkCount | exitFinish | signalDecrement | msixSend
    | schcmdComplete | lullDrainStart | lullStart | lullEnd | lullOverrun | relockDone | brulosLinkUp | brulosFlitReceive
    | remoteRequest | hostBar4Read | hostBar4Write | hostCompletion | fwcmdGo | fwImageCheck | vfFlr | vfFlrIdle | pldmPlatform
    | pldmFirmwareUpdate =>
    simp only [execQnotifyWrite, execQstatRestart, execPacketClearAck, execGroupPlacement, execTriggerMarkCount,
      execExitFinish, execSignalDecrement, execMsixSend, execSchcmdComplete, execLullDrainStart, execLullStart, execLullEnd,
      execLullOverrun, execRelockDone, execBrulosLinkUp, execBrulosFlitReceive, execRemoteRequest, execHostBar4Read,
      execHostBar4Write, execHostCompletion, execFwcmdGo, execFwImageCheck, execVfFlr, execVfFlrIdle, execPldmPlatform,
      execPldmFirmwareUpdate]
    repeat' split
    all_goals exact completes_next
  | _ => exact completes_next

theorem completes_outcome {r : Result} (h : r.Completes) : (s.outcome r).Completes := by
  obtain ⟨t, rfl⟩ := h
  exact completes_iteAttempt trivial (completes_iteAttempt completes_next (completes_iteAttempt completes_next trivial))

theorem completes_trapTurn {after : State} : (s.trapTurn after).Completes := completes_iteAttempt trivial completes_next

/-- The attempt of a context that issues answers a next state, when running its words does. -/
theorem completes_attempt {run : Words → State → Option Result} (h : ∀ w u r, run w u = some r → r.Completes) :
    (s.attempt run).Completes := by
  unfold State.attempt
  split
  · exact completes_next
  refine completes_iteAttempt trivial ?_
  split
  · trivial
  · exact completes_trapTurn
  refine completes_iteAttempt trivial ?_
  split
  · exact completes_trapTurn
  · next ran => exact completes_outcome (h _ _ _ ran)

theorem completes_tryAll {run : Words → State → Option Result} (h : ∀ w u r, run w u = some r → r.Completes) {ts : List Tid} :
    Result.Completes (s.tryAll run ts) := by
  induction ts generalizing s with
  | nil => exact completes_next
  | cons t ts ih =>
    have tried : ((s.focus t).attempt run).Completes := completes_attempt h
    unfold State.tryAll
    split
    · next issues =>
      rw [issues] at tried
      exact tried
    · exact ih

theorem completes_execWords (w : Words) (u : State) (r : Result) (ran : execWords w u = some r) : r.Completes := by
  unfold execWords at ran
  split at ran
  · cases ran
  · cases ran
    exact completes_exec

theorem completes_step (power : s.sys.power = true) : Result.Completes (step s) := by
  unfold step
  split
  · rw [if_pos (by simp [power])]
    exact completes_exec
  rw [if_neg (by simp [power])]
  split
  · exact completes_exec
  split
  · exact completes_tryAll completes_execWords
  · exact completes_next

end Sys2Proof.Machine.State
end

section
/-! The statement that everything answers a next state (R56, R138, R142, R439). -/

namespace Sys2Proof.Machine

open Sys2Proof

/-- Settles O3: no case of an instruction or event names anything but a next state (`State.completes_exec`), and only a package without
power stops. -/
theorem everyStepAnswersANextState : Obligations.EveryStepAnswersANextState :=
  ⟨fun _ _ => State.completes_exec, fun _ power => State.completes_step power⟩

end Sys2Proof.Machine
end

section
/-! SUPPORT. The integer operations of the model in the terms of the instruction set's own tables (03 R75, R79 to R81). -/

namespace Sys2Proof.Machine

open Sys2Proof

/-! ### What the shared forms answer -/

/-- An operation on two registers (03 R75). -/
theorem writes_opR {i : Instr} {s : State} {d a b : Reg} (f : Word → Word → Word) {v : Word} (h : exec i s = s.opR d a b f)
    (hv : f (s.reg a) (s.reg b) = v) : Writes i s 4 d v :=
  hv ▸ writes_next h

/-- An operation on one register. -/
theorem writes_op1 {i : Instr} {s : State} {d a : Reg} (f : Word → Word) {v : Word} (h : exec i s = s.op1 d a f)
    (hv : f (s.reg a) = v) : Writes i s 4 d v :=
  hv ▸ writes_next h

/-- A conditional branch of a 32-bit form (03 R80). -/
theorem goes_branch32 {i : Instr} {s : State} {o : BitVec 14} {t : Bool} {c : Prop} [Decidable c] (hc : t = decide c)
    (h : exec i s = s.branch o t) : Goes i s (if c then (s.me.pc + 2 * o.signExtend 64) &&& ~~~1 else s.me.pc + 4) := by
  rw [← evenPc_offset]
  exact goes_branch hc h

/-! ### Comparisons and rotations -/

theorem boolWord_decide (c : Prop) [Decidable c] : boolWord (decide c) = if c then 1 else 0 := by
  by_cases h : c
  · simp only [h, decide_true, if_true]; rfl
  · simp only [h, decide_false, if_false]; rfl

theorem boolWord_slt (x y : Word) : boolWord (x.slt y) = if x.toInt < y.toInt then 1 else 0 := boolWord_decide _

theorem boolWord_ult (x y : Word) : boolWord (x.ult y) = if x.toNat < y.toNat then 1 else 0 := boolWord_decide _

theorem toInt_signExtend_word {n : Nat} (i : BitVec n) (h : n ≤ 64) : (i.signExtend 64).toInt = i.toInt :=
  BitVec.toInt_signExtend_of_le h

/-- A shift left by 64 less `n`, taken modulo 64, serves for a rotation by `n` below 64: for `n = 0` both parts are the word. -/
theorem rotateLeft_shifts (x : Word) {n : Nat} (h : n < 64) : x.rotateLeft n = x <<< n ||| x >>> ((64 - n) % 64) := by
  rw [BitVec.rotateLeft_def, Nat.mod_eq_of_lt h]
  rcases Nat.eq_zero_or_pos n with rfl | pos
  · simp [BitVec.ushiftRight_eq_zero (Nat.le_refl 64)]
  · rw [Nat.mod_eq_of_lt (show 64 - n < 64 by omega)]

theorem rotateRight_shifts (x : Word) {n : Nat} (h : n < 64) : x.rotateRight n = x >>> n ||| x <<< ((64 - n) % 64) := by
  rw [BitVec.rotateRight_def, Nat.mod_eq_of_lt h]
  rcases Nat.eq_zero_or_pos n with rfl | pos
  · simp
  · rw [Nat.mod_eq_of_lt (show 64 - n < 64 by omega)]

theorem shamt_lt (x : Word) : shamt x < 64 := Nat.mod_lt _ (by decide)

end Sys2Proof.Machine
end

section
/-! The statements about integer registers, immediates, branches and jumps. -/

namespace Sys2Proof.Machine

open Sys2Proof

/-- Settles O9: each is one operation on two registers (`writes_opR`); the comparisons and the rotations are restated by the rules above. -/
theorem registerOperationsWrite : Obligations.RegisterOperationsWrite := by
  intro s d a b k
  refine ⟨?_, ?_, ?_, ?_, ?_, ?_, ?_, ?_, ?_, ?_, ?_, ?_, ?_, ?_, ?_, ?_, ?_⟩
  · exact writes_opR (fun x y => x + y) rfl rfl
  · exact writes_opR (fun x y => x - y) rfl rfl
  · exact writes_opR (fun x y => x &&& y) rfl rfl
  · exact writes_opR (fun x y => x ||| y) rfl rfl
  · exact writes_opR (fun x y => x ^^^ y) rfl rfl
  · exact writes_opR (fun x y => x <<< shamt y) rfl rfl
  · exact writes_opR (fun x y => x >>> shamt y) rfl rfl
  · exact writes_opR (fun x y => x.sshiftRight (shamt y)) rfl rfl
  · exact writes_opR sminW rfl rfl
  · exact writes_opR smaxW rfl rfl
  · exact writes_opR uminW rfl rfl
  · exact writes_opR umaxW rfl rfl
  · exact writes_opR (fun x y => boolWord (x.slt y)) rfl (boolWord_slt ..)
  · exact writes_opR (fun x y => boolWord (x.ult y)) rfl (boolWord_ult ..)
  · exact writes_opR (fun x y => x.rotateLeft (shamt y)) rfl (rotateLeft_shifts _ (shamt_lt _))
  · exact writes_opR (fun x y => x.rotateRight (shamt y)) rfl (rotateRight_shifts _ (shamt_lt _))
  · exact writes_opR (fun x y => x + (y <<< k.toNat)) rfl rfl

/-- Settles O13: each is one operation on a register and its immediate, or writes the immediate alone. -/
theorem immediateOperationsWrite : Obligations.ImmediateOperationsWrite := by
  intro s d a i k u j
  refine ⟨?_, ?_, ?_, ?_, ?_, ?_, ?_, ?_, ?_, ?_, ?_, ?_, ?_, ?_, ?_, ?_, ?_⟩
  · exact writes_next rfl
  · exact writes_next rfl
  · exact writes_next rfl
  · exact writes_next rfl
  · exact writes_op1 (fun x => boolWord (x.slt (i.signExtend 64))) rfl
      (by rw [boolWord_slt, toInt_signExtend_word i (by decide)])
  · exact writes_next rfl
  · exact writes_next rfl
  · exact writes_next rfl
  · exact writes_next rfl
  · exact writes_next rfl
  · exact writes_next rfl
  · exact writes_next rfl
  · exact writes_next rfl
  · exact writes_next rfl
  · rw [← toInt_signExtend_word j (by decide), ← boolWord_slt]
    exact writes_next rfl
  · exact writes_next rfl
  · exact writes_next rfl

/-- Settles O15: each branch on what its comparison says of the two registers. -/
theorem branchesGo : Obligations.BranchesGo := by
  intro s a b i
  refine ⟨?_, ?_, ?_, ?_, ?_, ?_⟩
  · exact goes_branch32 rfl rfl
  · exact goes_branch32 decide_not.symm rfl
  · exact goes_branch32 rfl rfl
  · exact goes_branch32 (t := !(s.reg a).slt (s.reg b)) (by rw [BitVec.slt, ← decide_not, decide_eq_decide, Int.not_lt]) rfl
  · exact goes_branch32 rfl rfl
  · exact goes_branch32 (t := !(s.reg a).ult (s.reg b)) (by rw [BitVec.ult, ← decide_not, decide_eq_decide, Nat.not_lt]) rfl

/-- Settles O16: each links the address after it and jumps; c.jalr asks for the last destination first. -/
theorem jumpsLink : Obligations.JumpsLink := by
  intro s d a i u j
  refine ⟨?_, ?_, ?_, fun ldv => ?_⟩
  · rw [← evenPc_offset]
    exact links_next rfl
  · exact links_next rfl
  · exact links_next rfl
  · exact links_next (s.compact_ldv ldv fun l => s.link d 2 l)

end Sys2Proof.Machine
end

section
/-! SUPPORT. Products, quotients, counts and reversals of words, place by place (03 R76, R78). -/

namespace Sys2Proof.Machine

open Sys2Proof

/-! ### The carry-less product (03 R76) -/

/-- The part of the carry-less product that the places of `y` below `n` give. -/
def clmulBelow (x y : Word) (n : Nat) : BitVec 128 :=
  (List.range n).foldl (fun p i => if y.getLsbD i then p ^^^ (x.setWidth 128 <<< i) else p) 0

/-- The places `i` of `y` below `n` that put a one at place `k` of the product. -/
def clmulOnes (x y : Word) (n k : Nat) : Nat :=
  (List.range n).countP fun i => y.getLsbD i && decide (i ≤ k) && x.getLsbD (k - i)

theorem clmulBelow_succ (x y : Word) (n : Nat) :
    clmulBelow x y (n + 1) = if y.getLsbD n then clmulBelow x y n ^^^ (x.setWidth 128 <<< n) else clmulBelow x y n := by
  unfold clmulBelow
  rw [List.range_succ, List.foldl_append]
  rfl

theorem clmulOnes_succ (x y : Word) (n k : Nat) :
    clmulOnes x y (n + 1) k = clmulOnes x y n k + (y.getLsbD n && decide (n ≤ k) && x.getLsbD (k - n)).toNat := by
  unfold clmulOnes
  rw [List.range_succ, List.countP_append, List.countP_singleton]
  cases y.getLsbD n && decide (n ≤ k) && x.getLsbD (k - n) <;> rfl

/-- One more one at a place turns its parity. -/
theorem decide_odd_add (c : Nat) (b : Bool) : decide ((c + b.toNat) % 2 = 1) = (decide (c % 2 = 1) ^^ b) := by
  cases b with
  | false => simp
  | true =>
    rw [Bool.xor_true, ← decide_not, decide_eq_decide, Bool.toNat_true]
    omega

theorem getLsbD_clmulBelow (x y : Word) (n : Nat) {k : Nat} (h : k < 128) :
    (clmulBelow x y n).getLsbD k = decide (clmulOnes x y n k % 2 = 1) := by
  induction n with
  | zero => exact BitVec.getLsbD_zero
  | succ n ih =>
    rw [clmulBelow_succ, clmulOnes_succ, decide_odd_add, ← ih]
    cases y.getLsbD n with
    | false => simp
    | true =>
      have low : k - n < 128 := by omega
      have shifted : ((x.setWidth 128 <<< n).getLsbD k) = (decide (n ≤ k) && x.getLsbD (k - n)) := by
        rw [BitVec.getLsbD_shiftLeft, BitVec.getLsbD_setWidth, decide_eq_true h, decide_eq_true low, ← decide_not]
        simp only [Nat.not_lt, Bool.true_and]
      rw [if_pos rfl, BitVec.getLsbD_xor, shifted, Bool.true_and]

theorem clmul_low (x y : Word) {k : Nat} (h : k < 64) :
    ((clmul128 x y).setWidth 64).getLsbD k = decide (clmulOnes x y 64 k % 2 = 1) := by
  rw [BitVec.getLsbD_setWidth, decide_eq_true h, Bool.true_and]
  exact getLsbD_clmulBelow x y 64 (by omega)

theorem clmul_high (x y : Word) {k : Nat} (h : k < 64) :
    ((clmul128 x y >>> 64).setWidth 64).getLsbD k = decide (clmulOnes x y 64 (k + 64) % 2 = 1) := by
  rw [BitVec.getLsbD_setWidth, decide_eq_true h, Bool.true_and, BitVec.getLsbD_ushiftRight, Nat.add_comm]
  exact getLsbD_clmulBelow x y 64 (by omega)

/-! ### Quotients and remainders (03 R76) -/

theorem divW_nonzero (x : Word) {y : Word} (h : y ≠ 0) : divW x y = BitVec.ofInt 64 (x.toInt.tdiv y.toInt) := by
  rw [divW, if_neg h]
  apply BitVec.eq_of_toInt_eq
  rw [BitVec.toInt_sdiv, BitVec.toInt_ofInt]

theorem divuW_nonzero (x : Word) {y : Word} (h : y ≠ 0) : divuW x y = BitVec.ofNat 64 (x.toNat / y.toNat) := by
  rw [divuW, if_neg h]
  exact BitVec.udiv_def

theorem remW_nonzero (x : Word) {y : Word} (h : y ≠ 0) :
    remW x y = BitVec.ofInt 64 (x.toInt - y.toInt * x.toInt.tdiv y.toInt) := by
  rw [remW, if_neg h, ← Int.tmod_def, ← BitVec.toInt_srem, BitVec.ofInt_toInt]

theorem remuW_nonzero (x : Word) {y : Word} (h : y ≠ 0) : remuW x y = BitVec.ofNat 64 (x.toNat % y.toNat) := by
  rw [remuW, if_neg h]
  exact BitVec.umod_def

theorem writes_div {i : Instr} {s : State} {d a b : Reg} {f : Word → Word → Word} {v : Word} (h : exec i s = s.opDiv d a b f)
    (nonzero : s.reg b ≠ 0) (hv : f (s.reg a) (s.reg b) = v) : Writes i s 4 d v :=
  hv ▸ writes_next (h.trans (State.opDiv_nonzero s d a b f nonzero))

theorem writesFlags_div {i : Instr} {s : State} {d a b : Reg} {f : Word → Word → Word} {v : Word} (h : exec i s = s.opDiv d a b f)
    (zero : s.reg b = 0) (hv : f (s.reg a) 0 = v) : WritesFlags i s 4 d v 0 iflagDZ :=
  hv ▸ writesFlags_i (h.trans (State.opDiv_zero s d a b f zero))

/-! ### Counts (03 R78) -/

theorem bitLen_le {n w : Nat} (h : n < 2 ^ w) : bitLen n ≤ w := by
  unfold bitLen
  split
  · exact Nat.zero_le w
  · next pos => exact Nat.succ_le_of_lt ((Nat.log2_lt pos).2 h)

theorem testBit_bitLen_pred {n : Nat} (h : bitLen n ≠ 0) : n.testBit (bitLen n - 1) = true := by
  unfold bitLen at h ⊢
  split at h
  · exact absurd rfl h
  · next pos => rw [if_neg pos, Nat.add_sub_cancel, Nat.testBit_log2 pos]

theorem testBit_of_bitLen_le {n k : Nat} (h : bitLen n ≤ k) : n.testBit k = false := by
  unfold bitLen at h
  split at h
  · next zero => rw [zero, Nat.zero_testBit]
  · next pos => exact Nat.testBit_lt_two_pow ((Nat.log2_lt pos).1 (by omega))

/-- The count of leading zero bits ends at the highest set bit. -/
theorem clz_spec (x : Word) :
    64 - bitLen x.toNat ≤ 64 ∧ (64 - bitLen x.toNat < 64 → x.getLsbD (63 - (64 - bitLen x.toNat)) = true) ∧
      ∀ k, k < 64 - bitLen x.toNat → x.getLsbD (63 - k) = false := by
  have short : bitLen x.toNat ≤ 64 := bitLen_le x.isLt
  refine ⟨Nat.sub_le .., fun some_ => ?_, fun k above => ?_⟩
  · rw [show 63 - (64 - bitLen x.toNat) = bitLen x.toNat - 1 by omega]
    exact testBit_bitLen_pred (by omega)
  · exact testBit_of_bitLen_le (by omega)

/-- The count of trailing zero bits ends at the lowest set bit. -/
theorem ctz_spec (x : Word) : ∃ n, ctzW x = BitVec.ofNat 64 n ∧ n ≤ 64 ∧ (n < 64 → x.getLsbD n = true) ∧
    ∀ k, k < n → x.getLsbD k = false := by
  refine ⟨_, rfl, ?_⟩
  cases found : (List.range 64).find? fun i => x.getLsbD i with
  | none =>
    have clear := List.find?_range_eq_none.1 found
    exact ⟨Nat.le_refl 64, fun h => absurd h (Nat.lt_irrefl 64), fun k h => by simpa using clear k h⟩
  | some n =>
    obtain ⟨set_, inside, lower⟩ := List.find?_range_eq_some.1 found
    exact ⟨Nat.le_of_lt (List.mem_range.1 inside), fun _ => set_, fun k h => by simpa using lower k h⟩

/-! ### Reversals (03 R78) -/

theorem getLsbD_setBits (p : Nat → Bool) (n : Nat) {k : Nat} (h : k < 64) :
    ((List.range n).foldl (fun (r : Word) i => if p i then r ||| BitVec.ofNat 64 (2 ^ i) else r) 0).getLsbD k
      = (decide (k < n) && p k) := by
  induction n with
  | zero => exact BitVec.getLsbD_zero
  | succ n ih =>
    have step : ∀ r : Word, (if p n then r ||| BitVec.ofNat 64 (2 ^ n) else r).getLsbD k = (r.getLsbD k || (p n && decide (n = k))) := by
      intro r
      cases p n with
      | false => simp
      | true => rw [if_pos rfl, BitVec.getLsbD_or, BitVec.getLsbD_ofNat, Nat.testBit_two_pow, decide_eq_true h, Bool.true_and]
    rw [List.range_succ, List.foldl_append, List.foldl_cons, List.foldl_nil, step, ih]
    rcases Nat.lt_trichotomy k n with lt | rfl | gt
    · simp [lt, Nat.lt_succ_of_lt lt, Nat.ne_of_gt lt]
    · simp
    · simp [Nat.not_lt.2 (Nat.le_of_lt gt), Nat.not_lt.2 (Nat.succ_le_of_lt gt), Nat.ne_of_lt gt]

theorem getLsbD_brevW (x : Word) {k : Nat} (h : k < 64) : (brevW x).getLsbD k = x.getLsbD (63 - k) := by
  rw [brevW, getLsbD_setBits (fun i => x.getLsbD (63 - i)) 64 h, decide_eq_true h, Bool.true_and]

theorem leNat_byte {bs : List Byte} {k : Nat} (h : k < bs.length) : leNat bs / 256 ^ k % 256 = bs[k].toNat := by
  induction bs generalizing k with
  | nil => exact absurd h (Nat.not_lt_zero k)
  | cons b bs ih =>
    have small := b.isLt
    cases k with
    | zero =>
      simp only [leNat, List.getElem_cons_zero]
      omega
    | succ k =>
      have next_ : leNat (b :: bs) / 256 = leNat bs := by
        simp only [leNat]
        omega
      rw [Nat.pow_succ', ← Nat.div_div_eq_div_mul, next_, ih (by simpa using h), List.getElem_cons_succ]

theorem extractLsb'_bytes {bs : List Byte} {k : Nat} (h : k < bs.length) (short : bs.length ≤ 8) :
    (word (leNat bs)).extractLsb' (8 * k) 8 = bs[k] := by
  rw [word_field (by omega) rfl]
  apply BitVec.eq_of_toNat_eq
  rw [BitVec.toNat_ofNat, Nat.pow_mul, ← leNat_byte h]
  exact Nat.mod_mod ..

theorem extractLsb'_bswapW (x : Word) {k : Nat} (h : k < 8) :
    (bswapW x).extractLsb' (8 * k) 8 = x.extractLsb' (8 * (7 - k)) 8 := by
  rw [bswapW, extractLsb'_bytes (by simpa using h) (by simp), List.getElem_reverse, natLe_get]
  apply BitVec.eq_of_toNat_eq
  rw [BitVec.extractLsb'_toNat, BitVec.toNat_ofNat, Nat.shiftRight_eq_div_pow, Nat.pow_mul, natLe_length,
    show 8 - 1 - k = 7 - k by omega]

end Sys2Proof.Machine
end

section
/-! The statements about products, quotients and bits. -/

namespace Sys2Proof.Machine

open Sys2Proof

/-- Settles O10: the exact products are the model's own; the carry-less one is read place by place (`getLsbD_clmulBelow`). -/
theorem multiplicationsWrite : Obligations.MultiplicationsWrite := by
  intro s d a b bit
  refine ⟨?_, ?_, ?_, ?_, ?_⟩
  · exact writes_opR (fun x y => x * y) rfl rfl
  · exact writes_opR mulhW rfl rfl
  · exact writes_opR (fun x y => hi64 (x.toNat * y.toNat)) rfl rfl
  · exact ⟨_, writes_next rfl, fun k h => clmul_low _ _ h⟩
  · exact ⟨_, writes_next rfl, fun k h => clmul_high _ _ h⟩

/-- Settles O11: with a divisor the four results are those of exact integers; without one they are the model's first case. -/
theorem divisionsWrite : Obligations.DivisionsWrite := by
  intro s d a b
  refine ⟨fun nonzero => ⟨?_, ?_, ?_, ?_⟩, fun zero => ⟨?_, ?_, ?_, ?_⟩⟩
  · exact writes_div rfl nonzero (divW_nonzero _ nonzero)
  · exact writes_div rfl nonzero (divuW_nonzero _ nonzero)
  · exact writes_div rfl nonzero (remW_nonzero _ nonzero)
  · exact writes_div rfl nonzero (remuW_nonzero _ nonzero)
  · exact writesFlags_div rfl zero rfl
  · exact writesFlags_div rfl zero rfl
  · exact writesFlags_div rfl zero rfl
  · exact writesFlags_div rfl zero rfl

/-- Settles O12: each of the five writes one word, which the rules above describe. -/
theorem bitOperationsWrite : Obligations.BitOperationsWrite := by
  intro s d a
  refine ⟨⟨_, writes_next rfl, clz_spec _⟩, ?_, writes_next rfl, ⟨_, writes_next rfl, fun k h => getLsbD_brevW _ h⟩,
    ⟨_, writes_next rfl, fun k h => extractLsb'_bswapW _ h⟩⟩
  obtain ⟨n, count, spec⟩ := ctz_spec (s.reg a)
  exact ⟨n, writes_op1 ctzW rfl count, spec⟩

end Sys2Proof.Machine
end

section
/-! SUPPORT. Scalar loads, stores and atomics of the instruction set, as the accesses that they make (03 R83, R89). -/

namespace Sys2Proof.Machine

open Sys2Proof

/-! ### Loads from the strand's own window -/

section
variable {i : Instr} {s : State} {len : Nat} {d : Reg} {w : Word} {o n : Nat}

theorem writes_load {sg : Bool} (c : s.Calm) (at_ : w = privAddr o) (some_ : 0 < n) (inside : o + n ≤ 0x2000)
    (h : exec i s = s.loadOp len d w n sg) : Writes i s len d (extend n sg (s.mem.bytes (s.privKey o) n)) :=
  writes_next (h.trans (at_ ▸ loadOp_priv c len d sg inside some_))

theorem writes_loadSigned (c : s.Calm) (at_ : w = privAddr o) (some_ : 0 < n) (short : n ≤ 8) (inside : o + n ≤ 0x2000)
    (h : exec i s = s.loadOp len d w n true) : Writes i s len d ((BitVec.ofNat (8 * n) (s.privNum o n)).signExtend 64) :=
  extend_signed s.mem (s.privKey o) some_ short ▸ writes_load c at_ some_ inside h

theorem writes_loadUnsigned (c : s.Calm) (at_ : w = privAddr o) (some_ : 0 < n) (inside : o + n ≤ 0x2000)
    (h : exec i s = s.loadOp len d w n false) : Writes i s len d (word (s.privNum o n)) :=
  writes_load c at_ some_ inside h

/-! ### Stores to the strand's own window -/

theorem stores_store {v : Word} (c : s.Calm) (eager : s.eager = true) (at_ : w = privAddr o) (some_ : 0 < n) (inside : o + n ≤ 0x2000)
    (h : exec i s = s.storeOp len w n v) : Stores i s len (s.privKey o) n v :=
  stores_next c.memory (h.trans (at_ ▸ storeOp_priv c eager len v inside some_))

end

/-! ### What an atomic computes (03 R89) -/

/-- The number that an AMO or SWAP stores, of the old one and its operand. -/
def amoResult {w : Nat} (op : VAmoOp) (old x : BitVec w) : BitVec w :=
  match op with
  | .add => old + x
  | .and => old &&& x
  | .or => old ||| x
  | .xor => old ^^^ x
  | .min => if old.slt x then old else x
  | .max => if old.slt x then x else old
  | .minu => if old.ult x then old else x
  | .maxu => if old.ult x then x else old
  | .swap => x

theorem amoNew_result (op : VAmoOp) {n : Nat} (old x : BitVec (8 * n)) (v : Nat) (h : v % 2 ^ (8 * n) = x.toNat) :
    amoNew op n old.toNat v = (amoResult op old x).toNat := by
  rw [amoNew_eq op n rfl old x v h]
  cases op <;> rfl

theorem toNat_ofNat_bytes {n v : Nat} (h : v < 2 ^ (8 * n)) : (BitVec.ofNat (8 * n) v).toNat = v := by
  rw [BitVec.toNat_ofNat, Nat.mod_eq_of_lt h]

theorem toNat_setWidth_word {n : Nat} (hn : n = 4 ∨ n = 8) (x : BitVec (8 * n)) : (x.setWidth 64).toNat = x.toNat := by
  have wide : 8 * n ≤ 64 := by omega
  rw [BitVec.toNat_setWidth, Nat.mod_eq_of_lt (Nat.lt_of_lt_of_le x.isLt (Nat.pow_le_pow_right (by decide) wide))]

/-- Only the low bytes of a number are written. -/
theorem natLe_mod (v n : Nat) : natLe (v % 2 ^ (8 * n)) n = natLe v n := by
  induction n generalizing v with
  | zero => rfl
  | succ n ih =>
    have split_ : 2 ^ (8 * (n + 1)) = 256 * 2 ^ (8 * n) := by rw [Nat.mul_succ, Nat.pow_add, Nat.mul_comm]
    have first : BitVec.ofNat 8 (v % (256 * 2 ^ (8 * n))) = BitVec.ofNat 8 v :=
      BitVec.eq_of_toNat_eq (by simp only [BitVec.toNat_ofNat]; exact Nat.mod_mul_right_mod ..)
    rw [natLe, natLe, split_, Nat.mod_mul_right_div_self, ih, first]

/-- Four bytes are sign-extended, and eight extended to themselves. -/
theorem extend_width {n : Nat} (hn : n = 4 ∨ n = 8) (bs : List Byte) : extend n (decide (n = 4)) bs = extend n true bs := by
  rcases hn with rfl | rfl
  · rfl
  · exact extend_full bs

/-! ### Atomics at the strand's own window -/

section
variable {i : Instr} {s : State} {d a b : Reg} {od : Order} {sc : Scope} {o n : Nat}

theorem State.privNum_lt (s : State) (o n : Nat) : s.privNum o n < 2 ^ (8 * n) := leNat_bytes_lt ..

theorem extend_privBytes (s : State) (o : Nat) (hn : n = 4 ∨ n = 8) :
    extend n (decide (n = 4)) (s.mem.bytes (s.privKey o) n) = (BitVec.ofNat (8 * n) (s.privNum o n)).signExtend 64 := by
  rw [extend_width hn]
  exact extend_signed s.mem (s.privKey o) (by omega) (by omega)

theorem exchanges_amoResult (c : s.Calm) (at_ : s.reg a = privAddr o) (hn : n = 4 ∨ n = 8) (inside : o + n ≤ 0x2000)
    (aligned : o % n = 0) {op : VAmoOp} (h : exec i s = s.amoOp d a b n op od sc) (x : BitVec (8 * n))
    (hx : (s.reg b).toNat % 2 ^ (8 * n) = x.toNat) :
    Exchanges i s od sc d (s.privKey o) n ((BitVec.ofNat (8 * n) (s.privNum o n)).signExtend 64)
      ((amoResult op (BitVec.ofNat (8 * n) (s.privNum o n)) x).setWidth 64) := by
  refine exchanges_amo c d a b op od sc at_ hn inside aligned _ _ h (extend_privBytes s o hn) ?_
  rw [toNat_setWidth_word hn, ← amoNew_result op _ x _ hx, toNat_ofNat_bytes (s.privNum_lt o n)]

theorem exchanges_amo64 (c : s.Calm) (at_ : s.reg a = privAddr o) (inside : o + 8 ≤ 0x2000) (aligned : o % 8 = 0) {op : VAmoOp}
    (h : exec i s = s.amoOp d a b 8 op od sc) :
    Exchanges i s od sc d (s.privKey o) 8 (BitVec.ofNat 64 (s.privNum o 8)) (amoResult op (BitVec.ofNat 64 (s.privNum o 8)) (s.reg b)) := by
  have z := exchanges_amoResult c at_ (.inr rfl) inside aligned h (s.reg b) (Nat.mod_eq_of_lt (s.reg b).isLt)
  rwa [BitVec.signExtend_eq, BitVec.setWidth_eq] at z

theorem exchanges_amo32 (c : s.Calm) (at_ : s.reg a = privAddr o) (inside : o + 4 ≤ 0x2000) (aligned : o % 4 = 0) {op : VAmoOp}
    (h : exec i s = s.amoOp d a b 4 op od sc) :
    Exchanges i s od sc d (s.privKey o) 4 ((BitVec.ofNat 32 (s.privNum o 4)).signExtend 64)
      ((amoResult op (BitVec.ofNat 32 (s.privNum o 4)) ((s.reg b).setWidth 32)).setWidth 64) :=
  exchanges_amoResult c at_ (.inl rfl) inside aligned h ((s.reg b).setWidth 32) (BitVec.toNat_setWidth ..).symm

/-- The comparand of a CAS matches the number read. -/
theorem cas_matches (s : State) (d : Reg) (o n : Nat) :
    s.privNum o n = (s.reg d).toNat % 2 ^ (8 * n) ↔ BitVec.ofNat (8 * n) (s.privNum o n) = (s.reg d).setWidth (8 * n) := by
  rw [BitVec.toNat_eq, toNat_ofNat_bytes (s.privNum_lt o n), BitVec.toNat_setWidth]

theorem exchanges_casMatch (c : s.Calm) (at_ : s.reg a = privAddr o) (hn : n = 4 ∨ n = 8) (inside : o + n ≤ 0x2000)
    (aligned : o % n = 0) (h : exec i s = s.casOp d a b n od sc)
    (same : BitVec.ofNat (8 * n) (s.privNum o n) = (s.reg d).setWidth (8 * n)) :
    Exchanges i s od sc d (s.privKey o) n ((BitVec.ofNat (8 * n) (s.privNum o n)).signExtend 64) (s.reg b) :=
  exchanges_cas c d a b od sc at_ hn inside aligned _ h (extend_privBytes s o hn) ((cas_matches s d o n).2 same)

theorem readsOnly_casMiss (c : s.Calm) (at_ : s.reg a = privAddr o) (hn : n = 4 ∨ n = 8) (inside : o + n ≤ 0x2000)
    (aligned : o % n = 0) (h : exec i s = s.casOp d a b n od sc)
    (other : BitVec.ofNat (8 * n) (s.privNum o n) ≠ (s.reg d).setWidth (8 * n)) :
    ReadsOnly i s od sc d ((BitVec.ofNat (8 * n) (s.privNum o n)).signExtend 64) :=
  readsOnly_cas c d a b od sc at_ hn inside aligned _ h (extend_privBytes s o hn) (mt (cas_matches s d o n).1 other)

/-- A CAS of four bytes stores the low half of its register. -/
theorem StoredBytes.low {m : Memory} {p : Nat} {v : Word} (h : StoredBytes s m p n v) :
    StoredBytes s m p n ((v.setWidth (8 * n)).setWidth 64) := by
  refine ⟨h.1, fun k => (h.2 k).trans ?_⟩
  split
  · next inside =>
    apply BitVec.eq_of_getLsbD_eq
    intro j hj
    have low : 8 * (k - p) + j < 8 * n := by omega
    have wide : 8 * (k - p) + j < 64 ∨ 64 ≤ 8 * (k - p) + j := Nat.lt_or_ge ..
    rcases wide with wide | wide
    · simp [BitVec.getLsbD_extractLsb', low, wide]
    · simp [BitVec.getLsbD_extractLsb', BitVec.getLsbD_of_ge _ _ wide]
  · rfl

theorem Exchanges.low {p : Nat} {old v : Word} (h : Exchanges i s od sc d p n old v) :
    Exchanges i s od sc d p n old ((v.setWidth (8 * n)).setWidth 64) := by
  obtain ⟨t, runs, stored, wrote⟩ := h
  exact ⟨t, runs, stored.low, wrote⟩

/-! ### Atomics elsewhere -/

theorem pend_value_extend (hn : n = 4 ∨ n = 8) {acc : Access} (h : ∀ sg, acc ≠ .load n sg) (hz : acc.size = n) (p : Pend)
    (hp : p.acc = acc) : p.value = extend n true p.got := by
  subst hp
  rw [← extend_width hn]
  unfold Pend.value
  cases e : p.acc with
  | load m sg =>
    rw [e] at hz h
    exact absurd (hz ▸ rfl) (h sg)
  | amo m op x =>
    rw [e] at hz
    subst hz
    rfl
  | cas m x y =>
    rw [e] at hz
    subst hz
    rfl

theorem exchangesAt_amo (c : s.Open) (hn : n = 4 ∨ n = 8) (aligned : (s.reg a).toNat % n = 0) {op : VAmoOp}
    (h : exec i s = s.amoOp d a b n op od sc) (x : BitVec (8 * n)) (hx : (s.reg b).toNat % 2 ^ (8 * n) = x.toNat) :
    ExchangesAt i s (.amo op (s.reg b)) od sc d (s.reg a) n fun old => some (amoResult op old x) := by
  refine exchangesAt_open c hn rfl aligned h _ (fun bs small => ?_) (pend_value_extend hn (fun _ => Access.noConfusion) rfl)
  show some (natLe (amoNew op n (leNat bs) (s.reg b).toNat) n) = _
  rw [Option.map_some, ← amoNew_result op _ x _ hx, toNat_ofNat_bytes small]

theorem exchangesAt_cas (c : s.Open) (hn : n = 4 ∨ n = 8) (aligned : (s.reg a).toNat % n = 0)
    (h : exec i s = s.casOp d a b n od sc) :
    ExchangesAt i s .cas od sc d (s.reg a) n fun old =>
      if old = (s.reg d).setWidth (8 * n) then some ((s.reg b).setWidth (8 * n)) else none := by
  refine exchangesAt_open c hn rfl aligned h _ (fun bs small => ?_) (pend_value_extend hn (fun _ => Access.noConfusion) rfl)
  show (if leNat bs = (s.reg d).toNat % 2 ^ (8 * n) then some (natLe (s.reg b).toNat n) else none) = _
  have low : natLe ((s.reg b).setWidth (8 * n)).toNat n = natLe (s.reg b).toNat n := by
    rw [BitVec.toNat_setWidth, natLe_mod]
  have same : BitVec.ofNat (8 * n) (leNat bs) = (s.reg d).setWidth (8 * n) ↔ leNat bs = (s.reg d).toNat % 2 ^ (8 * n) := by
    rw [BitVec.toNat_eq, toNat_ofNat_bytes small, BitVec.toNat_setWidth]
  by_cases e : leNat bs = (s.reg d).toNat % 2 ^ (8 * n)
  · rw [if_pos e, if_pos (same.2 e), Option.map_some, low]
  · rw [if_neg e, if_neg (mt same.1 e), Option.map_none]

end

end Sys2Proof.Machine
end

section
/-! The statements about scalar loads, stores and atomics. -/

namespace Sys2Proof.Machine

open Sys2Proof

/-- Settles O17: every form is one load (`State.loadOp`), which the strand's own window and any other place serve as the lemmas above and
`loadsFrom_open` say; the compact forms ask for the last destination first. -/
theorem privateLoadsRead : Obligations.PrivateLoadsRead := by
  refine ⟨?_, ?_⟩
  · intro s d a e i j k o calm ea ej
    refine ⟨fun inside => ⟨?_, ?_, ?_, ?_⟩, fun inside => ⟨?_, ?_, ?_, ?_⟩, fun inside => ⟨?_, ?_, ?_, ?_, fun ldv ek => ?_⟩,
      fun inside => ⟨?_, ?_, fun ldv ek => ?_⟩⟩
    · exact writes_loadSigned calm ea (by decide) (by decide) inside rfl
    · exact writes_loadUnsigned calm ea (by decide) inside rfl
    · exact writes_loadSigned calm ej (by decide) (by decide) inside rfl
    · exact writes_loadUnsigned calm ej (by decide) inside rfl
    · exact writes_loadSigned calm ea (by decide) (by decide) inside rfl
    · exact writes_loadUnsigned calm ea (by decide) inside rfl
    · exact writes_loadSigned calm ej (by decide) (by decide) inside rfl
    · exact writes_loadUnsigned calm ej (by decide) inside rfl
    · exact writes_loadSigned calm ea (by decide) (by decide) inside rfl
    · exact writes_loadUnsigned calm ea (by decide) inside rfl
    · exact writes_loadSigned calm ej (by decide) (by decide) inside rfl
    · exact writes_loadUnsigned calm ej (by decide) inside rfl
    · exact writes_loadSigned calm ek (by decide) (by decide) inside (if_pos ldv)
    · exact writes_loadUnsigned calm ea (by decide) inside rfl
    · exact writes_loadUnsigned calm ej (by decide) inside rfl
    · exact writes_loadUnsigned calm ek (by decide) inside (if_pos ldv)
  · intro s d a i j k open_
    refine ⟨?_, ?_, ?_, ?_, ?_, ?_, ?_, ?_, ?_, ?_, ?_, ?_, ?_, ?_, fun ldv => ?_, fun ldv => ?_⟩
    rotate_right 2
    · exact loadsFrom_open open_ (if_pos ldv)
    · exact loadsFrom_open open_ (if_pos ldv)
    all_goals exact loadsFrom_open open_ rfl

/-- Settles O18: every form is one store (`State.storeOp`), which performs at once in a state that completes issued work so. -/
theorem privateStoresWrite : Obligations.PrivateStoresWrite := by
  refine ⟨?_, ?_⟩
  · intro s d a e i j k o calm eager ea ej
    refine ⟨fun inside => ⟨?_, ?_⟩, fun inside => ⟨?_, ?_⟩, fun inside => ⟨?_, ?_⟩, fun inside => ⟨?_, ?_, fun ldv ek => ?_⟩⟩
    · exact stores_store calm eager ea (by decide) inside rfl
    · exact stores_store calm eager ej (by decide) inside rfl
    · exact stores_store calm eager ea (by decide) inside rfl
    · exact stores_store calm eager ej (by decide) inside rfl
    · exact stores_store calm eager ea (by decide) inside rfl
    · exact stores_store calm eager ej (by decide) inside rfl
    · exact stores_store calm eager ea (by decide) inside rfl
    · exact stores_store calm eager ej (by decide) inside rfl
    · exact stores_store calm eager ek (by decide) inside (if_pos ldv)
  · intro s d a i j k open_
    refine ⟨?_, ?_, ?_, ?_, ?_, ?_, ?_, ?_, fun ldv => ?_⟩
    rotate_right 1
    · exact storesTo_open open_ (if_pos ldv)
    all_goals exact storesTo_open open_ rfl

/-- Settles O22: where issued work waits, each of the four stores enters the empty write queue (`storeOp_queue`). -/
theorem storesEnterTheWriteQueue : Obligations.StoresEnterTheWriteQueue := by
  intro s d a i o calm waits at_ queued
  have enters : ∀ {f : Instr} {n : Nat}, 0 < n → o + n ≤ 0x2000 → exec f s = s.storeOp 4 (s.reg a + i.signExtend 64) n (s.reg d) →
      ∃ t, exec f s = .next t ∧ queued n t := by
    intro f n some_ inside h
    rw [at_] at h
    exact ⟨_, h.trans (storeOp_queue calm waits 4 (s.reg d) inside some_), rfl, rfl, rfl, rfl, rfl, rfl⟩
  exact ⟨fun inside => enters (by decide) inside rfl, fun inside => enters (by decide) inside rfl,
    fun inside => enters (by decide) inside rfl, fun inside => enters (by decide) inside rfl⟩

/-- Settles O19: each of the nine is an AMO or a CAS of eight bytes, with the result of `amoResult` for its operation. -/
theorem privateAtomicsExchange64 : Obligations.PrivateAtomicsExchange64 := by
  refine ⟨?_, ?_⟩
  · intro s d a b od sc o calm at_ inside aligned old x
    refine ⟨?_, ?_, ?_, ?_, ?_, ?_, ?_, ?_, ?_, fun same => ?_, fun other => ?_⟩
    · exact exchanges_amo64 (op := .add) calm at_ inside aligned rfl
    · exact exchanges_amo64 (op := .and) calm at_ inside aligned rfl
    · exact exchanges_amo64 (op := .or) calm at_ inside aligned rfl
    · exact exchanges_amo64 (op := .xor) calm at_ inside aligned rfl
    · exact exchanges_amo64 (op := .min) calm at_ inside aligned rfl
    · exact exchanges_amo64 (op := .max) calm at_ inside aligned rfl
    · exact exchanges_amo64 (op := .minu) calm at_ inside aligned rfl
    · exact exchanges_amo64 (op := .maxu) calm at_ inside aligned rfl
    · exact exchanges_amo64 (op := .swap) calm at_ inside aligned rfl
    · have z := exchanges_casMatch (b := b) calm at_ (.inr rfl) inside aligned (i := .casD d a b od sc) rfl
        (same.trans (BitVec.setWidth_eq _).symm)
      rwa [BitVec.signExtend_eq] at z
    · have z := readsOnly_casMiss (b := b) calm at_ (.inr rfl) inside aligned (i := .casD d a b od sc) rfl
        fun same => other (same.trans (BitVec.setWidth_eq _))
      rwa [BitVec.signExtend_eq] at z
  · intro s d a b od sc open_ aligned x
    have operand : (s.reg b).toNat % 2 ^ (8 * 8) = (s.reg b).toNat := Nat.mod_eq_of_lt (s.reg b).isLt
    refine ⟨?_, ?_, ?_, ?_, ?_, ?_, ?_, ?_, ?_, ?_⟩
    · exact exchangesAt_amo (op := .add) open_ (.inr rfl) aligned rfl (s.reg b) operand
    · exact exchangesAt_amo (op := .and) open_ (.inr rfl) aligned rfl (s.reg b) operand
    · exact exchangesAt_amo (op := .or) open_ (.inr rfl) aligned rfl (s.reg b) operand
    · exact exchangesAt_amo (op := .xor) open_ (.inr rfl) aligned rfl (s.reg b) operand
    · exact exchangesAt_amo (op := .min) open_ (.inr rfl) aligned rfl (s.reg b) operand
    · exact exchangesAt_amo (op := .max) open_ (.inr rfl) aligned rfl (s.reg b) operand
    · exact exchangesAt_amo (op := .minu) open_ (.inr rfl) aligned rfl (s.reg b) operand
    · exact exchangesAt_amo (op := .maxu) open_ (.inr rfl) aligned rfl (s.reg b) operand
    · exact exchangesAt_amo (op := .swap) open_ (.inr rfl) aligned rfl (s.reg b) operand
    · have z := exchangesAt_cas (d := d) (b := b) open_ (.inr rfl) aligned (i := .casD d a b od sc) rfl
      rwa [BitVec.setWidth_eq, BitVec.setWidth_eq] at z

/-- Settles O20: as O19, with four bytes, whose number is sign-extended. -/
theorem privateAtomicsExchange32 : Obligations.PrivateAtomicsExchange32 := by
  refine ⟨?_, ?_⟩
  · intro s d a b od sc o calm at_ inside aligned old x
    refine ⟨?_, ?_, ?_, ?_, ?_, ?_, ?_, ?_, ?_, fun same => ?_, fun other => ?_⟩
    · exact exchanges_amo32 (op := .add) calm at_ inside aligned rfl
    · exact exchanges_amo32 (op := .and) calm at_ inside aligned rfl
    · exact exchanges_amo32 (op := .or) calm at_ inside aligned rfl
    · exact exchanges_amo32 (op := .xor) calm at_ inside aligned rfl
    · exact exchanges_amo32 (op := .min) calm at_ inside aligned rfl
    · exact exchanges_amo32 (op := .max) calm at_ inside aligned rfl
    · exact exchanges_amo32 (op := .minu) calm at_ inside aligned rfl
    · exact exchanges_amo32 (op := .maxu) calm at_ inside aligned rfl
    · exact exchanges_amo32 (op := .swap) calm at_ inside aligned rfl
    · exact (exchanges_casMatch calm at_ (.inl rfl) inside aligned rfl same).low
    · exact readsOnly_casMiss calm at_ (.inl rfl) inside aligned rfl other
  · intro s d a b od sc open_ aligned x
    have operand : (s.reg b).toNat % 2 ^ (8 * 4) = x.toNat := (BitVec.toNat_setWidth ..).symm
    refine ⟨?_, ?_, ?_, ?_, ?_, ?_, ?_, ?_, ?_, ?_⟩
    · exact exchangesAt_amo (op := .add) open_ (.inl rfl) aligned rfl x operand
    · exact exchangesAt_amo (op := .and) open_ (.inl rfl) aligned rfl x operand
    · exact exchangesAt_amo (op := .or) open_ (.inl rfl) aligned rfl x operand
    · exact exchangesAt_amo (op := .xor) open_ (.inl rfl) aligned rfl x operand
    · exact exchangesAt_amo (op := .min) open_ (.inl rfl) aligned rfl x operand
    · exact exchangesAt_amo (op := .max) open_ (.inl rfl) aligned rfl x operand
    · exact exchangesAt_amo (op := .minu) open_ (.inl rfl) aligned rfl x operand
    · exact exchangesAt_amo (op := .maxu) open_ (.inl rfl) aligned rfl x operand
    · exact exchangesAt_amo (op := .swap) open_ (.inl rfl) aligned rfl x operand
    · exact exchangesAt_cas open_ (.inl rfl) aligned rfl

end Sys2Proof.Machine
end

section
/-! SUPPORT. Scalar floating point: what the forms answer, and the operations on special values, signs, orders and classes
(03 R96 to R101). -/

namespace Sys2Proof.Machine

open Sys2Proof

/-! ### What the forms answer -/

theorem writesFlags_result {i : Instr} {s : State} {d : Reg} {r v : FRes} (h : exec i s = s.writeF d r) (hv : v = r) :
    WritesFlags i s 4 d (word v.1) v.2 0 :=
  hv ▸ writesFlags_writeF h

/-- A floating result without a flag. -/
theorem writes_result {i : Instr} {s : State} {d : Reg} {r : FRes} (h : exec i s = s.writeF d r) (quiet : r.2 = 0) :
    Writes i s 4 d (word r.1) := by
  apply writes_next
  rw [h, State.writeF, quiet, State.raiseF_zero]

/-! ### NaNs and infinities (03 R97) -/

/-- No scalar format saturates. -/
theorem FF.inf_scalar (t : FFmt) (n : Bool) : (FF.ofFFmt t).inf n = ((FF.ofFFmt t).signed n (FF.ofFFmt t).infBits, 0) := by
  cases t <;> rfl

section
variable (f : FF) (mode : RMode)

theorem FF.add_nan {a b : FVal} (h : a.isNan = true ∨ b.isNan = true) : f.add mode a b = f.nan (a.isSig || b.isSig) :=
  if_pos (by simpa using h)

theorem FF.div_nan {a b : FVal} (h : a.isNan = true ∨ b.isNan = true) : f.div mode a b = f.nan (a.isSig || b.isSig) :=
  if_pos (by simpa using h)

/-- A NaN is no operand of 0 × ∞. -/
theorem FVal.mul_nan {a b : FVal} (h : a.isNan = true ∨ b.isNan = true) : (a.mul b).2 = false := by
  cases a <;> cases b <;> simp_all [FVal.mul, FVal.isNan]

theorem FF.mul_nan {a b : FVal} (h : a.isNan = true ∨ b.isNan = true) : f.mul mode a b = f.nan (a.isSig || b.isSig) := by
  unfold FF.mul
  simp only [FVal.mul_nan h, Bool.false_eq_true, if_false]
  exact if_pos (by simpa using h)

theorem FF.mul_invalid {a b : FVal} (h : (a.mul b).2 = true) : f.mul mode a b = f.nan true := if_pos h

theorem FF.fma_invalid {a b : FVal} (neg : Bool) (d : FVal) (h : (a.mul b).2 = true) : f.fma mode neg a b d = f.nan true := if_pos h

theorem FF.fma_nan {a b d : FVal} (neg : Bool) (valid : (a.mul b).2 = false)
    (h : a.isNan = true ∨ b.isNan = true ∨ d.isNan = true) : f.fma mode neg a b d = f.nan (a.isSig || b.isSig || d.isSig) := by
  unfold FF.fma
  simp only [valid, Bool.false_eq_true, if_false]
  exact if_pos (by simpa [or_assoc] using h)

theorem FF.fma_signalling (neg : Bool) (a b : FVal) : f.fma mode neg a b (.nan true) = f.nan true := by
  cases product : (a.mul b).2 with
  | true => exact f.fma_invalid mode neg _ product
  | false => exact (f.fma_nan mode neg product (.inr (.inr rfl))).trans (congrArg f.nan (Bool.or_true _))

/-- The sum of an infinite product and an infinity of the other sign. -/
theorem FF.fma_infinities {a b : FVal} {p : Bool} (neg : Bool) (product : a.mul b = (.inf p, false)) (ha : a.isNan = false)
    (hb : b.isNan = false) : f.fma mode neg a b (.inf !(neg ^^ p)) = f.nan true := by
  unfold FF.fma
  simp only [product, ha, hb]
  cases neg <;> cases p <;> rfl

end

theorem FVal.isSig_quiet {x : FVal} (h : x ≠ .nan true) : x.isSig = false := by
  cases x with
  | nan s => cases s <;> simp_all [FVal.isSig]
  | inf n => rfl
  | fin n m e => rfl

/-- A product that is neither 0 × ∞ nor ∞ × 0 is valid. -/
theorem FVal.mul_valid {x y : FVal} (h : ∀ p q g, ¬(x = .fin p 0 g ∧ y = .inf q) ∧ ¬(x = .inf q ∧ y = .fin p 0 g)) :
    (x.mul y).2 = false := by
  cases x <;> cases y <;> simp only [FVal.mul]
  case inf.fin n k q g =>
    have nonzero : q ≠ 0 := fun zero => (h k n g).2 ⟨rfl, by rw [zero]⟩
    rw [if_neg nonzero]
  case fin.inf n m e k =>
    have nonzero : m ≠ 0 := fun zero => (h n k e).1 ⟨by rw [zero], rfl⟩
    rw [if_neg nonzero]

/-! ### Exact zero sums (03 R97) -/

theorem signedMant_zero (n : Bool) : signedMant n 0 = 0 := by cases n <;> rfl

theorem signedMant_not (n : Bool) (m : Nat) : signedMant n m + signedMant (!n) m = 0 := by
  cases n
  · exact Int.add_right_neg _
  · exact Int.add_left_neg _

theorem dyAdd_same (a b e : Int) : (dyAdd a e b e).1 = a + b := by
  simp only [dyAdd, Int.min_self, Int.sub_self, Int.toNat_zero, Int.pow_zero, Int.mul_one]

/-- A sum of opposite signs that cancels is +0, or -0 when rounding down. -/
theorem FF.add_cancels (f : FF) (mode : RMode) {n : Bool} {m q : Nat} {e g : Int}
    (h : (dyAdd (signedMant n m) e (signedMant (!n) q) g).1 = 0) :
    f.add mode (.fin n m e) (.fin (!n) q g) = (f.signed (decide (mode = .rdn)) 0, 0) := by
  have unlike : ¬(m = 0 ∧ q = 0 ∧ n = !n) := fun ⟨_, _, same⟩ => by cases n <;> cases same
  have sum : f.add mode (.fin n m e) (.fin (!n) q g) = f.sum mode (.fin n m e) (.fin (!n) q g) := if_neg Bool.false_ne_true
  rw [sum]
  unfold FF.sum
  simp only [h, if_true, if_neg unlike]
  rfl

/-! ### Signs (03 R99) -/

theorem FF.signBit_pow (f : FF) : f.signBit = 2 ^ (f.width - 1) := rfl

/-- A magnitude with a sign: the bits below the sign's place, then the sign. -/
theorem getLsbD_withSign (t : FFmt) (w : Word) (sign : Bool) {k : Nat} (h : k < 64) :
    (word ((FF.ofFFmt t).withSign w.toNat sign)).getLsbD k =
      if k < (FF.ofFFmt t).width - 1 then w.getLsbD k else decide (k = (FF.ofFFmt t).width - 1) && sign := by
  unfold FF.withSign FF.signed
  rw [FF.signBit_pow, BitVec.getLsbD_ofNat, decide_eq_true h, Bool.true_and]
  generalize (FF.ofFFmt t).width - 1 = p
  have low : w.toNat % 2 ^ p < 2 ^ p := Nat.mod_lt _ (Nat.two_pow_pos p)
  have below : (w.toNat % 2 ^ p).testBit k = (decide (k < p) && w.getLsbD k) := Nat.testBit_mod_two_pow ..
  cases sign with
  | false =>
    rw [if_neg Bool.false_ne_true, below, Bool.and_false]
    by_cases lt : k < p <;> simp [lt]
  | true =>
    rw [if_pos rfl, Bool.and_true]
    rcases Nat.lt_trichotomy k p with lt | rfl | gt
    · rw [Nat.testBit_two_pow_add_gt lt, below, if_pos lt, decide_eq_true lt, Bool.true_and]
    · simp [Nat.testBit_two_pow_add_eq, Nat.testBit_lt_two_pow low]
    · have top : 2 ^ p + w.toNat % 2 ^ p < 2 ^ k :=
        Nat.lt_of_lt_of_le (Nat.add_lt_add_left low _) (by rw [← Nat.two_mul, ← Nat.pow_succ']; exact Nat.pow_le_pow_right (by decide) gt)
      rw [Nat.testBit_lt_two_pow top, if_neg (Nat.lt_asymm gt), decide_eq_false (Nat.ne_of_gt gt)]

/-! ### Orders (03 R98, R100) -/

theorem FVal.cmp_swap (x y : FVal) : y.cmp x = (x.cmp y).swap := by
  cases x with
  | nan _ =>
    cases y with
    | nan _ => rfl
    | inf k => cases k <;> rfl
    | fin _ _ _ => rfl
  | inf n =>
    cases y with
    | nan _ => cases n <;> rfl
    | inf k => cases n <;> cases k <;> rfl
    | fin _ _ _ => cases n <;> rfl
  | fin n m e =>
    cases y with
    | nan _ => rfl
    | inf k => cases k <;> rfl
    | fin k q g =>
      simp only [FVal.cmp, Int.min_comm g e]
      exact Std.OrientedCmp.eq_swap

/-- Bits above the format are ignored (01 R18). -/
theorem FF.value_mod (f : FF) (w : Nat) : f.value (w % 2 ^ f.width) = f.value w := by
  unfold FF.value
  rw [Nat.mod_mod]

/-- One value stands below another, or is equal to it with no larger a sign: a negative zero stands below a positive one. -/
def FVal.Below (u v : FVal) : Prop := u.cmp v = .lt ∨ (u.cmp v = .eq ∧ (u.neg = true ∨ v.neg = false))

/-- The order by which FMIN and FMAX choose between two numbers. -/
def FVal.less (a b : FVal) : Bool :=
  match a.cmp b with
  | .lt => true
  | .gt => false
  | .eq => a.neg && !b.neg

theorem FVal.below_of_less {a b : FVal} (h : a.less b = true) : a.Below b := by
  unfold FVal.less at h
  split at h
  next lt => exact .inl lt
  next => cases h
  next eq => exact .inr ⟨eq, .inl (Bool.and_eq_true_iff.1 h).1⟩

theorem FVal.below_of_not_less {a b : FVal} (h : a.less b = false) : b.Below a := by
  unfold FVal.less at h
  unfold FVal.Below
  rw [FVal.cmp_swap]
  split at h
  next => cases h
  next gt => exact .inl (by rw [gt]; rfl)
  next eq =>
    refine .inr ⟨by rw [eq]; rfl, ?_⟩
    cases hb : b.neg with
    | true => exact .inl rfl
    | false => exact .inr (by simpa [hb] using h)

theorem FF.minmax_flags (f : FF) (isMax : Bool) (x y : Nat) :
    (f.minmax isMax x y).2 = if (f.value x).isSig = true ∨ (f.value y).isSig = true then flagNV else 0 := by
  unfold FF.minmax
  simp only [Bool.or_eq_true]
  split
  · rfl
  · split
    · rfl
    · split <;> rfl

theorem FF.minmax_nan (f : FF) (isMax : Bool) (x y : Nat) :
    ((f.value x).isNan = true → (f.value y).isNan = true → (f.minmax isMax x y).1 = f.canon) ∧
    ((f.value x).isNan = true → (f.value y).isNan = false → (f.minmax isMax x y).1 = y % 2 ^ f.width) ∧
    ((f.value x).isNan = false → (f.value y).isNan = true → (f.minmax isMax x y).1 = x % 2 ^ f.width) := by
  refine ⟨fun hx hy => ?_, fun hx hy => ?_, fun hx hy => ?_⟩ <;> simp [FF.minmax, hx, hy]

theorem FF.minmax_number (f : FF) (isMax : Bool) {x y : Nat} (hx : (f.value x).isNan = false) (hy : (f.value y).isNan = false) :
    (f.minmax isMax x y).1 = if (f.value x).less (f.value y) = isMax then y % 2 ^ f.width else x % 2 ^ f.width := by
  unfold FF.minmax
  simp only [hx, hy]
  rfl

theorem FF.min_picks (f : FF) {x y : Nat} (hx : (f.value x).isNan = false) (hy : (f.value y).isNan = false) :
    ((f.minmax false x y).1 = x % 2 ^ f.width ∧ (f.value x).Below (f.value y)) ∨
    ((f.minmax false x y).1 = y % 2 ^ f.width ∧ (f.value y).Below (f.value x)) := by
  rw [FF.minmax_number f false hx hy]
  cases h : (f.value x).less (f.value y) with
  | true => exact .inl ⟨rfl, FVal.below_of_less h⟩
  | false => exact .inr ⟨rfl, FVal.below_of_not_less h⟩

theorem FF.max_picks (f : FF) {x y : Nat} (hx : (f.value x).isNan = false) (hy : (f.value y).isNan = false) :
    ((f.minmax true x y).1 = x % 2 ^ f.width ∧ (f.value y).Below (f.value x)) ∨
    ((f.minmax true x y).1 = y % 2 ^ f.width ∧ (f.value x).Below (f.value y)) := by
  rw [FF.minmax_number f true hx hy]
  cases h : (f.value x).less (f.value y) with
  | true => exact .inr ⟨rfl, FVal.below_of_less h⟩
  | false => exact .inl ⟨rfl, FVal.below_of_not_less h⟩

theorem fcmp_eq (a b : FVal) : (fcmp .eq a b).1 = decide ((a.isNan = false ∧ b.isNan = false) ∧ a.cmp b = .eq) ∧
    (fcmp .eq a b).2 = if a.isSig = true ∨ b.isSig = true then flagNV else 0 := by
  simp [fcmp]

theorem fcmp_lt (a b : FVal) : (fcmp .lt a b).1 = decide ((a.isNan = false ∧ b.isNan = false) ∧ a.cmp b = .lt) ∧
    (fcmp .lt a b).2 = if a.isNan = true ∨ b.isNan = true then flagNV else 0 := by
  simp [fcmp]

theorem fcmp_le (a b : FVal) :
    (fcmp .le a b).1 = decide ((a.isNan = false ∧ b.isNan = false) ∧ (a.cmp b = .lt ∨ a.cmp b = .eq)) ∧
    (fcmp .le a b).2 = if a.isNan = true ∨ b.isNan = true then flagNV else 0 := by
  have notGreater : decide (a.cmp b = .lt ∨ a.cmp b = .eq) = !decide (a.cmp b = .gt) := by cases a.cmp b <;> rfl
  simp [fcmp, Bool.decide_and, notGreater]

theorem word_decide (c : Prop) [Decidable c] : word (decide c).toNat = if c then 1 else 0 := by
  by_cases h : c <;> simp [h]

theorem writesFlags_fcmp {i : Instr} {s : State} {p : Pred} {d a b : Reg} {t : FFmt} {c : Prop} [Decidable c] {f : BitVec 5}
    (h : exec i s = s.fcmpOp p d a b t)
    (spec : (fcmp p (s.fval t a) (s.fval t b)).1 = decide c ∧ (fcmp p (s.fval t a) (s.fval t b)).2 = f) :
    WritesFlags i s 4 d (if c then 1 else 0) f 0 := by
  have z : WritesFlags i s 4 d (word (fcmp p (s.fval t a) (s.fval t b)).1.toNat) (fcmp p (s.fval t a) (s.fval t b)).2 0 :=
    writesFlags_writeF (r := ((fcmp p (s.fval t a) (s.fval t b)).1.toNat, (fcmp p (s.fval t a) (s.fval t b)).2)) h
  rwa [spec.1, spec.2, word_decide] at z

/-! ### Classes (03 R101) -/

/-- The class of an encoding by its sign and its exponent and fraction fields. -/
def FF.classOf (f : FF) (x : Nat) : Nat :=
  let neg : Bool := decide (2 ^ (f.width - 1) ≤ x)
  let ex := x / 2 ^ f.frac % (f.expMax + 1)
  let fr := x % 2 ^ f.frac
  if ex = f.expMax then (if fr = 0 then (if neg then 0 else 7) else if fr < 2 ^ (f.frac - 1) then 8 else 9)
  else if ex = 0 then (if fr = 0 then (if neg then 3 else 4) else if neg then 2 else 5)
  else if neg then 1 else 6

/-- The value of an encoding of a scalar format by its fields (07 R215, R216). -/
theorem FF.value_scalar (t : FFmt) (w : Nat) :
    let f := FF.ofFFmt t
    let x := w % 2 ^ f.width
    let neg := decide (2 ^ (f.width - 1) ≤ x)
    let ex := x / 2 ^ f.frac % (f.expMax + 1)
    let fr := x % 2 ^ f.frac
    f.value w = if ex = f.expMax then (if fr = 0 then .inf neg else .nan (decide (fr < 2 ^ (f.frac - 1))))
      else if ex = 0 then .fin neg fr (f.emin - f.frac)
      else .fin neg (2 ^ f.frac + fr) ((ex : Int) - f.bias - f.frac) := by
  cases t
  all_goals
    simp only [FF.value, FF.ofFFmt, FF.signBit, reduceCtorEq, if_false]
    exact if_congr decide_eq_true_iff rfl rfl

theorem FF.classify_scalar (t : FFmt) (w : Nat) :
    (FF.ofFFmt t).classify w = 2 ^ (FF.ofFFmt t).classOf (w % 2 ^ (FF.ofFFmt t).width) := by
  have value := FF.value_scalar t w
  unfold FF.classify FF.classOf
  rw [value]
  generalize FF.ofFFmt t = f
  dsimp only
  generalize decide (2 ^ (f.width - 1) ≤ w % 2 ^ f.width) = neg
  have small : w % 2 ^ f.width % 2 ^ f.frac < 2 ^ f.frac := Nat.mod_lt _ (Nat.two_pow_pos _)
  generalize w % 2 ^ f.width % 2 ^ f.frac = fr at small ⊢
  have frac := Nat.two_pow_pos f.frac
  by_cases special : w % 2 ^ f.width / 2 ^ f.frac % (f.expMax + 1) = f.expMax
  · rw [if_pos special, if_pos special]
    by_cases zero : fr = 0
    · rw [if_pos zero, if_pos zero]
      cases neg <;> rfl
    · rw [if_neg zero, if_neg zero]
      by_cases low : fr < 2 ^ (f.frac - 1) <;> simp [low]
  · rw [if_neg special, if_neg special]
    by_cases sub : w % 2 ^ f.width / 2 ^ f.frac % (f.expMax + 1) = 0
    · rw [if_pos sub, if_pos sub]
      by_cases zero : fr = 0
      · cases neg <;> simp [zero]
      · cases neg <;> simp [zero, small]
    · rw [if_neg sub, if_neg sub]
      have normal : ¬(2 ^ f.frac + fr = 0) := by omega
      cases neg <;> simp

end Sys2Proof.Machine
end

section
/-! SUPPORT. Conversions between formats and integers: a value that a format holds is rounded to itself (03 R102, R103, 07 R226). -/

namespace Sys2Proof.Machine

open Sys2Proof

/-! ### Encodings by their fields (07 R215) -/

/-- The value with a sign, an exponent field below the largest and a fraction field. -/
theorem FF.value_fields (t : FFmt) (neg : Bool) {ex fr : Nat} (hex : ex < (FF.ofFFmt t).expMax) (hfr : fr < 2 ^ (FF.ofFFmt t).frac) :
    (FF.ofFFmt t).value ((FF.ofFFmt t).signed neg (ex * 2 ^ (FF.ofFFmt t).frac + fr)) =
      if ex = 0 then .fin neg fr ((FF.ofFFmt t).emin - (FF.ofFFmt t).frac)
      else .fin neg (2 ^ (FF.ofFFmt t).frac + fr) ((ex : Int) - (FF.ofFFmt t).bias - (FF.ofFFmt t).frac) := by
  have value := FF.value_scalar t ((FF.ofFFmt t).signed neg (ex * 2 ^ (FF.ofFFmt t).frac + fr))
  have sign : decide (2 ^ ((FF.ofFFmt t).width - 1) ≤ (FF.ofFFmt t).signed neg (ex * 2 ^ (FF.ofFFmt t).frac + fr)
      % 2 ^ (FF.ofFFmt t).width) = neg := by
    cases t <;> cases neg <;> simp [FF.ofFFmt, FF.signed, FF.signBit, FF.expMax, FF.width, FF.frac] at hex hfr ⊢ <;> omega
  have exponent : (FF.ofFFmt t).signed neg (ex * 2 ^ (FF.ofFFmt t).frac + fr) % 2 ^ (FF.ofFFmt t).width / 2 ^ (FF.ofFFmt t).frac
      % ((FF.ofFFmt t).expMax + 1) = ex := by
    cases t <;> cases neg <;> simp [FF.ofFFmt, FF.signed, FF.signBit, FF.expMax, FF.width, FF.frac] at hex hfr ⊢ <;> omega
  have fraction : (FF.ofFFmt t).signed neg (ex * 2 ^ (FF.ofFFmt t).frac + fr) % 2 ^ (FF.ofFFmt t).width % 2 ^ (FF.ofFFmt t).frac = fr := by
    cases t <;> cases neg <;> simp [FF.ofFFmt, FF.signed, FF.signBit, FF.expMax, FF.width, FF.frac] at hex hfr ⊢ <;> omega
  dsimp only at value
  rw [value, sign, exponent, fraction, if_neg (Nat.ne_of_lt hex)]

theorem FF.value_infinity (t : FFmt) (neg : Bool) : (FF.ofFFmt t).value ((FF.ofFFmt t).signed neg (FF.ofFFmt t).infBits) = .inf neg := by
  cases t <;> cases neg <;> decide

theorem FF.one_lt_expMax (t : FFmt) : 1 < (FF.ofFFmt t).expMax := by cases t <;> decide

/-- The mantissa and the exponent of a number that a format holds. -/
structure FF.Holds (f : FF) (m : Nat) (e : Int) : Prop where
  mantissa : m < 2 ^ (f.frac + 1)
  least : f.emin - f.frac ≤ e
  most : e + f.frac + f.bias < f.expMax

theorem FF.holds_value (t : FFmt) {w : Nat} {n : Bool} {m : Nat} {e : Int} (h : (FF.ofFFmt t).value w = .fin n m e) :
    (FF.ofFFmt t).Holds m e := by
  have value := FF.value_scalar t w
  have frac := Nat.mod_lt (w % 2 ^ (FF.ofFFmt t).width) (Nat.two_pow_pos (FF.ofFFmt t).frac)
  have field := Nat.mod_lt (w % 2 ^ (FF.ofFFmt t).width / 2 ^ (FF.ofFFmt t).frac) (Nat.succ_pos (FF.ofFFmt t).expMax)
  have room := FF.one_lt_expMax t
  dsimp only at value
  rw [h] at value
  generalize w % 2 ^ (FF.ofFFmt t).width % 2 ^ (FF.ofFFmt t).frac = fr at value frac
  generalize w % 2 ^ (FF.ofFFmt t).width / 2 ^ (FF.ofFFmt t).frac % ((FF.ofFFmt t).expMax + 1) = ex at value field
  generalize FF.ofFFmt t = f at *
  have double : 2 ^ (f.frac + 1) = 2 ^ f.frac + 2 ^ f.frac := by rw [Nat.pow_succ, Nat.mul_two]
  have emin : f.emin = 1 - f.bias := rfl
  split at value
  · split at value <;> cases value
  next regular =>
    split at value
    · cases value
      exact ⟨by omega, Int.le_refl _, by omega⟩
    next normal =>
      cases value
      exact ⟨by omega, by omega, by omega⟩

/-! ### Rounding a value that the format holds (07 R226) -/

theorem bits_bounds {m : Nat} (h : m ≠ 0) : ∃ k, bits m = k + 1 ∧ 2 ^ k ≤ m ∧ m < 2 ^ (k + 1) :=
  ⟨m.log2, if_neg h, Nat.log2_self_le h, Nat.lt_log2_self⟩

/-- A magnitude that is a multiple of its quantum is rounded to itself, without a flag. -/
theorem FF.round_exact (f : FF) (mode : RMode) (neg : Bool) {m : Nat} {e u : Int} (nonzero : m ≠ 0)
    (quantum : max (e + bits m - 1 - f.frac) (f.emin - f.frac) = u) (exact_ : u ≤ e)
    (fits : f.pack (m * 2 ^ (e - u).toNat) u ≤ f.maxFinite) :
    f.round mode neg m e false = (f.signed neg (f.pack (m * 2 ^ (e - u).toNat) u), 0) := by
  have whole : cut m e false u = ⟨m * 2 ^ (e - u).toNat, true, .lt⟩ := by
    unfold cut
    rw [if_pos exact_]
    rfl
  have stays : Cut.up ⟨m * 2 ^ (e - u).toNat, true, .lt⟩ mode neg = false := rfl
  unfold FF.round
  rw [if_neg (fun h => nonzero h.1)]
  simp only [quantum, whole, stays, Bool.false_eq_true, if_false, if_true]
  rw [if_neg (Nat.not_lt.2 fits)]

theorem FF.round_zero (f : FF) (mode : RMode) (neg : Bool) (e : Int) : f.round mode neg 0 e false = (f.signed neg 0, 0) :=
  if_pos ⟨rfl, rfl⟩

/-- An encoding packed of a mantissa at a quantum of the format is finite, and holds that mantissa at that quantum. -/
theorem FF.value_pack (t : FFmt) (neg : Bool) {n : Nat} {u : Int} (holds : (FF.ofFFmt t).Holds n u)
    (normal : 2 ^ (FF.ofFFmt t).frac ≤ n ∨ u = (FF.ofFFmt t).emin - (FF.ofFFmt t).frac) :
    (FF.ofFFmt t).pack n u ≤ (FF.ofFFmt t).maxFinite ∧
      (FF.ofFFmt t).value ((FF.ofFFmt t).signed neg ((FF.ofFFmt t).pack n u)) = .fin neg n u := by
  obtain ⟨mantissa, least, most⟩ := holds
  have finite : ∀ {ex fr : Nat}, ex < (FF.ofFFmt t).expMax → fr < 2 ^ (FF.ofFFmt t).frac →
      ex * 2 ^ (FF.ofFFmt t).frac + fr ≤ (FF.ofFFmt t).maxFinite := by
    intro ex fr hex hfr
    cases t <;> simp [FF.ofFFmt, FF.maxFinite, FF.expMax, FF.width, FF.frac] at hex hfr ⊢ <;> omega
  have emin : (FF.ofFFmt t).emin = 1 - (FF.ofFFmt t).bias := rfl
  have double : 2 ^ ((FF.ofFFmt t).frac + 1) = 2 ^ (FF.ofFFmt t).frac + 2 ^ (FF.ofFFmt t).frac := by rw [Nat.pow_succ, Nat.mul_two]
  unfold FF.pack
  by_cases sub : n < 2 ^ (FF.ofFFmt t).frac
  · have zero : 0 < (FF.ofFFmt t).expMax := Nat.zero_lt_of_lt (FF.one_lt_expMax t)
    have fields := FF.value_fields t neg zero sub
    have bound := finite zero sub
    rw [Nat.zero_mul, Nat.zero_add] at fields bound
    rw [if_pos sub, fields, if_pos rfl]
    exact ⟨bound, by rw [normal.resolve_left (Nat.not_le.2 sub)]⟩
  · obtain ⟨ex, hex⟩ : ∃ ex : Nat, (ex : Int) = u + (FF.ofFFmt t).frac + (FF.ofFFmt t).bias - 1 :=
      ⟨(u + (FF.ofFFmt t).frac + (FF.ofFFmt t).bias - 1).toNat, by omega⟩
    obtain ⟨fr, hfr⟩ := Nat.exists_eq_add_of_le (Nat.not_lt.1 sub)
    subst hfr
    have fields := FF.value_fields t neg (ex := ex + 1) (fr := fr) (by omega) (by omega)
    have bound := finite (ex := ex + 1) (fr := fr) (by omega) (by omega)
    rw [Nat.succ_mul, Nat.add_assoc] at fields bound
    rw [if_neg sub, ← hex, Int.toNat_natCast, fields, if_neg (Nat.succ_ne_zero ex)]
    exact ⟨bound, by congr 1; omega⟩

/-- Format `t` holds every number that format `g` holds. -/
structure FF.Widens (g t : FF) : Prop where
  frac : g.frac ≤ t.frac
  least : t.emin - t.frac ≤ g.emin - g.frac
  most : (g.expMax : Int) - g.bias ≤ t.expMax - t.bias

theorem signedMant_mul (n : Bool) (m k : Nat) : signedMant n (m * k) = signedMant n m * k := by
  cases n
  · exact Int.natCast_mul m k
  · show -((m * k : Nat) : Int) = -(m : Int) * k
    rw [Int.natCast_mul, Int.neg_mul]

/-- The same number at a finer quantum. -/
theorem FVal.cmp_finer (n : Bool) (m : Nat) {e u : Int} (h : u ≤ e) :
    FVal.cmp (.fin n (m * 2 ^ (e - u).toNat) u) (.fin n m e) = .eq := by
  simp only [FVal.cmp, Int.min_eq_left h, Int.sub_self, Int.toNat_zero, Int.pow_zero, Int.mul_one, signedMant_mul]
  push_cast
  exact Std.ReflOrd.compare_self

theorem FF.round_widens {g : FF} {t : FFmt} (w : g.Widens (FF.ofFFmt t)) (mode : RMode) (neg : Bool) {m : Nat} {e : Int}
    (holds : g.Holds m e) : ((FF.ofFFmt t).round mode neg m e false).2 = 0 ∧
      ∃ n u, (FF.ofFFmt t).value ((FF.ofFFmt t).round mode neg m e false).1 = .fin neg n u ∧
        FVal.cmp (.fin neg n u) (.fin neg m e) = .eq := by
  obtain ⟨wfrac, wleast, wmost⟩ := w
  obtain ⟨mantissa, least, most⟩ := holds
  by_cases zero : m = 0
  · subst zero
    have fields := FF.value_fields t neg (ex := 0) (fr := 0) (Nat.zero_lt_of_lt (FF.one_lt_expMax t)) (Nat.two_pow_pos _)
    rw [Nat.zero_mul, if_pos rfl] at fields
    rw [FF.round_zero]
    refine ⟨rfl, _, _, fields, ?_⟩
    simp only [FVal.cmp, signedMant_zero, Int.zero_mul]
    exact Std.ReflOrd.compare_self
  · obtain ⟨k, hk, low, high⟩ := bits_bounds zero
    have short : k < g.frac + 1 := (Nat.pow_lt_pow_iff_right (by decide)).1 (Nat.lt_of_le_of_lt low mantissa)
    obtain ⟨u, hu⟩ : ∃ u, max (e + bits m - 1 - (FF.ofFFmt t).frac) ((FF.ofFFmt t).emin - (FF.ofFFmt t).frac) = u := ⟨_, rfl⟩
    have emin : (FF.ofFFmt t).emin = 1 - (FF.ofFFmt t).bias := rfl
    have room := FF.one_lt_expMax t
    have finer : u ≤ e := by omega
    obtain ⟨j, hj⟩ : ∃ j : Nat, (j : Int) = e - u := ⟨(e - u).toNat, by omega⟩
    have shifted : (e - u).toNat = j := by omega
    have fits : (FF.ofFFmt t).Holds (m * 2 ^ (e - u).toNat) u := by
      refine ⟨?_, by omega, by omega⟩
      rw [shifted]
      calc m * 2 ^ j < 2 ^ (k + 1) * 2 ^ j := Nat.mul_lt_mul_of_pos_right high (Nat.two_pow_pos j)
        _ = 2 ^ (k + 1 + j) := (Nat.pow_add ..).symm
        _ ≤ 2 ^ ((FF.ofFFmt t).frac + 1) := Nat.pow_le_pow_right (by decide) (by omega)
    have normal : 2 ^ (FF.ofFFmt t).frac ≤ m * 2 ^ (e - u).toNat ∨ u = (FF.ofFFmt t).emin - (FF.ofFFmt t).frac := by
      rcases Int.le_total (e + bits m - 1 - (FF.ofFFmt t).frac) ((FF.ofFFmt t).emin - (FF.ofFFmt t).frac) with sub | top
      · exact .inr (by omega)
      · refine .inl ?_
        rw [shifted]
        calc 2 ^ (FF.ofFFmt t).frac = 2 ^ (k + j) := by congr 1; omega
          _ = 2 ^ k * 2 ^ j := Nat.pow_add ..
          _ ≤ m * 2 ^ j := Nat.mul_le_mul_right _ low
    obtain ⟨bound, value⟩ := FF.value_pack t neg fits normal
    rw [FF.round_exact _ mode neg zero hu finer bound]
    exact ⟨rfl, _, _, value, FVal.cmp_finer neg m finer⟩

/-- A number of a format that `t` widens is converted exactly: no flag is set, and the value and the sign are kept. -/
theorem FF.ofVal_widens {g t : FFmt} (w : (FF.ofFFmt g).Widens (FF.ofFFmt t)) (mode : RMode) (x : Nat)
    (number : ((FF.ofFFmt g).value x).isNan = false) :
    ((FF.ofFFmt t).ofVal mode ((FF.ofFFmt g).value x)).2 = 0 ∧
      ((FF.ofFFmt t).value ((FF.ofFFmt t).ofVal mode ((FF.ofFFmt g).value x)).1).cmp ((FF.ofFFmt g).value x) = .eq ∧
      ((FF.ofFFmt t).value ((FF.ofFFmt t).ofVal mode ((FF.ofFFmt g).value x)).1).neg = ((FF.ofFFmt g).value x).neg := by
  cases value : (FF.ofFFmt g).value x with
  | nan s =>
    rw [value] at number
    cases number
  | inf n =>
    show ((FF.ofFFmt t).inf n).2 = 0 ∧ ((FF.ofFFmt t).value ((FF.ofFFmt t).inf n).1).cmp _ = .eq ∧
      ((FF.ofFFmt t).value ((FF.ofFFmt t).inf n).1).neg = _
    rw [FF.inf_scalar, FF.value_infinity]
    cases n <;> exact ⟨rfl, rfl, rfl⟩
  | fin n m e =>
    obtain ⟨quiet, _, _, result, same⟩ := FF.round_widens w mode n (FF.holds_value g value)
    refine ⟨quiet, ?_⟩
    show ((FF.ofFFmt t).value ((FF.ofFFmt t).round mode n m e false).1).cmp _ = .eq ∧
      ((FF.ofFFmt t).value ((FF.ofFFmt t).round mode n m e false).1).neg = _
    rw [result]
    exact ⟨same, rfl⟩

end Sys2Proof.Machine
end

section
/-! SUPPORT. Conversions from and to integers (03 R102, R103). -/

namespace Sys2Proof.Machine

open Sys2Proof

theorem intOf_unsigned (n : Nat) (w : Word) : intOf false n w = ((w.extractLsb' 0 n).toNat : Int) := by
  rw [BitVec.extractLsb'_toNat, Nat.shiftRight_zero]
  rfl

theorem intOf_signed (n : Nat) (w : Word) : intOf true n w = (w.extractLsb' 0 n).toInt := by
  have low : (w.extractLsb' 0 n).toNat = w.toNat % 2 ^ n := by rw [BitVec.extractLsb'_toNat, Nat.shiftRight_zero]
  have top : (w.extractLsb' 0 n).msb = (w.toNat % 2 ^ n).testBit (n - 1) := by
    rw [BitVec.msb_eq_getLsbD_last, ← low]
    rfl
  rw [BitVec.toInt_eq_msb_cond, top, low]
  unfold intOf
  simp only [Bool.true_and]
  push_cast
  rfl

theorem extractLsb'_word (w : Word) : w.extractLsb' 0 64 = w := BitVec.extractLsb'_eq_self

theorem writesFlags_fromInt {s : State} {d a : Reg} {c : NumTy} {t : FFmt} {r : Rm} {sg : Bool} {n : Nat} (kind : numKind c = .int sg n)
    {v : FRes} (hv : v = (FF.ofFFmt t).ofInt (s.rmode r) (intOf sg n (s.reg a))) :
    WritesFlags (.fcvtToFloat d a c t r) s 4 d (word v.1) v.2 0 := by
  apply writesFlags_result (r := (FF.ofFFmt t).ofInt (s.rmode r) (intOf sg n (s.reg a))) ?_ hv
  show execFcvtToFloat d a c t r s = _
  unfold execFcvtToFloat
  rw [kind]

theorem numKind_numTy (g : FFmt) : numKind g.numTy = .flt (FF.ofFFmt g) := by cases g <;> rfl

theorem exec_fromFloat {s : State} {d a : Reg} {c : NumTy} {g t : FFmt} {r : Rm} (kind : numKind c = .flt (FF.ofFFmt g)) :
    exec (.fcvtToFloat d a c t r) s = s.writeF d ((FF.ofFFmt t).ofVal (s.rmode r) (s.fval g a)) := by
  show execFcvtToFloat d a c t r s = _
  unfold execFcvtToFloat
  rw [kind]
  rfl

/-- A conversion to the integers from `lo` to `hi`. -/
theorem writesFlags_toInt {s : State} {d a : Reg} {c : NumTy} {t : FFmt} {r : Rm} {sg : Bool} {n : Nat} {lo hi : Int}
    (kind : numKind c = .int sg n) (hlo : lo = if sg then -(2 ^ (n - 1)) else 0)
    (hhi : hi = if sg then 2 ^ (n - 1) - 1 else 2 ^ n - 1) {v : Int × BitVec 5} (hv : v = toInteger (s.rmode r) lo hi (s.fval t a)) :
    WritesFlags (.fcvtToInt d a c t r) s 4 d (BitVec.ofInt 64 v.1) v.2 0 := by
  apply writesFlags_f
  show execFcvtToInt d a c t r s = _
  unfold execFcvtToInt
  rw [kind, hv, hlo, hhi]

/-- The bounds of the four integer types. -/
theorem numKind_bounds {c : NumTy} {lo hi : Int}
    (h : (c, lo, hi) ∈ [(NumTy.sint64, (-(2 ^ 63) : Int), (2 ^ 63 - 1 : Int)), (.uint64, 0, 2 ^ 64 - 1),
      (.sint32, -(2 ^ 31), 2 ^ 31 - 1), (.uint32, 0, 2 ^ 32 - 1)]) :
    ∃ sg n, numKind c = .int sg n ∧ (lo = if sg then -(2 ^ (n - 1)) else 0) ∧ hi = if sg then 2 ^ (n - 1) - 1 else 2 ^ n - 1 := by
  simp only [List.mem_cons, Prod.mk.injEq, List.not_mem_nil, or_false] at h
  rcases h with ⟨rfl, rfl, rfl⟩ | ⟨rfl, rfl, rfl⟩ | ⟨rfl, rfl, rfl⟩ | ⟨rfl, rfl, rfl⟩
  · exact ⟨true, 64, rfl, rfl, rfl⟩
  · exact ⟨false, 64, rfl, rfl, rfl⟩
  · exact ⟨true, 32, rfl, rfl, rfl⟩
  · exact ⟨false, 32, rfl, rfl, rfl⟩

end Sys2Proof.Machine
end

section
/-! The statements about scalar floating point. -/

namespace Sys2Proof.Machine

open Sys2Proof

/-- Settles O23: each writes the model's operation with its flags. -/
theorem floatArithmeticWrites : Obligations.FloatArithmeticWrites := by
  intro s d a b t r
  refine ⟨?_, ?_, ?_, ?_, ?_, ?_, ?_, ?_⟩
  all_goals
    intro v hv
    exact writesFlags_result rfl hv

/-- Settles O24: a NaN or an invalid product is seen first, then the infinities, then an exact zero. -/
theorem floatSpecialCases : Obligations.FloatSpecialCases := by
  intro t mode n k m e g x y neg f invalid quiet
  refine ⟨⟨?_, ?_, fun nonzero => ⟨?_, ?_⟩⟩, ⟨?_, ?_, ?_, ?_⟩, ⟨?_, ?_, fun nonzero => ?_, ?_⟩, ?_, fun nonzero => ?_, ?_,
    fun quietX => ?_, ?_, ?_⟩
  · cases n <;> rfl
  · exact f.fma_infinities mode neg rfl rfl rfl
  · exact f.fma_infinities mode neg (if_neg nonzero) rfl rfl
  · exact f.fma_infinities mode neg (if_neg nonzero) rfl rfl
  · exact f.mul_invalid mode rfl
  · exact f.mul_invalid mode rfl
  · exact f.fma_invalid mode neg x rfl
  · exact f.fma_invalid mode neg x rfl
  · rfl
  · rfl
  · exact if_neg nonzero
  · rfl
  · have sig : (x.isSig || true) = true := Bool.or_true _
    refine ⟨f.add_nan mode (.inl rfl), ?_, f.div_nan mode (.inl rfl), ?_, f.mul_nan mode (.inl rfl), ?_, rfl,
      f.fma_nan mode neg (FVal.mul_nan (.inl rfl)) (.inl rfl), ?_, ?_⟩
    · exact (f.add_nan mode (.inr rfl)).trans (congrArg f.nan sig)
    · exact (f.div_nan mode (.inr rfl)).trans (congrArg f.nan sig)
    · exact (f.mul_nan mode (.inr rfl)).trans (congrArg f.nan sig)
    · exact (f.fma_nan mode neg (FVal.mul_nan (.inr rfl)) (.inr (.inl rfl))).trans (by rw [FVal.isSig, sig]; rfl)
    · exact f.fma_signalling mode neg x y
  · show (if m = 0 then f.nan true else ((f.inf (n ^^ k)).1, flagDZ)) = _
    rw [if_neg nonzero, FF.inf_scalar]
  · rfl
  · have sigX : x.isSig = false := FVal.isSig_quiet quietX
    have sig : (x.isSig || false) = false := by rw [sigX]; rfl
    refine ⟨?_, ?_, ?_, ?_, ?_, ?_, rfl, fun quietY => ?_⟩
    · exact (f.add_nan mode (.inl rfl)).trans (congrArg f.nan sigX)
    · exact (f.add_nan mode (.inr rfl)).trans (congrArg f.nan sig)
    · exact (f.mul_nan mode (.inl rfl)).trans (congrArg f.nan sigX)
    · exact (f.mul_nan mode (.inr rfl)).trans (congrArg f.nan sig)
    · exact (f.div_nan mode (.inl rfl)).trans (congrArg f.nan sigX)
    · exact (f.div_nan mode (.inr rfl)).trans (congrArg f.nan sig)
    · have sigY : y.isSig = false := FVal.isSig_quiet quietY
      refine ⟨?_, ?_, fun valid => ?_⟩
      · exact (f.fma_nan mode neg (FVal.mul_nan (.inl rfl)) (.inl rfl)).trans (by rw [sigX, sigY]; rfl)
      · exact (f.fma_nan mode neg (FVal.mul_nan (.inr rfl)) (.inr (.inl rfl))).trans (by rw [sigX, sigY]; rfl)
      · exact (f.fma_nan mode neg (FVal.mul_valid valid) (.inr (.inr rfl))).trans (by rw [sigX, sigY]; rfl)
  · refine f.add_cancels mode ?_
    rw [dyAdd_same, signedMant_not]
  · refine f.add_cancels mode ?_
    simp only [dyAdd, signedMant_zero, Int.zero_mul, Int.add_zero]

/-- Settles O25: the NaNs are seen first; two numbers by `FVal.less`, of which exactly one side is below the other. -/
theorem minimumAndMaximumPick : Obligations.MinimumAndMaximumPick := by
  intro s d a b t f x y A B below flags picks
  have hx : f.value x = f.value (s.reg a).toNat := f.value_mod _
  have hy : f.value y = f.value (s.reg b).toNat := f.value_mod _
  have runs : ∀ {i : Instr} (isMax : Bool), exec i s = s.writeF d (f.minmax isMax (s.reg a).toNat (s.reg b).toNat) →
      WritesFlags i s 4 d (word (f.minmax isMax (s.reg a).toNat (s.reg b).toNat).1) flags 0 := by
    intro i isMax h
    have z := writesFlags_writeF h
    rwa [f.minmax_flags, ← hx, ← hy] at z
  have nans : ∀ isMax, picks (f.minmax isMax (s.reg a).toNat (s.reg b).toNat).1 := by
    intro isMax
    have z := f.minmax_nan isMax (s.reg a).toNat (s.reg b).toNat
    rwa [← hx, ← hy] at z
  refine ⟨⟨_, runs false rfl, nans false, fun numA numB => ?_⟩, ⟨_, runs true rfl, nans true, fun numA numB => ?_⟩⟩
  · have z := f.min_picks ((congrArg FVal.isNan hx).symm.trans numA) ((congrArg FVal.isNan hy).symm.trans numB)
    rwa [← hx, ← hy] at z
  · have z := f.max_picks ((congrArg FVal.isNan hx).symm.trans numA) ((congrArg FVal.isNan hy).symm.trans numB)
    rwa [← hx, ← hy] at z

/-- Settles O26: the three forms differ in the sign only, which `getLsbD_withSign` places. -/
theorem signOperationsCopyEveryOtherBit : Obligations.SignOperationsCopyEveryOtherBit := by
  intro s d a b t p result
  exact ⟨⟨_, writes_result rfl rfl, fun k h => getLsbD_withSign t _ _ h⟩,
    ⟨_, writes_result rfl rfl, fun k h => getLsbD_withSign t _ _ h⟩,
    ⟨_, writes_result rfl rfl, fun k h => getLsbD_withSign t _ _ h⟩⟩

/-- Settles O27: each comparison is `fcmp` by its predicate. -/
theorem floatComparisonsWrite : Obligations.FloatComparisonsWrite := by
  intro s d a b t A B ordered sig any
  exact ⟨writesFlags_fcmp rfl (fcmp_eq A B), writesFlags_fcmp rfl (fcmp_lt A B), writesFlags_fcmp rfl (fcmp_le A B)⟩

/-- Settles O28: the class is that of the fields of the encoding. -/
theorem classesAreOneBit : Obligations.ClassesAreOneBit := by
  intro s d a t f x neg ex fr k
  have z : Writes (.fclass d a t) s 4 d (word (f.classify (s.reg a).toNat)) := writes_result (r := (f.classify (s.reg a).toNat, 0)) rfl rfl
  rwa [FF.classify_scalar] at z

/-- Settles O29: each of the five pairs widens, and a number converted to a wider format stays itself. -/
theorem wideningConversionsAreExact : Obligations.WideningConversionsAreExact := by
  intro s d a r c g t pair number
  have widens : numKind c = .flt (FF.ofFFmt g) ∧ (FF.ofFFmt g).Widens (FF.ofFFmt t) := by
    simp only [Prod.mk.injEq] at pair
    rcases pair with ⟨rfl, rfl, rfl⟩ | ⟨rfl, rfl, rfl⟩ | ⟨rfl, rfl, rfl⟩ | ⟨rfl, rfl, rfl⟩ | ⟨rfl, rfl, rfl⟩
    all_goals exact ⟨rfl, by decide, by decide, by decide⟩
  obtain ⟨quiet, same, sign⟩ := FF.ofVal_widens widens.2 (s.rmode r) (s.reg a).toNat number
  exact ⟨_, writes_result (exec_fromFloat widens.1) quiet, same, sign⟩

/-- Settles O30: the source by what its type holds, the result by the bounds of its type. -/
theorem conversionsWrite : Obligations.ConversionsWrite := by
  intro s d a t r f mode
  refine ⟨?_, ?_, ?_, ?_, ?_, ?_⟩
  · rintro c v hv rfl
    exact writesFlags_fromInt (sg := true) (n := 64) rfl (by rw [intOf_signed, extractLsb'_word]; exact hv)
  · rintro c v hv rfl
    exact writesFlags_fromInt (sg := false) (n := 64) rfl (by rw [intOf_unsigned, extractLsb'_word]; exact hv)
  · rintro c v hv rfl
    exact writesFlags_fromInt (sg := true) (n := 32) rfl (by rw [intOf_signed]; exact hv)
  · rintro c v hv rfl
    exact writesFlags_fromInt (sg := false) (n := 32) rfl (by rw [intOf_unsigned]; exact hv)
  · rintro c g v hv rfl
    exact writesFlags_result (exec_fromFloat (numKind_numTy g)) hv
  · intro c lo hi type
    obtain ⟨sg, n, kind, hlo, hhi⟩ := numKind_bounds type
    refine ⟨fun x nan => ?_, fun neg inf => ?_, fun v hv => writesFlags_toInt kind hlo hhi hv⟩
    · exact writesFlags_toInt (v := (0, flagNV)) kind hlo hhi (by rw [nan]; rfl)
    · exact writesFlags_toInt (v := (if neg then lo else hi, flagNV)) kind hlo hhi (by rw [inf]; rfl)

end Sys2Proof.Machine
end

section
/-! SUPPORT. Address windows: the code of an address, and what a cast does with it (01 R31, 03 R93 to R95). -/

namespace Sys2Proof.Machine

open Sys2Proof

/-- The window code of an address by its tag and must-be-zero bits, all ones for none (03 R93). -/
def windowCode (x : Word) : Word :=
  if fld x 56 8 = 0 ∧ fld x 48 8 = 0 then 0
  else if fld x 56 8 = 0xE0 ∧ fld x 13 43 = 0 then 1
  else if fld x 56 8 = 0xE1 ∧ fld x 43 13 = 0 ∧ fld x 16 16 = 0 then 2
  else if fld x 56 8 = 0xE2 ∧ fld x 39 17 = 0 ∧ fld x 21 11 = 0 then 3
  else BitVec.allOnes 64

theorem fld_eq (x : Word) (lo len : Nat) : fld x lo len = x.toNat / 2 ^ lo % 2 ^ len := by
  rw [fld, Nat.shiftRight_eq_div_pow]

/-- The window of an address and its code. -/
theorem windowOf_code (x : Word) :
    (windowCode x = 0 ∧ windowOf x = some (.global (fld x 0 48))) ∨ (windowCode x = 1 ∧ windowOf x = some (.priv (fld x 0 13))) ∨
    (windowCode x = 2 ∧ windowOf x = some (.core (fld x 32 11) (fld x 0 16))) ∨
    (windowCode x = 3 ∧ windowOf x = some (.shared (fld x 32 7) (fld x 0 21))) ∨
    (windowCode x = BitVec.allOnes 64 ∧ windowOf x = none) := by
  unfold windowOf
  split
  next tag =>
    by_cases zero : fld x 48 8 = 0
    · simp [windowCode, tag, zero]
    · simp [windowCode, tag, zero]
  next tag =>
    by_cases zero : fld x 13 43 = 0
    · simp [windowCode, tag, zero]
    · simp [windowCode, tag, zero]
  next tag =>
    by_cases zero : fld x 43 13 = 0 ∧ fld x 16 16 = 0
    · simp [windowCode, tag, zero]
    · simp [windowCode, tag, zero]
  next tag =>
    by_cases zero : fld x 39 17 = 0 ∧ fld x 21 11 = 0
    · simp [windowCode, tag, zero]
    · simp [windowCode, tag, zero]
  next t0 t1 t2 t3 =>
    have none_ : windowCode x = BitVec.allOnes 64 := by
      rw [windowCode, if_neg fun h => t0 h.1, if_neg fun h => t1 h.1, if_neg fun h => t2 h.1, if_neg fun h => t3 h.1]
    exact .inr (.inr (.inr (.inr ⟨none_, rfl⟩)))

theorem writes_space (s : State) (d a : Reg) : Writes (.space d a) s 4 d (windowCode (s.reg a)) := by
  apply writes_next
  show execSpace d a s = _
  unfold execSpace
  rcases windowOf_code (s.reg a) with ⟨code, window⟩ | ⟨code, window⟩ | ⟨code, window⟩ | ⟨code, window⟩ | ⟨code, window⟩
  case inr.inr.inr.inr => rw [window, code]
  all_goals
    rw [window, code]
    rfl

section
variable {s : State} {d a : Reg} {w : BitVec 3} {v : Window}

theorem writes_casts (window : windowOf (s.reg a) = some v) (code : v.code = w.toNat)
    (inside : s.inLimit s.me.ctl.tenant.toNat v = true) (here : v.wrongCore s.tid = false) :
    Writes (.casts d a w) s 4 d (word (fld (s.reg a) 0 (castBits w.toNat))) := by
  apply writes_next
  show execCasts d a w s = _
  simp [execCasts, window, code, inside, here]

theorem traps_casts_window (window : windowOf (s.reg a) = some v)
    (bad : v.code ≠ w.toNat ∨ s.inLimit s.me.ctl.tenant.toNat v = false) : Traps (.casts d a w) s 8 (s.reg a) 0 := by
  refine traps_next (t := ⟨8, s.reg a, 0⟩) ?_
  show execCasts d a w s = _
  unfold execCasts
  simp only [window]
  exact if_pos (bad.imp id fun out => by rw [out]; rfl)

theorem traps_casts_core (window : windowOf (s.reg a) = some v) (code : v.code = w.toNat)
    (inside : s.inLimit s.me.ctl.tenant.toNat v = true) (other : v.wrongCore s.tid = true) : Traps (.casts d a w) s 9 (s.reg a) 0 := by
  refine traps_next (t := ⟨9, s.reg a, 0⟩) ?_
  show execCasts d a w s = _
  simp [execCasts, window, code, inside, other]

theorem traps_casts_none (window : windowOf (s.reg a) = none) : Traps (.casts d a w) s 8 (s.reg a) 0 := by
  refine traps_next (t := ⟨8, s.reg a, 0⟩) ?_
  show execCasts d a w s = _
  simp [execCasts, window]

theorem windowOf_global {x : Word} (h : windowCode x = 0) : windowOf x = some (.global (fld x 0 48)) := by
  rcases windowOf_code x with ⟨code, window⟩ | ⟨code, _⟩ | ⟨code, _⟩ | ⟨code, _⟩ | ⟨code, _⟩
  · exact window
  all_goals exact absurd (h.symm.trans code) (by decide)

theorem windowOf_private {x : Word} (h : windowCode x = 1) : windowOf x = some (.priv (fld x 0 13)) := by
  rcases windowOf_code x with ⟨code, _⟩ | ⟨code, window⟩ | ⟨code, _⟩ | ⟨code, _⟩ | ⟨code, _⟩
  case inr.inl => exact window
  all_goals exact absurd (h.symm.trans code) (by decide)

theorem windowOf_core {x : Word} (h : windowCode x = 2) : windowOf x = some (.core (fld x 32 11) (fld x 0 16)) := by
  rcases windowOf_code x with ⟨code, _⟩ | ⟨code, _⟩ | ⟨code, window⟩ | ⟨code, _⟩ | ⟨code, _⟩
  case inr.inr.inl => exact window
  all_goals exact absurd (h.symm.trans code) (by decide)

theorem windowOf_shared {x : Word} (h : windowCode x = 3) : windowOf x = some (.shared (fld x 32 7) (fld x 0 21)) := by
  rcases windowOf_code x with ⟨code, _⟩ | ⟨code, _⟩ | ⟨code, _⟩ | ⟨code, window⟩ | ⟨code, _⟩
  case inr.inr.inr.inl => exact window
  all_goals exact absurd (h.symm.trans code) (by decide)

/-- A cast to another window than the address's traps. -/
theorem traps_casts_other (h : windowCode (s.reg a) ≠ BitVec.ofNat 64 w.toNat) : Traps (.casts d a w) s 8 (s.reg a) 0 := by
  cases window : windowOf (s.reg a) with
  | none => exact traps_casts_none window
  | some v =>
    refine traps_casts_window window (.inl fun same => h ?_)
    rw [← same]
    rcases windowOf_code (s.reg a) with ⟨code, at_⟩ | ⟨code, at_⟩ | ⟨code, at_⟩ | ⟨code, at_⟩ | ⟨code, at_⟩
    all_goals cases window.symm.trans at_
    all_goals exact code

end

end Sys2Proof.Machine
end

section
/-! The statement about address windows. -/

namespace Sys2Proof.Machine

open Sys2Proof

/-- Settles O31: SPACE writes `windowCode`; CASTS takes the window that has the code, and traps for another. -/
theorem addressWindowsAreClassified : Obligations.AddressWindowsAreClassified := by
  intro s d a x field code
  have fields : ∀ lo len, field lo len = fld x lo len := fun lo len => (fld_eq x lo len).symm
  have coded : code = windowCode x := by
    simp only [code, fields]
    rfl
  rw [coded]
  simp only [fields]
  refine ⟨writes_space s d a, writes_next rfl, writes_next rfl, writes_next rfl, fun global => ?_, fun priv => ?_, fun core here => ?_,
    fun core other => ?_, fun shared inside => ?_, fun shared beyond => ?_, fun w _ other => ?_⟩
  · exact writes_casts (windowOf_global global) rfl rfl rfl
  · exact writes_casts (windowOf_private priv) rfl rfl rfl
  · exact writes_casts (windowOf_core core) rfl rfl (congrArg not (decide_eq_true here))
  · exact traps_casts_core (windowOf_core core) rfl rfl (congrArg not (decide_eq_false other))
  · exact writes_casts (windowOf_shared shared) rfl (decide_eq_true inside) rfl
  · exact traps_casts_window (windowOf_shared shared) (.inr (decide_eq_false (Nat.not_lt.2 beyond)))
  · exact traps_casts_other other

end Sys2Proof.Machine
end

section
/-! SUPPORT. What WRC, SETC and CLRC do: the checks in their order (log 44), and the values that each register accepts (01 R20 to R26,
03 R105). -/

namespace Sys2Proof.Machine

open Sys2Proof

/-! ### Masks and fields -/

/-- A mask whose bits are the field of `len` bits from `lo` upward finds it zero. -/
theorem masked_eq_zero_iff {v m : Word} {lo len : Nat} (fits : lo + len ≤ 64)
    (mask : ∀ i < 64, m.getLsbD i = (decide (lo ≤ i) && decide (i < lo + len))) : v &&& m = 0 ↔ v.extractLsb' lo len = 0 := by
  constructor
  · intro h
    apply BitVec.eq_of_getLsbD_eq
    intro i hi
    have bit := congrArg (fun x => x.getLsbD (lo + i)) h
    simp only [BitVec.getLsbD_and, mask (lo + i) (by omega), BitVec.ofNat_eq_ofNat, BitVec.getLsbD_zero] at bit
    rw [BitVec.getLsbD_extractLsb', BitVec.ofNat_eq_ofNat, BitVec.getLsbD_zero, decide_eq_true hi, Bool.true_and]
    simpa [hi] using bit
  · intro h
    apply BitVec.eq_of_getLsbD_eq
    intro i hi
    rw [BitVec.getLsbD_and, mask i hi, BitVec.ofNat_eq_ofNat, BitVec.getLsbD_zero]
    by_cases inside : lo ≤ i ∧ i < lo + len
    · have bit := congrArg (fun x => x.getLsbD (i - lo)) h
      have short : i - lo < len := by omega
      simp only [BitVec.getLsbD_extractLsb', decide_eq_true short, Nat.add_sub_cancel' inside.1, BitVec.ofNat_eq_ofNat,
        BitVec.getLsbD_zero, Bool.true_and] at bit
      rw [bit, Bool.false_and]
    · by_cases lower : lo ≤ i
      · rw [decide_eq_false fun below => inside ⟨lower, below⟩, Bool.and_false, Bool.and_false]
      · rw [decide_eq_false lower, Bool.false_and, Bool.and_false]

/-- A number below 2^n has no higher bit set. -/
theorem extractLsb'_high {v : Word} {n len : Nat} (h : v.toNat < 2 ^ n) : v.extractLsb' n len = 0 := by
  apply BitVec.eq_of_toNat_eq
  rw [BitVec.extractLsb'_toNat, Nat.shiftRight_eq_div_pow, Nat.div_eq_of_lt h]
  rfl

theorem fld_toNat (v : Word) (lo len : Nat) : fld v lo len = (v.extractLsb' lo len).toNat := (BitVec.extractLsb'_toNat ..).symm

/-! ### The order of the checks -/

/-- The three forms read the register and make one write of the value that results. -/
theorem ctlWrites_of {s : State} {n : BitVec 12} {v : Word} {r : Result}
    (h : ∀ f : Word → Word, f ((s.ctlValue n.toNat).getD 0) = v → s.ctlWrite n.toNat f = r) : CtlWrites s n v r :=
  fun a => ⟨fun e => h (fun _ => s.reg a) e.symm, fun e => h (fun c => c ||| s.reg a) e.symm,
    fun e => h (fun c => c &&& ~~~s.reg a) e.symm⟩

theorem State.ctlWrite_denied {s : State} {n : Nat} {t : Trap} (denied : s.ctlAccess n true = some t) (f : Word → Word) :
    s.ctlWrite n f = s.trap t := by
  unfold State.ctlWrite
  rw [denied]

section
variable {s : State} {n : Nat} {v : Word} {f : Word → Word} (allowed : s.ctlAccess n true = none)
  (value : f ((s.ctlValue n).getD 0) = v)
include allowed value

theorem State.ctlWrite_waits (waits : s.me.ctl.writeWaits n v = true) (busy : s.me.queueBusy = true) : s.ctlWrite n f = .next s := by
  unfold State.ctlWrite
  rw [allowed]
  simp only [value, waits, busy, Bool.and_self, if_true]

theorem State.ctlWrite_accepts (free : (s.me.ctl.writeWaits n v && s.me.queueBusy) = false) (accepts : s.me.ctl.accepts n v = true) :
    s.ctlWrite n f = .next (s.withCtl (s.me.ctl.put n v)) := by
  unfold State.ctlWrite
  rw [allowed]
  simp only [value, free, accepts, Bool.false_eq_true, if_false, if_true]
  rfl

theorem State.ctlWrite_refuses (free : (s.me.ctl.writeWaits n v && s.me.queueBusy) = false) (refuses : s.me.ctl.accepts n v = false) :
    s.ctlWrite n f = s.trap s.illegal := by
  unfold State.ctlWrite
  rw [allowed]
  simp only [value, free, refuses, Bool.false_eq_true, if_false]

end

theorem ctlTraps_of {s : State} {n : BitVec 12} {v : Word} {c : Nat}
    (h : ∀ f : Word → Word, f ((s.ctlValue n.toNat).getD 0) = v → s.ctlWrite n.toNat f = s.trap (s.encTrap c)) :
    CtlTraps s n v (BitVec.ofNat 7 c) :=
  ⟨_, ctlWrites_of h, trapped_takeTrap s (s.encTrap c)⟩

/-- A write that the access rules deny. -/
theorem ctlTraps_denied {s : State} {n : BitVec 12} {v : Word} {c : Nat} (denied : s.ctlAccess n.toNat true = some (s.encTrap c)) :
    CtlTraps s n v (BitVec.ofNat 7 c) :=
  ctlTraps_of fun f _ => s.ctlWrite_denied denied f

/-- A register that instructions may write: it is assigned, its level suffices, and its class is not the read-only one (01 R20). -/
theorem State.ctlAccess_write {s : State} {n : Nat} {old : Word} (assigned : s.ctlValue n = some old)
    (level : n / 1024 = 2 → s.me.ctl.priv ≠ .app) (writable : n / 1024 = 1 → n = 0x412 ∧ s.me.ctl.priv ≠ .app) :
    s.ctlAccess n true = none := by
  have allowed : ¬(n / 1024 = 2 ∧ s.isApp = true) := fun ⟨two, app⟩ => level two (of_decide_eq_true app)
  have open_ : ¬(true = true ∧ n / 1024 = 1 ∧ (n ≠ 0x412 ∨ s.isApp = true)) := fun ⟨_, one, bad⟩ =>
    bad.elim (absurd (writable one).1) fun app => (writable one).2 (of_decide_eq_true app)
  unfold State.ctlAccess
  rw [assigned]
  exact (if_neg allowed).trans (if_neg open_)

section
variable {s : State} {n : BitVec 12} {old v : Word} (assigned : s.ctlValue n.toNat = some old)
  (level : n.toNat / 1024 = 2 → s.me.ctl.priv ≠ .app) (writable : n.toNat / 1024 = 1 → n.toNat = 0x412 ∧ s.me.ctl.priv ≠ .app)
  (free : (s.me.ctl.writeWaits n.toNat v && s.me.queueBusy) = false)
include assigned level writable free

theorem ctlWrites_put (accepts : s.me.ctl.accepts n.toNat v = true) :
    CtlWrites s n v (.next (s.withCtl (s.me.ctl.put n.toNat v))) :=
  ctlWrites_of fun _ value => State.ctlWrite_accepts (State.ctlAccess_write assigned level writable) value free accepts

theorem ctlTraps_refused (refuses : s.me.ctl.accepts n.toNat v = false) : CtlTraps s n v 0x02 :=
  ctlTraps_of (c := 2) fun _ value => State.ctlWrite_refuses (State.ctlAccess_write assigned level writable) value free refuses

/-- A register whose values are those with a property is written, or the write traps. -/
theorem ctl_written_or_traps {p : Prop} (accepts : s.me.ctl.accepts n.toNat v = true ↔ p) :
    (p → CtlWrites s n v (.next (s.withCtl (s.me.ctl.put n.toNat v)))) ∧ (¬p → CtlTraps s n v 0x02) :=
  ⟨fun h => ctlWrites_put assigned level writable free (accepts.2 h),
    fun h => ctlTraps_refused assigned level writable free (Bool.eq_false_iff.2 (mt accepts.1 h))⟩

end

/-- A register of class 0b00, with no entry of the queue in the way. -/
theorem ctl_application {s : State} {n : BitVec 12} {old v : Word} (assigned : s.ctlValue n.toNat = some old)
    (free : s.me.queueBusy = false) {p : Prop} (accepts : s.me.ctl.accepts n.toNat v = true ↔ p)
    (zero : n.toNat / 1024 = 0 := by decide) :
    (p → CtlWrites s n v (.next (s.withCtl (s.me.ctl.put n.toNat v)))) ∧ (¬p → CtlTraps s n v 0x02) :=
  ctl_written_or_traps assigned (fun two => absurd (zero.symm.trans two) (by decide)) (fun one => absurd (zero.symm.trans one) (by decide))
    (by rw [free, Bool.and_false]) accepts

theorem Strand.queueBusy_above {x : Strand} (level : x.ctl.priv ≠ .app) : x.queueBusy = false := by
  rw [Strand.queueBusy, decide_eq_false level, Bool.false_and]

/-- A register that only supervisor and firmware level write. -/
theorem ctl_supervisor {s : State} {n : BitVec 12} {old v : Word} (assigned : s.ctlValue n.toNat = some old)
    (level : s.me.ctl.priv ≠ .app) {p : Prop} (accepts : s.me.ctl.accepts n.toNat v = true ↔ p)
    (class_ : n.toNat / 1024 = 2 ∨ n.toNat = 0x412 := by decide) :
    (p → CtlWrites s n v (.next (s.withCtl (s.me.ctl.put n.toNat v)))) ∧ (¬p → CtlTraps s n v 0x02) :=
  ctl_written_or_traps assigned (fun _ => level) (fun one => ⟨class_.resolve_left (by omega), level⟩)
    (by rw [Strand.queueBusy_above level, Bool.and_false]) accepts

theorem ctlWrites_waits {s : State} {n : BitVec 12} {v : Word} (app : s.me.ctl.priv = .app) (held : s.me.queue ≠ []) (lo : 1 ≤ n)
    (hi : n ≤ 9) : CtlWrites s n v (.next s) := by
  have lo : 1 ≤ n.toNat := lo
  have hi : n.toNat ≤ 9 := hi
  have assigned : ∃ old, s.ctlValue n.toNat = some old := by
    generalize n.toNat = k at lo hi
    interval_cases k <;> exact ⟨_, rfl⟩
  obtain ⟨old, assigned⟩ := assigned
  refine ctlWrites_of fun f value => State.ctlWrite_waits ?_ value ?_ ?_
  · exact State.ctlAccess_write assigned (by omega) (by omega)
  · rw [Ctl.writeWaits, decide_eq_true lo, decide_eq_true hi]
    rfl
  · simp [Strand.queueBusy, app, held]

theorem ctlTraps_unprivileged {s : State} {n : BitVec 12} {v : Word} (app : s.me.ctl.priv = .app) (lo : 0x800 ≤ n) (hi : n ≤ 0x805) :
    CtlTraps s n v 0x03 := by
  have lo : 0x800 ≤ n.toNat := lo
  have hi : n.toNat ≤ 0x805 := hi
  obtain ⟨old, assigned⟩ := s.ctlValue_supervisor lo hi
  refine ctlTraps_denied (c := 3) ?_
  unfold State.ctlAccess
  rw [assigned]
  exact if_pos ⟨by omega, decide_eq_true app⟩

/-- No level writes a register of class 0b01 but PART, and that not application level (01 R20). -/
theorem ctlTraps_readOnly {s : State} {n : BitVec 12} {v : Word} (one : n.toNat / 1024 = 1)
    (guarded : n.toNat ≠ 0x412 ∨ s.me.ctl.priv = .app) : CtlTraps s n v 0x02 := by
  refine ctlTraps_denied (c := 2) ?_
  unfold State.ctlAccess
  split
  · rfl
  · exact (if_neg (by omega)).trans (if_pos ⟨rfl, one, guarded.imp id decide_eq_true⟩)

/-! ### What each register accepts (01 R21, R24 to R26) -/

section
variable {c : Ctl} {n : Nat} {v : Word}

/-- A register without a rule of its own accepts what sets no reserved bit. -/
theorem Ctl.accepts_mask (plain : c.accepts n v = (decide (v &&& ~~~ctlMask n = 0) && true)) {lo len : Nat} (fits : lo + len ≤ 64)
    (mask : ∀ i < 64, (~~~ctlMask n).getLsbD i = (decide (lo ≤ i) && decide (i < lo + len))) :
    c.accepts n v = true ↔ v.extractLsb' lo len = 0 := by
  rw [plain, Bool.and_true, decide_eq_true_iff]
  exact masked_eq_zero_iff fits mask

/-- A register without reserved bits accepts every value. -/
theorem Ctl.accepts_any (plain : c.accepts n v = (decide (v &&& ~~~BitVec.allOnes 64 = 0) && true)) : c.accepts n v = true ↔ True := by
  have clear : v &&& ~~~BitVec.allOnes 64 = 0 := by simp
  rw [plain, decide_eq_true clear]
  simp

/-- A range below a power of two has no reserved bit of its own. -/
theorem Ctl.accepts_range {p : Prop} [Decidable p] (rule : c.accepts n v = (decide (v &&& ~~~ctlMask n = 0) && decide p)) {lo len : Nat}
    (fits : lo + len ≤ 64) (mask : ∀ i < 64, (~~~ctlMask n).getLsbD i = (decide (lo ≤ i) && decide (i < lo + len)))
    (small : p → v.toNat < 2 ^ lo) : c.accepts n v = true ↔ p := by
  rw [rule, Bool.and_eq_true, decide_eq_true_iff, decide_eq_true_iff]
  exact ⟨And.right, fun h => ⟨(masked_eq_zero_iff fits mask).2 (extractLsb'_high (small h)), h⟩⟩

theorem legalEn_iff (v : Word) : legalEn (fld v 0 8) = true ↔
    v.extractLsb' 0 8 ∈ [0xFF#8, 0xBF#8, 0x7F#8, 0xFE#8, 0xFD#8, 0xFB#8, 0xF7#8, 0xEF#8, 0xDF#8] := by
  rw [fld_toNat]
  simp only [legalEn, List.any_cons, List.any_nil, Bool.or_false, Bool.or_eq_true, decide_eq_true_iff, List.mem_cons, List.not_mem_nil,
    or_false, BitVec.toNat_eq, eq_comm (b := (v.extractLsb' 0 8).toNat)]
  rfl

/-- RNSCFG: EN unchanged at application level, and a published set above (01 R26). -/
theorem Ctl.accepts_rnscfg : c.accepts 0x007 v = true ↔ v.extractLsb' 10 54 = 0 ∧
    (c.priv = .app → v.extractLsb' 0 8 = c.rnscfg.extractLsb' 0 8) ∧
    (c.priv ≠ .app → v.extractLsb' 0 8 ∈ [0xFF#8, 0xBF#8, 0x7F#8, 0xFE#8, 0xFD#8, 0xFB#8, 0xF7#8, 0xEF#8, 0xDF#8]) := by
  have rule : c.accepts 0x007 v = (decide (v &&& ~~~ctlMask 0x007 = 0) &&
    if c.priv = .app then decide (fld v 0 8 = c.rnscfg.toNat % 256) else legalEn (fld v 0 8)) := rfl
  have clear : v &&& ~~~ctlMask 0x007 = 0 ↔ v.extractLsb' 10 54 = 0 := masked_eq_zero_iff (by decide) (by decide)
  have en : fld v 0 8 = c.rnscfg.toNat % 256 ↔ v.extractLsb' 0 8 = c.rnscfg.extractLsb' 0 8 := by
    rw [BitVec.toNat_eq, ← fld_toNat, BitVec.extractLsb'_toNat, Nat.shiftRight_zero]
  rw [rule, Bool.and_eq_true, decide_eq_true_iff, clear]
  by_cases app : c.priv = .app
  · rw [if_pos app, decide_eq_true_iff, en]
    exact and_congr_right fun _ => ⟨fun h => ⟨fun _ => h, fun above => absurd app above⟩, fun h => h.1 app⟩
  · rw [if_neg app, legalEn_iff]
    exact and_congr_right fun _ => ⟨fun h => ⟨fun at_ => absurd at_ app, fun _ => h⟩, fun h => h.2 app⟩

/-- STATUS: no reserved bit, and PPRIV a level that is at most the present one (01 R22). -/
theorem Ctl.accepts_status : c.accepts 0x800 v = true ↔
    v &&& 0xFFFFFFFFFF0000F0 = 0 ∧ v.extractLsb' 2 2 ≠ 2 ∧ (v.extractLsb' 2 2).toNat ≤ c.priv.code := by
  have rule : c.accepts 0x800 v = (decide (v &&& ~~~ctlMask 0x800 = 0) && (decide (fld v 2 2 ≠ 2) && decide (fld v 2 2 ≤ c.priv.code))) :=
    rfl
  rw [rule, Bool.and_eq_true, Bool.and_eq_true, decide_eq_true_iff, decide_eq_true_iff, decide_eq_true_iff, fld_toNat, ne_eq, ne_eq,
    BitVec.toNat_eq (y := 2)]
  rfl

theorem Priv.ofCode_code (p : Priv) : Priv.ofCode p.code = some p := by cases p <;> rfl

theorem Priv.code_ne_two (p : Priv) : p.code ≠ 2 := by cases p <;> decide

theorem Priv.toNat_code (p : Priv) : (BitVec.ofNat 2 p.code).toNat = p.code := by cases p <;> rfl

theorem Ctl.put_status {p : Priv} (level : v.extractLsb' 2 2 = BitVec.ofNat 2 p.code) :
    c.put 0x800 v = { c with pld := v.extractLsb' 19 5, pldv := v.getLsbD 18, rchk := v.getLsbD 11, ppriv := p } := by
  have code : fld v 2 2 = p.code := by rw [fld_toNat, level, p.toNat_code]
  have pld : BitVec.ofNat 5 (fld v 19 5) = v.extractLsb' 19 5 := by rw [fld_toNat, BitVec.ofNat_toNat, BitVec.setWidth_eq]
  show { c with
    pld := BitVec.ofNat 5 (fld v 19 5), pldv := bitOf v 18, rchk := bitOf v 11, ppriv := (Priv.ofCode (fld v 2 2)).getD c.ppriv } = _
  rw [code, p.ofCode_code, pld]
  rfl

end

end Sys2Proof.Machine
end

section
/-! The statement about writes of control registers. -/

namespace Sys2Proof.Machine

open Sys2Proof

/-- Settles O33: each number by what it accepts, with the traps and waits of its class. -/
theorem controlWritesTakeEffect : Obligations.ControlWritesTakeEffect := by
  intro s v
  refine ⟨fun idle => ?_, fun app held n lo hi => ctlWrites_waits app held lo hi, fun level => ?_,
    fun app n lo hi => ctlTraps_unprivileged app lo hi, fun n listed => ?_, fun app => ctlTraps_readOnly (by decide) (.inr app)⟩
  · have free : s.me.queueBusy = false := by
      by_cases app : s.me.ctl.priv = .app
      · simp [Strand.queueBusy, idle app]
      · exact Strand.queueBusy_above app
    have es := ctl_application (n := 0x001) (v := v) rfl free (Ctl.accepts_mask (lo := 32) (len := 32) rfl (by decide) (by decide))
    have seed := ctl_application (n := 0x002) (v := v) rfl free (Ctl.accepts_any rfl)
    have sbase := ctl_application (n := 0x003) (v := v) rfl free (Ctl.accepts_any rfl)
    have fflags := ctl_application (n := 0x004) (v := v) rfl free (Ctl.accepts_mask (lo := 5) (len := 59) rfl (by decide) (by decide))
    have frm := ctl_application (n := 0x005) (v := v) rfl free
      (Ctl.accepts_range (p := v.toNat ≤ 4) (lo := 3) (len := 61) rfl (by decide) (by decide) (by omega))
    have iflags := ctl_application (n := 0x006) (v := v) rfl free (Ctl.accepts_mask (lo := 4) (len := 60) rfl (by decide) (by decide))
    have rnscfg := ctl_application (n := 0x007) (v := v) rfl free Ctl.accepts_rnscfg
    have trows := ctl_application (n := 0x008) (v := v) rfl free
      (Ctl.accepts_range (p := 1 ≤ v.toNat ∧ v.toNat ≤ 64) (lo := 7) (len := 57) rfl (by decide) (by decide) (by omega))
    have tcols := ctl_application (n := 0x009) (v := v) rfl free
      (Ctl.accepts_range (p := 1 ≤ v.toNat ∧ v.toNat ≤ 64) (lo := 7) (len := 57) rfl (by decide) (by decide) (by omega))
    refine ⟨es.1, es.2, seed.1 trivial, sbase.1 trivial, fflags.1, fflags.2, frm.1, frm.2, iflags.1, iflags.2, trows.1, trows.2, tcols.1,
      tcols.2, fun clear app above => rnscfg.1 ⟨clear, app, above⟩, fun bad => rnscfg.2 ?_⟩
    rintro ⟨clear, app, above⟩
    rcases bad with dirty | ⟨at_, other⟩ | ⟨at_, other⟩
    · exact dirty clear
    · exact other (app at_)
    · exact other (above at_)
  · have part := ctl_supervisor (n := 0x412) (v := v) rfl level (Ctl.accepts_mask (lo := 4) (len := 60) rfl (by decide) (by decide))
    have status := ctl_supervisor (n := 0x800) (v := v) rfl level Ctl.accepts_status
    have tvec := ctl_supervisor (n := 0x801) (v := v) rfl level (Ctl.accepts_mask (lo := 0) (len := 2) rfl (by decide) (by decide))
    have epc := ctl_supervisor (n := 0x802) (v := v) rfl level (Ctl.accepts_any rfl)
    have cause := ctl_supervisor (n := 0x803) (v := v) rfl level (Ctl.accepts_mask (lo := 7) (len := 57) rfl (by decide) (by decide))
    have tval := ctl_supervisor (n := 0x804) (v := v) rfl level (Ctl.accepts_any rfl)
    have tval2 := ctl_supervisor (n := 0x805) (v := v) rfl level (Ctl.accepts_any rfl)
    refine ⟨part.1, tvec.1, tvec.2, epc.1 trivial, cause.1, cause.2, tval.1 trivial, tval2.1 trivial, fun p clear code below => ?_,
      fun bad => status.2 ?_⟩
    · have level_ : (v.extractLsb' 2 2).toNat = p.code := by rw [code, p.toNat_code]
      rw [← Ctl.put_status code]
      exact status.1 ⟨clear, fun two => p.code_ne_two (level_.symm.trans (congrArg BitVec.toNat two)), by omega⟩
    · rintro ⟨clear, level_, below⟩
      rcases bad with dirty | reserved | above
      · exact dirty clear
      · exact level_ reserved
      · exact absurd below (Nat.not_le.2 above)
  · have class_ : ∀ m ∈ [0x400#12, 0x401#12, 0x402#12, 0x403#12, 0x404#12, 0x405#12, 0x410#12, 0x411#12, 0x420#12, 0x421#12, 0x430#12,
        0x431#12, 0x432#12, 0x433#12, 0x440#12, 0x450#12, 0x451#12], m.toNat / 1024 = 1 ∧ m.toNat ≠ 0x412 := by decide
    exact ctlTraps_readOnly (class_ n listed).1 (.inl (class_ n listed).2)

end Sys2Proof.Machine
end

section
/-! SUPPORT. The return from a trap: what restarts, and the queue that goes on. -/

namespace Sys2Proof.Machine

open Sys2Proof

/-- Where the queue is empty, nothing goes on. -/
theorem State.unhold_empty {s : State} (empty : s.me.queue = []) : s.unhold = s := by
  simp [State.unhold, State.pumpFocus, empty]

/-- Without a queued trap nothing restarts. -/
theorem Strand.restartHead_clear {x : Strand} (clear : x.ctl.cause.getLsbD 6 = false) : x.restartHead = x :=
  if_neg (by rw [clear]; exact Bool.false_ne_true)

/-- After a queued trap the head restarts at ES, which becomes 0. -/
theorem Strand.restartHead_queued {x : Strand} (queued : x.ctl.cause.getLsbD 6 = true) :
    x.restartHead = { x with queue := x.restartHead.queue, vec := x.restartHead.vec, ctl := { x.ctl with es := 0 } } := by
  simp only [Strand.restartHead, queued, if_true]

theorem Strand.restartHead_empty {x : Strand} (empty : x.queue = []) : x.restartHead.queue = [] ∧ x.restartHead.vec = x.vec := by
  unfold Strand.restartHead
  split
  · simp only [empty, and_self]
  · exact ⟨empty, rfl⟩

theorem Strand.restartHead_tail (x : Strand) : x.restartHead.queue.tail = x.queue.tail := by
  unfold Strand.restartHead
  split
  · cases x.queue <;> rfl
  · rfl

/-- What a head entry becomes, and the bound of a tile conversion that is abandoned. -/
theorem Strand.restartHead_head {x : Strand} (queued : x.ctl.cause.getLsbD 6 = true) {h : QEntry} {r : List QEntry}
    (head : x.queue = h :: r) :
    x.restartHead.queue = { h.giveUp x.ctl.es.toNat with first := x.ctl.es.toNat, next := x.ctl.es.toNat, fault := none } :: r ∧
      x.restartHead.vec = (match h.op with
        | .tcvt d k => if k ≠ 1 ∧ h.first < h.next ∧ h.total x ≤ x.ctl.es.toNat then x.vec.setWeight d.toNat (2 ^ 64 - 1) else x.vec
        | _ => x.vec) := by
  constructor
  · simp only [Strand.restartHead, queued, if_true, head]
  · simp only [Strand.restartHead, queued, if_true, head] <;> rfl

/-- ERET above application level: the return, and then the restart of a held queue. -/
theorem execEret_above {s : State} (above : s.me.ctl.priv ≠ .app) :
    exec .eret s = .next (State.unhold (s.onMe fun x => if x.ctl.ppriv = .app then x.eret.restartHead else x.eret)) := by
  have runs : exec .eret s = .next (State.unhold
      (if (s.onMe Strand.eret).me.ctl.priv = .app then (s.onMe Strand.eret).onMe Strand.restartHead else s.onMe Strand.eret)) := by
    show execEret s = _
    unfold execEret
    split
    · exact absurd ‹_› above
    · rfl
  refine runs.trans (congrArg (fun t => Host.Outcome.next (State.unhold t)) ?_)
  by_cases app : s.me.ctl.ppriv = .app
  · exact (if_pos app).trans (congrArg (fun x => ({ s with me := x } : State)) (if_pos app).symm)
  · exact (if_neg app).trans (congrArg (fun x => ({ s with me := x } : State)) (if_neg app).symm)

end Sys2Proof.Machine
end

section
/-! The statement about the return from a trap. -/

namespace Sys2Proof.Machine

open Sys2Proof

/-- Settles O34: a return to application level after a queued trap restarts the head; every other return leaves the queue alone. -/
theorem eretReturns : Obligations.EretReturns := by
  intro s
  refine ⟨fun app => traps_next (t := s.privViolation) (show execEret s = _ by simp only [execEret, app]), fun above => ?_⟩
  have runs := execEret_above above
  by_cases restarts : s.me.ctl.ppriv = .app ∧ s.me.ctl.cause.getLsbD 6 = true
  · obtain ⟨app, queued⟩ := restarts
    rw [State.onMe, if_pos app, Strand.restartHead_queued (x := s.me.eret) queued] at runs
    refine ⟨0, s.me.eret.restartHead.queue, s.me.eret.restartHead.vec, runs, fun empty => ?_, ?_, fun _ _ => ?_⟩
    · obtain ⟨queue, vec⟩ := Strand.restartHead_empty (x := s.me.eret) empty
      exact ⟨queue, vec, State.unhold_empty queue⟩
    · rintro (other | clear)
      · exact absurd app other
      · rw [queued] at clear; cases clear
    · exact ⟨rfl, Strand.restartHead_tail _, fun h r head => Strand.restartHead_head (x := s.me.eret) queued head⟩
  · have same : (if s.me.ctl.ppriv = .app then s.me.eret.restartHead else s.me.eret) = s.me.eret := by
      split
      · next app => exact Strand.restartHead_clear (x := s.me.eret) (Bool.eq_false_iff.2 fun queued => restarts ⟨app, queued⟩)
      · rfl
    rw [State.onMe, same] at runs
    exact ⟨s.me.ctl.es, s.me.queue, s.me.vec, runs, fun empty => ⟨empty, rfl, State.unhold_empty empty⟩, fun _ => ⟨rfl, rfl, rfl⟩,
      fun app queued => absurd ⟨app, queued⟩ restarts⟩

end Sys2Proof.Machine
end

section
/-! The statement about system calls and breakpoints. -/

namespace Sys2Proof.Machine

open Sys2Proof

/-- Settles O35: by the privilege level of the call, and by the debugger at the breakpoint. -/
theorem systemCallsAndBreakpointsTrap : Obligations.SystemCallsAndBreakpointsTrap := by
  intro s k
  refine ⟨fun app => ?_, fun sup => ?_, fun fw => ?_, fun free => ?_, fun attached enabled => ?_⟩
  · exact traps_next (t := ⟨0x06, k.setWidth 64, 0⟩) (show execSvc k s = _ by simp only [execSvc, app])
  · show execSvc k s = _
    unfold execSvc
    split
    · next app => rw [sup] at app; cases app
    · rfl
    · next fw => rw [sup] at fw; cases fw
  · exact traps_next (t := s.illegal) (show execSvc k s = _ by simp only [execSvc, fw])
  · have off : ¬ (s.me.attach && s.me.brken) = true := by
      rcases free with h | h <;> simp [h]
    exact traps_next (t := ⟨0x05, k.setWidth 64, 0⟩) (if_neg off)
  · exact if_pos (by simp [attached, enabled])

end Sys2Proof.Machine
end

section
/-! SUPPORT. Fences of the scalar stream: what an acquire does, and when accesses have performed. -/

namespace Sys2Proof.Machine

open Sys2Proof

theorem State.acquire_me (s : State) (cn : Nat) (sc : Scope) : (s.acquire cn sc).me = s.me := by
  unfold State.acquire
  split <;> rfl

theorem State.acquire_near {s : State} {cn : Nat} {sc : Scope} (near : sc = .st ∨ sc = .co) : s.acquire cn sc = s := by
  rcases near with rfl | rfl <;> rfl

theorem wideScope_of_ne {sc : Scope} (st : sc ≠ .st) (co : sc ≠ .co) : wideScope sc = true := by
  cases sc with
  | st => exact absurd rfl st
  | co => exact absurd rfl co
  | cl | di | pk | sy => rfl

/-- Short of its last value the generation counts on, and the L1 keeps its lines. -/
theorem State.acquire_wide {s : State} {cn : Nat} {sc : Scope} (st : sc ≠ .st) (co : sc ≠ .co)
    (room : (s.cluster cn).gen.toNat < 0xFFFF) :
    s.acquire cn sc = s.onCluster cn fun c => { c with gen := c.gen + 1 } := by
  have more : (s.cluster cn).gen + 1 ≠ 0 := by
    generalize (s.cluster cn).gen = g at room
    bv_omega
  rw [State.acquire, if_pos (wideScope_of_ne st co)]
  simp only [State.advanceGen, State.onCluster, if_neg more]

theorem Strand.performedAt_idle {x : Strand} (writes : x.writes = []) (seen : x.seen = []) (sc : Scope) : x.performedAt sc = true := by
  simp [Strand.performedAt, Strand.sawScalar, writes, seen]

theorem Strand.vectorPerformedAt_idle {x : Strand} (posted : x.posted = []) (seen : x.seen = []) (sc : Scope) :
    x.vectorPerformedAt sc = true := by
  simp [Strand.vectorPerformedAt, Strand.vectorOut, Strand.sawVector, posted, seen]

/-- A fence that ends in an acquire. -/
theorem went_acquire {i : Instr} {s : State} {sc : Scope} (h : exec i s = .next ((s.acquire s.tid.cluster sc).retire 4 none)) :
    ∃ t, exec i s = .next t ∧ Went (s.acquire s.tid.cluster sc) t (s.me.pc + 4) := by
  have went := went_retire (s.acquire s.tid.cluster sc) 4
  rw [State.acquire_me] at went
  exact ⟨_, h, went⟩

end Sys2Proof.Machine
end

section
/-! The statement about fences of the scalar stream. -/

namespace Sys2Proof.Machine

open Sys2Proof

/-- Settles O42: each fence by its wait. -/
theorem scalarFencesHoldOrComplete : Obligations.ScalarFencesHoldOrComplete := by
  intro s sc
  refine ⟨fun free performed => ?_, fun writes seen => Strand.performedAt_idle writes seen sc,
    fun posted seen => Strand.vectorPerformedAt_idle posted seen sc, fun busy => ?_, fun app clear performed => ?_, fun app busy => ?_,
    fun above => ?_, fun performed clear => ?_, fun busy => ?_, State.acquire_near, State.acquire_wide⟩
  · exact went_acquire (if_neg (by simp [free, performed]))
  · exact if_pos (by rcases busy with h | h <;> simp [h])
  · exact went_acquire ((if_neg (by simp [State.vecLevel, app])).trans (if_neg (by simpa [performed] using clear)))
  · refine show execFenceVs sc s = _ from (if_neg (by simp [State.vecLevel, app])).trans (if_pos ?_)
    rcases busy with ⟨q, mem, isMem⟩ | h
    · rw [List.any_eq_true.2 ⟨q, mem, isMem⟩, Bool.true_or]
    · simp [h]
  · exact traps_next (t := s.badVec) (if_pos (by simp [State.vecLevel, above]))
  · exact ⟨_, if_neg (by simpa [performed] using clear), went_retire _ 4⟩
  · refine if_pos ?_
    rcases busy with h | ⟨q, mem, stores⟩
    · simp [h]
    · rw [List.any_eq_true.2 ⟨q, mem, stores⟩, Bool.or_true]

end Sys2Proof.Machine
end

section
/-! SUPPORT. TRIGGER and EXIT: the steps that they make due, and the held entries that an EXIT discards. -/

namespace Sys2Proof.Machine

open Sys2Proof

/-- What the strand's progress makes due, the trigger mark and the end of an EXIT among it. -/
theorem State.nudge_pushes {s : State} {t : Tid} (here : s.tid = t) :
    ∃ es, s.nudge t = s.pushAll es ∧ (s.me.triggerDue = true → .triggerMarkCount t ∈ es) ∧
      (s.me.exitDue = true → .exitFinish t ∈ es) := by
  subst here
  have pushIf : ∀ (c : Bool) (u : State) (e : Event), (if c = true then u.push e else u) = u.pushAll (if c = true then [e] else []) := by
    intro c u e
    cases c with
    | true => rfl
    | false => exact congrArg (fun a => ({ u with agenda := a } : State)) (List.append_nil _).symm
  have twice : ∀ (u : State) (a b : List Event), (u.pushAll a).pushAll b = u.pushAll (a ++ b) :=
    fun u a b => congrArg (fun l => ({ u with agenda := l } : State)) (List.append_assoc ..)
  simp only [State.nudge, State.strand_self, pushIf, twice]
  cases due : s.me.exitDue with
  | true => exact ⟨_ ++ [_], twice _ _ [_], fun mark => by simp [mark], fun _ => by simp⟩
  | false => exact ⟨_, rfl, fun mark => by simp [mark], fun h => absurd h Bool.false_ne_true⟩

/-- A context's turn in the order of sc accesses is given up. -/
theorem State.scDone_eq (s : State) (t : Tid) :
    ∃ es, s.scDone t = { s with
      agenda := s.agenda ++ es, sys := { s.sys with scRun := if s.sys.scRun = some t then none else s.sys.scRun } } := by
  by_cases turn : s.sys.scRun = some t
  · rw [State.scDone, if_pos turn, if_pos turn]
    exact ⟨_, rfl⟩
  · rw [State.scDone_none turn, if_neg turn]
    exact ⟨[], by rw [List.append_nil]⟩

/-- With nothing outstanding a trigger mark that is not yet counted is due. -/
theorem Strand.triggerDue_idle {x : Strand} (issued : x.trigIssued = true) (counted : x.trigCounted = false) (queue : x.queue = [])
    (writes : x.writes = []) (posted : x.posted = []) (seen : x.seen = []) (pend : x.pend = []) : x.triggerDue = true := by
  simp [Strand.triggerDue, Strand.quietBefore, Strand.performedBefore, Strand.vectorPerformedBefore, issued, counted, queue, writes,
    posted, seen, pend]

/-- With nothing outstanding the waits of an EXIT are over. -/
theorem Strand.exitDue_idle {x : Strand} (run : x.run = .exiting) (queue : x.queue = []) (writes : x.writes = []) (posted : x.posted = [])
    (seen : x.seen = []) (pend : x.pend = []) (sends : x.sends = []) (slots : ∀ k : BitVec 2, (x.slot k).phase ≠ .busy) :
    x.exitDue = true := by
  have idle : x.slotBusy = false := by
    rw [Strand.slotBusy, List.any_eq_false]
    intro sl mem
    obtain ⟨k, lt, rfl⟩ := Vector.mem_iff_getElem.1 (Vector.mem_toList_iff.1 mem)
    simpa [Strand.slot, Nat.mod_eq_of_lt lt] using slots (BitVec.ofNat 2 k)
  simp [Strand.exitDue, Strand.quiet, Strand.performedAt_idle writes seen, Strand.vectorPerformedAt_idle posted seen, run, queue, posted,
    pend, sends, idle]

/-- An access outlives the discarding of an entry if it is none of its own, or an atomic that is out. -/
theorem Strand.mem_dropElems {x : Strand} {e : Nat} {p : Pend} :
    p ∈ (x.dropElems e).pend ↔ p ∈ x.pend ∧ (p.ofEntry e = true → p.fail = none ∧ ∃ n o v, p.acc = .amo n o v) := by
  rw [Strand.dropElems, List.mem_filter]
  refine and_congr_right fun _ => ?_
  cases own : p.ofEntry e with
  | false => simp
  | true => cases p.acc <;> simp

theorem Strand.mem_dropAll {x : Strand} {l : List QEntry} {p : Pend} :
    p ∈ (l.foldl (fun (x : Strand) q => x.dropElems q.id) x).pend ↔
      p ∈ x.pend ∧ ∀ e ∈ l, p.ofEntry e.id = true → p.fail = none ∧ ∃ n o v, p.acc = .amo n o v := by
  induction l generalizing x with
  | nil => simp
  | cons q r ih => rw [List.foldl_cons, ih, Strand.mem_dropElems, List.forall_mem_cons, and_assoc]

/-- The strand in EXIT above application level: its held entries are discarded. -/
def Strand.exitHeld (x : Strand) : Strand :=
  { x with
    run := .exiting
    queue := []
    pend := (x.queue.foldl (fun (x : Strand) q => x.dropElems q.id) x).pend.filter fun p =>
      !p.parts.isEmpty || match p.owner with | .elem .. => false | _ => true
    slots := x.slots.map fun (sl : Slot) => { sl with ahead := 0 } }

theorem Strand.mem_exitHeld {x : Strand} {p : Pend} :
    p ∈ x.exitHeld.pend ↔ p ∈ x.pend ∧
      (∀ e ∈ x.queue, p.ofEntry e.id = true → p.fail = none ∧ ∃ n o v, p.acc = .amo n o v) ∧
      (p.parts = [] → ∀ e n, p.owner ≠ .elem e n) := by
  rw [Strand.exitHeld, List.mem_filter, Strand.mem_dropAll, and_assoc]
  refine and_congr_right fun _ => and_congr_right fun _ => ?_
  cases p.owner <;> simp

theorem Strand.exitHeld_slot (x : Strand) (k : BitVec 2) : x.exitHeld.slot k = { x.slot k with ahead := 0 } :=
  Vector.getElem_map ..

theorem execExit_app {s : State} (app : s.me.ctl.priv = .app) :
    exec .exit s = .next ((s.onMe fun x => { x with run := .exiting }).nudge s.tid) := by
  show execExit s = _
  simp [execExit, State.isApp, app]

theorem execExit_above {s : State} (above : s.me.ctl.priv ≠ .app) :
    exec .exit s = .next (((s.scDone s.tid).onMe Strand.exitHeld).nudge s.tid) := by
  show execExit s = _
  simp only [execExit, State.isApp, above, decide_false, Bool.not_false, if_true]
  rfl

end Sys2Proof.Machine
end

section
/-! The statement about TRIGGER and EXIT. -/

namespace Sys2Proof.Machine

open Sys2Proof

/-- Settles O37: TRIGGER by what it makes due, EXIT at application level and above it. -/
theorem triggerAndExitIssue : Obligations.TriggerAndExitIssue := by
  intro s
  refine ⟨?_, ?_⟩
  · obtain ⟨es, runs, due, -⟩ := State.nudge_pushes (s := (State.onMe { s with fresh := s.fresh + 1 } fun x =>
      { x with trigIssued := true, trigAt := if x.trigIssued then x.trigAt else s.fresh + 1 }).retire 4 none) (t := s.tid) rfl
    exact ⟨es, congrArg Host.Outcome.next runs, fun counted queue writes posted seen pend =>
      due (Strand.triggerDue_idle rfl counted queue writes posted seen pend)⟩
  · by_cases app : s.me.ctl.priv = .app
    · obtain ⟨es, runs, -, due⟩ := State.nudge_pushes (s := s.onMe fun x => { x with run := .exiting }) (t := s.tid) rfl
      exact ⟨es, s.me.queue, s.me.pend, s.me.slots, s.sys.scRun, (execExit_app app).trans (congrArg Host.Outcome.next runs),
        fun _ => ⟨rfl, rfl, rfl, rfl⟩, fun above => absurd app above,
        fun queue writes posted seen pend sends slots => due (Strand.exitDue_idle rfl queue writes posted seen pend sends slots)⟩
    · obtain ⟨turn, given⟩ := State.scDone_eq s s.tid
      obtain ⟨es, runs, -, due⟩ := State.nudge_pushes (s := (s.scDone s.tid).onMe Strand.exitHeld) (t := s.tid) (State.scDone_tid ..)
      rw [State.onMe_me, State.scDone_me] at due
      refine ⟨turn ++ es, [], s.me.exitHeld.pend, s.me.exitHeld.slots, _, (execExit_above app).trans (congrArg Host.Outcome.next ?_),
        fun at_ => absurd at_ app, fun _ => ⟨rfl, rfl, fun p => Strand.mem_exitHeld, s.me.exitHeld_slot⟩,
        fun queue writes posted seen pend sends slots => ?_⟩
      · rw [runs, given, ← List.append_assoc]
        rfl
      · refine List.mem_append_right _ (due (Strand.exitDue_idle rfl rfl writes posted seen ?_ sends fun k => ?_))
        · exact List.eq_nil_iff_forall_not_mem.2 fun p mem => by simpa [pend] using (Strand.mem_exitHeld.1 mem).1
        · rw [Strand.exitHeld_slot]
          exact slots k

end Sys2Proof.Machine
end

section
/-! SUPPORT. Steps added to the agenda, and a context changed while another one is in focus. -/

namespace Sys2Proof.Machine

open Sys2Proof

/-! ### The agenda -/

theorem Pushed.pushAll (s : State) (es : List Event) : Pushed s (s.pushAll es) := ⟨es, rfl⟩

theorem pushed_ite {c : Prop} [Decidable c] {s t u : State} (yes : Pushed s t) (no : Pushed s u) : Pushed s (if c then t else u) := by
  split
  exacts [yes, no]

theorem leadsTo_of_pushed {i : Instr} {s u v : State} (answers : exec i s = .next v) (pushed : Pushed u v) : LeadsTo i s u := by
  obtain ⟨es, rfl⟩ := pushed
  exact ⟨es, answers⟩

theorem pushed_pokeHome (s : State) (t : Tid) : Pushed s (s.pokeHome t) := pushed_ite (Pushed.refl s) (Pushed.push s _)

theorem pushed_recall (s : State) (l : Nat) : Pushed s (s.recall l) := Pushed.pushAll ..

theorem pushed_recalls (ls : List Nat) (s : State) : Pushed s (ls.foldl State.recall s) := by
  induction ls generalizing s with
  | nil => exact Pushed.refl s
  | cons l ls ih => exact (pushed_recall s l).trans (ih _)

/-- A context in focus with an empty queue, and any context of a state that takes issued work step by step, goes on without any change but
to the agenda. -/
theorem pushed_goOn {s : State} {t : Tid} (calm : (t = s.tid ∧ s.me.queue = []) ∨ s.eager = false) : Pushed s (s.goOn t) := by
  rcases calm with ⟨rfl, queue⟩ | steps
  exacts [pushed_goOn_empty s queue, pushed_goOn_steps s t steps]

/-! ### A context out of focus -/

theorem State.focus_me (s : State) (t : Tid) : (s.focus t).me = s.strand t := by
  unfold State.focus State.strand
  split <;> rfl

theorem State.focus_tid (s : State) (t : Tid) : (s.focus t).tid = t := by
  unfold State.focus
  split
  · exact Eq.symm ‹_›
  · rfl

@[simp] theorem State.focus_eager (s : State) (t : Tid) : (s.focus t).eager = s.eager := by
  unfold State.focus
  split <;> rfl

@[simp] theorem State.focus_mem (s : State) (t : Tid) : (s.focus t).mem = s.mem := by
  unfold State.focus
  split <;> rfl

@[simp] theorem State.focus_fresh (s : State) (t : Tid) : (s.focus t).fresh = s.fresh := by
  unfold State.focus
  split <;> rfl

@[simp] theorem State.onStrand_eager (s : State) (t : Tid) (f : Strand → Strand) : (s.onStrand t f).eager = s.eager := by
  unfold State.onStrand State.setStrand
  split <;> rfl

theorem State.onStrand_congr {s : State} {t : Tid} {f g : Strand → Strand} (same : f (s.strand t) = g (s.strand t)) :
    s.onStrand t f = s.onStrand t g := congrArg (s.setStrand t) same

theorem State.within_congr {s : State} {t : Tid} {f g : State → State} (same : f (s.focus t) = g (s.focus t)) :
    s.within t f = s.within t g := congrArg (State.focus · s.tid) same

/-- An entry that a table lists is read back, whatever the table's form. -/
theorem NMap.get_set_listed {α : Type} [DecidableEq α] {d : α} (m : NMap α) (k : Nat) {v : α} (listed : v ≠ d) :
    NMap.get d (NMap.set d m k v) k = v := by
  induction m with
  | nil => simp [NMap.set, NMap.get, listed]
  | cons e r ih =>
    obtain ⟨j, w⟩ := e
    rw [NMap.set, if_neg listed, if_neg listed]
    split
    · simp [NMap.get]
    · split
      · simp [NMap.get, *]
      · simp [NMap.get, *]

/-- The context that a change in focus leaves, as it is seen from the context that was in focus before. -/
theorem State.focus_strand {u : State} (r : Tid) (bound : u.me ≠ Strand.unbound) : (u.focus r).strand u.tid = u.me := by
  by_cases here : r = u.tid
  · rw [here, State.focus_self, State.strand_self]
  · rw [State.focus, if_neg here, State.strand, if_neg (Ne.symm here)]
    exact NMap.get_set_listed _ _ bound

@[simp] theorem State.within_eager (s : State) (t : Tid) (f : State → State) : (s.within t f).eager = (f (s.focus t)).eager :=
  State.focus_eager ..

@[simp] theorem State.within_mem (s : State) (t : Tid) (f : State → State) : (s.within t f).mem = (f (s.focus t)).mem :=
  State.focus_mem ..

theorem State.within_strand {s : State} {t : Tid} {f : State → State} (stays : (f (s.focus t)).tid = t)
    (bound : (f (s.focus t)).me ≠ Strand.unbound) : (s.within t f).strand t = (f (s.focus t)).me := by
  have seen := State.focus_strand s.tid bound
  rwa [stays] at seen

theorem Strand.ne_unbound_of_entry {x : Strand} {n : Nat} {q : QEntry} (entry : x.queue[n]? = some q) : x ≠ Strand.unbound := by
  rintro rfl
  cases entry

end Sys2Proof.Machine
end

section
/-! SUPPORT. The events of the vector queue: the handoff to the sequencer, the start and the commit of slot steps, queued traps, BARV and
recheck (06 R196 to R199, 04 R143, 12 R348 to R351). -/

namespace Sys2Proof.Machine

open Sys2Proof

/-! ### The sequencer (06 R196) -/

theorem leadsTo_sequencerHandoff {s : State} {t : Tid} {a r : List QEntry} {q : QEntry} (queue : (s.strand t).queue = a ++ q :: r)
    (before : a.all QEntry.handed = true) (next : q.handed = false) (steps : s.eager = false) :
    LeadsTo (.sequencerHandoff t) s (s.onStrand t fun y => { y with queue := a ++ { q with handed := true } :: r }) := by
  have oldest : (a ++ q :: r).findIdx? (fun q => !q.handed) = some a.length := by
    have passed : a.findIdx? (fun q => !q.handed) = none :=
      List.findIdx?_eq_none_iff.2 fun e mem => by simp [List.all_eq_true.1 before e mem]
    simp [List.findIdx?_append, passed, List.findIdx?_cons, next]
  have handed : (a ++ q :: r).modify a.length (fun q => { q with handed := true }) = a ++ { q with handed := true } :: r := by
    rw [modify_set (q := q) (by simp), List.set_append_right _ _ le_rfl, Nat.sub_self, List.set_cons_zero]
  have same : s.onStrand t (fun x => { x with queue := x.queue.modify a.length fun q => { q with handed := true } }) =
      s.onStrand t fun y => { y with queue := a ++ { q with handed := true } :: r } :=
    State.onStrand_congr (by rw [queue, handed])
  refine leadsTo_of_pushed rfl ?_
  rw [queue, oldest]
  refine Pushed.trans ?_ (pushed_pokeHome _ t)
  show Pushed _ (State.resumeQueue (s.onStrand t _) t)
  rw [same]
  exact pushed_resumeQueue_steps _ t (by simpa using steps)

/-! ### The start of a step (06 R197, 12 R348) -/

theorem State.startStep_plain {s : State} {n : Nat} {q : QEntry} (entry : s.me.queue[n]? = some q) (plain : q.rechecks = false) :
    s.startStep n = s.setEntry n { q with started := q.startEnd s.me } := by
  rw [State.startStep, entry]
  simp [plain]

theorem State.corruptFirst_eq (s : State) (r : RStep) :
    ∃ fw res, s.corruptFirst r = ({ s with fw := fw }, { r with res := res }) := by
  unfold State.corruptFirst
  split
  · exact ⟨_, _, rfl⟩
  · exact ⟨_, _, rfl⟩

theorem State.firstRun_eq (s : State) (q : QEntry) (lo hi : Nat) :
    ∃ src res, s.firstRun q lo hi =
      { lo := lo, hi := hi, at_ := s.fresh, runs := 1, bad := [], split := [], src := src, res := res } := by
  unfold State.firstRun
  by_cases whole : opIsWhole q.op = true
  · exact ⟨_, _, if_pos whole⟩
  · exact ⟨_, _, if_neg whole⟩

theorem State.startStep_rechecked {s : State} {n : Nat} {q : QEntry} (entry : s.me.queue[n]? = some q) (rechecked : q.rechecks = true) :
    ∃ (fw : NMap Word) (r : RStep), r.runs = 1 ∧ r.at_ = s.fresh ∧ r.lo = (if opIsWhole q.op then q.first else q.started) ∧
      r.hi = q.startEnd s.me ∧ s.startStep n =
        State.setEntry { s with fresh := s.fresh + 1, fw := fw } n { q with started := q.startEnd s.me, recheck := q.recheck ++ [r] } := by
  obtain ⟨src, res, first⟩ := s.firstRun_eq q (if opIsWhole q.op then q.first else q.started) (q.startEnd s.me)
  obtain ⟨fw, injected, taken⟩ := State.corruptFirst_eq { s with fresh := s.fresh + 1 }
    { lo := if opIsWhole q.op then q.first else q.started, hi := q.startEnd s.me, at_ := s.fresh, runs := 1, bad := [], split := []
      src := src, res := res }
  refine ⟨fw, { lo := if opIsWhole q.op then q.first else q.started, hi := q.startEnd s.me, at_ := s.fresh, runs := 1, bad := []
                split := [], src := src, res := injected }, rfl, rfl, rfl, rfl, ?_⟩
  rw [State.startStep, entry]
  simp only [rechecked, if_true, first, taken]

theorem leadsTo_slotStepStart {s : State} {t : Tid} {n : Nat} {q : QEntry} (entry : (s.strand t).queue[n]? = some q)
    (starts : (s.focus t).canStart n = true) (steps : s.eager = false) (plain : q.rechecks = false) :
    LeadsTo (.slotStepStart t n) s (s.within t fun u => u.setEntry n { q with started := q.startEnd (s.strand t) }) := by
  have started : s.within t (fun u => u.startStep n) = s.within t fun u => u.setEntry n { q with started := q.startEnd (s.strand t) } :=
    State.within_congr (by rw [← State.focus_me] at entry ⊢; exact State.startStep_plain entry plain)
  refine leadsTo_of_pushed (if_pos starts) ?_
  rw [started]
  exact pushed_resumeQueue_steps _ t (by simpa [State.setEntry] using steps)

theorem slotStepStart_rechecked {s : State} {t : Tid} {n : Nat} {q : QEntry} (entry : (s.strand t).queue[n]? = some q)
    (starts : (s.focus t).canStart n = true) (steps : s.eager = false) (rechecked : q.rechecks = true) :
    ∃ u r, exec (.slotStepStart t n) s = .next u ∧
      (u.strand t).queue = (s.strand t).queue.set n { q with started := q.startEnd (s.strand t), recheck := q.recheck ++ [r] } ∧
      r.runs = 1 ∧ r.at_ = s.fresh ∧ r.lo = (if opIsWhole q.op then q.first else q.started) ∧ r.hi = q.startEnd (s.strand t) ∧
      (u.strand t).vec = (s.strand t).vec ∧ u.mem = s.mem := by
  obtain ⟨fw, r, runs, at_, lo, hi, taken⟩ := State.startStep_rechecked (by rwa [State.focus_me]) rechecked
  rw [State.focus_me] at hi taken
  have stays : ((s.focus t).startStep n).tid = t := by rw [taken]; exact s.focus_tid t
  have held : ((s.focus t).startStep n).me = { s.strand t with
      queue := (s.strand t).queue.set n { q with started := q.startEnd (s.strand t), recheck := q.recheck ++ [r] } } := by
    rw [taken, ← State.focus_me]
    rfl
  have listed : ((s.focus t).startStep n).me.queue[n]? =
      some { q with started := q.startEnd (s.strand t), recheck := q.recheck ++ [r] } := by
    rw [held]
    exact List.getElem?_set_self (List.getElem?_eq_some_iff.1 entry).1
  have seen : (s.within t fun u => u.startStep n).strand t = ((s.focus t).startStep n).me :=
    State.within_strand stays (Strand.ne_unbound_of_entry listed)
  obtain ⟨es, goes⟩ := pushed_resumeQueue_steps (s.within t fun u => u.startStep n) t
    (by rw [State.within_eager, taken]; simpa [State.setEntry] using steps)
  have same : ((s.within t fun u => u.startStep n).resumeQueue t).strand t = ((s.focus t).startStep n).me := by
    rw [goes]
    exact seen
  refine ⟨_, r, if_pos starts, ?_, runs, at_.trans (by simp), lo, hi, ?_, ?_⟩
  · rw [same, held]
  · rw [same, held]
  · rw [goes]
    show (s.within t _).mem = _
    rw [State.within_mem, taken]
    exact s.focus_mem t

/-! ### The commit of a step (06 R199) -/

theorem State.commitStep_ended {s : State} {n : Nat} {q : QEntry} (parts : opIsWhole q.op = false) (ended : q.total s.me ≤ q.next) :
    s.commitStep n q = s.completeEntry n q := by
  rw [State.commitStep, parts, if_neg Bool.false_ne_true, if_pos ended]

theorem State.commitStep_runs {s : State} {n : Nat} {q : QEntry} (parts : opIsWhole q.op = false) (more : q.next < q.total s.me)
    {u : State} {e : EndRes} (runs : s.runStep q (min q.started (q.stepEnd s.me q.next)) = (u, e)) :
    s.commitStep n q = s.settleStep u n q (min q.started (q.stepEnd s.me q.next)) e := by
  rw [State.commitStep, parts, if_neg Bool.false_ne_true, if_neg (Nat.not_le.2 more)]
  simp only [runs]

/-- A step without a fault moves NEXT past its indices; an entry with nothing left completes (06 R199). -/
theorem State.settleStep_ok (s u : State) (n : Nat) {q : QEntry} {hi : Nat} (parts : opIsWhole q.op = false) (within : hi ≤ q.started) :
    s.settleStep u n q hi .ok =
      if q.total u.me ≤ hi ∧ QEntry.canComplete { q with next := hi, left := none } u.me = true then
        u.completeEntry n { q with next := hi, left := none }
      else u.setEntry n { q with next := hi, left := none } := by
  simp [State.settleStep, State.settle, parts, Nat.max_eq_right within]

/-- A fault at the head is noted at its element; one behind the head commits nothing of its step (04 R143). -/
theorem State.settleStep_fault (s u : State) (n : Nat) (q : QEntry) (hi : Nat) (f : QFault) :
    s.settleStep u n q hi (.fault f) =
      let v := if n = 0 then u.setEntry n { q.giveUp f.at_ with next := f.at_, fault := some f, recheck := [] }
        else s.setEntry n { q.giveUp q.next with fault := some f, recheck := [] }
      if opIsSc q.op then v.scDone v.tid else v := by
  by_cases head : n = 0
  · simp only [State.settleStep, State.settle, if_pos head]
  · simp only [State.settleStep, if_neg head]

theorem slotStepCommit_next {s : State} {t : Tid} {n : Nat} {q : QEntry} (entry : (s.strand t).queue[n]? = some q)
    (commits : (s.strand t).canCommit n = true) :
    exec (.slotStepCommit t n) s = .next (let u := s.within t fun u => u.commitStep n q
      if (u.strand t).queue = (s.strand t).queue then u.nudge t else u.goOn t) := by
  show execSlotStepCommit t n s = _
  simp [execSlotStepCommit, entry, commits]

/-! ### Queued traps (04 R143, R145) -/

theorem QEntry.stopped_at (q : QEntry) (n : Nat) :
    QEntry.stopped { q.giveUp n with next := n, fault := none } = { q.giveUp n with fault := none, next := n, recheck := [] } := by
  simp [QEntry.stopped, QEntry.giveUp]

/-- What becomes undefined at a trap is the destination of a load (04 R145). -/
theorem State.undefine_eq (s : State) (q : QEntry) (k : Nat) :
    ∃ n v, s.undefine q k = { s with fresh := n, me := { s.me with vec := v } } := by
  unfold State.undefine
  simp only
  split
  · exact ⟨_, _, rfl⟩
  · exact ⟨_, _, rfl⟩
  · exact ⟨_, _, rfl⟩

theorem Strand.dropEntries_eq (l : List QEntry) (x : Strand) :
    ∃ ps, l.foldl (fun (x : Strand) q => x.dropElems q.id) x = { x with pend := ps } := by
  induction l generalizing x with
  | nil => exact ⟨_, rfl⟩
  | cons q l ih =>
    obtain ⟨ps, rest⟩ := ih (x.dropElems q.id)
    exact ⟨ps, rest⟩

theorem Strand.stopQueue_eq (x : Strand) : ∃ ps, x.stopQueue = { x with pend := ps, queue := x.queue.map QEntry.stopped } := by
  obtain ⟨ps, dropped⟩ := Strand.dropEntries_eq x.queue x
  exact ⟨ps, by rw [Strand.stopQueue, dropped]⟩

theorem State.dropGrant_none {s : State} {t : Tid} (free : (s.strand t).grant = none) : s.dropGrant t = s := by
  simp [State.dropGrant, free]

/-- The head replaced, its destination undefined and the queue stopped: no more of the state changes (04 R143, R145). -/
theorem State.stopHead_eq (s : State) (e q : QEntry) (k : Nat) :
    ∃ n v ps, ((s.setEntry 0 e).undefine q k).onMe Strand.stopQueue =
      { s with fresh := n, me := { s.me with vec := v, pend := ps, queue := (s.me.queue.set 0 e).map QEntry.stopped } } := by
  obtain ⟨n, v, undefined⟩ := (s.setEntry 0 e).undefine_eq q k
  obtain ⟨ps, stopped⟩ := Strand.stopQueue_eq { s.me with vec := v, queue := s.me.queue.set 0 e }
  exact ⟨n, v, ps, by rw [undefined]; exact congrArg (fun x => ({ s with fresh := n, me := x } : State)) stopped⟩

/-- The head traps with what its step has not committed given up, and the queue behind it stopped (04 R143). -/
theorem State.trapHead_eq {s : State} (q : QEntry) (f : QFault) (free : s.me.grant = none) (order : s.sys.scRun ≠ some s.tid) :
    ∃ n v ps, s.trapHead q f = State.takeQueuedTrap { s with fresh := n, me := { s.me with
      vec := v, pend := ps
      queue := (s.me.queue.set 0 { q.giveUp f.at_ with next := f.at_, fault := none }).map QEntry.stopped } } s.tid f := by
  obtain ⟨n, v, ps, stopped⟩ := s.stopHead_eq { q.giveUp f.at_ with next := f.at_, fault := none } q f.at_
  refine ⟨n, v, ps, ?_⟩
  rw [State.trapHead]
  simp only [stopped]
  rw [State.scDone_none, State.dropGrant_none]
  exacts [(congrArg Strand.grant (State.strand_self _)).trans free, order]

theorem Strand.queueRuns_running {x : Strand} (run : x.run = .running) (app : x.ctl.priv = .app) (free : x.held = false) :
    x.queueRuns = true := by
  simp [Strand.queueRuns, run, app, free]

/-- The trap of the only entry does not wait for younger steps. -/
theorem State.trapOrWait_alone {s : State} {q r : QEntry} (f : QFault) (queue : s.me.queue = [r]) (run : s.me.run = .running) :
    s.trapOrWait q f = s.trapHead q f := by
  simp [State.trapOrWait, Strand.isSaving, run, queue, State.runYoungers]

theorem queuedTrap_alone {s : State} {q : QEntry} {f : QFault} (queue : s.me.queue = [q]) (fault : q.fault = some f)
    (run : s.me.run = .running) (app : s.me.ctl.priv = .app) (free : s.me.held = false) (idle : s.me.waits = false)
    (grant : s.me.grant = none) (order : s.sys.scRun = none) :
    ∃ u, exec (.queuedTrap s.tid) s = .next u ∧ u.me.pc = s.me.ctl.tvec ∧ u.me.regs = s.me.regs ∧ u.mem = s.mem ∧
      u.others = s.others ∧ u.me.queue = [{ q.giveUp f.at_ with fault := none, next := f.at_, recheck := [] }] ∧
      u.me.ctl = { s.me.ctl with
        es := BitVec.ofNat 32 f.at_, epc := s.me.pc, cause := BitVec.ofNat 7 (f.cause + 0x40), tval := f.tval, tval2 := f.tval2
        ppriv := .app, priv := .sup, pld := s.me.ctl.ld, pldv := s.me.ctl.ldv, ldv := false } := by
  have alone : s.recheckBehind = false := by simp [State.recheckBehind, queue]
  obtain ⟨n, v, ps, trapped⟩ := State.trapHead_eq q f grant (by simp [order])
  have taken : exec (.queuedTrap s.tid) s = .next (s.trapHead q f) := by
    have inFocus : s.within s.tid (fun u => u.trapOrWait q f) = s.trapHead q f := by
      rw [State.within_self, State.trapOrWait_alone f queue run]
      rw [State.trapOrWait_alone f queue run, trapped, State.takeQueuedTrap, State.onStrand_self]
    show execQueuedTrap s.tid s = _
    simp [execQueuedTrap, queue, fault, Strand.queueRuns_running run app free, idle, alone, inFocus]
  refine ⟨_, taken, ?_⟩
  rw [trapped, State.takeQueuedTrap, State.onStrand_self]
  refine ⟨rfl, rfl, rfl, rfl, ?_, ?_⟩
  · simp [Strand.enterTrap, queue, QEntry.stopped_at]
  · simp [Strand.enterTrap, app]

/-! ### Arrivals at barriers (04 R134, 11 R342) -/

theorem State.inOrder_of_canArrive {s : State} {n : Nat} {q : QEntry} (entry : s.me.queue[n]? = some q) (arrives : s.canArrive n = true) :
    q.inOrder s.me = true := by
  rw [State.canArrive, entry] at arrives
  simp only [State.mayRun, Bool.and_eq_true] at arrives
  obtain ⟨-, ⟨⟨order, -⟩, -⟩, -⟩ := arrives
  exact order

theorem State.commitStep_barv {s : State} {n : Nat} {q : QEntry} {k : BitVec 5} {sc : Scope} (op : q.op = .barv k sc)
    (order : q.inOrder s.me = true) : s.commitStep n q = (s.barrierArrive s.tid.cluster k.toNat).completeEntry n q := by
  simp [State.commitStep, State.settleStep, State.settle, State.wholeEntry, opIsWhole, op, order]

theorem barvArrival_next {s : State} {t : Tid} {n : Nat} {q : QEntry} {k : BitVec 5} {sc : Scope}
    (entry : (s.strand t).queue[n]? = some q) (op : q.op = .barv k sc) (arrives : (s.focus t).canArrive n = true) :
    exec (.barvArrival t n) s =
      .next ((s.within t fun u => (u.barrierArrive u.tid.cluster k.toNat).completeEntry n q).goOn t) := by
  have counts : s.within t (fun u => u.commitStep n q) =
      s.within t fun u => (u.barrierArrive u.tid.cluster k.toNat).completeEntry n q :=
    State.within_congr (State.commitStep_barv op (State.inOrder_of_canArrive (by rwa [State.focus_me]) arrives))
  show execBarvArrival t n s = _
  rw [execBarvArrival, if_pos arrives, entry]
  exact congrArg (fun u : State => Host.Outcome.next (u.goOn t)) counts

/-! ### Recheck (12 R348 to R351) -/

theorem leadsTo_recheckSecondExecution {s : State} {t : Tid} {n k : Nat} {q : QEntry} {r : RStep}
    (entry : (s.strand t).queue[n]? = some q) (first : q.recheck.findIdx? (fun r => decide (r.runs = 1)) = some k)
    (step : q.recheck[k]? = some r) (ready : (s.strand t).canRecheck n = true) (steps : s.eager = false) :
    LeadsTo (.recheckSecondExecution t n) s (s.putStep t n k q { r with runs := 2 }) := by
  refine leadsTo_of_pushed ?_ ((Pushed.push _ (.recheckCompare t n [])).trans
    (pushed_resumeQueue_steps _ t ((State.onStrand_eager ..).trans steps)))
  show execRecheckSecondExecution t n s = _
  simp [execRecheckSecondExecution, ready, entry, first, step]

/-- Two executions that agree commit their step; of others the lanes that disagree are voted on (12 R349, R350). -/
theorem recheckCompare_outcomes {s : State} {t : Tid} {n : Nat} {q : QEntry} {r : RStep} (bad : List Nat)
    (second : (s.strand t).rechecking n 2 = some (q, r)) :
    let b := ((s.strand t).realLanes (bad ++ (s.focus t).disagree q r)).eraseDups
    (b = [] → exec (.recheckCompare t n bad) s = .next (s.commitChecked t n q)) ∧
    (b ≠ [] → LeadsTo (.recheckCompare t n bad) s (s.putStep t n 0 q { r with runs := 3, bad := b })) := by
  intro b
  have compares : exec (.recheckCompare t n bad) s = .next (if b.isEmpty then s.commitChecked t n q
      else (s.putStep t n 0 q { r with runs := 3, bad := b }).push (.recheckVote t n b [])) := by
    show execRecheckCompare t n bad s = _
    simp only [execRecheckCompare, second]
    rfl
  refine ⟨fun agree => ?_, fun differ => ⟨[.recheckVote t n b []], ?_⟩⟩
  · rw [compares, if_pos (List.isEmpty_iff.2 agree)]
  · rw [compares, if_neg (by simpa using differ)]
    rfl

/-- The third execution decides (12 R350 to R352): `m` are the lanes without a majority. -/
theorem recheckVote_outcomes {s : State} {t : Tid} {n : Nat} {q : QEntry} {r : RStep} (bad nomaj : List Nat)
    (third : (s.strand t).rechecking n 3 = some (q, r)) :
    let m := ((s.strand t).realLanes nomaj).filter fun k => r.bad.elem k
    let voted := r.bad.filter fun k => !m.elem k
    (m = [] → exec (.recheckVote t n bad nomaj) s =
      .next (((s.laneRecords t q r 4 false voted).countLanes t voted).commitChecked t n q)) ∧
    (m ≠ [] → opIsWhole q.op = true → exec (.recheckVote t n bad nomaj) s =
      .next ((((s.laneRecords t q r 4 false voted).laneRecords t q r 5 false m).countLanes t r.bad).abandon t n q)) ∧
    (m ≠ [] → opIsWhole q.op = false →
      LeadsTo (.recheckVote t n bad nomaj) s (s.putStep t n 0 q { r with runs := 4, split := m })) := by
  intro m voted
  have votes : exec (.recheckVote t n bad nomaj) s =
      if m.isEmpty then .next (((s.laneRecords t q r 4 false voted).countLanes t voted).commitChecked t n q)
      else if opIsWhole q.op then
        .next ((((s.laneRecords t q r 4 false voted).laneRecords t q r 5 false m).countLanes t r.bad).abandon t n q)
      else .next ((s.putStep t n 0 q { r with runs := 4, split := m }).push (.recheckRollback t n m true)) := by
    show execRecheckVote t n bad nomaj s = _
    simp only [execRecheckVote, third]
    rfl
  refine ⟨fun decided => ?_, fun left whole => ?_, fun left parts => ⟨[.recheckRollback t n m true], ?_⟩⟩
  · rw [votes, if_pos (List.isEmpty_iff.2 decided)]
  · rw [votes, if_neg (by simpa using left), if_pos whole]
  · rw [votes, if_neg (by simpa using left), parts, if_neg Bool.false_ne_true]
    rfl

/-- The lanes without a majority are marked and execute twice more (12 R351). -/
theorem recheckRollback_outcomes {s : State} {t : Tid} {n : Nat} {q : QEntry} {r : RStep} (nomaj : List Nat) (agree : Bool)
    (again : ((s.strand t).rechecking n 4).or ((s.strand t).rechecking n 5) = some (q, r)) :
    let u := s.markLanes t r.split
    let out := fun (sev : Nat) =>
      ((u.laneRecords t q r 4 false (r.bad.filter fun k => !r.split.elem k)).laneRecords t q r sev true r.split).countLanes t r.bad
    (agree = true → exec (.recheckRollback t n nomaj agree) s = .next ((out 4).commitChecked t n q)) ∧
    (agree = false → r.runs = 4 → LeadsTo (.recheckRollback t n nomaj agree) s (u.putStep t n 0 q { r with runs := 5 })) ∧
    (agree = false → r.runs ≠ 4 → exec (.recheckRollback t n nomaj agree) s = .next ((out 5).abandon t n q)) := by
  intro u out
  have rolls : exec (.recheckRollback t n nomaj agree) s =
      if agree then .next ((out 4).commitChecked t n q)
      else if r.runs = 4 then .next ((u.putStep t n 0 q { r with runs := 5 }).push (.recheckRollback t n r.split true))
      else .next ((out 5).abandon t n q) := by
    show execRecheckRollback t n nomaj agree s = _
    simp only [execRecheckRollback, again]
    rfl
  refine ⟨fun yes => ?_, fun no once => ⟨[.recheckRollback t n r.split true], ?_⟩, fun no twice => ?_⟩
  · rw [rolls, if_pos yes]
  · rw [rolls, no, if_neg Bool.false_ne_true, if_pos once]
    rfl
  · rw [rolls, no, if_neg Bool.false_ne_true, if_neg twice]

end Sys2Proof.Machine
end

section
/-! SUPPORT. The events of the write queue, of the homes, of replies and of fetches (03 R87, 13 R371 to R373, 05 R154, 04 R148). -/

namespace Sys2Proof.Machine

open Sys2Proof

/-! ### The write queue (03 R87) -/

theorem State.l1Store_eq (s : State) (c pa : Nat) (bs : List Byte) : ∃ cs, s.l1Store c pa bs = { s with clusters := cs } := by
  unfold State.l1Store
  split
  · exact ⟨_, rfl⟩
  · exact ⟨_, rfl⟩

/-- Parts that perform at a home leave the cluster with no more than a change of its L1 (03 R87, 11 R322). -/
theorem State.sendParts_homes {a : Agent} {ps : List (Place × List Byte)}
    (homes : ∀ p ∈ ps, p.1.atOnce a.tid = false ∧ p.1.kind ≠ .remote) (s : State) :
    ∃ cs, s.sendParts a ps = ({ s with clusters := cs }, []) := by
  induction ps generalizing s with
  | nil => exact ⟨_, rfl⟩
  | cons p r ih =>
    obtain ⟨later, far⟩ := homes p (List.mem_cons_self ..)
    obtain ⟨cs, stored⟩ : ∃ cs, (if p.1.cached then s.l1Store a.tid.cluster p.1.key p.2 else s) = { s with clusters := cs } := by
      split
      exacts [s.l1Store_eq .., ⟨_, rfl⟩]
    obtain ⟨ds, rest⟩ := ih (fun e mem => homes e (List.mem_cons_of_mem _ mem)) { s with clusters := cs }
    refine ⟨ds, ?_⟩
    rw [State.sendParts, later, if_neg Bool.false_ne_true]
    split
    · exact absurd ‹_› far
    · rw [stored, rest]

theorem WEntry.homeParts_all {e : WEntry} {t : Tid} (homes : ∀ p ∈ e.parts, p.1.atOnce t = false ∧ p.1.kind ≠ .remote) :
    e.homeParts t = e.parts :=
  List.filter_eq_self.2 fun p mem => by simp [homes p mem]

theorem State.sendEntry_homes {s : State} {e : WEntry} (i : Nat)
    (homes : ∀ p ∈ e.parts, p.1.atOnce s.tid = false ∧ p.1.kind ≠ .remote) (parts : e.parts ≠ []) :
    ∃ cs, s.sendEntry s.tid i e = { s with
      clusters := cs, fresh := s.fresh + 1, agenda := s.agenda ++ [.homeRequest s.tid 0]
      me := { s.me with writes := s.me.writes.set i { e with stage := 1, tags := [], sent := s.fresh } } } := by
  obtain ⟨cs, sent⟩ := State.sendParts_homes (a := s.entryAgent s.tid e) homes s
  refine ⟨cs, ?_⟩
  rw [State.sendEntry]
  simp [sent, WEntry.homeParts_all homes, parts, State.onStrand, State.setStrand, State.strand, State.push]

theorem writeQueueSend_homes {s : State} {i : Nat} {e : WEntry} (queue : s.me.queue = [])
    (oldest : s.me.staged 0 = i :: (s.me.staged 0).tail) (entry : s.me.writes[i]? = some e)
    (homes : ∀ p ∈ e.parts, p.1.atOnce s.tid = false ∧ p.1.kind ≠ .remote) (parts : e.parts ≠ []) :
    ∃ u, exec (.writeQueueSend s.tid) s = .next u ∧ u.mem = s.mem ∧ u.others = s.others ∧ .homeRequest s.tid 0 ∈ u.agenda ∧
      u.me = { s.me with writes := s.me.writes.set i { e with stage := 1, tags := [], sent := s.fresh } } := by
  obtain ⟨cs, sent⟩ := State.sendEntry_homes i homes parts
  have answers : exec (.writeQueueSend s.tid) s = .next ((s.sendEntry s.tid i e).goOn s.tid) := by
    show execWriteQueueSend s.tid s = _
    simp only [execWriteQueueSend, State.strand_self]
    rw [oldest]
    simp only [entry]
  obtain ⟨es, goes⟩ := pushed_goOn_empty { s with
      clusters := cs, fresh := s.fresh + 1, agenda := s.agenda ++ [.homeRequest s.tid 0]
      me := { s.me with writes := s.me.writes.set i { e with stage := 1, tags := [], sent := s.fresh } } } queue
  rw [sent] at answers
  refine ⟨_, answers.trans (congrArg _ goes), rfl, rfl, ?_, rfl⟩
  simp

theorem leadsTo_storeAcknowledgement {s : State} {t : Tid} {n i : Nat} (leaves : (s.strand t).leavable[n]? = some i)
    (queue : (s.strand t).queue = []) (calm : t = s.tid ∨ s.eager = false) :
    LeadsTo (.storeAcknowledgement t n) s (s.onStrand t fun y => { y with writes := y.writes.eraseIdx i }) := by
  let u := s.onStrand t fun y => { y with writes := y.writes.eraseIdx i }
  obtain ⟨es, more⟩ : Pushed u (if (u.strand t).leavable.isEmpty || u.agenda.elem (.storeAcknowledgement t 0) then u
      else u.push (.storeAcknowledgement t 0)) := pushed_ite (Pushed.refl u) (Pushed.push u _)
  have answers : exec (.storeAcknowledgement t n) s = .next (State.goOn { u with agenda := u.agenda ++ es } t) := by
    show execStoreAcknowledgement t n s = _
    rw [execStoreAcknowledgement, leaves]
    exact congrArg (fun v : State => Host.Outcome.next (v.goOn t)) more
  refine leadsTo_of_pushed answers (Pushed.trans ⟨es, rfl⟩ (pushed_goOn ?_))
  refine calm.imp (fun here => ?_) fun steps => by simpa using steps
  subst here
  rw [State.strand_self] at queue
  rw [State.onStrand_self]
  exact ⟨rfl, queue⟩

/-! ### Homes and replicas (13 R371, R373) -/

theorem homeRequest_store {s : State} {t : Tid} {n i : Nat} {e : WEntry} (served : (s.servableStores t)[n]? = some i)
    (entry : (s.strand t).writes[i]? = some e) (alone : s.copied t e = []) :
    exec (.homeRequest t n) s = .next (s.performEntry t i e) := by
  show execHomeRequest t n s = _
  simp only [execHomeRequest, served, entry, alone]
  rfl

theorem leadsTo_homeRequest_copied {s : State} {t : Tid} {n i : Nat} {e : WEntry} (served : (s.servableStores t)[n]? = some i)
    (entry : (s.strand t).writes[i]? = some e) (copied : s.copied t e ≠ []) :
    LeadsTo (.homeRequest t n) s (s.onStrand t fun y => y.toStage i 2) := by
  refine leadsTo_of_pushed ?_ (pushed_recalls (s.copied t e) _)
  show execHomeRequest t n s = _
  simp only [execHomeRequest, served, entry, List.isEmpty_eq_false_iff.2 copied]
  rfl

theorem homeRequest_pend {s : State} {t : Tid} {n i : Nat} {p : Pend} (served : (s.servablePends t)[n]? = some i)
    (noStores : s.servableStores t = []) (access : (s.strand t).pend[i]? = some p) :
    exec (.homeRequest t n) s = .next (s.servePend t i p) := by
  show execHomeRequest t n s = _
  simp [execHomeRequest, noStores, served, access]

theorem leadsTo_replicaInvalidation (s : State) (pa : Word) (die : DieNo) :
    let l := pa.toNat % 2 ^ 52 / 64
    let v := NMap.get 0 s.sys.replicas l
    LeadsTo (.replicaInvalidation pa die) s { s with sys := { s.sys.dropReplica l die.toNat with
      replicas := NMap.set 0 s.sys.replicas l (v &&& ~~~(BitVec.ofNat 4 (2 ^ die.toNat))) } } :=
  leadsTo_of_pushed rfl ((Pushed.pushAll _ _).trans (pushed_ite (pushed_recall ..) (Pushed.refl _)))

theorem invalidationAck_performs {s : State} {t : Tid} {n i : Nat} {e : WEntry} (cleared : (s.cleared t)[n]? = some i)
    (entry : (s.strand t).writes[i]? = some e) : exec (.invalidationAck t n) s = .next (s.performEntry t i e) := by
  show execInvalidationAck t n s = _
  simp only [execInvalidationAck, cleared, entry]

/-! ### Replies to scalar accesses (03 R86, R88) -/

/-- The strand that a failing scalar access leaves: what later instructions wrote is taken back (03 R88). -/
def Strand.takenBack (x : Strand) (p : Pend) : Strand :=
  match p.back with | some b => x.takeBack p.id b | none => x

/-- What the answer of a scalar access does to the strand in focus once the access is no longer outstanding (03 R86, R88). -/
def State.takeReply (s : State) (p : Pend) : State :=
  match p.fail with
  | some c => (s.onMe fun x => x.takenBack p).takeTrap ⟨c, p.addr, 0⟩
  | none => s.completeAccess p

theorem State.takeReply_data {s : State} {x : Strand} {p : Pend} (data : p.fail = none) : State.takeReply { s with me := x } p =
    { (if Order.acquires p.order then s.acquire s.tid.cluster p.scope else s) with me := x.setReg p.d p.value } := by
  simp only [State.takeReply, data, State.completeAccess, State.acquire]
  split
  · split <;> rfl
  · rfl

theorem State.takeReply_failed {s : State} {x : Strand} {p : Pend} {c : Nat} (failed : p.fail = some c) :
    State.takeReply { s with me := x } p = State.takeTrap { s with me := x.takenBack p } ⟨c, p.addr, 0⟩ := by
  simp only [State.takeReply, failed]
  rfl

theorem Strand.takenBack_queue {x : Strand} (p : Pend) (queue : x.queue = []) : (x.takenBack p).queue = [] := by
  unfold Strand.takenBack
  split
  · simp [Strand.takeBack, queue]
  · exact queue

theorem State.takeReply_tid (s : State) (x : Strand) (p : Pend) : (State.takeReply { s with me := x } p).tid = s.tid := by
  cases fail : p.fail with
  | none =>
    rw [State.takeReply_data fail, State.acquire]
    split
    · split <;> rfl
    · rfl
  | some c => rw [State.takeReply_failed fail, State.takeTrap_tid]

theorem State.takeReply_queue (s : State) {x : Strand} (p : Pend) (queue : x.queue = []) :
    (State.takeReply { s with me := x } p).me.queue = [] := by
  cases fail : p.fail with
  | none => rw [State.takeReply_data fail]; exact (Strand.setReg_queue ..).trans queue
  | some c => rw [State.takeReply_failed fail, State.takeTrap_me]; exact Strand.takenBack_queue p queue

theorem memoryReply_scalar {s : State} {t : Tid} {n i : Nat} {p : Pend} (answered : (s.strand t).answered[n]? = some i)
    (access : (s.strand t).pend[i]? = some p) (owner : p.owner = .scalar) :
    exec (.memoryReply t n) s = .next (let u := (s.onStrand t fun x => { x with pend := x.pend.eraseIdx i }).within t fun v => v.takeReply p
      (if (s.strand t).step && (s.strand t).attach then u.push (.debugHalt t) else u).goOn t) := by
  show execMemoryReply t n s = _
  simp only [execMemoryReply, answered, access, owner, State.takeReply, Strand.takenBack]
  cases p.fail with
  | none => rfl
  | some c => cases p.back <;> rfl

theorem leadsTo_memoryReply {s : State} {n i : Nat} {p : Pend} (answered : s.me.answered[n]? = some i)
    (access : s.me.pend[i]? = some p) (owner : p.owner = .scalar) (queue : s.me.queue = []) :
    LeadsTo (.memoryReply s.tid n) s (State.takeReply { s with me := { s.me with pend := s.me.pend.eraseIdx i } } p) := by
  let u : State := State.takeReply { s with me := { s.me with pend := s.me.pend.eraseIdx i } } p
  have here : u.tid = s.tid := State.takeReply_tid ..
  obtain ⟨es, halts⟩ : Pushed u (if s.me.step && s.me.attach then u.push (.debugHalt s.tid) else u) :=
    pushed_ite (Pushed.push u _) (Pushed.refl u)
  have replied : (s.onStrand s.tid fun x => { x with pend := x.pend.eraseIdx i }).within s.tid (fun v => v.takeReply p) = u := by
    rw [State.onStrand_self]
    exact State.within_self _ _ (State.takeReply_tid ..)
  have answers : exec (.memoryReply s.tid n) s = .next (State.goOn { u with agenda := u.agenda ++ es } s.tid) := by
    rw [memoryReply_scalar (by rwa [State.strand_self]) (by rwa [State.strand_self]) owner, replied, State.strand_self]
    exact congrArg (fun v : State => Host.Outcome.next (v.goOn s.tid)) halts
  exact leadsTo_of_pushed answers
    (Pushed.trans ⟨es, rfl⟩ (pushed_goOn (.inl ⟨here.symm, State.takeReply_queue s p queue⟩)))

/-! ### Fetches (05 R154) and handler faults (04 R148) -/

theorem fetchFill_keeps {s u : State} {t : Tid} {w : Words} (bound : (s.strand t).run ≠ .unbound)
    (fetched : (s.focus t).fetch = (u, .ok w)) : exec (.fetchFill t) s = .next (u.focus s.tid) := by
  show execFetchFill t s = _
  simp [execFetchFill, Strand.bound, bound, fetched]

theorem fetchFill_fails {s u : State} {t : Tid} {b : FetchBad} (fails : (s.focus t).fetch = (u, .error b)) :
    exec (.fetchFill t) s = .next s := by
  show execFetchFill t s = _
  simp [execFetchFill, fails]

theorem Strand.startSave_eq (x : Strand) (w : Why) : ∃ ps sl, x.startSave w = { x with
    park := x.parkKept, run := .saving w, grant := none, slots := sl, pend := ps, queue := x.queue.map fun q => q.suspended x } := by
  obtain ⟨ps, dropped⟩ := Strand.dropEntries_eq x.queue x
  exact ⟨ps, _, by rw [Strand.startSave, dropped]⟩

theorem State.beginSave_focused {s : State} (w : Why) (free : s.me.grant = none) :
    (s.beginSave s.tid w).me = s.me.startSave w ∧ (s.beginSave s.tid w).mem = s.mem ∧
      .saveComplete s.tid ∈ (s.beginSave s.tid w).agenda := by
  let v := (s.leaveWaiting s.tid).scDone s.tid
  have here : v.tid = s.tid := State.scDone_tid ..
  have focused : v.me = s.me := State.scDone_me ..
  have kept : v.dropGrant s.tid = v := State.dropGrant_none (by rw [← here, State.strand_self, focused]; exact free)
  have saving : v.onStrand s.tid (fun x => x.startSave w) = { v with me := s.me.startSave w } := by
    rw [← here, State.onStrand_self, focused]
  rw [State.beginSave, kept, saving]
  exact ⟨rfl, State.scDone_mem .., by simp [State.pushAll, State.push]⟩

theorem handlerFault_saves {s u : State} {a : Word} (run : s.me.run = .running) (priv : s.me.ctl.priv = .sup)
    (pc : s.me.pc = evenPc s.me.ctl.tvec) (grant : s.me.grant = none) (fails : s.fetch = (u, .error (.fault a))) :
    ∃ v, exec (.handlerFault s.tid) s = .next v ∧ v.me.run = .saving .handlerFault ∧ v.me.held = true ∧ v.me.pc = s.me.pc ∧
      v.me.regs = s.me.regs ∧ v.mem = s.mem ∧ .saveComplete s.tid ∈ v.agenda ∧
      v.me.ctl = { s.me.ctl with cause := 0x1F, tval := s.me.ctl.tvec, tval2 := s.me.ctl.cause.setWidth 64 } := by
  let x : Strand := { s.me with
    held := true, ctl := { s.me.ctl with cause := 0x1F, tval := s.me.ctl.tvec, tval2 := s.me.ctl.cause.setWidth 64 } }
  have answers : exec (.handlerFault s.tid) s = .next (State.beginSave { s with me := x } s.tid .handlerFault) := by
    show execHandlerFault s.tid s = _
    rw [execHandlerFault, State.strand_self, if_pos ⟨run, priv, pc⟩, State.focus_self, fails]
    exact congrArg (fun v : State => Host.Outcome.next (v.beginSave s.tid .handlerFault)) (State.onStrand_self s _)
  obtain ⟨focused, mem, due⟩ := State.beginSave_focused (s := { s with me := x }) .handlerFault grant
  obtain ⟨ps, sl, saving⟩ := x.startSave_eq .handlerFault
  refine ⟨_, answers, ?_⟩
  rw [focused, saving]
  exact ⟨rfl, rfl, rfl, rfl, mem, due, rfl⟩

end Sys2Proof.Machine
end

section
/-! The statement about the events of the vector queue and of stores. -/

namespace Sys2Proof.Machine

open Sys2Proof

/-- Settles O53, event by event: the sequencer's handoff, slot steps and their commit, the queued trap, the write queue, replies, fetches
and handler faults, BARV, the homes and their replicas, and recheck. -/
theorem queueAndStoreEventsTakeEffect : Obligations.QueueAndStoreEventsTakeEffect := by
  rintro s t n _ rfl
  refine ⟨?_, ?_, ?_, ?_, ?_, ?_, ?_, ?_, ?_, ?_, ?_, ?_, ?_, ?_, ?_, ?_, ?_, ?_, ?_⟩
  · intro a q r
    exact leadsTo_sequencerHandoff
  · intro q entry starts steps
    exact ⟨leadsTo_slotStepStart entry starts steps, slotStepStart_rechecked entry starts steps⟩
  · intro q
    exact slotStepCommit_next
  · intro q parts
    refine ⟨State.commitStep_ended parts, fun more => ⟨fun u ran => ?_, fun u f ran => ?_⟩⟩
    · rw [State.commitStep_runs parts more ran]
      exact State.settleStep_ok s u n parts (Nat.min_le_left ..)
    · rw [State.commitStep_runs parts more ran]
      exact State.settleStep_fault s u n q _ f
  · rintro q f rfl
    rw [State.strand_self]
    exact queuedTrap_alone
  · rintro i e rfl
    rw [State.strand_self]
    exact writeQueueSend_homes
  · intro i
    exact leadsTo_storeAcknowledgement
  · rintro i p rfl
    rw [State.strand_self]
    intro answered access owner queue
    have replied := leadsTo_memoryReply answered access owner queue
    refine ⟨fun data => ?_, fun c failed => ⟨_, replied, ?_⟩⟩
    · rw [State.takeReply_data data] at replied
      exact replied
    · rw [State.takeReply_failed failed]
      exact trapped_takeTrap ..
  · exact ⟨fun bound u w => fetchFill_keeps bound, fun u b => fetchFill_fails⟩
  · rintro u a rfl
    rw [State.strand_self]
    exact handlerFault_saves
  · intro q k sc
    exact barvArrival_next
  · intro i e served entry
    exact ⟨homeRequest_store served entry, leadsTo_homeRequest_copied served entry⟩
  · intro i p
    exact homeRequest_pend
  · intro pa die
    exact leadsTo_replicaInvalidation s pa die
  · intro i e
    exact invalidationAck_performs
  · intro q r k
    exact leadsTo_recheckSecondExecution
  · intro q r bad
    exact recheckCompare_outcomes bad
  · intro q r bad nomaj
    exact recheckVote_outcomes bad nomaj
  · intro q r nomaj agree
    exact recheckRollback_outcomes nomaj agree

end Sys2Proof.Machine
end

section
/-! SUPPORT. A queued instruction that nothing stops at issue enters the vector queue (05 R156, 01 R23). -/

namespace Sys2Proof.Machine

open Sys2Proof

/-- What an instruction marks as it issues stands in the tables of its cluster. -/
theorem State.markAtIssue_shape (s : State) (op : VOp) : ∃ cs, s.markAtIssue op = { s with clusters := cs } := by
  cases op with
  | barv => exact ⟨_, rfl⟩
  | _ => exact ⟨s.clusters, rfl⟩

theorem issueV_enters {s : State} {op : VOp} {x : Word} (may : s.MayEnter op x) (len : Nat) (y : Word) :
    s.issueV len op x y = .next (if s.eager then ((s.markAtIssue op).entered len op x y).pumpFocus
      else { (s.markAtIssue op).entered len op x y with agenda := s.agenda ++ [.sequencerHandoff s.tid] }) := by
  obtain ⟨level, grant, kind, registers, own, room⟩ := may
  have context : s.me.ctl.vecOk op = true := Ctl.vecOk_iff.2 ⟨level, grant, kind⟩
  obtain ⟨cs, marks⟩ := s.markAtIssue_shape op
  simp only [State.issueV, context, registers, own, if_neg (Nat.not_le.2 room), Bool.not_true, Bool.false_eq_true, if_false, marks]
  cases s.eager with
  | true => rfl
  | false => rfl

/-- An instruction other than BARV that issues `op`. -/
theorem enters_of_issues {i : Instr} {s : State} {len : Nat} {op : VOp} {x y : Word} (unmarked : s.markAtIssue op = s)
    (issues : exec i s = s.issueV len op x y) : Enters i s len op x y := by
  intro may
  rw [issues, issueV_enters may, unmarked]

/-! ### The marks of a BARV (11 R342) -/

theorem getLsbD_markBit {m : BitVec 64} {i : Nat} {b : Bool} (small : i < 64) (j : Nat) :
    (markBit m i b).getLsbD j = if j = i then b else m.getLsbD j := by
  rw [markBit, getLsbD_setBit]
  by_cases inside : j < 64
  · simp [inside]
  · rw [BitVec.getLsbD_of_ge m j (Nat.le_of_not_lt inside), if_neg (by omega)]
    simp [inside]

/-- A BARV sets the wait mark of its context and clears its done mark, and enters the queue. -/
theorem barv_enters (s : State) (sc : Scope) (k : BitVec 5) (may : s.MayEnter (.barv k sc) 0) :
    ∃ e, e = { s.barrier s.tid.cluster k.toNat with wait := e.wait, done := e.done } ∧
      (∀ j, e.wait.getLsbD j = (decide (j = s.tid.toNat % 64) || (s.barrier s.tid.cluster k.toNat).wait.getLsbD j)) ∧
      (∀ j, e.done.getLsbD j = (!decide (j = s.tid.toNat % 64) && (s.barrier s.tid.cluster k.toNat).done.getLsbD j)) ∧
      let u := s.setBarrier s.tid.cluster k.toNat e
      exec (.barv k sc) s = .next (if s.eager then (u.entered 4 (.barv k sc) 0 0).pumpFocus
        else { u.entered 4 (.barv k sc) 0 0 with agenda := s.agenda ++ [.sequencerHandoff s.tid] }) := by
  have small : s.tid.toNat % 64 < 64 := Nat.mod_lt _ (by decide)
  refine ⟨{ s.barrier s.tid.cluster k.toNat with
      wait := markBit (s.barrier s.tid.cluster k.toNat).wait (s.tid.toNat % 64) true
      done := markBit (s.barrier s.tid.cluster k.toNat).done (s.tid.toNat % 64) false },
    rfl, fun j => ?_, fun j => ?_, issueV_enters may 4 0⟩
  · rw [getLsbD_markBit small]
    by_cases own : j = s.tid.toNat % 64 <;> simp [own]
  · rw [getLsbD_markBit small]
    by_cases own : j = s.tid.toNat % 64 <;> simp [own]

end Sys2Proof.Machine
end

section
/-! The statements about what enters the vector queue. -/

namespace Sys2Proof.Machine

open Sys2Proof

/-- Settles O47: each form issues its operation with the operands that its kind of access captures. -/
theorem vectorMemoryEntersTheQueue : Obligations.VectorMemoryEntersTheQueue := by
  intro s m od a b d sc fa fl fs
  and_intros <;> exact enters_of_issues rfl rfl

/-- Settles O48: each form issues its operation with the operands it captures. -/
theorem vectorArithmeticEntersTheQueue : Obligations.VectorArithmeticEntersTheQueue := by
  intro s i m n a b d
  and_intros <;> exact enters_of_issues rfl rfl

/-- Settles O49: each form issues its operation with the operands it captures; a BARV changes its marks on the barrier first. -/
theorem otherVectorWorkEntersTheQueue : Obligations.OtherVectorWorkEntersTheQueue := by
  intro s i x o k m n a b c d sc w vk
  and_intros
  rotate_right
  · exact barv_enters s sc
  all_goals exact enters_of_issues rfl rfl

end Sys2Proof.Machine
end

section
/-! SUPPORT. The mailbox of a core and the steps that its users make due (05 R164 to R176, 11 R334). -/

namespace Sys2Proof.Machine

open Sys2Proof

/-! ### Steps that become due -/

theorem pushed_foldl {α : Type} {f : State → α → State} (each : ∀ u a, Pushed u (f u a)) (l : List α) (s : State) :
    Pushed s (l.foldl f s) := by
  induction l generalizing s with
  | nil => exact Pushed.refl s
  | cons a l ih => exact (each s a).trans (ih _)

/-- Completions and message blocks that wait for room are looked at again, and nothing else. -/
theorem pushed_wakeMail (s : State) (core : Nat) : Pushed s (s.wakeMail core) := by
  refine pushed_foldl (fun u i => ?_) _ s
  have completion (t : Tid) (q : BitVec 2) :=
    pushed_ite (c := ((u.strand t).slot q).phase = .done ∧ ((u.strand t).slot q).msgDue = true)
    (Pushed.push u (.completionMessage t q)) (Pushed.refl u)
  dsimp only
  split
  · exact (completion ..).trans (pushed_ite (Pushed.push ..) (Pushed.refl _))
  · exact completion ..

/-- What the strand's progress makes due, a SEND that is ready to leave among it. -/
theorem State.nudge_sends (s : State) (t : Tid) :
    ∃ es, s.nudge t = s.pushAll es ∧ ((s.strand t).sendReady t = true → .sendDepart t ∈ es) := by
  cases ready : (s.strand t).sendReady t with
  | false =>
    obtain ⟨es, steps⟩ := pushed_nudge s t
    exact ⟨es, steps, fun h => absurd h Bool.false_ne_true⟩
  | true =>
    simp only [State.nudge, ready, if_true]
    obtain ⟨before, marked⟩ : Pushed s (if (s.strand t).triggerDue = true then s.push (.triggerMarkCount t) else s) :=
      pushed_ite (Pushed.push ..) (Pushed.refl s)
    rw [marked]
    generalize sent : ({ s with agenda := s.agenda ++ before } : State).push (.sendDepart t) = u
    obtain ⟨after, rest⟩ : Pushed u (if (s.strand t).exitDue = true then u.push (.exitFinish t)
        else if ((s.strand t).slots.toList.any fun sl => decide (sl.phase = .busy) && !sl.ended) &&
          !(u.agenda.any fun e => decide (e = .streamUnit (BitVec.ofNat 7 t.cluster))) then
          u.push (.streamUnit (BitVec.ofNat 7 t.cluster)) else u) :=
      pushed_ite (Pushed.push ..) (pushed_ite (Pushed.push ..) (Pushed.refl u))
    refine ⟨before ++ .sendDepart t :: after, rest.trans ?_, fun _ => by simp⟩
    subst sent
    simp [State.push, State.pushAll]

/-- With nothing outstanding the oldest SEND may leave. -/
theorem Strand.sendReady_idle {x : Strand} {m : Word × Word} {r : List (Word × Word)} (sends : x.sends = m :: r)
    (writes : x.writes = []) (seen : x.seen = []) (free : x.waits = false) (t : Tid) : x.sendReady t = true := by
  simp [Strand.sendReady, sends, free, Strand.performedAt_idle writes seen]

/-! ### The mailbox read (05 R181) -/

theorem State.mailRead_empty {s : State} (empty : s.me.msgs = []) : s.mailRead = s := by
  rw [State.mailRead, empty]

/-- With no injection armed the entry reads as it is. -/
theorem State.mailRead_unarmed {s : State} (unarmed : bitOf (s.rd (rDinj s.tid.cluster)) 63 = false) : s.mailRead = s := by
  have quiet : s.reportArmed 0x13 = none := by simp [State.reportArmed, unarmed]
  cases msgs : s.me.msgs with
  | nil => exact State.mailRead_empty msgs
  | cons => simp [State.mailRead, msgs, quiet]

/-! ### Headers (05 R163, R164) -/

theorem ofNat_fld (w : Word) (lo len : Nat) : BitVec.ofNat len (fld w lo len) = w.extractLsb' lo len := by
  rw [fld_toNat, BitVec.ofNat_toNat, BitVec.setWidth_eq]

theorem hdrKind_eq (h : Word) : hdrKind h = (h.extractLsb' 40 2).toNat := fld_toNat ..

theorem hdrCreg_eq (h : Word) : hdrCreg h = h.extractLsb' 42 5 := ofNat_fld ..

/-! ### Taking a message -/

/-- An acquire stands in the tables of its cluster. -/
theorem State.acquire_shape (s : State) (c : Nat) (sc : Scope) : ∃ cs, s.acquire c sc = { s with clusters := cs } := by
  unfold State.acquire
  split
  · exact ⟨_, rfl⟩
  · exact ⟨s.clusters, rfl⟩

theorem State.acquire_onMe (s : State) (f : Strand → Strand) (c : Nat) (sc : Scope) :
    (s.onMe f).acquire c sc = (s.acquire c sc).onMe f := by
  unfold State.acquire
  split <;> rfl

/-- `t` is `s` after a RECV that delivered the header `h` and the payload `p`, to different registers or to s0. -/
structure Received (s t : State) (d a : Reg) (h p : Word) : Prop where
  payload : t.reg d = if d = 0 then 0 else p
  header : t.reg a = if a = 0 then 0 else h
  others : ∀ q, q ≠ d → q ≠ a → t.reg q = s.reg q
  pc : t.me.pc = s.me.pc + 4
  last : t.me.ctl.ldv = decide (d ≠ 0)
  frame : KeptButRegs s t

theorem received_writes (s : State) {d a : Reg} (apart : a ≠ d ∨ d = 0) (h p : Word) :
    Received s ((s.setReg a h).writeReg 4 d p) d a h p := by
  obtain ⟨pc, payload, others, last, ld, frame⟩ := wrote_writeReg (s.setReg a h) 4 d p
  have first : ∀ q, (s.setReg a h).reg q = if q = a then (if a = 0 then 0 else h) else s.reg q := by
    intro q
    by_cases own : q = a
    · rw [own, if_pos rfl]
      exact Strand.reg_setReg_same ..
    · rw [if_neg own]
      exact Strand.reg_setReg_other _ _ own
  refine ⟨payload, ?_, fun q noD noA => (others q noD).trans ((first q).trans (if_neg noA)),
    pc.trans (by rw [State.setReg_me, Strand.setReg_pc]; rfl), last, ?_⟩
  · by_cases own : a = d
    · obtain rfl : d = 0 := apart.resolve_left (not_not_intro own)
      rw [own]
      exact payload
    · rw [others a own, first, if_pos rfl]
  · by_cases zero : a = 0
    · subst zero
      exact frame
    · rw [KeptButRegs, frame]
      simp only [State.setReg, State.onMe, Strand.setReg_reg _ _ zero]

/-- A RECV of a message goes on with the slot's completion consumed, or with an acquire at the message's scope, or with neither. -/
def State.accepted (s : State) (m : Msg) : State :=
  if hdrKind m.header = 1 then (s.consume s.tid (BitVec.ofNat 2 (fld m.header 58 2))).advanceGen s.tid.cluster
  else if hdrKind m.header = 0 then s.acquire s.tid.cluster m.scope
  else s

/-- A message that is no slot's completion. -/
theorem State.accepted_plain (s : State) {m : Msg} (r : List Msg) (es : List Event) (plain : hdrKind m.header ≠ 1) :
    ((s.onMe fun x => { x with msgs := r }).accepted m).pushAll es =
      { (if hdrKind m.header = 0 then s.acquire s.tid.cluster m.scope else s) with
        agenda := s.agenda ++ es, me := { s.me with msgs := r } } := by
  rw [State.accepted, if_neg plain]
  split
  · unfold State.acquire
    split <;> rfl
  · rfl

/-- The slot whose completion is consumed is FREE, and no message is left but some that were there. -/
theorem State.accepted_completion (s : State) {m : Msg} (completion : hdrKind m.header = 1) :
    (s.accepted m).me = { s.me.setSlot (m.header.extractLsb' 58 2)
        { s.me.slot (m.header.extractLsb' 58 2) with phase := .free, msgDue := false } with
      msgs := s.me.msgs.filter fun x => !x.isCompletion (m.header.extractLsb' 58 2) } := by
  obtain ⟨es, woken⟩ := pushed_wakeMail (s.onStrand s.tid fun x =>
    { x.setSlot (m.header.extractLsb' 58 2) { x.slot (m.header.extractLsb' 58 2) with phase := .free, msgDue := false } with
      msgs := x.msgs.filter fun x => !x.isCompletion (m.header.extractLsb' 58 2) }) s.tid.core
  rw [State.accepted, if_pos completion, ofNat_fld, State.consume, woken, State.onStrand_self]
  rfl

@[simp] theorem Strand.slot_setSlot (x : Strand) (q : BitVec 2) (sl : Slot) : (x.setSlot q sl).slot q = sl :=
  Vector.getElem_set_self ..

theorem exec_recv_empty {s : State} {d a : Reg} (apart : a ≠ d ∨ d = 0) (empty : s.me.msgs = []) :
    exec (.recv d a) s = .next ((s.setReg a emptyHeader).writeReg 4 d 0) := by
  have legal : ¬ (a = d ∧ d ≠ 0) := by tauto
  show execRecv d a s = _
  simp only [execRecv, if_neg legal, State.mailRead_empty empty, empty]

theorem exec_recv_message {s : State} {d a : Reg} {m : Msg} {r : List Msg} (apart : a ≠ d ∨ d = 0) (msgs : s.me.msgs = m :: r)
    (unarmed : bitOf (s.rd (rDinj s.tid.cluster)) 63 = false) :
    ∃ es, exec (.recv d a) s =
      .next (((((s.onMe fun x => { x with msgs := r }).accepted m).pushAll es).setReg a m.header).writeReg 4 d m.payload) := by
  have legal : ¬ (a = d ∧ d ≠ 0) := by tauto
  obtain ⟨es, woken⟩ := pushed_wakeMail
    ((((s.onMe fun x => { x with msgs := r }).accepted m).setReg a m.header).writeReg 4 d m.payload) s.tid.core
  refine ⟨es, ?_⟩
  show execRecv d a s = _
  simp only [execRecv, if_neg legal, State.mailRead_unarmed unarmed, msgs]
  exact congrArg Host.Outcome.next woken

/-! ### WAITMSG and POLLMSG -/

theorem State.waitmsg_empty {s : State} (empty : s.me.msgs = []) :
    s.waitmsg = s.onMe fun x => { x with run := .parked .waitmsg, parkedAt := s.sys.pool } := by
  simp only [State.waitmsg, State.mailRead_empty empty, empty]

theorem State.waitmsg_plain {s : State} {m : Msg} {r : List Msg} (msgs : s.me.msgs = m :: r)
    (unarmed : bitOf (s.rd (rDinj s.tid.cluster)) 63 = false) (plain : hdrCont m.header = false) : s.waitmsg = s.retire 4 none := by
  simp only [State.waitmsg, State.mailRead_unarmed unarmed, msgs, plain, Bool.false_eq_true, if_false]

theorem State.waitmsg_cont {s : State} {m : Msg} {r : List Msg} (msgs : s.me.msgs = m :: r)
    (unarmed : bitOf (s.rd (rDinj s.tid.cluster)) 63 = false) (cont : hdrCont m.header = true) :
    s.waitmsg = ((s.onMe fun x => { x with msgs := r }).takeCont s.tid m).wakeMail s.tid.core := by
  simp only [State.waitmsg, State.mailRead_unarmed unarmed, msgs, cont, if_true]

/-- A strand that wakes with a register written goes on as after any instruction that writes it. -/
theorem State.onMe_wake (s : State) (d : Reg) (v : Word) :
    (s.onMe fun x => (x.setReg d v).wake (some d)) = (s.onMe fun x => { x with run := .running, park := none }).writeReg 4 d v := by
  by_cases zero : d = 0
  · subst zero
    rfl
  · simp only [State.onMe, State.writeReg, State.setReg, State.retire, Strand.wake, Strand.setReg_reg _ _ zero]
    rfl

/-- The strand in focus takes a continuation: an acquire, and a register written. -/
theorem State.takeCont_self (s : State) (m : Msg) (r : List Msg) (es : List Event) :
    ((s.onMe fun x => { x with msgs := r }).takeCont s.tid m).pushAll es =
      ({ s.acquire s.tid.cluster m.scope with
        agenda := s.agenda ++ es, me := { s.me with msgs := r, run := .running, park := none } } : State).writeReg 4
          (hdrCreg m.header) m.payload := by
  obtain ⟨cs, acquired⟩ := s.acquire_shape s.tid.cluster m.scope
  have taken : (s.onMe fun x => { x with msgs := r }).takeCont s.tid m =
      (({ s with clusters := cs } : State).onMe fun x => { x with msgs := r }).onMe fun x =>
        (x.setReg (hdrCreg m.header) m.payload).wake (some (hdrCreg m.header)) := by
    rw [State.takeCont, State.acquire_onMe, acquired]
    exact State.onStrand_self ..
  rw [taken, State.onMe_wake, acquired]
  rfl

/-- POLLMSG gives KIND and CONT of the oldest message, and how many there are. -/
def pollWord (h : Word) (n : Nat) : Word := word ((hdrCont h).toNat * 2 ^ 10 + hdrKind h * 2 ^ 8 + n)

theorem exec_pollmsg_empty {s : State} (empty : s.me.msgs = []) (d : Reg) : exec (.pollmsg d) s = .next (s.writeReg 4 d 0) := by
  show execPollmsg d s = _
  simp only [execPollmsg, State.mailRead_empty empty, empty]

theorem exec_pollmsg_message {s : State} {m : Msg} {r : List Msg} (msgs : s.me.msgs = m :: r)
    (unarmed : bitOf (s.rd (rDinj s.tid.cluster)) 63 = false) (d : Reg) :
    exec (.pollmsg d) s = .next (s.writeReg 4 d (pollWord m.header s.me.msgs.length)) := by
  show execPollmsg d s = _
  simp only [execPollmsg, State.mailRead_unarmed unarmed, msgs]
  rfl

section
variable {h : Word} {n : Nat} (few : n ≤ 32)
include few

theorem pollWord_count : (pollWord h n).extractLsb' 0 8 = BitVec.ofNat 8 n := by
  have kind := (h.extractLsb' 40 2).isLt
  refine word_field (by decide) ?_
  rw [hdrKind_eq]
  omega

theorem pollWord_kind : (pollWord h n).extractLsb' 8 2 = h.extractLsb' 40 2 := by
  have kind := (h.extractLsb' 40 2).isLt
  refine word_field_reg (by decide) ?_
  rw [hdrKind_eq]
  omega

theorem pollWord_cont : (pollWord h n).getLsbD 10 = h.getLsbD 47 := by
  have kind := (h.extractLsb' 40 2).isLt
  have cont := (hdrCont h).toNat_le
  refine word_bit (b := hdrCont h) (by decide) ?_
  rw [hdrKind_eq]
  omega

theorem pollWord_rest : (pollWord h n).extractLsb' 11 53 = 0 := by
  have kind := (h.extractLsb' 40 2).isLt
  have cont := (hdrCont h).toNat_le
  refine word_field (m := 0) (by decide) ?_
  rw [hdrKind_eq]
  omega

end

end Sys2Proof.Machine
end

section
/-! The statements about messages that a strand sends and takes. -/

namespace Sys2Proof.Machine

open Sys2Proof

/-- Settles O39: by the header and the room of the mailbox; an accepted SEND is due at once where nothing is outstanding. -/
theorem sendReservesOrReports : Obligations.SendReservesOrReports := by
  intro s d a b
  have good_iff : fld (s.reg a) 13 29 = 0 ↔ (s.reg a).extractLsb' 13 29 = 0 := by
    rw [fld_toNat]
    exact BitVec.toNat_inj (y := 0)
  refine ⟨fun bad => ?_, fun good full => ?_, fun good room => ?_⟩
  · exact writes_next (if_pos (mt good_iff.1 bad))
  · exact writes_next ((if_neg (not_not_intro (good_iff.2 good))).trans (if_pos full))
  · let held := s.onMe fun x => { x with resv := x.resv + 1, sends := x.sends ++ [(s.reg a, s.reg b)] }
    obtain ⟨es, due, ready⟩ := (held.writeReg 4 d 0).nudge_sends s.tid
    have runs : exec (.send d a b) s = .next ((held.writeReg 4 d 0).nudge s.tid) :=
      (if_neg (not_not_intro (good_iff.2 good))).trans (if_neg (Nat.not_le.2 room))
    refine ⟨_, es, runs, ?_, fun sends writes seen free => ?_⟩
    · rw [due]
      exact wrote_writeReg (held.pushAll es) 4 d 0
    · have here : (held.writeReg 4 d 0).strand s.tid = (held.writeReg 4 d 0).me := State.strand_self _
      rw [here] at ready
      exact ready (Strand.sendReady_idle (m := (s.reg a, s.reg b)) (r := []) (by simp [held, sends])
        (by simpa [held] using writes) (by simpa [held] using seen) (by simpa [Strand.waits, held] using free) _)

/-- Settles O40: by whether a message waits, and what it is; the frame is that of the two registers written. -/
theorem recvTakesTheOldestMessage : Obligations.RecvTakesTheOldestMessage := by
  intro s d a
  refine ⟨fun same notZero => traps_next (t := s.illegal) (if_pos ⟨same, notZero⟩), fun apart empty => ?_,
    fun m r apart msgs unarmed plain => ?_, fun m r apart msgs unarmed completion => ?_, fun empty => ?_, fun m r msgs unarmed => ?_⟩
  · obtain ⟨payload, header, others, pc, -, frame⟩ := received_writes s apart emptyHeader 0
    exact ⟨_, exec_recv_empty apart empty, payload.trans (ite_self 0), header, others, pc, frame⟩
  · obtain ⟨es, runs⟩ := exec_recv_message apart msgs unarmed
    rw [s.accepted_plain r es plain] at runs
    obtain ⟨payload, header, others, pc, last, frame⟩ := received_writes _ apart m.header m.payload
    exact ⟨_, es, runs, payload, header, others, pc, last, frame⟩
  · obtain ⟨es, runs⟩ := exec_recv_message apart msgs unarmed
    have me := (s.onMe fun x => { x with msgs := r }).accepted_completion completion
    obtain ⟨payload, header, -, -, -, frame⟩ := received_writes
      (((s.onMe fun x => { x with msgs := r }).accepted m).pushAll es) apart m.header m.payload
    refine ⟨_, runs, payload, header, ?_, fun x mem => ?_⟩
    · rw [frame]
      show (((s.onMe fun x => { x with msgs := r }).accepted m).me.slot _).phase = .free
      rw [me]
      exact congrArg Slot.phase (Strand.slot_setSlot ..)
    · rw [frame] at mem
      have left : x ∈ ((s.onMe fun x => { x with msgs := r }).accepted m).me.msgs := mem
      rw [me] at left
      exact (List.mem_filter.1 left).1
  · exact writes_next (exec_pollmsg_empty empty d)
  · exact ⟨_, writes_next (exec_pollmsg_message msgs unarmed d), pollWord_count, pollWord_kind, pollWord_cont, pollWord_rest⟩

/-- Settles O41: by the oldest message; a continuation is an acquire and a register written. -/
theorem waitmsgParksOrDelivers : Obligations.WaitmsgParksOrDelivers := by
  intro s
  refine ⟨fun busy => if_pos (by simpa using busy), fun free due => ?_⟩
  have runs : exec .waitmsg s = .next s.waitmsg := if_neg (by simp [free, due])
  refine ⟨fun empty => ?_, fun unarmed m r msgs => ⟨fun plain => ?_, fun cont => ?_⟩⟩
  · rw [runs, State.waitmsg_empty empty]
    rfl
  · exact goes_retire (runs.trans (congrArg _ (State.waitmsg_plain msgs unarmed plain)))
  · obtain ⟨es, woken⟩ := pushed_wakeMail ((s.onMe fun x => { x with msgs := r }).takeCont s.tid m) s.tid.core
    have takes := (State.waitmsg_cont msgs unarmed cont).trans (woken.trans (s.takeCont_self m r es))
    refine ⟨_, es, runs.trans (congrArg _ takes), ?_⟩
    rw [← hdrCreg_eq]
    obtain ⟨cs, acquired⟩ := s.acquire_shape s.tid.cluster m.scope
    rw [acquired]
    exact wrote_writeReg ..

end Sys2Proof.Machine
end

section
/-! SUPPORT. The events of the mailboxes and of the stream engine: what travels between cores, completions of slots, units of copies and
collectives (05 R163 to R174, 11 R334 to R338, 16 R453). -/

namespace Sys2Proof.Machine

open Sys2Proof

/-! ### A context changed -/

/-- A key written twice holds what was written last, whatever the table's form. -/
theorem NMap.set_set_listed {α : Type} [DecidableEq α] {d : α} (m : NMap α) (k : Nat) {v : α} (w : α) (listed : v ≠ d) :
    NMap.set d (NMap.set d m k v) k w = NMap.set d m k w := by
  induction m with
  | nil => by_cases last : w = d <;> simp [NMap.set, listed, last]
  | cons e r ih =>
    obtain ⟨j, x⟩ := e
    by_cases below : k < j
    · by_cases last : w = d <;> simp [NMap.set, listed, last, below]
    · by_cases here : k = j
      · simp [NMap.set, listed, here]
      · simp [NMap.set, below, here, ih]

theorem State.strand_onStrand {s : State} {t : Tid} {f : Strand → Strand} (bound : f (s.strand t) ≠ Strand.unbound) :
    (s.onStrand t f).strand t = f (s.strand t) := by
  unfold State.onStrand State.setStrand State.strand at *
  by_cases here : t = s.tid
  · simp [here]
  · simp only [here, if_false] at bound ⊢
    exact NMap.get_set_listed _ _ bound

theorem State.onStrand_onStrand {s : State} {t : Tid} {f : Strand → Strand} (g : Strand → Strand)
    (bound : f (s.strand t) ≠ Strand.unbound) : (s.onStrand t f).onStrand t g = s.onStrand t fun x => g (f x) := by
  have seen := State.strand_onStrand bound
  rw [State.onStrand, seen]
  by_cases here : t = s.tid
  · simp [State.onStrand, State.setStrand, here]
  · simp only [State.onStrand, State.setStrand, here, if_false]
    rw [NMap.set_set_listed _ _ _ bound]

theorem Strand.ne_unbound_of_run {x : Strand} (bound : x.run ≠ .unbound) : x ≠ Strand.unbound := by
  rintro rfl
  exact bound rfl

theorem Strand.ne_unbound_of_slot {x : Strand} {q : BitVec 2} (used : (x.slot q).phase ≠ .free) : x ≠ Strand.unbound := by
  rintro rfl
  exact used (congrArg Slot.phase (Vector.getElem_replicate ..))

/-! ### What travels (05 R163 to R174) -/

/-- What travels between the cores becomes `l`. -/
def State.withNet (s : State) (l : List Net) : State := { s with net := l }

theorem State.netDrop_eq (s : State) (m : Net) : s.netDrop m = s.withNet (s.net.erase m) := rfl

theorem State.netAdd_eq (s : State) (m : Net) : s.netAdd m = s.withNet (s.net ++ [m]) := rfl

theorem State.strand_withNet (s : State) (l : List Net) (t : Tid) : (s.withNet l).strand t = s.strand t := rfl

theorem State.onStrand_withNet (s : State) (l : List Net) (t : Tid) (f : Strand → Strand) :
    (s.withNet l).onStrand t f = (s.onStrand t f).withNet l := by
  unfold State.onStrand State.setStrand State.withNet
  split <;> rfl

theorem leadsTo_sendDepart {s : State} {t : Tid} {h p : Word} {r : List (Word × Word)} (sends : (s.strand t).sends = (h, p) :: r)
    (ready : (s.strand t).sendReady t = true) :
    LeadsTo (.sendDepart t) s ((s.onStrand t fun y => { y with sends := r }).withNet
      (s.net ++ [{ kind := .message, header := h, payload := p, src := t, tenant := (s.strand t).ctl.tenant }])) := by
  let sent := (s.onStrand t fun y => { y with sends := r }).withNet
    (s.net ++ [{ kind := .message, header := h, payload := p, src := t, tenant := (s.strand t).ctl.tenant }])
  have runs : exec (.sendDepart t) s = .next ((sent.push (.mailboxArrival 0)).nudge t) := by
    show execSendDepart t s = _
    simp only [execSendDepart, sends, ready, if_true, State.netAdd_eq, State.onStrand_withNet, sent]
  exact leadsTo_of_pushed runs ((Pushed.push ..).trans (pushed_nudge ..))

theorem leadsTo_messageAcknowledgement {s : State} {n : Nat} {m : Net}
    (first : netPick (fun e => e.isAck && s.netFlows e) s.net n = some m)
    (free : netBehind s.net Net.isAck m = false) :
    LeadsTo (.messageAcknowledgement n) s ((s.onStrand m.src Strand.freeResv).withNet (s.net.erase m)) := by
  let woken := ((s.onStrand m.src Strand.freeResv).withNet (s.net.erase m)).wakeMail m.src.core
  obtain ⟨v, runs, pushed⟩ : ∃ v, execMessageAcknowledgement n s = .next v ∧ Pushed woken v := by
    simp only [execMessageAcknowledgement, first, free, Bool.false_eq_true, if_false, State.netDrop_eq, State.onStrand_withNet]
    split
    exacts [⟨_, rfl, Pushed.push ..⟩, ⟨_, rfl, Pushed.refl _⟩]
  exact leadsTo_of_pushed runs ((pushed_wakeMail ..).trans pushed)

/-- The message of KIND 2 that a bounce of reason `k` becomes for its sender (05 R164). -/
def Net.bounced (m : Net) (k : Nat) : Msg :=
  { header := word (fld m.header 42 22 * 2 ^ 42 + 2 * 2 ^ 40 + k * 2 ^ 37 + fld m.header 0 13), payload := m.payload, scope := .st }

theorem hdrDest_toNat (h : Word) : (hdrDest h).toNat = fld h 0 13 := Nat.mod_eq_of_lt (fld_lt h 0 13)

theorem Net.bounced_eq (m : Net) (k : Nat) :
    m.bounced k = { header := headerOf m.header 2 k (hdrDest m.header).toNat, payload := m.payload, scope := .st } := by
  rw [hdrDest_toNat]
  rfl

/-- A context that waits for nothing in its share takes a message there. -/
theorem State.deliver_waits {s : State} {t : Tid} {m : Msg} (awake : (s.strand t).run ≠ .parked .waitmsg) :
    s.deliver t m = s.onStrand t fun x => { x with msgs := x.msgs ++ [m] } := if_neg awake

section
variable {s u : State} {n k : Nat} {m : Net} (first : netPick (fun e => e.isBounce && s.netFlows e) s.net n = some m)
  (free : netBehind s.net Net.isBounce m = false) (kind : m.kind = .bounce k)
  (freed : u = (s.onStrand m.src Strand.freeResv).withNet (s.net.erase m))
include first free kind freed

/-- The sender's reservation is freed; the message that follows enters its share if it is bound. -/
theorem leadsTo_bounceArrival {v w : State} (enters : (if (u.strand m.src).bound then u.deliver m.src (m.bounced k)
    else u.wakeMail m.src.core) = v) (pushed : Pushed w v) : LeadsTo (.bounceArrival n) s w := by
  subst enters freed
  obtain ⟨v, runs, after⟩ : ∃ v, execBounceArrival n s = .next v ∧ Pushed _ v := by
    simp only [execBounceArrival, first, free, kind, Bool.false_eq_true, if_false, ← Net.bounced_eq, State.netDrop_eq,
      State.onStrand_withNet]
    split
    exacts [⟨_, rfl, Pushed.push ..⟩, ⟨_, rfl, Pushed.refl _⟩]
  exact leadsTo_of_pushed runs (pushed.trans after)

theorem leadsTo_bounceArrival_unbound (unbound : (u.strand m.src).run = .unbound) : LeadsTo (.bounceArrival n) s u := by
  refine leadsTo_bounceArrival first free kind freed (if_neg ?_) (pushed_wakeMail u _)
  simp [Strand.bound, unbound]

theorem leadsTo_bounceArrival_bound (bound : (s.strand m.src).run ≠ .unbound) (awake : (s.strand m.src).run ≠ .parked .waitmsg) :
    LeadsTo (.bounceArrival n) s ((s.onStrand m.src fun y =>
      { y with resv := y.resv - 1, msgs := y.msgs ++ [m.bounced k] }).withNet (s.net.erase m)) := by
  have listed : (s.strand m.src).freeResv ≠ Strand.unbound := Strand.ne_unbound_of_run bound
  have seen : u.strand m.src = (s.strand m.src).freeResv := by
    rw [freed]
    exact State.strand_onStrand listed
  refine leadsTo_bounceArrival first free kind freed (if_pos ?_) ?_
  · rw [seen, Strand.bound, Bool.not_eq_true', decide_eq_false_iff_not]
    exact bound
  · rw [State.deliver_waits (by rw [seen]; exact awake), freed, State.onStrand_withNet, State.onStrand_onStrand _ listed]
    exact Pushed.refl _

end

/-! ### Arrivals (05 R167, R170) -/

/-- A message as it waits in the share of its destination (05 R164). -/
def Net.arrived (m : Net) : Msg :=
  { header := word (fld m.header 42 22 * 2 ^ 42 + m.src.toNat), payload := m.payload, scope := scopeOf m.src (hdrDest m.header) }

theorem Net.arrived_eq (m : Net) :
    m.arrived = { header := headerOf m.header 0 0 m.src.toNat, payload := m.payload, scope := scopeOf m.src (hdrDest m.header) } := by
  simp [Net.arrived, headerOf]

theorem Net.arrived_cont (m : Net) : hdrCont m.arrived.header = bitOf m.header 47 := by
  have sender := m.src.isLt
  have bit : ∀ w : Word, bitOf w 47 = decide (w.toNat / 2 ^ 47 % 2 = 1) := fun _ => Nat.testBit_eq_decide_div_mod_eq
  rw [hdrCont, bit, bit, Net.arrived, BitVec.toNat_ofNat, fld_eq]
  exact decide_eq_decide.2 (by omega)

theorem Net.arrived_creg (m : Net) : hdrCreg m.arrived.header = BitVec.ofNat 5 (fld m.header 42 5) := by
  have sender := m.src.isLt
  rw [hdrCreg, Net.arrived, fld_eq, BitVec.toNat_ofNat, fld_eq, fld_eq]
  congr 1
  omega

theorem State.acquire_withNet (s : State) (l : List Net) (c : Nat) (sc : Scope) :
    (s.withNet l).acquire c sc = (s.acquire c sc).withNet l := by
  unfold State.acquire
  split <;> rfl

theorem State.deliver_withNet (s : State) (l : List Net) (t : Tid) (m : Msg) :
    (s.withNet l).deliver t m = (s.deliver t m).withNet l := by
  simp only [State.deliver, State.takeCont, State.strand_withNet, State.acquire_withNet, State.onStrand_withNet]
  split
  · split <;> rfl
  · rfl

/-- A strand parked in WAITMSG is woken by a message that is no continuation. -/
theorem State.deliver_wakes {s : State} {t : Tid} {m : Msg} (parked : (s.strand t).run = .parked .waitmsg)
    (plain : hdrCont m.header = false) :
    s.deliver t m = s.onStrand t fun x => { x with msgs := x.msgs ++ [m] }.wake none := by
  simp only [State.deliver, parked, plain, Bool.false_eq_true, if_true, if_false]

/-- A strand parked in WAITMSG takes a continuation: an acquire, and a register written. -/
theorem State.deliver_continues {s : State} {t : Tid} {m : Msg} (parked : (s.strand t).run = .parked .waitmsg)
    (cont : hdrCont m.header = true) :
    s.deliver t m = (s.acquire t.cluster m.scope).onStrand t fun x =>
      (x.setReg (hdrCreg m.header) m.payload).wake (some (hdrCreg m.header)) := by
  simp only [State.deliver, parked, cont, if_true]
  rfl

theorem Strand.wake_setReg (x : Strand) (r : Reg) (v : Word) :
    (x.setReg r v).wake (some r) = { x with
      regs := (x.setReg r v).regs, run := .running, park := none, pc := x.pc + 4
      ctl := { x.ctl with ld := if r = 0 then x.ctl.ld else r, ldv := decide (r ≠ 0) } } := by
  by_cases zero : r = 0
  · subst zero
    rfl
  · rw [Strand.wake, Strand.setReg_reg _ _ zero, Ctl.noteDest_reg _ zero, if_neg zero, decide_eq_true zero]

section
variable {s : State} {n k : Nat} {m : Net} (first : netPick (fun e => e.isMessage && s.netFlows e) s.net n = some m)
  (free : netBehind s.net Net.isMessage m = false)
include first free

theorem exec_mailboxArrival_bounced (fate : s.mailFate m = some k) : exec (.mailboxArrival n) s =
    .next ((s.withNet (s.net.erase m ++ [{ m with kind := .bounce k }])).push (.bounceArrival 0)) := by
  show execMailboxArrival n s = _
  simp only [execMailboxArrival, first, free, fate, Bool.false_eq_true, if_false]
  rfl

/-- An accepted message enters the share of its destination, and an acknowledgement goes back. -/
theorem exec_mailboxArrival_accepted (fate : s.mailFate m = none) {v : State} (enters : s.deliver (hdrDest m.header) m.arrived = v)
    (calm : v.agenda = s.agenda) : exec (.mailboxArrival n) s = .next { v with
      net := s.net.erase m ++ [{ m with kind := .ack }], agenda := s.agenda ++ [.messageAcknowledgement 0] } := by
  subst enters
  show execMailboxArrival n s = _
  simp only [execMailboxArrival, first, free, fate, Bool.false_eq_true, if_false, ← Net.arrived_eq, ← calm]
  exact congrArg (fun u : State => Host.Outcome.next (u.push (.messageAcknowledgement 0))) (s.deliver_withNet ..)

end

/-! ### The fate of an arrival (05 R167) -/

section
variable {s : State} {m : Net}

/-- The mailbox of the core of context `d` is full, or its share is (05 R165, log 62). -/
def State.mailFull (s : State) (d : Tid) : Prop :=
  32 ≤ s.mailUse d.core ∨ 32 ≤ (s.strand d).block.length + (s.strand d).msgs.length

theorem mailFate_gone (gone : (s.strand (hdrDest m.header)).run = .unbound ∨ s.coreFenced (hdrDest m.header).core = true) :
    s.mailFate m = some 2 := if_pos (by simpa [Strand.bound] using gone)

variable (bound : (s.strand (hdrDest m.header)).run ≠ .unbound) (unfenced : s.coreFenced (hdrDest m.header).core = false)
include bound unfenced

theorem mailFate_here : s.mailFate m = if (s.strand (hdrDest m.header)).ctl.tenant ≠ m.tenant then some 3
    else if 32 ≤ s.mailUse (hdrDest m.header).core ∨
      32 ≤ (s.strand (hdrDest m.header)).block.length + (s.strand (hdrDest m.header)).msgs.length then some 1
    else none := if_neg (by simp [Strand.bound, bound, unfenced])

theorem mailFate_stranger (other : (s.strand (hdrDest m.header)).ctl.tenant ≠ m.tenant) : s.mailFate m = some 3 :=
  (mailFate_here bound unfenced).trans (if_pos other)

variable (tenant : (s.strand (hdrDest m.header)).ctl.tenant = m.tenant)
include tenant

theorem mailFate_full (full : s.mailFull (hdrDest m.header)) : s.mailFate m = some 1 :=
  (mailFate_here bound unfenced).trans ((if_neg (not_not_intro tenant)).trans (if_pos full))

theorem mailFate_room (room : ¬ s.mailFull (hdrDest m.header)) : s.mailFate m = none :=
  (mailFate_here bound unfenced).trans ((if_neg (not_not_intro tenant)).trans (if_neg room))

end

/-! ### Completions of slots (11 R334, R335) -/

theorem exec_completionMessage {s : State} {t : Tid} {q : BitVec 2} (done : ((s.strand t).slot q).phase = .done)
    (due : ((s.strand t).slot q).msgDue = true) (room : s.mailUse t.core < 32) (awake : (s.strand t).run ≠ .parked .waitmsg) :
    exec (.completionMessage t q) s = .next (s.onStrand t fun y =>
      { y.setSlot q { (s.strand t).slot q with msgDue := false } with
        msgs := y.msgs ++ [{ header := completionHeader t q ((s.strand t).slot q), payload := completionPayload ((s.strand t).slot q)
                             scope := .st }] }) := by
  have listed : (s.strand t).setSlot q { (s.strand t).slot q with msgDue := false } ≠ Strand.unbound := by
    refine Strand.ne_unbound_of_slot (q := q) ?_
    rw [Strand.slot_setSlot]
    exact ne_of_eq_of_ne done (by decide)
  refine (if_pos ⟨done, due, room⟩).trans (congrArg Host.Outcome.next ?_)
  rw [State.deliver_waits (by rw [State.strand_onStrand listed]; exact awake), State.onStrand_onStrand _ listed]
  rfl

/-- A slot of a context whose copy has ended becomes DONE: its flags merge and its completion message is due. -/
def Strand.endSlot (x : Strand) (q : BitVec 2) : Strand :=
  { x.raise (x.slot q).ffl 0 with
    slots := x.slots.set q.toNat { x.slot q with
      phase := .done, ended := false, msgDue := true, coll := false, box := [], unmerged := 0 } q.isLt }

/-- The copy of slot `q` of a running context has ended, with no write to another node out and no barrier to arrive at. -/
structure Strand.Ends (x : Strand) (q : BitVec 2) : Prop where
  busy : (x.slot q).phase = .busy
  ended : (x.slot q).ended = true
  acked : ∀ p ∈ x.posted, p.own ≠ .engine q.toNat
  plain : (x.slot q).arrive = none
  running : x.run = .running

theorem exec_streamCopyDone {s : State} {t : Tid} {q : BitVec 2} (h : (s.strand t).Ends q) : exec (.streamCopyDone t q) s =
    .next (((s.onStrand t fun y => y.endSlot q).push (.completionMessage t q)).goOn t) := by
  have out : (s.strand t).engineOut q.toNat = false := by simpa [Strand.engineOut] using h.acked
  have slot : { (s.strand t).slot q with
      phase := .done, ended := false, arrive := none, msgDue := true, coll := false, box := [], unmerged := 0 } =
    ({ (s.strand t).slot q with phase := .done, ended := false, msgDue := true, coll := false, box := [], unmerged := 0 } : Slot) := by
    rw [← h.plain]
  refine (if_pos ⟨h.busy, h.ended, out⟩).trans ?_
  simp only [h.running, h.plain, Bool.false_eq_true, if_false]
  rw [slot]
  rfl

theorem State.onStrand_tid (s : State) (t : Tid) (f : Strand → Strand) : (s.onStrand t f).tid = s.tid := by
  unfold State.onStrand State.setStrand
  split <;> rfl

/-- The strand goes on with an empty queue, or step by step: nothing else changes but the agenda. -/
theorem streamCopyDone_completes {s : State} {t : Tid} {q : BitVec 2} (h : (s.strand t).Ends q) (queue : (s.strand t).queue = [])
    (calm : t = s.tid ∨ s.eager = false) : ∃ es, .completionMessage t q ∈ es ∧
      exec (.streamCopyDone t q) s = .next { s.onStrand t fun y => y.endSlot q with agenda := s.agenda ++ es } := by
  let u := (s.onStrand t fun y => y.endSlot q).push (.completionMessage t q)
  obtain ⟨es, goes⟩ : Pushed u (u.goOn t) := by
    refine pushed_goOn (calm.imp (fun here => ⟨here.trans (State.onStrand_tid ..).symm, ?_⟩) (State.onStrand_eager ..).trans)
    subst here
    rw [State.strand_self] at queue
    show ((s.onStrand s.tid fun y => y.endSlot q).me).queue = []
    rw [State.onStrand_self]
    exact queue
  refine ⟨.completionMessage t q :: es, List.mem_cons_self, (exec_streamCopyDone h).trans (congrArg _ (goes.trans ?_))⟩
  simp [u, State.push, State.onStrand_agenda]

/-! ### Units of copies (11 R338) -/

theorem exec_streamUnit_none {s : State} {c : ClusterNo}
    (idle : s.engineStep c.toNat (engineOrder (s.cluster c.toNat).engine) = none) : exec (.streamUnit c) s = .next s := by
  show execStreamUnit c s = _
  simp only [execStreamUnit, idle]

theorem leadsTo_streamUnit {s u : State} {c : ClusterNo}
    (moves : s.engineStep c.toNat (engineOrder (s.cluster c.toNat).engine) = some u)
    (steps : u.eager = false) : LeadsTo (.streamUnit c) s u := by
  let t : Tid := BitVec.ofNat 13 (64 * c.toNat + (u.cluster c.toNat).engine / 4)
  have runs : exec (.streamUnit c) s = .next ((u.resumeQueue t).push (.streamUnit c)) := by
    show execStreamUnit c s = _
    simp only [execStreamUnit, moves, steps, Bool.false_eq_true, if_false]
    rfl
  exact leadsTo_of_pushed runs ((pushed_resumeQueue_steps u t steps).trans (Pushed.push ..))

/-! ### Collectives (16 R453) -/

theorem memberOf_mem {ms : List Member} {r : Nat} {m : Member} (found : memberOf ms r = some m) : m ∈ ms :=
  List.mem_of_find?_eq_some found

/-- With one member for each rank a member is found by its rank. -/
theorem memberOf_rank {ms : List Member} {m : Member} (once : (ms.map fun m => m.rank).Nodup) (mem : m ∈ ms) :
    memberOf ms m.rank = some m := by
  induction ms with
  | nil => cases mem
  | cons x r ih =>
    rw [List.map_cons, List.nodup_cons] at once
    obtain ⟨fresh_, once⟩ := once
    rcases List.mem_cons.1 mem with rfl | mem
    · simp [memberOf]
    · have other : x.rank ≠ m.rank := fun same => fresh_ (same ▸ List.mem_map_of_mem mem)
      rw [memberOf, List.find?_cons_of_neg (by simpa using other)]
      exact ih once mem

theorem lowerStop_none {ms : List Member} (none_ : ∀ m ∈ ms, m.stop = none) :
    ms.foldl (fun st (m : Member) => lowerStop st m.stop) none = none := by
  induction ms with
  | nil => rfl
  | cons m r ih =>
    rw [List.forall_mem_cons] at none_
    rw [List.foldl_cons, none_.1]
    exact ih none_.2

/-- The members of a collective do not agree: it ends with status 4. -/
theorem State.collUnit_differs {s : State} {q : BitVec 2} {m : Member} (mem : m ∈ (s.me.slot q).members)
    (differs : m.opWord ≠ wordAt (s.me.slot q).box 0 ∨ m.seq ≠ wordAt (s.me.slot q).box 3) : s.collUnit q = some (s.endCopy q 4) :=
  if_pos (List.any_eq_true.2 ⟨m, mem, by simpa using differs⟩)

/-- The members agree, and there is no element to combine. -/
theorem State.collUnit_empty {s : State} {q : BitVec 2} (agree : ∀ m ∈ (s.me.slot q).members,
      m.opWord = wordAt (s.me.slot q).box 0 ∧ m.seq = wordAt (s.me.slot q).box 3 ∧ m.stop = none)
    (empty : fld (wordAt (s.me.slot q).box 0) 32 32 = 0) :
    s.collUnit q = some ((s.onSlot q fun x => { x with count := 0, ffl := 0 }).endCopy q 0) := by
  have same : ((s.me.slot q).members.any fun (m : Member) => !decide (m.opWord = wordAt (s.me.slot q).box 0) ||
      !decide (m.seq = wordAt (s.me.slot q).box 3)) = false := by
    rw [List.any_eq_false]
    intro m mem
    obtain ⟨word_, seq, -⟩ := agree m mem
    simp [word_, seq]
  have stop := lowerStop_none fun m mem => (agree m mem).2.2
  have count : (collOf (wordAt (s.me.slot q).box 0)).count = 0 := empty
  cases own : memberOf (s.me.slot q).members (s.ownRank (collOf (wordAt (s.me.slot q).box 0))) <;>
    simp [State.collUnit, same, stop, count, own, State.collWrites, State.collEnd]

theorem State.collRun_ended {s : State} {q : BitVec 2} (ended : (s.me.slot q).ended = true) (n : Nat) : s.collRun q n = s := by
  cases n with
  | zero => rfl
  | succ => exact if_pos ended

/-- A collective whose next unit ends it. -/
theorem State.collRun_ends {s v : State} {q : BitVec 2} (going : (s.me.slot q).ended = false) (unit : s.collUnit q = some v)
    (ended : (v.me.slot q).ended = true) (n : Nat) : s.collRun q (n + 1) = v := by
  rw [State.collRun, if_neg (ne_true_of_eq_false going), unit]
  exact State.collRun_ended ended n

theorem State.endCopy_ended (s : State) (q : BitVec 2) (status : Nat) : ((s.endCopy q status).me.slot q).ended = true :=
  congrArg Slot.ended (Strand.slot_setSlot ..)

theorem Strand.setSlot_setSlot (x : Strand) (q : BitVec 2) (a b : Slot) : (x.setSlot q a).setSlot q b = x.setSlot q b :=
  congrArg (fun l => { x with slots := l }) (Vector.set_set ..)

theorem State.onSlot_slot (s : State) (q : BitVec 2) (f : Slot → Slot) : (s.onSlot q f).me.slot q = f (s.me.slot q) :=
  Strand.slot_setSlot ..

theorem State.onSlot_onSlot (s : State) (q : BitVec 2) (f g : Slot → Slot) :
    (s.onSlot q f).onSlot q g = s.onSlot q fun sl => g (f sl) := by
  simp only [State.onSlot, State.onMe, Strand.slot_setSlot, Strand.setSlot_setSlot]

/-- The end of a copy whose slot `f` has changed. -/
theorem State.endCopy_onSlot (s : State) (q : BitVec 2) (f : Slot → Slot) (status : Nat) :
    (s.onSlot q f).endCopy q status = { s with
      me := { s.me.dropSlot q with
        slots := s.me.slots.set q.toNat { f (s.me.slot q) with status := status, buf := [], members := [], ended := true } q.isLt }
      agenda := s.agenda ++ [.streamCopyDone s.tid q] } := by
  have slot : ((s.onSlot q f).me.dropSlot q).slot q = f (s.me.slot q) := s.onSlot_slot q f
  have slots : ((s.me.slots.set q.toNat (f (s.me.slot q)) q.isLt).set q.toNat
      { f (s.me.slot q) with status := status, buf := [], members := [], ended := true } q.isLt) =
      s.me.slots.set q.toNat { f (s.me.slot q) with status := status, buf := [], members := [], ended := true } q.isLt :=
    Vector.set_set ..
  rw [← slots]
  show State.push { s with me := ((s.onSlot q f).me.dropSlot q).setSlot q { ((s.onSlot q f).me.dropSlot q).slot q with
    status := status, buf := [], members := [], ended := true } } _ = _
  rw [slot]
  rfl

/-- The collective of slot `q` of the strand in focus, by its descriptor. -/
def State.collAt (s : State) (q : BitVec 2) : Coll := collOf (wordAt (s.me.slot q).box 0)

/-- Its members: this node's own, and of `ms` those of the other ranks. -/
def State.membersWith (s : State) (q : BitVec 2) (ms : List Member) : List Member :=
  { rank := s.ownRank (s.collAt q), opWord := wordAt (s.me.slot q).box 0, seq := wordAt (s.me.slot q).box 3, elems := [], stop := none } ::
    (s.otherRanks (s.collAt q)).filterMap (memberOf ms)

/-- `s` with these members in the slot. -/
def State.gathered (s : State) (q : BitVec 2) (ms : List Member) : State :=
  s.onSlot q fun sl => { sl with members := s.membersWith q ms }

/-- The collective of slot `q` of the strand in focus has started, and `ms` holds one member for each other rank of its group. -/
structure State.Gathers (s : State) (q : BitVec 2) (ms : List Member) : Prop where
  bound : s.me.run ≠ .unbound
  busy : (s.me.slot q).phase = .busy
  coll : (s.me.slot q).coll = true
  going : (s.me.slot q).ended = false
  alone : (s.me.slot q).members = []
  started : (s.me.slot q).box ≠ []
  each : ∀ k, k ≤ fld (s.rd (rFgrpc (s.collAt q).group)) 0 4 → k ≠ s.ownRank (s.collAt q) → ∃ m ∈ ms, m.rank = k
  ranks : ∀ m ∈ ms, m.rank ≠ s.ownRank (s.collAt q) ∧ m.rank ≤ fld (s.rd (rFgrpc (s.collAt q).group)) 0 4
  once : (ms.map fun m => m.rank).Nodup

theorem State.mem_otherRanks {s : State} {c : Coll} {r : Nat} :
    r ∈ s.otherRanks c ↔ r ≤ fld (s.rd (rFgrpc c.group)) 0 4 ∧ r ≠ s.ownRank c := by
  simp [State.otherRanks, State.ownRank]

section
variable {s : State} {q : BitVec 2} {ms : List Member} (h : s.Gathers q ms)
include h

theorem State.Gathers.member {m : Member} (mem : m ∈ ms) : m ∈ s.membersWith q ms := by
  obtain ⟨other, below⟩ := h.ranks m mem
  have rank := State.mem_otherRanks.2 ⟨below, other⟩
  exact List.mem_cons_of_mem _ (List.mem_filterMap.2 ⟨m.rank, rank, memberOf_rank h.once mem⟩)

/-- The collective ends in its first unit. -/
theorem State.Gathers.exec_ends {v : State} (unit : (s.gathered q ms).collUnit q = some v) (ended : (v.me.slot q).ended = true)
    (tid : v.tid = s.tid) : exec (.collectiveComplete s.tid q ms) s = .next v := by
  have going : ((s.gathered q ms).me.slot q).ended = false := (congrArg Slot.ended (s.onSlot_slot q _)).trans h.going
  have all : ((s.otherRanks (s.collAt q)).all fun r => (memberOf ms r).isSome) = true := by
    refine List.all_eq_true.2 fun r others => ?_
    obtain ⟨below, other⟩ := State.mem_otherRanks.1 others
    obtain ⟨m, mem, rfl⟩ := h.each r below other
    rw [memberOf_rank h.once mem]
    rfl
  have runs : exec (.collectiveComplete s.tid q ms) s = .next (s.within s.tid fun u =>
      (u.onSlot q fun sl => { sl with members := s.membersWith q ms }).collRun q ((s.collAt q).count + 2)) := by
    show execCollectiveComplete s.tid q ms s = _
    unfold execCollectiveComplete
    rw [State.collAt] at all
    rw [State.strand_self]
    exact if_pos (by simp [Strand.bound, h.bound, h.busy, Slot.collOn, h.coll, h.going, h.alone, h.started, all])
  have ends := State.collRun_ends going unit ended ((s.collAt q).count + 1)
  rw [runs, State.within_self]
  · exact congrArg _ ends
  · exact (congrArg State.tid ends).trans tid

theorem State.Gathers.exec_differs
    (differs : ∃ m ∈ ms, m.opWord ≠ wordAt (s.me.slot q).box 0 ∨ m.seq ≠ wordAt (s.me.slot q).box 3) :
    exec (.collectiveComplete s.tid q ms) s = .next ((s.gathered q ms).endCopy q 4) := by
  obtain ⟨m, mem, differs⟩ := differs
  have slot := s.onSlot_slot q fun sl => { sl with members := s.membersWith q ms }
  refine h.exec_ends (State.collUnit_differs (m := m) ?_ ?_) (State.endCopy_ended ..) rfl
  · rw [State.gathered, slot]
    exact h.member mem
  · rw [State.gathered, slot]
    exact differs

theorem State.Gathers.exec_empty
    (agree : ∀ m ∈ ms, m.opWord = wordAt (s.me.slot q).box 0 ∧ m.seq = wordAt (s.me.slot q).box 3 ∧ m.stop = none)
    (empty : fld (wordAt (s.me.slot q).box 0) 32 32 = 0) :
    exec (.collectiveComplete s.tid q ms) s =
      .next (((s.gathered q ms).onSlot q fun x => { x with count := 0, ffl := 0 }).endCopy q 0) := by
  have slot := s.onSlot_slot q fun sl => { sl with members := s.membersWith q ms }
  refine h.exec_ends (State.collUnit_empty ?_ ?_) (State.endCopy_ended ..) rfl
  · rw [State.gathered, slot]
    intro m mem
    rcases List.mem_cons.1 mem with rfl | mem
    · exact ⟨rfl, rfl, rfl⟩
    · obtain ⟨r, -, found⟩ := List.mem_filterMap.1 mem
      exact agree m (memberOf_mem found)
  · rw [State.gathered, slot]
    exact empty

end

end Sys2Proof.Machine
end

section
/-! The statement about the events of messages and of the stream engine. -/

namespace Sys2Proof.Machine

open Sys2Proof

/-- Settles O54, event by event: what leaves and arrives, what comes back to a sender, the completions of slots, a unit of a copy
and the first unit of a collective whose members have come. -/
theorem messageEventsTakeEffect : Obligations.MessageEventsTakeEffect := by
  intro s t q m n
  refine ⟨?_, ?_, ?_, ?_, ?_, ?_, ?_, ?_⟩
  · intro h p r x sends ready
    exact leadsTo_sendDepart sends ready
  · intro first free d x full bounce msg
    have bounces : ∀ k, s.mailFate m = some k → bounce k := fun k fate => exec_mailboxArrival_bounced first free fate
    refine ⟨fun gone => bounces 2 (mailFate_gone gone), fun bound unfenced =>
      ⟨fun other => bounces 3 (mailFate_stranger bound unfenced other),
      fun tenant full => bounces 1 (mailFate_full bound unfenced tenant full), fun tenant room awake => ?_,
      fun tenant room parked plain => ?_, fun tenant room parked cont => ?_⟩⟩
    · exact exec_mailboxArrival_accepted first free (mailFate_room bound unfenced tenant room) (State.deliver_waits awake)
        (State.onStrand_agenda ..)
    · exact exec_mailboxArrival_accepted first free (mailFate_room bound unfenced tenant room)
        (State.deliver_wakes parked (m.arrived_cont.trans plain)) (State.onStrand_agenda ..)
    · have takes := State.deliver_continues parked (m.arrived_cont.trans cont)
      simp only [m.arrived_creg, Strand.wake_setReg] at takes
      obtain ⟨cs, acquired⟩ := s.acquire_shape d.cluster (scopeOf m.src d)
      exact exec_mailboxArrival_accepted first free (mailFate_room bound unfenced tenant room) takes
        ((State.onStrand_agenda ..).trans (by rw [acquired]))
  · exact leadsTo_messageAcknowledgement
  · intro k first free kind x u
    exact ⟨leadsTo_bounceArrival_unbound first free kind rfl, leadsTo_bounceArrival_bound first free kind rfl⟩
  · intro x sl done due room awake
    exact exec_completionMessage done due room awake
  · intro x sl busy ended acked plain running queue calm
    exact streamCopyDone_completes ⟨busy, ended, acked, plain, running⟩ queue calm
  · intro c
    exact ⟨exec_streamUnit_none, fun u => leadsTo_streamUnit⟩
  · rintro ms rfl x sl w g bound busy coll going alone started each ranks once ends
    have h : s.Gathers q ms := ⟨bound, busy, coll, going, alone, started, each, ranks, once⟩
    refine ⟨fun differs => (h.exec_differs differs).trans (congrArg _ ?_), fun agree empty =>
      (h.exec_empty agree empty).trans (congrArg _ ?_)⟩
    · rw [State.gathered, State.endCopy_onSlot]
      simp only [sl, x, h.alone]
    · rw [State.gathered, State.onSlot_onSlot, State.endCopy_onSlot]
      simp only [sl, x, h.alone]

end Sys2Proof.Machine
end

section
/-! SUPPORT. Lane storage that holds no stored error, the shapes that grant forms ask for, and the choice of lane groups (06 R186, R190,
R193, 12 R354). -/

namespace Sys2Proof.Machine

open Sys2Proof

/-! ### Lane storage without stored errors (12 R354) -/

section
variable {s : State}

theorem State.scrubWords_clean (clean : s.me.vec.regSynd = []) (f : Nat → Bool) : s.scrubWords f = s := by
  simp [State.scrubWords, clean]

theorem State.leaveStray_clean (clean : s.me.vec.regSynd = []) (f : Nat → Bool → Nat → Bool) : s.leaveStray f = s := by
  simp [State.leaveStray, clean]

theorem State.overwriteStray_clean {c : Nat} (clean : (s.cluster c).stray = []) (ps : List Nat) (f : Bool → Nat → Bool) :
    s.overwriteStray c ps f = s := by
  simp [State.overwriteStray, clean]

theorem State.migrate_clean (clean : s.me.vec.regSynd = []) (stray : (s.cluster s.tid.cluster).stray = []) (ls : List Nat)
    (sh : BitVec 6) (kept : Nat → Bool) : s.migrate ls sh kept = s := by
  rw [State.migrate, State.scrubWords_clean clean, State.leaveStray_clean clean, State.overwriteStray_clean stray]

end

/-! ### Shapes (06 R190, R191) -/

theorem shapeRegs_shapeOf (h : BitVec 5) : shapeRegs (shapeOf h) = 8 * 2 ^ (h.toNat / 8) := by
  revert h
  decide

theorem shapeVrf_shapeOf (h : BitVec 5) : shapeVrf (shapeOf h) = 4 + h.toNat / 2 % 4 := by
  revert h
  decide

/-- VLMAX is that of one lane group for each (06 R190). -/
theorem vlmaxAt_groups (k : Nat) (sh : BitVec 6) (sew : Nat) : vlmaxAt k sh sew = vlmaxAt 1 sh sew * k := by
  simp only [vlmaxAt, wordsPerReg]
  ring

theorem perGroup_eq (h : BitVec 5) (vt : BitVec 12) :
    perGroup h vt = 16 * (512 * (4 + h.toNat / 2 % 4) / (8 * 2 ^ (h.toNat / 8))) * (64 / (8 * 2 ^ (vt.toNat % 8))) := by
  rw [perGroup, vlmaxAt, wordsPerReg, shapeRegs_shapeOf, shapeVrf_shapeOf, Nat.mul_one]
  rfl

/-- The one shape with 32 registers, which may be scaled (06 R191). -/
theorem regs32_iff (h : BitVec 5) : 8 * 2 ^ (h.toNat / 8) = 32 ↔ h.toNat / 8 = 2 := by
  revert h
  decide

/-! ### What a smaller vector context keeps (06 R193) -/

theorem Vec.word_keep {v : Vec} (form : NMap.wf 0 v.regs = true) (n m e : Nat) {r w : Nat} (small : w < 65536) :
    (v.keep n m e).word r w = if r < n ∧ w < m then v.word r w else 0 := by
  have key : (65536 * r + w) / 65536 = r ∧ (65536 * r + w) % 65536 = w := by omega
  exact (NMap.get_filter_drop _ (fun k => decide (k / 65536 < n) && decide (k % 65536 < m)) (fun _ => rfl) _ form).trans
    (by simp [key, Vec.word])

theorem Vec.mask_keep {v : Vec} (form : NMap.wf false v.masks = true) (n m e : Nat) {r b : Nat} (small : b < 2 ^ 20) :
    (v.keep n m e).mask r b = if b < e then v.mask r b else false := by
  have key : (2 ^ 20 * r + b) % 2 ^ 20 = b := by omega
  exact (NMap.get_filter_drop _ (fun k => decide (k % 2 ^ 20 < e)) (fun _ => rfl) _ form).trans (by simp only [key, decide_eq_true_eq]; rfl)

/-! ### The lane groups of a grant (06 R186) -/

/-- A grant stands on a square whose lane groups are held or free, or takes the lowest free lane groups beside those it keeps. -/
theorem State.chooseLanes_cases (s : State) (c : Nat) (keep : List Nat) (g : Nat) :
    (g = 4 ∧ ∃ b, s.chooseLanes c keep g = squareOf b ∧ ∀ p ∈ squareOf b, p ∈ keep.take g ∨ p ∈ s.freeGroups c) ∨
      s.chooseLanes c keep g =
        keep.take g ++ ((s.freeGroups c).filter fun p => !(keep.take g).elem p).take (g - (keep.take g).length) := by
  by_cases four : g = 4
  · rw [State.chooseLanes, if_pos four]
    split
    · rename_i b found
      have whole := List.find?_some found
      simp only [Bool.and_eq_true, List.all_eq_true, Bool.or_eq_true, List.elem_iff] at whole
      exact .inl ⟨four, b, rfl, whole.2⟩
    · exact .inr rfl
  · rw [State.chooseLanes, if_neg four]
    exact .inr rfl

theorem State.mem_chooseLanes {s : State} {c : Nat} {keep : List Nat} {g p : Nat} (chosen : p ∈ s.chooseLanes c keep g) :
    p ∈ keep ∨ p ∈ s.freeGroups c := by
  rcases s.chooseLanes_cases c keep g with ⟨-, b, square, whole⟩ | lowest
  · exact (whole p (square ▸ chosen)).imp_left List.mem_of_mem_take
  · rw [lowest] at chosen
    rcases List.mem_append.1 chosen with kept | free
    · exact .inl (List.mem_of_mem_take kept)
    · exact .inr (List.mem_of_mem_filter (List.mem_of_mem_take free))

/-- A grant has the number of lane groups asked for, when what is held and what is free are that many. -/
theorem State.chooseLanes_length {s : State} {c : Nat} {keep : List Nat} {g : Nat} (apart : ∀ p ∈ keep, p ∉ s.freeGroups c)
    (enough : g ≤ keep.length + (s.freeGroups c).length) : (s.chooseLanes c keep g).length = g := by
  rcases s.chooseLanes_cases c keep g with ⟨four, b, square, -⟩ | lowest
  · exact (congrArg List.length square).trans four.symm
  · have others : ((s.freeGroups c).filter fun p => !(keep.take g).elem p) = s.freeGroups c := by
      refine List.filter_eq_self.2 fun p free => ?_
      simpa using fun kept => apart p (List.mem_of_mem_take kept) free
    rw [lowest, others, List.length_append, List.length_take, List.length_take]
    omega

end Sys2Proof.Machine
end

section
/-! SUPPORT. What the grant forms do once they have passed their checks (06 R191 to R193, R205). -/

namespace Sys2Proof.Machine

open Sys2Proof

/-! ### A result of a class V instruction of the scalar stream -/

theorem State.writeRegV_eq (s : State) (n : Nat) (d : Reg) (v : Word) : s.writeRegV n d v =
    { s with me := { s.me.setReg d v with pc := s.me.pc + word n, ctl := { s.me.ctl with ldv := false } } } := by
  simp [State.writeRegV, State.retire, State.setReg, State.onMe, Ctl.noteDest]

theorem Strand.setReg_update (x : Strand) (d : Reg) (v : Word) (run : Run) (park : Option Park) (mark : Option Mark)
    (grant : Option GrantHold) (vec : Vec) (ctl : Ctl) :
    Strand.setReg { x with run := run, park := park, mark := mark, grant := grant, vec := vec, ctl := ctl } d v =
      { x.setReg d v with run := run, park := park, mark := mark, grant := grant, vec := vec, ctl := ctl } := by
  by_cases zero : d = 0
  · subst zero
    rfl
  · simp only [Strand.setReg_reg _ _ zero]

/-! ### Completion (06 R193) -/

/-- The vector context that a grant of `k` lane groups leaves, its lane groups aside. -/
def State.grantedVec (s : State) (z : Bool) (h : BitVec 5) (k : Nat) : Vec :=
  let sew := vtSew s.me.ctl.vt
  let w := (min s.me.ctl.vl.toNat (vlmaxAt k (shapeOf h) sew) * sew + 63) / 64
  if k = s.me.ctl.lg.toNat ∧ shapeOf h = s.me.ctl.shape then s.me.vec
  else if z = true ∨ s.me.ctl.lg = 0 then Vec.empty
  else s.me.vec.keep (min (shapeRegs (shapeOf h)) (shapeRegs s.me.ctl.shape)) w (w * (64 / sew))

/-- `s` once a grant form has consumed the mark (06 R205). -/
def State.unmarked (s : State) : State := s.onMe fun x => { x with mark := none }

/-- `s` after a grant of `k` lane groups, which leaves the vector context `v`; the mark is consumed. -/
def State.granted (s : State) (d : Reg) (req : Word) (h : BitVec 5) (k : Nat) (v : Vec) : State :=
  let n := min req.toNat (perGroup h s.me.ctl.vt * k)
  { s with me := { s.me.setReg d (word n) with
      run := .running, park := none, mark := none, grant := none, pc := s.me.pc + 4, vec := v
      ctl := { s.me.ctl with
        lg := BitVec.ofNat 4 k, shape := shapeOf h, vl := BitVec.ofNat 32 n, sql := false, ldv := false } } }

theorem State.finishGrant_unmarked {s : State} (clean : s.me.vec.regSynd = []) (stray : (s.cluster s.tid.cluster).stray = [])
    (z : Bool) (d : Reg) (req : Word) (h : BitVec 5) (ls : List Nat) :
    s.unmarked.finishGrant z d req h ls = s.granted d req h ls.length { s.grantedVec z h ls.length with lanes := ls } := by
  have settled := State.migrate_clean (s := s.unmarked) clean stray
  unfold State.finishGrant State.granted State.grantedVec
  simp only [settled, ite_self, vlmaxAt_groups ls.length, State.writeRegV_eq, Strand.setReg_update, decide_eq_true_eq,
    Bool.or_eq_true]
  simp only [State.unmarked, State.onMe, Strand.setReg_update]
  rfl

theorem State.grantedVec_same {s : State} {h : BitVec 5} {k : Nat} (number : k = s.me.ctl.lg.toNat) (shape : shapeOf h = s.me.ctl.shape)
    (z : Bool) : s.grantedVec z h k = s.me.vec := if_pos ⟨number, shape⟩

theorem State.grantedVec_new {s : State} {h : BitVec 5} {k : Nat} {z : Bool}
    (differs : ¬(k = s.me.ctl.lg.toNat ∧ shapeOf h = s.me.ctl.shape)) (none_ : z = true ∨ s.me.ctl.lg = 0) :
    s.grantedVec z h k = Vec.empty := (if_neg differs).trans (if_pos none_)

theorem State.grantedVec_kept {s : State} {h : BitVec 5} {k : Nat} (differs : ¬(k = s.me.ctl.lg.toNat ∧ shapeOf h = s.me.ctl.shape))
    (holds : s.me.ctl.lg ≠ 0) : s.grantedVec false h k =
      let w := (min s.me.ctl.vl.toNat (perGroup h s.me.ctl.vt * k) * vtSew s.me.ctl.vt + 63) / 64
      s.me.vec.keep (min (8 * 2 ^ (h.toNat / 8)) (shapeRegs s.me.ctl.shape)) w (w * (64 / vtSew s.me.ctl.vt)) := by
  unfold State.grantedVec
  rw [if_neg differs, if_neg (by simpa using holds), shapeRegs_shapeOf, vlmaxAt_groups]
  rfl

/-- The state after a release, field by field (06 R191). -/
theorem State.release_eq (s : State) (d : Reg) : (((s.onMe Strand.release).writeRegV 4 d 0).onCtl fun k => { k with sql := false }) =
    { s with me := { s.me.setReg d 0 with
        mark := none, grant := none, vec := Vec.empty, pc := s.me.pc + 4
        ctl := { s.me.ctl with lg := 0, vl := 0, shape := 0, mt := false, sql := false, ldv := false } } } := by
  simp only [State.writeRegV_eq, State.onMe, State.onCtl, Strand.release, Strand.setReg_update, Strand.setReg_run, Strand.setReg_park]
  rfl

/-! ### The checks (06 R191, 04 R144) -/

/-- A grant form with this shape code meets no check. -/
structure State.GrantPasses (s : State) (h : BitVec 5) : Prop where
  code : h.toNat / 8 ≠ 3
  level : s.me.ctl.priv = .app
  scalable : h.toNat % 2 = 1 → h.toNat / 8 = 2
  noMatrix : s.me.ctl.mt = false
  scaled : s.me.ctl.vt.getLsbD 11 = true → h.toNat % 2 = 1

theorem State.grantForm_illegal (s : State) {h : BitVec 5} (code : h.toNat / 8 = 3) (z nb : Bool) (d a : Reg) :
    s.grantForm z nb d a h = s.trap s.illegal := if_pos code

theorem State.grantForm_badVec (s : State) {h : BitVec 5} (code : h.toNat / 8 ≠ 3) (fails : ¬s.GrantPasses h) (z nb : Bool) (d a : Reg) :
    s.grantForm z nb d a h = s.trap s.badVec := by
  refine (if_neg code).trans (if_pos ?_)
  by_contra passes
  simp only [State.vecLevel, vtScaled, Bool.or_eq_true, Bool.not_eq_true', Bool.and_eq_true, decide_eq_true_eq, decide_eq_false_iff_not,
    not_or, not_and, not_not, Bool.not_eq_true] at passes
  obtain ⟨⟨⟨level, scalable⟩, noMatrix⟩, scaled⟩ := passes
  exact fails ⟨code, level, scalable, noMatrix, fun bit => by have := scaled bit; omega⟩

section
variable {s : State} {h : BitVec 5} (passes : s.GrantPasses h) {a : Reg}
include passes

theorem State.GrantPasses.unchecked : (!s.vecLevel || (decide (h.toNat % 2 = 1) && !decide (h.toNat / 8 = 2)) || s.me.ctl.mt
    || (vtScaled s.me.ctl.vt && decide (h.toNat % 2 = 0))) = false := by
  obtain ⟨-, level, scalable, noMatrix, scaled⟩ := passes
  have gang : (decide (h.toNat % 2 = 1) && !decide (h.toNat / 8 = 2)) = false := by simpa using scalable
  have element : (vtScaled s.me.ctl.vt && decide (h.toNat % 2 = 0)) = false := by
    by_contra even
    simp only [vtScaled, Bool.not_eq_false, Bool.and_eq_true, decide_eq_true_eq] at even
    have := scaled even.1
    omega
  simp [State.vecLevel, level, noMatrix, gang, element]

/-- A request of 0 with nothing queued releases (06 R191). -/
theorem State.GrantPasses.release (zero : s.reg a = 0) (queue : s.me.queue = []) (slots : s.me.regSlotBusy = false)
    (clean : s.me.vec.regSynd = []) (z nb : Bool) (d : Reg) : s.grantForm z nb d a h =
      .next ((((s.onMe Strand.release).writeRegV 4 d 0).onCtl fun k => { k with sql := false }).assignLanes s.tid.cluster s.me.marksFor) := by
  simp [State.grantForm, passes.code, passes.unchecked, zero, queue, slots, State.leaveStray_clean clean]

variable (asks : s.reg a ≠ 0) (first : s.me.grant = none)
include asks first

/-- With nothing that Allocate can give, VGRANT.NB answers 0 and the others wait (06 R192). -/
theorem State.GrantPasses.nothing (none_ : s.allocate (wantOf h s.me.ctl.vt (s.reg a)) = none) (z nb : Bool) (d : Reg) :
    s.grantForm z nb d a h = .next (if nb then (s.writeRegV 4 d 0).onCtl fun k => { k with sql := false }
      else s.waitLanes (.grant z d (s.reg a) h)) := by
  simp only [State.grantForm, if_neg passes.code, passes.unchecked, if_neg asks, first, none_]
  cases nb <;> rfl

/-- A mark that leaves nothing squalls the strand (06 R205). -/
theorem State.GrantPasses.squall (all : s.allocate (wantOf h s.me.ctl.vt (s.reg a)) = some 0) (z nb : Bool) (d : Reg) :
    s.grantForm z nb d a h = .next (s.beginSave s.tid .squall) := by
  simp only [State.grantForm, if_neg passes.code, passes.unchecked, if_neg asks, first, all]
  rfl

/-- What Allocate gives is taken, and the mark is consumed (06 R192, R205). -/
theorem State.GrantPasses.takes {k : Nat} (some_ : s.allocate (wantOf h s.me.ctl.vt (s.reg a)) = some k) (pos : 1 ≤ k) (z nb : Bool)
    (d : Reg) : s.grantForm z nb d a h = .next (s.unmarked.takeGrant z d (s.reg a) h
      ⟨s.chooseLanes s.tid.cluster s.me.vec.lanes k, s.me.marksFor⟩) := by
  obtain ⟨m, rfl⟩ : ∃ m, k = m + 1 := ⟨k - 1, by omega⟩
  simp only [State.grantForm, if_neg passes.code, passes.unchecked, if_neg asks, first, some_]
  rfl

end

/-! ### Past Allocate (06 R191, R194) -/

section
variable {s : State} {h : BitVec 5} {k : GrantHold} (z : Bool) (d : Reg) (req : Word)

/-- A grant that keeps number and shape keeps the vector context, and waits for nothing. -/
theorem State.takeGrant_same (clean : s.me.vec.regSynd = []) (stray : (s.cluster s.tid.cluster).stray = [])
    (held : s.me.vec.lanes.length = s.me.ctl.lg.toNat) (number : k.lanes.length = s.me.vec.lanes.length)
    (shape : shapeOf h = s.me.ctl.shape) :
    s.unmarked.takeGrant z d req h k = s.granted d req h s.me.vec.lanes.length s.me.vec := by
  have same : s.unmarked.takeGrant z d req h k = s.unmarked.finishGrant z d req h s.me.vec.lanes := if_pos ⟨number.trans held, shape⟩
  rw [same, State.finishGrant_unmarked clean stray, State.grantedVec_same held shape]

variable (differs : ¬(k.lanes.length = s.me.ctl.lg.toNat ∧ shapeOf h = s.me.ctl.shape))
include differs

/-- Another keeps its lane groups reserved while the queue drains. -/
theorem State.takeGrant_held (busy : s.me.queue ≠ [] ∨ s.me.regSlotBusy = true) :
    s.unmarked.takeGrant z d req h k = { s with me := { s.me with mark := none, grant := some k } } := by
  have drains : (!s.me.queue.isEmpty || s.me.regSlotBusy) = true := by simpa using busy
  exact (if_neg differs).trans (if_pos drains)

variable (queue : s.me.queue = []) (slots : s.me.regSlotBusy = false)
include queue slots

theorem State.takeGrant_completes (clean : s.me.vec.regSynd = []) (stray : (s.cluster s.tid.cluster).stray = [])
    (eager : s.eager = true) : s.unmarked.takeGrant z d req h k =
      (s.granted d req h k.lanes.length { s.grantedVec z h k.lanes.length with lanes := k.lanes }).giveLanes
        s.me.vec.lanes.length k.lanes k.first := by
  have idle : ¬(!s.me.queue.isEmpty || s.me.regSlotBusy) = true := by simp [queue, slots]
  rw [← State.finishGrant_unmarked clean stray]
  exact ((if_neg differs).trans (if_neg idle)).trans (if_pos eager)

theorem State.takeGrant_waits (steps : s.eager = false) : s.unmarked.takeGrant z d req h k =
    { s with
      agenda := s.agenda ++ [.grantComplete s.tid]
      me := { s.me with run := .granting z d req h k.lanes.length, mark := none, grant := some k } } := by
  have idle : ¬(!s.me.queue.isEmpty || s.me.regSlotBusy) = true := by simp [queue, slots]
  exact ((if_neg differs).trans (if_neg idle)).trans (if_neg (Bool.eq_false_iff.1 steps))

end

/-! ### Allocate (06 R192) -/

section
variable {s : State} (want : Nat)

theorem State.allocate_marked {m : Mark} (mark : s.me.mark = some m) : s.allocate want = some (min want m.target) := by
  simp only [State.allocate, mark]

variable (unmarked : s.me.mark = none)
include unmarked

theorem State.allocate_nothing (holds : s.me.vec.lanes.length = 0)
    (none_ : s.room s.tid.cluster s.me.ctl.tenant.toNat = 0 ∨ (s.freeGroups s.tid.cluster).length = 0 ∨
      s.heldBack s.tid.cluster s.me.ctl.tenant.toNat = true) : s.allocate want = none := by
  simp only [State.allocate, unmarked, holds, if_true, if_pos none_]

theorem State.allocate_first (holds : s.me.vec.lanes.length = 0) (room : s.room s.tid.cluster s.me.ctl.tenant.toNat ≠ 0)
    (free : (s.freeGroups s.tid.cluster).length ≠ 0) (ahead : s.heldBack s.tid.cluster s.me.ctl.tenant.toNat = false) :
    s.allocate want = some (min want (min (s.room s.tid.cluster s.me.ctl.tenant.toNat) (s.freeGroups s.tid.cluster).length)) := by
  simp [State.allocate, unmarked, holds, room, free, ahead]

theorem State.allocate_more (holds : 1 ≤ s.me.vec.lanes.length) : s.allocate want = some (min want (s.me.vec.lanes.length +
    if (s.cluster s.tid.cluster).waiting = [] ∧ (s.cluster s.tid.cluster).suspended = [] then
      min (s.room s.tid.cluster s.me.ctl.tenant.toNat) (s.freeGroups s.tid.cluster).length else 0)) := by
  have some_ : s.me.vec.lanes.length ≠ 0 := by omega
  simp only [State.allocate, unmarked, if_neg some_, State.crowded, Bool.or_eq_true, Bool.not_eq_true', List.isEmpty_eq_false_iff]
  by_cases quiet : (s.cluster s.tid.cluster).waiting = [] ∧ (s.cluster s.tid.cluster).suspended = []
  · simp [quiet]
  · rw [if_neg quiet, if_pos (by tauto)]

end

/-- What Allocate gives, by the mark, the lane groups held, and what is free (06 R192). -/
theorem State.allocate_gives {s : State} {want k : Nat} (pos : 1 ≤ k) (byMark : ∀ m, s.me.mark = some m → k = min want m.target)
    (byMore : s.me.mark = none → 1 ≤ s.me.vec.lanes.length → k = min want (s.me.vec.lanes.length +
      if (s.cluster s.tid.cluster).waiting = [] ∧ (s.cluster s.tid.cluster).suspended = [] then
        min (s.room s.tid.cluster s.me.ctl.tenant.toNat) (s.freeGroups s.tid.cluster).length else 0))
    (byFirst : s.me.mark = none → s.me.vec.lanes.length = 0 → s.heldBack s.tid.cluster s.me.ctl.tenant.toNat = false ∧
      k = min want (min (s.room s.tid.cluster s.me.ctl.tenant.toNat) (s.freeGroups s.tid.cluster).length)) :
    s.allocate want = some k := by
  cases mark : s.me.mark with
  | some m => rw [State.allocate_marked _ mark, byMark m mark]
  | none =>
    by_cases holds : s.me.vec.lanes.length = 0
    · obtain ⟨ahead, number⟩ := byFirst mark holds
      rw [State.allocate_first _ mark holds (by omega) (by omega) ahead, number]
    · have holds : 1 ≤ s.me.vec.lanes.length := by omega
      rw [State.allocate_more _ mark holds, byMore mark holds]

/-! ### Waiting and serving (06 R192, R201) -/

/-- With nothing waiting and nothing suspended, lane groups that come free serve nobody. -/
theorem State.assignLanes_idle {s : State} {c : Nat} (waiting : (s.cluster c).waiting = []) (suspended : (s.cluster c).suspended = []) :
    s.assignLanes c none = s := by
  have quiet : s.resumable c = [] := by simp [State.resumable, suspended]
  simp [State.assignLanes, quiet, State.requests, waiting]

/-- The clocks of parked strands written anew: no cluster changes, and of the strand in focus neither the pc nor a control register. -/
theorem State.reclock_frame (n : Nat) (ts : List Tid) (s : State) :
    let u := ts.foldl (fun (s : State) t => s.onStrand t fun x => { x with parkedAt := n }) s
    u.tid = s.tid ∧ u.clusters = s.clusters ∧ u.me.pc = s.me.pc ∧ u.me.ctl = s.me.ctl := by
  induction ts generalizing s with
  | nil => exact ⟨rfl, rfl, rfl, rfl⟩
  | cons t ts ih =>
    obtain ⟨tid, clusters, pc, ctl⟩ := ih (s.onStrand t fun x => { x with parkedAt := n })
    rw [List.foldl_cons]
    by_cases here : t = s.tid
    · subst here
      rw [State.onStrand_self] at tid clusters pc ctl ⊢
      exact ⟨tid, clusters, pc, ctl⟩
    · rw [State.onStrand, State.setStrand, if_neg here] at tid clusters pc ctl ⊢
      exact ⟨tid, clusters, pc, ctl⟩

theorem State.noteWait_frame {s : State} (form : NMap.wf Cluster.reset s.clusters = true) (c : Nat) :
    (s.noteWait c).tid = s.tid ∧ ((s.noteWait c).cluster c).waiting = (s.cluster c).waiting ∧
      (s.noteWait c).me.pc = s.me.pc ∧ (s.noteWait c).me.ctl = s.me.ctl := by
  obtain ⟨tid, clusters, pc, ctl⟩ := State.reclock_frame s.sys.pool
    ((s.clusterTids c).filter fun t => (s.strand t).relocates && !s.othersWait t) s
  unfold State.noteWait
  split
  · exact ⟨tid, by rw [State.cluster, clusters]; rfl, pc, ctl⟩
  · refine ⟨tid, ?_, pc, ctl⟩
    rw [State.cluster, State.onCluster_clusters, State.cluster, clusters, NMap.get_set_same c _ form]
    rfl

/-- A request that waits stands behind those that wait already, at its instruction (06 R192). -/
theorem State.waitLanes_waits {s : State} (form : NMap.wf Cluster.reset s.clusters = true) (p : Park) :
    (s.waitLanes p).me.run = .parked p ∧
      ((s.waitLanes p).cluster s.tid.cluster).waiting = (s.cluster s.tid.cluster).waiting ++ [s.tid] ∧
      (s.waitLanes p).me.pc = s.me.pc ∧ (s.waitLanes p).me.ctl = s.me.ctl := by
  obtain ⟨-, waiting, pc, ctl⟩ := State.noteWait_frame form s.tid.cluster
  refine ⟨rfl, ?_, pc, ctl⟩
  unfold State.waitLanes
  rw [State.cluster, State.onCluster_clusters, NMap.get_set_listed]
  · exact congrArg (· ++ [s.tid]) waiting
  · exact fun reset => List.append_ne_nil_of_right_ne_nil _ (by simp) (congrArg Cluster.waiting reset)

end Sys2Proof.Machine
end

section
/-! The statement about the grant forms. -/

namespace Sys2Proof.Machine

open Sys2Proof

/-- The three grant forms, by what they share. -/
theorem exec_grantForms {s : State} {d a : Reg} {h : BitVec 5} {r : Result} (each : ∀ z nb, s.grantForm z nb d a h = r) :
    ∀ i ∈ [Instr.vgrant d a h, .vgrantNb d a h, .vgrantZ d a h], exec i s = r := by
  intro i form
  simp only [List.mem_cons, List.not_mem_nil, or_false] at form
  rcases form with rfl | rfl | rfl
  exacts [each false false, each false true, each true false]

theorem exec_keepingForms {s : State} {d a : Reg} {h : BitVec 5} {r : Result} (each : ∀ nb, s.grantForm false nb d a h = r) :
    ∀ i ∈ [Instr.vgrant d a h, .vgrantNb d a h], exec i s = r := by
  intro i form
  simp only [List.mem_cons, List.not_mem_nil, or_false] at form
  rcases form with rfl | rfl
  exacts [each false, each true]

theorem exec_grantForm {s : State} {d a : Reg} {h : BitVec 5} {z : Bool} {i : Instr}
    (form : (i = .vgrantZ d a h ∧ z = true) ∨ ((i = .vgrant d a h ∨ i = .vgrantNb d a h) ∧ z = false)) :
    ∃ nb, exec i s = s.grantForm z nb d a h := by
  rcases form with ⟨rfl, rfl⟩ | ⟨rfl | rfl, rfl⟩
  exacts [⟨false, rfl⟩, ⟨false, rfl⟩, ⟨true, rfl⟩]

theorem traps_grantForms {s : State} {d a : Reg} {h : BitVec 5} {t : Trap} (each : ∀ z nb, s.grantForm z nb d a h = s.trap t) :
    Traps (.vgrant d a h) s (BitVec.ofNat 7 t.cause) t.tval t.tval2 ∧ Traps (.vgrantNb d a h) s (BitVec.ofNat 7 t.cause) t.tval t.tval2 ∧
      Traps (.vgrantZ d a h) s (BitVec.ofNat 7 t.cause) t.tval t.tval2 :=
  ⟨traps_next (each false false), traps_next (each false true), traps_next (each true false)⟩

/-- Settles O43: past its checks a grant form releases, waits, begins a squall, or takes what Allocate gives by what it keeps and whether
the queue is empty. -/
theorem grantFormsGrant : Obligations.GrantFormsGrant := by
  intro s d a h c n v sh sew per want room free g spare vlOf granted released W regs kept
  refine ⟨fun code => traps_grantForms (s.grantForm_illegal code · · d a), fun code bad => ?_, fun wr wm r w b => ?_,
    fun code level gang plain scaled _ first clean stray form number _ => ?_⟩
  · refine traps_grantForms (s.grantForm_badVec code (fun passes => ?_) · · d a)
    rcases bad with above | ⟨odd, wrong⟩ | matrix | ⟨element, even⟩
    · exact above passes.level
    · exact wrong ((regs32_iff h).2 (passes.scalable odd))
    · exact Bool.false_ne_true (passes.noMatrix.symm.trans matrix)
    · exact absurd (passes.scaled element) (by omega)
  · constructor
    · split
      · exact Vec.word_keep wr regs (W g) (W g * (64 / sew)) ‹_›
      · rfl
    · split
      · exact Vec.mask_keep wm regs (W g) (W g * (64 / sew)) ‹_›
      · rfl
  have passes : s.GrantPasses h := ⟨code, level, fun odd => (regs32_iff h).1 (gang odd), plain, scaled⟩
  have perOf : perGroup h s.me.ctl.vt = per := perGroup_eq ..
  have asked : wantOf h s.me.ctl.vt (s.reg a) = want := by rw [wantOf, perOf]
  refine ⟨fun zero queue slots => ⟨exec_grantForms fun z nb => ?_, fun waiting suspended unmarked => ?_⟩,
    fun asks unmarked holds none_ => ?_, fun asks ⟨m, marked, all⟩ => exec_grantForms (passes.squall asks first ?_ · · d),
    fun k asks pos byMark byMore byFirst apart enough => ?_⟩
  · rw [passes.release zero queue slots clean, State.release_eq]
  · rw [Strand.marksFor, unmarked]
    exact State.assignLanes_idle (s := released) waiting suspended
  · have nothing := passes.nothing asks first (State.allocate_nothing _ unmarked holds none_)
    refine ⟨(nothing false true d).trans ?_, ⟨_, nothing false false d, State.waitLanes_waits form _⟩,
      ⟨_, nothing true false d, State.waitLanes_waits form _⟩⟩
    rw [State.writeRegV_eq]
    rfl
  · rw [State.allocate_marked _ marked, all, Nat.min_zero]
  have gives : s.allocate (wantOf h s.me.ctl.vt (s.reg a)) = some k := by
    rw [asked]
    exact State.allocate_gives pos byMark byMore byFirst
  obtain ⟨ls, chosen⟩ : ∃ ls, s.chooseLanes c s.me.vec.lanes k = ls := ⟨_, rfl⟩
  have length : ls.length = k := chosen ▸ State.chooseLanes_length apart enough
  have takes : ∀ z nb, s.grantForm z nb d a h = .next (s.unmarked.takeGrant z d (s.reg a) h ⟨ls, s.me.marksFor⟩) := fun z nb =>
    chosen ▸ passes.takes asks first gives pos z nb d
  have grants : ∀ w, s.granted d (s.reg a) h k w = granted k w := fun w => by
    rw [State.granted, perOf]
    rfl
  refine ⟨fun same shape => exec_grantForms fun z nb => (takes z nb).trans (congrArg _ ?_), fun differs => ?_, fun v ms kept => ?_⟩
  · rw [State.takeGrant_same z d _ clean stray number.symm (length.trans same) shape.symm, ← grants, same]
  · have differs : ¬(ls.length = s.me.ctl.lg.toNat ∧ shapeOf h = s.me.ctl.shape) := fun ⟨same, shape⟩ =>
      differs.elim (· (length.symm.trans (same.trans number))) (· shape.symm)
    refine ⟨ls, length, fun p mem => State.mem_chooseLanes (chosen ▸ mem), fun busy => exec_grantForms fun z nb => ?_,
      fun queue slots => ⟨fun eager => ?_, fun steps z i form => ?_⟩⟩
    · exact (takes z nb).trans (congrArg _ (State.takeGrant_held z d _ differs busy))
    · have completes : ∀ z nb, s.grantForm z nb d a h =
          .next ((granted k { s.grantedVec z h k with lanes := ls }).giveLanes g ls s.me.marksFor) := fun z nb => by
        rw [takes, State.takeGrant_completes z d _ differs queue slots clean stray eager, length, grants]
      rw [length] at differs
      refine ⟨(completes true false).trans ?_, exec_keepingForms fun nb => (completes false nb).trans ?_⟩
      · rw [State.grantedVec_new differs (.inl rfl)]
      · by_cases none_ : g = 0
        · have noGrant : s.me.ctl.lg = 0 := BitVec.eq_of_toNat_eq (number.trans none_)
          rw [State.grantedVec_new differs (.inr noGrant), if_pos none_]
        · have holds : s.me.ctl.lg ≠ 0 := fun zero => none_ (number.symm.trans (congrArg BitVec.toNat zero))
          rw [State.grantedVec_kept differs holds, perOf, if_neg none_]
          rfl
    · obtain ⟨nb, runs⟩ := exec_grantForm form
      rw [runs, takes, State.takeGrant_waits z d _ differs queue slots steps, length]
  · exact if_neg (by omega)

end Sys2Proof.Machine
end
section
/-! SUPPORT. VTYPE and the matrix-mode instructions of the scalar stream (06 R195, 10 R293, R294, R297, 04 R144). -/

namespace Sys2Proof.Machine

open Sys2Proof

section
variable {s : State}

/-! ### MTENTER completes (10 R293) -/

theorem State.finishEnter_clean (stray : (s.cluster s.tid.cluster).stray = []) (ls : List Nat) : s.finishEnter ls =
    { s with me := { s.me with
        run := .running, park := none, grant := none, pc := s.me.pc + 4, vec := { s.me.vec.noTiles with lanes := ls }
        ctl := { s.me.ctl with mt := true, ldv := false } } } := by
  rw [State.finishEnter, State.overwriteStray_clean stray]
  rfl

/-! ### Above application level, or without a grant (04 R144) -/

theorem State.noContext (lacks : s.me.ctl.priv ≠ .app ∨ s.me.ctl.lg = 0) : (!s.vecLevel || decide (s.me.ctl.lg = 0)) = true := by
  simpa [State.vecLevel] using lacks

theorem State.hasContext (level : s.me.ctl.priv = .app) (grant : s.me.ctl.lg ≠ 0) :
    ¬(!s.vecLevel || decide (s.me.ctl.lg = 0)) = true := by
  simp only [State.vecLevel, level, decide_eq_false grant]
  decide

section
variable (lacks : s.me.ctl.priv ≠ .app ∨ s.me.ctl.lg = 0)
include lacks

theorem exec_vtype_noContext (d a : Reg) : exec (.vtype d a) s = s.trap s.badVec := if_pos (by rw [State.noContext lacks, Bool.true_or])

theorem exec_mtenter_noContext (g : Bool) : exec (.mtenter g) s = s.trap s.badVec := if_pos (State.noContext lacks)

theorem exec_mtexit_noContext : exec .mtexit s = s.trap s.badVec := if_pos (State.noContext lacks)

theorem exec_tedge_noContext (a b : Reg) : exec (.tedge a b) s = s.trap s.badVec := if_pos (State.noContext lacks)

end

variable (level : s.me.ctl.priv = .app) (grant : s.me.ctl.lg ≠ 0)
include level grant

/-! ### VTYPE (06 R195) -/

section
variable {d a : Reg}

theorem State.vtypeGoes (legal : legalVt (s.reg a) s.me.ctl.shape = true) :
    ¬(!s.vecLevel || decide (s.me.ctl.lg = 0) || !legalVt (s.reg a) s.me.ctl.shape) = true := by
  rw [legal, Bool.not_true, Bool.or_false]
  exact State.hasContext level grant

theorem exec_vtype_illegal (bad : legalVt (s.reg a) s.me.ctl.shape = false ∨
    vlmaxAt s.me.ctl.lg.toNat s.me.ctl.shape (sewBits (fld (s.reg a) 0 3)) < s.me.ctl.vl.toNat) :
    exec (.vtype d a) s = s.trap s.badVec := by
  by_cases legal : legalVt (s.reg a) s.me.ctl.shape = true
  · exact (if_neg (State.vtypeGoes level grant legal)).trans (if_pos (bad.resolve_left (by simp [legal])))
  · exact if_pos (by simp [legal])

theorem exec_vtype_legal (legal : legalVt (s.reg a) s.me.ctl.shape = true)
    (fits : s.me.ctl.vl.toNat ≤ vlmaxAt s.me.ctl.lg.toNat s.me.ctl.shape (sewBits (fld (s.reg a) 0 3))) :
    exec (.vtype d a) s = .next { s with me := { s.me.setReg d (s.me.ctl.vl.setWidth 64) with
      pc := s.me.pc + 4, ctl := { s.me.ctl with vt := (s.reg a).setWidth 12, ldv := false } } } := by
  have runs : exec (.vtype d a) s =
      .next ((s.onCtl fun c => { c with vt := (s.reg a).setWidth 12 }).writeRegV 4 d (s.me.ctl.vl.setWidth 64)) :=
    (if_neg (State.vtypeGoes level grant legal)).trans (if_neg (Nat.not_lt.2 fits))
  rw [runs, State.writeRegV_eq]
  simp only [State.onCtl, State.onMe, Strand.setReg_update, Strand.setReg_run, Strand.setReg_park, Strand.setReg_mark,
    Strand.setReg_grant, Strand.setReg_vec]
  rfl

end

/-! ### MTENTER (10 R293) -/

theorem exec_mtenter_refused {g : Bool} (bad : s.me.ctl.mt = true ∨ s.me.ctl.lg ≠ if g then 4 else 1) :
    exec (.mtenter g) s = s.trap s.badVec := by
  refine (if_neg (State.hasContext level grant)).trans (if_pos ?_)
  have number : s.me.ctl.lg ≠ (if g then 4 else 1) → ¬s.me.ctl.lg.toNat = if g then 4 else 1 := fun differs same =>
    differs (BitVec.eq_of_toNat_eq (same.trans (by cases g <;> rfl)))
  rcases bad with on | differs
  · simp [on]
  · simp [number differs]

/-- An MTENTER whose grant stands where it must passes its checks. -/
theorem exec_mtenter_enters {g : Bool} (off : s.me.ctl.mt = false) (number : s.me.ctl.lg.toNat = if g then 4 else 1)
    (place : g = true → onSquare s.me.vec.lanes = true ∧ (s.squareWhole s.tid.cluster 0 = true ∨ s.squareWhole s.tid.cluster 2 = true))
    (queue : s.me.queue = []) (slots : s.me.regSlotBusy = false) :
    exec (.mtenter g) s = if s.eager then .next (s.finishEnter s.me.vec.lanes)
      else .next ((s.onMe fun x => { x with run := .entering (if g then 4 else 1) }).push (.mtenterComplete s.tid)) := by
  have free : ¬(s.me.ctl.mt || !decide (s.me.ctl.lg.toNat = if g then 4 else 1)
      || (g && !s.squareWhole s.tid.cluster 0 && !s.squareWhole s.tid.cluster 2)) = true := by
    cases g with
    | false => simpa [off] using number
    | true => simpa [off, number, or_iff_not_imp_left] using (place rfl).2
  have stands : (!g || onSquare s.me.vec.lanes) = true := by
    cases g with
    | false => rfl
    | true => exact (place rfl).1
  exact ((if_neg (State.hasContext level grant)).trans (if_neg free)).trans
    ((if_neg (by simp [queue, slots])).trans (if_pos stands))

/-! ### MTEXIT and TEDGE (10 R294, R297) -/

theorem exec_mtexit_off (off : s.me.ctl.mt = false) : exec .mtexit s = s.trap s.tileDisabled :=
  (if_neg (State.hasContext level grant)).trans (if_pos (by simp [off]))

theorem exec_mtexit_waits (on : s.me.ctl.mt = true) (queue : s.me.queue ≠ []) : exec .mtexit s = .next s :=
  ((if_neg (State.hasContext level grant)).trans (if_neg (by simp [on]))).trans (if_pos (by simpa using queue))

theorem exec_mtexit_leaves (on : s.me.ctl.mt = true) (queue : s.me.queue = []) : exec .mtexit s = .next { s with me := { s.me with
    pc := s.me.pc + 4, vec := s.me.vec.noTiles, ctl := { s.me.ctl with mt := false, ldv := false } } } :=
  ((if_neg (State.hasContext level grant)).trans (if_neg (by simp [on]))).trans (if_neg (by simp [queue]))

section
variable {a b : Reg}

theorem exec_tedge_illegal (bad : s.reg a = 0 ∨ 64 < (s.reg a).toNat ∨ s.reg b = 0 ∨ 64 < (s.reg b).toNat) :
    exec (.tedge a b) s = s.trap s.illegal := by
  have zero : ∀ r, s.reg r = 0 ↔ (s.reg r).toNat = 0 := fun r => (BitVec.toNat_inj (y := 0)).symm
  rw [zero, zero] at bad
  exact (if_neg (State.hasContext level grant)).trans (if_pos bad)

theorem exec_tedge_legal (rows : 1 ≤ (s.reg a).toNat ∧ (s.reg a).toNat ≤ 64) (cols : 1 ≤ (s.reg b).toNat ∧ (s.reg b).toNat ≤ 64) :
    exec (.tedge a b) s = .next { s with me := { s.me with pc := s.me.pc + 4
                                                           ctl := { s.me.ctl with
      trows := (s.reg a).setWidth 7, tcols := (s.reg b).setWidth 7, ldv := false } } } :=
  (if_neg (State.hasContext level grant)).trans (if_neg (by omega))

end

end

end Sys2Proof.Machine
end

section
/-! The statement about vector types and matrix mode. -/

namespace Sys2Proof.Machine

open Sys2Proof

/-- Settles O44: each instruction by its checks in their order, and what it leaves past them. -/
theorem typeAndMatrixModeChange : Obligations.TypeAndMatrixModeChange := by
  intro s d a b x m
  refine ⟨fun level grant => ⟨exec_vtype_legal level grant, fun bad => traps_next (exec_vtype_illegal level grant bad),
    fun off queue slots place => ?_, fun bad => traps_next (exec_mtenter_refused (g := false) level grant bad),
    fun bad => traps_next (exec_mtenter_refused (g := true) level grant bad), fun on queue => ?_, exec_mtexit_waits level grant,
    fun off => traps_next (exec_mtexit_off level grant off), fun r1 r2 c1 c2 => exec_tedge_legal level grant ⟨r1, r2⟩ ⟨c1, c2⟩,
    fun bad => traps_next (exec_tedge_illegal level grant bad)⟩, fun lacks => ?_⟩
  · have number : s.me.ctl.lg.toNat = if decide (s.me.ctl.lg = 4) then 4 else 1 := by
      rcases place with one | ⟨four, -⟩
      · rw [one]; rfl
      · rw [four]; rfl
    have square : decide (s.me.ctl.lg = 4) = true → onSquare s.me.vec.lanes = true ∧
        (s.squareWhole s.tid.cluster 0 = true ∨ s.squareWhole s.tid.cluster 2 = true) := by
      intro four
      rcases place with one | ⟨-, ⟨lanes, whole⟩ | ⟨lanes, whole⟩⟩
      · rw [one] at four
        cases four
      · exact ⟨by rw [lanes]; rfl, .inl whole⟩
      · exact ⟨by rw [lanes]; rfl, .inr whole⟩
    have enters := exec_mtenter_enters level grant off number square queue slots
    refine ⟨fun eager stray => ?_, fun steps => ?_⟩
    · rw [if_pos eager, State.finishEnter_clean stray] at enters
      exact ⟨_, enters, rfl, rfl, rfl, rfl, rfl, rfl⟩
    · rw [if_neg (Bool.eq_false_iff.1 steps)] at enters
      simp only [decide_eq_true_eq] at enters
      exact enters
  · exact ⟨_, exec_mtexit_leaves level grant on queue, rfl, rfl, rfl, rfl, rfl, rfl⟩
  · exact ⟨traps_next (exec_vtype_noContext lacks d a), traps_next (exec_mtenter_noContext lacks false),
      traps_next (exec_mtenter_noContext lacks true), traps_next (exec_mtexit_noContext lacks),
      traps_next (exec_tedge_noContext lacks a b)⟩

end Sys2Proof.Machine
end
section
/-! SUPPORT. A relocation in a package whose table of clusters is not in canonical form (10 R293). -/

namespace Sys2Proof.Machine

open Sys2Proof

/-- A strand that waits in Relocate for the square of lane groups 0, 1, 4 and 5, alone in a package whose table of clusters lists cluster 0
twice. The second entry does not read; it comes to light when the first, once the strand has left its waiting list, is that of a cluster at
reset and so no longer listed. -/
def shadowedCluster : State :=
  let waits : Cluster := { Cluster.reset with waiting := [0] }
  { State.reset with
    clusters := [(0, waits), (0, waits)]
    me := { Strand.unbound with
      run := .parked .relocate, vec := { Vec.empty with lanes := [0, 1, 2, 4] }, ctl := { Ctl.reset with lg := 4, shape := 16 } } }

/-- The relocation leaves the strand on the waiting list that reads. -/
theorem shadowedCluster_relocates :
    ∃ u, exec (.relocate 0) shadowedCluster = .next u ∧ (u.cluster 0).waiting = [0] := ⟨_, rfl, by decide +kernel⟩

end Sys2Proof.Machine
end

section
/-! The statement about marks, deadlines, saves, relocations and debug control. -/

namespace Sys2Proof.Machine

open Sys2Proof

/-- Refutes O55: its clause for RELOCATE asks for no canonical form of the table of clusters, and where the table lists a cluster twice
(`shadowedCluster`) the waiting list of the strand's cluster is not empty after the step. -/
theorem not_allocatorSaveAndDebugEventsTakeEffect : ¬ Obligations.AllocatorSaveAndDebugEventsTakeEffect := by
  intro effects
  obtain ⟨-, -, -, -, -, -, -, -, relocates, -⟩ := effects shadowedCluster 0 _ 0 0 0 rfl
  have square : shadowedCluster.squareFor 0 [0, 1, 2, 4] = some 0 := by decide +kernel
  have alone : shadowedCluster.clusterTids 0 = [0] := by decide +kernel
  obtain ⟨u, step, -, emptied, -⟩ := relocates 0 rfl rfl rfl square rfl rfl rfl alone rfl rfl
  obtain ⟨v, runs, waits⟩ := shadowedCluster_relocates
  rw [runs] at step
  cases step
  exact List.cons_ne_nil _ _ (waits.symm.trans emptied)

end Sys2Proof.Machine
end

section
/-! SUPPORT. A vector instruction that issues behind a scalar access whose data is out: it enters the queue and starts nothing, since a fault
of that access is precise (03 R88, 06 R197). -/

namespace Sys2Proof.Machine

open Sys2Proof

/-! ### The head of the queue behind such an access -/

section

variable {s : State} {q : QEntry} {r : List QEntry}

theorem State.mayRun_behindPend (behind : s.me.behindPend q = true) (n lo hi : Nat) : s.mayRun n q lo hi = false := by
  simp [State.mayRun, behind]

theorem State.setEntry_head (head : s.me.queue = q :: r) : s.setEntry 0 q = s := by
  simp only [State.setEntry, State.onMe, head, List.set_cons_zero]
  rw [← head]

/-- Its first step waits, and nothing of it has run. -/
theorem State.runSteps_behindPend (behind : s.me.behindPend q = true) (work : q.next < q.total s.me) {n : Nat} (fuel : n ≠ 0) :
    s.runSteps q n = (s, q, .wait q.next) := by
  obtain ⟨n, rfl⟩ := Nat.exists_eq_succ_of_ne_zero fuel
  simp [State.runSteps, Nat.not_le.2 work, State.mayRun_behindPend behind]

/-- The head has work, in one piece or in steps, and does none of it. -/
theorem State.pumpHead_behindPend (head : s.me.queue = q :: r) (sound : q.fault = none) (behind : s.me.behindPend q = true)
    (work : opIsWhole q.op = true ∨ q.next < q.total s.me) : s.pumpHead = (s, false) := by
  cases whole : opIsWhole q.op with
  | true => simp [State.pumpHead, head, sound, whole, State.mayRun_behindPend behind, State.setEntry_head head]
  | false =>
    have left : q.next < q.total s.me := work.resolve_left (by simp [whole])
    simp [State.pumpHead, head, sound, whole, State.runSteps_behindPend behind left (Nat.sub_ne_zero_of_lt left), State.setEntry_head head]

end

theorem State.pumpMe_stopped {s : State} (stopped : s.pumpHead = (s, false)) (n : Nat) : s.pumpMe n = s := by
  cases n with
  | zero => rfl
  | succ n => simp [State.pumpMe, stopped]

/-- A queue whose head stops is left as it is. -/
theorem State.pumpFocus_stopped {s : State} (stopped : s.pumpHead = (s, false)) : s.pumpFocus.me.queue = s.me.queue := by
  unfold State.pumpFocus
  split
  · obtain ⟨es, steps⟩ := pushed_nudge s s.tid
    rw [State.pumpMe_stopped stopped, steps]
  · rfl

/-! ### The instruction -/

/-- A scalar access of the strand in focus has issued and its data is out. -/
def State.scalarOut (s : State) : Prop := ∃ p ∈ s.me.pend, p.owner = .scalar ∧ p.id ≤ s.fresh

/-- Behind such an access an instruction that has work stays in the queue, in a state that completes issued work at once, too. -/
theorem Enters.stays {i : Instr} {s : State} {len : Nat} {op : VOp} {x y : Word} (enters : Enters i s len op x y) (may : s.MayEnter op x)
    (calm : s.LanesCalm) (out : s.scalarOut)
    (work : opIsWhole op = true ∨ (captured s op x y).next < (captured s op x y).total (s.entered len op x y).me) :
    ∃ t, exec i s = .next t ∧ t.me.queue = [captured s op x y] := by
  have head : (s.entered len op x y).me.queue = [captured s op x y] := by simp [State.entered, calm.noQueue]
  have behind : (s.entered len op x y).me.behindPend (captured s op x y) = true := by
    obtain ⟨p, mem, scalar, older⟩ := out
    exact List.any_eq_true.2 ⟨p, mem, by simp [scalar, captured, older]⟩
  have issued := enters may
  rw [if_pos calm.eager] at issued
  exact ⟨_, issued, (State.pumpFocus_stopped (State.pumpHead_behindPend head rfl behind work)).trans head⟩

/-! ### What completion leaves of the queue -/

theorem KeptButVec.queue {s t : State} (kept : KeptButVec s t) : t.me.queue = s.me.queue := by
  unfold KeptButVec at kept
  have same := congrArg (fun u : State => u.me.queue) kept
  exact same

/-- An instruction that stays in the queue has not written what completion writes. -/
theorem VecWrote.not_queued {s t : State} {l : List Elem} {d g sew cap : Nat} {f : Nat → Nat → Nat} {q : QEntry}
    (wrote : VecWrote s t l d g sew cap f) (noQueue : s.me.queue = []) : t.me.queue ≠ [q] := by
  have empty : t.me.queue = [] := wrote.frame.queue.trans noQueue
  simp [empty]

/-! ### A strand that satisfies the premises of the statements about vector results -/

/-- One lane group, and one signed element of 32 bits to work on. -/
def oneElement : Ctl := { Ctl.reset with lg := 1, shape := 16, vt := 2, vl := 1 }

/-- A load of eight bytes from the host's memory, into s5, that issued at 0xFFC, has been sent and is not answered. -/
def hostLoad : Pend :=
  { id := 0, gen := 0, owner := .scalar, d := 5, addr := 0x40
    parts := [({ kind := .host, key := 0x40, keyId := 0, cached := false, alloc := false, replica := false, fills := false }, 8)]
    got := [], acc := .load 8 false, order := .rlx, scope := .st, tag := some 0, fail := none, part := 0, raw := 0
    back := some { pc := 0xFFC, ctl := oneElement, trigIssued := false, undo := [] } }

/-- A strand whose lanes are free for its one element while its load from the host is not answered. -/
def awaitingHost : State :=
  { State.reset with
    fresh := 1
    me := { Strand.unbound with
      run := .running, pc := 0x1000, ctl := oneElement, vec := { Vec.empty with lanes := [0] }, pend := [hostLoad] } }

theorem awaitingHost_scalarOut : awaitingHost.scalarOut := ⟨hostLoad, List.mem_singleton_self _, rfl, Nat.zero_le _⟩

theorem awaitingHost_vecReady : awaitingHost.VecReady where
  eager := rfl
  running := rfl
  level := rfl
  free := rfl
  noQueue := rfl
  noSlot := by decide +kernel
  noSend := rfl
  noTrigger := rfl
  noPoison := rfl
  noSyndrome := rfl
  noInjection := rfl
  noRecheck := rfl
  noCopy := rfl
  noStale := by decide
  registers := rfl
  masks := rfl
  width := by decide
  slots := by decide +kernel
  first := by decide
  length := by decide +kernel
  words := by decide +kernel

/-- Its checks at issue for an operation on v2, v4 and v6 that asks for no more. -/
theorem awaitingHost_mayEnter {op : VOp} (kind : awaitingHost.me.ctl.kindOk op = true) (registers : awaitingHost.me.ctl.regsLegal op = true)
    (own : awaitingHost.issueTrap op 0 = none) : awaitingHost.MayEnter op 0 where
  level := rfl
  grant := .inl (by decide)
  kind := kind
  registers := registers
  own := own
  room := by decide

end Sys2Proof.Machine
end

section
/-! The statements about the results of vector work. Neither asks that no scalar access of the strand is out, so that both fail in
`awaitingHost`. -/

namespace Sys2Proof.Machine

open Sys2Proof

/-- Refutes O59: VecReady leaves open that a scalar access of the strand is out, and behind one (`awaitingHost`) a VADD stays in the queue. -/
theorem not_vectorArithmeticWritesItsElements : ¬ Obligations.VectorArithmeticWritesItsElements := by
  intro results
  obtain ⟨integers, -⟩ := results awaitingHost 2 4 6 0 0 awaitingHost_vecReady
  have may : awaitingHost.MayEnter (.arith .add .vv 2 4 6 0) 0 := awaitingHost_mayEnter rfl rfl rfl
  obtain ⟨t, step, wrote⟩ := (integers (by decide)).1 may
  obtain ⟨u, stays, queued⟩ := (enters_of_issues (i := .vaddVv 2 4 6 0) rfl rfl).stays may awaitingHost_vecReady.toLanesCalm
    awaitingHost_scalarOut (.inr (by decide))
  obtain rfl : t = u := Host.Outcome.next.inj (step.symm.trans stays)
  exact wrote.not_queued rfl queued

/-- Refutes O60: behind a scalar access whose data is out (`awaitingHost`) a VREDSUM.O stays in the queue. -/
theorem not_vectorWorkWritesItsResults : ¬ Obligations.VectorWorkWritesItsResults := by
  intro results
  obtain ⟨-, integers, -⟩ := results awaitingHost 2 4 6 0 0 0 0 0 .sint .w32 awaitingHost_vecReady
  have may : awaitingHost.MayEnter (.red .sumO 2 4 6 0) 0 := awaitingHost_mayEnter rfl rfl rfl
  obtain ⟨t, step, wrote⟩ := (integers (by decide)).1 may
  obtain ⟨u, stays, queued⟩ := (enters_of_issues (i := .vredsumO 2 4 6 0) rfl rfl).stays may awaitingHost_vecReady.toLanesCalm
    awaitingHost_scalarOut (.inl rfl)
  obtain rfl : t = u := Host.Outcome.next.inj (step.symm.trans stays)
  exact wrote.not_queued rfl queued

end Sys2Proof.Machine
end

section
/-! SUPPORT. BARINIT and BARW by the state of the barrier that they name (11 R341, R343). -/

namespace Sys2Proof.Machine

open Sys2Proof

/-- Barrier `k` of the cluster of the strand in focus. -/
abbrev State.ownBarrier (s : State) (k : BitVec 5) : Barrier := s.barrier s.tid.cluster k.toNat

/-- That barrier replaced. -/
abbrev State.setOwnBarrier (s : State) (k : BitVec 5) (b : Barrier) : State := s.setBarrier s.tid.cluster k.toNat b

theorem Barrier.unmarked_iff {b : Barrier} : b.unmarked = true ↔ b.wait = 0 ∧ b.done = 0 := by simp [Barrier.unmarked]

theorem Barrier.usable_iff {b : Barrier} {t : TenantNo} : b.usable t = true ↔ b.active = true ∧ b.owner = t := by simp [Barrier.usable]

section
variable {s : State} {a : Reg} {k : BitVec 5} (level : s.me.ctl.priv = .app)
include level

theorem State.vecLevel_app : ¬(!s.vecLevel) = true := by simp [State.vecLevel, level]

/-! ### BARINIT (11 R341) -/

theorem exec_barinit_refused
    (bad : 256 < (s.reg a).toNat ∨ ((s.ownBarrier k).active = true ∧ (s.ownBarrier k).owner ≠ s.me.ctl.tenant)) :
    exec (.barinit a k) s = s.trap s.badVec :=
  (if_neg (State.vecLevel_app level)).trans (if_pos bad)

section
variable (few : (s.reg a).toNat ≤ 256)
include few

theorem exec_barinit_uninit (idle : (s.ownBarrier k).active = false) :
    exec (.barinit a k) s = .next ((s.setOwnBarrier k (if (s.reg a).toNat = 0 then s.ownBarrier k else
      { s.ownBarrier k with active := true, owner := s.me.ctl.tenant, count := (s.reg a).toNat, arrived := 0 })).retire 4 none) := by
  refine ((if_neg (State.vecLevel_app level)).trans (if_neg (by simp [idle, few]))).trans ((if_pos (by simp [idle])).trans ?_)
  split <;> rfl

/-- On a barrier of the tenant BARINIT goes by what the count would change, and whether anything has come to the barrier. -/
theorem exec_barinit_own (active : (s.ownBarrier k).active = true) (own : (s.ownBarrier k).owner = s.me.ctl.tenant) :
    exec (.barinit a k) s =
      if (s.reg a).toNat = (s.ownBarrier k).count then .next ((s.setOwnBarrier k (s.ownBarrier k)).retire 4 none)
      else if (s.ownBarrier k).arrived = 0 ∧ (s.ownBarrier k).unmarked = true then
        .next ((s.setOwnBarrier k (if (s.reg a).toNat = 0 then { s.ownBarrier k with active := false }
          else { s.ownBarrier k with count := (s.reg a).toNat })).retire 4 none)
      else s.trap s.badVec :=
  ((if_neg (State.vecLevel_app level)).trans (if_neg (by simp [own, few]))).trans (if_neg (by simp [active]))

end

/-! ### BARW (11 R343) -/

theorem exec_barw_refused (bad : (s.ownBarrier k).active = false ∨ (s.ownBarrier k).owner ≠ s.me.ctl.tenant) :
    exec (.barw k) s = s.trap s.badVec :=
  (if_neg (State.vecLevel_app level)).trans (if_pos (by simpa [Barrier.usable, or_iff_not_imp_left] using bad))

theorem exec_barw_own (active : (s.ownBarrier k).active = true) (own : (s.ownBarrier k).owner = s.me.ctl.tenant) :
    exec (.barw k) s =
      if (s.ownBarrier k).done.getLsbD (s.tid.toNat % 64) = true then .next (s.barwReturn s.tid k.toNat)
      else .next { s.setOwnBarrier k { s.ownBarrier k with wait := markBit (s.ownBarrier k).wait (s.tid.toNat % 64) true } with
        me := { s.me with run := .parked (.barw k.toNat), parkedAt := s.sys.pool } } :=
  (if_neg (State.vecLevel_app level)).trans (if_neg (by simp [Barrier.usable_iff.2 ⟨active, own⟩]))

end

theorem goes_setOwnBarrier {i : Instr} {s : State} {k : BitVec 5} {b : Barrier}
    (answers : exec i s = .next ((s.setOwnBarrier k b).retire 4 none)) :
    ∃ t, exec i s = .next t ∧ Went (s.setOwnBarrier k b) t (s.me.pc + 4) := ⟨_, answers, went_retire ..⟩

/-- The strand in focus returns from BARW: its done mark is cleared, an acquire completes, and it goes on past the instruction. -/
theorem went_barwReturn (s : State) (k : BitVec 5) :
    Went { (s.setOwnBarrier k { s.ownBarrier k with
        done := markBit (s.ownBarrier k).done (s.tid.toNat % 64) false }).advanceGen s.tid.cluster with
      me := { s.me with run := .running, park := none } } (s.barwReturn s.tid k.toNat) (s.me.pc + 4) := by
  let u := (s.setOwnBarrier k { s.ownBarrier k with
    done := markBit (s.ownBarrier k).done (s.tid.toNat % 64) false }).advanceGen s.tid.cluster
  have here : s.barwReturn s.tid k.toNat = { u with me := u.me.wake none } := u.onStrand_self fun x => x.wake none
  rw [here]
  exact ⟨rfl, fun _ => rfl, rfl, rfl, rfl⟩

end Sys2Proof.Machine
end

section
/-! The statement about barriers. -/

namespace Sys2Proof.Machine

open Sys2Proof

/-- Settles O46: BARINIT and BARW by whether the barrier is the tenant's, then by what the count would change, or by the done mark. -/
theorem barriersInitialiseAndWait : Obligations.BarriersInitialiseAndWait := by
  intro s a k level c b n i
  have small : i < 64 := Nat.mod_lt _ (by decide)
  refine ⟨fun bad => traps_next (exec_barinit_refused level bad), fun positive few idle => ?_, fun zero idle => ?_,
    fun few active own same => ?_, fun few active own differs arrived wait done => ?_, fun few active own differs busy => ?_,
    fun bad => traps_next (exec_barw_refused level bad), fun active own done => ?_, fun active own unmarked => ?_⟩
  · have inits := exec_barinit_uninit level few idle
    rw [if_neg (Nat.ne_of_gt positive)] at inits
    exact goes_setOwnBarrier inits
  · have inits := exec_barinit_uninit level (zero.trans_le (Nat.zero_le 256)) idle
    rw [if_pos zero] at inits
    exact goes_setOwnBarrier inits
  · exact goes_setOwnBarrier ((exec_barinit_own level few active own).trans (if_pos same))
  · exact goes_setOwnBarrier (((exec_barinit_own level few active own).trans (if_neg differs)).trans
      (if_pos ⟨arrived, Barrier.unmarked_iff.2 ⟨wait, done⟩⟩))
  · refine traps_next (t := s.badVec) (((exec_barinit_own level few active own).trans (if_neg differs)).trans (if_neg ?_))
    rw [Barrier.unmarked_iff]
    tauto
  · exact ⟨_, _, (exec_barw_own level active own).trans (if_pos done), (getLsbD_markBit small i).trans (if_pos rfl), rfl,
      fun j other => (getLsbD_markBit small j).trans (if_neg other), went_barwReturn s k⟩
  · exact ⟨_, (exec_barw_own level active own).trans (if_neg (Bool.eq_false_iff.1 unmarked)),
      (getLsbD_markBit small i).trans (if_pos rfl), rfl, fun j other => (getLsbD_markBit small j).trans (if_neg other)⟩

end Sys2Proof.Machine
end

section
/-! SUPPORT. A read of memory that goes past the L1 leaves the strand in focus in focus: it checks words and tags, and touches caches and
TLBs (12 R354, 13 R371 to R373, R389, R397). -/

namespace Sys2Proof.Machine

open Sys2Proof

/-! ### Records and checks (12 R354, R356, 13 R397) -/

@[simp] theorem State.logDie_tid (s : State) (d : Nat) (r : ErrRec) : (s.logDie d r).tid = s.tid := by
  obtain ⟨m, ev, logged⟩ := logDie_shape s d r
  rw [logged]

@[simp] theorem State.logCluster_tid (s : State) (c : Nat) (r : ErrRec) : (s.logCluster c r).tid = s.tid := by
  obtain ⟨m, ev, logged⟩ := logCluster_shape s c r
  rw [logged]

theorem State.foldl_tid {α : Type} {f : State → α → State} (each : ∀ u a, (f u a).tid = u.tid) (l : List α) (s : State) :
    (l.foldl f s).tid = s.tid := by
  induction l generalizing s with
  | nil => rfl
  | cons a l ih => exact (ih _).trans (each s a)

@[simp] theorem State.logWord_tid (s : State) (t : Option Tid) (sev syn k enc : Nat) : (s.logWord t sev syn k enc).tid = s.tid := by
  simp only [State.logWord]
  split
  · exact State.logCluster_tid ..
  · exact State.logDie_tid ..

@[simp] theorem State.eccWord_tid (s : State) (t : Option Tid) (k : Nat) : (s.eccWord t k).tid = s.tid := by
  simp only [State.eccWord]
  split
  · rfl
  · split <;> exact State.logWord_tid ..

@[simp] theorem State.ecc_tid (s : State) (t : Option Tid) (k n : Nat) : (s.ecc t k n).tid = s.tid := by
  unfold State.ecc
  split
  · rfl
  · exact State.foldl_tid (fun u i => u.eccWord_tid t _) _ s

@[simp] theorem State.tagCheck_tid (s : State) (t : Option Tid) (d pa : Nat) : (s.tagCheck t d pa).tid = s.tid := by
  simp only [State.tagCheck]
  split
  · rfl
  · split
    · split <;> exact State.logDie_tid ..
    · exact State.logDie_tid ..

@[simp] theorem State.tagChecks_tid (s : State) (t : Option Tid) (k : Nat) : (s.tagChecks t k).tid = s.tid := by
  simp only [State.tagChecks]
  split
  · split
    · exact State.tagCheck_tid ..
    · simp
  · exact State.tagCheck_tid ..

@[simp] theorem State.lineCheck_tid (s : State) (t : Option Tid) (k n : Nat) : (s.lineCheck t k n).tid = s.tid := by
  simp only [State.lineCheck]
  split <;> simp

@[simp] theorem State.injected_tid (s : State) (t : Option Tid) (k : Nat) : (s.injected t k).1.tid = s.tid := by
  unfold State.injected
  split
  · simp only
    split
    · exact State.logCluster_tid ..
    · rfl
  · rfl

/-! ### Caches (13 R371, R372, R383) -/

@[simp] theorem State.mscAccess_tid (s : State) (part pa keyId : Nat) (fills write : Bool) :
    (s.mscAccess part pa keyId fills write).tid = s.tid := by
  rw [(mscAccess_shape s part pa keyId fills write).2]

@[simp] theorem State.evict_tid (s : State) (l : CacheLine) : (s.evict l).tid = s.tid := by
  unfold State.evict
  split
  · exact State.mscAccess_tid ..
  · rfl

@[simp] theorem State.l2Fill_tid (s : State) (d part pa keyId : Nat) (dirty : Bool) : (s.l2Fill d part pa keyId dirty).1.tid = s.tid := by
  simp only [State.l2Fill]
  split
  · dsimp only
    split
    · exact State.mscAccess_tid ..
    · rfl
  · dsimp only [State.onSys_tid]
    split
    · exact State.evict_tid ..
    · rfl

@[simp] theorem State.l2Home_tid (s : State) (part pa keyId : Nat) (fills write : Bool) :
    (s.l2Home part pa keyId fills write).tid = s.tid := by
  unfold State.l2Home
  extract_lets d k set s1 s2
  have stays : s2.tid = s.tid := by
    refine (State.mscAccess_tid ..).trans ?_
    unfold s1
    split
    · exact State.evict_tid ..
    · rfl
  split
  · rfl
  · split
    · exact (State.l2Fill_tid ..).trans stays
    · split
      · exact (State.mscAccess_tid ..).trans stays
      · exact stays

@[simp] theorem State.cacheRead_tid (s : State) (die : Option Nat) (part pa home keyId : Nat) (fills copies : Bool) :
    (s.cacheRead die part pa home keyId fills copies).tid = s.tid := by
  unfold State.cacheRead
  split
  · exact State.l2Home_tid ..
  · next d =>
    split
    · exact State.l2Home_tid ..
    · extract_lets k set s0 s1
      have stays : s1.tid = s.tid := by
        refine (State.l2Home_tid ..).trans ?_
        unfold s0
        split <;> rfl
      split
      · rfl
      · split
        · exact stays
        · have fills := (s1.l2Fill_tid d part pa keyId false).trans stays
          split
          · next filled => rwa [filled] at fills
          · next filled => rwa [filled] at fills

/-! ### Translation and reads (13 R372, R389, R390) -/

@[simp] theorem State.walkTouch_tid (s : State) (a : Agent) (va : Nat) : (s.walkTouch a va).tid = s.tid := by
  unfold State.walkTouch
  dsimp only
  split
  · exact State.foldl_tid (fun u pa => by simp) _ s
  · rfl

@[simp] theorem State.noteLeaf_tid (s : State) (a : Agent) (va : Nat) (leaf : Word) (big : Bool) :
    (s.noteLeaf a va leaf big).tid = s.tid := by
  unfold State.noteLeaf
  dsimp only
  split <;> rfl

@[simp] theorem State.noteWalk_tid (s : State) (a : Agent) (va : Nat) (leaf : Word) (big : Bool) :
    (s.noteWalk a va leaf big).tid = s.tid := by
  refine (State.noteLeaf_tid ..).trans ?_
  split
  · rfl
  · exact State.walkTouch_tid ..

@[simp] theorem State.noteAccess_tid (s : State) (a : Agent) (addr : Word) (ns : List Nat) : (s.noteAccess a addr ns).tid = s.tid := by
  induction ns generalizing s addr with
  | nil => rfl
  | cons n ns ih =>
    refine (ih _ _).trans ?_
    split
    · split
      · exact State.noteWalk_tid ..
      · exact State.walkTouch_tid ..
    · rfl

@[simp] theorem State.replied_tid (s : State) (a : Agent) (p : Place) : (s.replied a p).tid = s.tid := by
  unfold State.replied
  split <;> rfl

@[simp] theorem State.noteReplica_tid (s : State) (a : Agent) (p : Place) : (s.noteReplica a p).tid = s.tid := by
  refine (State.cacheRead_tid ..).trans ?_
  split
  · exact State.ecc_tid ..
  · rfl

theorem State.afterRead_tid (s : State) (a : Agent) (p : Place) : (s.afterRead a false p).tid = s.tid := by
  unfold State.afterRead
  split
  · exact State.noteReplica_tid ..
  · rfl

/-- A read that does not look in the L1 meets no injection, no stored error and no store there. -/
theorem State.pastL1 (s : State) (a : Agent) (p : Place) (n : Nat) :
    ((s.l1Injected a false p).l1Ecc a false p n).noteSeen a false p n = s := by
  simp [State.l1Injected, State.l1Ecc, State.noteSeen]

theorem State.readParts_tid (s : State) (a : Agent) (addr : Word) (parts : List (Place × Nat)) :
    (s.readParts a false addr parts).1.tid = s.tid := by
  induction parts generalizing s addr with
  | nil => rfl
  | cons part r ih =>
    obtain ⟨p, n⟩ := part
    unfold State.readParts
    extract_lets i s1 q
    have injects : i.1.tid = s.tid := (State.injected_tid ..).trans (congrArg State.tid (s.pastL1 a p n))
    have stays : s1.tid = s.tid := by
      unfold s1
      split
      · exact State.replied_tid ..
      · split
        · exact injects
        · split <;> simp [injects]
    have rest := (ih (s1.afterRead a false p) (addr + word n)).trans ((State.afterRead_tid ..).trans stays)
    split
    · exact stays
    · split
      · next read => rwa [read] at rest
      · next read => rwa [read] at rest

end Sys2Proof.Machine
end

section
/-! SUPPORT. VSTREAM, SWAIT and SQUERY: the checks of a VSTREAM, the handle of a box copy, the slot that a copy takes, and the completion
that is consumed (11 R324, R325, R329, R334, R336, R344). -/

namespace Sys2Proof.Machine

open Sys2Proof

/-! ### Handles (11 R325, R329) -/

theorem handleStale_iff {h : Word} {w : Nat} (low : fld h 16 48 = 0) :
    handleStale h w = true ↔ w.testBit 63 = false ∨ w / 2 ^ 48 % 256 ≠ fld h 8 8 := by
  simp [handleStale, low]

theorem handleStale_fresh {h : Word} {w : Nat} (low : fld h 16 48 = 0) (valid : w.testBit 63 = true)
    (serial : w / 2 ^ 48 % 256 = fld h 8 8) : handleStale h w = false := by
  rw [← Bool.not_eq_true, handleStale_iff low]
  simpa [valid] using serial

section
variable {s : State} {h : Word}

theorem State.handleCheck_refused
    (bad : bitOf (s.rd (rHtbase s.tid.cluster s.me.ctl.tenant.toNat)) 0 = false ∨ fld h 16 48 ≠ 0) :
    s.handleCheck h = some (s, true) := by
  unfold State.handleCheck
  split
  · rfl
  · next entry =>
    have table : bitOf (s.rd (rHtbase s.tid.cluster s.me.ctl.tenant.toNat)) 0 ≠ false := by
      intro unset
      simp [State.handleEntry, unset] at entry
    exact if_pos (bad.resolve_left table)

theorem State.handleCheck_read {u : State} {w : Nat} (read : HandleRead s h u w) (low : fld h 16 48 = 0) :
    s.handleCheck h = some (u, handleStale h w) := by
  obtain ⟨va, parts, v, bs, entry, resolved, near, reads, rfl, rfl⟩ := read
  have nearby : ¬(parts.any fun p => p.1.far) = true := by simpa using near
  simp only [State.handleCheck, entry, low, resolved, reads, ne_eq, not_true_eq_false, if_false, if_neg nearby]

/-- The check of a handle leaves the strand in focus in focus. -/
theorem State.handleCheck_tid {u : State} {stale : Bool} (checked : s.handleCheck h = some (u, stale)) : u.tid = s.tid := by
  unfold State.handleCheck at checked
  split at checked
  · cases checked; rfl
  split at checked
  · cases checked; rfl
  dsimp only at checked
  split at checked
  · split at checked
    · cases checked
    · cases checked; rfl
  split at checked
  · cases checked; rfl
  split at checked
  · next v bs reads =>
    cases checked
    exact (State.noteAccess_tid ..).trans ((congrArg (·.1.tid) reads).symm.trans (State.readParts_tid ..))
  · next v at_ reads =>
    cases checked
    exact (congrArg (·.1.tid) reads).symm.trans (State.readParts_tid ..)

end

/-! ### The checks of VSTREAM (11 R325, 04 R144) -/

/-- The slot as VSTREAM fills it at issue: the operands captured, nothing done (11 R324, R325). -/
def State.streamSlot (s : State) (form : StreamForm) (d a b : Reg) (arrive : Option (BitVec 5)) : Slot :=
  { phase := .busy, form := form
    body := (match s.ir with | .w64 _ w => w | .w32 w => w | _ => 0)
    d := d, a := s.reg a, b := s.reg b, sd := s.reg d, vl := s.me.ctl.vl.toNat, vt := s.me.ctl.vt, arrive := arrive, count := 0
    status := 0, clip := 0, ffl := 0, unmerged := 0, part := s.me.ctl.part, msgDue := false
    coll := s.startsColl form (s.reg a) (s.reg b), ahead := s.me.queue.length, box := [], buf := [], members := [], ended := false }

/-- A VSTREAM of this form to slot `q` passes its checks but for its handle. -/
structure State.StreamPasses (s : State) (form : StreamForm) (d : Reg) (q : BitVec 2) (arrive : Option (BitVec 5)) : Prop where
  free : (s.me.slot q).phase ≠ .busy
  level : s.me.ctl.priv = .app
  context : form.isReg = true → s.me.ctl.lg ≠ 0 ∧ vtGroup s.me.ctl.vt = 1 ∧ s.me.ctl.regsOk d.toNat 1 = true
  usable : ∀ k ∈ arrive, (s.barrier s.tid.cluster k.toNat).usable s.me.ctl.tenant = true

section
variable {s : State} {form : StreamForm} {d a b : Reg} {q : BitVec 2} {arrive : Option (BitVec 5)} {len : Nat}

theorem State.vstream_busy (busy : (s.me.slot q).phase = .busy) : s.vstream len form d a b q arrive = .next s := if_pos busy

theorem State.vstream_noContext (free : (s.me.slot q).phase ≠ .busy) (reg : form.isReg = true)
    (lacks : s.me.ctl.lg = 0 ∨ vtGroup s.me.ctl.vt ≠ 1) : s.vstream len form d a b q arrive = s.trap s.badVec :=
  (if_neg free).trans (if_pos (by simpa [reg] using .inr lacks))

theorem State.vstream_unusable (free : (s.me.slot q).phase ≠ .busy) (level : s.me.ctl.priv = .app) (share : form.isReg = false)
    {k : BitVec 5} (unusable : (s.barrier s.tid.cluster k.toNat).usable s.me.ctl.tenant = false) :
    s.vstream len form d a b q (some k) = s.trap s.badVec :=
  ((if_neg free).trans (if_neg (by simp [share, State.vecLevel, level]))).trans
    ((if_neg (by simp [share])).trans (if_pos (by simp [unusable])))

namespace State.StreamPasses

variable (h : s.StreamPasses form d q arrive)
include h

theorem configured : ¬(!s.vecLevel || (form.isReg && (decide (s.me.ctl.lg = 0) || !decide (vtGroup s.me.ctl.vt = 1)))) = true := by
  simp only [State.vecLevel, h.level]
  cases reg : form.isReg with
  | false => simp
  | true => simpa using ⟨(h.context reg).1, (h.context reg).2.1⟩

theorem register : ¬(form.isReg && !s.me.ctl.regsOk d.toNat 1) = true := by
  cases reg : form.isReg with
  | false => simp
  | true => simp [(h.context reg).2.2]

theorem vstream_plain (plain : ¬(form = .ldb ∨ form = .stb)) :
    s.vstream len form d a b q arrive = .next ((s.startCopy q (s.streamSlot form d a b arrive)).retire len none) := by
  refine (((if_neg h.free).trans (if_neg h.configured)).trans ((if_neg h.register).trans (if_neg ?_))).trans (if_neg plain)
  cases arrive with
  | none => simp
  | some k => simp [h.usable k rfl]

theorem vstream_box (box : form = .ldb ∨ form = .stb) {u : State} {stale : Bool} (checked : s.handleCheck (s.reg a) = some (u, stale)) :
    s.vstream len form d a b q arrive = if stale then u.trap ⟨0x13, s.reg a, Words.enc s.ir⟩
      else .next ((u.startCopy q (s.streamSlot form d a b arrive)).retire len none) := by
  refine (((if_neg h.free).trans (if_neg h.configured)).trans ((if_neg h.register).trans (if_neg ?_))).trans
    ((if_pos box).trans ?_)
  · cases arrive with
    | none => simp
    | some k => simp [h.usable k rfl]
  · rw [checked]
    cases stale <;> rfl

end State.StreamPasses

end

/-! ### The slot that a copy takes (11 R324, R325, R344) -/

theorem Strand.slot_setSlot_other (x : Strand) {p q : BitVec 2} (sl : Slot) (other : p ≠ q) : (x.setSlot q sl).slot p = x.slot p :=
  Vector.getElem_set_ne q.isLt p.isLt fun same => other (BitVec.eq_of_toNat_eq same.symm)

/-- `s` once slot `q` has been taken: its old completion message is gone, and the tables of the clusters, the agenda and the
outstanding accesses are these. -/
def State.taken (s : State) (q : BitVec 2) (sl : Slot) (clusters : NMap Cluster) (agenda : List Event) (pend : List Pend) : State :=
  { s with
    clusters := clusters
    agenda := agenda
    me := { s.me.setSlot q sl with msgs := s.me.msgs.filter fun m => !m.isCompletion q, pend := pend } }

theorem State.endCopy_taken (s : State) (q : BitVec 2) (sl : Slot) (cs : NMap Cluster) (ag : List Event) (status : Nat) :
    (s.taken q sl cs ag s.me.pend).endCopy q status =
      s.taken q { sl with status := status, buf := [], members := [], ended := true } cs (ag ++ [.streamCopyDone s.tid q])
        (s.me.dropSlot q).pend :=
  State.endCopy_onSlot { s with
    clusters := cs, agenda := ag, me := { s.me with msgs := s.me.msgs.filter fun m => !m.isCompletion q } } q (fun _ => sl) status

/-- A copy takes its slot; then the engine is called, or the copy ends at once for an argument error or because it moves nothing. -/
theorem State.startCopy_taken (s : State) (q : BitVec 2) (sl : Slot) : ∃ cs es, (sl.arrive = none → cs = s.clusters) ∧
    (s.startCopy q sl = s.taken q sl cs (s.agenda ++ es ++ [.streamUnit (BitVec.ofNat 7 s.tid.cluster)]) s.me.pend ∨
      ∃ status, (status = 4 ∨ status = 0 ∧ sl.b = 0) ∧ s.startCopy q sl =
        s.taken q { sl with status := status, buf := [], members := [], ended := true } cs
          (s.agenda ++ es ++ [.streamCopyDone s.tid q]) (s.me.dropSlot q).pend) := by
  unfold State.startCopy
  extract_lets s1 s2
  obtain ⟨cs, near, marks⟩ : ∃ cs, (sl.arrive = none → cs = s.clusters) ∧ s1 = { s with clusters := cs } := by
    unfold s1
    split
    · next k arrives => exact ⟨_, fun alone => absurd (arrives.symm.trans alone) nofun, rfl⟩
    · exact ⟨s.clusters, fun _ => rfl, rfl⟩
  obtain ⟨es, taken⟩ : ∃ es, s2 = s.taken q sl cs (s.agenda ++ es) s.me.pend := by
    obtain ⟨es, woken⟩ := pushed_wakeMail
      (s1.onMe fun x => { (x.setSlot q sl) with msgs := x.msgs.filter fun m => !m.isCompletion q }) s.tid.core
    exact ⟨es, woken.trans (by rw [marks]; rfl)⟩
  refine ⟨cs, es, near, ?_⟩
  rw [taken]
  split
  · exact .inr ⟨4, .inl rfl, State.endCopy_taken ..⟩
  · split
    · next empty =>
      have nothing : sl.b = 0 := by
        unfold Slot.emptyCopy at empty
        split at empty
        · cases empty
        · cases empty
        · exact of_decide_eq_true empty
      exact .inr ⟨0, .inr ⟨rfl, nothing⟩, State.endCopy_taken ..⟩
    · exact .inl rfl

section
variable {i : Instr} {s u : State} {len : Nat} {form : StreamForm} {d a b : Reg} {q : BitVec 2} {arrive : Option (BitVec 5)}

theorem copies_of_taken {status : Nat} {ended : Bool} {cs : NMap Cluster} {ag : List Event} {pend : List Pend}
    (answers : exec i s = .next
      ((u.taken q { s.streamSlot form d a b arrive with status := status, ended := ended } cs ag pend).retire len none))
    (near : arrive = none → cs = u.clusters) (kept : pend = u.me.pend ∨ pend = (u.me.dropSlot q).pend)
    (going : ended = false → .streamUnit (BitVec.ofNat 7 s.tid.cluster) ∈ ag)
    (done : ended = true → .streamCopyDone s.tid q ∈ ag ∧ (status = 4 ∨ status = 0 ∧ s.reg b = 0)) :
    Copies i s u len form d a b q arrive := by
  let sl : Slot := { s.streamSlot form d a b arrive with status := status, ended := ended }
  let t := (u.taken q sl cs ag pend).retire len none
  have own : t.me.slot q = sl := u.me.slot_setSlot q sl
  have others (p : BitVec 2) (other : p ≠ q) : t.me.slot p = u.me.slot p := u.me.slot_setSlot_other sl other
  refine ⟨t, answers, ?_, rfl, kept, rfl, near⟩
  rw [own]
  exact ⟨rfl, rfl, rfl, rfl, rfl, rfl, rfl, rfl, rfl, rfl, rfl, going, done, others⟩

theorem copies_of_startCopy (here : u.tid = s.tid)
    (answers : exec i s = .next ((u.startCopy q (s.streamSlot form d a b arrive)).retire len none)) :
    Copies i s u len form d a b q arrive := by
  obtain ⟨cs, es, near, going | ⟨status, ends, done⟩⟩ := u.startCopy_taken q (s.streamSlot form d a b arrive)
  · rw [going] at answers
    exact copies_of_taken (status := 0) (ended := false) answers near (.inl rfl) (fun _ => by simp [here]) nofun
  · rw [done] at answers
    exact copies_of_taken (ended := true) answers near (.inr rfl) nofun fun _ => ⟨by simp [here], ends⟩

/-! ### VSTREAM past its checks -/

variable (streams : exec i s = s.vstream len form d a b q arrive) (h : s.StreamPasses form d q arrive)
include streams h

theorem copies_plain (plain : ¬(form = .ldb ∨ form = .stb)) : Copies i s s len form d a b q arrive :=
  copies_of_startCopy rfl (streams.trans (h.vstream_plain plain))

section
variable (box : form = .ldb ∨ form = .stb)
include box

theorem copies_box (fresh : s.handleCheck (s.reg a) = some (u, false)) : Copies i s u len form d a b q arrive :=
  copies_of_startCopy (State.handleCheck_tid fresh) (streams.trans (h.vstream_box box fresh))

theorem trapped_box (stale : s.handleCheck (s.reg a) = some (u, true)) :
    ∃ t, exec i s = .next t ∧ Trapped u t 0x13 (s.reg a) (Words.enc s.ir) :=
  ⟨_, streams.trans (h.vstream_box box stale), trapped_takeTrap ..⟩

/-- A box copy whose handle is stale without a read of its entry, and one whose entry says so. -/
theorem traps_stale :
    (bitOf (s.rd (rHtbase s.tid.cluster s.me.ctl.tenant.toNat)) 0 = false ∨ fld (s.reg a) 16 48 ≠ 0 →
      Traps i s 0x13 (s.reg a) (Words.enc s.ir)) ∧
    ∀ u w, HandleRead s (s.reg a) u w → fld (s.reg a) 16 48 = 0 → w.testBit 63 = false ∨ w / 2 ^ 48 % 256 ≠ fld (s.reg a) 8 8 →
      ∃ t, exec i s = .next t ∧ Trapped u t 0x13 (s.reg a) (Words.enc s.ir) := by
  refine ⟨fun bad => trapped_box streams h box (State.handleCheck_refused bad), fun u w read low stale => ?_⟩
  have checked := State.handleCheck_read read low
  rw [(handleStale_iff low).2 stale] at checked
  exact trapped_box streams h box checked

end

end

/-! ### The forms of VSTREAM -/

section
variable (s : State) (d a b : Reg) (q : BitVec 2) (k : BitVec 5)

theorem streams_all : ∀ i ∈ [Instr.vstreamLdv d a b q, .vstreamStv d a b q, .vstreamLds d a b q, .vstreamSts d a b q,
    .vstreamLdb d a b q, .vstreamStb d a b q, .vstreamLdvA q d a b k, .vstreamStvA q d a b k, .vstreamLdsA q d a b k,
    .vstreamStsA q d a b k, .vstreamLdbA q d a b k, .vstreamStbA q d a b k],
    ∃ len form arrive, exec i s = s.vstream len form d a b q arrive := by
  simp only [List.forall_mem_cons]
  exact ⟨⟨4, .ldv, none, rfl⟩, ⟨4, .stv, none, rfl⟩, ⟨4, .lds, none, rfl⟩, ⟨4, .sts, none, rfl⟩, ⟨4, .ldb, none, rfl⟩,
    ⟨4, .stb, none, rfl⟩, ⟨8, .ldv, some k, rfl⟩, ⟨8, .stv, some k, rfl⟩, ⟨8, .lds, some k, rfl⟩, ⟨8, .sts, some k, rfl⟩,
    ⟨8, .ldb, some k, rfl⟩, ⟨8, .stb, some k, rfl⟩, List.forall_mem_nil _⟩

theorem streams_register : ∀ i ∈ [Instr.vstreamLdv d a b q, .vstreamStv d a b q, .vstreamLdvA q d a b k, .vstreamStvA q d a b k],
    ∃ len form arrive, form.isReg = true ∧ exec i s = s.vstream len form d a b q arrive := by
  simp only [List.forall_mem_cons]
  exact ⟨⟨4, .ldv, none, rfl, rfl⟩, ⟨4, .stv, none, rfl, rfl⟩, ⟨8, .ldv, some k, rfl, rfl⟩, ⟨8, .stv, some k, rfl, rfl⟩,
    List.forall_mem_nil _⟩

theorem streams_arriving : ∀ i ∈ [Instr.vstreamLdsA q d a b k, .vstreamStsA q d a b k, .vstreamLdbA q d a b k, .vstreamStbA q d a b k],
    ∃ form, form.isReg = false ∧ exec i s = s.vstream 8 form d a b q (some k) := by
  simp only [List.forall_mem_cons]
  exact ⟨⟨.lds, rfl, rfl⟩, ⟨.sts, rfl, rfl⟩, ⟨.ldb, rfl, rfl⟩, ⟨.stb, rfl, rfl⟩, List.forall_mem_nil _⟩

theorem streams_box : ∀ i ∈ [Instr.vstreamLdb d a b q, .vstreamStb d a b q, .vstreamLdbA q d a b k, .vstreamStbA q d a b k],
    ∃ len form arrive, (form = .ldb ∨ form = .stb) ∧ exec i s = s.vstream len form d a b q arrive ∧
      (arrive = none ∨ arrive = some k ∧ i ∈ [Instr.vstreamLdbA q d a b k, .vstreamStbA q d a b k]) := by
  simp only [List.forall_mem_cons]
  exact ⟨⟨4, .ldb, none, .inl rfl, rfl, .inl rfl⟩, ⟨4, .stb, none, .inr rfl, rfl, .inl rfl⟩,
    ⟨8, .ldb, some k, .inl rfl, rfl, .inr ⟨rfl, by simp⟩⟩, ⟨8, .stb, some k, .inr rfl, rfl, .inr ⟨rfl, by simp⟩⟩,
    List.forall_mem_nil _⟩

end

/-! ### SWAIT and SQUERY (11 R334, R336) -/

theorem State.retire_slot (s : State) (n : Nat) (d : Option Reg) (q : BitVec 2) : (s.retire n d).me.slot q = s.me.slot q := rfl

theorem State.retire_msgs (s : State) (n : Nat) (d : Option Reg) : (s.retire n d).me.msgs = s.me.msgs := rfl

theorem State.advanceGen_me (s : State) (c : Nat) : (s.advanceGen c).me = s.me := rfl

/-- The state once the completion of slot `q` of the strand in focus is consumed, which is an acquire. -/
def State.consumed (s : State) (q : BitVec 2) : State := (s.consume s.tid q).advanceGen s.tid.cluster

theorem State.consumed_me (s : State) (q : BitVec 2) : (s.consumed q).me =
    { s.me.setSlot q { s.me.slot q with phase := .free, msgDue := false } with
      msgs := s.me.msgs.filter fun m => !m.isCompletion q } := by
  obtain ⟨es, woken⟩ := pushed_wakeMail (s.onStrand s.tid fun x =>
    { x.setSlot q { x.slot q with phase := .free, msgDue := false } with
      msgs := x.msgs.filter fun m => !m.isCompletion q }) s.tid.core
  rw [State.consumed, State.advanceGen_me, State.consume, woken, State.onStrand_self]

theorem State.consumed_slot (s : State) (q : BitVec 2) : ((s.consumed q).me.slot q).phase = .free := by
  rw [State.consumed_me]
  exact congrArg Slot.phase (Strand.slot_setSlot ..)

theorem State.consumed_msgs (s : State) (q : BitVec 2) : ∀ m ∈ (s.consumed q).me.msgs, m.isCompletion q = false := by
  rw [State.consumed_me]
  intro m mem
  simpa using (List.mem_filter.1 mem).2

theorem State.consumed_pc (s : State) (q : BitVec 2) : (s.consumed q).me.pc = s.me.pc := by
  rw [State.consumed_me]
  rfl

section
variable {s : State} {q : BitVec 2} (level : s.me.ctl.priv = .app)
include level

theorem exec_swait_free (free : (s.me.slot q).phase = .free) : exec (.swait q) s = .next (s.retire 4 none) := by
  refine (if_neg (State.vecLevel_app level)).trans ?_
  rw [free]

theorem exec_swait_busy (busy : (s.me.slot q).phase = .busy) : exec (.swait q) s = .next s := by
  refine (if_neg (State.vecLevel_app level)).trans ?_
  rw [busy]

theorem exec_swait_done (done : (s.me.slot q).phase = .done) :
    exec (.swait q) s = .next ((s.consumed q).retire 4 none) := by
  refine (if_neg (State.vecLevel_app level)).trans ?_
  rw [done]
  rfl

variable (d : Reg)

theorem exec_squery_free (free : (s.me.slot q).phase = .free) : exec (.squery d q) s =
    .next (s.writeRegV 4 d (BitVec.ofNat 64 ((s.me.slot q).status * 2 ^ 36 + (s.me.slot q).count % 2 ^ 32))) := by
  refine (if_neg (State.vecLevel_app level)).trans ?_
  simp [free]

theorem exec_squery_busy (busy : (s.me.slot q).phase = .busy) : exec (.squery d q) s =
    .next (s.writeRegV 4 d (BitVec.ofNat 64 (2 ^ 34 + (s.me.slot q).count % 2 ^ 32))) := by
  refine (if_neg (State.vecLevel_app level)).trans ?_
  simp [busy]

theorem exec_squery_done (done : (s.me.slot q).phase = .done) : exec (.squery d q) s =
    .next ((s.consumed q).writeRegV 4 d
      (BitVec.ofNat 64 ((s.me.slot q).status * 2 ^ 36 + 2 * 2 ^ 34 + (s.me.slot q).count % 2 ^ 32))) := by
  refine (if_neg (State.vecLevel_app level)).trans ?_
  simp [done, State.consumed]

end

/-- A class V instruction of the scalar stream that writes a register does this and nothing else. -/
theorem wroteV_writeRegV (s : State) (n : Nat) (d : Reg) (v : Word) : WroteV s (s.writeRegV n d v) n d v := by
  have regs := fun r => Strand.reg_congr (x := (s.writeRegV n d v).me) (y := s.me.setReg d v) rfl r
  rw [State.writeRegV_eq] at regs ⊢
  refine ⟨rfl, (regs d).trans (Strand.reg_setReg_same ..), fun r other => (regs r).trans (Strand.reg_setReg_other _ _ other),
    rfl, rfl, ?_⟩
  by_cases zero : d = 0
  · subst zero
    rfl
  · simp only [KeptButRegs, Strand.setReg_reg _ _ zero]

theorem State.writeRegV_slot (s : State) (n : Nat) (d : Reg) (v : Word) (q : BitVec 2) :
    (s.writeRegV n d v).me.slot q = s.me.slot q := by
  obtain ⟨-, -, -, -, -, frame⟩ := wroteV_writeRegV s n d v
  rw [frame]
  rfl

end Sys2Proof.Machine
end

section
/-! The statement about stream slots. -/

namespace Sys2Proof.Machine

open Sys2Proof

/-- Settles O45: a VSTREAM by the checks of its form, then by the handle of a box copy; SWAIT and SQUERY by the phase of the slot. -/
theorem streamSlotsTakeCopies : Obligations.StreamSlotsTakeCopies := by
  intro s d a b q k
  refine ⟨fun busy i mem => ?_, fun free level => ?_, fun level => ?_⟩
  · obtain ⟨len, form, arrive, streams⟩ := streams_all s d a b q k i mem
    exact streams.trans (State.vstream_busy busy)
  · have alone {form d} (context) : s.StreamPasses form d q none := ⟨free, level, context, nofun⟩
    have arriving {form d} (usable : (s.barrier s.tid.cluster k.toNat).usable s.me.ctl.tenant = true) (context) :
        s.StreamPasses form d q (some k) := ⟨free, level, context, by simpa using usable⟩
    refine ⟨fun grant group register => ?_, fun lacks i mem => ?_, ?_, ?_, fun usable => ⟨?_, ?_⟩, fun unusable i mem => ?_,
      fun u fresh => ?_, fun i mem usable => ?_, fun u w read low valid serial => ?_⟩
    · have context := And.intro grant (And.intro group register)
      exact ⟨copies_plain rfl (alone fun _ => context) nofun, copies_plain rfl (alone fun _ => context) nofun, fun usable =>
        ⟨copies_plain rfl (arriving usable fun _ => context) nofun, copies_plain rfl (arriving usable fun _ => context) nofun⟩⟩
    · obtain ⟨len, form, arrive, register, streams⟩ := streams_register s d a b q k i mem
      exact traps_next (t := s.badVec) (streams.trans (State.vstream_noContext free register lacks))
    · exact copies_plain rfl (alone nofun) nofun
    · exact copies_plain rfl (alone nofun) nofun
    · exact copies_plain rfl (arriving usable nofun) nofun
    · exact copies_plain rfl (arriving usable nofun) nofun
    · obtain ⟨form, share, streams⟩ := streams_arriving s d a b q k i mem
      exact traps_next (t := s.badVec) (streams.trans (State.vstream_unusable free level share unusable))
    · exact ⟨copies_box rfl (alone nofun) (.inl rfl) fresh, copies_box rfl (alone nofun) (.inr rfl) fresh, fun usable =>
        ⟨copies_box rfl (arriving usable nofun) (.inl rfl) fresh, copies_box rfl (arriving usable nofun) (.inr rfl) fresh⟩⟩
    · obtain ⟨len, form, arrive, box, streams, arrives⟩ := streams_box s d a b q k i mem
      have share {p : Prop} (reg : form.isReg = true) : p := by rcases box with rfl | rfl <;> cases reg
      refine traps_stale streams ?_ box
      rcases arrives with rfl | ⟨rfl, arrives⟩
      · exact alone share
      · exact arriving (usable arrives) share
    · rw [State.handleCheck_read read low, handleStale_fresh low valid serial]
  · refine ⟨fun free => ?_, fun busy => ?_, fun done => ?_, fun free => ?_, fun busy => ?_, fun done => ?_⟩
    · exact goes_retire (exec_swait_free level free)
    · exact exec_swait_busy level busy
    · refine ⟨_, exec_swait_done level done, ?_, ?_, ?_⟩
      · rw [← s.consumed_pc q]
        exact went_retire (s.consumed q) 4
      · rw [State.retire_slot]
        exact s.consumed_slot q
      · rw [State.retire_msgs]
        exact s.consumed_msgs q
    · exact ⟨_, exec_squery_free level d free, wroteV_writeRegV ..⟩
    · exact ⟨_, exec_squery_busy level d busy, wroteV_writeRegV ..⟩
    · refine ⟨_, exec_squery_done level d done, ?_, wroteV_writeRegV ..⟩
      rw [State.writeRegV_slot]
      exact s.consumed_slot q

end Sys2Proof.Machine
end

section
/-! SUPPORT. Events of a compute die that touch rows, TLBs and frames: DRAM rows and hints (13 R380, R382, 14 R421), page walks and TLB
invalidation (13 R390, R391), and migration (13 R392 to R394). -/

namespace Sys2Proof.Machine

open Sys2Proof

/-- `regBecomes_wr` with the states taken from the goal. -/
theorem regBecomes_of_wr {s t : State} {r : Nat} {v : Word} (form : NMap.wf 0 s.fw = true) (writes : t = s.wr r v) : RegBecomes s t r v :=
  writes ▸ regBecomes_wr form r v

/-! ### Rows (13 R380, R382, 14 R421) -/

theorem State.clear_iff {s : State} : s.clear = true ↔ s.sys.lull.phase = .clear := decide_eq_true_iff

section
variable {s : State} {pa : Word} {b r : Nat}

theorem exec_dramAccess_opens (row : dramRow (pa.toNat % 2 ^ 52) = some (b, r)) (phase : s.sys.lull.phase = .clear) :
    exec (.dramAccess pa) s = .next { s with sys := { s.sys with rows := NMap.set 0 s.sys.rows b (r + 1) } } := by
  show execDramAccess pa s = _
  rw [execDramAccess, if_pos (State.clear_iff.mpr phase), State.openRow, row]
  rfl

theorem exec_dramAccess_held (row : dramRow (pa.toNat % 2 ^ 52) = some (b, r)) (phase : s.sys.lull.phase ≠ .clear) :
    exec (.dramAccess pa) s = .next { s with sys := { s.sys with dramHeld := s.sys.dramHeld ++ [pa.toNat % 2 ^ 52] } } := by
  show execDramAccess pa s = _
  rw [execDramAccess, if_neg (mt State.clear_iff.mp phase), row]
  rfl

theorem exec_rowIdleClose (row : dramRow (pa.toNat % 2 ^ 52) = some (b, r)) :
    exec (.rowIdleClose pa) s = .next { s with sys := { s.sys with rows := NMap.set 0 s.sys.rows b 0 } } := by
  show execRowIdleClose pa s = _
  rw [execRowIdleClose, row]
  rfl

end

theorem exec_ractArrival_opens {s : State} {n : Nat} (here : n < s.sys.racts.length) (phase : s.sys.lull.phase = .clear) :
    exec (.ractArrival n) s =
      .next (({ s with sys := { s.sys with racts := s.sys.racts.eraseIdx n } } : State).openRow s.sys.racts[n]!) := by
  show execRactArrival n s = _
  rw [execRactArrival, List.getElem?_eq_getElem here, getElem!_pos s.sys.racts n here]
  exact if_pos (State.clear_iff.mpr phase)

/-- A hint stays on its way in a drain or a lull; beyond the last one there is none. -/
theorem exec_ractArrival_waits {s : State} {n : Nat} (stays : s.sys.lull.phase ≠ .clear ∨ s.sys.racts.length ≤ n) :
    exec (.ractArrival n) s = .next s := by
  show execRactArrival n s = _
  rw [execRactArrival]
  split
  · rfl
  · next found =>
    obtain ⟨here, -⟩ := List.getElem?_eq_some_iff.mp found
    exact if_neg (mt State.clear_iff.mp (stays.resolve_right (by omega)))

/-! ### Walks (13 R388, R390, R399) -/

section
variable {s : State} {t : Tid} {va : Word} (bound : (s.strand t).run ≠ .unbound)
include bound

theorem not_unbound : ¬ (!(s.strand t).bound) = true := by simp [Strand.bound, bound]

theorem exec_walkComplete_leaf {leaf : Word} {big : Bool}
    (walk : s.leafFor (s.agentOf t) (va.toNat % 2 ^ 48) = .ok (leaf, big)) :
    exec (.walkComplete t va) s = .next (s.noteWalk (s.agentOf t) (va.toNat % 2 ^ 48) leaf big) := by
  show execWalkComplete t va s = _
  rw [execWalkComplete, if_neg (not_unbound bound)]
  dsimp only
  rw [walk]

/-- A walk that fails does nothing. -/
theorem exec_walkComplete_fails {k : Nat} (walk : s.leafFor (s.agentOf t) (va.toNat % 2 ^ 48) = .error (.trap k)) :
    exec (.walkComplete t va) s = .next s := by
  show execWalkComplete t va s = _
  rw [execWalkComplete, if_neg (not_unbound bound)]
  dsimp only
  rw [walk]

theorem exec_walkComplete_poisoned {die pa : Nat}
    (walk : s.leafFor (s.agentOf t) (va.toNat % 2 ^ 48) = .error (.entry die pa)) :
    exec (.walkComplete t va) s = .next
      { ({ s with ir := s.walkFor t (va.toNat % 2 ^ 48) } : State).logEntry (s.agentOf t) die pa with ir := s.ir } := by
  show execWalkComplete t va s = _
  rw [execWalkComplete, if_neg (not_unbound bound)]
  dsimp only
  rw [walk]

end

/-! ### Invalidation of TLB entries (13 R391) -/

theorem setsReg_tlbinvGo {s : State} (h : s.canonical = true) {d : DieNo} (idle : NMap.get false s.sys.tlbinv d.toNat = false) (v : Word) :
    SetsReg (.tlbinvGo d v) s { s with sys := { s.sys with
        tlbinv := if bitOf v 63 then NMap.set false s.sys.tlbinv d.toNat true else s.sys.tlbinv } }
      (rTlbinv d.toNat) (v &&& 0x2000001FFFFFFFFF) := by
  have stores : s.writeTlbinv d.toNat v = ({ s with sys := { s.sys with
      tlbinv := if bitOf v 63 then NMap.set false s.sys.tlbinv d.toNat true else s.sys.tlbinv } } : State).wr
        (rTlbinv d.toNat) (v &&& 0x2000001FFFFFFFFF) := by
    rw [State.writeTlbinv, if_neg (by simp [idle])]
    cases bitOf v 63
    · rfl
    · rfl
  exact ⟨_, congrArg Host.Outcome.next stores, regBecomes_of_wr (State.canonical_fw h) rfl⟩

/-- What TLBINV leaves of a list of entries. -/
theorem dropsNamed_filter (w : Word) (l : List TlbEntry) : DropsNamed w l (l.filter fun x => !tlbNamed w x) := by
  refine congrArg (l.filter ·) (funext fun e => ?_)
  unfold tlbNamed
  cases e.big
  · rfl
  · rfl

/-- The table of TLB lists without the entries that satisfy `p`, as `State.dropTlb` cuts it. -/
def cutLists (p : TlbEntry → Bool) (m : NMap (List TlbEntry)) : NMap (List TlbEntry) :=
  m.foldl (fun m e => NMap.set [] m e.1 (e.2.filter fun x => !p x)) []

theorem get_cutLists (p : TlbEntry → Bool) {m : NMap (List TlbEntry)} (form : NMap.wf [] m = true) (k : Nat) :
    NMap.get [] (cutLists p m) k = (NMap.get [] m k).filter fun x => !p x := by
  exact NMap.get_rebuild (g := fun l => l.filter fun x => !p x) rfl form k

/-- Both tables of a cluster are cut, and nothing else of it changes. -/
theorem State.dropTlb_cluster {s : State} (form : NMap.wf Cluster.reset s.clusters = true) (p : TlbEntry → Bool) (c : Nat) :
    (s.dropTlb p).cluster c =
      { s.cluster c with tlb := cutLists p (s.cluster c).tlb, laneTlb := cutLists p (s.cluster c).laneTlb } :=
  NMap.get_rebuild (g := fun k : Cluster => { k with tlb := cutLists p k.tlb, laneTlb := cutLists p k.laneTlb }) rfl form c

/-- Each TLB of a cluster drops the entries that `w` names. -/
theorem dropsNamed_dropTlb {s : State} (form : s.tlbsCanonical) (w : Word) (c : Nat) :
    let u := s.dropTlb (tlbNamed w)
    u.cluster c = { s.cluster c with tlb := (u.cluster c).tlb, laneTlb := (u.cluster c).laneTlb } ∧
      ∀ k, DropsNamed w (NMap.get [] (s.cluster c).tlb k) (NMap.get [] (u.cluster c).tlb k) ∧
        DropsNamed w (NMap.get [] (s.cluster c).laneTlb k) (NMap.get [] (u.cluster c).laneTlb k) := by
  intro u
  obtain ⟨clusters, lists⟩ := form
  obtain ⟨tlb, laneTlb⟩ := lists c
  rw [show u.cluster c = _ from State.dropTlb_cluster clusters (tlbNamed w) c]
  refine ⟨rfl, fun k => ⟨?_, ?_⟩⟩
  · rw [get_cutLists _ tlb]
    exact dropsNamed_filter _ _
  · rw [get_cutLists _ laneTlb]
    exact dropsNamed_filter _ _

theorem tlbinvDone_drops {s : State} {d : DieNo} (ready : s.tlbinvReady d.toNat = true) (form : s.tlbsCanonical) :
    ∃ u, exec (.tlbinvDone d) s = .next u ∧
      let w := s.rd (rTlbinv d.toNat)
      DropsNamed w s.sys.tlb u.sys.tlb ∧
      (∀ c, u.cluster c = { s.cluster c with tlb := (u.cluster c).tlb, laneTlb := (u.cluster c).laneTlb } ∧
        ∀ k, DropsNamed w (NMap.get [] (s.cluster c).tlb k) (NMap.get [] (u.cluster c).tlb k) ∧
          DropsNamed w (NMap.get [] (s.cluster c).laneTlb k) (NMap.get [] (u.cluster c).laneTlb k)) ∧
      u = { s with fresh := s.fresh + 1, clusters := u.clusters, sys := { s.sys with
        tlb := u.sys.tlb, tlbinv := NMap.set false s.sys.tlbinv d.toNat false } } :=
  ⟨_, if_pos ready, dropsNamed_filter _ _, dropsNamed_dropTlb form _, rfl⟩

/-! ### Migration (13 R392 to R394) -/

/-- A GO alone: the frames that refuse it, and the channel that takes it. -/
theorem writeMigctl_go (s : State) (d n : Nat) {v : Word} (go : bitOf v 63 = true) (done : bitOf v 61 = false) (err : bitOf v 60 = false) :
    let i := 4 * d + n
    let src := fld (s.rd (rMigsrc d n)) 16 36
    let dst := fld (s.rd (rMigdst d n)) 16 36
    s.writeMigctl d n v =
      if i ∈ s.sys.migrating ∨ src = dst ∨ s.frameBusy i src = true ∨ s.frameBusy i dst = true ∨ migratable src = false ∨
          migratable dst = false ∨ s.frameClassed d src = true then
        s.wr (rMigctl d n) (setBit (s.rd (rMigctl d n)) 60 true)
      else ({ s with sys := { s.sys with migrating := s.sys.migrating ++ [i] } } : State).wr (rMigctl d n) (setBit 0 62 true) := by
  intro i src dst
  unfold State.writeMigctl
  simp only [go, done, err, Bool.and_false, Bool.not_true, Bool.false_eq_true, if_false]
  refine if_congr ?_ rfl rfl
  simp only [Bool.or_eq_true, List.elem_iff, decide_eq_true_eq, Bool.not_eq_true', or_assoc]
  exact Iff.rfl

/-- DONE cleared alone. -/
theorem writeMigctl_clears {s : State} {d n : Nat} {v : Word} (was : bitOf (s.rd (rMigctl d n)) 61 = true) (done : bitOf v 61 = true)
    (err : bitOf v 60 = false) (go : bitOf v 63 = false) :
    s.writeMigctl d n v =
      ({ s with sys := { s.sys with migrating := s.sys.migrating.filter fun j => !decide (j = 4 * d + n) } } : State).wr
        (rMigctl d n) (setBit 0 60 (bitOf (s.rd (rMigctl d n)) 60)) := by
  unfold State.writeMigctl
  simp only [was, done, err, go, Bool.and_self, Bool.not_false, Bool.false_eq_true, if_true, if_false]
  rfl

/-- A line of memory copied: its bytes stand at the target too, and no other line changes. -/
theorem byte_copyLine {m : Memory} (form : m.wf = true) (fr to_ : Nat) :
    (∀ i, i < 64 → (m.setBytes (64 * to_) (m.bytes (64 * fr) 64)).byte (64 * to_ + i) = m.byte (64 * fr + i)) ∧
      ∀ a, a / 64 ≠ to_ → (m.setBytes (64 * to_) (m.bytes (64 * fr) 64)).byte a = m.byte a := by
  refine ⟨fun i hi => ?_, fun a other => Memory.byte_setBytes_outside ?_ form⟩
  · have inside : i < (m.bytes (64 * fr) 64).length := by rwa [Memory.bytes_length]
    rw [Memory.byte_setBytes_inside inside form, Memory.bytes_get]
  · rw [Memory.bytes_length]
    omega

theorem State.moved_fw (s : State) (fr to_ : Nat) : ((s.copyLine fr to_).moveLine fr to_).fw = s.fw := by
  rw [State.moveLine, State.onSys, State.pushAll, State.copyLine]

/-- The state in which a channel has moved line `fr` to line `to_`, without its count. -/
def State.lineMoved (s : State) (fr to_ : Nat) : State :=
  { (s.copyLine fr to_).moveLine fr to_ with fresh := ((s.copyLine fr to_).moveLine fr to_).fresh + 1 }

theorem State.lineMoved_mem (s : State) (fr to_ : Nat) :
    (s.lineMoved fr to_).mem = s.mem.setBytes (64 * to_) (s.mem.bytes (64 * fr) 64) := by
  rw [State.lineMoved, State.moveLine, State.onSys, State.pushAll, State.copyLine]

theorem State.lineMoved_fw (s : State) (fr to_ : Nat) : (s.lineMoved fr to_).fw = s.fw := by
  rw [State.lineMoved, State.moved_fw]

theorem exec_migrationLineDone {s : State} (d : DieNo) (q : BitVec 2) (busy : bitOf (s.rd (rMigctl d.toNat q.toNat)) 62 = true)
    (phase : s.sys.lull.phase = .clear) :
    let k := fld (s.rd (rMigctl d.toNat q.toNat)) 0 11
    let u := s.lineMoved (fld (s.rd (rMigsrc d.toNat q.toNat)) 16 36 * 1024 + k) (fld (s.rd (rMigdst d.toNat q.toNat)) 16 36 * 1024 + k)
    let w := setFld (s.rd (rMigctl d.toNat q.toNat)) 0 11 (k + 1)
    exec (.migrationLineDone d q) s =
      .next (u.wr (rMigctl d.toNat q.toNat) (if k = 1023 then setBit (setBit w 62 false) 61 true else w)) := by
  have goes : s.migrates d.toNat q.toNat = true := Bool.and_eq_true_iff.mpr ⟨busy, State.clear_iff.mpr phase⟩
  show execMigrationLineDone d q s = _
  rw [execMigrationLineDone]
  dsimp only
  rw [if_pos goes, State.rd_congr (s.moved_fw _ _)]
  simp only [Nat.reduceEqDiff, State.lineMoved]

theorem migrationLineDone_copies {s : State} (h : s.canonical = true) (d : DieNo) (q : BitVec 2)
    (busy : bitOf (s.rd (rMigctl d.toNat q.toNat)) 62 = true) (phase : s.sys.lull.phase = .clear) :
    let k := fld (s.rd (rMigctl d.toNat q.toNat)) 0 11
    let fr := fld (s.rd (rMigsrc d.toNat q.toNat)) 16 36 * 1024 + k
    let to_ := fld (s.rd (rMigdst d.toNat q.toNat)) 16 36 * 1024 + k
    ∃ u, exec (.migrationLineDone d q) s = .next u ∧
      (∀ i, i < 64 → u.mem.byte (64 * to_ + i) = s.mem.byte (64 * fr + i)) ∧
      (∀ a, a / 64 ≠ to_ → u.mem.byte a = s.mem.byte a) ∧
      u.rd (rMigctl d.toNat q.toNat) = (let w := setFld (s.rd (rMigctl d.toNat q.toNat)) 0 11 (k + 1)
        if k = 1023 then setBit (setBit w 62 false) 61 true else w) := by
  intro k fr to_
  have form : NMap.wf 0 (s.lineMoved fr to_).fw = true := by
    rw [State.lineMoved_fw]
    exact State.canonical_fw h
  obtain ⟨copied, kept⟩ := byte_copyLine (State.canonical_mem h) fr to_
  refine ⟨_, exec_migrationLineDone d q busy phase, ?_, ?_, State.rd_wr_same form _ _⟩
  · rw [State.wr_mem, State.lineMoved_mem]
    exact copied
  · rw [State.wr_mem, State.lineMoved_mem]
    exact kept

end Sys2Proof.Machine
end

section
/-! SUPPORT. Lines that leave the caches, and the events that make them leave or touch the registers of a die: the memory-side scratchpad
(13 R384), injection into DRAM (13 R398), the die error log (13 R399), links (13 R400) and the installation of keys (14 R405). -/

namespace Sys2Proof.Machine

open Sys2Proof

/-! ### Lines that leave the caches -/

theorem holds_cons {i : Nat} {x : List CacheLine} {m : NMap (List CacheLine)} {k : Nat} {l : CacheLine} :
    Holds ((i, x) :: m) k l ↔ (k = i ∧ l ∈ x) ∨ Holds m k l := by
  simp only [Holds, List.mem_cons, Prod.mk.injEq]
  constructor
  · rintro ⟨y, ⟨rfl, rfl⟩ | listed, line⟩
    · exact .inl ⟨rfl, line⟩
    · exact .inr ⟨y, listed, line⟩
  · rintro (⟨rfl, line⟩ | ⟨y, listed, line⟩)
    · exact ⟨x, .inl ⟨rfl, rfl⟩, line⟩
    · exact ⟨y, .inr listed, line⟩

/-- A set filtered in place, in any table: the lines that the filter keeps are held as before. -/
theorem holds_set_filter {p : CacheLine → Bool} {l : CacheLine} (keeps : p l = true) (m : NMap (List CacheLine)) (k j : Nat) :
    Holds (NMap.set [] m k ((NMap.get [] m k).filter p)) j l ↔ Holds m j l := by
  induction m with
  | nil => rfl
  | cons e m ih =>
    obtain ⟨i, x⟩ := e
    unfold NMap.set NMap.get
    by_cases below : k < i
    · simp only [below, if_true, List.filter_nil]
    · by_cases here : k = i
      · simp only [here, if_true, if_false, lt_irrefl]
        by_cases empty : x.filter p = []
        · have gone : l ∉ x := fun line => List.filter_eq_nil_iff.mp empty l line keeps
          simp only [empty, if_true, holds_cons, gone, and_false, false_or]
        · simp only [empty, if_false, holds_cons, List.mem_filter, keeps, and_true]
      · simp only [below, here, if_false, holds_cons, ih]

/-- The removal of replicas of line `l` touches no memory-side cache and no other line of an L2 slice. -/
theorem dropReplica_foldl (v : BitVec 4) (l : Nat) (ds : List Nat) (y : Sys) :
    let z := ds.foldl (fun (y : Sys) d => if v.getLsbD d then y.dropReplica l d else y) y
    z.msc = y.msc ∧ ∀ k x, x.tag ≠ l → (Holds z.l2 k x ↔ Holds y.l2 k x) := by
  induction ds generalizing y with
  | nil => exact ⟨rfl, fun _ _ _ => Iff.rfl⟩
  | cons d ds ih =>
    simp only [List.foldl_cons]
    split
    · obtain ⟨msc, l2⟩ := ih (y.dropReplica l d)
      exact ⟨msc, fun k x other => (l2 k x other).trans (holds_set_filter (by simpa using other) y.l2 _ k)⟩
    · exact ih y

/-- `s` with the memory of `u`, its syndromes and its poison, and with the registers and the agenda of `u`. -/
def State.storing (s u : State) : State :=
  { s with mem := u.mem, poison := u.poison, synd := u.synd, fw := u.fw, agenda := u.agenda }

theorem State.foldl_storing {α : Type} {f : State → α → State} {v : State} (each : ∀ u a, f (u.storing v) a = (f u a).storing v)
    (xs : List α) (s : State) : xs.foldl f (s.storing v) = (xs.foldl f s).storing v :=
  List.foldl_hom (fun u => State.storing u v) each

theorem State.foldl_sys {α : Type} {f : State → α → State} (each : ∀ u a, (f u a).sys = u.sys) (xs : List α) (s : State) :
    (xs.foldl f s).sys = s.sys := by
  induction xs generalizing s with
  | nil => rfl
  | cons a xs ih => exact (ih _).trans (each s a)

/-- The removal of a line's copies reads neither memory nor registers nor the agenda, and changes none of them. -/
theorem State.dropCopies_storing (s u : State) (l : Nat) : (s.storing u).dropCopies l = (s.dropCopies l).storing u := by
  unfold State.dropCopies
  dsimp only
  rw [State.foldl_storing, State.foldl_storing]
  · rfl
  · exact fun _ _ => rfl
  · exact fun _ _ => rfl

theorem State.dropCopies_fw (s : State) (l : Nat) : (s.dropCopies l).fw = s.fw := by
  rw [show s.dropCopies l = (s.dropCopies l).storing s from s.dropCopies_storing s l]
  rfl

/-- Of the package's own parts the removal changes what the removal of the replicas changes. -/
theorem State.dropCopies_sys (s : State) (l : Nat) : (s.dropCopies l).sys = (s.dropReplicas l).sys := by
  have replicas (u : State) (same : u.sys = s.sys) : (u.dropReplicas l).sys = (s.dropReplicas l).sys := by
    unfold State.dropReplicas
    simp only [State.onSys_sys, same]
  refine replicas _ ?_
  rw [State.foldl_sys, State.foldl_sys]
  · exact fun _ _ => rfl
  · exact fun _ _ => rfl

/-- Neither the memory-side caches nor another line of an L2 slice see the removal of a line's copies. -/
theorem State.dropCopies_lines (s : State) (l : Nat) :
    (s.dropCopies l).sys.msc = s.sys.msc ∧
      ∀ k x, x.tag ≠ l → (Holds (s.dropCopies l).sys.l2 k x ↔ Holds s.sys.l2 k x) := by
  rw [State.dropCopies_sys]
  exact dropReplica_foldl _ l (List.range 4) s.sys

theorem asksDram_flushLines (s : State) (gone : CacheLine → Bool) : AsksDram s (s.flushLines gone) := asksDram_pushAll rfl

theorem holds_flushLines_l2 (s : State) (p : CacheLine → Prop) [DecidablePred p] (k : Nat) (l : CacheLine) :
    Holds (s.flushLines fun l => decide (p l)).sys.l2 k l ↔ Holds s.sys.l2 k l ∧ ¬ p l :=
  (holds_cacheDrop s.sys.l2 (fun _ l => decide (p l)) k l).trans (by rw [decide_eq_true_eq])

theorem holds_flushLines_msc (s : State) (p : CacheLine → Prop) [DecidablePred p] (k : Nat) (l : CacheLine) :
    Holds (s.flushLines fun l => decide (p l)).sys.msc k l ↔ Holds s.sys.msc k l ∧ ¬ p l :=
  (holds_cacheDrop s.sys.msc (fun _ l => decide (p l)) k l).trans (by rw [decide_eq_true_eq])

theorem holds_flushMscWays (s : State) (d w k : Nat) (l : CacheLine) :
    Holds (s.flushMscWays d w).sys.msc k l ↔ Holds s.sys.msc k l ∧ ¬ (k / 32768 = d ∧ w ≤ l.way) :=
  (holds_cacheDrop s.sys.msc (fun k l => decide (k / 32768 = d) && decide (w ≤ l.way)) k l).trans
    (by rw [Bool.and_eq_true, decide_eq_true_eq, decide_eq_true_eq])

/-! ### The memory-side scratchpad (13 R384) -/

theorem writeMscsp_ignored {s : State} {d : Nat} {v : Word}
    (same : bitOf (s.rd (rMscsp d)) 8 = true ∨ min (fld v 0 5) 16 = fld (s.rd (rMscsp d)) 0 5) : s.writeMscsp d v = s :=
  if_pos (by simpa using same)

theorem mscspWrite_wipes {s : State} (h : s.canonical = true) (d : DieNo) (v : Word) :
    let old := fld (s.rd (rMscsp d.toNat)) 0 5
    let n := min (fld v 0 5) 16
    bitOf (s.rd (rMscsp d.toNat)) 8 = false → n ≠ old →
      ∃ u, exec (.mscspWrite d v) s = .next u ∧
        Wiped s u.mem (0x200000000000 + 0x2000000 * d.toNat + 0x200000 * min n old) (0x200000 * (max n old - min n old)) ∧
        RegBecomes { s with mem := u.mem, poison := u.poison, synd := u.synd } u (rMscsp d.toNat) (word (256 + n)) := by
  intro old n idle changes
  have writes : s.writeMscsp d.toNat v = _ := if_neg (by simpa [idle] using changes)
  exact ⟨_, congrArg Host.Outcome.next writes, fun k => Memory.byte_clear _ _ _ _ (State.canonical_mem h),
    regBecomes_of_wr (State.canonical_fw (s := s) h) rfl⟩

theorem mscspConversionDone_flushes {s : State} (h : s.canonical = true) (d : DieNo) (pend : bitOf (s.rd (rMscsp d.toNat)) 8 = true)
    (phase : s.sys.lull.phase = .clear) :
    ∃ u, exec (.mscspConversionDone d) s = .next u.releaseKept ∧ AsksDram s u ∧
      (∀ k l, Holds u.sys.msc k l ↔ Holds s.sys.msc k l ∧
        ¬ (k / 32768 = d.toNat ∧ 16 - fld (s.rd (rMscsp d.toNat)) 0 5 ≤ l.way)) ∧
      RegBecomes { s with fresh := s.fresh + 1, agenda := u.agenda, sys := { s.sys with msc := u.sys.msc } } u
        (rMscsp d.toNat) (setBit (s.rd (rMscsp d.toNat)) 8 false) := by
  have ends : (bitOf (s.rd (rMscsp d.toNat)) 8 && s.clear) = true := Bool.and_eq_true_iff.mpr ⟨pend, State.clear_iff.mpr phase⟩
  exact ⟨_, if_pos ends, asksDram_pushAll rfl, holds_flushMscWays _ _ _,
    regBecomes_of_wr (State.canonical_fw h) rfl⟩

/-! ### Injection into DRAM (13 R398) -/

/-- `s` with the word of DRDATA planted at address `a` and `chk` in DRCHK. -/
def State.drPlanted (s : State) (d a chk : Nat) : State :=
  (s.wr (rDrchk d) (word chk)).plant a (s.rd (rDrdata d)) (BitVec.ofNat 8 chk ^^^ checkBits (s.rd (rDrdata d)))

/-- A GO at a word stored in plaintext: the copies of its line go first, since their removal does not see the word. -/
theorem writeDrchk_go {s : State} {d : Nat} {v : Word} (enabled : bitOf (s.rd (rDerrcfg d)) 0 = true) (go : bitOf v 63 = true)
    (calc_ : bitOf v 62 = false) :
    let a := fld (s.rd (rDraddr d)) 3 49 * 8
    drTargetOk d a = true → NMap.get 0 s.lineKey (a / 64) = 0 →
      s.writeDrchk d v = (((s.dropCopies (a / 64)).storing (s.drPlanted d a (fld v 0 8))).flushLines fun l =>
        decide (l.tag = a / 64)).pushAll (dramAsk a) := by
  intro a target plain
  have planted : (s.wr (rDrchk d) (word (fld v 0 8))).drStore a (s.rd (rDrdata d)) (fld v 0 8) =
      s.storing (s.drPlanted d a (fld v 0 8)) := by
    simp only [State.drStore, State.wr_lineKey, plain, if_true]
    rfl
  simp only [State.writeDrchk, go, calc_, enabled, target, a, Bool.not_true, Bool.not_false, Bool.false_and, Bool.and_false,
    Bool.false_eq_true, if_false, Bool.toNat_false, Nat.zero_mul, Nat.zero_add]
  rw [planted, State.dropCopies_storing]

section
variable {s : State} (h : s.canonical = true) (d : DieNo) {v : Word}
include h

theorem drchkGo_stores (enabled : bitOf (s.rd (rDerrcfg d.toNat)) 0 = true) (go : bitOf v 63 = true) (calc_ : bitOf v 62 = false) :
    let a := fld (s.rd (rDraddr d.toNat)) 3 49 * 8
    drTargetOk d.toNat a = true → NMap.get 0 s.lineKey (a / 64) = 0 →
      ∃ u, exec (.drchkGo d v) s = .next u ∧ StoredBytes s u.mem a 8 (s.rd (rDrdata d.toNat)) ∧ AsksDram s u ∧
        (∀ k l, Holds u.sys.l2 k l ↔ Holds s.sys.l2 k l ∧ ¬ l.tag = a / 64) ∧
        (∀ k l, Holds u.sys.msc k l ↔ Holds s.sys.msc k l ∧ ¬ l.tag = a / 64) ∧
        RegBecomes { s.dropCopies (a / 64) with
          mem := u.mem
          agenda := u.agenda
          sys := { (s.dropCopies (a / 64)).sys with l2 := u.sys.l2, msc := u.sys.msc }
          poison := NMap.set false s.poison (a / 8) false
          synd := NMap.set 0 s.synd (a / 8) (BitVec.ofNat 8 (fld v 0 8) ^^^ checkBits (s.rd (rDrdata d.toNat))) } u
          (rDrchk d.toNat) (word (fld v 0 8)) := by
  intro a target plain
  obtain ⟨msc, l2⟩ := s.dropCopies_lines (a / 64)
  refine ⟨_, congrArg Host.Outcome.next (writeDrchk_go enabled go calc_ target plain), storedBytes_setBytes (State.canonical_mem h) ..,
    ?_, fun k l => ?_, fun k l => ?_, ?_⟩
  · exact asksDram_append ((asksDram_of_eq rfl).trans (asksDram_flushLines ((s.dropCopies (a / 64)).storing _) _)) rfl
  · exact (holds_flushLines_l2 _ (fun l => l.tag = a / 64) k l).trans (and_congr_left (l2 k l))
  · exact (holds_flushLines_msc _ (fun l => l.tag = a / 64) k l).trans (and_congr_left fun _ => msc ▸ Iff.rfl)
  · refine regBecomes_of_wr (by rw [State.dropCopies_fw]; exact State.canonical_fw h) ?_
    simp only [State.wr, State.dropCopies_fw]
    rfl

theorem drchkCalc_checks (enabled : bitOf (s.rd (rDerrcfg d.toNat)) 0 = true) (go : bitOf v 63 = false) (calc_ : bitOf v 62 = true) :
    ∃ u, exec (.drchkCalc d v) s = .next u ∧
      RegBecomes s u (rDrchk d.toNat) ((checkBits (s.rd (rDrdata d.toNat))).setWidth 64) := by
  have checks : s.writeDrchk d.toNat v = s.wr (rDrchk d.toNat) ((checkBits (s.rd (rDrdata d.toNat))).setWidth 64) := by
    simp [State.writeDrchk, enabled, go, calc_, BitVec.ofNat_toNat]
  exact ⟨_, congrArg Host.Outcome.next checks, regBecomes_wr (State.canonical_fw h) _ _⟩

theorem drchk_disabled (disabled : bitOf (s.rd (rDerrcfg d.toNat)) 0 = false) (asks : bitOf v 63 = true ∨ bitOf v 62 = true) :
    ∃ u, exec (.drchkGo d v) s = .next u ∧ exec (.drchkCalc d v) s = .next u ∧
      RegBecomes s u (rDrchk d.toNat) (setBit (s.rd (rDrchk d.toNat)) 61 true) := by
  have refuses : s.writeDrchk d.toNat v = s.wr (rDrchk d.toNat) (setBit (s.rd (rDrchk d.toNat)) 61 true) := by
    rcases asks with go | check
    · simp [State.writeDrchk, disabled, go]
    · simp [State.writeDrchk, disabled, check]
  exact ⟨_, congrArg Host.Outcome.next refuses, congrArg Host.Outcome.next refuses, regBecomes_wr (State.canonical_fw h) _ _⟩

/-! ### The die error log (13 R399) -/

theorem dlogtailWrite_becomes (v : Word) :
    ∃ u, exec (.dlogtailWrite d v) s = .next u ∧ RegsBecome s u
      (rDlogtail d.toNat) (word (min (fld v 0 32) (fld (s.rd (rDloghead d.toNat)) 0 32)))
      (rDloghead d.toNat) (setFld (s.rd (rDloghead d.toNat)) 32 8 0) := by
  have apart : rDloghead d.toNat / 8 ≠ rDlogtail d.toNat / 8 := by unfold rDloghead rDlogtail dieBlock; omega
  refine ⟨_, rfl, ?_⟩
  unfold State.upd
  rw [State.rd_wr_other (State.canonical_fw h) _ apart]
  exact regsBecome_wr (State.canonical_fw h) _ _ _ _ apart.symm

end

/-! ### Links (13 R400) -/

theorem replay_counts {s : State} {key : Nat} (die : Nat) (w2 : Word) (early : NMap.get 0 s.sys.replays key ≠ 7) :
    s.replay key die w2 =
      { s with sys := { s.sys with replays := NMap.set 0 s.sys.replays key (NMap.get 0 s.sys.replays key + 1) } } :=
  if_neg (by omega)

/-- The eighth replay is logged, which changes registers and firmware's events, and the link is marked. -/
theorem replay_eighth {s : State} {key : Nat} (die : Nat) (w2 : Word) (last : NMap.get 0 s.sys.replays key = 7) :
    ∃ m ev, s.replay key die w2 = { s with
      fw := m
      sys := { s.sys with replays := NMap.set 0 s.sys.replays key 8, events := ev, retrain := s.sys.retrain ++ [key] } } := by
  obtain ⟨m, ev, logged⟩ := logDie_shape { s with sys := { s.sys with replays := NMap.set 0 s.sys.replays key 8 } } die (linkRecord w2)
  refine ⟨m, ev, ?_⟩
  unfold State.replay
  simp only [last, Nat.reduceAdd, if_true, State.onSys]
  rw [logged]

/-! ### Keys (14 R405) -/

/-- A slot number with BUSY has no ERR bit to clear. -/
theorem setBit_err_slot {n : Nat} (small : n < 2 ^ 7) : setBit (setBit (word n) 62 true) 61 false = setBit (word n) 62 true := by
  refine BitVec.eq_of_getLsbD_eq fun i hi => ?_
  rw [getLsbD_setBit]
  by_cases err : i = 61
  · have high : n.testBit 61 = false := Nat.testBit_lt_two_pow (small.trans (by decide))
    rw [if_pos err, getLsbD_setBit, if_neg (by omega), err, BitVec.getLsbD_ofNat, high]
    rfl
  · simp [err, hi]

theorem keycmdGo_becomes {s : State} (h : s.canonical = true) (v : Word) :
    ∃ u, exec (.keycmdGo v) s = .next u ∧
      (bitOf v 63 = true → bitOf (s.rd rKeycmd) 62 = false → fld v 0 7 ≠ 0 →
        RegBecomes { s with sys := { s.sys with keySlot := fld v 0 7 } } u rKeycmd (setBit (word (fld v 0 7)) 62 true)) ∧
      (bitOf v 63 = true → bitOf (s.rd rKeycmd) 62 = true ∨ fld v 0 7 = 0 → RegBecomes s u rKeycmd (setBit (s.rd rKeycmd) 61 true)) ∧
      (bitOf v 63 = false → RegBecomes s u rKeycmd (setBit (setBit (word (fld v 0 7)) 62 (bitOf (s.rd rKeycmd) 62)) 61
        (bitOf (s.rd rKeycmd) 61 && !bitOf v 61))) := by
  refine ⟨s.writeKeycmd v, rfl, fun go idle slot => ?_, fun go refused => ?_, fun stores => ?_⟩
  · have begins : s.writeKeycmd v = ({ s with sys := { s.sys with keySlot := fld v 0 7 } } : State).wr rKeycmd
        (setBit (word (fld v 0 7)) 62 true) := by
      simp only [State.writeKeycmd, go, idle, slot, decide_false, Bool.or_false, Bool.and_false, Bool.not_true,
        Bool.false_eq_true, if_false, if_true]
      rw [setBit_err_slot (fld_lt v 0 7)]
      rfl
    rw [begins]
    exact regBecomes_of_wr (State.canonical_fw h) rfl
  · have refuses : s.writeKeycmd v = s.wr rKeycmd (setBit (s.rd rKeycmd) 61 true) := if_pos (by simpa [go] using refused)
    rw [refuses]
    exact regBecomes_wr (State.canonical_fw h) _ _
  · have writes : s.writeKeycmd v = s.wr rKeycmd (setBit (setBit (word (fld v 0 7)) 62 (bitOf (s.rd rKeycmd) 62)) 61
        (bitOf (s.rd rKeycmd) 61 && !bitOf v 61)) := by
      simp [State.writeKeycmd, stores]
    rw [writes]
    exact regBecomes_wr (State.canonical_fw h) _ _

theorem keyInstallDone_installs {s : State} (h : s.canonical = true) (busy : bitOf (s.rd rKeycmd) 62 = true) :
    let k := s.sys.keySlot
    ∃ u, exec .keyInstallDone s = .next u.releaseKept ∧ AsksDram s u ∧
      (∀ i l, Holds u.sys.l2 i l ↔ Holds s.sys.l2 i l ∧ ¬ l.keyId = k) ∧
      (∀ i l, Holds u.sys.msc i l ↔ Holds s.sys.msc i l ∧ ¬ l.keyId = k) ∧
      RegBecomes { s with fresh := s.fresh + 1, agenda := u.agenda, sys := { s.sys with
        l2 := u.sys.l2, msc := u.sys.msc
        keys := NMap.set 0 s.sys.keys k ((List.range 8).foldl (fun n i => n + (NMap.get 0 s.sys.keyData i).toNat * 2 ^ (64 * i)) 0)
        events := s.sys.events ++ [(word (0x07 + k * 256), 0)] } } u rKeycmd (setBit (s.rd rKeycmd) 62 false) := by
  intro k
  exact ⟨_, if_pos busy, asksDram_pushAll rfl, holds_flushLines_l2 _ (fun l => l.keyId = k),
    holds_flushLines_msc _ (fun l => l.keyId = k), regBecomes_of_wr (State.canonical_fw h) rfl⟩

end Sys2Proof.Machine
end

section
/-! The statement about the events of a die. -/

namespace Sys2Proof.Machine

open Sys2Proof

/-- Settles O52: each clause is the lemma above about its event. DRCHK.GO needs more than its own word: the removal of the copies of its
line reads nothing of what the store changes (`State.dropCopies_storing`). -/
theorem dieEventsTakeEffect : Obligations.DieEventsTakeEffect := by
  intro s d q v pa t h
  refine ⟨fun b r row => ⟨exec_dramAccess_opens row, exec_dramAccess_held row, exec_rowIdleClose row⟩,
    fun n here phase => ⟨exec_ractArrival_opens here phase, exec_ractArrival_waits⟩,
    fun bound => ⟨fun _ _ => exec_walkComplete_leaf bound, fun _ => exec_walkComplete_fails bound,
      fun _ _ => exec_walkComplete_poisoned bound⟩,
    ⟨fun busy => congrArg Host.Outcome.next (if_pos busy), fun idle => setsReg_tlbinvGo h idle v⟩,
    tlbinvDone_drops,
    fun go done err => ⟨fun refused => ?_, fun idle differ srcFree dstFree src dst plain => ?_⟩,
    fun busy phase _ => migrationLineDone_copies h d q busy phase,
    fun was done err go => ?_,
    ⟨fun same => congrArg Host.Outcome.next (writeMscsp_ignored same), mscspWrite_wipes h d v⟩,
    mscspConversionDone_flushes h d,
    drchkGo_stores h d,
    ⟨drchkCalc_checks h d, drchk_disabled h d⟩,
    dlogtailWrite_becomes h d v,
    ⟨fun early => congrArg Host.Outcome.next (replay_counts _ _ early), fun last => ?_⟩,
    keycmdGo_becomes h v,
    keyInstallDone_installs h⟩
  · exact ⟨_, congrArg Host.Outcome.next ((writeMigctl_go s _ _ go done err).trans (if_pos refused)),
      regBecomes_wr (State.canonical_fw h) _ _⟩
  · exact ⟨_, congrArg Host.Outcome.next ((writeMigctl_go s _ _ go done err).trans
      (if_neg (by simp [idle, differ, srcFree, dstFree, src, dst, plain]))), regBecomes_of_wr (State.canonical_fw h) rfl⟩
  · exact ⟨_, congrArg Host.Outcome.next (writeMigctl_clears was done err go), regBecomes_of_wr (State.canonical_fw h) rfl⟩
  · obtain ⟨m, ev, marked⟩ := replay_eighth d.toNat (word q.toNat) last
    exact ⟨_, congrArg Host.Outcome.next marked, rfl, rfl, rfl⟩

end Sys2Proof.Machine
end

section
/-! The statement about the lull queries. -/

namespace Sys2Proof.Machine

open Sys2Proof

/-- A selector from 6 up asks for nothing that the calendar has. -/
theorem execLullq_other {s : State} {d a : Reg} (other : (6 : Word) ≤ s.reg a) :
    execLullq d a s = .next (s.writeReg 4 d (BitVec.allOnes 64)) := by
  have six : 6 ≤ (s.reg a).toNat := other
  unfold execLullq
  dsimp only
  split
  case h_7 => rfl
  all_goals omega

/-- Settles O38: LULLQ selector by selector, selector 3 by where the sequencer stands; LULLW is its meaning. -/
theorem lullQueriesAnswer : Obligations.LullQueriesAnswer := by
  intro s d a
  refine ⟨fun selects => writes_next ?_, fun selects => writes_next ?_, fun selects => writes_next ?_,
    fun selects => ⟨fun phase => writes_next ?_, fun phase => writes_next ?_, fun phase late => writes_next ?_,
      fun phase late => writes_next ?_⟩,
    fun selects => writes_next ?_, fun selects => writes_next ?_, fun other => writes_next (execLullq_other other), rfl⟩
  all_goals
    show execLullq d a s = _
    simp only [execLullq, *]
    rfl

end Sys2Proof.Machine
end

section
/-! SUPPORT. The fatal state in a package whose table of queues is not in canonical form (14 R426). -/

namespace Sys2Proof.Machine

open Sys2Proof

/-- A package at reset whose table of the command processor lists queue 0 twice. The second entry does not read; it comes to light when the
first, once the command processor has left the packet of queue 0, is that of an idle queue and so no longer listed. -/
def shadowedQueue : State := { State.reset with sys := { Sys.reset with cp := [(0, .waiting), (0, .waiting)] } }

/-- The fatal state leaves the entry of queue 0 that reads waiting for a doorbell. -/
theorem shadowedQueue_fatal :
    ∃ u, exec .systemDieError shadowedQueue = .next u ∧ NMap.get CpState.idle u.sys.cp 0 = .waiting := ⟨_, rfl, by decide +kernel⟩

end Sys2Proof.Machine
end

section
/-! The statement about launches, the scheduler and the fatal state. -/

namespace Sys2Proof.Machine

open Sys2Proof

/-- Refutes O56: its clause for SYSTEM_DIE_ERROR has every queue but a clearing one idle, and canonical form is not asked of the table of the
command processor: where it lists a queue twice (`shadowedQueue`), the queue still waits for a doorbell after the step. -/
theorem not_launchAndSchedulerEventsTakeEffect : ¬ Obligations.LaunchAndSchedulerEventsTakeEffect := by
  intro effects
  obtain ⟨-, -, -, -, -, -, -, -, -, -, -, -, -, -, -, -, -, failing⟩ := effects shadowedQueue 0 0 0 rfl
  obtain ⟨u, es, step, -, -, -, idles, -⟩ := failing rfl
  obtain ⟨v, runs, waits⟩ := shadowedQueue_fatal
  rw [runs] at step
  cases step
  exact absurd (waits.symm.trans (idles 0 (by omega))) (by decide)

end Sys2Proof.Machine
end

section
/-! SUPPORT. What work beside the lull sequencer keeps: the sequencer itself, what a drain and a lull have held, rows and replays, every step
that was due, and where a strand that it is no work of stands. Each lemma `beside_<function>` says so of the function of this name. -/

namespace Sys2Proof.Machine

open Sys2Proof

/-- Strand `y` runs where `x` stands, with its scalar registers, and has no vector work if `x` has none. -/
def Strand.RunsAs (x y : Strand) : Prop :=
  y.run = .running ∧ y.pc = x.pc ∧ y.regs = x.regs ∧ (x.queue = [] → y.queue = [])

/-- `u` is what work beside the lull sequencer may make of `b`: the sequencer, what DRAM has held, the open rows, the replays and the flag of
log 10 are as they were, and no step that was due is lost. A strand that runs is where it was: the one in focus, if `m` names one, and the
one out of focus that `w` names. -/
def Beside (b : State) (m w : Option (Tid × Strand)) (u : State) : Prop :=
  (u.sys.lull = b.sys.lull ∧ u.sys.dramHeld = b.sys.dramHeld ∧ u.sys.rows = b.sys.rows ∧ u.sys.replays = b.sys.replays ∧ u.eager = b.eager) ∧
  (∀ e ∈ b.agenda, e ∈ u.agenda) ∧
  (m.elim True fun p => u.tid = p.1 ∧ p.2.RunsAs u.me) ∧
  (w.elim True fun p => u.tid ≠ p.1 ∧ p.2.RunsAs (NMap.get Strand.unbound u.others p.1.toNat))

/-- The work on an index ends in a state of which `P` holds. -/
def IdxRes.Ends (P : State → Prop) : IdxRes → Prop
  | .done t | .bad t _ | .wait t | .stop t => P t

/-- The turn of a younger entry, if it does not stop the queue, ends in a state of which `P` holds. -/
def Younger.Ends (P : State → Prop) : Younger → Prop
  | .went t | .waits t => P t
  | .stops => True

/-- A listed value stays through a write at another key, whatever the form of the table. -/
theorem NMap.get_set_beside {α : Type} [DecidableEq α] {d : α} {m : NMap α} {k l : Nat} {v : α} (other : l ≠ k)
    (listed : NMap.get d m l ≠ d) : NMap.get d (NMap.set d m k v) l = NMap.get d m l := by
  induction m with
  | nil => exact absurd rfl listed
  | cons e r ih =>
    obtain ⟨j, x⟩ := e
    rw [NMap.get] at listed
    have below : ¬ l < j := fun lt => listed (if_pos lt)
    rw [if_neg below] at listed
    rw [NMap.set]
    split
    · split
      · rfl
      · rw [NMap.get, if_neg (by omega), if_neg other]
    · split
      · next here =>
        subst here
        rw [if_neg other] at listed
        split
        · rw [NMap.get, if_neg below, if_neg other]
        · rw [NMap.get, NMap.get, if_neg below, if_neg below, if_neg other, if_neg other]
      · rw [NMap.get, NMap.get, if_neg below, if_neg below]
        split
        · rfl
        · next off =>
          rw [if_neg off] at listed
          exact ih listed

theorem Strand.RunsAs.listed {x y : Strand} (h : x.RunsAs y) : y ≠ Strand.unbound := by
  rintro rfl
  cases h.1

namespace State

variable {b₀ s : State} {m₀ w₀ : Option (Tid × Strand)}

/-! ### Choices, folds and parts of an answer -/

theorem beside_refl (b : State) : Beside b none none b := ⟨⟨rfl, rfl, rfl, rfl, rfl⟩, fun _ h => h, trivial, trivial⟩

theorem beside_ite {p : Prop} [Decidable p] {s t : State} (hs : Beside b₀ m₀ w₀ s) (ht : Beside b₀ m₀ w₀ t) :
    Beside b₀ m₀ w₀ (if p then s else t) := by
  split
  · exact hs
  · exact ht

theorem beside_iteFst {α : Type} {p : Prop} [Decidable p] {s t : State × α} (hs : Beside b₀ m₀ w₀ s.1) (ht : Beside b₀ m₀ w₀ t.1) :
    Beside b₀ m₀ w₀ (if p then s else t).1 := by
  split
  · exact hs
  · exact ht

theorem beside_foldl {α : Type} {f : State → α → State} (keeps : ∀ u a, Beside b₀ m₀ w₀ u → Beside b₀ m₀ w₀ (f u a)) (l : List α)
    (h : Beside b₀ m₀ w₀ s) : Beside b₀ m₀ w₀ (l.foldl f s) := by
  induction l generalizing s with
  | nil => exact h
  | cons a l ih => exact ih (keeps s a h)

theorem beside_folded {α : Type} {f : State → α → State} {l : List α} (h : Beside b₀ m₀ w₀ s)
    (keeps : ∀ u a, Beside b₀ m₀ w₀ u → Beside b₀ m₀ w₀ (f u a)) : Beside b₀ m₀ w₀ (l.foldl f s) := beside_foldl keeps l h

theorem beside_foldedPair {α β : Type} {f : State × β → α → State × β} {l : List α} {c : β} (h : Beside b₀ m₀ w₀ s)
    (keeps : ∀ (u : State × β) a, Beside b₀ m₀ w₀ u.1 → Beside b₀ m₀ w₀ (f u a).1) : Beside b₀ m₀ w₀ (l.foldl f (s, c)).1 := by
  induction l generalizing s c with
  | nil => exact h
  | cons a l ih => exact ih (s := (f (s, c) a).1) (c := (f (s, c) a).2) (keeps (s, c) a h)

theorem beside_fst {α : Type} {p : State × α} {t : State} {a : α} (e : p = (t, a)) (h : Beside b₀ m₀ w₀ p.1) : Beside b₀ m₀ w₀ t := by
  subst e; exact h

theorem beside_done {r : IdxRes} {t : State} (e : r = .done t) (h : r.Ends (Beside b₀ m₀ w₀)) : Beside b₀ m₀ w₀ t := by
  subst e; exact h

theorem beside_bad {r : IdxRes} {t : State} {f : QFault} (e : r = .bad t f) (h : r.Ends (Beside b₀ m₀ w₀)) : Beside b₀ m₀ w₀ t := by
  subst e; exact h

theorem beside_wait {r : IdxRes} {t : State} (e : r = .wait t) (h : r.Ends (Beside b₀ m₀ w₀)) : Beside b₀ m₀ w₀ t := by
  subst e; exact h

theorem beside_stop {r : IdxRes} {t : State} (e : r = .stop t) (h : r.Ends (Beside b₀ m₀ w₀)) : Beside b₀ m₀ w₀ t := by
  subst e; exact h

theorem beside_went {r : Younger} {t : State} (e : r = .went t) (h : r.Ends (Beside b₀ m₀ w₀)) : Beside b₀ m₀ w₀ t := by
  subst e; exact h

theorem beside_waits {r : Younger} {t : State} (e : r = .waits t) (h : r.Ends (Beside b₀ m₀ w₀)) : Beside b₀ m₀ w₀ t := by
  subst e; exact h

/-! ### Fields and the agenda -/

/-- Nothing that was due is lost where steps are only added. -/
theorem beside_later {agenda : List Event} (h : Beside b₀ m₀ w₀ s) (more : ∀ e ∈ s.agenda, e ∈ agenda) :
    Beside b₀ m₀ w₀ { s with agenda := agenda } := ⟨h.1, fun e he => more e (h.2.1 e he), h.2.2⟩

theorem beside_pushAll {es} (h : Beside b₀ m₀ w₀ s) : Beside b₀ m₀ w₀ (s.pushAll es) := beside_later h fun _ => List.mem_append_left _

theorem beside_push {e} (h : Beside b₀ m₀ w₀ s) : Beside b₀ m₀ w₀ (s.push e) := beside_pushAll h

theorem beside_pushFront {es} (h : Beside b₀ m₀ w₀ s) : Beside b₀ m₀ w₀ (s.pushFront es) := beside_later h fun _ => List.mem_append_right _

theorem beside_pushed {t : State} (h : Beside b₀ m₀ w₀ s) (pushed : Pushed s t) : Beside b₀ m₀ w₀ t := by
  obtain ⟨es, rfl⟩ := pushed
  exact beside_pushAll h

theorem beside_wr (h : Beside b₀ m₀ w₀ s) (r : Nat) (v : Word) : Beside b₀ m₀ w₀ (s.wr r v) := h

theorem beside_upd (h : Beside b₀ m₀ w₀ s) (r : Nat) (f : Word → Word) : Beside b₀ m₀ w₀ (s.upd r f) := h

theorem beside_post (h : Beside b₀ m₀ w₀ s) (code source : Nat) (v : Word) : Beside b₀ m₀ w₀ (s.post code source v) := h

theorem beside_onCluster (h : Beside b₀ m₀ w₀ s) (c : Nat) (f : Cluster → Cluster) : Beside b₀ m₀ w₀ (s.onCluster c f) := h

theorem beside_onSys {f : Sys → Sys} (h : Beside b₀ m₀ w₀ s) (calm : ∀ y : Sys, (f y).lull = y.lull ∧ (f y).dramHeld = y.dramHeld ∧
    (f y).rows = y.rows ∧ (f y).replays = y.replays) : Beside b₀ m₀ w₀ (s.onSys f) := by
  obtain ⟨⟨lull, held, rows, replays, eager⟩, rest⟩ := h
  obtain ⟨lull', held', rows', replays'⟩ := calm s.sys
  exact ⟨⟨lull'.trans lull, held'.trans held, rows'.trans rows, replays'.trans replays, eager⟩, rest⟩

theorem beside_fresh {n} (h : Beside b₀ m₀ w₀ s) : Beside b₀ m₀ w₀ { s with fresh := n } := h

theorem beside_ir {r} (h : Beside b₀ m₀ w₀ s) : Beside b₀ m₀ w₀ { s with ir := r } := h

theorem beside_onMe {f} (h : Beside b₀ none w₀ s) : Beside b₀ none w₀ (s.onMe f) := h

theorem beside_onVec (h : Beside b₀ none w₀ s) (f : Vec → Vec) : Beside b₀ none w₀ (s.onVec f) := h

/-! ### Strands -/

/-- What holds of the strand that is named, if one is, follows from what holds of it. -/
theorem elim_imp {α : Type} {o : Option α} {P Q : α → Prop} (h : o.elim True P) (imp : ∀ p ∈ o, P p → Q p) : o.elim True Q := by
  cases o with
  | none => trivial
  | some p => exact imp p rfl h

theorem elim_mem {α : Type} {o : Option α} {P : α → Prop} (h : o.elim True P) {p : α} (named : p ∈ o) : P p := by
  cases named
  exact h

/-- A strand changed in what a strand that runs does not lose by it. -/
theorem beside_onStrand {t : Tid} {f : Strand → Strand} (h : Beside b₀ m₀ w₀ s)
    (keeps : ∀ x y : Strand, x.RunsAs y → x.RunsAs (f y)) : Beside b₀ m₀ w₀ (s.onStrand t f) := by
  obtain ⟨same, due, mine, theirs⟩ := h
  unfold State.onStrand State.setStrand State.strand
  split
  · exact ⟨same, due, elim_imp mine fun _ _ k => ⟨k.1, keeps _ _ k.2⟩, theirs⟩
  · refine ⟨same, due, mine, elim_imp theirs fun p _ k => ⟨k.1, ?_⟩⟩
    by_cases here : t = p.1
    · subst here
      show p.2.RunsAs (NMap.get _ (NMap.set _ s.others _ _) _)
      rw [NMap.get_set_listed _ _ (keeps _ _ k.2).listed]
      exact keeps _ _ k.2
    · have key : p.1.toNat ≠ t.toNat := fun e => here (BitVec.eq_of_toNat_eq e.symm)
      show p.2.RunsAs (NMap.get _ (NMap.set _ s.others _ _) _)
      rw [NMap.get_set_beside key k.2.listed]
      exact k.2

/-- Another strand changed. -/
theorem beside_onOther {t : Tid} {f : Strand → Strand} (h : Beside b₀ none w₀ s) (other : ∀ p ∈ w₀, t ≠ p.1) :
    Beside b₀ none w₀ (s.onStrand t f) := by
  obtain ⟨same, due, -, theirs⟩ := h
  unfold State.onStrand State.setStrand State.strand
  split
  · exact ⟨same, due, trivial, theirs⟩
  · refine ⟨same, due, trivial, elim_imp theirs fun p hp k => ⟨k.1, ?_⟩⟩
    have key : p.1.toNat ≠ t.toNat := fun e => other p hp (BitVec.eq_of_toNat_eq e.symm)
    show p.2.RunsAs (NMap.get _ (NMap.set _ s.others _ _) _)
    rw [NMap.get_set_beside key k.2.listed]
    exact k.2

/-- The strand in focus is another than the one out of focus. -/
theorem beside_focused (h : Beside b₀ m₀ w₀ s) : ∀ p ∈ w₀, s.tid ≠ p.1 := fun _ hp => (elim_mem h.2.2.2 hp).1

/-- A strand that does not run is another. -/
theorem beside_idle {t : Tid} (h : Beside b₀ m₀ w₀ s) (idle : (s.strand t).run ≠ .running) : ∀ p ∈ w₀, t ≠ p.1 := by
  rintro p hp rfl
  obtain ⟨away, runs, -⟩ := elim_mem h.2.2.2 hp
  exact idle (by rw [State.strand, if_neg (Ne.symm away), runs])

/-- Another strand comes into focus: the one that was stays where it is. -/
theorem beside_focusOther {t : Tid} (h : Beside b₀ m₀ none s) (other : ∀ p ∈ m₀, p.1 ≠ t) : Beside b₀ none m₀ (s.focus t) := by
  obtain ⟨same, due, mine, -⟩ := h
  unfold State.focus
  split
  · next here => exact ⟨same, due, trivial, elim_imp mine fun p hp k => absurd (k.1.symm.trans here.symm) (other p hp)⟩
  · refine ⟨same, due, trivial, elim_imp mine fun p hp k => ⟨(other p hp).symm, ?_⟩⟩
    show p.2.RunsAs (NMap.get _ (NMap.set _ _ s.tid.toNat s.me) _)
    rw [← k.1, NMap.get_set_listed _ _ k.2.listed]
    exact k.2

/-- The strand comes back into focus. -/
theorem beside_focusBack {t : Tid} (h : Beside b₀ none m₀ s) (back : ∀ p ∈ m₀, p.1 = t) : Beside b₀ m₀ none (s.focus t) := by
  obtain ⟨same, due, -, theirs⟩ := h
  unfold State.focus
  split
  · next here => exact ⟨same, due, elim_imp theirs fun p hp k => absurd (here.symm.trans (back p hp).symm) k.1, trivial⟩
  · refine ⟨same, due, elim_imp theirs fun p hp k => ⟨(back p hp).symm, ?_⟩, trivial⟩
    rw [← back p hp]
    exact k.2

/-- Work with another strand in focus. -/
theorem beside_within {t : Tid} {f : State → State} (h : Beside b₀ m₀ none s) (other : ∀ p ∈ m₀, p.1 ≠ t)
    (keeps : ∀ u, Beside b₀ none m₀ u → Beside b₀ none m₀ (f u)) : Beside b₀ m₀ none (s.within t f) :=
  beside_focusBack (keeps _ (beside_focusOther h other)) fun _ hp => (elim_mem h.2.2.1 hp).1.symm

end State

end Sys2Proof.Machine
end

section
/-! SUPPORT. Memory, caches, registers and logs beside the lull sequencer. -/

namespace Sys2Proof.Machine.State

open Sys2Proof

variable {b₀ s : State} {m₀ w₀ : Option (Tid × Strand)}

theorem beside_stored {m p y k} (h : Beside b₀ m₀ w₀ s) :
    Beside b₀ m₀ w₀ { s with mem := m, poison := p, synd := y, lineKey := k } := h

theorem beside_ringRecord (h : Beside b₀ m₀ w₀ s) (ring head tail : Nat) (r : ErrRec) :
    Beside b₀ m₀ w₀ (s.ringRecord ring head tail r).1 := by
  unfold State.ringRecord
  simp only
  split
  · refine beside_upd ?_ _ _
    exact beside_wr (beside_wr (beside_wr (beside_wr h _ _) _ _) _ _) _ _
  · exact beside_upd h _ _

theorem beside_logCluster (h : Beside b₀ m₀ w₀ s) (c : Nat) (r : ErrRec) : Beside b₀ m₀ w₀ (s.logCluster c r) := by
  have written := beside_ringRecord h (allocBlock c + 0x800) (rEloghead c) (rElogtail c) r
  exact beside_ite (beside_post written ..) written

theorem beside_logLane (h : Beside b₀ m₀ w₀ s) (inj : Bool) (sev unit lane chan : Nat) (roll : Bool) (syn : Nat)
    (w2 : Word) : Beside b₀ m₀ w₀ (s.logLane inj sev unit lane chan roll syn w2) := beside_logCluster h _ _

theorem beside_markLane (h : Beside b₀ m₀ w₀ s) (c p l : Nat) : Beside b₀ m₀ w₀ (s.markLane c p l) :=
  beside_ite (beside_wr h _ _) (beside_ite h (beside_onCluster h c _))

theorem beside_countLane (h : Beside b₀ m₀ w₀ s) (c p l : Nat) : Beside b₀ m₀ w₀ (s.countLane c p l) := by
  have counted := beside_upd h (rLecnt c p) fun w => setFld w (4 * l) 4 (fld (s.rd (rLecnt c p)) (4 * l) 4 + 1)
  exact beside_ite h (beside_ite (beside_markLane counted c p l) counted)

theorem beside_strayRead (h : Beside b₀ m₀ w₀ s) (c : Nat) (f : Nat → Bool) : Beside b₀ m₀ w₀ (s.strayRead c f) := by
  refine beside_ite h (beside_onCluster (beside_foldl (fun u e hu => ?_) _ h) _ _)
  have logged := fun r => beside_logCluster hu c r
  exact beside_ite (beside_markLane (logged _) ..)
    (beside_ite (beside_countLane (logged _) ..) (logged _))

theorem beside_scDone {t} (h : Beside b₀ m₀ w₀ s) : Beside b₀ m₀ w₀ (s.scDone t) := by
  unfold State.scDone
  split
  · exact beside_pushAll (beside_onSys h fun _ => ⟨rfl, rfl, rfl, rfl⟩)
  · exact h

theorem beside_logDie {d r} (h : Beside b₀ m₀ w₀ s) : Beside b₀ m₀ w₀ (s.logDie d r) :=
  beside_ite (beside_onSys (beside_ringRecord h ..) fun _ => ⟨rfl, rfl, rfl, rfl⟩) (beside_ringRecord h ..)

theorem beside_mscAccess {part pa keyId fills write} (h : Beside b₀ m₀ w₀ s) :
    Beside b₀ m₀ w₀ (s.mscAccess part pa keyId fills write) := by
  unfold State.mscAccess
  split
  · extract_lets k set put old s1 rest s2
    clear_value old
    have h1 : Beside b₀ m₀ w₀ s1 := by
      unfold s1
      split
      · exact beside_ite (beside_pushAll h) h
      · exact h
    have h2 : Beside b₀ m₀ w₀ s2 := beside_ite h1 (beside_pushAll h1)
    split
    · exact beside_onSys h fun _ => ⟨rfl, rfl, rfl, rfl⟩
    split
    · exact beside_pushAll (beside_onSys h1 fun _ => ⟨rfl, rfl, rfl, rfl⟩)
    · extract_lets s3
      have h3 : Beside b₀ m₀ w₀ s3 := by
        unfold s3
        split
        · exact beside_ite (beside_pushAll h2) h2
        · exact h2
      exact beside_onSys h3 fun _ => ⟨rfl, rfl, rfl, rfl⟩
  · exact beside_pushAll h

theorem beside_evict {l} (h : Beside b₀ m₀ w₀ s) : Beside b₀ m₀ w₀ (s.evict l) :=
  beside_ite (beside_mscAccess h) h

theorem beside_l2Fill {d part pa keyId dirty} (h : Beside b₀ m₀ w₀ s) : Beside b₀ m₀ w₀ (s.l2Fill d part pa keyId dirty).1 := by
  unfold State.l2Fill
  simp only
  split
  · exact beside_ite (beside_mscAccess h) h
  split
  · exact beside_evict h
  · exact h

theorem beside_l2Home {part pa keyId fills write} (h : Beside b₀ m₀ w₀ s) :
    Beside b₀ m₀ w₀ (s.l2Home part pa keyId fills write) := by
  unfold State.l2Home
  simp only
  split
  · exact h
  split
  · refine beside_l2Fill ?_
    refine beside_mscAccess ?_
    split
    · exact beside_onSys (beside_evict h) fun _ => ⟨rfl, rfl, rfl, rfl⟩
    · exact h
  split
  · refine beside_mscAccess ?_
    refine beside_mscAccess ?_
    split
    · exact beside_onSys (beside_evict h) fun _ => ⟨rfl, rfl, rfl, rfl⟩
    · exact h
  · refine beside_mscAccess ?_
    split
    · exact beside_onSys (beside_evict h) fun _ => ⟨rfl, rfl, rfl, rfl⟩
    · exact h

theorem beside_cacheRead {die part pa home keyId fills copies} (h : Beside b₀ m₀ w₀ s) :
    Beside b₀ m₀ w₀ (s.cacheRead die part pa home keyId fills copies) := by
  unfold State.cacheRead
  simp only
  split
  · exact beside_l2Home h
  split
  · exact beside_l2Home h
  split
  · exact h
  split
  · exact beside_l2Home (beside_ite h h)
  split
  · next e => exact beside_onSys (beside_fst e (beside_l2Fill (beside_l2Home (beside_ite h h)))) fun _ => ⟨rfl, rfl, rfl, rfl⟩
  · next e => exact beside_fst e (beside_l2Fill (beside_l2Home (beside_ite h h)))

theorem beside_cacheWrite {part pa keyId fills} (h : Beside b₀ m₀ w₀ s) : Beside b₀ m₀ w₀ (s.cacheWrite part pa keyId fills) :=
  beside_l2Home h

theorem beside_dropReplicas {l} (h : Beside b₀ m₀ w₀ s) : Beside b₀ m₀ w₀ (s.dropReplicas l) := by
  refine beside_onSys h fun y => ?_
  refine List.foldlRecOn (motive := fun z : Sys => z.lull = y.lull ∧ z.dramHeld = y.dramHeld ∧ z.rows = y.rows ∧ z.replays = y.replays)
    _ _ ⟨rfl, rfl, rfl, rfl⟩ fun z same d _ => ?_
  split
  · exact same
  · exact same

theorem beside_logWord {t sev syn k enc} (h : Beside b₀ m₀ w₀ s) : Beside b₀ m₀ w₀ (s.logWord t sev syn k enc) :=
  beside_ite (beside_logCluster h ..) (beside_logDie h)

theorem beside_eccWord {t k} (h : Beside b₀ m₀ w₀ s) : Beside b₀ m₀ w₀ (s.eccWord t k) := by
  unfold State.eccWord
  extract_lets w y cleared
  split
  · exact h
  · have hc : Beside b₀ m₀ w₀ cleared := h
    split
    · exact beside_logWord hc
    · exact beside_logWord hc
    · exact beside_logWord hc

theorem beside_logTag {t d sev syn pa} (h : Beside b₀ m₀ w₀ s) : Beside b₀ m₀ w₀ (s.logTag t d sev syn pa) :=
  beside_logDie h

theorem beside_tagCheck {t d pa} (h : Beside b₀ m₀ w₀ s) : Beside b₀ m₀ w₀ (s.tagCheck t d pa) := by
  unfold State.tagCheck
  simp only
  split
  · exact h
  split
  · split
    · exact beside_logTag h
    · exact beside_logTag h
  · exact beside_logTag h

theorem beside_ecc {t k n} (h : Beside b₀ m₀ w₀ s) : Beside b₀ m₀ w₀ (s.ecc t k n) :=
  beside_ite h (beside_folded h fun _ _ hu => beside_eccWord hu)

theorem beside_tagChecks {t k} (h : Beside b₀ m₀ w₀ s) : Beside b₀ m₀ w₀ (s.tagChecks t k) := by
  unfold State.tagChecks
  simp only
  split
  · exact beside_ite (beside_tagCheck h) (beside_tagCheck (beside_tagCheck h))
  · exact beside_tagCheck h

theorem beside_lineCheck {t k n} (h : Beside b₀ m₀ w₀ s) : Beside b₀ m₀ w₀ (s.lineCheck t k n) :=
  beside_ite (beside_ecc (beside_tagChecks h)) (beside_ecc (beside_tagChecks h))

theorem beside_noteLeaf {a va leaf big} (h : Beside b₀ m₀ w₀ s) : Beside b₀ m₀ w₀ (s.noteLeaf a va leaf big) :=
  beside_ite h h

theorem beside_walkTouch {a va} (h : Beside b₀ m₀ w₀ s) : Beside b₀ m₀ w₀ (s.walkTouch a va) :=
  beside_ite (beside_folded h fun _ _ hu => beside_cacheRead (beside_lineCheck hu)) h

theorem beside_noteWalk {a va leaf big} (h : Beside b₀ m₀ w₀ s) : Beside b₀ m₀ w₀ (s.noteWalk a va leaf big) :=
  beside_noteLeaf (beside_ite h (beside_walkTouch h))

theorem beside_noteAccess {a addr ns} (h : Beside b₀ m₀ w₀ s) : Beside b₀ m₀ w₀ (s.noteAccess a addr ns) := by
  induction ns generalizing s addr with
  | nil => exact h
  | cons n ns ih =>
    refine ih ?_
    split
    · split
      · exact beside_noteWalk h
      · exact beside_walkTouch h
    · exact h

theorem beside_logEntry {a die pa} (h : Beside b₀ m₀ w₀ s) : Beside b₀ m₀ w₀ (s.logEntry a die pa) :=
  beside_logDie h

theorem beside_noteFailed {a addr len a'} (h : Beside b₀ m₀ w₀ s) : Beside b₀ m₀ w₀ (s.noteFailed a addr len a') := by
  unfold State.noteFailed
  split
  · exact beside_ite h (beside_noteAccess h)
  · exact beside_noteAccess h

theorem beside_failure {a addr len b t c} (h : Beside b₀ m₀ w₀ s) (e : s.failure a addr len b = some (t, c)) :
    Beside b₀ m₀ w₀ t := by
  unfold State.failure at e
  split at e
  · cases e
    exact beside_noteFailed h
  · cases e
    exact beside_logEntry (beside_noteFailed h)
  · cases e

theorem beside_injected {t k} (h : Beside b₀ m₀ w₀ s) : Beside b₀ m₀ w₀ (s.injected t k).1 := by
  unfold State.injected
  simp only
  split
  · split
    · exact beside_logCluster (beside_wr h ..) ..
    · exact h
  · exact h

theorem beside_eccEdges {who k n} (h : Beside b₀ m₀ w₀ s) : Beside b₀ m₀ w₀ (s.eccEdges who k n) := by
  unfold State.eccEdges
  extract_lets whole s1
  have checked : Beside b₀ m₀ w₀ s1 := beside_foldl (fun _ _ hu => beside_eccWord hu) _ h
  exact checked

theorem beside_rekey {mat k} (h : Beside b₀ m₀ w₀ s) : Beside b₀ m₀ w₀ (s.rekey mat k) := beside_ite h (beside_stored h)

theorem beside_homeWrite {who keyId k bs} (h : Beside b₀ m₀ w₀ s) : Beside b₀ m₀ w₀ (s.homeWrite who keyId k bs) := by
  unfold State.homeWrite
  extract_lets s0 s1 s2 s3
  have looked : Beside b₀ m₀ w₀ s0 := beside_ite (beside_tagChecks h) h
  have checked : Beside b₀ m₀ w₀ s1 := beside_ite looked (beside_eccEdges looked)
  have keyed : Beside b₀ m₀ w₀ s2 := beside_ite (beside_rekey checked) checked
  have written : Beside b₀ m₀ w₀ s3 := keyed
  exact beside_ite written (beside_dropReplicas written)

theorem beside_l1Load {a p} (h : Beside b₀ m₀ w₀ s) : Beside b₀ m₀ w₀ (s.l1Load a p) := by
  unfold State.l1Load
  extract_lets cn c k set filled
  split
  · exact h
  · have hf : Beside b₀ m₀ w₀ filled := beside_ite (beside_ecc h) h
    split
    · exact hf
    split
    · exact hf
    · exact beside_onCluster hf ..

theorem beside_logL1 {a inj pa l syn} (h : Beside b₀ m₀ w₀ s) : Beside b₀ m₀ w₀ (s.logL1 a inj pa l syn) :=
  beside_logCluster h ..

theorem beside_l1Store {cn pa bs} (h : Beside b₀ m₀ w₀ s) : Beside b₀ m₀ w₀ (s.l1Store cn pa bs) := by
  unfold State.l1Store
  split
  · exact h
  · exact h

theorem beside_l1Drop {cn pa} (h : Beside b₀ m₀ w₀ s) : Beside b₀ m₀ w₀ (s.l1Drop cn pa) := beside_ite h h

theorem beside_l1EccWord {a pa} (h : Beside b₀ m₀ w₀ s) : Beside b₀ m₀ w₀ (s.l1EccWord a pa) := by
  unfold State.l1EccWord
  simp only
  split
  · exact h
  split
  · exact h
  split
  · exact beside_logL1 h
  · exact beside_logL1 h
  · exact beside_l1Drop (beside_logL1 h)

theorem beside_l1Ecc {a l1 p n} (h : Beside b₀ m₀ w₀ s) : Beside b₀ m₀ w₀ (s.l1Ecc a l1 p n) :=
  beside_ite (beside_folded h fun _ _ hu => beside_l1EccWord hu) h

theorem beside_acquire {cn sc} (h : Beside b₀ m₀ w₀ s) : Beside b₀ m₀ w₀ (s.acquire cn sc) := beside_ite h h

theorem beside_replied {a p} (h : Beside b₀ m₀ w₀ s) : Beside b₀ m₀ w₀ (s.replied a p) := beside_ite h h

theorem beside_noteReplica {a p} (h : Beside b₀ m₀ w₀ s) : Beside b₀ m₀ w₀ (s.noteReplica a p) :=
  beside_cacheRead (beside_ite (beside_ecc h) h)

theorem beside_afterRead {a l1 p} (h : Beside b₀ m₀ w₀ s) : Beside b₀ m₀ w₀ (s.afterRead a l1 p) :=
  beside_ite (beside_ite (beside_l1Load (beside_ite h (beside_noteReplica h))) (beside_noteReplica h)) h

theorem beside_storeLine {a p} (h : Beside b₀ m₀ w₀ s) : Beside b₀ m₀ w₀ (s.storeLine a p) :=
  beside_ite h (beside_cacheWrite (beside_ite h (beside_ecc h)))

theorem beside_mergeAll (h : Beside b₀ m₀ w₀ s) : Beside b₀ m₀ w₀ s.mergeAll := by
  unfold State.mergeAll
  refine beside_foldl (fun u m hu => ?_) _ (beside_onSys h fun _ => ⟨rfl, rfl, rfl, rfl⟩)
  exact beside_cacheWrite (beside_ir (beside_ecc hu))

theorem beside_writePlace {a l1 p bs} (h : Beside b₀ m₀ w₀ s) : Beside b₀ m₀ w₀ (s.writePlace a l1 p bs) := by
  unfold State.writePlace
  split
  · exact beside_wr h ..
  · split
    · exact beside_pushFront h
    · exact beside_pushFront h
    · exact h
  · exact h
  · exact beside_homeWrite h
  · exact beside_homeWrite h
  · exact h
  · exact h
  · exact beside_storeLine (beside_homeWrite (beside_ite (beside_l1Store h) h))
  · exact beside_storeLine (beside_homeWrite (beside_ite (beside_l1Store h) h))
  · exact beside_storeLine (beside_homeWrite (beside_ite (beside_l1Store h) h))

theorem beside_sendFlit {x} (h : Beside b₀ m₀ w₀ s) : Beside b₀ m₀ w₀ (s.sendFlit x) := by
  unfold State.sendFlit
  split
  · exact h
  · exact h

theorem beside_request {n tenant tag b} (h : Beside b₀ m₀ w₀ s) : Beside b₀ m₀ w₀ (s.request n tenant tag b) :=
  beside_sendFlit h

theorem beside_l1Injected {a l1 p} (h : Beside b₀ m₀ w₀ s) : Beside b₀ m₀ w₀ (s.l1Injected a l1 p) := by
  unfold State.l1Injected
  simp only
  split
  · exact h
  split
  · exact h
  · exact beside_ite (beside_l1Drop (beside_logL1 (beside_wr h ..))) (beside_logL1 (beside_wr h ..))

theorem beside_noteSeen {a l1 p n} (h : Beside b₀ m₀ w₀ s) : Beside b₀ m₀ w₀ (s.noteSeen a l1 p n) :=
  beside_ite h (beside_ite h (beside_onStrand h fun _ _ k => k))

theorem beside_readParts {a l1 addr ps} (h : Beside b₀ m₀ w₀ s) : Beside b₀ m₀ w₀ (s.readParts a l1 addr ps).1 := by
  induction ps generalizing s addr with
  | nil => exact h
  | cons part r ih =>
    unfold State.readParts
    extract_lets i s1 q
    have hi : Beside b₀ m₀ w₀ i.1 := beside_injected (beside_noteSeen (beside_l1Ecc (beside_l1Injected h)))
    have h1 : Beside b₀ m₀ w₀ s1 := beside_ite (beside_replied h) (beside_ite hi
      (beside_ite (beside_replied (beside_lineCheck hi)) (beside_replied (beside_ecc hi))))
    split
    · exact h1
    split
    · next e => exact beside_fst e (ih (beside_afterRead h1))
    · next e => exact beside_fst e (ih (beside_afterRead h1))

theorem beside_sendStore {a node va bs} (h : Beside b₀ m₀ w₀ s) : Beside b₀ m₀ w₀ (s.sendStore a node va bs).1 :=
  beside_fresh (beside_request h)

theorem beside_notePosted {a tag pa} (h : Beside b₀ m₀ w₀ s) : Beside b₀ m₀ w₀ (s.notePosted a tag pa) := by
  unfold State.notePosted
  split
  · exact beside_onStrand h fun _ _ k => k
  · exact beside_onStrand h fun _ _ k => k
  · exact h

theorem beside_writeParts {a l1 ps bs} (h : Beside b₀ m₀ w₀ s) : Beside b₀ m₀ w₀ (s.writeParts a l1 ps bs) := by
  induction ps generalizing s bs with
  | nil => exact h
  | cons part r ih =>
    refine ih ?_
    split
    · exact beside_notePosted (beside_sendStore h)
    · exact beside_replied (beside_writePlace h)

theorem beside_sendPend {a p} (h : Beside b₀ m₀ w₀ s) : Beside b₀ m₀ w₀ (s.sendPend a p).1 := by
  unfold State.sendPend
  simp only
  split
  · split
    · split
      · exact h
      · exact h
    · exact beside_request h
    · exact h
  · exact h

theorem beside_beginWait {a p} (h : Beside b₀ m₀ w₀ s) : Beside b₀ m₀ w₀ (s.beginWait a p) :=
  beside_onStrand (beside_sendPend h) fun _ _ k => k

theorem beside_dieBarAtomic {p acc} (h : Beside b₀ m₀ w₀ s) : Beside b₀ m₀ w₀ (s.dieBarAtomic p acc).1 := by
  unfold State.dieBarAtomic
  simp only
  split
  · exact beside_ite (beside_wr h ..) (beside_wr h ..)
  · exact h

theorem beside_atomicAt {a p acc} (h : Beside b₀ m₀ w₀ s) : Beside b₀ m₀ w₀ (s.atomicAt a p acc).1 := by
  unfold State.atomicAt
  extract_lets s0 r i s1 s2
  have h0 : Beside b₀ m₀ w₀ s0 := beside_replied h
  have hi : Beside b₀ m₀ w₀ i.1 := beside_injected h0
  have h1 : Beside b₀ m₀ w₀ s1 := beside_ite (beside_lineCheck hi) (beside_ecc hi)
  have h2 : Beside b₀ m₀ w₀ s2 := beside_ite (beside_l1Drop h1) h1
  refine beside_iteFst (beside_iteFst (beside_dieBarAtomic h0) h0) ?_
  split
  · exact h2
  · refine beside_iteFst h2 ?_
    dsimp only
    split
    · exact beside_writePlace h2
    · exact beside_ite (beside_cacheRead h2) h2

end Sys2Proof.Machine.State
end

section
/-! SUPPORT. What the strand in focus does to itself, and lanes, barriers and issued work, beside the lull sequencer: no other strand that runs
moves. -/

namespace Sys2Proof.Machine.State

open Sys2Proof

variable {b₀ s : State} {m₀ w₀ : Option (Tid × Strand)}

theorem beside_raiseF {f} (h : Beside b₀ none w₀ s) : Beside b₀ none w₀ (s.raiseF f) := h

theorem beside_raiseI {f} (h : Beside b₀ none w₀ s) : Beside b₀ none w₀ (s.raiseI f) := h

theorem beside_takeQueuedTrap {t f} (h : Beside b₀ none w₀ s) (other : ∀ p ∈ w₀, t ≠ p.1) :
    Beside b₀ none w₀ (s.takeQueuedTrap t f) := beside_onOther h other

theorem beside_laneWord (h : Beside b₀ none w₀ s) (k lane : Nat) : Beside b₀ none w₀ (s.laneWord k lane) := by
  unfold State.laneWord
  simp only
  split
  · exact h
  · split
    · exact beside_countLane (beside_logLane (beside_onVec h _) ..) ..
    · exact beside_countLane (beside_logLane (beside_onVec (beside_onVec h _) _) ..) ..
    · exact beside_markLane (beside_onVec (beside_onVec h _) _) ..

theorem beside_barwReturn {t k} (h : Beside b₀ none w₀ s) (other : ∀ p ∈ w₀, t ≠ p.1) : Beside b₀ none w₀ (s.barwReturn t k) :=
  beside_onOther h other

theorem beside_wakeBarw {k ts} (h : Beside b₀ none w₀ s) : Beside b₀ none w₀ (s.wakeBarw k ts) := by
  induction ts generalizing s with
  | nil => exact h
  | cons t ts ih =>
    refine ih ?_
    split
    · next parked => exact beside_barwReturn h (beside_idle h (by simp [parked.1]))
    · exact h

theorem beside_barrierArrive {c k} (h : Beside b₀ none w₀ s) : Beside b₀ none w₀ (s.barrierArrive c k) :=
  beside_ite h (beside_wakeBarw h)

theorem beside_leaveSuspended {t} (h : Beside b₀ none w₀ s) : Beside b₀ none w₀ (s.leaveSuspended t) := h

theorem beside_detach {t} (h : Beside b₀ none w₀ s) : Beside b₀ none w₀ (s.detach t) :=
  beside_folded h fun _ _ hu => beside_onStrand hu fun _ _ k => k

theorem beside_leaveWaiting {t} (h : Beside b₀ none w₀ s) : Beside b₀ none w₀ (s.leaveWaiting t) := h

theorem beside_reserve {t ls} (h : Beside b₀ none w₀ s) : Beside b₀ none w₀ (s.reserve t ls) :=
  beside_push (beside_onStrand h fun _ _ k => k)

theorem beside_serve {t first} (h : Beside b₀ none w₀ s) : Beside b₀ none w₀ (s.serve t first) := by
  have other : (s.strand t).run ≠ .running → ∀ p ∈ w₀, t ≠ p.1 := beside_idle h
  unfold State.serve
  extract_lets x
  change x.run ≠ .running → _ at other
  generalize x.run = r at other
  cases r with
  | suspended w =>
    refine beside_ite h ?_
    split
    · exact beside_push (beside_detach (beside_leaveSuspended (beside_onOther h (other nofun))))
    · exact h
  | parked p =>
    cases p with
    | grant =>
      dsimp only
      split
      · exact beside_push (beside_detach (beside_leaveWaiting (beside_onOther h (other nofun))))
      · exact h
    | relocate =>
      dsimp only
      split
      · exact beside_detach (beside_leaveWaiting (beside_reserve h))
      · exact h
    | _ => exact h
  | _ => exact h

theorem beside_assignLanes {c first} (h : Beside b₀ none w₀ s) : Beside b₀ none w₀ (s.assignLanes c first) := by
  unfold State.assignLanes
  simp only
  refine beside_folded ?_ fun u a hu => ?_
  · refine beside_folded ?_ fun u a hu => ?_
    · split
      · exact beside_serve h
      · exact h
    · exact beside_serve hu
  · exact beside_serve hu

theorem beside_fire (h : Beside b₀ none w₀ s) : Beside b₀ none w₀ s.fire := beside_upd h ..

theorem beside_decideAt {unit lane x en} (h : Beside b₀ none w₀ s) : Beside b₀ none w₀ (s.decideAt unit lane x en).1 := by
  unfold State.decideAt
  simp only
  split
  · split
    · split
      · exact beside_fire h
      · exact beside_fire h
    · exact h
  · exact h

theorem beside_reportLocated {unit lane chan at_ inj} (h : Beside b₀ none w₀ s) :
    Beside b₀ none w₀ (s.reportLocated unit lane chan at_ inj) :=
  beside_ite (beside_countLane (beside_logLane h ..) ..) (beside_upd (beside_countLane (beside_logLane h ..) ..) ..)

theorem beside_reportUnresolved {unit lane at_ inj} (h : Beside b₀ none w₀ s) :
    Beside b₀ none w₀ (s.reportUnresolved unit lane at_ inj) :=
  beside_logLane h ..

theorem beside_unitReport {unit w2} (h : Beside b₀ none w₀ s) : Beside b₀ none w₀ (s.unitReport unit w2).1 := by
  unfold State.unitReport
  split
  · exact h
  · exact beside_logCluster (beside_fire h) ..

theorem beside_recheckReport {lanes first whole} (h : Beside b₀ none w₀ s) :
    Beside b₀ none w₀ (s.recheckReport lanes first whole).1 := by
  unfold State.recheckReport
  extract_lets corrupt
  split
  · exact h
  · extract_lets d inj unc p s1
    split
    · exact beside_countLane (beside_logLane (beside_fire h) ..) ..
    · have h1 : Beside b₀ none w₀ s1 := beside_countLane (beside_logLane (beside_fire h) ..) ..
      exact beside_ite (beside_markLane h1 ..) h1

theorem beside_laneRead {ks} (h : Beside b₀ none w₀ s) : Beside b₀ none w₀ (s.laneRead ks).1 := by
  unfold State.laneRead
  simp only
  split
  · exact h
  split
  · refine beside_logLane ?_ ..
    split
    · exact beside_logLane (beside_fire (beside_folded h fun _ _ hu => beside_laneWord hu ..)) ..
    · exact beside_folded h fun _ _ hu => beside_laneWord hu ..
  split
  · exact beside_logLane (beside_fire (beside_folded h fun _ _ hu => beside_laneWord hu ..)) ..
  · exact beside_folded h fun _ _ hu => beside_laneWord hu ..

theorem beside_noteElemFail {q r} (h : Beside b₀ none w₀ s) : Beside b₀ none w₀ (s.noteElemFail q r) := by
  unfold State.noteElemFail
  extract_lets a
  split
  · exact h
  split
  · split
    · next e => exact beside_failure h e
    · exact h
  · exact h

theorem beside_lookElem {q r} (h : Beside b₀ none w₀ s) : Beside b₀ none w₀ (s.lookElem q r).1 := by
  unfold State.lookElem
  simp only
  split
  · split
    · exact beside_noteAccess h
    split
    · next e =>
      split
      · exact beside_noteAccess h
      · exact beside_fst e (beside_readParts (beside_noteAccess h))
    · next e => exact beside_fst e (beside_readParts (beside_noteAccess h))
  · exact beside_noteElemFail h
  · exact h

theorem beside_askElem {q enc r parts} (h : Beside b₀ none w₀ s) : Beside b₀ none w₀ (s.askElem q enc r parts) :=
  beside_beginWait (beside_noteAccess h)

theorem beside_lookAll {q rs} (h : Beside b₀ none w₀ s) : Beside b₀ none w₀ (s.lookAll q rs).1 := by
  induction rs generalizing s with
  | nil => exact h
  | cons r rs ih => exact ih (beside_lookElem h)

theorem beside_askFar {q enc ls} (h : Beside b₀ none w₀ s) : Beside b₀ none w₀ (s.askFar q enc ls).1 := by
  induction ls generalizing s with
  | nil => exact h
  | cons l rs ih =>
    unfold State.askFar
    split
    · exact h
    · next e =>
      cases e
      extract_lets asked
      split
      · exact beside_askElem h
      · exact ih (beside_askElem h)
    · exact h
    · next e =>
      cases e
      exact ih h

theorem beside_doElem {q r l} (h : Beside b₀ none w₀ s) : Beside b₀ none w₀ (s.doElem q r l).1 := by
  unfold State.doElem
  simp only
  split
  · exact h
  · exact beside_writeParts h
  · exact beside_atomicAt h
  · exact h

theorem beside_doAll {q ls} (h : Beside b₀ none w₀ s) : Beside b₀ none w₀ (s.doAll q ls).1 := by
  induction ls generalizing s with
  | nil => exact h
  | cons l ls ih => exact ih (beside_doElem h)

theorem beside_accessAll {q i rs go} (h : Beside b₀ none w₀ s)
    (keeps : ∀ (u : State) bs, Beside b₀ none w₀ u → Beside b₀ none w₀ (go u bs)) : (s.accessAll q i rs go).Ends (Beside b₀ none w₀) := by
  have asked := beside_askFar (q := q) (enc := s.bodyEnc) (ls := (s.lookAll q rs).2) (beside_lookAll h (q := q) (rs := rs))
  unfold State.accessAll
  simp only
  split
  · exact beside_onMe (beside_lookAll h)
  · exact asked
  split
  · exact asked
  · exact keeps _ _ (beside_onMe (beside_doAll asked))

theorem beside_loadIdx {q f d b m i} (h : Beside b₀ none w₀ s) : (s.loadIdx q f d b m i).Ends (Beside b₀ none w₀) := by
  unfold State.loadIdx
  simp only
  split
  · exact h
  split
  · next e =>
    have h1 := beside_bad e (beside_accessAll h fun _ _ hu => hu)
    split
    · exact beside_onMe h1
    · exact h1
  · exact beside_accessAll h fun _ _ hu => hu

theorem beside_storeIdx {q f d b m sc i} (h : Beside b₀ none w₀ s) : (s.storeIdx q f d b m sc i).Ends (Beside b₀ none w₀) := by
  unfold State.storeIdx
  split
  · split
    · exact h
    split
    · exact h
    · exact beside_accessAll h fun _ _ hu => hu
  split
  · exact h
  · exact beside_accessAll h fun _ _ hu => hu

theorem beside_landGot {q d i rs} (h : Beside b₀ none w₀ s) : Beside b₀ none w₀ (s.landGot q d i rs) := h

theorem beside_amoIdx {q op d b m i} (h : Beside b₀ none w₀ s) : (s.amoIdx q op d b m i).Ends (Beside b₀ none w₀) := by
  unfold State.amoIdx
  simp only
  split
  · exact h
  split
  · next e => exact beside_landGot (beside_bad e (beside_accessAll h fun _ _ hu => hu))
  · exact beside_accessAll h fun _ _ hu => hu

theorem beside_cbloadRead {q n k acc} (h : Beside b₀ none w₀ s) : (s.cbloadRead q n k acc).1.Ends (Beside b₀ none w₀) := by
  induction n generalizing s k acc with
  | zero => exact h
  | succ n ih =>
    unfold State.cbloadRead
    extract_lets r
    split
    · next e => exact beside_onMe (beside_fst e (beside_lookElem h))
    · next e => exact beside_askElem (beside_fst e (beside_lookElem h))
    · next e => exact ih (beside_fst e (beside_lookElem h))
    · next e => exact beside_fst e (beside_lookElem h)

theorem beside_keepTable {cn} (h : Beside b₀ none w₀ s) : Beside b₀ none w₀ (s.keepTable cn) := by
  refine beside_folded h fun _ _ hu => beside_onStrand hu fun x y k => ?_
  split
  · exact ⟨k.1, k.2.1, k.2.2.1, fun empty => List.map_eq_nil_iff.mpr (k.2.2.2 empty)⟩
  · exact k

theorem beside_cbloadAll {q} (h : Beside b₀ none w₀ s) : (s.cbloadAll q).Ends (Beside b₀ none w₀) := by
  have read := beside_cbloadRead h (q := q) (n := 64) (k := 0) (acc := [])
  unfold State.cbloadAll
  split
  · next e =>
    rw [e] at read
    exact beside_onCluster (beside_keepTable (beside_onMe read)) ..
  · next e =>
    rw [e] at read
    exact read

theorem beside_tldrowStep {q d x u ec lane} (h : Beside b₀ none w₀ s) : (s.tldrowStep q d x u ec lane).Ends (Beside b₀ none w₀) :=
  beside_accessAll h fun _ _ hu => hu

theorem beside_tstrowStep {q d x u ec lane} (h : Beside b₀ none w₀ s) : (s.tstrowStep q d x u ec lane).Ends (Beside b₀ none w₀) :=
  beside_accessAll h fun _ _ hu => hu

theorem beside_putElem {sew n i e} (h : Beside b₀ none w₀ s) : Beside b₀ none w₀ (s.putElem sew n i e) :=
  beside_ite h h

theorem beside_corruptElem {lane x en} (h : Beside b₀ none w₀ s) : Beside b₀ none w₀ (s.corruptElem lane x en).1 := by
  unfold State.corruptElem
  split
  · split
    · exact beside_fire h
    · exact h
  · exact h

theorem beside_arithAt {q op form d a b j i} (h : Beside b₀ none w₀ s) : Beside b₀ none w₀ (s.arithAt q op form d a b j i) := by
  unfold State.arithAt
  simp only
  split
  · exact beside_putElem h
  · exact beside_putElem h
  · exact beside_putElem h
  · exact beside_ite (beside_putElem (beside_corruptElem h)) (beside_putElem h)

theorem beside_eachReg {g f} (h : Beside b₀ none w₀ s) (keeps : ∀ (u : State) j, Beside b₀ none w₀ u → Beside b₀ none w₀ (f u j)) :
    Beside b₀ none w₀ (s.eachReg g f) := beside_foldl keeps _ h

theorem beside_maskedWide {q d r sew i} (h : Beside b₀ none w₀ s) : Beside b₀ none w₀ (s.maskedWide q d r sew i) :=
  beside_ite (beside_eachReg h fun _ _ hu => hu) h

theorem beside_maskedBit {q d i} (h : Beside b₀ none w₀ s) : Beside b₀ none w₀ (s.maskedBit q d i) := beside_ite h h

theorem beside_cbdecAt {q d a i} (h : Beside b₀ none w₀ s) : Beside b₀ none w₀ (s.cbdecAt q d a i) :=
  beside_folded h fun _ _ hu => beside_ite (beside_putElem hu) (beside_putElem hu)

theorem beside_rnsfAt {q d a i} (h : Beside b₀ none w₀ s) : (s.rnsfAt q d a i).Ends (Beside b₀ none w₀) := by
  unfold State.rnsfAt
  simp only
  split
  · exact h
  · exact beside_folded h fun _ _ hu => beside_putElem (beside_corruptElem hu)

theorem beside_rnsrLook {q a i} (h : Beside b₀ none w₀ s) : Beside b₀ none w₀ (s.rnsrLook q a i).1 := by
  unfold State.rnsrLook
  exact beside_foldedPair h fun _ _ hu => beside_decideAt hu

theorem beside_rnsrAt {q d a i} (h : Beside b₀ none w₀ s) : (s.rnsrAt q d a i).Ends (Beside b₀ none w₀) := by
  unfold State.rnsrAt
  simp only
  split
  · exact beside_rnsrLook h
  split
  · exact beside_rnsrLook h
  · refine beside_folded (beside_rnsrLook h) fun u a hu => ?_
    split
    · exact beside_putElem hu
    · exact beside_putElem (beside_reportLocated hu)
    · exact beside_putElem (beside_ite (beside_reportUnresolved hu) hu)

theorem beside_putVal {kind sew n i e} (h : Beside b₀ none w₀ s) : Beside b₀ none w₀ (s.putVal kind sew n i e) :=
  beside_ite h h

theorem beside_cvtAt {q sr d a tk tsew m i} (h : Beside b₀ none w₀ s) : Beside b₀ none w₀ (s.cvtAt q sr d a tk tsew m i) :=
  beside_ite h (beside_eachReg h fun _ _ hu => beside_folded hu fun _ _ hu => beside_putVal hu)

theorem beside_cvtBlock {q sr d a tk m b h' r} (h : Beside b₀ none w₀ s) : Beside b₀ none w₀ (s.cvtBlock q sr d a tk m b h' r) := by
  unfold State.cvtBlock
  extract_lets ps pt v live act off srcs vals e sig zeroed s1 s2 n u k
  have hz : Beside b₀ none w₀ zeroed := beside_folded h fun _ _ hu => beside_putVal hu
  have h1 : Beside b₀ none w₀ s1 :=
    beside_ite (beside_ite (beside_raiseF hz) hz) (beside_folded h fun _ _ hu => beside_putVal hu)
  have h2 : Beside b₀ none w₀ s2 := beside_ite (beside_folded h1 fun _ _ hu => beside_putVal hu) h1
  exact beside_ite (beside_ite (beside_onMe h2) (beside_ite (beside_onMe h2) h2)) (beside_onMe h2)

theorem beside_cvtScaledAt {q sr d a tk m i} (h : Beside b₀ none w₀ s) : Beside b₀ none w₀ (s.cvtScaledAt q sr d a tk m i) :=
  beside_ite (beside_folded h fun _ _ hu => beside_cvtBlock hu) h

theorem beside_swapprAt {q d a m i} (h : Beside b₀ none w₀ s) : Beside b₀ none w₀ (s.swapprAt q d a m i) :=
  beside_ite (beside_ite h (beside_ite h (beside_ite h h))) (beside_ite (beside_eachReg h fun _ _ hu => hu) h)

theorem beside_writeIdx {q d m i f} (h : Beside b₀ none w₀ s) (keeps : ∀ (u : State) j, Beside b₀ none w₀ u → Beside b₀ none w₀ (f u j)) :
    Beside b₀ none w₀ (s.writeIdx q d m i f) := beside_ite (beside_eachReg h keeps) h

theorem beside_elemIdx {q i} (h : Beside b₀ none w₀ s) : (s.elemIdx q i).Ends (Beside b₀ none w₀) := by
  unfold State.elemIdx
  simp only
  split
  · exact beside_loadIdx h
  · exact beside_storeIdx h
  · exact beside_amoIdx h
  · split
    · exact beside_eachReg h fun _ _ hu => beside_arithAt hu
    split
    · exact beside_maskedWide h
    · exact beside_maskedWide h
    · exact h
  · exact beside_ite h (beside_maskedBit h)
  · exact beside_eachReg h fun _ _ hu => hu
  · exact beside_writeIdx h fun _ _ hu => beside_putElem hu
  · exact beside_writeIdx h fun _ _ hu => beside_putElem hu
  · exact beside_swapprAt h
  · exact beside_ite (beside_cvtScaledAt h) (beside_cvtAt h)
  · exact beside_writeIdx h fun _ _ hu => beside_putElem hu
  · exact beside_writeIdx h fun _ _ hu => beside_putElem hu
  · exact beside_ite (beside_cbdecAt h) h
  · split
    · exact beside_rnsfAt h
    · exact beside_maskedWide h
  · split
    · exact beside_rnsrAt h
    · exact h
  · exact beside_ite h (beside_maskedBit h)
  · exact h

theorem beside_wholeOp {q} (h : Beside b₀ none w₀ s) : Beside b₀ none w₀ (s.wholeOp q) := by
  unfold State.wholeOp
  simp only
  split
  · exact beside_ite h h
  · exact beside_ite h h
  · exact h
  · exact h
  · exact h
  · exact beside_ite h h
  · exact beside_ite h h
  · exact h

theorem beside_corruptCell {q d cells} (h : Beside b₀ none w₀ s) : Beside b₀ none w₀ (s.corruptCell q d cells) := by
  unfold State.corruptCell
  split
  · exact h
  split
  · exact beside_ite (beside_onMe (beside_fire h)) h
  · exact h

theorem beside_toprStep {q d a b m n k} (h : Beside b₀ none w₀ s) : Beside b₀ none w₀ (s.toprStep q d a b m n k) :=
  beside_corruptCell (beside_ite h h)

theorem beside_decideCell {q d u put} (h : Beside b₀ none w₀ s) : (s.decideCell q d u put).Ends (Beside b₀ none w₀) := by
  unfold State.decideCell
  extract_lets i j lane at_ w r s1 inj guard write
  have h1 : Beside b₀ none w₀ s1 := beside_decideAt h
  have wrote : ∀ v : State, Beside b₀ none w₀ v → Beside b₀ none w₀ (write v) := by
    intro v hv
    unfold write
    split
    · exact hv
    · exact hv
  split
  · exact wrote _ h1
  · split
    · exact h1
    · exact beside_raiseI (wrote _ (beside_reportLocated h1))
  split
  · exact h1
  split
  · exact beside_raiseI (wrote _ (beside_reportUnresolved h1))
  · exact beside_raiseI (wrote _ h1)

theorem beside_tcvtStep {q d code u} (h : Beside b₀ none w₀ s) : (s.tcvtStep q d code u).Ends (Beside b₀ none w₀) := by
  unfold State.tcvtStep
  simp only
  split
  · exact beside_decideCell h
  · split
    · exact h
    · exact beside_ite h h
  · exact h
  · exact h
  · exact h

theorem beside_tchkStep {q d u} (h : Beside b₀ none w₀ s) : (s.tchkStep q d u).Ends (Beside b₀ none w₀) := beside_decideCell h

theorem beside_matStep {q u} (h : Beside b₀ none w₀ s) : (s.matStep q u).Ends (Beside b₀ none w₀) := by
  unfold State.matStep
  simp only
  split
  · exact h
  · exact beside_toprStep h
  · exact h
  · exact beside_tldrowStep h
  · exact beside_tstrowStep h
  · exact h
  · exact h
  · split
    · exact beside_ite h h
    · exact beside_tcvtStep (beside_ite h h)
  · split
    · exact h
    · exact beside_tchkStep h
  · exact h

theorem beside_matFinish {q} (h : Beside b₀ none w₀ s) : Beside b₀ none w₀ (s.matFinish q) := by
  unfold State.matFinish
  split
  · exact beside_ite h h
  · exact h

theorem beside_oneIdx {q i} (h : Beside b₀ none w₀ s) : (s.oneIdx q i).Ends (Beside b₀ none w₀) := by
  unfold State.oneIdx
  split
  · exact beside_matStep h
  · exact beside_elemIdx h

theorem beside_runList {q is} (h : Beside b₀ none w₀ s) : Beside b₀ none w₀ (s.runList q is).1 := by
  induction is generalizing s with
  | nil => exact h
  | cons i is ih =>
    unfold State.runList
    split
    · next e => exact ih (beside_done e (beside_oneIdx h))
    · next e => exact beside_bad e (beside_oneIdx h)
    · next e => exact beside_wait e (beside_oneIdx h)
    · next e => exact beside_stop e (beside_oneIdx h)

theorem beside_clearWritten {q lo hi} (h : Beside b₀ none w₀ s) : Beside b₀ none w₀ (s.clearWritten q lo hi) :=
  beside_ite h h

theorem beside_clearTail {q} (h : Beside b₀ none w₀ s) : Beside b₀ none w₀ (s.clearTail q) := by
  unfold State.clearTail
  simp only
  split
  · exact h
  split
  · exact h
  · exact h
  · exact beside_ite h h

theorem beside_stepInject {q} (h : Beside b₀ none w₀ s) : Beside b₀ none w₀ (s.stepInject q).1 := by
  unfold State.stepInject
  split
  · exact h
  · extract_lets r unc
    have hr : Beside b₀ none w₀ r.1 := by
      unfold r
      split
      · exact beside_unitReport h
      · exact h
    split
    · exact hr
    split
    · exact hr
    split
    · exact hr
    · extract_lets w2 found
      have h1 : Beside b₀ none w₀ found := beside_logLane (beside_fire hr) ..
      exact beside_ite (beside_logLane h1 ..) h1

theorem beside_runOrdered {q is} (h : Beside b₀ none w₀ s) : Beside b₀ none w₀ (s.runOrdered q is).1 := by
  induction is generalizing s with
  | nil => exact h
  | cons i is ih =>
    unfold State.runOrdered
    split
    · exact h
    split
    · next e => exact ih (beside_done e (beside_oneIdx h))
    · next e => exact beside_bad e (beside_oneIdx h)
    · next e => exact beside_wait e (beside_oneIdx h)
    · next e => exact beside_stop e (beside_oneIdx h)

theorem beside_runStep {q hi} (h : Beside b₀ none w₀ s) : Beside b₀ none w₀ (s.runStep q hi).1 := by
  unfold State.runStep
  extract_lets ir s0 r0 r1 r poisoned s1 o s2
  split
  · exact h
  · have h0 : Beside b₀ none w₀ r0.1 := beside_laneRead (beside_ir h)
    have h1 : Beside b₀ none w₀ r1.1 := beside_iteFst h0 (beside_stepInject h0)
    have hr : Beside b₀ none w₀ r.1 := beside_iteFst (beside_recheckReport h1) h1
    split
    · exact beside_ir hr
    · have hs1 : Beside b₀ none w₀ s1 := beside_ite (beside_onSys hr fun _ => ⟨rfl, rfl, rfl, rfl⟩) hr
      have hs2 : Beside b₀ none w₀ s2 := beside_ite (beside_fresh hs1) hs1
      have ran := beside_iteFst (p := opInOrder q.op = true) (beside_runOrdered hs2 (q := q) (is := o.1))
        (beside_runList hs2 (q := q) (is := o.1))
      split
      · next e => exact beside_ir (beside_clearWritten (beside_fst e ran))
      · next e => exact beside_ir (beside_fst e ran)

theorem beside_wholeEntry {q} (h : Beside b₀ none w₀ s) : Beside b₀ none w₀ (s.wholeEntry q).1 := by
  unfold State.wholeEntry
  extract_lets ir s0 idle r0 r1 r poisoned ended
  split
  · split
    · exact h
    split
    · next e => exact beside_ir (beside_done e (beside_cbloadAll (beside_ir h)))
    · next e => exact beside_ir (beside_stop e (beside_cbloadAll (beside_ir h)))
    · next e => exact beside_ir (beside_bad e (beside_cbloadAll (beside_ir h)))
    · next e => exact beside_ir (beside_wait e (beside_cbloadAll (beside_ir h)))
  · exact beside_iteFst h h
  · exact beside_iteFst (beside_barrierArrive h) h
  · refine beside_iteFst (beside_ir (beside_wholeOp (beside_ir h))) ?_
    have h0 : Beside b₀ none w₀ r0.1 := beside_laneRead (beside_ir h)
    have h1 : Beside b₀ none w₀ r1.1 := beside_iteFst h0 (beside_stepInject h0)
    have hr : Beside b₀ none w₀ r.1 := beside_iteFst (beside_recheckReport h1) h1
    exact beside_iteFst (beside_ir hr)
      (beside_ir (beside_clearTail (beside_clearWritten (beside_wholeOp hr))))

theorem beside_setEntry {n q} (h : Beside b₀ none w₀ s) : Beside b₀ none w₀ (s.setEntry n q) := h

theorem beside_completeEntry {n q} (h : Beside b₀ none w₀ s) : Beside b₀ none w₀ (s.completeEntry n q) := by
  unfold State.completeEntry
  extract_lets s1 s2 s3
  have h1 : Beside b₀ none w₀ s1 := beside_ite h (beside_ite (beside_matFinish h) (beside_clearTail h))
  have h2 : Beside b₀ none w₀ s2 := by
    unfold s2
    split
    · exact beside_acquire h1
    · exact h1
  exact beside_ite (beside_scDone (beside_onMe h2)) (beside_onMe h2)

theorem beside_undefine {q k} (h : Beside b₀ none w₀ s) : Beside b₀ none w₀ (s.undefine q k) := by
  unfold State.undefine
  simp only
  split
  · exact h
  · exact h
  · exact h

theorem beside_tryYounger {n} (h : Beside b₀ none w₀ s) : (s.tryYounger n).Ends (Beside b₀ none w₀) := by
  unfold State.tryYounger
  simp only
  split
  · trivial
  split
  · trivial
  split
  · split
    · split
      · next e => exact beside_completeEntry (beside_fst e (beside_wholeEntry h))
      · next e => exact beside_fst e (beside_wholeEntry h)
      · trivial
    · trivial
  split
  · split
    · exact beside_completeEntry h
    · trivial
  split
  · split
    · next e => exact beside_setEntry (beside_fst e (beside_runStep h))
    · next e => exact beside_setEntry (beside_fst e (beside_runStep h))
    · trivial
  · trivial

theorem beside_runYounger {n len fuel} (h : Beside b₀ none w₀ s) : Beside b₀ none w₀ (s.runYounger n len fuel).1 := by
  induction fuel generalizing s with
  | zero => exact h
  | succ fuel ih =>
    unfold State.runYounger
    split
    · next e => exact beside_iteFst (beside_went e (beside_tryYounger h)) (ih (beside_went e (beside_tryYounger h)))
    · next e => exact beside_waits e (beside_tryYounger h)
    · exact h

theorem beside_runYoungers {n k} (h : Beside b₀ none w₀ s) : Beside b₀ none w₀ (s.runYoungers n k).1 := by
  induction k generalizing s n with
  | zero => exact h
  | succ k ih => exact ih (beside_runYounger h)

theorem beside_dropGrant {t} (h : Beside b₀ none w₀ s) : Beside b₀ none w₀ (s.dropGrant t) :=
  beside_ite (beside_assignLanes (beside_onStrand h fun _ _ k => k)) h

theorem beside_trapHead {q f} (h : Beside b₀ none w₀ s) : Beside b₀ none w₀ (s.trapHead q f) :=
  beside_takeQueuedTrap (beside_dropGrant (beside_scDone (beside_onMe (beside_undefine (beside_setEntry h))))) (beside_focused h)

theorem beside_trapOrWait {q f} (h : Beside b₀ none w₀ s) : Beside b₀ none w₀ (s.trapOrWait q f) :=
  beside_ite (beside_trapHead h) (beside_ite (beside_runYoungers h) (beside_trapHead (beside_runYoungers h)))

theorem beside_beginSave {t w} (h : Beside b₀ none w₀ s) (other : ∀ p ∈ w₀, t ≠ p.1) : Beside b₀ none w₀ (s.beginSave t w) :=
  beside_pushAll (beside_push (beside_onOther (beside_dropGrant (beside_scDone (beside_onCluster h _ _))) other))

theorem beside_saveHeld (h : Beside b₀ none w₀ s) : Beside b₀ none w₀ s.saveHeld :=
  beside_ite (beside_onMe h) (beside_beginSave (beside_onMe h) (beside_focused h))

theorem beside_runSteps {q n} (h : Beside b₀ none w₀ s) : Beside b₀ none w₀ (s.runSteps q n).1 := by
  induction n generalizing s q with
  | zero => exact h
  | succ n ih =>
    unfold State.runSteps
    refine beside_iteFst h ?_
    extract_lets one hi
    refine beside_iteFst h ?_
    split
    · next e => exact ih (beside_fst e (beside_runStep h))
    · next e => exact beside_fst e (beside_runStep h)
    · next e => exact beside_fst e (beside_runStep h)
    · next e => exact beside_fst e (beside_runStep h)
    · next e => exact beside_fst e (beside_runStep h)

theorem beside_pumpHead (h : Beside b₀ none w₀ s) : Beside b₀ none w₀ s.pumpHead.1 := by
  unfold State.pumpHead
  split
  · exact h
  split
  · exact beside_iteFst h (beside_trapOrWait h)
  extract_lets w r
  have hr : Beside b₀ none w₀ r.1 := by
    unfold r
    split
    · exact beside_iteFst (beside_wholeEntry h) h
    · exact beside_runSteps h
  clear_value r
  rcases r with ⟨s1, q1, _ | f | i | _ | _⟩
  · exact beside_iteFst (beside_completeEntry (beside_setEntry hr)) (beside_setEntry hr)
  · exact beside_iteFst (beside_setEntry hr) (beside_trapOrWait (beside_setEntry hr))
  · exact beside_setEntry hr
  · exact beside_iteFst (beside_completeEntry (beside_setEntry hr)) (beside_setEntry hr)
  · exact beside_saveHeld (beside_setEntry hr)

theorem beside_pumpMe {n} (h : Beside b₀ none w₀ s) : Beside b₀ none w₀ (s.pumpMe n) := by
  induction n generalizing s with
  | zero => exact h
  | succ n ih =>
    unfold State.pumpMe
    refine beside_ite h ?_
    split
    · next e => exact ih (beside_fst e (beside_pumpHead h))
    · next e => exact beside_fst e (beside_pumpHead h)

theorem beside_nudge {t} (h : Beside b₀ none w₀ s) : Beside b₀ none w₀ (s.nudge t) := by
  unfold State.nudge
  extract_lets x a b
  have ha : Beside b₀ none w₀ a := beside_ite (beside_push h) h
  have hb : Beside b₀ none w₀ b := beside_ite (beside_push ha) ha
  exact beside_ite (beside_push hb) (beside_ite (beside_push hb) hb)

theorem beside_pumpFocus (h : Beside b₀ none w₀ s) : Beside b₀ none w₀ s.pumpFocus :=
  beside_ite (beside_nudge (beside_pumpMe h)) h

end Sys2Proof.Machine.State
end

section
/-! SUPPORT. Strands that go on, what a lull has kept, and patrol scrub, beside the lull sequencer. -/

namespace Sys2Proof.Machine.State

open Sys2Proof

variable {b₀ s : State} {m₀ w₀ : Option (Tid × Strand)}

theorem beside_pump {t} (h : Beside b₀ m₀ none s) (other : ∀ p ∈ m₀, p.1 ≠ t) : Beside b₀ m₀ none (s.pump t) :=
  beside_within h other fun _ hu => beside_pumpFocus hu

theorem beside_resumeQueue {t} (h : Beside b₀ m₀ none s) (other : ∀ p ∈ m₀, p.1 ≠ t) : Beside b₀ m₀ none (s.resumeQueue t) :=
  beside_ite (beside_pump h other) (beside_pushed (beside_pushAll h) (pushed_nudge _ t))

/-- A context goes on: the strand of `m₀` only, if issued work is taken at once, where it has none. -/
theorem beside_goOn {t} (h : Beside b₀ m₀ none s) (calm : b₀.eager = false ∨ ∀ p ∈ m₀, p.2.queue = []) :
    Beside b₀ m₀ none (s.goOn t) := by
  obtain ⟨⟨-, -, -, -, eager⟩, -, mine, -⟩ := id h
  rcases calm with steps | empty
  · exact beside_pushed h (pushed_goOn (.inr (eager.trans steps)))
  by_cases other : ∀ p ∈ m₀, p.1 ≠ t
  · exact beside_pushed (beside_pushed (beside_resumeQueue h other) (pushed_nudge _ t)) (pushed_resumeSave _ t)
  · push Not at other
    obtain ⟨p, named, rfl⟩ := other
    obtain ⟨tid, -, -, -, queue⟩ := elim_mem mine named
    exact beside_pushed h (pushed_goOn (.inl ⟨tid.symm, queue (empty p named)⟩))

theorem beside_sendHeld {t} (h : Beside b₀ m₀ w₀ s) : Beside b₀ m₀ w₀ (s.sendHeld t) := by
  refine beside_folded h fun u i hu => ?_
  split
  · refine beside_ite ?_ hu
    exact beside_onStrand (beside_sendPend hu) fun _ _ k => k
  · exact hu

theorem beside_releaseKept (h : Beside b₀ m₀ none s) (calm : b₀.eager = false ∨ ∀ p ∈ m₀, p.2.queue = []) :
    Beside b₀ m₀ none s.releaseKept := by
  unfold State.releaseKept
  extract_lets s1 held s2 s3
  have h1 : Beside b₀ m₀ none s1 := beside_folded h fun _ _ hu => beside_sendHeld hu
  have h2 : Beside b₀ m₀ none s2 := beside_pushFront (beside_onSys h1 fun _ => ⟨rfl, rfl, rfl, rfl⟩)
  have h3 : Beside b₀ m₀ none s3 := beside_folded h2 fun _ _ hu => beside_goOn hu calm
  exact beside_pushAll h3

/-! ### Scrubbing and substitution (12 R354, R358, R361) -/

theorem beside_scrubWords {f} (h : Beside b₀ none w₀ s) : Beside b₀ none w₀ (s.scrubWords f) := by
  refine beside_folded h fun u e hu => ?_
  have read : Beside b₀ none w₀ (u.laneWord e.1 (u.me.laneOfWord e.1)) := beside_laneWord hu ..
  exact beside_ite (beside_logLane read ..) read

theorem beside_scrubInject {c} (h : Beside b₀ m₀ w₀ s) : Beside b₀ m₀ w₀ (s.scrubInject c) :=
  beside_ite (beside_logCluster (beside_wr h ..) ..) h

theorem beside_scrub (h : Beside b₀ none none s) : Beside b₀ none none s.scrub := by
  refine beside_folded (beside_folded (beside_folded (beside_folded h ?_) ?_) ?_) ?_
  · exact fun _ _ hu => beside_eccWord hu
  · exact fun _ _ hu => beside_ite hu (beside_within hu (fun _ named => nomatch named) fun _ hv => beside_scrubWords hv)
  · exact fun _ _ hu => beside_strayRead hu ..
  · exact fun _ _ hu => beside_scrubInject hu

theorem beside_substitute (h : Beside b₀ m₀ w₀ s) : Beside b₀ m₀ w₀ s.substitute :=
  beside_folded h fun _ _ hu => beside_ite (beside_push (beside_onCluster hu ..)) hu

theorem beside_fw {r} (h : Beside b₀ m₀ w₀ s) : Beside b₀ m₀ w₀ { s with fw := r } := h

theorem beside_clearCounts (h : Beside b₀ m₀ w₀ s) : Beside b₀ m₀ w₀ s.clearCounts := beside_fw h

end Sys2Proof.Machine.State
end

section
/-! SUPPORT. The start of a lull: its housekeeping, and what it takes over. -/

namespace Sys2Proof.Machine

open Sys2Proof

/-! ### Folds whose steps change nothing -/

theorem foldl_calm {α β : Type} {f : β → α → β} {b : β} {l : List α} (calm : ∀ a ∈ l, f b a = b) : l.foldl f b = b := by
  induction l with
  | nil => rfl
  | cons a l ih =>
    rw [List.foldl_cons, calm a List.mem_cons_self]
    exact ih fun x hx => calm x (List.mem_cons_of_mem a hx)

/-- What holds of the default and of every listed value holds of whatever a table reads. -/
theorem NMap.get_of_listed {α : Type} {d : α} {m : NMap α} {P : α → Prop} (base : P d) (listed : ∀ e ∈ m, P e.2) (k : Nat) :
    P (NMap.get d m k) := by
  induction m with
  | nil => exact base
  | cons e r ih =>
    obtain ⟨j, x⟩ := e
    rw [NMap.get]
    split
    · exact base
    split
    · exact listed _ List.mem_cons_self
    · exact ih fun e he => listed e (List.mem_cons_of_mem _ he)

/-! ### The registers of a cluster that the housekeeping looks through -/

theorem alloc_past {p : Prop} [Decidable p] {r t : Region} {c o : Nat} (h : (if p then r else t) = .alloc c o) (no : r ≠ .alloc c o) :
    t = .alloc c o := by
  split at h
  exacts [absurd h no, h]

theorem alloc_of_region {pa c o : Nat} (h : region pa = .alloc c o) : pa = allocBlock c + o ∧ c < 128 := by
  unfold region at h
  have h := alloc_past (alloc_past (alloc_past (alloc_past (alloc_past (alloc_past (alloc_past (alloc_past (alloc_past h nofun) nofun) nofun)
    nofun) nofun) nofun) nofun) nofun) nofun
  by_cases here : 0xF000000000000 ≤ pa ∧ pa < 0xF000000800000
  · rw [if_pos here] at h
    injection h with hc ho
    unfold allocBlock
    omega
  · rw [if_neg here] at h
    exact nomatch alloc_past (alloc_past (alloc_past (alloc_past (alloc_past h nofun) nofun) nofun) nofun) nofun

theorem mem_noted {s : State} {g : Nat × Nat} (h : g ∈ s.noted) : g.1 < 128 ∧ g.2 < 8 := by
  obtain ⟨e, -, found⟩ := List.mem_filterMap.mp h
  revert found
  split
  · next c o at_ =>
    obtain ⟨-, bound⟩ := alloc_of_region at_
    split
    · rintro ⟨⟩
      exact ⟨bound, by dsimp only; omega⟩
    · nofun
  · nofun

theorem mem_injecting {s : State} {c : Nat} (h : c ∈ s.injecting) : c < 128 := by
  obtain ⟨e, -, found⟩ := List.mem_filterMap.mp h
  revert found
  split
  · next c at_ =>
    rintro ⟨⟩
    exact (alloc_of_region at_).2
  · nofun

/-- Where no lane group is to be substituted, nothing is. -/
theorem substitute_none {s : State} (none : ∀ c p, c < 128 → p < 8 → bitOf (s.rd (rLgstat c p)) 9 = false) : s.substitute = s :=
  foldl_calm fun g noted => by
    dsimp only
    obtain ⟨hc, hp⟩ := mem_noted noted
    rw [if_neg (by simp [none g.1 g.2 hc hp])]

/-- The registers below the error counters of a cluster stay where these are cleared. -/
theorem rd_clearCounts {s : State} (fw : NMap.wf 0 s.fw = true) {c o : Nat} (hc : c < 128) (ho : o < 0x3C0) (dword : o % 8 = 0) :
    s.clearCounts.rd (allocBlock c + o) = s.rd (allocBlock c + o) := by
  have at_ : 8 * ((allocBlock c + o) / 8) = allocBlock c + o := by unfold allocBlock; omega
  have stays := NMap.get_filter_drop (fun e : Nat × Word => match region (8 * e.1) with
      | .alloc _ o => !(decide (0x3C0 ≤ o) && decide (o < 0x400))
      | _ => true) (fun k => match region (8 * k) with
      | .alloc _ o => !(decide (0x3C0 ≤ o) && decide (o < 0x400))
      | _ => true) (fun _ => rfl) ((allocBlock c + o) / 8) fw
  rw [at_, region_allocBlock hc (by omega)] at stays
  exact congrArg (· ^^^ fwReset _) (stays.trans (if_pos (by simp; omega)))

/-- Nothing is found by a patrol scrub of a state without a fault or an injection in what it reads. -/
theorem scrub_clean {s : State} (synd : s.synd = []) (bound : s.boundTids = []) (stray : ∀ e ∈ s.clusters, e.2.stray = [])
    (quiet : ∀ c, c < 128 → bitOf (s.rd (rDinj c)) 63 = false) : s.scrub = s := by
  simp only [State.scrub, synd, bound, List.foldl_nil]
  rw [foldl_calm (b := s) (l := s.clusters)]
  · refine foldl_calm fun c armed => ?_
    unfold State.scrubInject
    dsimp only
    rw [quiet c (mem_injecting armed)]
    rfl
  · intro e _
    have clean : (s.cluster e.1).stray = [] := NMap.get_of_listed (P := fun k : Cluster => k.stray = []) rfl stray e.1
    unfold State.strayRead
    rw [clean]
    rfl

/-! ### L2 ways that go out of use (13 R400) -/

/-- The lines that L2 gives up at the start of a lull. -/
def State.l2Gone (s : State) (k : Nat) (l : CacheLine) : Bool := (NMap.get 0 s.sys.l2Off (k / 65536)).getLsbD l.way

/-- `t` is `s` with lines written back: DRAM is asked, and the memory-side cache takes them. -/
def WritesBack (s t : State) : Prop :=
  ∃ es m, (∀ e ∈ es, ∃ p, e = Event.dramAccess p) ∧ t = { s with agenda := s.agenda ++ es, sys := { s.sys with msc := m } }

theorem writesBack_evict (s : State) (l : CacheLine) : WritesBack s (s.evict l) := by
  obtain ⟨⟨es, only, agenda⟩, same⟩ := evict_shape s l
  exact ⟨es, _, only, same.trans (by rw [agenda])⟩

theorem writesBack_evicts (ls : List CacheLine) (s : State) : WritesBack s (ls.foldl State.evict s) := by
  induction ls generalizing s with
  | nil => exact ⟨[], s.sys.msc, nofun, by rw [List.append_nil]; rfl⟩
  | cons l ls ih =>
    obtain ⟨es, m, only, one⟩ := writesBack_evict s l
    obtain ⟨fs, n, rest, all⟩ := ih (s.evict l)
    refine ⟨es ++ fs, n, fun e he => (List.mem_append.mp he).elim (only e) (rest e), ?_⟩
    rw [List.foldl_cons, all, one, ← List.append_assoc]

/-- The lines are written back where they have to be, and gone. -/
theorem flushL2Off_eq (s : State) : ∃ t, WritesBack s t ∧ s.flushL2Off = { t with sys := { t.sys with l2 := cacheDrop s.sys.l2 s.l2Gone } } := by
  refine ⟨_, writesBack_evicts (cacheDirty s.sys.l2 s.l2Gone) s, ?_⟩
  obtain ⟨es, m, -, same⟩ := writesBack_evicts (cacheDirty s.sys.l2 s.l2Gone) s
  show State.onSys ((cacheDirty s.sys.l2 s.l2Gone).foldl State.evict s) (fun y => { y with l2 := cacheDrop y.l2 s.l2Gone }) = _
  rw [same]
  rfl

/-! ### The start of a lull (14 R420, R421) -/

/-- What the sequencer, DRAM and L2 take over as the next lull begins. -/
def State.lullTaken (s : State) (hot : Bool) (tj : Nat) : State :=
  let l := s.sys.lull
  let long := decide (l.start % 983040 = 0)
  s.onSys fun y =>
    { y with
      lull := l.begin l.start (hot || bitOf (s.rd rLullcfg) 0) tj
        (s.qualifies long (if l.phase = .lull then l.nextRelock else l.work.relock).isSome)
      rows := [], replays := []
      retrain := if long then [] else y.retrain
      l2Reserved := (List.range 4).foldl (fun m d => NMap.set 0 m d (BitVec.ofNat 2 (fld (s.rd (rL2rsv d)) 0 2) - 2)) []
      l2Off := (List.range 4).foldl (fun m d => NMap.set 0 m d (BitVec.ofNat 12 (fld (s.rd (rL2woff d)) 0 12))) [] }

/-- The work at the start of a lull on top of that. -/
def State.lullWorked (s : State) (long qual trips : Bool) : State :=
  let t := s.flushL2Off
  let u := if long then t.clearCounts.scrub else t
  let v := if qual then u.substitute else u
  if trips then v.push .thermtrip else v

/-- A lull that begins from its drain, or in an overrun, ends no other. -/
theorem execLullStart_begins {s : State} {hot : Bool} {tj : Nat} (due : s.sys.lull.start ≤ s.time)
    (begins : s.sys.lull.phase = .drain ∨ s.sys.lull.phase = .lull ∧ s.sys.lull.joined = true ∧ s.time < s.sys.lull.late) :
    ∃ u qual, execLullStart hot tj s = .next u ∧ u = (s.lullTaken hot tj).lullWorked (decide (s.sys.lull.start % 983040 = 0)) qual
      (decide (115 ≤ tj) && decide (s.sys.lull.start % 983040 = 0)) := by
  have ends : ¬ (s.sys.lull.phase = .lull ∧ s.sys.lull.late = 0) := by
    rintro ⟨lull, late⟩
    rcases begins with drain | ⟨-, -, overruns⟩
    · cases drain.symm.trans lull
    · omega
  unfold execLullStart
  dsimp only
  rw [if_pos ⟨begins.imp_right fun ⟨lull, joined, overruns⟩ => ⟨lull, joined, .inl overruns⟩, due⟩, if_neg ends]
  exact ⟨_, _, rfl, rfl⟩

theorem beside_lullWorked (s : State) (long qual trips : Bool) : Beside s none none (s.lullWorked long qual trips) := by
  unfold State.lullWorked
  extract_lets t u v
  have ht : Beside s none none t :=
    State.beside_onSys (State.beside_folded (State.beside_refl s) fun _ _ => State.beside_evict) fun _ => ⟨rfl, rfl, rfl, rfl⟩
  have hu : Beside s none none u := State.beside_ite (State.beside_scrub (State.beside_clearCounts ht)) ht
  have hv : Beside s none none v := State.beside_ite (State.beside_substitute hu) hu
  exact State.beside_ite (State.beside_push hv) hv

/-- In a short lull without a lane group to substitute, that is the L2 ways alone. -/
theorem lullWorked_short {s : State} {qual : Bool} (calm : s.flushL2Off.substitute = s.flushL2Off) :
    s.lullWorked false qual false = s.flushL2Off := by
  cases qual with
  | true => exact calm
  | false => rfl

theorem clearCounts_eq (s : State) : ∃ r, s.clearCounts = { s with fw := r } := ⟨_, rfl⟩

/-- With nothing to find, the error counters are cleared and no more. -/
theorem clearCounts_clean {s : State} (fw : NMap.wf 0 s.fw = true)
    (none : ∀ c p, c < 128 → p < 8 → bitOf (s.rd (rLgstat c p)) 9 = false) (synd : s.synd = []) (bound : s.boundTids = [])
    (stray : ∀ e ∈ s.clusters, e.2.stray = []) (quiet : ∀ c, c < 128 → bitOf (s.rd (rDinj c)) 63 = false) :
    s.clearCounts.scrub = s.clearCounts ∧ s.clearCounts.substitute = s.clearCounts := by
  have injects : ∀ c, c < 128 → bitOf (s.clearCounts.rd (rDinj c)) 63 = false := fun c hc =>
    (congrArg (bitOf · 63) (rd_clearCounts fw hc (o := 0x358) (by decide) rfl)).trans (quiet c hc)
  have fails : ∀ c p, c < 128 → p < 8 → bitOf (s.clearCounts.rd (rLgstat c p)) 9 = false := fun c p hc hp => by
    have same : s.clearCounts.rd (rLgstat c p) = s.rd (rLgstat c p) := by
      unfold rLgstat
      rw [Nat.add_assoc]
      exact rd_clearCounts fw hc (by omega) (by omega)
    rw [same]
    exact none c p hc hp
  obtain ⟨r, same⟩ := clearCounts_eq s
  rw [same] at injects fails ⊢
  exact ⟨scrub_clean synd bound stray injects, substitute_none fails⟩

theorem lullWorked_long {s : State} {qual trips : Bool} (scrubbed : s.flushL2Off.clearCounts.scrub = s.flushL2Off.clearCounts)
    (calm : s.flushL2Off.clearCounts.substitute = s.flushL2Off.clearCounts) :
    s.lullWorked true qual trips = if trips then s.flushL2Off.clearCounts.push .thermtrip else s.flushL2Off.clearCounts := by
  unfold State.lullWorked
  dsimp only
  rw [if_pos rfl, scrubbed, calm, ite_self]

/-! ### What the start of a lull leaves -/

/-- The sequencer as the next lull begins. -/
def State.lullBegun (s : State) (hot : Bool) (tj : Nat) : Lull := (s.lullTaken hot tj).sys.lull

theorem lullStart_keeps {s u : State} {hot long qual trips : Bool} {tj : Nat} (ends : u = (s.lullTaken hot tj).lullWorked long qual trips) :
    u.sys.lull = s.lullBegun hot tj ∧ u.sys.rows = [] ∧ u.sys.replays = [] := by
  subst ends
  obtain ⟨lull, -, rows, replays, -⟩ := (beside_lullWorked (s.lullTaken hot tj) long qual trips).1
  exact ⟨lull, rows, replays⟩

section
variable {s : State} {hot : Bool} {tj : Nat} {m : Lull} (begun : m = s.lullBegun hot tj)
include begun

/-- A lull that begins from its drain outside an overrun. -/
theorem lullBegun_drain (drain : s.sys.lull.phase = .drain) (cold : s.sys.lull.hotFrom = none) (late : s.sys.lull.late = 0) :
    m.phase = .lull ∧ m.overrun = false ∧ m.work.relock = s.sys.lull.work.relock ∧
      m.work.hotSeen = ((hot || bitOf (s.rd rLullcfg) 0) && !s.sys.lull.hot) := by
  simp [begun, State.lullBegun, State.lullTaken, State.onSys, Lull.begin, drain, cold, late]

/-- The calendar after a short lull that begins with no change of the calendar due. -/
theorem lullBegun_short (cold : s.sys.lull.hotFrom = none) (short : s.sys.lull.start % 983040 ≠ 0) :
    let l := s.sys.lull
    m.stop = l.start + 960 ∧ m.ends = l.start + 960 ∧ m.start = l.start + (if l.hot then 3840 else 7680) ∧ m.work.sweep = none ∧
      m.work.cool = false := by
  cases hot : s.sys.lull.hot
  all_goals
    simp [begun, State.lullBegun, State.lullTaken, State.onSys, Lull.begin, cold, short, hot, spanEnd, lullLength, nextStart]

/-- The calendar after a long lull, which sweeps the junctions. -/
theorem lullBegun_long (long : s.sys.lull.start % 983040 = 0) :
    let l := s.sys.lull
    m.stop = l.start + 8640 ∧ m.ends = l.start + 7680 ∧ m.start = l.start + 7680 ∧ m.work.sweep = some tj ∧
      m.work.cool = !(hot || bitOf (s.rd rLullcfg) 0) := by
  simp [begun, State.lullBegun, State.lullTaken, State.onSys, Lull.begin, long, spanEnd, lullLength, nextStart]

/-- A lull that begins in an overrun, whose end it leaves to come. -/
theorem lullBegun_overrun (lull : s.sys.lull.phase = .lull) (late : 0 < s.sys.lull.late) :
    let l := s.sys.lull
    m.phase = .lull ∧ m.late = l.late ∧ m.lateWork = l.lateWork ++ [l.work] ∧ m.work.relock = l.nextRelock ∧ m.joined = false ∧
      m.ends = l.start + lullLength l.start := by
  simp [begun, State.lullBegun, State.lullTaken, State.onSys, Lull.begin, lull, late]
end

theorem lullTaken_eq (s : State) (hot : Bool) (tj : Nat) :
    ∃ l r o, s.lullTaken hot tj = { s with sys := { s.sys with
      lull := l, rows := [], replays := [], retrain := if decide (s.sys.lull.start % 983040 = 0) then [] else s.sys.retrain
      l2Reserved := r, l2Off := o } } := ⟨_, _, _, rfl⟩

/-- In a short lull the ways of L2 that are off hold no line, and else nothing changes but the sequencer and DRAM's rows. -/
theorem lullStart_short {s u : State} {hot qual : Bool} {tj : Nat} (short : s.sys.lull.start % 983040 ≠ 0)
    (none : ∀ c p, c < 128 → p < 8 → bitOf (s.rd (rLgstat c p)) 9 = false)
    (ends : u = (s.lullTaken hot tj).lullWorked (decide (s.sys.lull.start % 983040 = 0)) qual
      (decide (115 ≤ tj) && decide (s.sys.lull.start % 983040 = 0))) :
    AsksDram s u ∧ (∀ k l, Holds u.sys.l2 k l → (NMap.get 0 u.sys.l2Off (k / 65536)).getLsbD l.way = false) ∧
      u = { s with agenda := u.agenda, sys := { s.sys with
        lull := u.sys.lull, rows := [], replays := [], l2Reserved := u.sys.l2Reserved, l2Off := u.sys.l2Off
        l2 := u.sys.l2, msc := u.sys.msc } } := by
  obtain ⟨_, ⟨es, m, only, rfl⟩, flushed⟩ := flushL2Off_eq (s.lullTaken hot tj)
  obtain ⟨l, r, o, taken⟩ := lullTaken_eq s hot tj
  rw [decide_eq_false short] at taken ends
  rw [Bool.and_false] at ends
  rw [taken] at ends flushed
  rw [lullWorked_short (by rw [flushed]; exact substitute_none none), flushed] at ends
  subst ends
  exact ⟨⟨es, only, rfl⟩, fun k x held => Bool.eq_false_iff.mpr ((holds_cacheDrop ..).mp held).2, rfl⟩

/-- A long lull that finds nothing to mend trips where it is too hot. -/
theorem lullStart_long {s u : State} {hot qual : Bool} {tj : Nat} (fw : NMap.wf 0 s.fw = true) (long : s.sys.lull.start % 983040 = 0)
    (none : ∀ c p, c < 128 → p < 8 → bitOf (s.rd (rLgstat c p)) 9 = false) (synd : s.synd = []) (bound : s.boundTids = [])
    (stray : ∀ e ∈ s.clusters, e.2.stray = []) (quiet : ∀ c, c < 128 → bitOf (s.rd (rDinj c)) 63 = false)
    (ends : u = (s.lullTaken hot tj).lullWorked (decide (s.sys.lull.start % 983040 = 0)) qual
      (decide (115 ≤ tj) && decide (s.sys.lull.start % 983040 = 0))) :
    u.sys.retrain = [] ∧
      ∃ es, (∀ e ∈ es, ∃ p, e = .dramAccess p) ∧ u.agenda = s.agenda ++ es ++ if 115 ≤ tj then [.thermtrip] else [] := by
  obtain ⟨_, ⟨es, m, only, rfl⟩, flushed⟩ := flushL2Off_eq (s.lullTaken hot tj)
  obtain ⟨l, r, o, taken⟩ := lullTaken_eq s hot tj
  rw [decide_eq_true long] at taken ends
  rw [Bool.and_true] at ends
  rw [taken] at ends flushed
  obtain ⟨scrubbed, calm⟩ := clearCounts_clean (s := State.flushL2Off _) (by rw [flushed]; exact fw) (by rw [flushed]; exact none)
    (by rw [flushed]; exact synd) (by rw [flushed]; exact bound) (by rw [flushed]; exact stray) (by rw [flushed]; exact quiet)
  obtain ⟨regs, cleared⟩ := clearCounts_eq (State.flushL2Off _)
  rw [lullWorked_long scrubbed calm, cleared, flushed] at ends
  subst ends
  by_cases hot : 115 ≤ tj
  · rw [decide_eq_true hot]
    exact ⟨rfl, es, only, by rw [if_pos hot]; rfl⟩
  · rw [decide_eq_false hot]
    exact ⟨rfl, es, only, by rw [if_neg hot, List.append_nil]; rfl⟩

end Sys2Proof.Machine
end

section
/-! SUPPORT. The end of a lull and of its span. -/

namespace Sys2Proof.Machine

open Sys2Proof

/-! ### The end of a span (14 R421, R423) -/

/-- What may become of a context, other than the strand in focus where that one runs. -/
theorem State.beside_onWaiting {b₀ s : State} {m₀ : Option (Tid × Strand)} {t : Tid} {f : Strand → Strand} (h : Beside b₀ m₀ none s)
    (waits : (s.strand t).run ≠ .running) : Beside b₀ m₀ none (s.onStrand t f) := by
  obtain ⟨same, due, mine, -⟩ := id h
  by_cases here : t = s.tid
  · subst here
    cases m₀ with
    | none => exact State.beside_onOther h (fun _ named => nomatch named)
    | some p =>
      rw [State.strand, if_pos rfl] at waits
      exact absurd mine.2.1 waits
  · unfold State.onStrand State.setStrand
    rw [if_neg here]
    exact ⟨same, due, mine, trivial⟩

theorem State.onStrand_out {s : State} {t : Tid} {f : Strand → Strand} (out : t ≠ s.tid) :
    (s.onStrand t f).tid = s.tid ∧ (s.onStrand t f).me = s.me := by
  unfold State.onStrand State.setStrand
  rw [if_neg out]
  exact ⟨rfl, rfl⟩

theorem State.mem_boundTids {s : State} (bound : s.me.bound = true) : s.tid ∈ s.boundTids := by
  unfold State.boundTids
  dsimp only
  rw [if_pos bound]
  simp

/-- A strand in LULLW goes on past it, and no other strand changes. -/
def WakesLullw (u : State) (t : Tid) (v : State) : Prop :=
  (∃ k, (u.strand t).run = .parked (.lullw k)) ∧ v = u.onStrand t (fun x => x.wake none) ∨
    (∀ k, (u.strand t).run ≠ .parked (.lullw k)) ∧ v = u

section
variable {b₀ s : State} {m₀ : Option (Tid × Strand)} {f : State → Tid → State} (wakes : ∀ u t, WakesLullw u t (f u t))
include wakes

theorem beside_wakes (ts : List Tid) (h : Beside b₀ m₀ none s) : Beside b₀ m₀ none (ts.foldl f s) := by
  refine State.beside_foldl (fun u t hu => ?_) ts h
  obtain ⟨⟨k, parked⟩, e⟩ | ⟨-, e⟩ := wakes u t
  · rw [e]
    exact State.beside_onWaiting hu (by rw [parked]; nofun)
  · rw [e]
    exact hu

/-- The strand in focus runs on past its LULLW. -/
theorem beside_woken {ts : List Tid} {k : Nat} (h : Beside b₀ none none s) (bound : s.tid ∈ ts) (parked : s.me.run = .parked (.lullw k)) :
    Beside b₀ (some (s.tid, s.me.wake none)) none (ts.foldl f s) := by
  induction ts generalizing s with
  | nil => exact absurd bound List.not_mem_nil
  | cons t ts ih =>
    rw [List.foldl_cons]
    by_cases here : t = s.tid
    · subst here
      refine beside_wakes wakes ts ?_
      obtain ⟨-, e⟩ | ⟨no, -⟩ := wakes s s.tid
      · rw [e, State.onStrand_self]
        exact ⟨h.1, h.2.1, ⟨rfl, rfl, rfl, rfl, id⟩, trivial⟩
      · exact absurd parked (by have := no k; rwa [State.strand, if_pos rfl] at this)
    · have later : s.tid ∈ ts := (List.mem_cons.mp bound).resolve_left (Ne.symm here)
      obtain ⟨⟨j, waits⟩, e⟩ | ⟨-, e⟩ := wakes s t
      · obtain ⟨tid, me⟩ := State.onStrand_out (f := fun x => x.wake none) here
        have next : Beside b₀ none none (f s t) := by
          rw [e]
          exact State.beside_onOther h (fun _ named => nomatch named)
        have := ih next (by rwa [e, tid]) (by rwa [e, me])
        rwa [e, tid, me, ← e] at this
      · rw [e]
        exact ih h later parked
end

/-- What the sequencer is at the end of a span. -/
def Lull.over (l : Lull) (time : Nat) : Lull :=
  { l with
    phase := .clear, lastEnd := time, spans := l.spans + 1, stop := spanEnd l.start, spanLong := false
    work := Chores.none, joined := false, nextRelock := none }

/-- At the end of a span all that DRAM has held is due; the strands run on for which the waking of a LULLW says so. -/
theorem endOfSpan_keeps {s : State} {m₀ : Option (Tid × Strand)} (calm : s.eager = false ∨ ∀ p ∈ m₀, p.2.queue = [])
    (woken : ∀ (b₀ t : State) (f : State → Tid → State), (∀ u t, WakesLullw u t (f u t)) → t.tid = s.tid → t.me = s.me →
      t.boundTids = s.boundTids → Beside b₀ none none t → Beside b₀ m₀ none (t.boundTids.foldl f t)) :
    s.endOfSpan.sys.lull = s.sys.lull.over s.time ∧ s.endOfSpan.sys.dramHeld = [] ∧
      (∀ p ∈ s.sys.dramHeld, .dramAccess (word p) ∈ s.endOfSpan.agenda) ∧
      m₀.elim True fun p => p.2.RunsAs s.endOfSpan.me := by
  unfold State.endOfSpan
  extract_lets s1 s2 s3 away
  have h2 : Beside s1 m₀ none s2 := by
    refine woken s1 s1 _ (fun u t => ?_) rfl rfl rfl (State.beside_refl s1)
    split
    · next k parked => exact .inl ⟨⟨k, parked⟩, rfl⟩
    · next other => exact .inr ⟨other, rfl⟩
  have h3 : Beside s1 m₀ none s3 := State.beside_ite h2 (State.beside_mergeAll h2)
  generalize asked : s3.pushAll _ = t
  have ht : Beside { s1 with agenda := t.agenda } m₀ none t := by
    obtain ⟨same, -, rest⟩ := asked ▸ State.beside_pushAll h3
    exact ⟨same, fun _ => id, rest⟩
  obtain ⟨⟨lull, held, -⟩, due, runs, -⟩ := State.beside_releaseKept ht calm
  refine ⟨lull, held, fun p hp => due _ ?_, State.elim_imp runs fun _ _ k => k.2⟩
  subst asked
  exact List.mem_append_right _ (List.mem_append_left _ (List.mem_append_left _ (List.mem_map_of_mem hp)))

/-- A strand in focus that waits in LULLW, and has no issued work that would go on, goes on past it. -/
theorem endOfSpan_wakes {s : State} {k : Nat} (calm : s.eager = false ∨ s.me.queue = []) (parked : s.me.run = .parked (.lullw k)) :
    s.endOfSpan.me.run = .running ∧ s.endOfSpan.me.pc = s.me.pc + 4 ∧ s.endOfSpan.me.regs = s.me.regs := by
  obtain ⟨-, -, -, runs, pc, regs, -⟩ := endOfSpan_keeps (m₀ := some (s.tid, s.me.wake none))
    (calm.imp_right fun empty p named => by cases named; exact empty) fun b₀ t f wakes tid me bound h => by
      have waits : t.me.run = .parked (.lullw k) := me ▸ parked
      have woken := beside_woken wakes h (State.mem_boundTids (by rw [Strand.bound, waits]; rfl)) waits
      rwa [tid, me] at woken
  exact ⟨runs, pc, regs⟩

/-! ### The end of a lull (05 R182, 12 R361, 14 R402, 15 R437, R438) -/

/-- No lane group is to be mended and no link is out of service, in a package with well-formed registers. -/
def State.AtRest (s : State) : Prop :=
  NMap.wf 0 s.fw = true ∧
    (∀ c p, c < 128 → p < 8 → bitOf (s.rd (rLgstat c p)) 9 = false ∧ bitOf (s.rd (rLgstat c p)) 10 = false ∧ (s.cluster c).fenceNext = 0) ∧
    s.sys.linksDown = []

/-- `t` is at rest, and is `s` but for registers and for when the calendar becomes hot. -/
def Housekept (s t : State) : Prop :=
  t.AtRest ∧ ∃ r x, t = { s with fw := r, sys := { s.sys with lull := { s.sys.lull with hotFrom := x } } }

theorem Housekept.refl {s : State} (rest : s.AtRest) : Housekept s s := ⟨rest, s.fw, s.sys.lull.hotFrom, rfl⟩

theorem Housekept.trans {s t u : State} (h : Housekept s t) (k : Housekept t u) : Housekept s u := by
  obtain ⟨-, r, x, rfl⟩ := h
  obtain ⟨rest, q, y, rfl⟩ := k
  exact ⟨rest, q, y, rfl⟩

theorem Housekept.keeps {s t : State} (h : Housekept s t) :
    t.sys.lull = { s.sys.lull with hotFrom := t.sys.lull.hotFrom } ∧ t.sys.dramHeld = s.sys.dramHeld ∧ t.me = s.me ∧
      t.eager = s.eager ∧ t.time = s.time := by
  obtain ⟨-, r, x, rfl⟩ := h
  exact ⟨rfl, rfl, rfl, rfl, rfl⟩

theorem Housekept.wr {s t : State} (h : Housekept s t) {a : Nat} (v : Word)
    (other : ∀ c p, c < 128 → p < 8 → rLgstat c p / 8 ≠ a / 8) : Housekept s (t.wr a v) := by
  obtain ⟨⟨fw, groups, links⟩, r, x, same⟩ := h
  refine ⟨⟨NMap.wf_set _ _ fw, fun c p hc hp => ?_, links⟩, _, x, by rw [same]; rfl⟩
  rw [State.rd_wr_other fw v (other c p hc hp)]
  exact groups c p hc hp

theorem Housekept.upd {s t : State} (h : Housekept s t) {a : Nat} (f : Word → Word)
    (other : ∀ c p, c < 128 → p < 8 → rLgstat c p / 8 ≠ a / 8) : Housekept s (t.upd a f) := h.wr _ other

theorem Housekept.applySweep {s t : State} (h : Housekept s t) (sweep : Option Nat) : Housekept s (t.applySweep sweep) := by
  cases sweep with
  | none => exact h
  | some tj => exact h.wr _ fun c p hc hp => by unfold rLgstat rClkstep allocBlock sysBlock; omega

theorem fenceGroups_rest {s : State} (rest : s.AtRest) : s.fenceGroups = s := by
  refine foldl_calm fun g noted => ?_
  obtain ⟨-, groups, -⟩ := rest
  obtain ⟨hc, hp⟩ := mem_noted noted
  obtain ⟨fails, worn, asked⟩ := groups g.1 g.2 hc hp
  have sound : s.toFence g.1 g.2 = false := by simp [State.toFence, fails, worn, asked]
  rw [if_neg (by rw [sound]; nofun)]

theorem Housekept.fenceCores {s t : State} (h : Housekept s t) : Housekept s t.fenceCores := by
  unfold State.fenceCores
  refine List.foldlRecOn (motive := Housekept s) _ _ h fun u hu c _ => hu.upd _ fun d p hd hp => ?_
  unfold rLgstat rCfence allocBlock
  omega

theorem failLinks_rest {s : State} (links : s.sys.linksDown = []) : s.failLinks [] = s := by
  have joined : (List.range 4).find? (fun d => s.isolated d) = none := by
    have up : ∀ d e, s.linkUp d e = true := fun d e => by rw [State.linkUp, links]; rfl
    simp only [State.isolated, up]
    decide
  unfold State.failLinks
  rw [List.foldl_nil]
  dsimp only
  rw [joined]

/-- The end of a lull that leaves the high-temperature calendar in force, in a package with nothing to mend and with no failed link or port. -/
theorem housekept_endOfLull {s t : State} (h : Housekept s t) {c : Chores} (cool : c.cool = false) : Housekept s (t.endOfLull [] [] c) := by
  unfold State.endOfLull
  extract_lets s1 s2 s3 s4
  have h1 : Housekept s s1 := h.applySweep c.sweep
  have h2 : Housekept s s2 := by
    unfold s2
    split
    · rw [fenceGroups_rest h1.1]
      exact h1
    · exact h1
  have h3 : Housekept s s3 := h2.fenceCores
  have h4 : Housekept s s4 := by
    unfold s4
    split
    · rw [State.failPorts, List.foldl_nil, failLinks_rest h3.1.2.2]
      exact h3
    · exact h3
  clear_value s4
  obtain ⟨rest, r, x, rfl⟩ := h4
  refine ⟨rest, r, if c.hotSeen && x.isNone then some (calendarFrom t.time) else x, ?_⟩
  simp only [State.onSys, cool, Bool.not_false, Bool.and_true, Bool.and_false, Bool.false_eq_true, if_false]

theorem housekept_endOfLulls {s : State} (rest : s.AtRest) {cs : List Chores} (cool : ∀ c ∈ cs, c.cool = false) :
    Housekept s (cs.foldl (fun s c => s.endOfLull [] [] c) s) :=
  List.foldlRecOn (motive := Housekept s) _ _ (Housekept.refl rest) fun _ h c ended => housekept_endOfLull h (cool c ended)

/-- An overrun that ends is counted. -/
def State.overrunEnded (s : State) : State :=
  if 0 < s.sys.lull.late then
    (s.onSys fun y =>
      { y with lull := { y.lull with overruns := y.lull.overruns + 1, lastEnd := s.time, late := 0, lateWork := [] } }).post 0x03 0
      (word s.time)
  else s

/-- What the end of an overrun leaves. -/
theorem overrunEnded_keeps (s : State) :
    let t := s.overrunEnded
    t.sys.lull.spans = s.sys.lull.spans ∧ t.sys.lull.start = s.sys.lull.start ∧
      t.sys.lull.overruns = s.sys.lull.overruns + (if s.sys.lull.late = 0 then 0 else 1) ∧ t.sys.dramHeld = s.sys.dramHeld ∧
      t.me = s.me ∧ t.eager = s.eager ∧ t.time = s.time ∧ (s.AtRest → t.AtRest) := by
  unfold State.overrunEnded
  split
  · exact ⟨rfl, rfl, by rw [if_neg (by omega)]; rfl, rfl, rfl, rfl, rfl, id⟩
  · exact ⟨rfl, rfl, by rw [if_pos (by omega)]; rfl, rfl, rfl, rfl, rfl, id⟩

/-- The end of a lull, or of its overrun, well before the next drain is the end of its span. -/
theorem execLullEnd_ends {s : State} (lull : s.sys.lull.phase = .lull) (steady : s.sys.lull.relocks s.time = false)
    (ends : s.sys.lull.ends ≤ s.time) (early : s.time + 256 < s.sys.lull.start) (late : s.sys.lull.late = 0 ∨ s.sys.lull.late ≤ s.time)
    (cool : ∀ c ∈ s.sys.lull.ended s.time, c.cool = false) (rest : s.AtRest) :
    ∃ t, Housekept s.overrunEnded t ∧ exec (.lullEnd [] []) s = .next t.endOfSpan := by
  obtain ⟨-, start, -, -, -, -, -, keeps⟩ := overrunEnded_keeps s
  have kept := housekept_endOfLulls (keeps rest) cool
  have due : s.sys.lull.ended s.time ≠ [] := by
    by_cases none : s.sys.lull.late = 0
    · simp [Lull.ended, none, ends]
    · simp [Lull.ended, none, late.resolve_left none, ends]
  have clear : ¬ ((s.sys.lull.ended s.time).foldl (fun s c => s.endOfLull [] [] c) s.overrunEnded).sys.lull.start ≤ s.time + 256 := by
    rw [kept.keeps.1]
    show ¬ s.overrunEnded.sys.lull.start ≤ _
    omega
  refine ⟨_, kept, ?_⟩
  show execLullEnd [] [] s = _
  unfold execLullEnd
  dsimp only
  rw [if_pos ⟨lull, due, steady, .inr (by omega)⟩, if_neg (by omega)]
  exact if_neg clear

end Sys2Proof.Machine
end

section
/-! SUPPORT. Drains, overruns, clock steps, BAR4 and firmware loading, event by event. -/

namespace Sys2Proof.Machine

open Sys2Proof

/-! ### Drains and overruns (14 R421, R424) -/

theorem relockReq_calm {s : State} (here : s.sys.lull.work.relock = none) (late : s.sys.lull.lateWork = []) :
    s.relockReq = if max s.clkReq s.clkLimit = s.clkCur then none else some (BitVec.ofNat 2 s.clkReq) := by
  have steady : s.stepAfter = s.clkCur := by simp [State.stepAfter, here, late]
  rw [State.relockReq, steady]

theorem execLullDrainStart_idle {s : State}
    (idle : s.time + 256 < s.sys.lull.start ∨ s.sys.lull.phase = .drain ∨ s.sys.lull.phase = .lull ∧ s.sys.lull.joined = true) :
    execLullDrainStart s = .next s := by
  rcases idle with early | drain | ⟨lull, joined⟩
  · exact if_pos early
  · simp [execLullDrainStart, drain]
  · simp [execLullDrainStart, lull, joined]

theorem execLullOverrun_idle {s : State} {n : Nat}
    (idle : s.sys.lull.phase ≠ .lull ∨ 0 < s.sys.lull.late ∨ s.time < s.sys.lull.ends ∨ s.sys.lull.overrun = true ∨ n = 0) :
    execLullOverrun n s = .next s := by
  refine if_neg ?_
  rintro ⟨lull, late, ends, once, more⟩
  rcases idle with other | running | early | overran | none
  · exact other lull
  · omega
  · omega
  · rw [once] at overran; cases overran
  · omega

/-! ### Clock steps (15 R437) -/

theorem execRelockDone_idle {s : State} (steady : s.sys.lull.relocks s.time = false) : execRelockDone s = .next s := by
  unfold execRelockDone
  dsimp only
  split
  · exact if_neg (by rw [steady]; nofun)
  · rfl

theorem execLullEnd_idle {s : State} {a b : List Nat}
    (idle : s.sys.lull.phase ≠ .lull ∨ s.sys.lull.ended s.time = [] ∨ s.sys.lull.relocks s.time = true ∨
      s.sys.lull.late = 0 ∧ s.sys.lull.start ≤ s.time) : execLullEnd a b s = .next s := by
  refine if_neg ?_
  rintro ⟨lull, due, steady, room⟩
  rcases idle with other | none | relocks | ⟨late, begun⟩
  · exact other lull
  · exact due none
  · rw [steady] at relocks; cases relocks
  · omega

/-! ### BAR4 (15 R430) -/

section
variable {s : State} {f : BitVec 5} {off : Word} {n : Nat} {data : List Byte}

theorem State.fnServes_false {k : Nat} (no : bitOf (s.rd (rFnten k)) 7 = false ∨ s.sys.fatal = true) : s.fnServes k = false := by
  rcases no with off | fatal
  · rw [State.fnServes, off]; rfl
  · rw [State.fnServes, fatal, Bool.not_true, Bool.and_false]

theorem State.fnServes_true {k : Nat} (on : bitOf (s.rd (rFnten k)) 7 = true) (well : s.sys.fatal = false) : s.fnServes k = true := by
  rw [State.fnServes, on, well]; rfl

/-- The doublewords that a read has asked for. -/
def State.askedFor (s : State) (e : Event) : List FarWord := s.sys.far.filter fun (x : FarWord) => decide (x.owner = .step e)

/-- A read waits: behind an earlier request of its function, or for a doubleword that it has asked for. -/
def State.bar4Waits (s : State) (e : Event) (k : Nat) : Bool :=
  (s.askedFor e).isEmpty && s.hostBehind k || (s.askedFor e).any fun w => w.answer.isNone

theorem State.bar4Waits_iff {e : Event} {k : Nat} :
    s.bar4Waits e k = true ↔ s.askedFor e = [] ∧ s.hostBehind k = true ∨ ∃ x ∈ s.askedFor e, x.answer = none := by
  simp [State.bar4Waits, List.isEmpty_iff]

/-- The pieces of a read, or what keeps it from them. -/
def State.bar4Pieces (s : State) (f : BitVec 5) (off : Word) (n : Nat) : Except (Option State) (List (Nat × Place × Nat)) :=
  s.hostPlaces (s.hostAgent f.toNat) (hostChunks (off.toNat % 2 ^ 48) (min n 4096) 4096) none

/-- A piece that the package itself holds is not free. -/
def State.bar4Held (s : State) (f : BitVec 5) (ps : List (Nat × Place × Nat)) : Bool :=
  s.partsHeld (s.hostAgent f.toNat) ((ps.filter fun p => !p.2.1.far).map Prod.snd)

theorem execHostBar4Read_refused (no : s.fnServes f.toNat = false) :
    execHostBar4Read f off n s = .next ((s.clearFar (.step (.hostBar4Read f off n))).hostAnswer [] 2) :=
  if_pos (by rw [no]; rfl)

theorem execHostBar4Write_refused (no : s.fnServes f.toNat = false) : execHostBar4Write f off data s = .next (s.hostAnswer [] 2) :=
  if_pos (by rw [no]; rfl)

section
variable (serves : s.fnServes f.toNat = true)
include serves

theorem execHostBar4Read_waits (waits : s.bar4Waits (.hostBar4Read f off n) f.toNat = true) :
    execHostBar4Read f off n s = .next (s.keep (.hostBar4Read f off n)) :=
  (if_neg (by rw [serves]; nofun)).trans (if_pos waits)

section
variable (free : s.bar4Waits (.hostBar4Read f off n) f.toNat = false)
include free

theorem execHostBar4Read_blocked (pieces : s.bar4Pieces f off n = .error none) :
    execHostBar4Read f off n s = .next (s.keep (.hostBar4Read f off n)) := by
  unfold State.bar4Pieces at pieces
  unfold State.bar4Waits State.askedFor at free
  simp only [execHostBar4Read, serves, free, pieces]
  rfl

theorem execHostBar4Read_faults {u : State} (pieces : s.bar4Pieces f off n = .error (some u)) :
    execHostBar4Read f off n s = .next ((u.clearFar (.step (.hostBar4Read f off n))).hostAnswer [] 1) := by
  unfold State.bar4Pieces at pieces
  unfold State.bar4Waits State.askedFor at free
  simp only [execHostBar4Read, serves, free, pieces]
  rfl

section
variable {ps : List (Nat × Place × Nat)} (pieces : s.bar4Pieces f off n = .ok ps)
include pieces

theorem execHostBar4Read_held (held : s.bar4Held f ps = true) :
    execHostBar4Read f off n s = .next (s.keep (.hostBar4Read f off n)) := by
  unfold State.bar4Pieces at pieces
  unfold State.bar4Waits State.askedFor at free
  unfold State.bar4Held at held
  simp only [execHostBar4Read, serves, free, pieces, held]
  rfl

/-- What lies in the host's memory and on other nodes is asked for first. -/
theorem execHostBar4Read_asks (held : s.bar4Held f ps = false) (first : s.askedFor (.hostBar4Read f off n) = [])
    (some : ps.filter (fun p => p.2.1.far) ≠ []) : execHostBar4Read f off n s =
      .next ((ps.filter fun p => p.2.1.far).foldl
        (fun u p => u.askWord (s.hostAgent f.toNat) (.step (.hostBar4Read f off n)) p.2.1 (word p.1) p.2.2 none) s) := by
  unfold State.bar4Pieces at pieces
  unfold State.bar4Waits at free
  unfold State.askedFor at free first
  unfold State.bar4Held at held
  have far : (!(ps.filter fun p => p.2.1.far).isEmpty) = true := by simp [List.isEmpty_eq_false_iff, some]
  rw [first] at free
  simp only [execHostBar4Read, serves, first, free, pieces, held, far]
  rfl

theorem execHostBar4Read_answers (held : s.bar4Held f ps = false)
    (come : s.askedFor (.hostBar4Read f off n) ≠ [] ∨ ps.filter (fun p => p.2.1.far) = []) {u : State} {r : Option (List Byte)}
    (reads : s.hostReads (s.hostAgent f.toNat) (.hostBar4Read f off n) ps = (u, r)) : execHostBar4Read f off n s =
      .next (((u.clearFar (.step (.hostBar4Read f off n))).hostAnswer (r.getD []) (if r.isSome then 0 else 1)).unkeep) := by
  unfold State.bar4Pieces at pieces
  unfold State.bar4Waits at free
  unfold State.askedFor at free come
  unfold State.bar4Held at held
  have asks : ((s.sys.far.filter fun (x : FarWord) => decide (x.owner = .step (.hostBar4Read f off n))).isEmpty &&
      !(ps.filter fun p => p.2.1.far).isEmpty) = false := by
    rcases come with some | none
    · rw [List.isEmpty_eq_false_iff.mpr some]; rfl
    · rw [none, List.isEmpty_nil, Bool.not_true, Bool.and_false]
  simp only [execHostBar4Read, serves, free, pieces, held, asks, reads]
  cases r <;> rfl
end
end

theorem execHostBar4Write_waits (behind : s.hostBehind f.toNat = true) :
    execHostBar4Write f off data s = .next (s.keep (.hostBar4Write f off data)) :=
  (if_neg (by rw [serves]; nofun)).trans (if_pos behind)

/-- What a write comes to is settled by its pieces, if none has to wait for those of an earlier request. -/
def State.bar4WritePieces (s : State) (f : BitVec 5) (off : Word) (data : List Byte) :
    Except (Option State) (List (Nat × Place × Nat)) :=
  s.hostPlaces (s.hostAgent f.toNat) (hostChunks (off.toNat % 2 ^ 48) data.length data.length) (some data)

section
variable (free : s.hostBehind f.toNat = false)
include free

theorem execHostBar4Write_blocked (pieces : s.bar4WritePieces f off data = .error none) :
    execHostBar4Write f off data s = .next (s.keep (.hostBar4Write f off data)) := by
  unfold State.bar4WritePieces at pieces
  simp only [execHostBar4Write, serves, free, pieces]
  rfl

theorem execHostBar4Write_faults {u : State} (pieces : s.bar4WritePieces f off data = .error (some u)) :
    execHostBar4Write f off data s = .next u := by
  unfold State.bar4WritePieces at pieces
  simp only [execHostBar4Write, serves, free, pieces]
  rfl

theorem execHostBar4Write_done {ps : List (Nat × Place × Nat)} (pieces : s.bar4WritePieces f off data = .ok ps) :
    execHostBar4Write f off data s = .next (if ps.any fun p => s.linkHeld (s.hostAgent f.toNat) p.2.1 then
      s.keep (.hostBar4Write f off data) else s.hostWrites f.toNat (s.hostAgent f.toNat) ps data) := by
  unfold State.bar4WritePieces at pieces
  simp only [execHostBar4Write, serves, free, pieces]
  exact (apply_ite Host.Outcome.next _ _ _).symm
end
end
end

/-! ### Firmware (15 R435) -/

theorem execFwcmdGo_ignored {s : State} {v : Word}
    (no : bitOf v 63 = false ∨ fld (s.rd rFwcmd) 0 3 = 1 ∨ fld (s.rd rFwcmd) 0 3 = 2 ∨ s.sys.fatal = true) :
    execFwcmdGo v s = .next s := by
  refine if_pos ?_
  rcases no with off | busy | loaded | fatal
  · simp [off]
  · simp [State.fwStatus, busy]
  · simp [State.fwStatus, loaded]
  · simp [fatal]

/-- A GO sends the reads of `k` pieces of an image of good length, and none of any other. -/
theorem execFwcmdGo_goes {s : State} {v : Word} {k : Nat} (go : bitOf v 63 = true) (idle : fld (s.rd rFwcmd) 0 3 ≠ 1)
    (unloaded : fld (s.rd rFwcmd) 0 3 ≠ 2) (well : s.sys.fatal = false)
    (pieces : (if fwLenOk (s.rd rFwlen).toNat then (s.rd rFwlen).toNat / 4096 else 0) = k) :
    execFwcmdGo v s = .next (State.wr { s with fresh := s.fresh + k, sys := { s.sys with
      hostOut := s.sys.hostOut ++ (List.range k).map fun i =>
        .read 0 (s.fresh + i) ((s.rd rFwaddr).toNat + 4096 * i) 4096 } } rFwcmd 1) := by
  subst pieces
  exact if_neg (by simp [State.fwStatus, go, idle, unloaded, well])

theorem fwImageCheck_idle {s : State} {img : Option (List Byte)} (idle : fld (s.rd rFwcmd) 0 3 ≠ 1) :
    exec (.fwImageCheck img) s = .next s := if_pos (by simp [State.fwStatus, idle])

section
variable {s : State} (loads : fld (s.rd rFwcmd) 0 3 = 1)
include loads

theorem fwImageCheck_length {img : Option (List Byte)} (bad : fwLenOk (s.rd rFwlen).toNat = false) :
    exec (.fwImageCheck img) s = .next (s.wr rFwcmd (word 5)) :=
  (if_neg (by simp [State.fwStatus, loads])).trans (if_pos (by simp [bad]))

section
variable (ok : fwLenOk (s.rd rFwlen).toNat = true)
include ok

theorem fwImageCheck_failed : exec (.fwImageCheck none) s = .next (s.wr rFwcmd (word 6)) := by
  simp [exec, execFwImageCheck, State.setFwStatus, State.fwStatus, loads, ok]

theorem fwImageCheck_short {bs : List Byte} (short : bs.length < (s.rd rFwlen).toNat) :
    exec (.fwImageCheck (some bs)) s = .next (s.wr rFwcmd (word 6)) := by
  simp [exec, execFwImageCheck, State.setFwStatus, State.fwStatus, loads, ok, short]

theorem fwImageCheck_bad {bs : List Byte} (whole : (s.rd rFwlen).toNat ≤ bs.length) {e : Nat}
    (fault : s.imageFault (bs.take (s.rd rFwlen).toNat) = some e) : exec (.fwImageCheck (some bs)) s = .next (s.wr rFwcmd (word e)) := by
  simp [exec, execFwImageCheck, State.setFwStatus, State.fwStatus, loads, ok, whole, fault]

theorem fwImageCheck_good {bs : List Byte} (whole : (s.rd rFwlen).toNat ≤ bs.length)
    (good : s.imageFault (bs.take (s.rd rFwlen).toNat) = none) :
    exec (.fwImageCheck (some bs)) s = .next (s.loadImage (bs.take (s.rd rFwlen).toNat)) := by
  simp [exec, execFwImageCheck, State.fwStatus, loads, ok, whole, good]
end
end

end Sys2Proof.Machine
end

section
/-! The statement about lulls, the host and management. -/

namespace Sys2Proof.Machine

open Sys2Proof

/-! ### The management path (15 R440) -/

/-- A reading is one of the registers that the package tells about, or the power cap. -/
theorem pldmReading_some {s : State} {n : Nat} {v : Word} (tells : s.pldmReading n = some v) :
    v = s.rd rClkstep ∨ (∃ c, c < 128 ∧ v = s.rd (rEloghead c)) ∨ (∃ d, d < 4 ∧ v = s.rd (rDloghead d)) ∨ v = word s.sys.cap := by
  unfold State.pldmReading at tells
  extract_lets k at tells
  by_cases clock : k = 0
  · rw [if_pos clock] at tells
    exact .inl (Option.some.inj tells).symm
  rw [if_neg clock] at tells
  by_cases cluster : k ≤ 128
  · rw [if_pos cluster] at tells
    exact .inr (.inl ⟨k - 1, by omega, (Option.some.inj tells).symm⟩)
  rw [if_neg cluster] at tells
  by_cases die : k ≤ 132
  · rw [if_pos die] at tells
    exact .inr (.inr (.inl ⟨k - 129, by omega, (Option.some.inj tells).symm⟩))
  rw [if_neg die] at tells
  by_cases cap : k = 133
  · rw [if_pos cap] at tells
    exact .inr (.inr (.inr (Option.some.inj tells).symm))
  · rw [if_neg cap] at tells
    cases tells

theorem execPldmPlatform_down {s : State} {n : Nat} {cap : Option Nat} (down : s.managed = false) : execPldmPlatform n cap s = .next s :=
  if_pos (by rw [down]; rfl)

theorem execPldmFirmwareUpdate_down {s : State} {img : List Byte} (down : s.managed = false) :
    execPldmFirmwareUpdate img s = .next s := if_pos (by rw [down]; rfl)

section
variable {s : State} (up : s.managed = true)
include up

theorem execPldmPlatform_caps {n w : Nat} : execPldmPlatform n (some w) s =
    .next (if 600 ≤ w ∧ w ≤ 1800 then s.onSys fun y => { y with cap := w } else s).pldm := by
  simp only [execPldmPlatform, up]
  rfl

theorem execPldmPlatform_tells {n : Nat} {v : Word} (tells : s.pldmReading n = some v) :
    execPldmPlatform n none s = .next { s with sys := { s.sys with hostOut := s.sys.hostOut ++ [.pldm v] } } := by
  simp only [execPldmPlatform, up, tells]
  rfl

theorem execPldmPlatform_other {n : Nat} (none : s.pldmReading n = none) : execPldmPlatform n .none s = .next s.pldm := by
  simp only [execPldmPlatform, up, none]
  rfl

theorem execPldmFirmwareUpdate_bad {img : List Byte} (bad : s.imageFault img ≠ none) : execPldmFirmwareUpdate img s = .next s.pldm := by
  obtain ⟨e, fault⟩ := Option.ne_none_iff_exists'.mp bad
  simp only [execPldmFirmwareUpdate, up, fault]
  rfl

theorem execPldmFirmwareUpdate_good {img : List Byte} (good : s.imageFault img = none) : execPldmFirmwareUpdate img s =
    .next (s.onSys fun y =>
      { y with
        staged := img
        raised := if Config.raiseAsked img then max y.raised (imgNum img 0x0C 4) else y.raised }).pldm := by
  simp only [execPldmFirmwareUpdate, up, good]
  rfl
end

/-! ### The statement -/

/-- Settles O57: each clause by the lemma about its event. The starts of lulls and the ends of spans rest on `Beside`: what the work of a
lull and the strands that go on after it do leaves the sequencer as it is. -/
theorem lullHostAndManagementEventsTakeEffect : Obligations.LullHostAndManagementEventsTakeEffect := by
  intro s f off v n data canon
  have fw := State.canonical_fw canon
  refine ⟨?_, ?_, ?_, ?_, ?_, ?_, ?_, ?_, ?_, ?_⟩
  · intro l put long w
    refine ⟨execLullDrainStart_idle, fun due clear => ?_, fun due lull joined => ?_, relockReq_calm,
      fun lull late ends once more => if_pos ⟨lull, late, ends, once, more⟩, execLullOverrun_idle⟩
    · exact (if_neg (Nat.not_lt.mpr due)).trans (if_pos clear)
    · have stop : spanEnd l.start = if long then l.start + 8640 else l.start + 960 := by simp only [spanEnd, long, decide_eq_true_eq]
      rw [← stop]
      exact (if_neg (Nat.not_lt.mpr due)).trans ((if_neg (by rw [lull]; nofun)).trans (if_pos ⟨lull, joined⟩))
  · intro hot l drain due cold late none
    obtain ⟨u, qual, starts, ended⟩ := execLullStart_begins (hot := hot) (tj := n) due (.inl drain)
    obtain ⟨begun, rows, replays⟩ := lullStart_keeps ended
    obtain ⟨phase, overrun, relock, hotSeen⟩ := lullBegun_drain begun drain cold late
    refine ⟨u, starts, phase, overrun, rows, replays, relock, hotSeen, fun short => ?_, fun long synd bound stray quiet => ?_⟩
    · obtain ⟨stop, ends, start, sweep, cool⟩ := lullBegun_short begun cold short
      exact ⟨stop, ends, start, sweep, cool, lullStart_short short none ended⟩
    · obtain ⟨stop, ends, start, sweep, cool⟩ := lullBegun_long begun long
      exact ⟨stop, ends, start, sweep, cool, lullStart_long fw long none synd bound stray quiet ended⟩
  · intro hot l lull joined late due
    obtain ⟨u, qual, starts, ended⟩ := execLullStart_begins (hot := hot) (tj := n) due (.inr ⟨lull, joined, late⟩)
    obtain ⟨begun, -, -⟩ := lullStart_keeps ended
    exact ⟨u, starts, lullBegun_overrun begun lull (Nat.zero_lt_of_lt late)⟩
  · intro l
    refine ⟨fun a b => execLullEnd_idle, fun lull steady ends early late cool rest links => ?_⟩
    obtain ⟨t, kept, next⟩ := execLullEnd_ends lull steady ends early late cool ⟨fw, rest, links⟩
    obtain ⟨spans, -, overruns, held, me, eager, time, -⟩ := overrunEnded_keeps s
    obtain ⟨sequencer, held', me', eager', time'⟩ := kept.keeps
    obtain ⟨cleared, none, due, -⟩ := endOfSpan_keeps (s := t) (m₀ := .none) (.inr fun _ named => nomatch named)
      fun _ _ _ wakes _ _ _ h => beside_wakes wakes _ h
    rw [sequencer, time', time] at cleared
    rw [held', held] at due
    refine ⟨_, next, ?_, ?_, ?_, ?_, none, due, fun k calm parked => ?_⟩
    · rw [cleared]; rfl
    · rw [cleared]; rfl
    · rw [cleared]; exact congrArg (· + 1) spans
    · rw [cleared]; exact overruns
    · rw [← me, ← me', ← eager, ← eager'] at *
      exact endOfSpan_wakes calm parked
  · intro l w
    refine ⟨fun r now change => setsReg_wr ?_ ?_ rfl, execRelockDone_idle⟩
    · exact fw
    show execRelockDone s = _
    unfold execRelockDone
    dsimp only
    rw [change]
    exact if_pos now
  · intro kept img
    refine ⟨rfl, fun e fault => ?_, fun good => setsReg_wr ?_ ?_ rfl, rfl⟩
    · show Host.Outcome.next s.packageReset = _
      rw [State.packageReset, fault]
      rfl
    · rfl
    · show Host.Outcome.next s.packageReset = _
      rw [State.packageReset, good]
      rfl
  · intro w ans a e asked rd wr waits
    have later : waits ↔ s.bar4Waits e f.toNat = true := State.bar4Waits_iff.symm
    refine ⟨rfl, fun no => ⟨execHostBar4Read_refused (State.fnServes_false no), execHostBar4Write_refused (State.fnServes_false no)⟩,
      fun on well => ?_⟩
    have serves := State.fnServes_true on well
    refine ⟨fun waits => execHostBar4Read_waits serves (later.mp waits), fun go => ?_, execHostBar4Write_waits serves, fun free =>
      ⟨fun u => execHostBar4Write_faults serves free, execHostBar4Write_blocked serves free, fun ps => execHostBar4Write_done serves free⟩⟩
    have free := Bool.eq_false_iff.mpr (mt later.mpr go)
    refine ⟨execHostBar4Read_blocked serves free, fun u => execHostBar4Read_faults serves free, fun ps pieces =>
      ⟨execHostBar4Read_held serves free pieces, execHostBar4Read_asks serves free pieces, fun held come u r reads => ?_⟩⟩
    have answers := execHostBar4Read_answers serves free pieces held come reads
    cases r with
    | none => exact answers
    | some bs => exact answers
  · intro st len
    refine ⟨execFwcmdGo_ignored, fun go idle unloaded well => ⟨fun ok => setsReg_wr ?_ ?_ rfl, fun bad => setsReg_wr fw ?_ rfl⟩⟩
    · exact fw
    · exact execFwcmdGo_goes go idle unloaded well (if_pos ok)
    · refine (execFwcmdGo_goes go idle unloaded well (if_neg (by rw [bad]; nofun))).trans ?_
      rw [List.range_zero, List.map_nil, List.append_nil]
      rfl
  · intro len sets
    refine ⟨fun idle => ⟨fwImageCheck_idle idle, fwImageCheck_idle idle⟩, fun loads => ⟨fun bad =>
      ⟨setsReg_wr fw (fwImageCheck_length loads bad) rfl, setsReg_wr fw (fwImageCheck_length loads bad) rfl⟩, fun ok =>
      ⟨setsReg_wr fw (fwImageCheck_failed loads ok) rfl, fun short => setsReg_wr fw (fwImageCheck_short loads ok short) rfl,
        fun whole => ⟨fun e fault => setsReg_wr fw (fwImageCheck_bad loads ok whole fault) rfl,
          fun good => setsReg_wr ?_ (fwImageCheck_good loads ok whole good) rfl⟩⟩⟩⟩
    exact fw
  · intro eid up tell
    refine ⟨fun fatal => ⟨congrArg Host.Outcome.next (if_pos fatal), congrArg Host.Outcome.next (if_pos fatal)⟩, fun well => ⟨?_, ?_⟩,
      fun down => ⟨execPldmFirmwareUpdate_down down, fun cap => execPldmPlatform_down down⟩,
      fun up => ⟨execPldmPlatform_other up, fun v tells => ⟨execPldmPlatform_tells up tells, pldmReading_some tells⟩, fun w => ?_,
        execPldmFirmwareUpdate_bad up, execPldmFirmwareUpdate_good up⟩⟩
    · exact congrArg Host.Outcome.next (if_neg (by rw [well]; nofun))
    · exact congrArg Host.Outcome.next (if_neg (by rw [well]; nofun))
    · refine (execPldmPlatform_caps (n := n) up).trans ?_
      split <;> rfl

end Sys2Proof.Machine
end

section
/-! SUPPORT. Which event a step takes: the agenda's first, the lowest queue that the command processor has to serve, one that is due, or none
(14 R409, R421, 15 R437, R439). -/

namespace Sys2Proof.Machine

open Sys2Proof

/-! ### The queue that the command processor serves (14 R409) -/

/-- The lower of a queue and the one that an event has the command processor serve. -/
def lowerQueue (m : BitVec 8) (e : Event) : BitVec 8 :=
  match e with | .cpServePacket k => if k.toNat < m.toNat then k else m | _ => m

theorem lowerQueue_serve (m k : BitVec 8) : lowerQueue m (.cpServePacket k) = if k.toNat < m.toNat then k else m := rfl

theorem lowerQueue_other {m : BitVec 8} {e : Event} (other : ∀ k, e ≠ .cpServePacket k) : lowerQueue m e = m := by
  unfold lowerQueue
  split
  · next k => exact absurd rfl (other k)
  · rfl

/-- The lowest queue of a list is the first or one that the list names. -/
theorem foldl_lowerQueue_mem (q : BitVec 8) (r : List Event) :
    Event.cpServePacket (r.foldl lowerQueue q) ∈ Event.cpServePacket q :: r := by
  induction r generalizing q with
  | nil => exact List.mem_singleton.mpr rfl
  | cons e r ih =>
    rw [List.foldl_cons]
    rcases List.mem_cons.mp (ih (lowerQueue q e)) with head | later
    · rw [head]
      by_cases serves : ∃ k, e = .cpServePacket k
      · obtain ⟨k, rfl⟩ := serves
        rw [lowerQueue_serve]
        split
        · exact List.mem_cons_of_mem _ List.mem_cons_self
        · exact List.mem_cons_self
      · rw [lowerQueue_other (not_exists.mp serves)]
        exact List.mem_cons_self
    · exact List.mem_cons_of_mem _ (List.mem_cons_of_mem _ later)

/-- The lowest queue of a list is no higher than the first. -/
theorem foldl_lowerQueue_le_first (q : BitVec 8) (r : List Event) : (r.foldl lowerQueue q).toNat ≤ q.toNat := by
  induction r generalizing q with
  | nil => exact Nat.le_refl _
  | cons e r ih =>
    refine (ih (lowerQueue q e)).trans ?_
    unfold lowerQueue
    split
    · split <;> omega
    · exact Nat.le_refl _

/-- The lowest queue of a list is no higher than any that the list names. -/
theorem foldl_lowerQueue_le {j : BitVec 8} {r : List Event} (q : BitVec 8) (named : Event.cpServePacket j ∈ r) :
    (r.foldl lowerQueue q).toNat ≤ j.toNat := by
  induction r generalizing q with
  | nil => nomatch named
  | cons e r ih =>
    rw [List.foldl_cons]
    rcases List.mem_cons.mp named with rfl | later
    · refine (foldl_lowerQueue_le_first _ r).trans ?_
      rw [lowerQueue_serve]
      split <;> omega
    · exact ih _ later

theorem nextEvent_serve (q : BitVec 8) (r : List Event) : nextEvent (.cpServePacket q :: r) =
    if r.foldl lowerQueue q = q then some (.cpServePacket q, r)
    else some (.cpServePacket (r.foldl lowerQueue q), .cpServePacket q :: r.erase (.cpServePacket (r.foldl lowerQueue q))) := rfl

/-- Where the command processor is called first, it serves the lowest of the queues that wait for it. -/
theorem nextEvent_lowest {q k : BitVec 8} {r : List Event} (waits : .cpServePacket k ∈ Event.cpServePacket q :: r)
    (lowest : ∀ j, .cpServePacket j ∈ Event.cpServePacket q :: r → k.toNat ≤ j.toNat) :
    nextEvent (.cpServePacket q :: r) = some (.cpServePacket k, (Event.cpServePacket q :: r).erase (.cpServePacket k)) := by
  have above : (r.foldl lowerQueue q).toNat ≤ k.toNat := by
    rcases List.mem_cons.mp waits with head | later
    · injection head with same
      exact same ▸ foldl_lowerQueue_le_first q r
    · exact foldl_lowerQueue_le q later
  have least : r.foldl lowerQueue q = k := BitVec.eq_of_toNat_eq (Nat.le_antisymm above (lowest _ (foldl_lowerQueue_mem q r)))
  rw [nextEvent_serve, least]
  split
  · next same => rw [same, List.erase_cons_head]
  · next other =>
    rw [List.erase_cons_tail]
    simpa using Ne.symm other

/-! ### The event that happens next -/

theorem nextEvent_other {e : Event} {r : List Event} (other : ∀ q, e ≠ .cpServePacket q) : nextEvent (e :: r) = some (e, r) := by
  unfold nextEvent
  split
  · next none => nomatch none
  · next q r' same => exact absurd (List.cons.inj same).1 (other q)
  · next same =>
    obtain ⟨rfl, rfl⟩ := List.cons.inj same
    rfl

/-- What comes next is a package reset only where the agenda begins with one. -/
theorem nextEvent_packageReset {l r : List Event} (next : nextEvent l = some (.packageReset, r)) : l.head? = some .packageReset := by
  unfold nextEvent at next
  split at next
  · nomatch next
  · extract_lets least at next
    split at next <;> nomatch next
  · injection next with same
    rw [List.head?_cons, (Prod.mk.inj same).1]

theorem clockless_eq : clockless = fun x => decide (x ∈ [Event.packageReset, .powerLoss, .thermtrip]) := by
  funext e
  simp [clockless, Bool.or_assoc]

section
variable {s : State}

theorem nextStep_running (runs : s.sys.lull.stopped s.time = false) : s.nextStep = nextEvent s.agenda :=
  if_neg (by rw [runs]; nofun)

theorem nextStep_stopped (stops : s.sys.lull.stopped s.time = true) : s.nextStep =
    (s.agenda.find? fun x => decide (x ∈ [Event.packageReset, .powerLoss, .thermtrip])).map fun e => (e, s.agenda.erase e) :=
  (if_pos stops).trans (by rw [clockless_eq])

theorem nextStep_idle (idle : s.agenda = []) : s.nextStep = none := by
  unfold State.nextStep
  rw [idle]
  split <;> rfl

theorem nextStep_calm (stops : s.sys.lull.stopped s.time = true)
    (calm : ∀ x ∈ s.agenda, x ∉ [Event.packageReset, .powerLoss, .thermtrip]) : s.nextStep = none := by
  rw [nextStep_stopped stops, List.find?_eq_none.mpr fun x hx => by simpa using calm x hx]
  rfl

/-! ### The step (15 R439) -/

theorem step_takes {e : Event} {r : List Event} (next : s.nextStep = some (e, r)) (power : s.sys.power = true ∨ e = .packageReset) :
    step s = exec (eventInstr e) { s with agenda := r, ir := .event } := by
  unfold step
  rw [next]
  refine if_pos ?_
  rcases power with on | rfl
  · rw [on, Bool.true_or]
  · simp

theorem step_due {e : Event} (none : s.nextStep = none) (power : s.sys.power = true) (due : s.dueNow = some e) :
    step s = exec (eventInstr e) { s with ir := .event } := by
  unfold step
  simp [none, power, due]

theorem step_noPower (off : s.sys.power = false) (calm : ∀ r, s.nextStep ≠ some (.packageReset, r)) : step s = .fault .noPower := by
  unfold step
  split
  · next e r next =>
    refine if_neg ?_
    have other : e ≠ .packageReset := fun reset => calm r (reset ▸ next)
    simp [off, other]
  · exact if_pos (by rw [off]; rfl)

/-! ### The stopped clock (14 R421, 15 R437) -/

theorem pick_stopped (stops : s.sys.lull.stopped s.time = true) : s.pick = none := if_pos (by rw [stops, Bool.or_true])

theorem step_stopped (stops : s.sys.lull.stopped s.time = true) (none : s.nextStep = none) (power : s.sys.power = true)
    (due : s.dueNow = .none) : step s = .next s.tick := by
  unfold step
  simp [none, power, due, pick_stopped stops]

theorem tick_cycle_stopped (stops : s.sys.lull.stopped s.time = true) : s.tick.cycle = s.cycle := by
  simp [State.tick, stops]
end

end Sys2Proof.Machine
end

section
/-! The statement about a step that runs an event. -/

namespace Sys2Proof.Machine

open Sys2Proof

/-- Settles O2: by what comes next on the agenda (`nextEvent_other`, `nextEvent_lowest`) while the clock runs, by the first event that needs
no clock while it is stopped, and by power. -/
theorem stepRunsTheNextEvent : Obligations.StepRunsTheNextEvent := by
  refine ⟨fun s e r runs first other power => ?_, fun s q k r runs first power waits lowest => ?_,
    fun s e idle power due => step_due (nextStep_idle idle) power due,
    fun s e stops power => ⟨fun found => ?_, fun calm => ⟨step_due (nextStep_calm stops calm) power,
      fun due => ⟨step_stopped stops (nextStep_calm stops calm) power due, tick_cycle_stopped stops⟩⟩⟩,
    fun s off runs calm => step_noPower off fun r next => ?_,
    fun s off stops calm => step_noPower off fun r next => ?_⟩
  · have next : s.nextStep = some (e, r) := by rw [nextStep_running runs, first, nextEvent_other other]
    exact step_takes next power
  · rw [first] at waits lowest
    have next : s.nextStep = some (.cpServePacket k, s.agenda.erase (.cpServePacket k)) := by
      rw [nextStep_running runs, first, nextEvent_lowest waits lowest]
    exact step_takes next (.inl power)
  · have next : s.nextStep = some (e, s.agenda.erase e) := by rw [nextStep_stopped stops, found]; rfl
    exact step_takes next (.inl power)
  · rw [nextStep_running runs] at next
    exact calm (nextEvent_packageReset next)
  · rw [nextStep_stopped stops] at next
    obtain ⟨e, found, same⟩ := Option.map_eq_some_iff.mp next
    rw [(Prod.mk.inj same).1] at found
    exact calm found

end Sys2Proof.Machine
end

section
/-! SUPPORT. The links of the fabric: a port that is written, its acknowledgements and replays, and the flits that it takes (16 R443 to
R446). -/

namespace Sys2Proof.Machine

open Sys2Proof

/-! ### A port (16 R445) -/

/-- The state with `q` as port `n`. -/
def State.withPort (s : State) (n : Nat) (q : Port) : State :=
  { s with sys := { s.sys with ports := NMap.set Port.reset s.sys.ports n q } }

/-- The port once it has taken a flit in order. -/
def Port.taken (q : Port) (x : Flit) : Port := { q with expect := q.expect + 1 }.acked x.ack

theorem Port.acked_all {q : Port} {a : BitVec 12} (all : (q.acked a).unacked = []) : q.acked a = { q with unacked := [] } :=
  congrArg (fun l => { q with unacked := l }) all

section
variable {s : State} {n : Nat} {q : Port}

theorem onPort_eq (s : State) (n : Nat) (f : Port → Port) : s.onPort n f = s.withPort n (f (s.port n)) := rfl

section
variable (wf : NMap.wf Port.reset s.sys.ports = true)
include wf

theorem port_withPort : (s.withPort n q).port n = q := NMap.get_set_same n q wf

theorem onPort_withPort (f : Port → Port) : (s.withPort n q).onPort n f = s.withPort n (f q) := by
  rw [onPort_eq, port_withPort wf]
  unfold State.withPort
  dsimp only
  rw [NMap.set_set n _ _ wf]

/-- A port on which no flit waits sends nothing. -/
theorem flushPort_withPort (quiet : q.waiting = []) : (s.withPort n q).flushPort n = s.withPort n q := by
  unfold State.flushPort
  rw [onPort_withPort wf, quiet, List.foldl_nil, ← quiet]

theorem ackPort_withPort (quiet : q.waiting = []) (a : BitVec 12) : (s.withPort n q).ackPort n a = s.withPort n (q.acked a) := by
  unfold State.ackPort
  rw [onPort_withPort wf]
  exact flushPort_withPort wf quiet

theorem ackPort_quiet (quiet : (s.port n).waiting = []) (a : BitVec 12) : s.ackPort n a = s.withPort n ((s.port n).acked a) := by
  unfold State.ackPort
  rw [onPort_eq]
  exact flushPort_withPort wf quiet

theorem ackPort_taken (quiet : (s.port n).waiting = []) (x : Flit) :
    (s.onPort n fun q => { q with expect := q.expect + 1 }).ackPort n x.ack = s.withPort n ((s.port n).taken x) := by
  rw [onPort_eq]
  exact ackPort_withPort (q := { s.port n with expect := (s.port n).expect + 1 }) wf quiet x.ack

/-! ### Acknowledgements and replays (16 R445) -/

theorem execLinkNak_all {p : BitVec 3} {a : BitVec 12} (quiet : (s.port p.toNat).waiting = [])
    (all : ((s.port p.toNat).acked a).unacked = []) :
    execLinkNak p a s = .next (s.withPort p.toNat { s.port p.toNat with unacked := [] }) := by
  unfold execLinkNak State.resend
  rw [ackPort_quiet wf quiet, port_withPort wf, all, Port.acked_all all]
  rfl

theorem execLinkNak_resends {p : BitVec 3} {a : BitVec 12} (quiet : (s.port p.toNat).waiting = [])
    (left : ((s.port p.toNat).acked a).unacked ≠ []) : execLinkNak p a s =
      .next ((s.withPort p.toNat ((s.port p.toNat).acked a)).replay (16 + p.toNat) (p.toNat / 2) (word (2 ^ 63 + p.toNat))) := by
  unfold execLinkNak State.resend
  rw [ackPort_quiet wf quiet, port_withPort wf, if_neg (by rwa [List.isEmpty_iff])]

theorem execBrulosLinkUp_trained {p : BitVec 3} (served : bitOf (s.rd (rFpstat p.toNat)) 1 = false)
    (quiet : (s.port p.toNat).waiting = []) :
    execBrulosLinkUp p s = .next (s.withPort p.toNat { s.port p.toNat with down := false }) := by
  unfold execBrulosLinkUp
  dsimp only
  rw [if_neg (by rw [served]; nofun), onPort_eq]
  exact congrArg Host.Outcome.next (flushPort_withPort wf quiet)
end

theorem execRetransmitTimeout_idle {p : BitVec 3} (idle : (s.port p.toNat).down = true ∨ (s.port p.toNat).unacked = []) :
    execRetransmitTimeout p s = .next s := by
  unfold execRetransmitTimeout State.resend
  rcases idle with down | acked
  · rw [if_pos down]
  · rw [acked]
    exact congrArg Host.Outcome.next (ite_self s)

theorem execRetransmitTimeout_resends {p : BitVec 3} (up : (s.port p.toNat).down = false) (left : (s.port p.toNat).unacked ≠ []) :
    execRetransmitTimeout p s = .next (s.replay (16 + p.toNat) (p.toNat / 2) (word (2 ^ 63 + p.toNat))) := by
  unfold execRetransmitTimeout State.resend
  rw [if_neg (by rw [up]; nofun), if_neg (by rwa [List.isEmpty_iff])]
end

/-! ### Flits (16 R443 to R445) -/

/-- A flit for this node is delivered: a reply to the access that waits for it, a request to those that wait to be served. -/
def State.deliverFlit (s : State) (x : Flit) : State :=
  match x.body with
  | .reply _ | .replyFault _ => s.remoteReply x
  | .collective _ => s
  | _ => (s.onSys fun y => { y with inbound := y.inbound ++ [x] }).push (.remoteRequest 0)

theorem deliverFlit_request {s : State} {x : Flit} (asks : FlitBody.isRequest x.body = true) :
    s.deliverFlit x = (s.onSys fun y => { y with inbound := y.inbound ++ [x] }).push (.remoteRequest 0) := by
  unfold State.deliverFlit
  cases body : x.body with
  | load | store | atomic | nak | idle => rfl
  | reply | replyFault | collective => rw [body] at asks; nomatch asks

theorem deliverFlit_collective {s : State} {x : Flit} {bs : List Byte} (body : x.body = .collective bs) : s.deliverFlit x = s := by
  unfold State.deliverFlit
  rw [body]

theorem deliverFlit_reply {s : State} {x : Flit} {bs : List Byte} {c : Nat} (body : x.body = .reply bs ∨ x.body = .replyFault c) :
    s.deliverFlit x = s.remoteReply x := by
  unfold State.deliverFlit
  rcases body with data | fault
  · rw [data]
  · rw [fault]

section
variable {s : State} {p : BitVec 3} {x : Flit}

theorem execBrulosFlitReceive_held (held : s.linksHeld (FlitBody.isRequest x.body) = true) (good : Bool) :
    execBrulosFlitReceive p good x s = .next s := if_pos held

section
variable (free : s.linksHeld (FlitBody.isRequest x.body) = false)
include free

theorem execBrulosFlitReceive_bad : execBrulosFlitReceive p false x s = .next (s.control p.toNat .nak) :=
  if_neg (by rw [free]; nofun)

theorem execBrulosFlitReceive_idle (body : x.body = .idle) :
    execBrulosFlitReceive p true x s = .next (s.ackPort p.toNat x.ack) := by
  unfold execBrulosFlitReceive
  dsimp only
  rw [if_neg (by rw [free]; nofun), body]
  rfl

section
variable (notNak : x.body ≠ .nak) (notIdle : x.body ≠ .idle)
include notNak notIdle

theorem execBrulosFlitReceive_disordered (other : x.seq ≠ (s.port p.toNat).expect) :
    execBrulosFlitReceive p true x s = .next (s.control p.toNat .nak) := by
  unfold execBrulosFlitReceive
  dsimp only
  rw [if_neg (by rw [free]; nofun), if_neg nofun]
  split
  · contradiction
  · contradiction
  · exact if_pos (by simp [other])

/-- A flit in order is taken, and delivered or forwarded. -/
theorem execBrulosFlitReceive_ordered (quiet : (s.port p.toNat).waiting = []) (wf : NMap.wf Port.reset s.sys.ports = true)
    (next : x.seq = (s.port p.toNat).expect) : execBrulosFlitReceive p true x s =
      if x.dst.toNat = fld (s.rd rFnode) 0 8 then .next ((s.withPort p.toNat ((s.port p.toNat).taken x)).deliverFlit x)
      else .next ((s.withPort p.toNat ((s.port p.toNat).taken x)).sendFlit x) := by
  unfold execBrulosFlitReceive
  dsimp only
  rw [if_neg (by rw [free]; nofun), if_neg nofun, ackPort_taken wf quiet]
  split
  · contradiction
  · contradiction
  · rw [if_neg (by simp [next])]
    by_cases here : x.dst.toNat = fld (s.rd rFnode) 0 8
    · rw [if_pos here, if_neg (by simp [here])]
      rfl
    · rw [if_neg here, if_pos (by simp [here])]
end
end
end

end Sys2Proof.Machine
end

section
/-! SUPPORT. What answers an access that is out, and requests from other nodes (15 R433, 16 R448). -/

namespace Sys2Proof.Machine

open Sys2Proof

/-! ### The access that waits (15 R433, 16 R448) -/

/-- Access `i` of context `t` has become `e`, and the context goes on with it. -/
def State.settlePend (s : State) (t : Tid) (i : Nat) (e : Pend) : State :=
  { s.onStrand t fun y => { y with pend := y.pend.set i e } with agenda := s.agenda ++ [.memoryReply t 0] }

section
variable {s : State} {t : Tid} {i : Nat} {d : Pend}

theorem settlePend_eq (e : Pend) :
    (s.onStrand t fun y => { y with pend := y.pend.set i e }).push (.memoryReply t 0) = s.settlePend t i e := by
  unfold State.push State.settlePend
  rw [State.onStrand_agenda]

theorem failPend_eq (c : Nat) :
    s.failPend t i d c = s.settlePend t i { d with fail := some c, addr := d.addr + word d.got.length, tag := none } := settlePend_eq _

section
variable {pl : Place} {k : Nat} (one : d.parts = [(pl, k)])
include one

/-- The reply to an access of one part answers it, if it brings all the bytes or the part takes one flit. -/
theorem answerPend_last {bs : List Byte} (all : k ≤ payloadBytes ∨ k ≤ bs.length) :
    s.answerPend t i d bs = s.settlePend t i { d with got := d.got ++ bs, parts := [], tag := none } := by
  rw [← settlePend_eq]
  unfold State.answerPend
  simp only [one, List.tail_cons]
  rcases all with flit | whole
  · rw [if_neg (Nat.not_lt.mpr flit)]
  · rw [Nat.sub_eq_zero_of_le whole]
    split
    · next more => split at more <;> nomatch more
    · rfl

/-! ### Completions from the host (15 R433) -/

section
variable {n : Nat} (waits : s.answered t n = .pend i d)
include waits

theorem hostCompletion_data (v : Word) : execHostCompletion t n .success v s =
    .next ((s.noteReply t.cluster).settlePend t i { d with got := d.got ++ natLe v.toNat k, parts := [], tag := none }) := by
  rw [← answerPend_last one (.inr (natLe_length v.toNat k).ge)]
  simp only [execHostCompletion, waits, one]
end
end

theorem hostFailed_pend {n : Nat} (waits : s.answered t n = .pend i d) (c : Nat) : s.hostFailed t n c =
    (s.noteReply t.cluster).settlePend t i { d with fail := some c, addr := d.addr + word d.got.length, tag := none } := by
  rw [← failPend_eq]
  unfold State.hostFailed
  rw [waits]
end

/-! ### Replies from other nodes (16 R448) -/

section
variable {s : State} {x : Flit} {t : Tid} {i : Nat} {d : Pend}
  (waits : s.boundTids.findSome? (fun c => ((s.strand c).awaits x.tag.toNat).map fun j => (c, j)) = some (t, i))
  (access : (s.strand t).pend[i]? = some d)
include waits access

theorem remoteReply_data {bs : List Byte} (body : x.body = .reply bs) :
    s.remoteReply x = (s.replyBack t.cluster (.flit x.mark)).answerPend t i d bs := by
  simp only [State.remoteReply, waits, access, body]

theorem remoteReply_fault {c : Nat} (body : x.body = .replyFault c) :
    s.remoteReply x = (s.replyBack t.cluster (.flit x.mark)).failPend t i d c := by
  simp only [State.remoteReply, waits, access, body]
end

/-! ### Completions for a posted write and for the system die (13 R399, 14 R409, 15 R433) -/

section
variable {s : State} {t : Tid} {n : Nat}

theorem hostFailed_nothing (subject : s.answered t n = .nothing) (c : Nat) : s.hostFailed t n c = s := by
  unfold State.hostFailed
  rw [subject]

theorem hostFailed_system {tag : Nat} (subject : s.answered t n = .system tag) (c : Nat) :
    s.hostFailed t n c = s.systemReply tag none := by
  unfold State.hostFailed
  rw [subject]

theorem hostFailed_strand {u : Tid} {h tenant raw : Nat} (subject : s.answered t n = .posted (some u) h tenant raw) (c : Nat) :
    s.hostFailed t n c = s.logDie u.die { accessFailure tenant true (0x8000000000000 + h) with
      strand := some u, w3 := word (tenant * 2 ^ 32 + raw % 2 ^ 32) } := by
  unfold State.hostFailed
  rw [subject]

theorem hostFailed_noStrand {h tenant raw : Nat} (subject : s.answered t n = .posted none h tenant raw) (c : Nat) :
    s.hostFailed t n c = s.logDie 0 (accessFailure tenant true (0x8000000000000 + h)) := by
  unfold State.hostFailed
  rw [subject]

theorem hostCompletion_nothing (v : Word) (subject : s.answered t n = .nothing) : execHostCompletion t n .success v s = .next s := by
  simp only [execHostCompletion, subject]

theorem hostCompletion_posted (v : Word) {who : Option Tid} {h tenant raw : Nat} (subject : s.answered t n = .posted who h tenant raw) :
    execHostCompletion t n .success v s = .next s ∧ execHostCompletion t n .poisoned v s = .next s := by
  simp only [execHostCompletion, subject, and_self]

theorem hostCompletion_system (v : Word) {tag : Nat} (subject : s.answered t n = .system tag) :
    execHostCompletion t n .success v s = .next (s.systemReply tag (some (natLe v.toNat 8))) := by
  simp only [execHostCompletion, subject]

section
variable {u : State}

/-- What is poisoned fails but for a posted write, which brings nothing back. -/
theorem hostCompletion_poisoned (v : Word) (back : ∀ who h tenant raw, s.answered t n ≠ .posted who h tenant raw)
    (fails : s.hostFailed t n 0x0D = u) : execHostCompletion t n .poisoned v s = .next u := by
  unfold execHostCompletion
  dsimp only
  split
  · next subject => exact absurd subject (back _ _ _ _)
  · rw [fails]

theorem hostCompletion_fails (v : Word) (fails : s.hostFailed t n 0x0C = u) : execHostCompletion t n .unsupported v s = .next u ∧
    execHostCompletion t n .aborted v s = .next u ∧ execHostCompletionTimeout t n s = .next u := by
  subst fails
  exact ⟨rfl, rfl, rfl⟩
end
end

/-! ### Completion signals (14 R409, R410) -/

/-- The decrement `e` of a completion signal, by tag and launch, is no longer out. -/
def State.endSignal (s : State) (e : Nat × Nat) : State :=
  s.onSys fun y => { y with signals := y.signals.filter fun x => !decide (x = e) }

/-- An answer to no doubleword asked for is one to the decrement of a launch's completion signal. -/
theorem systemReply_signal {s : State} {tag : Nat} {l : Launch} (free : ∀ w ∈ s.sys.far, w.tag ≠ tag)
    (signal : s.sys.signals.find? (fun e => decide (e.1 = tag)) = some (tag, l.id))
    (launch : s.sys.launches.find? (fun (m : Launch) => decide (m.id = l.id)) = some l) (r : Option (List Byte)) :
    s.systemReply tag r =
      if r.isSome then (s.endSignal (tag, l.id)).reported l else (s.endSignal (tag, l.id)).unreported l := by
  have none : (s.sys.far.any fun (w : FarWord) => decide (w.tag = tag) && w.answer.isNone) = false :=
    List.any_eq_false.mpr fun w hw => by simp [free w hw]
  unfold State.systemReply State.signalReply
  rw [if_neg (by rw [none]; nofun), signal]
  dsimp only [State.onSys]
  rw [launch]
  rfl

/-! ### Requests from other nodes (16 R443, R448) -/

/-- Request `n` has been served: it is gone, and the flits of its reply are sent. -/
def State.replyTo (s : State) (n : Nat) (x : Flit) (b : FlitBody) : State :=
  (FlitBody.flits b (FlitBody.size b)).foldl (fun (u : State) c => u.sendFlit
    { dst := x.src, src := x.dst, tenant := x.tenant, mark := x.mark, tag := x.tag, seq := 0, ack := 0, body := c })
    (s.onSys fun y => { y with inbound := y.inbound.eraseIdx n })

section
variable {s : State} {n : Nat} {x : Flit}

theorem remoteRequest_none (none : s.sys.inbound[n]? = .none) : execRemoteRequest n s = .next s := by
  unfold execRemoteRequest
  rw [none]

section
variable (here : s.sys.inbound[n]? = some x)
include here

theorem remoteRequest_behind (earlier : ∃ y ∈ s.sys.inbound.take n, s.sameLine y x = true) : execRemoteRequest n s = .next s := by
  unfold execRemoteRequest
  rw [here]
  exact if_pos (List.any_eq_true.mpr earlier)

section
variable (first : ∀ y ∈ s.sys.inbound.take n, s.sameLine y x = false)
include first

theorem remoteRequest_waits (waits : s.serveRemote x = none) : execRemoteRequest n s = .next (s.keep (.remoteRequest n)) := by
  unfold execRemoteRequest
  rw [here]
  dsimp only
  rw [if_neg (by simpa using first), waits]

theorem remoteRequest_served {u : State} {b : FlitBody} (served : s.serveRemote x = some (u, b)) :
    execRemoteRequest n s = .next (u.replyTo n x b) := by
  unfold execRemoteRequest
  rw [here]
  dsimp only
  rw [if_neg (by simpa using first), served]
  rfl
end
end

theorem serveRemote_closed
    (closed : bitOf (s.rd (rFrt x.src.toNat)) 35 = false ∨ bitOf (s.rd (rFrt x.src.toNat)) x.tenant.toNat = false) :
    s.serveRemote x = some (s, .replyFault 0x0C) := by
  refine if_pos ?_
  rcases closed with node | tenant
  · simp [node]
  · simp [tenant]

section
variable {va : Word} {b : Agent} (agent : b = Flit.agent x) (node : bitOf (s.rd (rFrt x.src.toNat)) 35 = true)
  (tenant : bitOf (s.rd (rFrt x.src.toNat)) x.tenant.toNat = true)
include agent node tenant

section
variable {k : Nat} {ps : List (Place × Nat)} {u : State} (body : x.body = .load va k) (places : s.resolve b .load va k = .ok ps)
  (near : (ps.any fun q => q.1.far) = false) (free : s.partsHeld b ps = false)
include body places near free

theorem serveRemote_load {bs : List Byte} (reads : (s.noteAccess b va (ps.map Prod.snd)).readParts b false va ps = (u, .ok bs)) :
    s.serveRemote x = some (u, .reply bs) := by
  subst agent
  simp only [State.serveRemote, node, tenant, body, places, near, free, reads]
  rfl

theorem serveRemote_load_poisoned {e : Word}
    (reads : (s.noteAccess b va (ps.map Prod.snd)).readParts b false va ps = (u, .error e)) :
    s.serveRemote x = some (u, .replyFault 0x0D) := by
  subst agent
  simp only [State.serveRemote, node, tenant, body, places, near, free, reads]
  rfl
end

theorem serveRemote_store {bs : List Byte} {ps : List (Place × Nat)} (body : x.body = .store va bs)
    (places : s.resolve b (.store (word (leNat bs))) va bs.length = .ok ps) (near : (ps.any fun q => q.1.far) = false)
    (free : (ps.any fun q => s.linkHeld b q.1) = false) :
    s.serveRemote x = some ((s.noteAccess b va (ps.map Prod.snd)).writeParts b false ps bs, .reply []) := by
  subst agent
  simp only [State.serveRemote, node, tenant, body, places, near, free]
  rfl

section
variable {k m : Nat} {op : VAmoOp} {y cmp : Word} {pl : Place} {u : State} (body : x.body = .atomic va k (some op) y cmp)
  (place : s.resolve b (.amo op y) va k = .ok [(pl, m)]) (near : pl.far = false) (free : s.atomicHeld b pl = false)
include body place near free

theorem serveRemote_atomic {old : List Byte} (performs : (s.noteAccess b va [k]).atomicAt b pl (.amo k op y) = (u, .ok old)) :
    s.serveRemote x = some (u, .reply old) := by
  subst agent
  simp only [State.serveRemote, node, tenant, body, place, near, free, performs]
  rfl

theorem serveRemote_atomic_fails {c : Nat} (performs : (s.noteAccess b va [k]).atomicAt b pl (.amo k op y) = (u, .error c)) :
    s.serveRemote x = some (u, .replyFault c) := by
  subst agent
  simp only [State.serveRemote, node, tenant, body, place, near, free, performs]
  rfl
end
end
end

end Sys2Proof.Machine
end

section
/-! The statement about the fabric and completions. -/

namespace Sys2Proof.Machine

open Sys2Proof

theorem any_eq_false_of_forall {α : Type} {l : List α} {f : α → Bool} (none : ∀ a ∈ l, f a = false) : l.any f = false :=
  List.any_eq_false.mpr fun a ha => by rw [none a ha]; nofun

/-- Settles O58: each clause by the lemma about its event. A port of a table in canonical form on which no flit waits only takes what is
written to it (`ackPort_quiet`), and a reply or a completion settles the one access that waits for it (`answerPend_last`, `failPend_eq`). -/
theorem fabricAndCompletionEventsTakeEffect : Obligations.FabricAndCompletionEventsTakeEffect := by
  rintro s p x a t n _ rfl
  refine ⟨?_, ?_, ?_, ?_, ?_, ?_, ?_, ?_, ?_, ?_⟩
  · intro put src no nak left u
    refine ⟨execBrulosFlitReceive_held, fun free => ⟨execBrulosFlitReceive_bad free, execBrulosFlitReceive_disordered free,
      fun quiet wf => ⟨fun idle => ?_, fun notNak notIdle next => ?_⟩⟩⟩
    · exact (execBrulosFlitReceive_idle free idle).trans (congrArg _ (ackPort_quiet wf quiet x.ack))
    · have taken := execBrulosFlitReceive_ordered free notNak notIdle quiet wf next
      refine ⟨fun away => taken.trans (if_neg away), fun here => ?_⟩
      have delivered := taken.trans (if_pos here)
      exact ⟨fun asks => delivered.trans (congrArg _ (deliverFlit_request asks)),
        fun bs body => delivered.trans (congrArg _ (deliverFlit_collective body)),
        fun bs c body => delivered.trans (congrArg _ (deliverFlit_reply body))⟩
  · intro i d pl k waits access one fits v put
    refine ⟨fun bs body => ?_, fun c body => ?_⟩
    · exact (remoteReply_data waits access body).trans (answerPend_last one (.inl fits))
    · exact (remoteReply_fault waits access body).trans (failPend_eq c)
  · intro put left quiet wf
    exact ⟨execLinkNak_all wf quiet, execLinkNak_resends wf quiet⟩
  · exact ⟨execRetransmitTimeout_idle, fun up left early =>
      (execRetransmitTimeout_resends up left).trans (congrArg _ (replay_counts _ _ early))⟩
  · intro put w
    exact ⟨rfl, fun failed => if_pos failed, fun served quiet wf => execBrulosLinkUp_trained wf served quiet, rfl⟩
  · refine ⟨remoteRequest_none, fun here => ⟨remoteRequest_behind here, fun first => ?_⟩⟩
    exact ⟨fun closed => remoteRequest_served here first (serveRemote_closed closed), fun u b => remoteRequest_served here first,
      remoteRequest_waits here first⟩
  · intro b node tenant
    refine ⟨fun va k ps u r body places near free reads => ?_, fun va bs ps body places near free => ?_,
      fun va k op y cmp pl m u r body place near free performs => ?_⟩
    · have near := any_eq_false_of_forall near
      cases r with
      | ok bs => exact serveRemote_load rfl node tenant body places near free reads
      | error e => exact serveRemote_load_poisoned rfl node tenant body places near free reads
    · exact serveRemote_store rfl node tenant body places (any_eq_false_of_forall near) (any_eq_false_of_forall free)
    · cases r with
      | ok old => exact serveRemote_atomic rfl node tenant body place near free performs
      | error c => exact serveRemote_atomic_fails rfl node tenant body place near free performs
  · intro i d pl k v waits one u put fails
    exact ⟨hostCompletion_data one waits v, hostCompletion_poisoned v (by rw [waits]; nofun) (hostFailed_pend waits 0x0D),
      hostCompletion_fails v (hostFailed_pend waits 0x0C)⟩
  · intro v
    refine ⟨fun subject => ?_, fun who h tenant raw subject => ?_, fun tag subject => ?_⟩
    · obtain ⟨-, late⟩ := hostCompletion_fails v (hostFailed_nothing subject 0x0C)
      exact ⟨hostCompletion_nothing v subject, hostCompletion_poisoned v (by rw [subject]; nofun) (hostFailed_nothing subject 0x0D),
        late⟩
    · obtain ⟨success, poisoned⟩ := hostCompletion_posted v subject
      refine ⟨success, poisoned, ?_⟩
      cases who with
      | some c => exact hostCompletion_fails v (hostFailed_strand subject 0x0C)
      | none => exact hostCompletion_fails v (hostFailed_noStrand subject 0x0C)
    · obtain ⟨-, late⟩ := hostCompletion_fails v (hostFailed_system subject 0x0C)
      exact ⟨hostCompletion_system v subject, hostCompletion_poisoned v (by rw [subject]; nofun) (hostFailed_system subject 0x0D),
        late⟩
  · intro tag l bs free signal launch u
    exact ⟨systemReply_signal free signal launch (some bs), systemReply_signal free signal launch none⟩

end Sys2Proof.Machine
end
